-- ==== Sys2Proof/Word.lean ====
section
/-! DEFINITION. The words of the Aelvo: bytes, 64-bit structure words (R7, R8), sparse tables, exact fractions. -/

namespace Sys2Proof

/-- A byte (R7). -/
abbrev Byte := BitVec 8

/-- A 64-bit word of a descriptor, command, packet or record (R8). -/
abbrev Word := BitVec 64

/-- A sparse table: (key, value) pairs with strictly rising keys, no pair holding the table's default value. -/
abbrev Tab (α : Type) := List (Nat × α)

/-- An exact fraction, kept in lowest terms by its operations; the denominator is positive. The rules of R359 to R366 compute
in exact reals, so the model does too. -/
structure Frac where
  num : Int
  den : Nat
  deriving DecidableEq, Repr

end Sys2Proof
end

