-- ==== Sys2Proof/Syntax.lean ====
section
/-! DEFINITION. The commands of the block: one constructor per row of spec/opcode_table.json, with the operands the outside
supplies. The package's own state supplies everything else. -/

namespace Sys2Proof

/-- Who made a dictionary request: a management session (R435) or a mailbox channel (R454). -/
inductive Via where
  | mgmt (session : Nat)
  | mailbox (channel : Nat)
  deriving DecidableEq, Repr

/-- A fabric packet of R196: the eight words of its header flit (R197) and its payload bytes, 64 to a payload flit. -/
structure Packet where
  hdr : List Word
  payload : List Byte
  deriving DecidableEq, Repr

/-- The reference tone as the input monitor reports it: depth in 0.01% (R225) and offset from 156.25 MHz in ppb (R28). -/
structure Tone where
  depth : Nat
  offsetPpb : Int
  deriving DecidableEq, Repr

/-- The head of an inbound packet at a tile (R111): source chip, first scratchpad byte, length, and what it asks. -/
structure TileHead where
  src : Nat
  addr : Nat
  len : Nat
  write : Bool
  atomic : Bool
  scheduled : Bool
  deriving DecidableEq, Repr

/-- What a regulator sees of a request (R160, R161): its identifier, first byte and length, and whether it is a doorbell of a queue or an update of a
semaphore. -/
structure RegRequest where
  id : Nat
  addr : Nat
  bytes : Nat
  door : Bool := false
  deriving DecidableEq, Repr

/-- The monitor readings of one ring over the 64 sweep points of a fitting pass (R233), as linear power in units of the
monitor; an empty list when the monitor receives no light (R234). -/
structure RingSweep where
  readings : List Nat
  deriving DecidableEq, Repr

/-- One 10 µs sense sample (R356): 101 tap codes in units of 0.1 W, package input in mW, signed input current in mA, the
nine rail voltages in mV. -/
structure Sample where
  taps : List (BitVec 16)
  inputMv : Nat
  inputMa : Int
  coreMa : Int
  rails : List Nat
  deriving DecidableEq, Repr

/-- What a finished self-test reports (R407). -/
structure SelfTest where
  ports : Nat
  banks : Bool
  arrays : Bool
  tables : Bool
  zero : Bool
  deriving DecidableEq, Repr

/-- A firmware image as the checks of R415 see it: SHA-384 of its public key, whether its signature verifies, its SVN,
its build and the SHA-384 of the image. -/
structure FwImage where
  keyHash : List Byte
  sigOk : Bool
  svn : Nat
  build : Nat
  digest : List Byte
  deriving DecidableEq, Repr

/-- A KDP message (R446): the three header words and its data bytes, and the length of the datagram that carried it. -/
structure Kdp where
  w0 : Word
  w1 : Word
  w2 : Word
  data : List Byte
  deriving DecidableEq, Repr

/-- A welt flit (R387): payload words W0 to W7, then W8 and W9. -/
structure WeltFlit where
  words : List Word
  deriving DecidableEq, Repr

/-- The commands. Lane operands name the physical eyelet and the lane; tile operands name the logical tile unless said
otherwise; `via` names who wrote or read a dictionary entry. `unsampledMw` is the mean input power of a window in which no sample fell, for which
the spec states no value (log 77). -/
inductive Instr where
  -- reference loop and time
  | toneDetected (tone : Tone)
  | refLockAcquired (offsetPpb : Int)
  | toneLostInAcquire
  | refHoldoverEntry
  | refHoldoverRecovery (tone : Tone)
  | refLost
  | refReacquire (tone : Tone)
  | beatTick
  | wallAnchorWrite (via : Via) (ns : Nat)
  | readyReceived (p : Packet)
  | go (eyelet lane slot : Nat)
  | goRelay
  | syncTimeout
  | launchBeatReached
  -- beat records and the tile's units
  | idle (tile : Nat)
  | pass (tile array entry : Nat)
  | passStreamStart (tile array : Nat)
  | passComplete (tile array : Nat)
  | func (tile entry : Nat)
  | rowFuncComplete (tile : Nat)
  | vectorOpComplete (tile : Nat)
  | copyRecord (tile stitcher desc : Nat)
  | window (tile slot action image : Nat)
  | laceRecord (tile entry : Nat)
  | arrive (tile group : Nat)
  | signalRecord (tile sem : Nat)
  | inboundPacketHead (tile : Nat) (h : TileHead)
  | tileZeroiseDone (phys : Nat) (ok : Bool) (cycles : Nat)
  -- Stitchers and translation
  | queueCopyStart (tile stitcher : Nat)
  | privilegedCopyStart (n block : Nat)
  | txBufferPlace (ctx : Nat)
  | copyComplete (ctx : Nat)
  | copyDeadlineMissed (ctx : Nat)
  | xlateInvalidate (via : Via) (v : Nat)
  | xlateRootWrite (via : Via) (v : Nat)
  -- memory
  | frameStart (stack pc sched maint : Nat) (unsched : List Nat)
  | patrolScrubRead (symbolErrors position : Nat) (newerWrite : Bool)
  | hbmScrubDone (us : Nat) (failedStack : Option Nat)
  | regulatorArrival (die now : Nat) (r : RegRequest)
  | regulatorAdmit (die part now : Nat)
  | regulatorHoldExpiry (die part now : Nat)
  | partitionCommit (via : Via) (v : Nat)
  | homeSliceWrite (addr : Nat) (data : List Byte) (enables : Nat)
  | atomic (addr op width : Nat) (value compare : Word)
  | accStore (addr fmt : Nat) (data : List Byte) (enables : Nat)
  -- fabric
  | packetSend (dst : Nat)
  | packetArrival (eyelet lane nowUs : Nat) (p : Packet)
  | reorderHoldExpiry (src : Nat)
  | acknowledgement (src : Nat)
  | ackReceived (p : Packet)
  | ackTimeout (dst : Nat)
  | schedBlockRelease (eyelet lane pos : Nat) (schedBeat : Nat) (data : List Byte)
  -- routing
  | routeHead (port vc cls : Nat)
  | routeWaitRetry (port vc cls : Nat)
  | headGrant (eyelet lane vc cls : Nat)
  | routeShadowWrite (via : Via) (v : List Byte)
  | routeEntryWrite (via : Via) (v : Nat)
  | routeCopy (via : Via) (v : Nat)
  | routeSwapRelease (via : Via)
  | routeSwapHold (via : Via)
  | routeSwapExchange
  | swapDrainTimeout
  | routeRelease (via : Via) (v : Nat)
  | routeHoldExpiry
  -- lasers and ring tuning
  | laserMeasurement (die : Nat) (aCdbm bCdbm : Int) (depths : Nat × Nat) (txCdbm : List Int)
  | laserInputLost (die input : Nat)
  | laserSwitchComplete (die : Nat)
  | laserDarkRecovery (die : Nat)
  | laserRevert (die : Nat)
  | laserSelectReq (via : Via) (die v : Nat)
  | fitPassStart (eyelet lane : Nat)
  | fitSolve (eyelet lane : Nat) (mod flt : RingSweep)
  | fitCheckEnd (eyelet lane : Nat) (ok : Bool) (phaseStep : Int)
  | fitPassEnd (eyelet lane : Nat)
  | tableStale (eyelet lane ageMs : Nat)
  | fullSearch (via : Via) (eyelet v : Nat)
  | fullSearchDone (eyelet : Nat) (found : List (List (Nat × Nat)))
  -- lanes
  | laneBlockSlot (eyelet lane pos : Nat)
  | laneBlockReceived (eyelet lane : Nat) (block : List Byte)
  | replayTimeout (eyelet lane : Nat)
  | mendExhausted (eyelet lane : Nat)
  | slackExpiry (eyelet lane bsn : Nat)
  | trainStart (eyelet lane : Nat)
  | signalDetected (eyelet lane : Nat) (cdbm : Int)
  | phaseScanDone (eyelet lane : Nat) (clean : List Bool)
  | alignDone (eyelet lane : Nat)
  | alignTimeout (eyelet lane : Nat)
  | echo (eyelet lane stamp turnaroundPs : Nat)
  | echoReply (eyelet lane stamp roundTripPs turnaroundPs : Nat)
  | latencySet (eyelet lane : Nat)
  | echoTimeout (eyelet lane : Nat)
  | beaconReceived (eyelet lane : Nat) (b : List Word)
  | linkReady (eyelet lane : Nat)
  | quarantineTimeout (eyelet lane : Nat)
  | trainRetry (eyelet lane : Nat)
  | pause (eyelet lane dir target : Nat)
  | resume (eyelet lane dir target : Nat)
  | pauseTimeout (eyelet lane : Nat)
  | beaconTimer (eyelet lane : Nat)
  | planCommit (via : Via) (v : Nat)
  -- the Last
  | loadLast (queue id : Nat)
  | loadVerify
  | launch (queue id : Nat)
  | lastUnload (via : Via) (slot : Nat)
  | stepStart
  | snapshotComplete
  | pacePoint (unsampledMw : Int)
  | stretchApply
  | lastEnd
  | endingDone
  -- queues, semaphores, Lace
  | queueDoorbell (queue : Nat)
  | queueEnable (via : Via) (queue : Nat)
  | queueDisable (via : Via) (queue : Nat)
  | queueResume (via : Via) (queue : Nat)
  | queueDrained (queue : Nat)
  | commandStart (engine : Nat)
  | copy (queue id : Nat)
  | fill (queue id : Nat)
  | fence (queue id : Nat)
  | signal (queue id : Nat)
  | wait (queue id : Nat)
  | waitTimeout (queue id : Nat)
  | barrier (queue id : Nat)
  | reduceScalar (queue id : Nat)
  | timestamp (queue id : Nat)
  | snapshot (queue id : Nat)
  | tryOn (queue id : Nat)
  | commandComplete (queue id : Nat)
  | mgmtCommand (via : Via) (bytes : List Byte)
  | laceMessageReceived (eyelet lane pos schedBeat : Nat) (msg : List Word)
  | laceDeadlineMissed (tile entry : Nat)
  | lacePacket (p : Packet)
  | laceTimeout (set : Nat)
  | laceTakeover
  | laceEnable (via : Via) (set v : Nat)
  | bulkCopy (src : Nat) (remote : Bool) (len dst : Nat)
  | bulkDigest (src : Nat) (remote : Bool) (len set : Nat)
  -- power, heat
  | senseSample (x : Sample)
  | senseOpen (die : Nat)
  | returnCheck
  | dieDead (die : Nat)
  | modelStep
  | coolantWrite (via : Via) (mc : Int)
  | coolantStale
  | thermalEval (diodesMc : List (Nat × Int))
  | thermalRelease (via : Via) (v : Nat)
  | governorBeat (measuredMa inputMa : Nat) (reversed : Bool)
  | powerWindow (unsampledMw : Int)
  | pwrOkFall
  | pwrOkRise (straps slotId msSinceStep0 : Nat)
  | railFault (rail : Nat) (high : Bool)
  -- welts and self-test
  | weltFlitReceived (die port : Nat) (f : WeltFlit)
  | weltTrainingDone (die port failed : Nat) (oneHalf timedOut commonRev : Bool)
  | weltRetry (die port : Nat)
  | weltRetrain (die port : Nat)
  | heartbeat (die : Nat)
  | weltSelftest (via : Via) (phys : Nat)
  | selftestDone (r : SelfTest)
  -- tenancy, firmware, keys
  | peerSetWrite (via : Via) (v : List Byte)
  | tenantChange (via : Via) (v : List Byte)
  | tenantChangeComplete (us : Nat)
  | fwImageStage (via : Via) (img : FwImage)
  | fwActivate (via : Via) (v : Nat)
  | fwActivationDone (components : List (List Byte))
  | fwRollbackCommit (via : Via) (v : Nat)
  | attestNonce (via : Via) (nonce : List Byte)
  | keySlotWrite (via : Via) (env : List Byte)
  | keySlotErase (via : Via) (slot : Nat)
  | pendingKeyReplace (slot : Nat)
  | sealInstall (via : Via) (v : List Byte)
  | installDone
  | sealStart (eyelet lane : Nat) (payload : List Word)
  | sealTag (eyelet lane : Nat) (w0 w1 : Word) (rest : List Word)
  | sealTagTimeout (eyelet lane window : Nat)
  | mgmtAnchorsWrite (via : Via) (v : List (List Byte))
  -- the dictionary protocol
  | read (via : Via) (m : Kdp)
  | write (via : Via) (m : Kdp)
  | describe (via : Via) (m : Kdp)
  | openRead (via : Via) (m : Kdp)
  | openWrite (via : Via) (m : Kdp)
  | segRead (via : Via) (m : Kdp)
  | segWrite (via : Via) (m : Kdp)
  | close (via : Via) (m : Kdp)
  | sessionTimeout (session : Nat)
  | memReadData (via : Via) (m : Kdp)
  | mailboxDoorbell (channel srcChip : Nat)
  | alertAck (via : Via) (v : Nat)
  | alertSample (high : Bool)
  | alertStuck
  | alertLineEnable (via : Via) (v : Nat) (tenHigh : Bool)
  | notify
  -- reset and bring-up
  | rstN
  | restartRequest (via : Via) (v : Nat)
  | coldReset
  | romBootDone (banks : List FwImage) (components : List (List Byte))
  | recoveryImage (img : FwImage) (components : List (List Byte))
  | diesDone (clearOk : List Nat) (ms : Nat)
  | memoryClearDone (us : Nat) (failedStack : Option Nat) (clearOk : List Nat) (ms : Nat)
  | bringupTimeout
  | calibFlashWrite (ok : Bool)
  | tileFenceReq (via : Via) (phys : Nat)
  | exclusionClear (via : Via) (v : Nat)
  -- faults, rollback, try-on
  | fault (p : Packet)
  | coordinatorRollback
  | rollback (p : Packet)
  | rollbackWaitExpiry
  | restoreDone (ok : Bool)
  | treadReplayInput
  | replayEnd
  | snapshotRestore (via : Via) (v : List Byte)
  | faultEpochWrite (via : Via) (v : Nat)
  | faultAck (via : Via) (chip : Nat)
  | reportHoldoffExpiry
  | peerLost (chip : Nat)
  | tryonTimer
  | tryonInject
  | tryonRecoveryTimeout
  -- trace and tread
  | traceBlock
  | traceLostRecord
  | beatMark
  | digestEmit (tile : Nat)
  | treadFreeze (via : Via)
  | treadUnfreeze (via : Via)
  | treadExportChunk (via : Via)
  | treadReplay (via : Via) (v : List Byte)
  -- pins, links and hand-overs
  | rstNRelease (writebackUs : Nat)
  | mgmtLinkUp
  | mgmtLinkSyncLost
  | dtlsHandshake (chainOk : Bool) (anchor : Option (List Byte))
  | dtlsSessionClose (session : Nat)
  | icmpv6Request (target : List Byte) (echo : Bool)
  | cobblerTakeover
  | aonPowerLoss
  | snapshotRestoreDone (ok : Bool)
  | attestReportReady
  deriving DecidableEq, Repr

end Sys2Proof
end

