-- ==== Sys2Proof/Decode.lean ====
section
/-! DEFINITION. Decoding a table word. The rows of spec/opcode_table.json give the commands no bits (the block has no instruction
encoding: its commands are events and register accesses), so no word spells a command. -/

namespace Sys2Proof

/-- The command that a word of the table's bits spells: none, because no row of the table has bits. -/
def decodeTableWord (_nbits _w : Nat) : Option Instr := none

end Sys2Proof
end

