-- ==== Sys2Proof/Machine/Operands.lean ====
section
/-! DEFINITION. Fields of words, little-endian bytes (R7, R8), lists of words, sparse tables, exact fractions. -/

namespace Sys2Proof.Machine

/-! ### Bits and bytes -/

/-- Bits `hi` down to `lo` of a number. -/
def bits (n hi lo : Nat) : Nat := n / 2 ^ lo % 2 ^ (hi + 1 - lo)

/-- Bits `hi` down to `lo` of a word (R8). -/
def fld (w : Word) (hi lo : Nat) : Nat := bits w.toNat hi lo

/-- Bit `i` of a word. -/
def bit (w : Word) (i : Nat) : Bool := w.toNat.testBit i

/-- A field value placed at bit `lo`, cut to `width` bits. -/
def at' (v width lo : Nat) : Nat := v % 2 ^ width * 2 ^ lo

/-- A word from the sum of its placed fields. -/
def word (n : Nat) : Word := BitVec.ofNat 64 n

/-- The `k` bytes of a number, least significant first (R7). -/
def leBytes : Nat → Nat → List Byte
  | 0, _ => []
  | k + 1, n => BitVec.ofNat 8 n :: leBytes k (n / 256)

/-- The number that bytes spell, least significant first (R7). -/
def leNat : List Byte → Nat
  | [] => 0
  | b :: bs => b.toNat + 256 * leNat bs

/-- Word `i` of a byte string (R8); bytes past the end read 0. -/
def wordAt (bs : List Byte) (i : Nat) : Word := word (leNat ((bs.drop (8 * i)).take 8))

/-- The first `n` words of a byte string. -/
def wordsOf (bs : List Byte) (n : Nat) : List Word := (List.range n).map (wordAt bs)

/-- The bytes of a list of words. -/
def bytesOf : List Word → List Byte
  | [] => []
  | w :: ws => leBytes 8 w.toNat ++ bytesOf ws

/-- Word `i` of a list of words; 0 past its end. -/
def nth (ws : List Word) (i : Nat) : Word := ws.getD i 0

/-- `n` copies of a byte. -/
def zeros (n : Nat) : List Byte := List.replicate n 0

/-- A byte string cut or padded with zeros to `n` bytes. -/
def padTo (n : Nat) (bs : List Byte) : List Byte := bs.take n ++ zeros (n - bs.length)

/-- The two's-complement value of a `w`-bit number. -/
def signed (w n : Nat) : Int := if n % 2 ^ w < 2 ^ (w - 1) then (n % 2 ^ w : Nat) else (n % 2 ^ w : Nat) - (2 ^ w : Nat)

/-- The `w`-bit two's complement of an integer. -/
def unsigned (w : Nat) (i : Int) : Nat := (i % (2 ^ w : Nat)).toNat

/-- Ceiling division; 0 for divisor 0. -/
def cdiv (a b : Nat) : Nat := if b = 0 then 0 else (a + b - 1) / b

/-- An integer held to a closed range. -/
def clampI (lo hi x : Int) : Int := if x < lo then lo else if hi < x then hi else x

/-! ### Sparse tables -/

/-- The value a table lists for a key. -/
def tget? {α : Type} : Tab α → Nat → Option α
  | [], _ => none
  | (k, v) :: t, i => if i = k then some v else tget? t i

/-- The value of a key, `d` where the table lists none. -/
def tget {α : Type} (d : α) (t : Tab α) (i : Nat) : α := (tget? t i).getD d

/-- List a value for a key, keeping keys rising. -/
def tput {α : Type} : Tab α → Nat → α → Tab α
  | [], i, v => [(i, v)]
  | (k, u) :: t, i, v => if i < k then (i, v) :: (k, u) :: t else if i = k then (i, v) :: t else (k, u) :: tput t i v

/-- Remove a key. -/
def tdel {α : Type} : Tab α → Nat → Tab α
  | [], _ => []
  | (k, u) :: t, i => if i = k then t else (k, u) :: tdel t i

/-- Write a key: a value equal to the default leaves the table. -/
def tset {α : Type} [DecidableEq α] (d : α) (t : Tab α) (i : Nat) (v : α) : Tab α := if v = d then tdel t i else tput t i v

/-- Apply a function to the value of a key. -/
def tmod {α : Type} [DecidableEq α] (d : α) (t : Tab α) (i : Nat) (f : α → α) : Tab α := tset d t i (f (tget d t i))

/-- Strictly rising keys: the canonical form of a table. -/
def sorted {α : Type} : List (Nat × α) → Bool
  | [] => true
  | [_] => true
  | (i, _) :: (j, v) :: t => i < j && sorted ((j, v) :: t)

/-! ### Exact fractions -/

/-- A fraction in lowest terms with a positive denominator; denominator 0 is read as 1. -/
def frac (n : Int) (d : Nat) : Frac :=
  if d = 0 then ⟨n, 1⟩ else let g := Nat.gcd n.natAbs d; ⟨n / (g : Int), d / g⟩

def Frac.ofInt (n : Int) : Frac := ⟨n, 1⟩
def fadd (a b : Frac) : Frac := frac (a.num * b.den + b.num * a.den) (a.den * b.den)
def fneg (a : Frac) : Frac := ⟨-a.num, a.den⟩
def fsub (a b : Frac) : Frac := fadd a (fneg b)
def fmul (a b : Frac) : Frac := frac (a.num * b.num) (a.den * b.den)

/-- Quotient; the spec divides by positive values only, and a zero divisor gives 0 here. -/
def fdiv (a b : Frac) : Frac :=
  if b.num = 0 then ⟨0, 1⟩ else frac (a.num * b.den * (if b.num < 0 then -1 else 1)) (a.den * b.num.natAbs)

def fle (a b : Frac) : Bool := a.num * b.den ≤ b.num * a.den
def flt (a b : Frac) : Bool := a.num * b.den < b.num * a.den

/-- Nearest integer, halves to even (R60). -/
def fround (a : Frac) : Int :=
  let f := a.num / (a.den : Int)
  let r := a.num % (a.den : Int)
  if 2 * r < a.den then f else if 2 * r > a.den then f + 1 else if f % 2 = 0 then f else f + 1

/-- Least integer not below the fraction. -/
def fceil (a : Frac) : Int := -((-a.num) / (a.den : Int))

end Sys2Proof.Machine
end

