-- ==== Sys2Proof/Machine/Hash.lean ====
section
/-! DEFINITION. The hashes the spec names by their standards: SHA-384 (R277, R289, R415 to R422) and CRC-32C (R446). -/

namespace Sys2Proof.Machine

/-- The greatest `r + x` with `x < 2^b` whose `k`-th power is at most `n`. -/
def rootFrom (k n : Nat) : Nat → Nat → Nat
  | 0, r => r
  | b + 1, r => rootFrom k n b (if (r + 2 ^ b) ^ k ≤ n then r + 2 ^ b else r)

/-- The first 64 bits of the fraction of the `k`-th root of a number below 512. -/
def rootFraction (k p : Nat) : BitVec 64 := BitVec.ofNat 64 (rootFrom k (p * 2 ^ (64 * k)) 69 0)

/-- The first 80 primes. -/
def shaPrimes : List Nat := (List.range 410).filter (fun n => decide (2 ≤ n) && (List.range 21).all (fun d => decide (d < 2 ∨ n ≤ d) || n % d != 0))

/-- FIPS 180-4: the round constants are the fractions of the cube roots of the first 80 primes. -/
def shaK : List (BitVec 64) := shaPrimes.map (rootFraction 3)

/-- FIPS 180-4: the initial words of SHA-384 are the fractions of the square roots of the ninth to the sixteenth prime. -/
def shaH : List (BitVec 64) := ((shaPrimes.drop 8).take 8).map (rootFraction 2)

/-- The number that bytes spell, most significant first. -/
def beNat (bs : List Byte) : Nat := bs.foldl (fun n b => 256 * n + b.toNat) 0

/-- The `k` bytes of a number, most significant first. -/
def beBytes (k n : Nat) : List Byte := (leBytes k n).reverse

def shaS0 (x : BitVec 64) : BitVec 64 := x.rotateRight 28 ^^^ x.rotateRight 34 ^^^ x.rotateRight 39
def shaS1 (x : BitVec 64) : BitVec 64 := x.rotateRight 14 ^^^ x.rotateRight 18 ^^^ x.rotateRight 41
def shas0 (x : BitVec 64) : BitVec 64 := x.rotateRight 1 ^^^ x.rotateRight 8 ^^^ x >>> 7
def shas1 (x : BitVec 64) : BitVec 64 := x.rotateRight 19 ^^^ x.rotateRight 61 ^^^ x >>> 6

/-- The message schedule: 16 words extended to 80, newest first while it grows. -/
def shaSched : Nat → List (BitVec 64) → List (BitVec 64)
  | 0, w => w.reverse
  | n + 1, w => shaSched n ((shas1 (w.getD 1 0) + w.getD 6 0 + shas0 (w.getD 14 0) + w.getD 15 0) :: w)

/-- One round. -/
def shaRound (v : List (BitVec 64)) (kw : BitVec 64) : List (BitVec 64) :=
  match v with
  | [a, b, c, d, e, f, g, h] =>
    let t1 := h + shaS1 e + ((e &&& f) ^^^ (~~~e &&& g)) + kw
    let t2 := shaS0 a + ((a &&& b) ^^^ (a &&& c) ^^^ (b &&& c))
    [t1 + t2, a, b, c, d + t1, e, f, g]
  | v => v

/-- One 128-byte block. -/
def shaBlock (h : List (BitVec 64)) (m : List Byte) : List (BitVec 64) :=
  let w := (List.range 16).map (fun i => BitVec.ofNat 64 (beNat ((m.drop (8 * i)).take 8)))
  let ws := shaSched 64 w.reverse
  let v := (List.zipWith (· + ·) shaK ws).foldl shaRound h
  List.zipWith (· + ·) h v

/-- The blocks of a padded message, by a fuel of their number. -/
def shaBlocks : Nat → List (BitVec 64) → List Byte → List (BitVec 64)
  | 0, h, _ => h
  | n + 1, h, m => shaBlocks n (shaBlock h (m.take 128)) (m.drop 128)

/-- SHA-384 of a message of fewer than 2^61 bytes: 48 bytes. -/
def sha384 (m : List Byte) : List Byte :=
  let n := m.length
  let z := (240 - (n + 1) % 128) % 128
  let p := m ++ [0x80] ++ zeros z ++ beBytes 16 (8 * n)
  ((shaBlocks (p.length / 128) shaH p).take 6).flatMap (fun w => beBytes 8 w.toNat)

/-- The first 8 bytes of a SHA-384, read as a U64 under R7. -/
def digest64 (m : List Byte) : Nat := leNat ((sha384 m).take 8)

/-- One bit of CRC-32C (RFC 3720), reflected. -/
def crcBit : Nat → BitVec 32 → BitVec 32
  | 0, c => c
  | n + 1, c => crcBit n (if c.getLsbD 0 then (c >>> 1) ^^^ 0x82F63B78 else c >>> 1)

/-- CRC-32C of a byte string. -/
def crc32c (m : List Byte) : Nat :=
  (~~~(m.foldl (fun c b => crcBit 8 (c ^^^ b.setWidth 32)) 0xFFFFFFFF)).toNat

end Sys2Proof.Machine
end

