-- ==== Sys2Proof/Machine/Cipher.lean ====
section
/-! DEFINITION. The ciphers the spec names by their standards: AES-256 (FIPS 197), its GCM mode (SP 800-38D; R427, R431, R514) and XTS (R430), the unwrap of
RFC 3394 and HKDF with SHA-384 (RFC 5869; R426, R431). Bytes of the cipher are numbers below 256. -/

namespace Sys2Proof.Machine

/-! ### AES-256 -/

/-- Product by x in the field of 256 elements. -/
def timesX (a : Nat) : Nat := if a < 128 then 2 * a else (2 * a) ^^^ 0x11B

/-- Product of two elements, from the bits of the second. -/
def fieldMul : Nat → Nat → Nat → Nat
  | 0, _, _ => 0
  | n + 1, a, b => (if b % 2 = 1 then a else 0) ^^^ fieldMul n (timesX a) (b / 2)
def byteMul (a b : Nat) : Nat := fieldMul 8 a b

/-- The inverse of an element, 0 for 0: its power 254 = 2 + 4 + … + 128. -/
def byteInv (a : Nat) : Nat := ((List.range 7).foldl (fun (p : Nat × Nat) _ => let q := byteMul p.2 p.2; (byteMul p.1 q, q)) (1, a)).1

/-- The substitution of one byte: the inverse, then the affine map. -/
def subByte (a : Nat) : Nat :=
  let b := byteInv a
  (List.range 5).foldl (fun r i => r ^^^ (b * 2 ^ i % 256 + b * 2 ^ i / 256)) 0x63

/-- The substitution as a table, and its inverse. -/
def subTable : List Nat := (List.range 256).map subByte
def sub (a : Nat) : Nat := subTable.getD a 0
def unsub (a : Nat) : Nat := subTable.findIdx (· == a)

def xorBytes (a b : List Nat) : List Nat := List.zipWith (· ^^^ ·) a b

/-- The key schedule: words of four bytes, newest first while it grows; `i` is the number of the next. -/
def keyWords : Nat → Nat → List (List Nat) → List (List Nat)
  | 0, _, ws => ws.reverse
  | n + 1, i, ws =>
    let t := ws.headD []
    let rcon := (List.range (i / 8 - 1)).foldl (fun a _ => timesX a) 1
    let t' := if i % 8 = 0 then xorBytes ((t.drop 1 ++ t.take 1).map sub) [rcon, 0, 0, 0] else if i % 8 = 4 then t.map sub else t
    keyWords n (i + 1) (xorBytes (ws.getD 7 []) t' :: ws)

/-- The 15 round keys of a 32-byte key. -/
def roundKeys (key : List Byte) : List (List Nat) :=
  let k := (padTo 32 key).map (·.toNat)
  let ws := keyWords 52 8 ((List.range 8).map (fun i => (k.drop (4 * i)).take 4)).reverse
  (List.range 15).map (fun r => ((ws.drop (4 * r)).take 4).flatten)

/-- The columns of a block after a step that takes byte `f c r` to column c and row r. -/
def byPlace (f : Nat → Nat → Nat) : List Nat := (List.range 16).map (fun i => f (i / 4) (i % 4))

/-- Every column times a circulant whose first row is `m`. -/
def mixBy (m : List Nat) (b : List Nat) : List Nat :=
  byPlace (fun c r => (List.range 4).foldl (fun a j => a ^^^ byteMul (b.getD (4 * c + j) 0) (m.getD ((j + 4 - r) % 4) 0)) 0)

/-- One block under round keys. -/
def aesBlock (ks : List (List Nat)) (b : List Nat) : List Nat :=
  let shifted (x : List Nat) : List Nat := byPlace (fun c r => sub (x.getD (4 * ((c + r) % 4) + r) 0))
  let x := ((ks.drop 1).take 13).foldl (fun x k => xorBytes (mixBy [2, 3, 1, 1] (shifted x)) k) (xorBytes b (ks.headD []))
  xorBytes (shifted x) (ks.getD 14 [])

/-- The inverse of one block. -/
def aesUnblock (ks : List (List Nat)) (b : List Nat) : List Nat :=
  let back (x : List Nat) : List Nat := byPlace (fun c r => unsub (x.getD (4 * ((c + 4 - r) % 4) + r) 0))
  let x := ((ks.drop 1).take 13).reverse.foldl (fun x k => mixBy [14, 11, 13, 9] (xorBytes (back x) k)) (xorBytes b (ks.getD 14 []))
  xorBytes (back x) (ks.headD [])

/-! ### GCM -/

/-- A block as a number, most significant byte first, and back. -/
def blockNat (b : List Nat) : Nat := b.foldl (fun n x => 256 * n + x) 0
def natBlock (n : Nat) : List Nat := (beBytes 16 n).map (·.toNat)

/-- Product in the field of GHASH, whose bit 0 is the most significant: `n` bits of the first factor remain. -/
def ghashMul : Nat → BitVec 128 → BitVec 128 → BitVec 128
  | 0, _, _ => 0
  | n + 1, x, v => (if x.msb then v else 0) ^^^ ghashMul n (x <<< 1) (if v.getLsbD 0 then (v >>> 1) ^^^ (0xE1 : BitVec 128) <<< 120 else v >>> 1)

/-- A byte string in blocks of 16, the last filled with zeros. -/
def blocksOf (m : List Byte) : List Nat := (List.range (cdiv m.length 16)).map (fun i => beNat (padTo 16 ((m.drop (16 * i)).take 16)))

/-- GHASH of a ciphertext without additional data. -/
def ghash (h : BitVec 128) (c : List Byte) : Nat :=
  ((blocksOf c ++ [8 * c.length]).foldl (fun y x => ghashMul 128 (y ^^^ BitVec.ofNat 128 x) h) 0).toNat

/-- The counter block that a 12-byte nonce gives for number `n`. -/
def counterBlock (nonce : List Byte) (n : Nat) : List Nat := (padTo 12 nonce).map (·.toNat) ++ (beBytes 4 n).map (·.toNat)

/-- `n` bytes of the stream that encrypts a message, from 16-byte block `i` of it on. -/
def gcmStream (key nonce : List Byte) (i n : Nat) : List Byte :=
  let ks := roundKeys key
  ((List.range (cdiv n 16)).flatMap (fun j => (aesBlock ks (counterBlock nonce (i + j + 2))).map (BitVec.ofNat 8))).take n

/-- A message under its stream from block `i` on: the same map encrypts and decrypts. -/
def gcmCrypt (key nonce : List Byte) (i : Nat) (m : List Byte) : List Byte := List.zipWith (· ^^^ ·) m (gcmStream key nonce i m.length)

/-- The tag of a ciphertext. -/
def gcmTag (key nonce c : List Byte) : List Byte :=
  let ks := roundKeys key
  let h := BitVec.ofNat 128 (blockNat (aesBlock ks (natBlock 0)))
  beBytes 16 (ghash h c ^^^ blockNat (aesBlock ks (counterBlock nonce 1)))

/-- AES-256-GCM: seal a message, ciphertext then tag; open one, none when the tag fails. -/
def gcmSeal (key nonce m : List Byte) : List Byte := let c := gcmCrypt key nonce 0 m; c ++ gcmTag key nonce c
def gcmOpen (key nonce c tag : List Byte) : Option (List Byte) := if gcmTag key nonce c = tag then some (gcmCrypt key nonce 0 c) else none

/-! ### XTS (R430) -/

/-- The next tweak of XTS: times x in the field of 2 ^ 128 elements, the least significant byte first. -/
def nextTweak (t : List Nat) : List Nat :=
  let v := (t.reverse.foldl (fun n b => 256 * n + b) 0) * 2
  (leBytes 16 (if v < 2 ^ 128 then v else (v - 2 ^ 128) ^^^ 0x87)).map (·.toNat)

/-- `n` blocks of a data unit from tweak `t` on, under the block map `f`. -/
def xtsBlocks (f : List Nat → List Nat) : Nat → List Nat → List Nat → List Nat
  | 0, _, _ => []
  | n + 1, t, bs => xorBytes (f (xorBytes (bs.take 16) t)) t ++ xtsBlocks f n (nextTweak t) (bs.drop 16)

/-- AES-256-XTS of a 64-byte line: encrypted or decrypted. The one key that an engine draws is that of the data and of the tweak (log 90). -/
def xtsLine (enc : Bool) (key : List Byte) (unit : Nat) (line : List Byte) : List Byte :=
  let ks := roundKeys key
  (xtsBlocks (if enc then aesBlock ks else aesUnblock ks) 4 (aesBlock ks ((leBytes 16 unit).map (·.toNat))) ((padTo 64 line).map (·.toNat))).map (BitVec.ofNat 8)

/-! ### Unwrapping a key -/

/-- RFC 3394: one step back, for the counter `t` and the register word `i`. -/
def unwrapStep (ks : List (List Nat)) (x : List Nat × List (List Nat)) (t i : Nat) : List Nat × List (List Nat) :=
  let b := aesUnblock ks (xorBytes x.1 ((beBytes 8 t).map (·.toNat)) ++ x.2.getD i [])
  (b.take 8, x.2.set i (b.drop 8))

/-- RFC 3394: unwrap with the default initial value; none when the integrity check fails. -/
def keyUnwrap (kek wrapped : List Byte) : Option (List Byte) :=
  let ks := roundKeys kek
  let ws := (List.range (wrapped.length / 8)).map (fun i => ((wrapped.drop (8 * i)).take 8).map (·.toNat))
  let n := ws.length - 1
  let x := (List.range (6 * n)).reverse.foldl (fun x t => unwrapStep ks x (t + 1) (t % n)) (ws.headD [], ws.drop 1)
  if x.1 = List.replicate 8 0xA6 then some (x.2.flatten.map (BitVec.ofNat 8)) else none

/-! ### HKDF -/

/-- The bytes of a label. -/
def ascii (x : String) : List Byte := x.toList.map (fun c => BitVec.ofNat 8 c.toNat)

/-- HMAC with SHA-384, for a key of at most 128 bytes. -/
def hmac384 (key m : List Byte) : List Byte :=
  let k := padTo 128 key
  sha384 (k.map (· ^^^ 0x5C) ++ sha384 (k.map (· ^^^ 0x36) ++ m))

/-- RFC 5869 with SHA-384, for at most 48 bytes of output. -/
def hkdf384 (ikm salt info : List Byte) (n : Nat) : List Byte := (hmac384 (hmac384 salt ikm) (info ++ [1])).take n

end Sys2Proof.Machine
end

