-- ==== Sys2Proof/Machine/Numbers.lean ====
section
/-! DEFINITION. Number formats and arithmetic (R43 to R69): values, encodings, exact sums, rounding, conversions. -/

namespace Sys2Proof.Machine

/-- A number as the rules compute with it: NaN, a signed infinity, or the exact value (−1)^neg × m × 2^e. -/
inductive Num where
  | nan
  | inf (neg : Bool)
  | fin (neg : Bool) (m : Nat) (e : Int)
  deriving DecidableEq, Repr

/-- What the all-ones exponent means (R43). -/
inductive Special where
  | ieee | e4m3 | none
  deriving DecidableEq, Repr

/-- A floating-point layout (R43). -/
structure Layout where
  exp : Nat
  man : Nat
  bias : Nat
  special : Special
  deriving DecidableEq, Repr

/-- R43: layout of a floating-point format code. -/
def layout (code : Nat) : Option Layout :=
  match code with
  | 0x0 => some ⟨11, 52, 1023, .ieee⟩
  | 0x1 => some ⟨8, 23, 127, .ieee⟩
  | 0x2 => some ⟨5, 10, 15, .ieee⟩
  | 0x3 => some ⟨8, 7, 127, .ieee⟩
  | 0x4 => some ⟨4, 3, 7, .e4m3⟩
  | 0x5 => some ⟨5, 2, 15, .ieee⟩
  | 0x6 => some ⟨3, 2, 3, .none⟩
  | 0x7 => some ⟨2, 3, 1, .none⟩
  | 0x8 => some ⟨2, 1, 1, .none⟩
  | _ => none

/-- R43: bits of an element of a format code; 0 for an unassigned code (R44). -/
def fmtBits (code : Nat) : Nat :=
  match code with
  | 0x0 => 64 | 0x1 => 32 | 0x2 => 16 | 0x3 => 16 | 0x4 => 8 | 0x5 => 8 | 0x6 => 6 | 0x7 => 6 | 0x8 => 4
  | 0x9 => 32 | 0xA => 8 | 0xB => 4 | 0xC => 8 | _ => 0

/-- R44: codes 0xD to 0xF are unassigned. -/
def fmtAssigned (code : Nat) : Bool := code ≤ 0xC

/-- The five MX element formats, 0x4 to 0x8 (R49). -/
def isMx (code : Nat) : Bool := 4 ≤ code && code ≤ 8

/-- The integer formats. -/
def isInt (code : Nat) : Bool := code == 9 || code == 10 || code == 11

/-! ### Decoding and encoding -/

/-- The value of an integer. -/
def Num.ofInt (i : Int) : Num := .fin (i < 0) i.natAbs 0

/-- The value of an encoding in a floating-point layout (R43). -/
def decodeFloat (l : Layout) (n : Nat) : Num :=
  let neg := n.testBit (l.exp + l.man)
  let e := bits n (l.exp + l.man - 1) l.man
  let m := n % 2 ^ l.man
  let ones := 2 ^ l.exp - 1
  if l.special = .ieee ∧ e = ones then (if m = 0 then .inf neg else .nan)
  else if l.special = .e4m3 ∧ e = ones ∧ m = 2 ^ l.man - 1 then .nan
  else if e = 0 then .fin neg m (1 - (l.bias : Int) - l.man)
  else .fin neg (2 ^ l.man + m) ((e : Int) - l.bias - l.man)

/-- The value of an element (R43). -/
def decodeNum (code n : Nat) : Num :=
  match layout code with
  | some l => decodeFloat l n
  | none =>
    if code = 0xC then (if n % 256 = 0xFF then .nan else .fin false 1 ((n % 256 : Nat) - 127))
    else Num.ofInt (signed (fmtBits code) n)

/-- Largest finite encoding of a layout, without its sign. -/
def maxEnc (l : Layout) : Nat :=
  match l.special with
  | .ieee => (2 ^ l.exp - 1) * 2 ^ l.man - 1
  | .e4m3 => 2 ^ (l.exp + l.man) - 2
  | .none => 2 ^ (l.exp + l.man) - 1

/-- R46: the canonical NaN of a layout that has one. -/
def canonicalNan (l : Layout) : Nat :=
  match l.special with
  | .ieee => (2 ^ l.exp - 1) * 2 ^ l.man + 2 ^ (l.man - 1)
  | .e4m3 => 2 ^ (l.exp + l.man) - 1
  | .none => 0

/-! ### Rounding -/

/-- R61: rounding modes; SR carries its 64 random bits. -/
inductive Mode where
  | rne
  | rtz
  | sr (r : Nat)
  deriving DecidableEq, Repr

/-- Whether a magnitude `n + rem / 2^k` (0 ≤ rem < 2^k) rounds away from zero (R61, R62). -/
def roundsUp (mode : Mode) (n rem k : Nat) : Bool :=
  match mode with
  | .rne => if 2 * rem = 2 ^ k then n % 2 = 1 else 2 ^ k < 2 * rem
  | .rtz => false
  | .sr r => rem != 0 && r / 2 ^ 40 < rem * 2 ^ 24 / 2 ^ k

/-- m × 2^e in units of 2^q, rounded. -/
def roundAt (mode : Mode) (m : Nat) (e q : Int) : Nat :=
  if q ≤ e then m * 2 ^ (e - q).toNat
  else
    let k := (q - e).toNat
    let n := m / 2 ^ k
    if roundsUp mode n (m % 2 ^ k) k then n + 1 else n

/-- Floor of log2 of m × 2^e, for m ≠ 0. -/
def log2Floor (m : Nat) (e : Int) : Int := (Nat.log2 m : Int) + e

/-- The encoding, sign aside, of m × 2^e rounded with unbounded exponent range above (R64). -/
def roundEnc (l : Layout) (mode : Mode) (m : Nat) (e : Int) : Nat :=
  if m = 0 then 0
  else
    let emin : Int := 1 - (l.bias : Int)
    let q := max (log2Floor m e) emin - l.man
    ((q - (emin - l.man)) * 2 ^ l.man).toNat + roundAt mode m e q

/-- Whether m × 2^e lies beyond a bound n × 2^q. -/
def beyond (m : Nat) (e : Int) (n : Nat) (q : Int) : Bool :=
  if q ≤ e then n < m * 2 ^ (e - q).toNat else n * 2 ^ (q - e).toNat < m

/-- Magnitude of an encoding of a layout, as (m, e). -/
def encMag (l : Layout) (n : Nat) : Nat × Int :=
  match decodeFloat l n with
  | .fin _ m e => (m, e)
  | _ => (0, 0)

/-- What a conversion gives: the encoding, whether it saturated, whether a NaN or infinity became finite (R66). -/
structure Conv where
  enc : Nat
  sat : Bool := false
  fin : Bool := false
  deriving DecidableEq, Repr

/-- R64, R65: conversion to a floating-point layout. -/
def convFloat (l : Layout) (mode : Mode) (satBit : Bool) (x : Num) : Conv :=
  let sgn (neg : Bool) := if neg then 2 ^ (l.exp + l.man) else 0
  match x with
  | .nan => { enc := canonicalNan l, fin := l.special == .none }
  | .inf neg =>
    match l.special with
    | .ieee => { enc := sgn neg + (2 ^ l.exp - 1) * 2 ^ l.man }
    | .e4m3 => if satBit then { enc := sgn neg + maxEnc l, fin := true } else { enc := canonicalNan l }
    | .none => { enc := sgn neg + maxEnc l, fin := true }
  | .fin neg m e =>
    let r := roundEnc l mode m e
    let big := encMag l (maxEnc l)
    if r ≤ maxEnc l then { enc := sgn neg + r, sat := r == maxEnc l && beyond m e big.1 big.2 }
    else if satBit || mode == .rtz || l.special == .none then { enc := sgn neg + maxEnc l, sat := true }
    else match l.special with
      | .e4m3 => { enc := canonicalNan l }
      | _ => { enc := sgn neg + (2 ^ l.exp - 1) * 2 ^ l.man }

/-- R65: conversion to a two's-complement integer of `w` bits. -/
def convInt (w : Nat) (mode : Mode) (x : Num) : Conv :=
  let top : Int := (2 ^ (w - 1) : Nat) - 1
  let low : Int := -(2 ^ (w - 1) : Nat)
  match x with
  | .nan => { enc := 0, fin := true }
  | .inf neg => { enc := unsigned w (if neg then low else top), fin := true }
  | .fin neg m e =>
    let n : Int := roundAt mode m e 0
    let i := if neg then -n else n
    if i < low then { enc := unsigned w low, sat := true }
    else if top < i then { enc := unsigned w top, sat := true }
    else
      -- R66: a source beyond the range that rounds to its end saturates too
      { enc := unsigned w i, sat := (i == top && beyond m e top.toNat 0) || (i == low && beyond m e low.natAbs 0) }

/-- Conversion to a format code (R64, R65). -/
def conv (code : Nat) (mode : Mode) (satBit : Bool) (x : Num) : Conv :=
  match layout code with
  | some l => convFloat l mode satBit x
  | none => convInt (fmtBits code) mode x

/-! ### R62 -/

/-- R62: mix64. -/
def mix64 (z : Word) : Word :=
  let z := (z ^^^ z >>> 30) * 0xBF58476D1CE4E5B9
  let z := (z ^^^ z >>> 27) * 0x94D049BB133111EB
  z ^^^ z >>> 31

/-- R62: the 64 bits that decide one stochastic rounding. -/
def srBits (seed stepExt : Word) (tile stream index : Nat) : Word :=
  mix64 (mix64 (seed ^^^ stepExt) ^^^ word (tile * 2 ^ 48 + stream * 2 ^ 32 + index))

/-! ### Exact arithmetic -/

/-- The exact sum of two finite signed values: an exact zero is +0 unless both are −0. -/
def addFin (n1 : Bool) (m1 : Nat) (e1 : Int) (n2 : Bool) (m2 : Nat) (e2 : Int) : Num :=
  let e := min e1 e2
  let a : Int := m1 * 2 ^ (e1 - e).toNat
  let b : Int := m2 * 2 ^ (e2 - e).toNat
  let s := (if n1 then -a else a) + (if n2 then -b else b)
  if s = 0 then .fin (n1 && n2) 0 e else .fin (s < 0) s.natAbs e

/-- IEEE sum, exact before rounding. -/
def Num.add (x y : Num) : Num :=
  match x, y with
  | .nan, _ => .nan
  | _, .nan => .nan
  | .inf a, .inf b => if a = b then .inf a else .nan
  | .inf a, _ => .inf a
  | _, .inf b => .inf b
  | .fin n1 m1 e1, .fin n2 m2 e2 => addFin n1 m1 e1 n2 m2 e2

/-- Negation; a NaN stays NaN. -/
def Num.neg (x : Num) : Num :=
  match x with
  | .nan => .nan
  | .inf a => .inf (!a)
  | .fin n m e => .fin (!n) m e

/-- Magnitude. -/
def Num.abs (x : Num) : Num :=
  match x with
  | .nan => .nan
  | .inf _ => .inf false
  | .fin _ m e => .fin false m e

/-- IEEE product, exact before rounding: zero times infinity is NaN. -/
def Num.mul (x y : Num) : Num :=
  match x, y with
  | .nan, _ => .nan
  | _, .nan => .nan
  | .inf a, .inf b => .inf (a != b)
  | .inf a, .fin n m _ => if m = 0 then .nan else .inf (a != n)
  | .fin n m _, .inf b => if m = 0 then .nan else .inf (n != b)
  | .fin n1 m1 e1, .fin n2 m2 e2 => .fin (n1 != n2) (m1 * m2) (e1 + e2)

/-- Scale by a power of two. -/
def Num.scale (x : Num) (k : Int) : Num :=
  match x with
  | .fin n m e => .fin n m (e + k)
  | x => x

/-- Whether x < y; false when either is NaN. -/
def Num.lt (x y : Num) : Bool :=
  match x, y with
  | .nan, _ => false
  | _, .nan => false
  | .inf a, .inf b => a && !b
  | .inf a, .fin .. => a
  | .fin .., .inf b => !b
  | .fin n1 m1 e1, .fin n2 m2 e2 =>
    match addFin n1 m1 e1 (!n2) m2 e2 with
    | .fin neg m _ => neg && m != 0
    | _ => false

/-- Whether x = y as numbers; false when either is NaN. -/
def Num.eq (x y : Num) : Bool :=
  match x, y with
  | .nan, _ => false
  | _, .nan => false
  | x, y => !Num.lt x y && !Num.lt y x

/-- Whether a number is NaN, or zero. -/
def Num.isNan (x : Num) : Bool := match x with | .nan => true | _ => false
def Num.isZero (x : Num) : Bool := match x with | .fin _ 0 _ => true | _ => false
def Num.isInf (x : Num) : Bool := match x with | .inf _ => true | _ => false

/-- FP32 and FP64 layouts, as codes. -/
abbrev fp64 : Nat := 0
abbrev fp32 : Nat := 1

/-- The value of FP32 bits, and FP32 bits of a value rounded with RNE (R55, R63, R68). -/
def f32 (n : Nat) : Num := decodeNum fp32 n
def toF32 (x : Num) : Nat := (conv fp32 .rne false x).enc
def f64 (n : Nat) : Num := decodeNum fp64 n
def toF64 (x : Num) : Nat := (conv fp64 .rne false x).enc

/-- R68: correctly rounded FP32 and FP64 sums and products. -/
def add32 (a b : Nat) : Nat := toF32 ((f32 a).add (f32 b))
def mul32 (a b : Nat) : Nat := toF32 ((f32 a).mul (f32 b))
def add64 (a b : Nat) : Nat := toF64 ((f64 a).add (f64 b))

/-! ### Block sums (R55 to R60) -/

/-- R55, R56: the exact sum of the products of one block, scaled by 2^x and rounded once to FP32 with RNE; an exact zero is +0. -/
def blockSum (prods : List Num) (x : Int) : Nat :=
  if prods.any Num.isNan then 0x7FC00000
  else if prods.contains (.inf true) && prods.contains (.inf false) then 0x7FC00000
  else if prods.contains (.inf true) then 0xFF800000
  else if prods.contains (.inf false) then 0x7F800000
  else
    match (prods.foldl Num.add (.fin false 0 0)).scale x with
    | .fin neg m e => if m = 0 then 0 else toF32 (.fin neg m e)
    | _ => 0

/-- R60: the slices h, m, l of a finite FP32 value: the leading 8 bits of its 24-bit significand, the next 8 and the last 8. A
subnormal's significand is read as normalised, its exponent unbounded. -/
def slices (x : Num) : Num × Num × Num :=
  match x with
  | .fin neg m e =>
    if m = 0 then (.fin neg 0 e, .fin neg 0 e, .fin neg 0 e)
    else
      let k := 23 - Nat.log2 m
      let m' := m * 2 ^ k
      let e' := e - k
      (.fin neg (m' / 65536) (e' + 16), .fin neg (m' / 256 % 256) (e' + 8), .fin neg (m' % 256) e')
  | x => (x, x, x)

/-- R60: the products an FP32 element pair gives to array pass 1, 2 or 3. A pair with an infinity or NaN gives nothing to passes
1 and 2 and its product to pass 3. -/
def fp32Products (pass : Nat) (a b : Num) : List Num :=
  let special := a.isNan || a.isInf || b.isNan || b.isInf
  let (ha, ma, la) := slices a
  let (hb, mb, lb) := slices b
  if special then (if pass = 3 then [a.mul b] else [])
  else match pass with
    | 1 => [ha.mul lb, ma.mul mb, la.mul hb, ma.mul lb, la.mul mb]
    | 2 => [ha.mul mb, ma.mul hb]
    | _ => [ha.mul hb]

/-- R53: an operand pair's exact-sum block length, whether it accumulates in INT32, and cycles per row in halves (R53's rate); none
for a pair the arrays refuse. -/
structure Pair where
  block : Nat
  int : Bool
  /-- Multiply-accumulates per cell per 16 cycles. -/
  rate : Nat
  deriving DecidableEq, Repr

/-- R53: the accepted pairs. -/
def pairOf (a b : Nat) : Option Pair :=
  let eight (c : Nat) : Bool := c == 4 || c == 5
  let small (c : Nat) : Bool := c == 6 || c == 7 || c == 8
  if (eight a && isMx b) || (eight b && isMx a) then some ⟨32, false, 16⟩
  else if small a && small b then some ⟨32, false, 32⟩
  else if a = 2 ∧ b = 2 then some ⟨16, false, 8⟩
  else if a = 3 ∧ b = 3 then some ⟨16, false, 8⟩
  else if a = 1 ∧ b = 1 then some ⟨16, false, 1⟩
  else if (a = 0xA ∧ (b = 0xA ∨ b = 0xB)) ∨ (a = 0xB ∧ b = 0xA) then some ⟨32, true, 16⟩
  else if a = 0xB ∧ b = 0xB then some ⟨32, true, 32⟩
  else none

/-! ### MX quantisation (R51, R52) -/

/-- R51: emax by format. -/
def emaxOf (code : Nat) : Int :=
  match code with
  | 4 => 8 | 5 => 15 | 6 => 4 | 7 => 2 | _ => 2

/-- R51: the scale field of a block of 32 source values; `fit` selects FIT. -/
def mxScale (code : Nat) (fit : Bool) (xs : List Num) : Nat :=
  if xs.any (fun x => x.isNan || x.isInf) then 0xFF
  else
    let amax := xs.foldl (fun a x => if Num.lt a x.abs then x.abs else a) (.fin false 0 0)
    match amax, layout code with
    | .fin _ m e, some l =>
      if m = 0 then 0
      else
        let fl := log2Floor m e - emaxOf code
        let big := encMag l (maxEnc l)
        -- the least X with amax / 2^X within the largest finite value is fl or fl + 1
        let x := if fit && beyond m (e - fl) big.1 big.2 then fl + 1 else fl
        (clampI (-127) 127 x + 127).toNat
    | _, _ => 0

/-- R52: one element of a block with scale field `sc`: value / 2^X rounded, always saturating; zero under scale 0xFF. -/
def mxElem (code : Nat) (mode : Mode) (sc : Nat) (x : Num) : Conv :=
  if sc = 0xFF then { enc := 0 } else conv code mode true (x.scale (127 - (sc : Int)))

/-! ### Packed elements (R45) -/

/-- Element `i` of packed bytes of a format. -/
def getElem (code : Nat) (bs : List Byte) (i : Nat) : Nat :=
  let w := fmtBits code
  if w = 4 then (bs.getD (i / 2) 0).toNat / (if i % 2 = 0 then 1 else 16) % 16
  else if w = 6 then leNat ((bs.drop (3 * (i / 4))).take 3) / 2 ^ (6 * (i % 4)) % 64
  else leNat ((bs.drop (w / 8 * i)).take (w / 8))

/-- Bytes of a packed list of elements; the last byte or group is filled with zeros (DESIGN CHOICE, log 95). -/
def packElems (code : Nat) : List Nat → List Byte
  | [] => []
  | [a] => if fmtBits code = 4 then [BitVec.ofNat 8 (a % 16)] else if fmtBits code = 6 then leBytes 3 (a % 64) else leBytes (fmtBits code / 8) a
  | a :: b :: t =>
    if fmtBits code = 4 then BitVec.ofNat 8 (a % 16 + 16 * (b % 16)) :: packElems code t
    else if fmtBits code = 6 then
      match t with
      | [] => leBytes 3 (a % 64 + b % 64 * 64)
      | [c] => leBytes 3 (a % 64 + b % 64 * 64 + c % 64 * 4096)
      | c :: d :: u => leBytes 3 (a % 64 + b % 64 * 64 + c % 64 * 4096 + d % 64 * 262144) ++ packElems code u
    else leBytes (fmtBits code / 8) a ++ packElems code (b :: t)

/-- Bytes that `n` packed elements of a format take. -/
def packedBytes (code n : Nat) : Nat := if fmtBits code = 6 then 3 * cdiv n 4 else cdiv (n * fmtBits code) 8

end Sys2Proof.Machine
end

