-- ==== Sys2Proof/Config.lean ====
section
/-! DEFINITION. What a part fixes at manufacture (R523), the values the spec leaves open (free values: constants with no
body), and the functions it names and defines elsewhere (uninterpreted). -/

namespace Sys2Proof.Config

/-! ### Free values (notes/assumptions/3.md) -/

/-- The value of a byte that a rule leaves open, by draw and address (R107, R139). -/
opaque freeByte : Nat → Nat → Byte

/-- A word that a rule leaves open, by draw: random salts, keys, session numbers (R421, R430, R431, R450). -/
opaque freeWord : Nat → Word

/-- An element of array storage that a rule leaves open, by draw and element (R107, R466). -/
opaque freeElem : Nat → Nat → Word

/-- A choice that a rule leaves open, by draw. -/
opaque freeBool : Nat → Bool

/-- R139, R21: whether a destination byte of a scheduled copy that overlaps its source keeps what it held: by step number, step beat of the
launch, tile, descriptor index and byte, so that every run of a Last gives the same. -/
opaque overlapKeeps (step beat tile desc byte : Nat) : Bool

/-- R87, R94, R21: element `i` of a second source that an operation needs and its descriptor does not name: by step number, step beat of the issue,
tile and unit (true: the vector unit), so that every run of a Last gives the same (log 69). -/
opaque missingY (step beat tile : Nat) (vec : Bool) (i : Nat) : Word

/-! ### Values set for each part (R523) -/

/-- R164: the set of a line in its slice of the shared cache, below 65,536, and which of a set's 16 ways gives up its line: no part of the
interface. -/
opaque rawCacheSet : Nat → Nat
def cacheSet (line : Nat) : Nat := rawCacheSet line % 65536
opaque rawVictim : List Nat → Nat → Nat
def cacheVictim (set : List Nat) (line : Nat) : Nat := rawVictim set line % 16

/-- R154: what the reads of a frame on a pseudo-channel of a stack meet: granules of the stack with symbols in error, the symbol position of a
single one, and for three or more, the bytes that a miscorrection delivers, if it is one. -/
opaque decodes (stack pc draw : Nat) : List (Nat × Nat × Nat × Option (List Byte))

/-- R154: what a decode with three or more symbols in error delivers, if it miscorrects the line. -/
opaque miscorrects (line draw : Nat) : Option (List Byte)

/-- R235, R523: ring temperature in 0.001 °C from the found code, by the constants fused for ring 64·eyelet + r. -/
opaque ringTempMc (ring code : Nat) : Int

/-- 0x1200.09: raw coefficients by 16·kind + format. -/
opaque rawCoeff : Nat → Nat

/-- R359, R523: factory energy coefficients, 128 values of 32 bits; kinds 5 and 6 are 0. -/
def factoryCoeffs : List Nat :=
  (List.range 128).map (fun i => if i / 16 = 5 ∨ i / 16 = 6 then 0 else rawCoeff i % 2 ^ 32)

/-- 0x1300.0C (R383): raw heat capacity, plate conductance by die; pairs of neighbouring dies with their conductance. -/
opaque rawCap : Nat → Nat
opaque rawPlate : Nat → Nat
opaque rawPairs : List (Nat × Nat × Nat)

/-- A positive finite FP32 pattern. -/
def posF32 (n : Nat) : Nat := n % 0x7F7FFFFF + 1

/-- CAP and G_PLATE of die i: positive and finite. -/
def cap (i : Nat) : Nat := posF32 (rawCap i)
def gPlate (i : Nat) : Nat := posF32 (rawPlate i)

/-- R364: the neighbour pairs: each pair of two dies once, and at most six pairs to a die. -/
def pairs : List (Nat × Nat × Nat) :=
  rawPairs.foldl (fun (ps : List (Nat × Nat × Nat)) (p : Nat × Nat × Nat) =>
    let n (i : Nat) : Nat := (ps.filter (fun q => q.1 == i || q.2.1 == i)).length
    let known := ps.any (fun q => (q.1 == p.1 && q.2.1 == p.2.1) || (q.1 == p.2.1 && q.2.1 == p.1))
    if p.1 < 101 ∧ p.2.1 < 101 ∧ p.1 ≠ p.2.1 ∧ known = false ∧ n p.1 < 6 ∧ n p.2.1 < 6 then ps ++ [p] else ps) []

/-- R364, R383: the neighbours of die i, as (die, G): symmetric, since both ends read one list of pairs. -/
def neighbours (i : Nat) : List (Nat × Nat) :=
  pairs.filterMap (fun p => if p.1 = i then some (p.2.1, posF32 p.2.2) else if p.2.1 = i then some (p.1, posF32 p.2.2) else none)

/-- R391: the welts, 16·die + transmit port, that the fixed path from a physical tile to an eyelet die takes. -/
opaque weltPath (tile die : Nat) : List Nat

/-- 0x22ee.01: factory ring tables by ring and entry; each 0 to 4,095. -/
opaque rawRing : Nat → Nat → Nat
def factoryTable (ring : Nat) : List Nat := (List.range 16).map (fun i => rawRing ring i % 4096)

/-- R241: the fresh table of a ring from the code of its assigned resonance and the constants fused for ring 64·eyelet + r: 16 codes. -/
opaque rawSearch : Nat → Nat → Nat → Nat
def searchTable (ring code : Nat) : List Nat := (List.range 16).map (fun i => rawSearch ring code i % 4096)

/-- 0x1010.03: die revisions: a generation for each kind of die, a stepping for each die (R523). -/
opaque rawDieRev : Nat → Nat
opaque rawDieGen : Nat → Nat
def dieKind (i : Nat) : Nat := if i < 72 then 0 else if i < 88 then 1 else if i < 92 then 2 else if i < 100 then 3 else 4
def dieRevision (i : Nat) : Nat := rawDieGen (dieKind i) % 256 * 256 + rawDieRev i % 256

/-- 0x5000.0E, 0x5000.0F, 0x5000.10, 0x7100.02. -/
opaque certChain : List Byte
/-- R420: what the binding key is made of, at manufacture; never readable. -/
opaque rawBinding : Nat
opaque rawSerial : Nat
def serial : Nat := rawSerial % (2 ^ 64 - 1) + 1
opaque rawMac : Nat
/-- A unicast address: bit 0 of the first byte is 0. -/
def mac : Nat := let m := rawMac % 2 ^ 48; if m / 2 ^ 40 % 2 = 1 then m - 2 ^ 40 else m

/-- 0x5000.09: fused counter at manufacture. -/
opaque rawFused : Nat
def fused : Nat := rawFused % 65

/-- R467: whether the flash write made at a draw fails. -/
opaque flashFails : Nat → Bool

/-- R415: SHA-384 of the firmware key, fused. -/
opaque fwKeyHash : List Byte

/-- R523: image the part runs at manufacture: SVN and BUILD. -/
opaque rawSvn : Nat
def svn : Nat := fused + rawSvn % (65 - fused)
opaque rawBuild : Nat
def build : Nat := rawBuild % 2 ^ 32

/-! ### Functions named by the spec and defined elsewhere -/

/-- R89: the function reference, revision 1: FP32 bits of function `fn` of R87 at the FP32 bits of its inputs, where no rule fixes
the value. -/
opaque funcRef (fn : Nat) (args : List Nat) : Nat

/-- R421: ECDSA P-384 signature by the identity key, 96 bytes. -/
opaque sign (data : List Byte) : List Byte

/-- R415: what the checks of an image see in its bytes: SHA-384 of its public key, whether its signature verifies, SVN, build. -/
opaque fwFields (image : List Byte) : List Byte × Bool × Nat × Nat

/-- R435, R436: whether bytes are a DER certificate. -/
opaque isCertificate (der : List Byte) : Bool

end Sys2Proof.Config
end

