-- ==== Sys2Proof/Machine/State.lean ====
section
/-! DEFINITION. The state of the Aelvo as plain data, one structure per chapter of the spec, and the state after reset:
the package unpowered, before the always-on rails rise (R464: the next thing that can happen is COLD_RESET).
Every dictionary scalar and every array of counters that no structure below holds lives in `State.regs`, one cell per element,
under its index, subindex and element (R438, R443). -/

namespace Sys2Proof.Machine

/-- A byte memory: cells listed in rising address order. With `free = none` an unlisted byte reads 0 and no cell holds 0; with
`free = some n` an unlisted byte reads the free value `Config.freeByte n addr` (R107, R466: unspecified after a reset). -/
structure Mem where
  cells : List Host.Cell := []
  free : Option Nat := none
  deriving DecidableEq, Repr

/-- Array storage as numbered elements (R71), with the same two backgrounds as `Mem`: 0, or the free value `Config.freeElem n i`. -/
structure Store where
  cells : Tab Nat := []
  free : Option Nat := none
  deriving DecidableEq, Repr

/-! ### Events and records -/

/-- The fields of a fault record (R482). -/
structure FaultRec where
  code : Nat := 0
  errClass : Nat := 0
  injected : Bool := false
  held : Bool := false
  unitKind : Nat := 0
  unit : Nat := 0
  epoch : Nat := 0
  beat : Nat := 0
  observer : Nat := 0
  failedChip : Nat := 0
  cause : Nat := 0
  step : Nat := 0
  detail : Nat := 0
  deriving DecidableEq, Repr

/-- A dictionary response (R446, R447): its KIND less bit 55, and the fields that the kind carries. -/
structure Resp where
  kind : Nat
  status : Nat := 0
  index : Nat := 0
  sub : Nat := 0
  pending : Bool := false
  committed : Bool := false
  reqId : Nat := 0
  session : Nat := 0
  segment : Nat := 0
  crc : Nat := 0
  count : Nat := 0
  value : List Byte := []
  deriving DecidableEq, Repr

/-- What leaves the package or is reported to the outside, in the order the model makes it. -/
inductive Out where
  | kdp (via : Via) (r : Resp)                                            -- a dictionary response (R446)
  | notify (session : Nat) (message : List Byte)                           -- R461
  | block (eyelet lane pos : Nat) (bytes : List Byte)                     -- a lane block sent (R248)
  | reply (id : Nat) (status note : Nat)                                  -- outcome of a metered request (R161)
  | memReply (status reason : Nat) (old : Nat)                            -- outcome of an atomic or accumulate-store (R168)
  | trace (lane : Nat) (bytes : List Byte)                                -- a block of the trace port, coded and scrambled (R506)
  | weltFlit (die port : Nat) (f : WeltFlit)                              -- a welt flit sent (R387, R388, R391)
  | deliver (p : Packet)                                                  -- a packet given to its local engine (R203)
  | icmp (echo : Bool)                                                    -- R445
  | pin (name : Nat) (level : Bool)                                       -- 0 ALERT_N, 1 THERMTRIP_N (R399)
  deriving DecidableEq, Repr

/-! ### Clocks, beats and time -/

/-- Reference loop states (R29). -/
inductive RefState where
  | free | acquire | locked | holdover | lost
  deriving DecidableEq, Repr

/-- Reference loop and beat counter. -/
structure Clock where
  /-- R29, 0x1100.02; reset FREE. -/
  refState : RefState := .free
  /-- R29, R41: the source of the last lock: 1 LIN_A0, 2 LIN_B0, 0 none yet. -/
  lastSource : Nat := 0
  /-- R33, 64 bits; reset 0. -/
  beat : BitVec 64 := 0
  deriving DecidableEq, Repr

/-! ### Arrays, row function unit, vector unit (R70 to R99) -/

/-- A pass in a slot of an array: its descriptor (R72), its issue cycle, its stream start (R76, known at the issue), and what the stream
latched. -/
structure PassRec where
  w0 : Word := 0
  w1 : Word := 0
  issue : Nat := 0
  start : Nat := 0
  /-- Block sums latched at the stream, per row·128 + column, in ascending K order (R55, R57), FP32 bits or INT32. -/
  sums : Tab (List Nat) := []
  /-- Rescale factors latched at the stream start (R93), FP32 bits by row. -/
  factors : Tab Nat := []
  /-- R75: rows drained. -/
  drained : Nat := 0
  deriving DecidableEq, Repr

/-- One array of a physical tile. -/
structure ArrayState where
  /-- R76: the pending slot. -/
  pending : Option PassRec := none
  /-- R76, R79: passes that have started streaming and have not completed or are still draining, oldest first; the last is the active
  slot's. -/
  streams : List PassRec := []
  /-- R76: cycle in which the stream of the last pass issued ends. -/
  streamEnd : Nat := 0
  /-- R71: bytes of the operand areas, area·65536 + byte. Areas 0 to 7 are bits 3:0 of an OPERAND base (R123): A buffer i data 2i
  and scale 2i + 1, B staging buffer i data 4 + 2i and scale 5 + 2i; register set i data 8 + 2i and scale 9 + 2i. -/
  bytes : Store := {}
  /-- R71: accumulator words, bank·16384 + row·128 + column, 32 bits each. -/
  acc : Store := {}
  /-- R71, R90: rescale vector, FP32 bits by row. -/
  rescale : Store := {}
  /-- R77: staging of areas 0 to 7 and of the rescale vector, 12: absent or 0 not staged, 1 staged, n + 2 staged until cycle n. -/
  staged : Tab Nat := []
  /-- R80: cycle of the last load of register set 0 and of set 1. -/
  loadedAt0 : Option Nat := none
  loadedAt1 : Option Nat := none
  /-- R78, R80: first cycle in which no load reads B staging buffer 0, and buffer 1. -/
  loadEnd0 : Nat := 0
  loadEnd1 : Nat := 0
  deriving DecidableEq, Repr

/-- Row state of one row of one set (R84, R90, R92): m, l, s1, s2 as FP32 bits, top-k slots of value bits and index. The defaults are
those of zeroised row state (R83), which reset has too (DESIGN CHOICE, log 4). -/
structure RowState where
  m : Nat := 0
  l : Nat := 0
  s1 : Nat := 0
  s2 : Nat := 0
  topk : List (Nat × Nat) := List.replicate 8 (0, 0)
  deriving DecidableEq, Repr

/-- A row of results on its way from a unit to where it is written: encodings in FMT_OUT, block scales, the three conversion counts of
R66, and the rescale factor of SOFTMAX_ONLINE. -/
structure RowOut where
  row : Nat := 0
  elems : List Nat := []
  scales : List Nat := []
  sat : Nat := 0
  fin : Nat := 0
  ff : Nat := 0
  factor : Option Nat := none
  deriving DecidableEq, Repr

/-- A row or vector operation issued and not completed (R86, R94): its entry, issue cycle, the extended step number of the issue
(R62) and the Last's seed; the values read so far of the row being read; rows computed and not yet written; rows written; whether the
write of its last row to its buffer, or to a rescale vector, was refused (R78). -/
structure FuncRec where
  words : List Word := []
  issue : Nat := 0
  stepExt : Nat := 0
  seed : Word := 0
  /-- R21: beat in the step of the issue; it keys the free value of a second source the descriptor does not name (log 69). -/
  beat : Nat := 0
  src : List Nat := []
  src2 : List Nat := []
  outs : List RowOut := []
  done : Nat := 0
  refused : Bool := false
  refusedFactor : Bool := false
  deriving DecidableEq, Repr

/-- What a unit of a tile does in one cycle (R76 to R80, R86, R94, R136, R298). A pass, an operation and a copy are named by the cycle of
their issue. -/
inductive UnitAct where
  | passSettled (array issue : Nat)       -- R77: completed, and drained where it drains
  | opComplete (vec : Bool) (issue : Nat)
  | walkMark (stitcher issue : Nat) (scale : Bool)
  | copyDone (stitcher issue : Nat)
  | stream (array issue : Nat)            -- R76: the pending pass starts to stream
  | drainRow (array issue m : Nat)        -- R75
  | opRead (vec : Bool) (issue r part : Nat)
  | opWrite (vec : Bool) (issue r : Nat)
  | copyRead (stitcher issue i : Nat)     -- R136: the read of access i
  | copyWrite (stitcher issue i : Nat)
  | copyStep (stitcher issue : Nat)       -- R135: the next access of a copy with an end outside the tile
  | inbound (addr beat : Nat) (data : List Byte)
  | bankRow (array issue m : Nat)         -- R79: row m of a pass is written to its bank
  deriving DecidableEq, Repr

/-- Health of a physical tile (R472). -/
inductive Health where
  | healthy | fenced | failed
  deriving DecidableEq, Repr

/-- One physical tile. -/
structure PhysTile where
  /-- R100: 32 MiB of scratchpad, 25-bit byte address. -/
  scratch : Mem := {}
  /-- R70: arrays 0 to 3. -/
  arrays : Tab ArrayState := []
  /-- R84: row state, set·128 + row. -/
  rows : Tab RowState := []
  /-- R466: what a row not listed holds: its reset state, or with `some n` the free values of draw n. -/
  rowsFree : Option Nat := none
  /-- R86: row function operations in the unit, oldest first. -/
  rowOps : List FuncRec := []
  /-- R94: vector operations in the unit, oldest first. -/
  vecOps : List FuncRec := []
  /-- R86, R94: first cycle in which the row (vector) unit accepts an operation. -/
  rowFree : Nat := 0
  vecFree : Nat := 0
  /-- The first cycle whose work is still to do, in a tile whose units work. -/
  unitAt : Nat := 0
  /-- R101, R298: requests that lost a bank and wait, and received blocks to be written, by cycle. -/
  late : List (Nat × UnitAct) := []
  /-- R472; reset HEALTHY. -/
  health : Health := .healthy
  /-- R115: the tile is zeroising and refuses packets from other packages. -/
  zeroising : Bool := false
  /-- R114: line buffer, line address to 64 bytes. -/
  lines : Tab (List Byte) := []
  deriving DecidableEq, Repr

/-- The tables of one logical tile (R103, R109, R486, R516). -/
structure LogTile where
  /-- R103: 256 handle entries of 8 bytes; reset 0. -/
  handles : Tab Word := []
  /-- R109: 16 window entries of 8 bytes; reset 0. -/
  windows : Tab Word := []
  /-- R486: dirty bits of snapshot slots 0 and 1 by handle, bits 0 and 1. -/
  dirty : Tab Nat := []
  /-- R515, R517: write digest, as the sum modulo 2^64 of the hashes by attribution beat not yet emitted. -/
  digest : Tab Nat := []
  deriving DecidableEq, Repr

/-! ### Stitchers and translation (R117 to R150) -/

/-- A destination granule that waits for a transmit buffer (R297): its index in the copy and its bytes. -/
structure Move where
  idx : Nat := 0
  data : List Byte := []
  deriving DecidableEq, Repr

/-- One translation held by a Stitcher or an I/O die (R145, R147): page base, page size, leaf entry. -/
structure Xlate where
  base : Nat := 0
  size : Nat := 0
  leaf : Word := 0
  pinned : Bool := false
  deriving DecidableEq, Repr

/-- A copy on a context (R117, R118, R140). -/
structure CopyRec where
  /-- The Stitcher descriptor, source and destination tensor descriptors and pattern, 8 words each (R119); the scale tensors and
  pattern where SCALES = 1 (R126). -/
  sd : List Word := []
  src : List Word := []
  dst : List Word := []
  pat : List Word := []
  scaleSrc : List Word := []
  scaleDst : List Word := []
  scalePat : List Word := []
  /-- Handle entries of the four ends, resolved at start (R132): source, destination, scale source, scale destination. -/
  handles : List Word := []
  /-- Logical tile and Stitcher, or the number of a privileged Stitcher and 0. -/
  tile : Nat := 0
  stitcher : Nat := 0
  priv : Bool := false
  /-- Queue and flight of a queue-launched copy; memory priority of its requests. -/
  origin : Option (Nat × Nat) := none
  mprio : Nat := 0
  /-- Of a scheduled copy: descriptor index, launch beat, issue cycle, runtime shapes. -/
  sched : Bool := false
  desc : Nat := 0
  launchBeat : Nat := 0
  issue : Nat := 0
  s0 : Nat := 0
  s1 : Nat := 0
  /-- Accesses performed; requests of the next access that regulators have admitted (R161). -/
  at_ : Nat := 0
  metered : Nat := 0
  waiting : Bool := false
  /-- R77: the walks whose mark has taken effect (true: the scale walk). -/
  marked : List Bool := []
  /-- Half cycle from which the next access of a scheduled copy with an end outside its tile can come (R135). -/
  halfAt : Nat := 0
  /-- R146: translations in use by the access that waits. -/
  inUse : List Xlate := []
  /-- Values read and not yet written, by access (R129, R136). -/
  got : Tab (List Nat) := []
  /-- R139: source values taken at the start, by access, where source and destination overlap; the bytes that overlap. -/
  snap : List (List Nat) := []
  overlap : List Nat := []
  /-- FABRIC source: READ packets are out; granules that have come back by granule of the source ends (granKey), and failed ones
  (status·8 + reason). -/
  readsOut : Bool := false
  reads : Tab (List Byte) := []
  readBad : Tab Nat := []
  /-- Fabric requests or scheduled blocks sent and not acknowledged (R140, R192). -/
  outstanding : Nat := 0
  /-- Granules that wait for a transmit buffer, oldest first (R297). -/
  txWait : List Move := []
  /-- Granules of the destination numbered so far, of a copy bound to TX runs. -/
  txNext : Nat := 0
  /-- Status of the first fault, its reason, the regulator note, granules written (R140, R144, R162). -/
  status : Nat := 0
  reason : Nat := 0
  note : Nat := 0
  granules : Nat := 0
  /-- The destination granules counted there, and the granule of each numbered one: twice its index, 1 more in the scale tensor. -/
  wrote : List Int := []
  sent : List Int := []
  /-- Walk indices of the fault and of the note kept. -/
  faultAt : Nat := 0
  noteAt : Nat := 0
  deriving DecidableEq, Repr

/-- Stitchers and translation. -/
structure Stitch where
  /-- R117: contexts. Tile t Stitcher s: scheduled 2·(4t+s), queue 2·(4t+s)+1; privileged n: 512 + n. -/
  ctxs : Tab CopyRec := []
  /-- R328: commands that wait for a busy queue context, in start order, by 4t+s. -/
  waiting : Tab (List (Nat × Nat)) := []
  /-- R145: translation buffers, most recent first, by Stitcher (4t+s, or 256+n). -/
  tlbs : Tab (List Xlate) := []
  /-- R147: translation caches by I/O die, most recent first. -/
  dieCaches : Tab (List Xlate) := []
  deriving DecidableEq, Repr

/-! ### Memory (R151 to R173) -/

/-- A request that waits at a regulator slice (R161). -/
structure Held where
  req : RegRequest
  stamp : Nat
  deriving DecidableEq, Repr

/-- One token bucket (R161): tokens in 1/1,250 byte, so that a rate in bytes per µs refills per router cycle exactly. -/
structure Bucket where
  tokens : Option Nat := none
  last : Nat := 0
  fifo : List Held := []
  deriving DecidableEq, Repr

/-- Slots of the current frame of one pseudo-channel (R158): slots granted by class, and by MPRIO. -/
structure Frame where
  sched : Nat := 0
  maint : Nat := 0
  unsched : List Nat := []
  deriving DecidableEq, Repr

/-- HBM, shared cache and regulators. -/
structure Hbm where
  /-- R141, R151: 768 GiB from physical address 0. -/
  mem : Mem := {}
  /-- R155: poisoned lines by line number, value 1. -/
  poison : Tab Nat := []
  /-- R164: lines that the shared cache's slices hold modified, by line number, value 1. -/
  dirty : Tab Nat := []
  /-- R154: corrected symbols by stack·64 + symbol position. -/
  corrected : Tab Nat := []
  /-- R155: detections by stack. -/
  uncorrectable : Tab Nat := []
  /-- R156: the tenant-change scrub suspends patrol. -/
  patrolSuspended : Bool := false
  /-- R163: partition configuration in force, keyed as the staged entries are. -/
  partActive : Tab Nat := []
  /-- R160: buckets by die·16 + partition. -/
  buckets : Tab Bucket := []
  /-- R158: by stack·64 + pseudo-channel. -/
  frames : Tab Frame := []
  deriving DecidableEq, Repr

/-! ### Fabric (R174 to R194) -/

/-- Source state for one destination (R184). -/
inductive SrcState where
  | unsynced | syncing | open
  deriving DecidableEq, Repr

/-- What a request packet serves, so that its acknowledgement finds it (R181, R186). -/
inductive Origin where
  | copyWrite (ctx granule : Nat)
  | copyRead (ctx granule : Nat)
  | bulk (req off : Nat)
  | snap
  | restore (granule : Nat)
  | other
  deriving DecidableEq, Repr

/-- A packet sent and not acknowledged (R182), with the RLEN of a READ (R198). -/
structure Outst where
  seq : Nat
  tag : Nat
  origin : Origin
  rlen : Nat := 0
  deriving DecidableEq, Repr

/-- A packet that waits at the source (R182). -/
structure Unsent where
  pkt : Packet
  origin : Origin
  deriving DecidableEq, Repr

/-- The source side for one destination chip (R182, R184). -/
structure PeerOut where
  state : SrcState := .unsynced
  next : Nat := 0
  sent : List Outst := []
  unsent : List Unsent := []
  deriving DecidableEq, Repr

/-- A packet held in the reorder buffer (R183): its sequence number, translation outcome and time. -/
structure HeldPkt where
  seq : Nat
  pkt : Packet
  stampUs : Nat
  /-- R183: outcome of the translation on the die of entry: status, reason, and the physical address of each granule. -/
  status : Nat := 0
  reason : Nat := 0
  phys : List Nat := []
  /-- R161: the request waits at a regulator. -/
  waits : Bool := false
  deriving DecidableEq, Repr

/-- The destination side for one source chip (R183): OPEN or RESYNC, the expected value, the reorder buffer. -/
structure PeerIn where
  isOpen : Bool := false
  expected : Nat := 0
  held : List HeldPkt := []
  /-- Released requests whose effect and acknowledgement are still due, oldest first (R185). -/
  released : List HeldPkt := []
  deriving DecidableEq, Repr

structure Fabric where
  out : Tab PeerOut := []
  inn : Tab PeerIn := []
  /-- R182: next TAG, 16 bits. -/
  nextTag : Nat := 0
  /-- R206: package-wide path counter, 8 bits. -/
  pathCtr : Nat := 0
  deriving DecidableEq, Repr

/-! ### Routing (R195 to R218) -/

/-- Swap states (R209). -/
inductive SwapState where
  | serving | holding | swapping | held
  deriving DecidableEq, Repr

/-- A packet at an input of the router (R195, R199), from the arrival of its header flit on; the payload is what has arrived. Ports: 1 + 32e + k
is lane k of eyelet e, 1025 + i the local port of slice i, 1029 + 4i + j the input of slice i from slice j; 0 is no buffer. -/
structure Head where
  port : Nat
  pkt : Packet
  /-- R203: the choice routine answered WAIT, or the crossing to the slice of its choice is taken. -/
  waited : Bool := false
  deriving DecidableEq, Repr

/-- A head that has its choice and waits for the downstream buffer (R199); `hdr` is the header as it leaves (R203, R213). -/
structure Chosen where
  eyelet : Nat
  lane : Nat
  hdr : List Word
  head : Head
  deriving DecidableEq, Repr

/-- A granted packet (R199): the packet at its input, the header as it leaves, flits sent. -/
structure Grant where
  head : Head
  hdr : List Word
  sent : Nat := 0
  deriving DecidableEq, Repr

structure Router where
  /-- R207: the two banks by chip number; reset all zero. Their generations are 0x2300.02 and 0x2300.03. -/
  active : Tab Word := []
  shadow : Tab Word := []
  /-- R39: extended form of the active generation. -/
  genExt : Nat := 0
  /-- R209; reset SERVING. -/
  state : SwapState := .serving
  /-- R209: the route_swap value of the swap in progress. -/
  swapValue : Nat := 0
  /-- R203, R204: heads that wait for the swap or for a lane, in order. -/
  waiting : List Head := []
  /-- R199: heads that wait for their downstream buffer, in order. -/
  chosen : List Chosen := []
  /-- R199: granted packets whose tail has not passed, by (port − 1)·8 + 2·vc + class of the downstream buffer: of the sent lane k of eyelet
  e under port 1 + 32e + k, of the input of another slice under that input's port. -/
  granted : Tab Grant := []
  /-- R199: credits of a buffer not at 65, by the same key: flits the downstream buffer still holds. -/
  used : Tab Nat := []
  /-- R201: packets given up whose tails are still to come; inputs, by the same key, to which the header of a packet cut short is on its way. -/
  dropping : List Head := []
  cut : List Nat := []
  deriving DecidableEq, Repr

/-! ### Lasers and rings (R219 to R247) -/

/-- Selector states (R222). -/
inductive Selector where
  | onA | toB | onB | toA | dark
  deriving DecidableEq, Repr

/-- Class of a laser input (R221). -/
inductive LaserClass where
  | ok | low | lost
  deriving DecidableEq, Repr

/-- One eyelet die. -/
structure EyeDie where
  /-- R222; reset ON_A. -/
  sel : Selector := .onA
  classA : LaserClass := .ok
  classB : LaserClass := .ok
  /-- R221: consecutive measurements below the LOST threshold. -/
  belowA : Nat := 0
  belowB : Nat := 0
  /-- R230: place of the next lane in the round over the 128 lanes, lane·4 + eyelet of the die. -/
  fitNext : Nat := 0
  /-- R224: a selection that waits for the end of the running Last. -/
  pendingSel : Option Nat := none
  /-- R521: laser_power_log holds a reading of input A, of input B, since the last read. -/
  seenA : Bool := false
  seenB : Bool := false
  /-- R499: the input that an injection treats as LOST, and the beat until which it does. -/
  forced : Option (Nat × Nat) := none
  deriving DecidableEq, Repr

/-- Ring state of a lane (R237, R244). -/
inductive RingState where
  | fit | suspect | unfit | neverFit
  deriving DecidableEq, Repr

/-- States of a fitting pass (R233), SWEEP and QUIESCE as one, and what SOLVE found. -/
structure FitPass where
  /-- R233: beat 0 of the pass, and code p of each ring there. -/
  start : Nat := 0
  modP : Nat := 0
  fltP : Nat := 0
  solved : Bool := false
  modCode : Option Nat := none
  fltCode : Option Nat := none
  modLight : Bool := true
  fltLight : Bool := true
  modContrast : Nat := 0
  fltContrast : Nat := 0
  tStarMc : Option Int := none
  checked : Bool := false
  checkOk : Bool := false
  phaseStep : Int := 0
  deriving DecidableEq, Repr

structure Optics where
  dies : Tab EyeDie := []
  /-- R227: tables that differ from the factory's, by ring 64e + r: 16 codes. -/
  tables : Tab (List Nat) := []
  /-- R226: heater codes driven, by ring. -/
  heaters : Tab Nat := []
  /-- R237: by lane 32e + k; reset NEVER_FIT. -/
  rings : Tab RingState := []
  /-- R233: passes in progress, by lane. -/
  fits : Tab FitPass := []
  /-- R239: lanes whose TABLE_STALE is raised, value 1. -/
  stale : Tab Nat := []
  /-- R239: steps of 10 µs since a lane's last pass with result OK, by lane; none where the age is saturated. -/
  ages : Tab Nat := []
  /-- R241: eyelets in full search, value 1. -/
  searching : Tab Nat := []
  /-- R246: ring_tables written and waiting for the restart boundary, by eyelet. -/
  pendingTables : Tab (List Nat) := []
  deriving DecidableEq, Repr

/-! ### Lanes (R248 to R270) -/

/-- Training states (R256). -/
inductive Train where
  | off | signal | phase | align | echo | beacon | quarantine | serve | wait
  deriving DecidableEq, Repr

/-- A sent block in the replay buffer (R261). -/
structure SentBlock where
  bsn : Nat
  dataFlag : Bool
  sched : Bool
  data : List Byte
  beat : Nat
  /-- Beat of the block's last replay, if any. -/
  replayed : Option Nat := none
  mendSlot : Bool := false
  /-- Scheduled context of the copy whose granule it carries (R192). -/
  ctx : Option Nat := none
  /-- R500: an acknowledgement that covered it was ignored by an injection. -/
  injected : Bool := false
  deriving DecidableEq, Repr

/-- A replay that waits for a mend slot (R261, R263). -/
structure Replay where
  eyelet : Nat
  bsn : Nat
  withData : Bool
  data : List Byte
  injected : Bool := false
  deriving DecidableEq, Repr

/-- A LINK message (R254): MSG, MARG, the number its DATA bytes hold (the turnaround of ECHO_REPLY), and the first block that may carry it,
as 4·beat + position. -/
structure LinkMsg where
  msg : Nat
  marg : Nat := 0
  data : Nat := 0
  due : Nat := 0
  deriving DecidableEq, Repr

/-- A block missing at a receiver (R260): its BSN, and the schedule beat in which it was sent when the receiver's lane schedule shows that
it carried scheduled data. -/
structure Missing where
  bsn : Nat
  sched : Option Nat := none
  /-- Beat in which it was found missing (R260). -/
  seen : Nat := 0
  /-- R500: an injection made it missing. -/
  injected : Bool := false
  /-- R265: its transfer's slack has ended without it. -/
  expired : Bool := false
  deriving DecidableEq, Repr

/-- R431: a flit of a SEAL_START or SEAL_TAG packet: whether it is the header; the KEY_ID and session key of the stream that begins after it. -/
structure SealFlit where
  bytes : List Byte
  header : Bool
  begins : Option (Nat × List Byte) := none
  deriving DecidableEq, Repr

/-- One lane of one data eyelet: what this package keeps of the direction it receives on lane k, and of the direction it sends on lane k.
The two have different partners on a group eyelet (R272): the received direction k makes one link with the sent direction of the
reverse lane (R258). -/
structure Lane where
  /-- R256; reset OFF. -/
  train : Train := .off
  /-- R204, R232, R266: paused, by a fitting pass of this end or by a PAUSE of the partner. -/
  paused : Bool := false
  /-- R216: a fitting pass is due and waits for a granted packet's tail. -/
  fitDue : Bool := false
  /-- R266: the receiver ignores the lane's content. -/
  rxIgnore : Bool := false
  /-- R266: what `rxIgnore` becomes with the next beat. -/
  rxNext : Option Bool := none
  /-- R266: this end sends only DATA = 0 blocks. -/
  txIdle : Bool := false
  /-- R256: READY sent and READY received. -/
  readySent : Bool := false
  readyRecv : Bool := false
  /-- R252: BSN of the next block sent; of the next block position received; null before READY. -/
  txBsn : Nat := 0
  rxBsn : Nat := 0
  /-- R252: blocks still to come before BSN 0, once READY is received. -/
  rxSkip : Nat := 0
  /-- R260: BSNs missing, oldest first; flits held behind them (BSN, bytes). -/
  missing : List Missing := []
  rxHeld : List (Nat × List Byte) := []
  /-- R261: replay buffer, oldest first. -/
  sent : List SentBlock := []
  /-- R262: replays that wait for a mend slot. -/
  replays : List Replay := []
  /-- R255: LINK messages due, GO before PAUSE before RESUME by insertion; the message of the beat now. -/
  links : List LinkMsg := []
  linkNow : Option LinkMsg := none
  /-- R255: a block of the beat now has carried the message. -/
  linkSent : Bool := false
  /-- R250: the next 31 bits of the sequence that the sent lane XORs, and of the one that a received lane removes; the oldest lowest. -/
  scrTx : Nat := 0
  scrRx : Option Nat := none
  /-- R258: the block sent last, as 4·beat + position, and 1 more. -/
  sentAt : Nat := 0
  /-- R255: next CREDIT combination; R268: a beacon is due. -/
  creditNext : Nat := 0
  /-- R255: beat of the last NACK. -/
  nackAt : Option Nat := none
  beaconDue : Bool := false
  /-- R254: FREED totals sent and last received, by 2·vc + class. -/
  freedTx : Tab Nat := []
  freedRx : Tab Nat := []
  /-- R258: round trip less turnaround, ps, by stamp; next stamp to send. -/
  echoes : Tab Nat := []
  echoNext : Nat := 0
  /-- R275, R286: latest beacon received, eight words; and the accepted one (R268). -/
  peer : List Word := []
  accepted : List Word := []
  /-- R286: cable_result code and negotiated revision. -/
  cable : Nat := 0
  rev : Nat := 0
  /-- R297: transmit buffer: (copy context, granule index, bytes), at most 64. -/
  txBuf : List (Nat × Nat × List Byte) := []
  /-- R431: KEY_ID and session key of the sealed stream that is sent, and of the one received; of the one that begins after the block now. -/
  sealTx : Option (Nat × List Byte) := none
  sealRx : Option (Nat × List Byte) := none
  sealNext : Option (Nat × List Byte) := none
  /-- R432: KEY_ID and SALT of a SEAL_START that came while no FABRIC slot was loaded. -/
  sealWait : Option (Nat × List Byte) := none
  /-- R433: next window to verify; R431: block positions received, and sent, since the sealed stream began. -/
  sealPos : Nat := 0
  sealIn : Nat := 0
  sealOut : Nat := 0
  /-- R431: plaintext of the window that is sent, by position; of the windows received and not verified, by position in the stream, with whether it
  is scheduled data. -/
  sealTxWin : List (Nat × List Byte) := []
  sealRxWin : List (Nat × List Byte × Bool) := []
  /-- R433: flits of windows not verified: window, virtual channel and class of the packet that they continue, bytes; tags that have come. -/
  sealHeld : List (Nat × Option (Nat × Nat) × List Byte) := []
  sealTags : List (Nat × List Byte) := []
  /-- R432: flits that came while no FABRIC slot was loaded, encrypted, by position in the stream. -/
  sealRaw : List (Nat × List Byte) := []
  /-- R431: flits of SEAL_START and SEAL_TAG packets that wait for a free block. -/
  sealFlits : List SealFlit := []
  /-- R196: payload flits still to come of the packet on each virtual channel and class, by 2·vc + class; R431: header of a one-flit CONTROL
  packet whose payload has not come, with its window on a sealed lane. -/
  frames : Tab Nat := []
  ctlHead : Option (Option Nat × List Byte) := none
  /-- R223: the selector is switching and holds the lane. -/
  switching : Bool := false
  /-- R500: an armed LANE_BLOCK or DROP_ACK injection. -/
  injectBlock : Bool := false
  dropAckUntil : Nat := 0
  deriving DecidableEq, Repr

/-- Cabling plan (R276 to R286). -/
structure Plan where
  staged : List Byte := []
  committed : List Byte := []
  /-- R281: logical eyelet served, where it is not the identity, by physical eyelet. -/
  map : Tab Nat := []
  /-- R284: (eyelet·8 + code) raised since a lane of that eyelet last passed, value 1. -/
  raised : Tab Nat := []
  /-- R39: extended form of the committed generation. -/
  genExt : Nat := 0
  /-- R278: beat of the newest plan_commit, and what beacons still say in it: member index, a plan is committed, generation, group and pod digest. -/
  told : Option (Nat × Nat × Bool × Nat × Nat × Nat) := none
  deriving DecidableEq, Repr

/-! ### The Last (R287 to R321) -/

/-- Slot states (R318). -/
inductive SlotState where
  | empty | loading | loaded | armed | running | ending | faulted
  deriving DecidableEq, Repr

structure Slot where
  state : SlotState := .empty
  /-- R320: GENERATION and SET_DIGEST of a LOADED slot; image length. -/
  gen : Nat := 0
  digest : Nat := 0
  bytes : Nat := 0
  /-- R231: fit_max_age_ms as its LOAD_LAST found it. -/
  fitAge : Nat := 0
  deriving DecidableEq, Repr

/-- A scheduled lace operation (R345 to R349): its tile and lace-table entry (64 and 0 for the pace reduction), the schedule beat of its issue,
its OP_SEQ, operation, type and set, the values held by chip, and whether its result is visible. -/
structure SchedLace where
  tile : Nat
  entry : Nat
  issued : Nat
  seq : Nat
  lop : Nat
  ltype : Nat
  set : Nat
  held : List (Nat × Nat) := []
  /-- R347: once every value is held, the schedule beat in which the result is visible. -/
  done : Option Nat := none
  deriving DecidableEq, Repr

/-- The launch in progress: from ARMED until the slot is LOADED again. -/
structure Run where
  slot : Nat := 0
  bucket : Nat := 0
  s0 : Nat := 0
  s1 : Nat := 0
  stepCount : Nat := 0
  firstStep : Nat := 0
  /-- R119, R290: the tables installed at LAUNCH: (section type, tile, words). -/
  tables : List (Nat × Nat × List Word) := []
  /-- R312: stagger for the whole launch. -/
  stagger : Nat := 0
  /-- Queue and flight of the LAUNCH command. -/
  origin : Option (Nat × Nat) := none
  /-- R308: participants whose matching READY the leader holds. -/
  ready : List Nat := []
  /-- R42: start_lead_beats and sync_timeout_us with which the handshake started. -/
  lead : Nat := 0
  syncUs : Nat := 0
  /-- R35: the launch beat once GO is sent or received, and the GO relay that is due. -/
  launchAt : Option Nat := none
  relayAt : Option Nat := none
  /-- Schedule beats issued since the launch beat; the schedule beat now is one less. -/
  sched : Nat := 0
  /-- R317, R318: the schedule beat now is being issued (no rest beat, no stall, no fault before this beat). -/
  issuing : Bool := false
  /-- R298: schedule beats of this real beat and those before it, newest first; none for a rest beat. At most 32 are kept. -/
  hist : List (Option Nat) := []
  /-- R291: records issued in this beat: (tile, record index in its stream). -/
  issued : List (Nat × Nat) := []
  /-- R318: STEP_FAULT was raised in this beat; the cleanup of ENDING follows at its end. -/
  cleanupDue : Bool := false
  /-- R310: steps begun. -/
  stepIdx : Nat := 0
  /-- R310: a step boundary's STEP_START is due. -/
  stepDue : Bool := false
  /-- R315: pace points passed; result of the pending reduction; application beats done. -/
  pacePending : Option Nat := none
  paceResult : Option Nat := none
  /-- R317: rest beats still to insert: schedule beats before which one comes, ascending, with repeats. -/
  rests : List Nat := []
  resting : Bool := false
  restCount : Nat := 0
  /-- R374: p_avg exceeded 1.05 × cap at the last pace point; the event is raised for this run of them. -/
  capOver : Bool := false
  capRaised : Bool := false
  /-- R298, R299: receive blocks written in this step: lane-run block keys, value 1; groups closed. -/
  rxSeen : Tab Nat := []
  closed : List (Nat × Nat) := []
  /-- R346, R347: lace operations issued in the launch. -/
  laceOps : List SchedLace := []
  /-- R487: this launch takes no snapshot. -/
  noSnap : Bool := false
  /-- R496: bench run under R518. -/
  bench : Bool := false
  deriving DecidableEq, Repr

/-- A load in progress (R304, R306). -/
structure Load where
  slot : Nat := 0
  bytes : Nat := 0
  status : Nat := 0
  reason : Nat := 0
  origin : Option (Nat × Nat) := none
  /-- R287, R306: source address; bytes copied; a piece that is read and not yet written; its request waits at a regulator; REG_NOTE. -/
  src : Nat := 0
  copied : Nat := 0
  piece : Option (List Byte) := none
  waits : Bool := false
  note : Nat := 0
  /-- R305: energy_coeffs as they read when the load began. -/
  coeffs : List Nat := []
  deriving DecidableEq, Repr

structure Last where
  slots : Tab Slot := []
  run : Option Run := none
  load : Option Load := none
  /-- R308: READY payloads received before the leader armed, by chip (log 28). -/
  early : Tab (List Word) := []
  deriving DecidableEq, Repr

/-! ### Queues, semaphores, Lace (R322 to R354) -/

/-- Queue states (R326). -/
inductive QState where
  | disabled | idle | running | waiting | stopped | draining
  deriving DecidableEq, Repr

/-- What a finished command reports (R334). -/
structure Result where
  status : Nat := 0
  reason : Nat := 0
  note : Nat := 0
  detail : Nat := 0
  value : Nat := 0
  /-- R493: the beat that the record names, where it is not the beat of the record. -/
  beat : Option Nat := none
  deriving DecidableEq, Repr

/-- A command in flight (R328): its number in the queue, its eight words, its start beat, its result once it has one. -/
structure Flight where
  id : Nat
  words : List Word
  beat : Nat
  /-- The command's meaning has begun (its own row has been taken). -/
  begun : Bool := false
  result : Option Result := none
  deriving DecidableEq, Repr

structure Queue where
  state : QState := .disabled
  stop : Nat := 0
  flights : List Flight := []
  deriving DecidableEq, Repr

/-- An outstanding queue lace operation (R350). -/
structure LaceOp where
  seq : Nat
  lop : Nat
  ltype : Nat
  queue : Nat
  id : Nat
  /-- (chip, value) held, own included; the fold, once every member's is held and the write of the result waits at a regulator. -/
  held : List (Nat × Nat) := []
  out : Option Nat := none
  /-- R162: the note of its first request that was delayed. -/
  note : Nat := 0
  deriving DecidableEq, Repr

structure LaceSet where
  enabled : Bool := false
  /-- R354: 0 ONE_HOP, 1 TREE. -/
  shape : Nat := 0
  /-- R339: U16 entries as written. -/
  members : List Nat := []
  seq : Nat := 0
  ops : List LaceOp := []
  /-- R350: messages held 1 to 3 ahead: (chip, OP_SEQ, LOP, LTYPE, value). -/
  early : List (Nat × Nat × Nat × Nat × Nat) := []
  deriving DecidableEq, Repr

/-- A bulk request in progress (R351): BULK_DIGEST or BULK_COPY, source, length, destination or lace set; granules of a rack-window source that
have come back, and 4 KiB READs still out; the digest, and the results of MIN and MAX. -/
structure Bulk where
  req : Nat := 0
  digest : Bool := false
  src : Nat := 0
  len : Nat := 0
  dst : Nat := 0
  got : Tab (List Byte) := []
  readsOut : Nat := 0
  value : Nat := 0
  min : Option Nat := none
  max : Option Nat := none
  deriving DecidableEq, Repr

structure Queues where
  queues : Tab Queue := []
  /-- R328: queue each engine last started, for the round-robin. -/
  lastStarted : Tab Nat := []
  sets : Tab LaceSet := []
  /-- R343: the die whose Lace unit delivers: 0, or 1 after a takeover. -/
  laceDie : Nat := 0
  /-- R353, queue 511: the Cobbler's ring, commands appended by mgmt_command and not started, and its completion ring, records not consumed. -/
  mgmtRing : List (List Byte) := []
  mgmtCq : List (List Byte) := []
  /-- R187: number of the next bulk request. -/
  bulkNext : Nat := 0
  /-- R351: the bulk request in progress. -/
  bulk : Option Bulk := none
  deriving DecidableEq, Repr

/-! ### Power and heat (R355 to R383) -/

/-- One sense tap (R358, R360). -/
structure Tap where
  /-- Consecutive open-detect codes, consecutive valid samples while open. -/
  openRun : Nat := 0
  validRun : Nat := 0
  isOpen : Bool := false
  dead : Bool := false
  /-- R356, R359, R360: the last 100 powers, newest first, in mW: with estimates for open samples (raw), and corrected for a broken
  return as well (hist); the estimates of a tile (est). -/
  raw : List Frac := []
  hist : List Frac := []
  est : List Frac := []
  /-- R359: 1 ms averages of the last second, newest first, none for one at which the tap was open; the estimate held for an open tap that is no
  tile. -/
  avgs : List (Option Frac) := []
  heldEst : Frac := ⟨0, 1⟩
  /-- R360: 1 ms average at the last IN_BOUNDS check. -/
  good : Frac := ⟨0, 1⟩
  deriving DecidableEq, Repr

/-- One return column (R360). -/
structure Column where
  broken : Bool := false
  /-- Offset o, in mW. -/
  offset : Frac := ⟨0, 1⟩
  deriving DecidableEq, Repr

/-- Thermal states (R368). -/
inductive Thermal where
  | normal | warning | throttle | limit | shutdown
  deriving DecidableEq, Repr

/-- R380: the thermal model as a standby Cobbler mirrors it at every evaluation. -/
structure Mirror where
  temps : Tab Frac := []
  biases : Tab Frac := []
  plateBias : Frac := ⟨0, 1⟩
  deriving DecidableEq, Repr

structure Power where
  taps : Tab Tap := []
  columns : Tab Column := []
  /-- R360: consecutive checks out of bounds, consecutive checks IN_BOUNDS on raw readings. -/
  outRun : Nat := 0
  inRun : Nat := 0
  /-- R356: input power, voltage times signed current, in µW; input current in mA; fast-sense current in mA: last 100 samples, newest first. -/
  inHist : List Int := []
  curHist : List Int := []
  coreHist : List Int := []
  /-- R397, R405: rail voltages of the last 100 samples, newest first, nine each, in mV. -/
  railHist : List (List Nat) := []
  /-- R359: activity counts of each tile in the current interval, phys·128 + 16·kind + format. -/
  activity : Tab Nat := []
  /-- R359, R381: energy_coeffs, 128 values of 32 bits. -/
  coeffs : List Nat := Config.factoryCoeffs
  /-- R364: node temperatures and biases in 0.001 °C, exact. -/
  temps : Tab Frac := []
  biases : Tab Frac := []
  plateBias : Frac := ⟨0, 1⟩
  /-- R382: 10 µs steps since the last write of coolant_inlet_temp. -/
  coolantSteps : Nat := 0
  /-- R372: time below 100 °C in SHUTDOWN, in µs. -/
  clearUs : Nat := 0
  /-- R365: COOLANT_STALE holds. -/
  coolantStale : Bool := false
  /-- R368; reset NORMAL. -/
  thermal : Thermal := .normal
  /-- R380: the last mirror. -/
  mirror : Option Mirror := none
  /-- R372: THERMTRIP_N is driven low and all issue has stopped; and, after the taper, the clocks outside the always-on domain. -/
  tripped : Bool := false
  clocksOff : Bool := false
  /-- R370: the LIMIT stall holds. -/
  stalled : Bool := false
  /-- R366: t* that waits for the next evaluation, by eyelet die. -/
  tStars : Tab Int := []
  /-- R373: sum and number of the input-power samples since the last pace point or the launch beat, in µW. -/
  paceSum : Int := 0
  paceCount : Nat := 0
  /-- R377: ballast of the beat, in mA, exact; R378: measured currents of the last 28 beats, newest first, in mA. -/
  ballastMa : Frac := ⟨0, 1⟩
  measured : List Nat := []
  /-- R375: request applied in the last 1 ms window outside a Last. -/
  localX : Nat := 256
  capOver : Bool := false
  capRaised : Bool := false
  /-- R379: discharge loads connected. -/
  discharge : Bool := false
  /-- R377: the governor tapers. -/
  taper : Bool := false
  deriving DecidableEq, Repr

/-! ### Welts (R384 to R407) -/

/-- Welt states (R389). -/
inductive WeltState where
  | down | training | up | degraded | loopback | unused
  deriving DecidableEq, Repr

structure Welt where
  state : WeltState := .down
  repaired : Nat := 0
  /-- R387: next WSEQ expected and sent; R388: flits are discarded until the replay. -/
  rxSeq : Nat := 0
  txSeq : Nat := 0
  naking : Bool := false
  /-- R388: the first WSEQ sent that no ACK_WSEQ has covered; the last 64 flits sent, oldest first. -/
  acked : Nat := 0
  sent : List WeltFlit := []
  /-- R388, R389: the flit replayed last, while no acknowledgement has come since, and how many replays of it have failed. -/
  replayed : Option Nat := none
  failedReplays : Nat := 0
  /-- R389: trainings that have failed since the dies left reset or the welt came up; R392: the ends share no revision. -/
  fails : Nat := 0
  noRev : Bool := false
  /-- R387: flits sent whose credits are out, and flit buffers freed and not yet returned, by WVC. -/
  used : Tab Nat := []
  freed : Tab Nat := []
  deriving DecidableEq, Repr

structure Pkg where
  welts : Tab Welt := []
  /-- R394: physical tile under test; tiles whose test waits for it: fenced by try-on (R499, log 85), or in the test of every die (R400, log 87). -/
  testing : Option Nat := none
  testNext : List Nat := []
  deriving DecidableEq, Repr

/-! ### Tenancy and keys (R408 to R437) -/

inductive TenState where
  | vacant | clearing | active | failed
  deriving DecidableEq, Repr

inductive TenMode where
  | vacant | opn | sealed
  deriving DecidableEq, Repr

/-- The values of a tenant_change (R411). -/
structure TenVals where
  id : Nat := 0
  mode : TenMode := .vacant
  /-- R408: chips of the peer set, ascending. -/
  peers : List Nat := []
  deriving DecidableEq, Repr

inductive KeyState where
  | empty | loaded | pending
  deriving DecidableEq, Repr

/-- One key slot (R422). -/
structure KeySlot where
  state : KeyState := .empty
  purpose : Nat := 0
  refs : Nat := 0
  key : List Byte := []
  newPurpose : Nat := 0
  newKey : List Byte := []
  deriving DecidableEq, Repr

/-- Weight install in progress (R428). -/
structure Install where
  slot : Nat := 0
  imageId : Nat := 0
  src : Nat := 0
  dst : Nat := 0
  plain : Nat := 0
  status : Nat := 0
  reason : Nat := 0
  chunks : Nat := 0
  waiting : Bool := false
  /-- R160, R428: requests of the chunk in hand that regulators have admitted; its plaintext once it is read; a request waits. -/
  passed : Nat := 0
  text : Option (List Byte) := none
  held : Bool := false
  /-- R429: the granules of plaintext written: of HBM, or of a logical tile's scratchpad. -/
  places : List (Option Nat × Nat) := []
  deriving DecidableEq, Repr

inductive FwState where
  | none | staged | rejected | activating
  deriving DecidableEq, Repr

structure Tenancy where
  state : TenState := .vacant
  vals : TenVals := {}
  /-- R414: the accepted change. -/
  change : Option TenVals := none
  /-- R413 step 5: physical tiles still zeroising; the HBM scrub still runs. -/
  zeroising : List Nat := []
  scrubbing : Bool := false
  keys : Tab KeySlot := []
  install : Option Install := none
  /-- R413, R430: the HBM keys of the four security engines, 32 bytes each; none when encryption is off. -/
  hbmKeys : List (List Byte) := []
  fw : FwState := .none
  /-- R416, R417: running image, staged image, standby bank. -/
  running : Option FwImage := none
  stagedImg : Option FwImage := none
  measurement : List Byte := []
  /-- R418: the fused counter, where fuses have been blown since manufacture. -/
  blown : Option Nat := none
  /-- R421: nonce of the report being signed; the report. -/
  nonce : Option (List Byte) := none
  report : List Byte := []
  /-- R436: anchors, DER certificates. -/
  anchors : List (List Byte) := []
  deriving DecidableEq, Repr

/-! ### Dictionary and management (R438 to R463) -/

/-- A segmented session (R450 to R453). -/
structure Seg where
  id : Nat
  via : Via
  key : Nat
  write : Bool
  count : Nat
  /-- Snapshot bytes of a read session. -/
  data : List Byte := []
  /-- Segments received of a write session. -/
  segs : Tab (List Byte) := []
  crc : Option Nat := none
  deriving DecidableEq, Repr

/-- A DTLS session (R435, R449): its memory of executed requests, newest first, and its own inspection values (R463, R514). -/
structure Dtls where
  newest : Option Nat := none
  memory : List (Nat × Out) := []
  /-- R435, R436: the anchor at which the client's chain ends, if it is one of the Aelvo's. -/
  anchor : Option (List Byte) := none
  memAddr : Nat := 0
  memLen : Nat := 64
  exportOff : Nat := 0
  deriving DecidableEq, Repr

structure Mgmt where
  linkUp : Bool := false
  sessions : Tab Dtls := []
  segs : List Seg := []
  nextSeg : Nat := 1
  /-- R453: reasons of aborted sessions, by session number. -/
  aborted : Tab Nat := []
  /-- R440: pending RWX values by register, present only when written. -/
  pendingRwx : List (Nat × Nat) := []
  /-- R462: a port entry was written: every session ends after the response. -/
  portPending : Bool := false
  /-- R458 to R460: alert bits, line state, high samples in a row, pending period samples, holdoff samples. -/
  alerts : Nat := 0
  stuck : Bool := false
  highRun : Nat := 0
  lineWanted : Bool := false
  linePending : Bool := false
  pendingFor : Nat := 0
  sinceEnd : Nat := 0
  notifyId : Nat := 0
  /-- R423: reads of tread_export_chunk, by session, that wait for a PENDING EXPORT slot. -/
  waiting : List (Nat × Kdp) := []
  /-- R453: chip that last rang each mailbox channel. -/
  mailboxChip : Tab Nat := []
  ipv6 : List Byte := []
  gateway : List Byte := []
  deriving DecidableEq, Repr

/-! ### Reset and bring-up (R464 to R478) -/

inductive Boot where
  | off | rom | fwHalt | waitPower | dies | memory | map | ready | excluded
  deriving DecidableEq, Repr

/-- What flash holds of the calibration set (R467). -/
structure Calib where
  tables : Tab (List Nat) := []
  rings : Tab RingState := []
  biases : Tab Frac := []
  plateBias : Frac := ⟨0, 1⟩
  deriving DecidableEq, Repr

/-- R474: device-fault marks: DIE_DEAD of a non-tile, RAIL_FAULT, ZEROISE_FAIL of a stack, SPARES_EXHAUSTED, and a tenancy that has become FAILED. -/
structure Marks where
  dieDead : Bool := false
  railFault : Bool := false
  stackFail : Bool := false
  spares : Bool := false
  tenFail : Bool := false
  deriving DecidableEq, Repr

/-- R467: what is written to flash at one commit. -/
inductive FlashPart where
  | anchors | chip | plan | banks | tiles | marks | tenancy | calib
  deriving DecidableEq, Repr

/-- R467, R416: what on-package flash holds, each part as it was written last. -/
structure Flash where
  /-- Registers of the chip number, the plan and the banks (0x2380.01, what reads the committed plan, 0x2300.02 and 0x2300.03). -/
  regs : Tab Nat := []
  pendingChip : List (Nat × Nat) := []
  anchors : List (List Byte) := []
  plan : Plan := {}
  active : Tab Word := []
  shadow : Tab Word := []
  genExt : Nat := 0
  tileMap : Tab Nat := []
  /-- Health of the tiles that are not HEALTHY. -/
  health : Tab Health := []
  marks : Marks := {}
  ten : TenState := .vacant
  vals : TenVals := {}
  change : Option TenVals := none
  calib : Calib := {}
  /-- R416: the two image banks, where they are not as they came from manufacture. -/
  images : Tab FwImage := []
  deriving DecidableEq, Repr

structure Reset where
  /-- R468; before the always-on rails rise, `off`. -/
  boot : Boot := .off
  /-- R464: reset_cause code. -/
  cause : Nat := 0
  /-- R465: RST_N holds the package. -/
  held : Bool := false
  pwrOk : Bool := false
  /-- R472: physical tile of each logical tile, where it differs from the fused map. -/
  tileMap : Tab Nat := []
  /-- R474: device-fault marks. -/
  marks : Marks := {}
  /-- R474: exclusion bits as the last restart boundary found them. -/
  exclusion : Nat := 0
  /-- R416, R467. -/
  flash : Flash := {}
  /-- R464: the reset in progress was POWER or COLD, so MEMORY follows DIES. -/
  full : Bool := false
  /-- R464: PWR_OK has fallen since the always-on rails rose, so its next rise is a POWER reset. -/
  fell : Bool := false
  strapBad : Bool := false
  straps : Nat := 0
  slotId : Nat := 0
  deriving DecidableEq, Repr

/-! ### Faults, rollback, try-on (R479 to R502) -/

inductive Rollback where
  | none | faulted | restoring | armedReplay | replaying | abandoned
  deriving DecidableEq, Repr

/-- What a FAULT of a participant reported (R484). -/
structure PeerFault where
  chip : Nat
  stepA : Option Nat
  stepB : Option Nat
  faultStep : Nat
  faultBeat : Nat
  deriving DecidableEq, Repr

/-- A report that waits out its holdoff (R498). -/
structure HeldReport where
  code : Nat
  chip : Nat
  rank : Nat
  /-- Beat of the raise. -/
  beat : Nat
  deriving DecidableEq, Repr

/-- An armed or unrecovered injection (R499, R500). -/
structure Injection where
  kind : Nat
  unit : Nat
  atBeat : Nat
  fired : Bool := false
  deriving DecidableEq, Repr

/-- A snapshot being streamed (R486). -/
structure Snap where
  step : Nat
  slot : Nat
  /-- SNAPSHOT command that takes it, if any. -/
  origin : Option (Nat × Nat) := none
  /-- Writes sent to another package and not acknowledged; the header, still to be written to the local slot. -/
  acks : Nat := 0
  header : List Word := []
  /-- Status and reason of the first read or write that failed. -/
  status : Nat := 0
  reason : Nat := 0
  /-- R117, R118: the privileged Stitcher that takes it, if one was free; granules written. -/
  ctx : Option Nat := none
  granules : Nat := 0
  deriving DecidableEq, Repr

structure Faults where
  log : List FaultRec := []
  /-- R39: extended form of fault_epoch. -/
  epochExt : Nat := 0
  /-- R485, 0x7000.10: snapshot_ranges, 16 bytes each. -/
  ranges : List Byte := []
  rollback : Rollback := .none
  /-- R483, R492: FAULTs held, own included. -/
  peers : List PeerFault := []
  /-- R492: last restart step and how often in a row. -/
  lastS : Option Nat := none
  sameS : Nat := 0
  /-- R484: the greatest FAULT_BEAT, from the ROLLBACK. -/
  faultBeat : Nat := 0
  held : List HeldReport := []
  /-- R497: (code, chip) reported in the epoch; R498: chips acknowledged for it. -/
  reported : List (Nat × Nat) := []
  acked : List Nat := []
  injects : List Injection := []
  tryonNext : Nat := 0
  snap : Option Snap := none
  /-- R495: the restore that runs: step, chip, and base of the slot. -/
  restore : Option (Nat × Nat × Nat) := none
  /-- What it has read through the rack window, by granule of the copy; READs not answered; status of the first that failed; the contents have been
  asked for, after the header and tables (R493, R495). -/
  restoreGot : Tab (List Byte) := []
  restoreOut : Nat := 0
  restoreBad : Nat := 0
  restoreBody : Bool := false
  /-- R491: the slot that the relaunch takes; none after a copy made outside a Last (log 46). -/
  relaunch : Option Nat := none
  /-- R500: the STEP_FAULT that holds the package follows from an injection alone. -/
  injectedFault : Bool := false
  /-- R512: tread position (total bytes written) of local snapshot slots 0 and 1. -/
  treadPos0 : Nat := 0
  treadPos1 : Nat := 0
  /-- R494: TREAD_POS of the snapshot restored. -/
  replayPos : Nat := 0
  deriving DecidableEq, Repr

/-! ### Trace and tread log (R503 to R522) -/

/-- A tread record as the ring holds it (R511), with the total offset at which it starts. -/
structure TreadRec where
  pos : Nat
  kind : Nat
  src : Nat
  queue : Nat
  sched : Option Nat
  beat : Nat
  arg : Nat
  payload : List Byte
  deriving DecidableEq, Repr

structure Trace where
  /-- R509: records waiting for the port, oldest first, four words each; a FAULT pair is two. -/
  queue : List (List Word) := []
  lostPending : Nat := 0
  /-- R506: blocks sent on the port, modulo 2^16. -/
  portBlock : Nat := 0
  /-- R250, R506: the sequence of each lane of the port that has sent. -/
  scramblers : Tab Nat := []
  /-- R510: records in the ring, oldest first; total bytes ever written. -/
  tread : List TreadRec := []
  treadTotal : Nat := 0
  frozen : Bool := false
  /-- R512: no record at or after TREAD_POS of local snapshot slot 0 (slot 1) has been overwritten or lost. -/
  ok0 : Bool := true
  ok1 : Bool := true
  /-- R494: position of the next record to re-apply. -/
  replayAt : Nat := 0
  /-- R518: the next LAUNCH is a bench run; its copied log (address, length). -/
  bench : Option (Nat × Nat) := none
  /-- R517: interval used by the launch in progress. -/
  digestEvery : Nat := 0
  /-- R508: beat of the last BEAT_MARK, from which trace_mark_beats counts. -/
  markAt : Option Nat := none
  deriving DecidableEq, Repr

/-- The whole package, with the commands that wait. -/
structure State where
  /-- The commands that wait, first in first out. -/
  pending : List Instr := []
  /-- What has left the package, in order. -/
  out : List Out := []
  /-- Dictionary scalars and counter arrays that differ from their default, by `regKey`. -/
  regs : Tab Nat := []
  /-- MODEL's own: how many free values have been drawn (DESIGN CHOICE, log 3). -/
  draws : Nat := 0
  clock : Clock := {}
  phys : Tab PhysTile := []
  tiles : Tab LogTile := []
  stitch : Stitch := {}
  hbm : Hbm := {}
  fabric : Fabric := {}
  router : Router := {}
  optics : Optics := {}
  lanes : Tab Lane := []
  plan : Plan := {}
  last : Last := {}
  queues : Queues := {}
  power : Power := {}
  pkg : Pkg := {}
  tenancy : Tenancy := {}
  mgmt : Mgmt := {}
  reset' : Reset := {}
  faults : Faults := {}
  trace : Trace := {}
  deriving DecidableEq, Repr

/-- The package before its always-on rails rise: every field at its Reset or Default value. -/
def State.reset : State := {}

/-- The model never stops with a fault: the spec gives every command an effect in every state (safe: nothing is cut short).
The one constructor is raised by nobody; it keeps the type inhabited. -/
inductive Fault where
  /-- Raised by nobody. Safe. -/
  | unused
  deriving DecidableEq, Repr

/-- Refusals. -/
inductive Refusal where
  /-- The command named has no meaning in this model yet; raised only by the arms of Dispatch. Safe: nothing is claimed of it. -/
  | notModelled (mnemonic : String)
  deriving DecidableEq, Repr

end Sys2Proof.Machine
end

