-- ==== Sys2Proof/Machine/Flags.lean ====
section
/-! DEFINITION. The status and event codes of R479 with their alert classes (R458), and the order of 16-bit and 32-bit
counters (R40). -/

namespace Sys2Proof.Machine

/-! ### R479 -/

abbrev Code.ok : Nat := 0x00
abbrev Code.reservedSet : Nat := 0x01
abbrev Code.formatUnsupported : Nat := 0x02
abbrev Code.descriptorInvalid : Nat := 0x03
abbrev Code.alignFault : Nat := 0x04
abbrev Code.xlateFault : Nat := 0x05
abbrev Code.scheduleInvalid : Nat := 0x06
abbrev Code.privDenied : Nat := 0x07
abbrev Code.windowClosed : Nat := 0x10
abbrev Code.memPoison : Nat := 0x11
abbrev Code.refusedCap : Nat := 0x12
abbrev Code.noRoute : Nat := 0x13
abbrev Code.fabricTimeout : Nat := 0x14
abbrev Code.routeBusy : Nat := 0x15
abbrev Code.rollingBack : Nat := 0x16
abbrev Code.lastBusy : Nat := 0x20
abbrev Code.slotEmpty : Nat := 0x21
abbrev Code.notParticipant : Nat := 0x22
abbrev Code.profileRejected : Nat := 0x23
abbrev Code.refusedShape : Nat := 0x24
abbrev Code.residentMismatch : Nat := 0x25
abbrev Code.syncFault : Nat := 0x26
abbrev Code.laneUnavailable : Nat := 0x27
abbrev Code.weltDegraded : Nat := 0x28
abbrev Code.tileFenced : Nat := 0x29
abbrev Code.stepFault : Nat := 0x2A
abbrev Code.mendExhausted : Nat := 0x2B
abbrev Code.peerLost : Nat := 0x2C
abbrev Code.snapshotLate : Nat := 0x2D
abbrev Code.snapshotFail : Nat := 0x2E
abbrev Code.tryonFailed : Nat := 0x2F
abbrev Code.queueOverflow : Nat := 0x30
abbrev Code.queueDisabled : Nat := 0x31
abbrev Code.waitTimeout : Nat := 0x32
abbrev Code.laceSetInvalid : Nat := 0x33
abbrev Code.laceMismatch : Nat := 0x34
abbrev Code.laceTimeout : Nat := 0x35
abbrev Code.keyBusyDeferred : Nat := 0x40
abbrev Code.keyRevoked : Nat := 0x41
abbrev Code.keyUnwrapFail : Nat := 0x42
abbrev Code.imageAuthFail : Nat := 0x43
abbrev Code.sealedDenied : Nat := 0x44
abbrev Code.tenantClearing : Nat := 0x45
abbrev Code.sealAuthFail : Nat := 0x46
abbrev Code.sealMismatch : Nat := 0x47
abbrev Code.fwAuthFail : Nat := 0x48
abbrev Code.noEntry : Nat := 0x50
abbrev Code.accessDenied : Nat := 0x51
abbrev Code.lengthMismatch : Nat := 0x52
abbrev Code.valueTooLarge : Nat := 0x53
abbrev Code.valueRefused : Nat := 0x54
abbrev Code.deviceResetting : Nat := 0x55
abbrev Code.sessionBusy : Nat := 0x56
abbrev Code.sessionAborted : Nat := 0x57
abbrev Code.staleRequest : Nat := 0x58
abbrev Code.versionUnsupported : Nat := 0x59
abbrev Code.laserLow : Nat := 0x60
abbrev Code.laserLost : Nat := 0x61
abbrev Code.ringUnfit : Nat := 0x62
abbrev Code.tableStale : Nat := 0x63
abbrev Code.swapped : Nat := 0x64
abbrev Code.portRotated : Nat := 0x65
abbrev Code.planMismatch : Nat := 0x66
abbrev Code.refLost : Nat := 0x67
abbrev Code.thermalWarning : Nat := 0x70
abbrev Code.thermalThrottle : Nat := 0x71
abbrev Code.thermalLimit : Nat := 0x72
abbrev Code.thermalShutdown : Nat := 0x73
abbrev Code.coolantStale : Nat := 0x74
abbrev Code.powerCapExceeded : Nat := 0x75
abbrev Code.slewViolation : Nat := 0x76
abbrev Code.energyLimit : Nat := 0x77
abbrev Code.reverseCurrent : Nat := 0x78
abbrev Code.senseOpen : Nat := 0x79
abbrev Code.returnBroken : Nat := 0x7A
abbrev Code.senseMismatch : Nat := 0x7B
abbrev Code.dieDead : Nat := 0x80
abbrev Code.zeroiseFail : Nat := 0x81
abbrev Code.railFault : Nat := 0x82
abbrev Code.flashFail : Nat := 0x83
abbrev Code.bringupTimeout : Nat := 0x84
abbrev Code.sparesExhausted : Nat := 0x85
abbrev Code.strapInvalid : Nat := 0x86
abbrev Code.alertStuck : Nat := 0x87

/-- R479, R458: the bit of alert_unacked that a raise of a code sets. -/
def alertBit (code : Nat) : Option Nat :=
  if code = 0x2A ∨ (0x2D ≤ code ∧ code ≤ 0x2F) then some 1
  else if code = 0x2B ∨ code = 0x2C ∨ code = 0x59 ∨ (0x60 ≤ code ∧ code ≤ 0x66) then some 4
  else if 0x46 ≤ code ∧ code ≤ 0x48 then some 5
  else if code = 0x67 then some 6
  else if 0x70 ≤ code ∧ code ≤ 0x74 then some 2
  else if 0x75 ≤ code ∧ code ≤ 0x7B then some 3
  else if 0x80 ≤ code ∧ code ≤ 0x86 then some 0
  else if code = 0x87 then some 7
  else none

/-- R482 ERR_CLASS: 1 for a step fault, 2 for the device-fault kinds, 0 for a notice. -/
def errClass (code : Nat) : Nat :=
  if code = Code.stepFault then 1
  else if code = Code.dieDead ∨ code = Code.zeroiseFail ∨ code = Code.railFault ∨ code = Code.sparesExhausted then 2
  else 0

/-! ### R39, R40 -/

/-- R40: `a` is newer than `b` as an `n`-bit counter: 0 < (a − b) mod 2^n < 2^(n−1). -/
def newer (n a b : Nat) : Bool :=
  let d := (a + 2 ^ n - b % 2 ^ n) % 2 ^ n
  0 < d && d < 2 ^ (n - 1)

/-- R40: the 64-bit extended value that follows `prev` when an `n`-bit counter takes the value `v`. -/
def extend (n prev v : Nat) : Nat :=
  let d := (v % 2 ^ n + 2 ^ n - prev % 2 ^ n) % 2 ^ n
  if d < 2 ^ (n - 1) then (prev + d) % 2 ^ 64 else (prev + 2 ^ 64 - (2 ^ n - d)) % 2 ^ 64

end Sys2Proof.Machine
end

