-- ==== Sys2Proof/Machine/Regs.lean ====
section
/-! DEFINITION. The object dictionary (R438 to R444, R523, R524): the table of its entries, written row by row from the entry
tables of the spec's chapters, and the place of each scalar and each counter array in `State.regs`. -/

namespace Sys2Proof.Machine

/-- The types of R439. -/
inductive Ty where
  | u8 | u16 | u32 | u64 | i32 | f32 | bits32 | str | blob
  deriving DecidableEq, Repr

/-- The access codes of R440. -/
inductive Acc where
  | ro | rw | wo | rc | rwx
  deriving DecidableEq, Repr

/-- One entry, or one family of entries (an index per eyelet, tile, partition or set): its index, how many indices share it,
subindex, name, type, access, whether TEN, value length in bytes (a maximum when `varlen`), bytes of one element when the value is
numeric, default of one element, and the plain range of a written element. -/
structure Entry where
  index : Nat
  count : Nat
  sub : Nat
  name : String
  ty : Ty
  acc : Acc
  ten : Bool
  size : Nat
  varlen : Bool
  elem : Nat
  dflt : Nat
  lo : Nat
  hi : Nat
  deriving DecidableEq, Repr

/-- A register of the dictionary in `State.regs`: the key of its first element, the bits of an element, its default. -/
structure Reg where
  key : Nat
  bits : Nat
  dflt : Nat
  deriving DecidableEq, Repr

/-- The key of element `i` of subindex `sub` of index `index`. -/
def regKey (index sub i : Nat) : Nat := (index * 256 + sub) * 65536 + i

/-- Element `i` of a register array. -/
def Reg.at (r : Reg) (i : Nat) : Reg := { r with key := r.key + i }

/-- The register that holds element `i` of an entry at one of its indices. -/
def Entry.reg (e : Entry) (index i : Nat) : Reg := ⟨regKey index e.sub i, 8 * e.elem, e.dflt⟩

/-! ### Registers by name -/

/-- R41, 0x1100.01. -/
def Reg.refSource : Reg := ⟨regKey 0x1100 0x1 0, 8, 0⟩
/-- R41, 0x1100.02. -/
def Reg.refState : Reg := ⟨regKey 0x1100 0x2 0, 8, 0⟩
/-- R41, 0x1100.03. -/
def Reg.refOffsetPpb : Reg := ⟨regKey 0x1100 0x3 0, 32, 0⟩
/-- R41, 0x1100.04. -/
def Reg.holdoverLimitMs : Reg := ⟨regKey 0x1100 0x4 0, 16, 0xa⟩
/-- R41, 0x1100.05. -/
def Reg.beatCounter : Reg := ⟨regKey 0x1100 0x5 0, 64, 0⟩
/-- R41, 0x1100.06. -/
def Reg.stepNumber : Reg := ⟨regKey 0x1100 0x6 0, 32, 0⟩
/-- R41, 0x1100.07. -/
def Reg.stepNumberExt : Reg := ⟨regKey 0x1100 0x7 0, 64, 0⟩
/-- R41, 0x1100.08. -/
def Reg.launchBeat : Reg := ⟨regKey 0x1100 0x8 0, 64, 0⟩
/-- R41, 0x1100.09. -/
def Reg.syncTimeoutUs : Reg := ⟨regKey 0x1100 0x9 0, 32, 0x3e8⟩
/-- R41, 0x1100.0A. -/
def Reg.startLeadBeats : Reg := ⟨regKey 0x1100 0xa 0, 16, 0x80⟩
/-- R41, 0x1100.0B. -/
def Reg.wallAnchorNs : Reg := ⟨regKey 0x1100 0xb 0, 64, 0⟩
/-- R41, 0x1100.0C. -/
def Reg.wallAnchorBeat : Reg := ⟨regKey 0x1100 0xc 0, 64, 0⟩
/-- R41, 0x1100.0D. -/
def Reg.refFailovers : Reg := ⟨regKey 0x1100 0xd 0, 32, 0⟩
/-- R41, 0x1100.0E. -/
def Reg.refHoldovers : Reg := ⟨regKey 0x1100 0xe 0, 32, 0⟩
/-- R99, 0x3040.01. -/
def Reg.arrayDims : Reg := ⟨regKey 0x3040 0x1 0, 32, 0x800080⟩
/-- R99, 0x3040.02. -/
def Reg.rowStateSets : Reg := ⟨regKey 0x3040 0x2 0, 8, 4⟩
/-- R99, 0x3040.03. -/
def Reg.funcRefRevision : Reg := ⟨regKey 0x3040 0x3 0, 16, 1⟩
/-- R116, 0x3050.01. -/
def Reg.scratchpadBytes : Reg := ⟨regKey 0x3050 0x1 0, 32, 0x2000000⟩
/-- R116, 0x3050.02. -/
def Reg.bankCount : Reg := ⟨regKey 0x3050 0x2 0, 8, 0x40⟩
/-- R116, 0x3050.03. -/
def Reg.bankWidthBytes : Reg := ⟨regKey 0x3050 0x3 0, 8, 0x40⟩
/-- R116, 0x3050.04. -/
def Reg.handleEntries : Reg := ⟨regKey 0x3050 0x4 0, 16, 0x100⟩
/-- R116, 0x3050.05. -/
def Reg.windowEntries : Reg := ⟨regKey 0x3050 0x5 0, 8, 0x10⟩
/-- R116, 0x3050.06. -/
def Reg.lineBufferBytes : Reg := ⟨regKey 0x3050 0x6 0, 32, 0x4000⟩
/-- R116, 0x3050.07. -/
def Reg.lastZeroiseCycles : Reg := ⟨regKey 0x3050 0x7 0, 32, 0⟩
/-- R149, 0x3060.01. -/
def Reg.stitchersPerTile : Reg := ⟨regKey 0x3060 0x1 0, 8, 4⟩
/-- R149, 0x3060.02. -/
def Reg.privilegedStitchers : Reg := ⟨regKey 0x3060 0x2 0, 8, 8⟩
/-- R149, 0x3060.03. -/
def Reg.patternEntries : Reg := ⟨regKey 0x3060 0x3 0, 8, 0x80⟩
/-- R149, 0x3060.04. -/
def Reg.tensorDescEntries : Reg := ⟨regKey 0x3060 0x4 0, 16, 0x100⟩
/-- R149, 0x3060.05. -/
def Reg.stitcherDescEntries : Reg := ⟨regKey 0x3060 0x5 0, 16, 0x1000⟩
/-- R149, 0x3060.06. -/
def Reg.xlateEntries : Reg := ⟨regKey 0x3060 0x6 0, 16, 0x400⟩
/-- R149, 0x3060.07. -/
def Reg.xlatePinLimit : Reg := ⟨regKey 0x3060 0x7 0, 16, 0x300⟩
/-- R149, 0x3060.08. -/
def Reg.xlateRoot : Reg := ⟨regKey 0x3060 0x8 0, 64, 0⟩
/-- R149, 0x3060.09. -/
def Reg.xlateInvalidate : Reg := ⟨regKey 0x3060 0x9 0, 64, 0⟩
/-- R149, 0x3060.0A. -/
def Reg.pageSizes : Reg := ⟨regKey 0x3060 0xa 0, 32, 7⟩
/-- R171, 0x3100.01. -/
def Reg.stackCount : Reg := ⟨regKey 0x3100 0x1 0, 8, 0x10⟩
/-- R171, 0x3100.02. -/
def Reg.stackBytes : Reg := ⟨regKey 0x3100 0x2 0, 64, 0xc00000000⟩
/-- R171, 0x3100.03. -/
def Reg.pseudoChannels : Reg := ⟨regKey 0x3100 0x3 0, 8, 0x40⟩
/-- R171, 0x3100.04. -/
def Reg.patrolPeriodS : Reg := ⟨regKey 0x3100 0x4 0, 32, 0x15180⟩
/-- R171, 0x3100.05. -/
def Reg.patrolPosition : Reg := ⟨regKey 0x3100 0x5 0, 64, 0⟩
/-- R171, 0x3100.06. -/
def Reg.patrolPasses : Reg := ⟨regKey 0x3100 0x6 0, 32, 0⟩
/-- R171, 0x3100.07. -/
def Reg.maintIdleShare : Reg := ⟨regKey 0x3100 0x7 0, 8, 8⟩
/-- R171, 0x3100.08. -/
def Reg.prioWeights : Reg := ⟨regKey 0x3100 0x8 0, 32, 0x1020408⟩
/-- R171, 0x3100.09. -/
def Reg.holdLimitUs : Reg := ⟨regKey 0x3100 0x9 0, 16, 0x64⟩
/-- R171, 0x3100.0A. -/
def Reg.partitionCommit : Reg := ⟨regKey 0x3100 0xa 0, 8, 0⟩
/-- R171, 0x3100.0B. -/
def Reg.lastUeAddress : Reg := ⟨regKey 0x3100 0xb 0, 64, 0⟩
/-- R171, 0x3100.0C. -/
def Reg.lastScrubUs : Reg := ⟨regKey 0x3100 0xc 0, 32, 0⟩
/-- R171, 0x3100.0D. -/
def Reg.holdPlaces : Reg := ⟨regKey 0x3100 0xd 0, 16, 0x40⟩
/-- R172, 0x311p.01. -/
def Reg.enable (u : Nat) : Reg := ⟨regKey (0x3110 + u) 0x1 0, 8, 0⟩
/-- R172, 0x311p.02. -/
def Reg.rateMbps (u : Nat) : Reg := ⟨regKey (0x3110 + u) 0x2 0, 32, 0xffffffff⟩
/-- R172, 0x311p.03. -/
def Reg.burstKib (u : Nat) : Reg := ⟨regKey (0x3110 + u) 0x3 0, 32, 0x400⟩
/-- R172, 0x311p.05 to .0C: address range i of partition p. -/
def Reg.range (p i : Nat) : Reg := ⟨regKey (0x3110 + p) (5 + i) 0, 64, 0⟩
/-- R172, 0x311p.0D. -/
def Reg.delayedRequests (u : Nat) : Reg := ⟨regKey (0x3110 + u) 0xd 0, 64, 0⟩
/-- R172, 0x311p.0E. -/
def Reg.refusedRequests (u : Nat) : Reg := ⟨regKey (0x3110 + u) 0xe 0, 64, 0⟩
/-- R173, 0x3200.01. -/
def Reg.sliceCount : Reg := ⟨regKey 0x3200 0x1 0, 8, 4⟩
/-- R173, 0x3200.02. -/
def Reg.sliceBytes : Reg := ⟨regKey 0x3200 0x2 0, 32, 0x4000000⟩
/-- R173, 0x3200.03. -/
def Reg.ways : Reg := ⟨regKey 0x3200 0x3 0, 8, 0x10⟩
/-- R173, 0x3200.04. -/
def Reg.lineBytes : Reg := ⟨regKey 0x3200 0x4 0, 8, 0x40⟩
/-- R173, 0x3200.05. -/
def Reg.atomicOps : Reg := ⟨regKey 0x3200 0x5 0, 32, 0x7ff⟩
/-- R173, 0x3200.06. -/
def Reg.resetWritebackUs : Reg := ⟨regKey 0x3200 0x6 0, 32, 0⟩
/-- R193, 0x2380.01. -/
def Reg.chipNumber : Reg := ⟨regKey 0x2380 0x1 0, 16, 0xffff⟩
/-- R193, 0x2380.02. -/
def Reg.chipNumberActive : Reg := ⟨regKey 0x2380 0x2 0, 16, 0xffff⟩
/-- R193, 0x2380.03. -/
def Reg.groupMember : Reg := ⟨regKey 0x2380 0x3 0, 8, 0xff⟩
/-- R193, 0x2380.04. -/
def Reg.maxOutstanding : Reg := ⟨regKey 0x2380 0x4 0, 16, 0x100⟩
/-- R193, 0x2380.05. -/
def Reg.ackTimeoutUs : Reg := ⟨regKey 0x2380 0x5 0, 32, 0x1f4⟩
/-- R193, 0x2380.06. -/
def Reg.reorderHoldUs : Reg := ⟨regKey 0x2380 0x6 0, 32, 0xc8⟩
/-- R193, 0x2380.07. -/
def Reg.reorderPoolBytes : Reg := ⟨regKey 0x2380 0x7 0, 32, 0x400000⟩
/-- R193, 0x2380.08. -/
def Reg.fabricTimeouts : Reg := ⟨regKey 0x2380 0x8 0, 64, 0⟩
/-- R193, 0x2380.09. -/
def Reg.reorderDrops : Reg := ⟨regKey 0x2380 0x9 0, 64, 0⟩
/-- R193, 0x2380.0A. -/
def Reg.resyncs : Reg := ⟨regKey 0x2380 0xa 0, 64, 0⟩
/-- R193, 0x2380.0B. -/
def Reg.foreignDrops : Reg := ⟨regKey 0x2380 0xb 0, 64, 0⟩
/-- R217, 0x2300.01. -/
def Reg.routeState : Reg := ⟨regKey 0x2300 0x1 0, 8, 0⟩
/-- R217, 0x2300.02. -/
def Reg.activeGeneration : Reg := ⟨regKey 0x2300 0x2 0, 16, 0⟩
/-- R217, 0x2300.03. -/
def Reg.shadowGeneration : Reg := ⟨regKey 0x2300 0x3 0, 16, 0⟩
/-- R217, 0x2300.06. -/
def Reg.routeCopy : Reg := ⟨regKey 0x2300 0x6 0, 8, 0⟩
/-- R217, 0x2300.07. -/
def Reg.routeEntrySel : Reg := ⟨regKey 0x2300 0x7 0, 16, 0⟩
/-- R217, 0x2300.08. -/
def Reg.routeEntry : Reg := ⟨regKey 0x2300 0x8 0, 64, 0⟩
/-- R217, 0x2300.09. -/
def Reg.routeSwap : Reg := ⟨regKey 0x2300 0x9 0, 8, 0⟩
/-- R217, 0x2300.0A. -/
def Reg.routeRelease : Reg := ⟨regKey 0x2300 0xa 0, 8, 0⟩
/-- R217, 0x2300.0B. -/
def Reg.swapDrainUs : Reg := ⟨regKey 0x2300 0xb 0, 16, 0x32⟩
/-- R217, 0x2300.0C. -/
def Reg.routeHoldLimitUs : Reg := ⟨regKey 0x2300 0xc 0, 16, 0x64⟩
/-- R217, 0x2300.0D. -/
def Reg.swapResult : Reg := ⟨regKey 0x2300 0xd 0, 8, 0⟩
/-- R217, 0x2300.0E. -/
def Reg.swapBadIndex : Reg := ⟨regKey 0x2300 0xe 0, 16, 0⟩
/-- R217, 0x2300.0F. -/
def Reg.maxHops : Reg := ⟨regKey 0x2300 0xf 0, 8, 8⟩
/-- R217, 0x2300.10. -/
def Reg.routeDrops : Reg := ⟨regKey 0x2300 0x10 0, 64, 0⟩
/-- R217, 0x2300.11. -/
def Reg.hopDrops : Reg := ⟨regKey 0x2300 0x11 0, 64, 0⟩
/-- R217, 0x2300.12. -/
def Reg.truncatedPackets : Reg := ⟨regKey 0x2300 0x12 0, 64, 0⟩
/-- R217, 0x2300.13. -/
def Reg.holdExpiries : Reg := ⟨regKey 0x2300 0x13 0, 32, 0⟩
/-- R217, 0x2300.14. -/
def Reg.swaps : Reg := ⟨regKey 0x2300 0x14 0, 32, 0⟩
/-- R242, 0x2000.01. -/
def Reg.combLines : Reg := ⟨regKey 0x2000 0x1 0, 8, 0x20⟩
/-- R242, 0x2000.02. -/
def Reg.gridBaseGhz : Reg := ⟨regKey 0x2000 0x2 0, 32, 0x372d0⟩
/-- R242, 0x2000.03. -/
def Reg.gridSpacingGhz : Reg := ⟨regKey 0x2000 0x3 0, 16, 0xc8⟩
/-- R242, 0x2000.04. -/
def Reg.laserLowCdbm : Reg := ⟨regKey 0x2000 0x4 0, 32, 0x1f4⟩
/-- R242, 0x2000.05. -/
def Reg.laserLostCdbm : Reg := ⟨regKey 0x2000 0x5 0, 32, 0xc8⟩
/-- R242, 0x2000.06. -/
def Reg.laserRevert : Reg := ⟨regKey 0x2000 0x6 0, 8, 0⟩
/-- R243, 0x201d.01. -/
def Reg.laserState (u : Nat) : Reg := ⟨regKey (0x2010 + u) 0x1 0, 8, 0⟩
/-- R243, 0x201d.02. -/
def Reg.laserSelectReq (u : Nat) : Reg := ⟨regKey (0x2010 + u) 0x2 0, 8, 0⟩
/-- R243, 0x201d.03. -/
def Reg.powerACdbm (u : Nat) : Reg := ⟨regKey (0x2010 + u) 0x3 0, 32, 0⟩
/-- R243, 0x201d.04. -/
def Reg.powerBCdbm (u : Nat) : Reg := ⟨regKey (0x2010 + u) 0x4 0, 32, 0⟩
/-- R243, 0x201d.05. -/
def Reg.toneDepthA (u : Nat) : Reg := ⟨regKey (0x2010 + u) 0x5 0, 16, 0⟩
/-- R243, 0x201d.06. -/
def Reg.toneDepthB (u : Nat) : Reg := ⟨regKey (0x2010 + u) 0x6 0, 16, 0⟩
/-- R243, 0x201d.07. -/
def Reg.laserFailovers (u : Nat) : Reg := ⟨regKey (0x2010 + u) 0x7 0, 32, 0⟩
/-- R243, 0x201d.08. -/
def Reg.laserLowEvents (u : Nat) : Reg := ⟨regKey (0x2010 + u) 0x8 0, 32, 0⟩
/-- R243, 0x201d.09. -/
def Reg.laserLostEvents (u : Nat) : Reg := ⟨regKey (0x2010 + u) 0x9 0, 32, 0⟩
/-- R244, 0x2100.01. -/
def Reg.eyeletCount : Reg := ⟨regKey 0x2100 0x1 0, 8, 0x20⟩
/-- R244, 0x2100.02. -/
def Reg.lanesPerEyelet : Reg := ⟨regKey 0x2100 0x2 0, 8, 0x20⟩
/-- R244, 0x2100.03. -/
def Reg.rxPhaseSteps : Reg := ⟨regKey 0x2100 0x3 0, 8, 0x40⟩
/-- R244, 0x2100.04. -/
def Reg.heaterFullScaleMw : Reg := ⟨regKey 0x2100 0x4 0, 16, 0xc⟩
/-- R244, 0x21ee.03. -/
def Reg.rxPhase (u : Nat) : Reg := ⟨regKey (0x2110 + u) 0x3 0, 8, 0⟩
/-- R244, 0x21ee.04. -/
def Reg.rxPowerCdbm (u : Nat) : Reg := ⟨regKey (0x2110 + u) 0x4 0, 32, 0⟩
/-- R244, 0x21ee.05. -/
def Reg.txPowerCdbm (u : Nat) : Reg := ⟨regKey (0x2110 + u) 0x5 0, 32, 0⟩
/-- R245, 0x2200.01. -/
def Reg.fitTablePoints : Reg := ⟨regKey 0x2200 0x1 0, 8, 0x10⟩
/-- R245, 0x2200.02. -/
def Reg.fitSpanCodes : Reg := ⟨regKey 0x2200 0x2 0, 16, 0x280⟩
/-- R245, 0x2200.03. -/
def Reg.fitIdleIntervalUs : Reg := ⟨regKey 0x2200 0x3 0, 32, 0x64⟩
/-- R245, 0x2200.04. -/
def Reg.fitMaxAgeMs : Reg := ⟨regKey 0x2200 0x4 0, 32, 0xfa⟩
/-- R245, 0x2200.05. -/
def Reg.fitStaleMs : Reg := ⟨regKey 0x2200 0x5 0, 32, 0x3e8⟩
/-- R245, 0x2200.06. -/
def Reg.fitFailLimit : Reg := ⟨regKey 0x2200 0x6 0, 8, 3⟩
/-- R245, 0x2200.07. -/
def Reg.fitPasses : Reg := ⟨regKey 0x2200 0x7 0, 64, 0⟩
/-- R245, 0x2200.08. -/
def Reg.fitFailures : Reg := ⟨regKey 0x2200 0x8 0, 64, 0⟩
/-- R245, 0x2200.09. -/
def Reg.fitDeferrals : Reg := ⟨regKey 0x2200 0x9 0, 64, 0⟩
/-- R246, 0x22ee.03. -/
def Reg.lastFit (u : Nat) : Reg := ⟨regKey (0x2210 + u) 0x3 0, 64, 0⟩
/-- R246, 0x22ee.04. -/
def Reg.eyeletTempMc (u : Nat) : Reg := ⟨regKey (0x2210 + u) 0x4 0, 32, 0⟩
/-- R246, 0x22ee.05. -/
def Reg.fullSearch (u : Nat) : Reg := ⟨regKey (0x2210 + u) 0x5 0, 8, 0⟩
/-- R269, 0x2130.01. -/
def Reg.replayDepthBlocks : Reg := ⟨regKey 0x2130 0x1 0, 8, 0x20⟩
/-- R269, 0x2130.02. -/
def Reg.minEyeSteps : Reg := ⟨regKey 0x2130 0x2 0, 8, 0xc⟩
/-- R269, 0x2130.03. -/
def Reg.trainRetryMs : Reg := ⟨regKey 0x2130 0x3 0, 16, 0xa⟩
/-- R269, 0x2130.04. -/
def Reg.beaconIntervalUs : Reg := ⟨regKey 0x2130 0x4 0, 32, 0x400⟩
/-- R270, 0x21qq.01. -/
def Reg.laneLatencyBeats (u : Nat) : Reg := ⟨regKey (0x2140 + u) 0x1 0, 8, 0⟩
/-- R270, 0x21qq.02. -/
def Reg.trainedLatency (u : Nat) : Reg := ⟨regKey (0x2140 + u) 0x2 0, 8, 0⟩
/-- R270, 0x21qq.03. -/
def Reg.flightPs (u : Nat) : Reg := ⟨regKey (0x2140 + u) 0x3 0, 32, 0⟩
/-- R270, 0x21qq.05. -/
def Reg.trainResult (u : Nat) : Reg := ⟨regKey (0x2140 + u) 0x5 0, 8, 0⟩
/-- R270, 0x21qq.06. -/
def Reg.correctedBlocks (u : Nat) : Reg := ⟨regKey (0x2140 + u) 0x6 0, 64, 0⟩
/-- R270, 0x21qq.07. -/
def Reg.uncorrectableBlocks (u : Nat) : Reg := ⟨regKey (0x2140 + u) 0x7 0, 64, 0⟩
/-- R270, 0x21qq.08. -/
def Reg.mends (u : Nat) : Reg := ⟨regKey (0x2140 + u) 0x8 0, 64, 0⟩
/-- R270, 0x21qq.09. -/
def Reg.duplicates (u : Nat) : Reg := ⟨regKey (0x2140 + u) 0x9 0, 64, 0⟩
/-- R270, 0x21qq.0A. -/
def Reg.ackTimeouts (u : Nat) : Reg := ⟨regKey (0x2140 + u) 0xa 0, 64, 0⟩
/-- R270, 0x21qq.0B. -/
def Reg.mendExhausted (u : Nat) : Reg := ⟨regKey (0x2140 + u) 0xb 0, 32, 0⟩
/-- R270, 0x21qq.0C. -/
def Reg.trainings (u : Nat) : Reg := ⟨regKey (0x2140 + u) 0xc 0, 32, 0⟩
/-- R285, 0x2400.02. -/
def Reg.planCommit : Reg := ⟨regKey 0x2400 0x2 0, 8, 0⟩
/-- R285, 0x2400.04. -/
def Reg.planGeneration : Reg := ⟨regKey 0x2400 0x4 0, 16, 0⟩
/-- R285, 0x2400.05. -/
def Reg.groupDigest : Reg := ⟨regKey 0x2400 0x5 0, 64, 0⟩
/-- R285, 0x2400.06. -/
def Reg.podDigest : Reg := ⟨regKey 0x2400 0x6 0, 64, 0⟩
/-- R285, 0x2400.07. -/
def Reg.commitResult : Reg := ⟨regKey 0x2400 0x7 0, 8, 0⟩
/-- R285, 0x2400.08. -/
def Reg.linkRevRange : Reg := ⟨regKey 0x2400 0x8 0, 16, 0x101⟩
/-- R285, 0x2400.09. -/
def Reg.firmwareBuild : Reg := ⟨regKey 0x2400 0x9 0, 32, 0⟩
/-- R285, 0x2400.0B. -/
def Reg.cablingEvents : Reg := ⟨regKey 0x2400 0xb 0, 32, 0⟩
/-- R286, 0x24qq.04. -/
def Reg.rotationOffset (u : Nat) : Reg := ⟨regKey (0x2410 + u) 0x4 0, 8, 0⟩
/-- R320, 0x4100.01. -/
def Reg.lastStoreBase : Reg := ⟨regKey 0x4100 0x1 0, 64, 0xbc00000000⟩
/-- R320, 0x4100.02. -/
def Reg.lastSlots : Reg := ⟨regKey 0x4100 0x2 0, 8, 0x10⟩
/-- R320, 0x4100.03. -/
def Reg.lastMaxBytes : Reg := ⟨regKey 0x4100 0x3 0, 32, 0x40000000⟩
/-- R320, 0x4100.07. -/
def Reg.runningSlot : Reg := ⟨regKey 0x4100 0x7 0, 8, 0xff⟩
/-- R320, 0x4100.08. -/
def Reg.runningBucket : Reg := ⟨regKey 0x4100 0x8 0, 8, 0xff⟩
/-- R320, 0x4100.09. -/
def Reg.loadResult : Reg := ⟨regKey 0x4100 0x9 0, 8, 0⟩
/-- R320, 0x4100.0A. -/
def Reg.loadDetail : Reg := ⟨regKey 0x4100 0xa 0, 32, 0⟩
/-- R320, 0x4100.0B. -/
def Reg.staggerBeats : Reg := ⟨regKey 0x4100 0xb 0, 8, 0⟩
/-- R320, 0x4100.0C. -/
def Reg.agreedStretch : Reg := ⟨regKey 0x4100 0xc 0, 16, 0x100⟩
/-- R320, 0x4100.0D. -/
def Reg.restBeats : Reg := ⟨regKey 0x4100 0xd 0, 64, 0⟩
/-- R320, 0x4100.0E. -/
def Reg.pacePoints : Reg := ⟨regKey 0x4100 0xe 0, 64, 0⟩
/-- R320, 0x4100.0F. -/
def Reg.stepsRun : Reg := ⟨regKey 0x4100 0xf 0, 64, 0⟩
/-- R320, 0x4100.10. -/
def Reg.lastUnload : Reg := ⟨regKey 0x4100 0x10 0, 8, 0⟩
/-- R353, 0x4000.01. -/
def Reg.queueCount : Reg := ⟨regKey 0x4000 0x1 0, 16, 0x200⟩
/-- R353, 0x4000.02. -/
def Reg.queueTableBase : Reg := ⟨regKey 0x4000 0x2 0, 64, 0xbbffff0000⟩
/-- R353, 0x4000.03. -/
def Reg.semBase : Reg := ⟨regKey 0x4000 0x3 0, 64, 0xbbfffe0000⟩
/-- R353, 0x4000.04. -/
def Reg.queueCtl : Reg := ⟨regKey 0x4000 0x4 0, 32, 0⟩
/-- R353, 0x4000.06. -/
def Reg.inflightLimit : Reg := ⟨regKey 0x4000 0x6 0, 8, 0x10⟩
/-- R353, 0x4000.08. -/
def Reg.laceTimeoutUs : Reg := ⟨regKey 0x4000 0x8 0, 32, 0x3e8⟩
/-- R353, 0x4000.09. -/
def Reg.laceSetCount : Reg := ⟨regKey 0x4000 0x9 0, 8, 0x40⟩
/-- R353, 0x4000.0A. -/
def Reg.laceTakeovers : Reg := ⟨regKey 0x4000 0xa 0, 32, 0⟩
/-- R353, 0x4000.0B. -/
def Reg.commandsStarted : Reg := ⟨regKey 0x4000 0xb 0, 64, 0⟩
/-- R353, 0x4000.0C. -/
def Reg.laceOps : Reg := ⟨regKey 0x4000 0xc 0, 64, 0⟩
/-- R353, 0x4000.0D. -/
def Reg.bulkStage : Reg := ⟨regKey 0x4000 0xd 0, 32, 0x3f07f800⟩
/-- R353, 0x4000.0E. -/
def Reg.bulkDigest : Reg := ⟨regKey 0x4000 0xe 0, 64, 0⟩
/-- R353, 0x4000.0F. -/
def Reg.bulkStatus : Reg := ⟨regKey 0x4000 0xf 0, 8, 0⟩
/-- R354, 0x40ss.01. -/
def Reg.laceEnable (u : Nat) : Reg := ⟨regKey (0x4040 + u) 0x1 0, 8, 0⟩
/-- R354, 0x40ss.02. -/
def Reg.laceShape (u : Nat) : Reg := ⟨regKey (0x4040 + u) 0x2 0, 8, 0⟩
/-- R354, 0x40ss.04. -/
def Reg.laceSeq (u : Nat) : Reg := ⟨regKey (0x4040 + u) 0x4 0, 32, 0⟩
/-- R354, 0x40ss.05. -/
def Reg.laceDrops (u : Nat) : Reg := ⟨regKey (0x4040 + u) 0x5 0, 32, 0⟩
/-- R381, 0x1200.01. -/
def Reg.powerCapW : Reg := ⟨regKey 0x1200 0x1 0, 16, 0x960⟩
/-- R381, 0x1200.02. -/
def Reg.powerFloorW : Reg := ⟨regKey 0x1200 0x2 0, 16, 0x12c⟩
/-- R381, 0x1200.03. -/
def Reg.packagePowerMw : Reg := ⟨regKey 0x1200 0x3 0, 32, 0⟩
/-- R381, 0x1200.04. -/
def Reg.inputCurrentMa : Reg := ⟨regKey 0x1200 0x4 0, 32, 0⟩
/-- R381, 0x1200.05. -/
def Reg.coreCurrentMa : Reg := ⟨regKey 0x1200 0x5 0, 32, 0⟩
/-- R381, 0x1200.06. -/
def Reg.tapPowerMw : Reg := ⟨regKey 0x1200 0x6 0, 32, 0⟩
/-- R381, 0x1200.0A. -/
def Reg.modelCoreMv : Reg := ⟨regKey 0x1200 0xa 0, 16, 0x2ee⟩
/-- R381, 0x1200.0B. -/
def Reg.convLossFixedW : Reg := ⟨regKey 0x1200 0xb 0, 16, 0x3c⟩
/-- R381, 0x1200.0C. -/
def Reg.convLossPpm : Reg := ⟨regKey 0x1200 0xc 0, 32, 0x9c40⟩
/-- R381, 0x1200.0D. -/
def Reg.slewLimitMaPerUs : Reg := ⟨regKey 0x1200 0xd 0, 32, 0x249f0⟩
/-- R381, 0x1200.0E. -/
def Reg.storedBaseMj : Reg := ⟨regKey 0x1200 0xe 0, 32, 0x640⟩
/-- R381, 0x1200.0F. -/
def Reg.storeLNh : Reg := ⟨regKey 0x1200 0xf 0, 16, 0xfa⟩
/-- R381, 0x1200.10. -/
def Reg.revGainMa : Reg := ⟨regKey 0x1200 0x10 0, 16, 0x384⟩
/-- R381, 0x1200.11. -/
def Reg.ballastMaxA : Reg := ⟨regKey 0x1200 0x11 0, 16, 0x28⟩
/-- R381, 0x1200.12. -/
def Reg.capStretch : Reg := ⟨regKey 0x1200 0x12 0, 16, 0x100⟩
/-- R381, 0x1200.13. -/
def Reg.stretchRequest : Reg := ⟨regKey 0x1200 0x13 0, 16, 0x100⟩
/-- R381, 0x1200.14. -/
def Reg.governorViolations : Reg := ⟨regKey 0x1200 0x14 0, 32, 0⟩
/-- R381, 0x1200.15. -/
def Reg.senseEvents : Reg := ⟨regKey 0x1200 0x15 0, 32, 0⟩
/-- R381, 0x1200.16. -/
def Reg.capExceededEvents : Reg := ⟨regKey 0x1200 0x16 0, 32, 0⟩
/-- R382, 0x1300.01. -/
def Reg.coolantInletTemp : Reg := ⟨regKey 0x1300 0x1 0, 32, 0xafc8⟩
/-- R382, 0x1300.02. -/
def Reg.coolantAgeMs : Reg := ⟨regKey 0x1300 0x2 0, 32, 0⟩
/-- R382, 0x1300.03. -/
def Reg.coolantFallbackMc : Reg := ⟨regKey 0x1300 0x3 0, 32, 0xc350⟩
/-- R382, 0x1300.04. -/
def Reg.thermalState : Reg := ⟨regKey 0x1300 0x4 0, 8, 0⟩
/-- R382, 0x1300.05. -/
def Reg.tMaxMc : Reg := ⟨regKey 0x1300 0x5 0, 32, 0⟩
/-- R382, 0x1300.06. -/
def Reg.hottestDie : Reg := ⟨regKey 0x1300 0x6 0, 8, 0⟩
/-- R382, 0x1300.07. -/
def Reg.evalPeriodUs : Reg := ⟨regKey 0x1300 0x7 0, 32, 0x3e8⟩
/-- R382, 0x1300.08. -/
def Reg.dieTempsMc : Reg := ⟨regKey 0x1300 0x8 0, 32, 0⟩
/-- R382, 0x1300.0A. -/
def Reg.plateBiasMc : Reg := ⟨regKey 0x1300 0xa 0, 32, 0⟩
/-- R382, 0x1300.0B. -/
def Reg.plateRiseUkPerW : Reg := ⟨regKey 0x1300 0xb 0, 32, 0x7d0⟩
/-- R382, 0x1300.0D. -/
def Reg.thermalStretch : Reg := ⟨regKey 0x1300 0xd 0, 16, 0x100⟩
/-- R382, 0x1300.0E. -/
def Reg.thermalRelease : Reg := ⟨regKey 0x1300 0xe 0, 8, 0⟩
/-- R382, 0x1300.0F. -/
def Reg.shutdownClearMs : Reg := ⟨regKey 0x1300 0xf 0, 32, 0⟩
/-- R382, 0x1300.10. -/
def Reg.warningEvents : Reg := ⟨regKey 0x1300 0x10 0, 32, 0⟩
/-- R382, 0x1300.11. -/
def Reg.throttleEvents : Reg := ⟨regKey 0x1300 0x11 0, 32, 0⟩
/-- R382, 0x1300.12. -/
def Reg.limitEvents : Reg := ⟨regKey 0x1300 0x12 0, 32, 0⟩
/-- R382, 0x1300.13. -/
def Reg.shutdownEvents : Reg := ⟨regKey 0x1300 0x13 0, 32, 0⟩
/-- R382, 0x1300.14. -/
def Reg.coolantStaleEvents : Reg := ⟨regKey 0x1300 0x14 0, 32, 0⟩
/-- R404, 0x1010.01. -/
def Reg.strapValue : Reg := ⟨regKey 0x1010 0x1 0, 8, 0⟩
/-- R404, 0x1010.02. -/
def Reg.slotId : Reg := ⟨regKey 0x1010 0x2 0, 8, 0⟩
/-- R404, 0x1010.04. -/
def Reg.weltRevRange : Reg := ⟨regKey 0x1010 0x4 0, 16, 0x101⟩
/-- R405, 0x1240.01. -/
def Reg.railMv : Reg := ⟨regKey 0x1240 0x1 0, 16, 0⟩
/-- R405, 0x1240.02. -/
def Reg.railStatus : Reg := ⟨regKey 0x1240 0x2 0, 8, 0⟩
/-- R405, 0x1240.03. -/
def Reg.railFaults : Reg := ⟨regKey 0x1240 0x3 0, 32, 0⟩
/-- R405, 0x1240.04. -/
def Reg.powerUpMs : Reg := ⟨regKey 0x1240 0x4 0, 16, 0⟩
/-- R406, 0x3020.03. -/
def Reg.weltCrcErrors : Reg := ⟨regKey 0x3020 0x3 0, 32, 0⟩
/-- R406, 0x3020.04. -/
def Reg.weltReplays : Reg := ⟨regKey 0x3020 0x4 0, 32, 0⟩
/-- R406, 0x3020.05. -/
def Reg.weltSelftest : Reg := ⟨regKey 0x3020 0x5 0, 8, 0⟩
/-- R406, 0x3020.06. -/
def Reg.selftestResult : Reg := ⟨regKey 0x3020 0x6 0, 32, 0⟩
/-- R437, 0x5000.01. -/
def Reg.tenantState : Reg := ⟨regKey 0x5000 0x1 0, 8, 0⟩
/-- R437, 0x5000.02. -/
def Reg.tenantId : Reg := ⟨regKey 0x5000 0x2 0, 32, 0⟩
/-- R437, 0x5000.03. -/
def Reg.tenantMode : Reg := ⟨regKey 0x5000 0x3 0, 8, 0⟩
/-- R437, 0x5000.06. -/
def Reg.lastClearUs : Reg := ⟨regKey 0x5000 0x6 0, 32, 0⟩
/-- R437, 0x5000.07. -/
def Reg.tenantChanges : Reg := ⟨regKey 0x5000 0x7 0, 32, 0⟩
/-- R437, 0x5000.08. -/
def Reg.fwSvn : Reg := ⟨regKey 0x5000 0x8 0, 8, 0⟩
/-- R437, 0x5000.09. -/
def Reg.rollbackFused : Reg := ⟨regKey 0x5000 0x9 0, 8, 0⟩
/-- R437, 0x5000.0A. -/
def Reg.fwRollbackCommit : Reg := ⟨regKey 0x5000 0xa 0, 8, 0⟩
/-- R437, 0x5000.10. -/
def Reg.deviceSerial : Reg := ⟨regKey 0x5000 0x10 0, 64, 0⟩
/-- R437, 0x5000.12. -/
def Reg.keySlotErase : Reg := ⟨regKey 0x5000 0x12 0, 8, 0⟩
/-- R437, 0x5000.15. -/
def Reg.installStatus : Reg := ⟨regKey 0x5000 0x15 0, 64, 0⟩
/-- R437, 0x5000.17. -/
def Reg.sealAuthFailures : Reg := ⟨regKey 0x5000 0x17 0, 64, 0⟩
/-- R437, 0x5000.18. -/
def Reg.sealMismatches : Reg := ⟨regKey 0x5000 0x18 0, 32, 0⟩
/-- R437, 0x5000.19. -/
def Reg.sealedDenials : Reg := ⟨regKey 0x5000 0x19 0, 32, 0⟩
/-- R437, 0x5000.1B. -/
def Reg.fwUpdateState : Reg := ⟨regKey 0x5000 0x1b 0, 8, 0⟩
/-- R437, 0x5000.1C. -/
def Reg.fwActivate : Reg := ⟨regKey 0x5000 0x1c 0, 8, 0⟩
/-- R444, 0x1000.05. -/
def Reg.dictionaryRevision : Reg := ⟨regKey 0x1000 0x5 0, 16, 1⟩
/-- R444, 0x1000.07. -/
def Reg.kdpMaxData : Reg := ⟨regKey 0x1000 0x7 0, 16, 0x400⟩
/-- R444, 0x1000.08. -/
def Reg.blobMaxBytes : Reg := ⟨regKey 0x1000 0x8 0, 32, 0x100000⟩
/-- R462, 0x7100.01. -/
def Reg.mgmtLinkState : Reg := ⟨regKey 0x7100 0x1 0, 8, 0⟩
/-- R462, 0x7100.02. -/
def Reg.mgmtMac : Reg := ⟨regKey 0x7100 0x2 0, 64, 0⟩
/-- R462, 0x7100.04. -/
def Reg.mgmtIpv6Prefix : Reg := ⟨regKey 0x7100 0x4 0, 8, 0x40⟩
/-- R462, 0x7100.06. -/
def Reg.kdpUdpPort : Reg := ⟨regKey 0x7100 0x6 0, 16, 0x1cfa⟩
/-- R462, 0x7100.07. -/
def Reg.kdpRevRange : Reg := ⟨regKey 0x7100 0x7 0, 16, 0x101⟩
/-- R462, 0x7100.08. -/
def Reg.sessionsOpen : Reg := ⟨regKey 0x7100 0x8 0, 8, 0⟩
/-- R462, 0x7100.09. -/
def Reg.segTimeoutMs : Reg := ⟨regKey 0x7100 0x9 0, 16, 0x7d0⟩
/-- R462, 0x7100.0A. -/
def Reg.alertUnacked : Reg := ⟨regKey 0x7100 0xa 0, 32, 0⟩
/-- R462, 0x7100.0B. -/
def Reg.alertAck : Reg := ⟨regKey 0x7100 0xb 0, 32, 0⟩
/-- R462, 0x7100.0C. -/
def Reg.alertLineState : Reg := ⟨regKey 0x7100 0xc 0, 8, 0⟩
/-- R462, 0x7100.0D. -/
def Reg.alertLineEnable : Reg := ⟨regKey 0x7100 0xd 0, 8, 0⟩
/-- R462, 0x7100.0E. -/
def Reg.alertStuckEvents : Reg := ⟨regKey 0x7100 0xe 0, 32, 0⟩
/-- R462, 0x7100.0F. -/
def Reg.sessionAborts : Reg := ⟨regKey 0x7100 0xf 0, 32, 0⟩
/-- R462, 0x7100.10. -/
def Reg.mailboxBase : Reg := ⟨regKey 0x7100 0x10 0, 64, 0xbbfffd0000⟩
/-- R462, 0x7100.11. -/
def Reg.mailboxRequests : Reg := ⟨regKey 0x7100 0x11 0, 64, 0⟩
/-- R462, 0x7100.12. -/
def Reg.linkDowns : Reg := ⟨regKey 0x7100 0x12 0, 32, 0⟩
/-- R462, 0x7100.13. -/
def Reg.dtlsFailures : Reg := ⟨regKey 0x7100 0x13 0, 32, 0⟩
/-- R463, 0x7180.01. -/
def Reg.memReadAddr : Reg := ⟨regKey 0x7180 0x1 0, 64, 0⟩
/-- R463, 0x7180.02. -/
def Reg.memReadLen : Reg := ⟨regKey 0x7180 0x2 0, 32, 0x40⟩
/-- R477, 0x3000.01. -/
def Reg.bringupState : Reg := ⟨regKey 0x3000 0x1 0, 8, 0⟩
/-- R477, 0x3000.02. -/
def Reg.resetCause : Reg := ⟨regKey 0x3000 0x2 0, 8, 0⟩
/-- R477, 0x3000.03. -/
def Reg.warmResets : Reg := ⟨regKey 0x3000 0x3 0, 32, 0⟩
/-- R477, 0x3000.04. -/
def Reg.lastBringupMs : Reg := ⟨regKey 0x3000 0x4 0, 32, 0⟩
/-- R477, 0x3000.07. -/
def Reg.sparesFree : Reg := ⟨regKey 0x3000 0x7 0, 8, 8⟩
/-- R477, 0x3000.08. -/
def Reg.tileFenceReq : Reg := ⟨regKey 0x3000 0x8 0, 8, 0⟩
/-- R477, 0x3000.09. -/
def Reg.restartRequest : Reg := ⟨regKey 0x3000 0x9 0, 8, 0⟩
/-- R477, 0x3000.0A. -/
def Reg.exclusion : Reg := ⟨regKey 0x3000 0xa 0, 32, 0⟩
/-- R477, 0x3000.0B. -/
def Reg.exclusionClear : Reg := ⟨regKey 0x3000 0xb 0, 8, 0⟩
/-- R477, 0x3000.0C. -/
def Reg.flashWrites : Reg := ⟨regKey 0x3000 0xc 0, 32, 0⟩
/-- R477, 0x3000.0D. -/
def Reg.calibFlashIntervalS : Reg := ⟨regKey 0x3000 0xd 0, 32, 0x258⟩
/-- R502, 0x7000.01. -/
def Reg.faultEpoch : Reg := ⟨regKey 0x7000 0x1 0, 32, 0⟩
/-- R502, 0x7000.02. -/
def Reg.faultAck : Reg := ⟨regKey 0x7000 0x2 0, 16, 0⟩
/-- R502, 0x7000.03. -/
def Reg.heldReports : Reg := ⟨regKey 0x7000 0x3 0, 16, 0⟩
/-- R502, 0x7000.05. -/
def Reg.faultCounts : Reg := ⟨regKey 0x7000 0x5 0, 32, 0⟩
/-- R502, 0x7000.06. -/
def Reg.rollbackState : Reg := ⟨regKey 0x7000 0x6 0, 8, 0⟩
/-- R502, 0x7000.07. -/
def Reg.rollbackStep : Reg := ⟨regKey 0x7000 0x7 0, 32, 0⟩
/-- R502, 0x7000.08. -/
def Reg.rollbacks : Reg := ⟨regKey 0x7000 0x8 0, 32, 0⟩
/-- R502, 0x7000.09. -/
def Reg.stepsRerun : Reg := ⟨regKey 0x7000 0x9 0, 64, 0⟩
/-- R502, 0x7000.0A. -/
def Reg.rollbackWaitMs : Reg := ⟨regKey 0x7000 0xa 0, 16, 0xc8⟩
/-- R502, 0x7000.0B. -/
def Reg.rollbackLimit : Reg := ⟨regKey 0x7000 0xb 0, 8, 3⟩
/-- R502, 0x7000.0C. -/
def Reg.buddyChip : Reg := ⟨regKey 0x7000 0xc 0, 16, 0xffff⟩
/-- R502, 0x7000.0D. -/
def Reg.buddyArea : Reg := ⟨regKey 0x7000 0xd 0, 64, 0xb300000000⟩
/-- R502, 0x7000.0E. -/
def Reg.localArea : Reg := ⟨regKey 0x7000 0xe 0, 64, 0xb700000000⟩
/-- R502, 0x7000.0F. -/
def Reg.snapshotSlotGib : Reg := ⟨regKey 0x7000 0xf 0, 8, 8⟩
/-- R502, 0x7000.11. -/
def Reg.snapshotStatus : Reg := ⟨regKey 0x7000 0x11 0, 64, 0⟩
/-- R502, 0x7000.13. -/
def Reg.restoreStatus : Reg := ⟨regKey 0x7000 0x13 0, 16, 0⟩
/-- R502, 0x7000.14. -/
def Reg.tryonIntervalS : Reg := ⟨regKey 0x7000 0x14 0, 32, 0⟩
/-- R502, 0x7000.15. -/
def Reg.tryonKinds : Reg := ⟨regKey 0x7000 0x15 0, 32, 0⟩
/-- R502, 0x7000.16. -/
def Reg.tryonCounts : Reg := ⟨regKey 0x7000 0x16 0, 32, 0⟩
/-- R502, 0x7000.17. -/
def Reg.standbyReady : Reg := ⟨regKey 0x7000 0x17 0, 32, 0⟩
/-- R502, 0x7000.18. -/
def Reg.tryonRecoveryMs : Reg := ⟨regKey 0x7000 0x18 0, 16, 0x3e8⟩
/-- R520, 0x60qq.01. -/
def Reg.opsByFormat (u : Nat) : Reg := ⟨regKey (0x6010 + u) 0x1 0, 64, 0⟩
/-- R520, 0x60qq.02. -/
def Reg.conversionEvents (u : Nat) : Reg := ⟨regKey (0x6010 + u) 0x2 0, 64, 0⟩
/-- R520, 0x60qq.03. -/
def Reg.filledReads (u : Nat) : Reg := ⟨regKey (0x6010 + u) 0x3 0, 64, 0⟩
/-- R520, 0x60qq.04. -/
def Reg.droppedWrites (u : Nat) : Reg := ⟨regKey (0x6010 + u) 0x4 0, 64, 0⟩
/-- R520, 0x60qq.05. -/
def Reg.windowRefusals (u : Nat) : Reg := ⟨regKey (0x6010 + u) 0x5 0, 64, 0⟩
/-- R520, 0x60rr.01. -/
def Reg.busyBeats (u : Nat) : Reg := ⟨regKey (0x6080 + u) 0x1 0, 64, 0⟩
/-- R520, 0x60rr.02. -/
def Reg.arrayActiveCycles (u : Nat) : Reg := ⟨regKey (0x6080 + u) 0x2 0, 64, 0⟩
/-- R520, 0x60rr.03. -/
def Reg.hbmBytes (u : Nat) : Reg := ⟨regKey (0x6080 + u) 0x3 0, 64, 0⟩
/-- R520, 0x60rr.04. -/
def Reg.errorsByClass (u : Nat) : Reg := ⟨regKey (0x6080 + u) 0x4 0, 64, 0⟩
/-- R521, 0x6100.01. -/
def Reg.transitBySource : Reg := ⟨regKey 0x6100 0x1 0, 64, 0⟩
/-- R521, 0x6100.02. -/
def Reg.globalLaneBusy : Reg := ⟨regKey 0x6100 0x2 0, 64, 0⟩
/-- R521, 0x6100.03. -/
def Reg.laserPowerLog : Reg := ⟨regKey 0x6100 0x3 0, 32, 0⟩
/-- R522, 0x6200.01. -/
def Reg.traceEnable : Reg := ⟨regKey 0x6200 0x1 0, 32, 0x2c6⟩
/-- R522, 0x6200.02. -/
def Reg.traceMarkBeats : Reg := ⟨regKey 0x6200 0x2 0, 32, 0x1000⟩
/-- R522, 0x6200.03. -/
def Reg.traceRecords : Reg := ⟨regKey 0x6200 0x3 0, 64, 0⟩
/-- R522, 0x6200.04. -/
def Reg.traceLost : Reg := ⟨regKey 0x6200 0x4 0, 64, 0⟩
/-- R522, 0x6200.05. -/
def Reg.treadBase : Reg := ⟨regKey 0x6200 0x5 0, 64, 0xaf00000000⟩
/-- R522, 0x6200.06. -/
def Reg.treadBytes : Reg := ⟨regKey 0x6200 0x6 0, 64, 0x100000000⟩
/-- R522, 0x6200.07. -/
def Reg.treadHead : Reg := ⟨regKey 0x6200 0x7 0, 64, 0⟩
/-- R522, 0x6200.08. -/
def Reg.treadFreeze : Reg := ⟨regKey 0x6200 0x8 0, 8, 0⟩
/-- R522, 0x6200.09. -/
def Reg.treadAutofreeze : Reg := ⟨regKey 0x6200 0x9 0, 32, 1⟩
/-- R522, 0x6200.0A. -/
def Reg.freezeCount : Reg := ⟨regKey 0x6200 0xa 0, 32, 0⟩
/-- R522, 0x6200.0B. -/
def Reg.treadSpanBytes : Reg := ⟨regKey 0x6200 0xb 0, 64, 0⟩
/-- R522, 0x6200.0C. -/
def Reg.treadLost : Reg := ⟨regKey 0x6200 0xc 0, 64, 0⟩
/-- R522, 0x6200.0D. -/
def Reg.treadExportOffset : Reg := ⟨regKey 0x6200 0xd 0, 64, 0⟩
/-- R522, 0x6200.0F. -/
def Reg.treadReplay : Reg := ⟨regKey 0x6200 0xf 0, 64, 0⟩
/-- R522, 0x6200.10. -/
def Reg.digestIntervalBeats : Reg := ⟨regKey 0x6200 0x10 0, 32, 0⟩
/-- R522, 0x6200.11. -/
def Reg.paceDigests : Reg := ⟨regKey 0x6200 0x11 0, 64, 0⟩
/-- R522, 0x6200.12. -/
def Reg.tracePortState : Reg := ⟨regKey 0x6200 0x12 0, 8, 0⟩

/-! ### The entries -/

/-- Rows of the entry tables, part 0. -/
def entries0 : List Entry := [
  ⟨0x1000, 1, 0x0, "highest_sub", .u8, .ro, true, 1, false, 1, 8, 0, 255⟩,
  ⟨0x1000, 1, 0x1, "vendor_name", .str, .ro, true, 8, false, 0, 0, 0, 0⟩,
  ⟨0x1000, 1, 0x2, "family_name", .str, .ro, true, 6, false, 0, 0, 0, 0⟩,
  ⟨0x1000, 1, 0x3, "product_name", .str, .ro, true, 5, false, 0, 0, 0, 0⟩,
  ⟨0x1000, 1, 0x4, "part_number", .str, .ro, true, 8, false, 0, 0, 0, 0⟩,
  ⟨0x1000, 1, 0x5, "dictionary_revision", .u16, .ro, true, 2, false, 2, 1, 0, 65535⟩,
  ⟨0x1000, 1, 0x6, "index_directory", .blob, .ro, true, 760, true, 0, 0, 0, 0⟩,
  ⟨0x1000, 1, 0x7, "kdp_max_data", .u16, .ro, true, 2, false, 2, 1024, 0, 65535⟩,
  ⟨0x1000, 1, 0x8, "blob_max_bytes", .u32, .ro, true, 4, false, 4, 1048576, 0, 4294967295⟩,
  ⟨0x1010, 1, 0x0, "highest_sub", .u8, .ro, true, 1, false, 1, 4, 0, 255⟩,
  ⟨0x1010, 1, 0x1, "strap_value", .u8, .ro, false, 1, false, 1, 0, 0, 255⟩,
  ⟨0x1010, 1, 0x2, "slot_id", .u8, .ro, false, 1, false, 1, 0, 0, 255⟩,
  ⟨0x1010, 1, 0x3, "die_revisions", .blob, .ro, true, 202, false, 0, 0, 0, 0⟩,
  ⟨0x1010, 1, 0x4, "welt_rev_range", .u16, .ro, true, 2, false, 2, 257, 0, 65535⟩,
  ⟨0x1100, 1, 0x0, "highest_sub", .u8, .ro, true, 1, false, 1, 14, 0, 255⟩,
  ⟨0x1100, 1, 0x1, "ref_source", .u8, .ro, false, 1, false, 1, 0, 0, 255⟩,
  ⟨0x1100, 1, 0x2, "ref_state", .u8, .ro, true, 1, false, 1, 0, 0, 255⟩,
  ⟨0x1100, 1, 0x3, "ref_offset_ppb", .i32, .ro, false, 4, false, 4, 0, 0, 4294967295⟩,
  ⟨0x1100, 1, 0x4, "holdover_limit_ms", .u16, .rw, false, 2, false, 2, 10, 1, 10⟩,
  ⟨0x1100, 1, 0x5, "beat_counter", .u64, .ro, true, 8, false, 8, 0, 0, 18446744073709551615⟩,
  ⟨0x1100, 1, 0x6, "step_number", .u32, .ro, true, 4, false, 4, 0, 0, 4294967295⟩,
  ⟨0x1100, 1, 0x7, "step_number_ext", .u64, .ro, true, 8, false, 8, 0, 0, 18446744073709551615⟩,
  ⟨0x1100, 1, 0x8, "launch_beat", .u64, .ro, true, 8, false, 8, 0, 0, 18446744073709551615⟩,
  ⟨0x1100, 1, 0x9, "sync_timeout_us", .u32, .rw, false, 4, false, 4, 1000, 100, 100000⟩]

/-- Rows of the entry tables, part 1. -/
def entries1 : List Entry := [
  ⟨0x1100, 1, 0xa, "start_lead_beats", .u16, .rw, false, 2, false, 2, 128, 32, 4096⟩,
  ⟨0x1100, 1, 0xb, "wall_anchor_ns", .u64, .rw, false, 8, false, 8, 0, 0, 18446744073709551615⟩,
  ⟨0x1100, 1, 0xc, "wall_anchor_beat", .u64, .ro, false, 8, false, 8, 0, 0, 18446744073709551615⟩,
  ⟨0x1100, 1, 0xd, "ref_failovers", .u32, .rc, false, 4, false, 4, 0, 0, 4294967295⟩,
  ⟨0x1100, 1, 0xe, "ref_holdovers", .u32, .rc, false, 4, false, 4, 0, 0, 4294967295⟩,
  ⟨0x1200, 1, 0x0, "highest_sub", .u8, .ro, true, 1, false, 1, 22, 0, 255⟩,
  ⟨0x1200, 1, 0x1, "power_cap_w", .u16, .rw, false, 2, false, 2, 2400, 1200, 2400⟩,
  ⟨0x1200, 1, 0x2, "power_floor_w", .u16, .rw, false, 2, false, 2, 300, 100, 1000⟩,
  ⟨0x1200, 1, 0x3, "package_power_mw", .u32, .ro, true, 4, false, 4, 0, 0, 4294967295⟩,
  ⟨0x1200, 1, 0x4, "input_current_ma", .i32, .ro, false, 4, false, 4, 0, 0, 4294967295⟩,
  ⟨0x1200, 1, 0x5, "core_current_ma", .i32, .ro, false, 4, false, 4, 0, 0, 4294967295⟩,
  ⟨0x1200, 1, 0x6, "tap_power_mw", .blob, .ro, false, 404, false, 4, 0, 0, 4294967295⟩,
  ⟨0x1200, 1, 0x7, "tap_status", .blob, .ro, false, 101, false, 0, 0, 0, 0⟩,
  ⟨0x1200, 1, 0x8, "column_offset_mw", .blob, .ro, false, 52, false, 0, 0, 0, 0⟩,
  ⟨0x1200, 1, 0x9, "energy_coeffs", .blob, .rw, false, 512, false, 0, 0, 0, 0⟩,
  ⟨0x1200, 1, 0xa, "model_core_mv", .u16, .ro, false, 2, false, 2, 750, 0, 65535⟩,
  ⟨0x1200, 1, 0xb, "conv_loss_fixed_w", .u16, .ro, false, 2, false, 2, 60, 0, 65535⟩,
  ⟨0x1200, 1, 0xc, "conv_loss_ppm", .u32, .ro, false, 4, false, 4, 40000, 0, 4294967295⟩,
  ⟨0x1200, 1, 0xd, "slew_limit_ma_per_us", .u32, .ro, true, 4, false, 4, 150000, 0, 4294967295⟩,
  ⟨0x1200, 1, 0xe, "stored_base_mj", .u32, .ro, false, 4, false, 4, 1600, 0, 4294967295⟩,
  ⟨0x1200, 1, 0xf, "store_l_nh", .u16, .ro, false, 2, false, 2, 250, 0, 65535⟩,
  ⟨0x1200, 1, 0x10, "rev_gain_ma", .u16, .ro, false, 2, false, 2, 900, 0, 65535⟩,
  ⟨0x1200, 1, 0x11, "ballast_max_a", .u16, .ro, false, 2, false, 2, 40, 0, 65535⟩,
  ⟨0x1200, 1, 0x12, "cap_stretch", .u16, .ro, true, 2, false, 2, 256, 0, 65535⟩]

/-- Rows of the entry tables, part 2. -/
def entries2 : List Entry := [
  ⟨0x1200, 1, 0x13, "stretch_request", .u16, .ro, true, 2, false, 2, 256, 0, 65535⟩,
  ⟨0x1200, 1, 0x14, "governor_violations", .blob, .rc, false, 12, false, 4, 0, 0, 4294967295⟩,
  ⟨0x1200, 1, 0x15, "sense_events", .blob, .rc, false, 12, false, 4, 0, 0, 4294967295⟩,
  ⟨0x1200, 1, 0x16, "cap_exceeded_events", .u32, .rc, false, 4, false, 4, 0, 0, 4294967295⟩,
  ⟨0x1240, 1, 0x0, "highest_sub", .u8, .ro, true, 1, false, 1, 4, 0, 255⟩,
  ⟨0x1240, 1, 0x1, "rail_mv", .blob, .ro, false, 18, false, 2, 0, 0, 65535⟩,
  ⟨0x1240, 1, 0x2, "rail_status", .blob, .ro, false, 9, false, 1, 0, 0, 255⟩,
  ⟨0x1240, 1, 0x3, "rail_faults", .blob, .rc, false, 36, false, 4, 0, 0, 4294967295⟩,
  ⟨0x1240, 1, 0x4, "power_up_ms", .u16, .ro, false, 2, false, 2, 0, 0, 65535⟩,
  ⟨0x1300, 1, 0x0, "highest_sub", .u8, .ro, true, 1, false, 1, 20, 0, 255⟩,
  ⟨0x1300, 1, 0x1, "coolant_inlet_temp", .i32, .rw, false, 4, false, 4, 45000, 0, 70000⟩,
  ⟨0x1300, 1, 0x2, "coolant_age_ms", .u32, .ro, false, 4, false, 4, 0, 0, 4294967295⟩,
  ⟨0x1300, 1, 0x3, "coolant_fallback_mc", .i32, .rw, false, 4, false, 4, 50000, 40000, 70000⟩,
  ⟨0x1300, 1, 0x4, "thermal_state", .u8, .ro, true, 1, false, 1, 0, 0, 255⟩,
  ⟨0x1300, 1, 0x5, "t_max_mc", .i32, .ro, true, 4, false, 4, 0, 0, 4294967295⟩,
  ⟨0x1300, 1, 0x6, "hottest_die", .u8, .ro, false, 1, false, 1, 0, 0, 255⟩,
  ⟨0x1300, 1, 0x7, "eval_period_us", .u32, .ro, false, 4, false, 4, 1000, 0, 4294967295⟩,
  ⟨0x1300, 1, 0x8, "die_temps_mc", .blob, .ro, false, 404, false, 4, 0, 0, 4294967295⟩,
  ⟨0x1300, 1, 0x9, "die_bias_mc", .blob, .ro, false, 404, false, 0, 0, 0, 0⟩,
  ⟨0x1300, 1, 0xa, "plate_bias_mc", .i32, .ro, false, 4, false, 4, 0, 0, 4294967295⟩,
  ⟨0x1300, 1, 0xb, "plate_rise_uk_per_w", .u32, .ro, false, 4, false, 4, 2000, 0, 4294967295⟩,
  ⟨0x1300, 1, 0xc, "model_params", .blob, .ro, false, 6464, false, 0, 0, 0, 0⟩,
  ⟨0x1300, 1, 0xd, "thermal_stretch", .u16, .ro, true, 2, false, 2, 256, 0, 65535⟩,
  ⟨0x1300, 1, 0xe, "thermal_release", .u8, .wo, false, 1, false, 1, 0, 0, 255⟩]

/-- Rows of the entry tables, part 3. -/
def entries3 : List Entry := [
  ⟨0x1300, 1, 0xf, "shutdown_clear_ms", .u32, .ro, false, 4, false, 4, 0, 0, 4294967295⟩,
  ⟨0x1300, 1, 0x10, "warning_events", .u32, .rc, false, 4, false, 4, 0, 0, 4294967295⟩,
  ⟨0x1300, 1, 0x11, "throttle_events", .u32, .rc, false, 4, false, 4, 0, 0, 4294967295⟩,
  ⟨0x1300, 1, 0x12, "limit_events", .u32, .rc, false, 4, false, 4, 0, 0, 4294967295⟩,
  ⟨0x1300, 1, 0x13, "shutdown_events", .u32, .rc, false, 4, false, 4, 0, 0, 4294967295⟩,
  ⟨0x1300, 1, 0x14, "coolant_stale_events", .u32, .rc, false, 4, false, 4, 0, 0, 4294967295⟩,
  ⟨0x2000, 1, 0x0, "highest_sub", .u8, .ro, true, 1, false, 1, 6, 0, 255⟩,
  ⟨0x2000, 1, 0x1, "comb_lines", .u8, .ro, true, 1, false, 1, 32, 0, 255⟩,
  ⟨0x2000, 1, 0x2, "grid_base_ghz", .u32, .ro, true, 4, false, 4, 226000, 0, 4294967295⟩,
  ⟨0x2000, 1, 0x3, "grid_spacing_ghz", .u16, .ro, true, 2, false, 2, 200, 0, 65535⟩,
  ⟨0x2000, 1, 0x4, "laser_low_cdbm", .i32, .rw, false, 4, false, 4, 500, 300, 800⟩,
  ⟨0x2000, 1, 0x5, "laser_lost_cdbm", .i32, .rw, false, 4, false, 4, 200, 0, 700⟩,
  ⟨0x2000, 1, 0x6, "laser_revert", .u8, .rw, false, 1, false, 1, 0, 0, 1⟩,
  ⟨0x2010, 8, 0x0, "highest_sub", .u8, .ro, true, 1, false, 1, 9, 0, 255⟩,
  ⟨0x2010, 8, 0x1, "laser_state", .u8, .ro, false, 1, false, 1, 0, 0, 255⟩,
  ⟨0x2010, 8, 0x2, "laser_select_req", .u8, .rw, false, 1, false, 1, 0, 0, 1⟩,
  ⟨0x2010, 8, 0x3, "power_a_cdbm", .i32, .ro, false, 4, false, 4, 0, 0, 4294967295⟩,
  ⟨0x2010, 8, 0x4, "power_b_cdbm", .i32, .ro, false, 4, false, 4, 0, 0, 4294967295⟩,
  ⟨0x2010, 8, 0x5, "tone_depth_a", .u16, .ro, false, 2, false, 2, 0, 0, 65535⟩,
  ⟨0x2010, 8, 0x6, "tone_depth_b", .u16, .ro, false, 2, false, 2, 0, 0, 65535⟩,
  ⟨0x2010, 8, 0x7, "laser_failovers", .u32, .rc, false, 4, false, 4, 0, 0, 4294967295⟩,
  ⟨0x2010, 8, 0x8, "laser_low_events", .u32, .rc, false, 4, false, 4, 0, 0, 4294967295⟩,
  ⟨0x2010, 8, 0x9, "laser_lost_events", .u32, .rc, false, 4, false, 4, 0, 0, 4294967295⟩,
  ⟨0x2100, 1, 0x0, "highest_sub", .u8, .ro, true, 1, false, 1, 4, 0, 255⟩]

/-- Rows of the entry tables, part 4. -/
def entries4 : List Entry := [
  ⟨0x2100, 1, 0x1, "eyelet_count", .u8, .ro, true, 1, false, 1, 32, 0, 255⟩,
  ⟨0x2100, 1, 0x2, "lanes_per_eyelet", .u8, .ro, true, 1, false, 1, 32, 0, 255⟩,
  ⟨0x2100, 1, 0x3, "rx_phase_steps", .u8, .ro, true, 1, false, 1, 64, 0, 255⟩,
  ⟨0x2100, 1, 0x4, "heater_full_scale_mw", .u16, .ro, true, 2, false, 2, 12, 0, 65535⟩,
  ⟨0x2110, 32, 0x0, "highest_sub", .u8, .ro, true, 1, false, 1, 5, 0, 255⟩,
  ⟨0x2110, 32, 0x1, "lane_states", .blob, .ro, true, 32, false, 0, 2, 0, 0⟩,
  ⟨0x2110, 32, 0x2, "ring_states", .blob, .ro, false, 32, false, 0, 3, 0, 0⟩,
  ⟨0x2110, 32, 0x3, "rx_phase", .blob, .ro, false, 32, false, 1, 0, 0, 255⟩,
  ⟨0x2110, 32, 0x4, "rx_power_cdbm", .blob, .ro, false, 128, false, 4, 0, 0, 4294967295⟩,
  ⟨0x2110, 32, 0x5, "tx_power_cdbm", .blob, .ro, false, 128, false, 4, 0, 0, 4294967295⟩,
  ⟨0x2130, 1, 0x0, "highest_sub", .u8, .ro, true, 1, false, 1, 4, 0, 255⟩,
  ⟨0x2130, 1, 0x1, "replay_depth_blocks", .u8, .ro, true, 1, false, 1, 32, 0, 255⟩,
  ⟨0x2130, 1, 0x2, "min_eye_steps", .u8, .rw, false, 1, false, 1, 12, 4, 32⟩,
  ⟨0x2130, 1, 0x3, "train_retry_ms", .u16, .rw, false, 2, false, 2, 10, 1, 1000⟩,
  ⟨0x2130, 1, 0x4, "beacon_interval_us", .u32, .rw, false, 4, false, 4, 1024, 0, 4294967295⟩,
  ⟨0x2140, 32, 0x0, "highest_sub", .u8, .ro, true, 1, false, 1, 12, 0, 255⟩,
  ⟨0x2140, 32, 0x1, "lane_latency_beats", .blob, .rw, false, 32, false, 1, 0, 0, 16⟩,
  ⟨0x2140, 32, 0x2, "trained_latency", .blob, .ro, true, 32, false, 1, 0, 0, 255⟩,
  ⟨0x2140, 32, 0x3, "flight_ps", .blob, .ro, false, 128, false, 4, 0, 0, 4294967295⟩,
  ⟨0x2140, 32, 0x4, "train_state", .blob, .ro, false, 32, false, 0, 0, 0, 0⟩,
  ⟨0x2140, 32, 0x5, "train_result", .blob, .ro, false, 32, false, 1, 0, 0, 255⟩,
  ⟨0x2140, 32, 0x6, "corrected_blocks", .blob, .ro, true, 256, false, 8, 0, 0, 18446744073709551615⟩,
  ⟨0x2140, 32, 0x7, "uncorrectable_blocks", .blob, .ro, true, 256, false, 8, 0, 0, 18446744073709551615⟩,
  ⟨0x2140, 32, 0x8, "mends", .blob, .ro, true, 256, false, 8, 0, 0, 18446744073709551615⟩]

/-- Rows of the entry tables, part 5. -/
def entries5 : List Entry := [
  ⟨0x2140, 32, 0x9, "duplicates", .blob, .ro, true, 256, false, 8, 0, 0, 18446744073709551615⟩,
  ⟨0x2140, 32, 0xa, "ack_timeouts", .blob, .ro, true, 256, false, 8, 0, 0, 18446744073709551615⟩,
  ⟨0x2140, 32, 0xb, "mend_exhausted", .blob, .ro, true, 128, false, 4, 0, 0, 4294967295⟩,
  ⟨0x2140, 32, 0xc, "trainings", .blob, .ro, true, 128, false, 4, 0, 0, 4294967295⟩,
  ⟨0x2200, 1, 0x0, "highest_sub", .u8, .ro, true, 1, false, 1, 9, 0, 255⟩,
  ⟨0x2200, 1, 0x1, "fit_table_points", .u8, .ro, true, 1, false, 1, 16, 0, 255⟩,
  ⟨0x2200, 1, 0x2, "fit_span_codes", .u16, .ro, false, 2, false, 2, 640, 0, 65535⟩,
  ⟨0x2200, 1, 0x3, "fit_idle_interval_us", .u32, .rw, false, 4, false, 4, 100, 20, 100000⟩,
  ⟨0x2200, 1, 0x4, "fit_max_age_ms", .u32, .rw, false, 4, false, 4, 250, 50, 1000⟩,
  ⟨0x2200, 1, 0x5, "fit_stale_ms", .u32, .rw, false, 4, false, 4, 1000, 200, 10000⟩,
  ⟨0x2200, 1, 0x6, "fit_fail_limit", .u8, .rw, false, 1, false, 1, 3, 1, 8⟩,
  ⟨0x2200, 1, 0x7, "fit_passes", .u64, .rc, false, 8, false, 8, 0, 0, 18446744073709551615⟩,
  ⟨0x2200, 1, 0x8, "fit_failures", .u64, .rc, false, 8, false, 8, 0, 0, 18446744073709551615⟩,
  ⟨0x2200, 1, 0x9, "fit_deferrals", .u64, .rc, false, 8, false, 8, 0, 0, 18446744073709551615⟩,
  ⟨0x2210, 32, 0x0, "highest_sub", .u8, .ro, true, 1, false, 1, 5, 0, 255⟩,
  ⟨0x2210, 32, 0x1, "ring_tables", .blob, .rwx, false, 2048, false, 0, 0, 0, 0⟩,
  ⟨0x2210, 32, 0x2, "lane_age_ms", .blob, .ro, false, 128, false, 4, 4294967295, 0, 4294967295⟩,
  ⟨0x2210, 32, 0x3, "last_fit", .blob, .ro, false, 256, false, 8, 0, 0, 18446744073709551615⟩,
  ⟨0x2210, 32, 0x4, "eyelet_temp_mc", .i32, .ro, false, 4, false, 4, 0, 0, 4294967295⟩,
  ⟨0x2210, 32, 0x5, "full_search", .u8, .wo, false, 1, false, 1, 0, 0, 255⟩,
  ⟨0x2300, 1, 0x0, "highest_sub", .u8, .ro, true, 1, false, 1, 20, 0, 255⟩,
  ⟨0x2300, 1, 0x1, "route_state", .u8, .ro, false, 1, false, 1, 0, 0, 255⟩,
  ⟨0x2300, 1, 0x2, "active_generation", .u16, .ro, false, 2, false, 2, 0, 0, 65535⟩,
  ⟨0x2300, 1, 0x3, "shadow_generation", .u16, .rw, false, 2, false, 2, 0, 0, 65535⟩]

/-- Rows of the entry tables, part 6. -/
def entries6 : List Entry := [
  ⟨0x2300, 1, 0x4, "route_shadow", .blob, .rw, false, 32768, false, 0, 0, 0, 0⟩,
  ⟨0x2300, 1, 0x5, "route_active", .blob, .ro, false, 32768, false, 0, 0, 0, 0⟩,
  ⟨0x2300, 1, 0x6, "route_copy", .u8, .wo, false, 1, false, 1, 0, 0, 255⟩,
  ⟨0x2300, 1, 0x7, "route_entry_sel", .u16, .rw, false, 2, false, 2, 0, 0, 4095⟩,
  ⟨0x2300, 1, 0x8, "route_entry", .u64, .rw, false, 8, false, 8, 0, 0, 18446744073709551615⟩,
  ⟨0x2300, 1, 0x9, "route_swap", .u8, .wo, false, 1, false, 1, 0, 0, 255⟩,
  ⟨0x2300, 1, 0xa, "route_release", .u8, .wo, false, 1, false, 1, 0, 0, 255⟩,
  ⟨0x2300, 1, 0xb, "swap_drain_us", .u16, .rw, false, 2, false, 2, 50, 5, 100⟩,
  ⟨0x2300, 1, 0xc, "route_hold_limit_us", .u16, .rw, false, 2, false, 2, 100, 10, 145⟩,
  ⟨0x2300, 1, 0xd, "swap_result", .u8, .ro, false, 1, false, 1, 0, 0, 255⟩,
  ⟨0x2300, 1, 0xe, "swap_bad_index", .u16, .ro, false, 2, false, 2, 0, 0, 65535⟩,
  ⟨0x2300, 1, 0xf, "max_hops", .u8, .rw, false, 1, false, 1, 8, 1, 15⟩,
  ⟨0x2300, 1, 0x10, "route_drops", .u64, .rc, false, 8, false, 8, 0, 0, 18446744073709551615⟩,
  ⟨0x2300, 1, 0x11, "hop_drops", .u64, .rc, false, 8, false, 8, 0, 0, 18446744073709551615⟩,
  ⟨0x2300, 1, 0x12, "truncated_packets", .u64, .rc, false, 8, false, 8, 0, 0, 18446744073709551615⟩,
  ⟨0x2300, 1, 0x13, "hold_expiries", .u32, .rc, false, 4, false, 4, 0, 0, 4294967295⟩,
  ⟨0x2300, 1, 0x14, "swaps", .u32, .rc, false, 4, false, 4, 0, 0, 4294967295⟩,
  ⟨0x2380, 1, 0x0, "highest_sub", .u8, .ro, true, 1, false, 1, 11, 0, 255⟩,
  ⟨0x2380, 1, 0x1, "chip_number", .u16, .rwx, false, 2, false, 2, 65535, 0, 65535⟩,
  ⟨0x2380, 1, 0x2, "chip_number_active", .u16, .ro, true, 2, false, 2, 65535, 0, 65535⟩,
  ⟨0x2380, 1, 0x3, "group_member", .u8, .ro, true, 1, false, 1, 255, 0, 255⟩,
  ⟨0x2380, 1, 0x4, "max_outstanding", .u16, .ro, true, 2, false, 2, 256, 0, 65535⟩,
  ⟨0x2380, 1, 0x5, "ack_timeout_us", .u32, .rw, false, 4, false, 4, 500, 200, 10000⟩,
  ⟨0x2380, 1, 0x6, "reorder_hold_us", .u32, .rw, false, 4, false, 4, 200, 50, 5000⟩]

/-- Rows of the entry tables, part 7. -/
def entries7 : List Entry := [
  ⟨0x2380, 1, 0x7, "reorder_pool_bytes", .u32, .ro, true, 4, false, 4, 4194304, 0, 4294967295⟩,
  ⟨0x2380, 1, 0x8, "fabric_timeouts", .u64, .rc, false, 8, false, 8, 0, 0, 18446744073709551615⟩,
  ⟨0x2380, 1, 0x9, "reorder_drops", .u64, .rc, false, 8, false, 8, 0, 0, 18446744073709551615⟩,
  ⟨0x2380, 1, 0xa, "resyncs", .u64, .rc, false, 8, false, 8, 0, 0, 18446744073709551615⟩,
  ⟨0x2380, 1, 0xb, "foreign_drops", .u64, .rc, false, 8, false, 8, 0, 0, 18446744073709551615⟩,
  ⟨0x2400, 1, 0x0, "highest_sub", .u8, .ro, true, 1, false, 1, 11, 0, 255⟩,
  ⟨0x2400, 1, 0x1, "plan_staged", .blob, .rw, false, 1048576, true, 0, 0, 0, 0⟩,
  ⟨0x2400, 1, 0x2, "plan_commit", .u8, .wo, false, 1, false, 1, 0, 0, 255⟩,
  ⟨0x2400, 1, 0x3, "plan_committed", .blob, .ro, false, 1048576, true, 0, 0, 0, 0⟩,
  ⟨0x2400, 1, 0x4, "plan_generation", .u16, .ro, false, 2, false, 2, 0, 0, 65535⟩,
  ⟨0x2400, 1, 0x5, "group_digest", .u64, .ro, false, 8, false, 8, 0, 0, 18446744073709551615⟩,
  ⟨0x2400, 1, 0x6, "pod_digest", .u64, .ro, false, 8, false, 8, 0, 0, 18446744073709551615⟩,
  ⟨0x2400, 1, 0x7, "commit_result", .u8, .ro, false, 1, false, 1, 0, 0, 255⟩,
  ⟨0x2400, 1, 0x8, "link_rev_range", .u16, .ro, true, 2, false, 2, 257, 0, 65535⟩,
  ⟨0x2400, 1, 0x9, "firmware_build", .u32, .ro, true, 4, false, 4, 0, 0, 4294967295⟩,
  ⟨0x2400, 1, 0xa, "eyelet_map", .blob, .ro, false, 32, false, 0, 0, 0, 0⟩,
  ⟨0x2400, 1, 0xb, "cabling_events", .blob, .rc, false, 32, false, 4, 0, 0, 4294967295⟩,
  ⟨0x2410, 32, 0x0, "highest_sub", .u8, .ro, true, 1, false, 1, 4, 0, 255⟩,
  ⟨0x2410, 32, 0x1, "cable_result", .blob, .ro, false, 32, false, 0, 0, 0, 0⟩,
  ⟨0x2410, 32, 0x2, "negotiated_rev", .blob, .ro, false, 32, false, 0, 0, 0, 0⟩,
  ⟨0x2410, 32, 0x3, "peer_beacons", .blob, .ro, false, 2048, false, 0, 0, 0, 0⟩,
  ⟨0x2410, 32, 0x4, "rotation_offset", .u8, .ro, false, 1, false, 1, 0, 0, 255⟩,
  ⟨0x3000, 1, 0x0, "highest_sub", .u8, .ro, true, 1, false, 1, 13, 0, 255⟩,
  ⟨0x3000, 1, 0x1, "bringup_state", .u8, .ro, true, 1, false, 1, 0, 0, 255⟩]

/-- Rows of the entry tables, part 8. -/
def entries8 : List Entry := [
  ⟨0x3000, 1, 0x2, "reset_cause", .u8, .ro, false, 1, false, 1, 0, 0, 255⟩,
  ⟨0x3000, 1, 0x3, "warm_resets", .u32, .ro, false, 4, false, 4, 0, 0, 4294967295⟩,
  ⟨0x3000, 1, 0x4, "last_bringup_ms", .u32, .ro, false, 4, false, 4, 0, 0, 4294967295⟩,
  ⟨0x3000, 1, 0x5, "tile_map", .blob, .ro, true, 64, false, 0, 0, 0, 0⟩,
  ⟨0x3000, 1, 0x6, "tile_health", .blob, .ro, false, 72, false, 0, 0, 0, 0⟩,
  ⟨0x3000, 1, 0x7, "spares_free", .u8, .ro, true, 1, false, 1, 8, 0, 255⟩,
  ⟨0x3000, 1, 0x8, "tile_fence_req", .u8, .wo, false, 1, false, 1, 0, 0, 255⟩,
  ⟨0x3000, 1, 0x9, "restart_request", .u8, .wo, false, 1, false, 1, 0, 0, 255⟩,
  ⟨0x3000, 1, 0xa, "exclusion", .bits32, .ro, false, 4, false, 4, 0, 0, 4294967295⟩,
  ⟨0x3000, 1, 0xb, "exclusion_clear", .u8, .wo, false, 1, false, 1, 0, 0, 255⟩,
  ⟨0x3000, 1, 0xc, "flash_writes", .u32, .ro, false, 4, false, 4, 0, 0, 4294967295⟩,
  ⟨0x3000, 1, 0xd, "calib_flash_interval_s", .u32, .rw, false, 4, false, 4, 600, 60, 86400⟩,
  ⟨0x3020, 1, 0x0, "highest_sub", .u8, .ro, true, 1, false, 1, 6, 0, 255⟩,
  ⟨0x3020, 1, 0x1, "welt_states", .blob, .ro, false, 1616, false, 0, 0, 0, 0⟩,
  ⟨0x3020, 1, 0x2, "welt_repaired", .blob, .ro, false, 1616, false, 0, 0, 0, 0⟩,
  ⟨0x3020, 1, 0x3, "welt_crc_errors", .blob, .ro, true, 6464, false, 4, 0, 0, 4294967295⟩,
  ⟨0x3020, 1, 0x4, "welt_replays", .blob, .ro, true, 6464, false, 4, 0, 0, 4294967295⟩,
  ⟨0x3020, 1, 0x5, "welt_selftest", .u8, .wo, false, 1, false, 1, 0, 0, 255⟩,
  ⟨0x3020, 1, 0x6, "selftest_result", .u32, .ro, false, 4, false, 4, 0, 0, 4294967295⟩,
  ⟨0x3040, 1, 0x0, "highest_sub", .u8, .ro, true, 1, false, 1, 3, 0, 255⟩,
  ⟨0x3040, 1, 0x1, "array_dims", .u32, .ro, true, 4, false, 4, 8388736, 0, 4294967295⟩,
  ⟨0x3040, 1, 0x2, "row_state_sets", .u8, .ro, true, 1, false, 1, 4, 0, 255⟩,
  ⟨0x3040, 1, 0x3, "func_ref_revision", .u16, .ro, true, 2, false, 2, 1, 0, 65535⟩,
  ⟨0x3050, 1, 0x0, "highest_sub", .u8, .ro, true, 1, false, 1, 7, 0, 255⟩]

/-- Rows of the entry tables, part 9. -/
def entries9 : List Entry := [
  ⟨0x3050, 1, 0x1, "scratchpad_bytes", .u32, .ro, true, 4, false, 4, 33554432, 0, 4294967295⟩,
  ⟨0x3050, 1, 0x2, "bank_count", .u8, .ro, true, 1, false, 1, 64, 0, 255⟩,
  ⟨0x3050, 1, 0x3, "bank_width_bytes", .u8, .ro, true, 1, false, 1, 64, 0, 255⟩,
  ⟨0x3050, 1, 0x4, "handle_entries", .u16, .ro, true, 2, false, 2, 256, 0, 65535⟩,
  ⟨0x3050, 1, 0x5, "window_entries", .u8, .ro, true, 1, false, 1, 16, 0, 255⟩,
  ⟨0x3050, 1, 0x6, "line_buffer_bytes", .u32, .ro, true, 4, false, 4, 16384, 0, 4294967295⟩,
  ⟨0x3050, 1, 0x7, "last_zeroise_cycles", .u32, .ro, false, 4, false, 4, 0, 0, 4294967295⟩,
  ⟨0x3060, 1, 0x0, "highest_sub", .u8, .ro, true, 1, false, 1, 10, 0, 255⟩,
  ⟨0x3060, 1, 0x1, "stitchers_per_tile", .u8, .ro, true, 1, false, 1, 4, 0, 255⟩,
  ⟨0x3060, 1, 0x2, "privileged_stitchers", .u8, .ro, true, 1, false, 1, 8, 0, 255⟩,
  ⟨0x3060, 1, 0x3, "pattern_entries", .u8, .ro, true, 1, false, 1, 128, 0, 255⟩,
  ⟨0x3060, 1, 0x4, "tensor_desc_entries", .u16, .ro, true, 2, false, 2, 256, 0, 65535⟩,
  ⟨0x3060, 1, 0x5, "stitcher_desc_entries", .u16, .ro, true, 2, false, 2, 4096, 0, 65535⟩,
  ⟨0x3060, 1, 0x6, "xlate_entries", .u16, .ro, true, 2, false, 2, 1024, 0, 65535⟩,
  ⟨0x3060, 1, 0x7, "xlate_pin_limit", .u16, .ro, true, 2, false, 2, 768, 0, 65535⟩,
  ⟨0x3060, 1, 0x8, "xlate_root", .u64, .rw, true, 8, false, 8, 0, 0, 18446744073709551615⟩,
  ⟨0x3060, 1, 0x9, "xlate_invalidate", .u64, .wo, true, 8, false, 8, 0, 0, 18446744073709551615⟩,
  ⟨0x3060, 1, 0xa, "page_sizes", .bits32, .ro, true, 4, false, 4, 7, 0, 4294967295⟩,
  ⟨0x3100, 1, 0x0, "highest_sub", .u8, .ro, true, 1, false, 1, 13, 0, 255⟩,
  ⟨0x3100, 1, 0x1, "stack_count", .u8, .ro, true, 1, false, 1, 16, 0, 255⟩,
  ⟨0x3100, 1, 0x2, "stack_bytes", .u64, .ro, true, 8, false, 8, 51539607552, 0, 18446744073709551615⟩,
  ⟨0x3100, 1, 0x3, "pseudo_channels", .u8, .ro, true, 1, false, 1, 64, 0, 255⟩,
  ⟨0x3100, 1, 0x4, "patrol_period_s", .u32, .rw, false, 4, false, 4, 86400, 3600, 604800⟩,
  ⟨0x3100, 1, 0x5, "patrol_position", .u64, .ro, false, 8, false, 8, 0, 0, 18446744073709551615⟩]

/-- Rows of the entry tables, part 10. -/
def entries10 : List Entry := [
  ⟨0x3100, 1, 0x6, "patrol_passes", .u32, .ro, false, 4, false, 4, 0, 0, 4294967295⟩,
  ⟨0x3100, 1, 0x7, "maint_idle_share", .u8, .rw, false, 1, false, 1, 8, 1, 240⟩,
  ⟨0x3100, 1, 0x8, "prio_weights", .u32, .rw, false, 4, false, 4, 16909320, 0, 4294967295⟩,
  ⟨0x3100, 1, 0x9, "hold_limit_us", .u16, .rw, false, 2, false, 2, 100, 10, 100⟩,
  ⟨0x3100, 1, 0xa, "partition_commit", .u8, .wo, false, 1, false, 1, 0, 0, 255⟩,
  ⟨0x3100, 1, 0xb, "last_ue_address", .u64, .ro, false, 8, false, 8, 0, 0, 18446744073709551615⟩,
  ⟨0x3100, 1, 0xc, "last_scrub_us", .u32, .ro, false, 4, false, 4, 0, 0, 4294967295⟩,
  ⟨0x3100, 1, 0xd, "hold_places", .u16, .ro, false, 2, false, 2, 64, 0, 65535⟩,
  ⟨0x3110, 16, 0x0, "highest_sub", .u8, .ro, true, 1, false, 1, 14, 0, 255⟩,
  ⟨0x3110, 16, 0x1, "enable", .u8, .rw, false, 1, false, 1, 0, 0, 1⟩,
  ⟨0x3110, 16, 0x2, "rate_mbps", .u32, .rw, false, 4, false, 4, 4294967295, 1, 4294967295⟩,
  ⟨0x3110, 16, 0x3, "burst_kib", .u32, .rw, false, 4, false, 4, 1024, 4, 65536⟩,
  ⟨0x3110, 16, 0x4, "range_count", .u8, .rw, false, 1, false, 1, 0, 0, 8⟩,
  ⟨0x3110, 16, 0x5, "range_0", .u64, .rw, false, 8, false, 8, 0, 0, 18446744073709551615⟩,
  ⟨0x3110, 16, 0x6, "range_1", .u64, .rw, false, 8, false, 8, 0, 0, 18446744073709551615⟩,
  ⟨0x3110, 16, 0x7, "range_2", .u64, .rw, false, 8, false, 8, 0, 0, 18446744073709551615⟩,
  ⟨0x3110, 16, 0x8, "range_3", .u64, .rw, false, 8, false, 8, 0, 0, 18446744073709551615⟩,
  ⟨0x3110, 16, 0x9, "range_4", .u64, .rw, false, 8, false, 8, 0, 0, 18446744073709551615⟩,
  ⟨0x3110, 16, 0xa, "range_5", .u64, .rw, false, 8, false, 8, 0, 0, 18446744073709551615⟩,
  ⟨0x3110, 16, 0xb, "range_6", .u64, .rw, false, 8, false, 8, 0, 0, 18446744073709551615⟩,
  ⟨0x3110, 16, 0xc, "range_7", .u64, .rw, false, 8, false, 8, 0, 0, 18446744073709551615⟩,
  ⟨0x3110, 16, 0xd, "delayed_requests", .u64, .rc, false, 8, false, 8, 0, 0, 18446744073709551615⟩,
  ⟨0x3110, 16, 0xe, "refused_requests", .u64, .rc, false, 8, false, 8, 0, 0, 18446744073709551615⟩,
  ⟨0x3200, 1, 0x0, "highest_sub", .u8, .ro, true, 1, false, 1, 6, 0, 255⟩]

/-- Rows of the entry tables, part 11. -/
def entries11 : List Entry := [
  ⟨0x3200, 1, 0x1, "slice_count", .u8, .ro, true, 1, false, 1, 4, 0, 255⟩,
  ⟨0x3200, 1, 0x2, "slice_bytes", .u32, .ro, true, 4, false, 4, 67108864, 0, 4294967295⟩,
  ⟨0x3200, 1, 0x3, "ways", .u8, .ro, true, 1, false, 1, 16, 0, 255⟩,
  ⟨0x3200, 1, 0x4, "line_bytes", .u8, .ro, true, 1, false, 1, 64, 0, 255⟩,
  ⟨0x3200, 1, 0x5, "atomic_ops", .bits32, .ro, true, 4, false, 4, 2047, 0, 4294967295⟩,
  ⟨0x3200, 1, 0x6, "reset_writeback_us", .u32, .ro, false, 4, false, 4, 0, 0, 4294967295⟩,
  ⟨0x4000, 1, 0x0, "highest_sub", .u8, .ro, true, 1, false, 1, 15, 0, 255⟩,
  ⟨0x4000, 1, 0x1, "queue_count", .u16, .ro, true, 2, false, 2, 512, 0, 65535⟩,
  ⟨0x4000, 1, 0x2, "queue_table_base", .u64, .rwx, false, 8, false, 8, 807453786112, 0, 18446744073709551615⟩,
  ⟨0x4000, 1, 0x3, "sem_base", .u64, .rwx, false, 8, false, 8, 807453720576, 0, 18446744073709551615⟩,
  ⟨0x4000, 1, 0x4, "queue_ctl", .u32, .wo, true, 4, false, 4, 0, 0, 4294967295⟩,
  ⟨0x4000, 1, 0x5, "queue_states", .blob, .ro, true, 512, false, 0, 0, 0, 0⟩,
  ⟨0x4000, 1, 0x6, "inflight_limit", .u8, .ro, true, 1, false, 1, 16, 0, 255⟩,
  ⟨0x4000, 1, 0x7, "mgmt_command", .blob, .wo, false, 64, false, 0, 0, 0, 0⟩,
  ⟨0x4000, 1, 0x8, "lace_timeout_us", .u32, .rw, false, 4, false, 4, 1000, 10, 100000⟩,
  ⟨0x4000, 1, 0x9, "lace_set_count", .u8, .ro, true, 1, false, 1, 64, 0, 255⟩,
  ⟨0x4000, 1, 0xa, "lace_takeovers", .u32, .rc, false, 4, false, 4, 0, 0, 4294967295⟩,
  ⟨0x4000, 1, 0xb, "commands_started", .u64, .ro, true, 8, false, 8, 0, 0, 18446744073709551615⟩,
  ⟨0x4000, 1, 0xc, "lace_ops", .u64, .ro, true, 8, false, 8, 0, 0, 18446744073709551615⟩,
  ⟨0x4000, 1, 0xd, "bulk_stage", .u32, .rw, false, 4, false, 4, 1057486848, 0, 4294967295⟩,
  ⟨0x4000, 1, 0xe, "bulk_digest", .u64, .ro, false, 8, false, 8, 0, 0, 18446744073709551615⟩,
  ⟨0x4000, 1, 0xf, "bulk_status", .u8, .ro, false, 1, false, 1, 0, 0, 255⟩,
  ⟨0x4040, 64, 0x0, "highest_sub", .u8, .ro, true, 1, false, 1, 5, 0, 255⟩,
  ⟨0x4040, 64, 0x1, "lace_enable", .u8, .rw, true, 1, false, 1, 0, 0, 1⟩]

/-- Rows of the entry tables, part 12. -/
def entries12 : List Entry := [
  ⟨0x4040, 64, 0x2, "lace_shape", .u8, .rw, true, 1, false, 1, 0, 0, 1⟩,
  ⟨0x4040, 64, 0x3, "lace_members", .blob, .rw, true, 512, true, 0, 0, 0, 0⟩,
  ⟨0x4040, 64, 0x4, "lace_seq", .u32, .ro, true, 4, false, 4, 0, 0, 4294967295⟩,
  ⟨0x4040, 64, 0x5, "lace_drops", .u32, .rc, true, 4, false, 4, 0, 0, 4294967295⟩,
  ⟨0x4100, 1, 0x0, "highest_sub", .u8, .ro, true, 1, false, 1, 16, 0, 255⟩,
  ⟨0x4100, 1, 0x1, "last_store_base", .u64, .rwx, false, 8, false, 8, 807453851648, 0, 18446744073709551615⟩,
  ⟨0x4100, 1, 0x2, "last_slots", .u8, .ro, true, 1, false, 1, 16, 0, 255⟩,
  ⟨0x4100, 1, 0x3, "last_max_bytes", .u32, .ro, true, 4, false, 4, 1073741824, 0, 4294967295⟩,
  ⟨0x4100, 1, 0x4, "slot_states", .blob, .ro, true, 16, false, 0, 0, 0, 0⟩,
  ⟨0x4100, 1, 0x5, "slot_generations", .blob, .ro, true, 64, false, 0, 0, 0, 0⟩,
  ⟨0x4100, 1, 0x6, "slot_set_digests", .blob, .ro, true, 128, false, 0, 0, 0, 0⟩,
  ⟨0x4100, 1, 0x7, "running_slot", .u8, .ro, true, 1, false, 1, 255, 0, 255⟩,
  ⟨0x4100, 1, 0x8, "running_bucket", .u8, .ro, true, 1, false, 1, 255, 0, 255⟩,
  ⟨0x4100, 1, 0x9, "load_result", .u8, .ro, true, 1, false, 1, 0, 0, 255⟩,
  ⟨0x4100, 1, 0xa, "load_detail", .u32, .ro, true, 4, false, 4, 0, 0, 4294967295⟩,
  ⟨0x4100, 1, 0xb, "stagger_beats", .u8, .rw, false, 1, false, 1, 0, 0, 63⟩,
  ⟨0x4100, 1, 0xc, "agreed_stretch", .u16, .ro, true, 2, false, 2, 256, 0, 65535⟩,
  ⟨0x4100, 1, 0xd, "rest_beats", .u64, .ro, true, 8, false, 8, 0, 0, 18446744073709551615⟩,
  ⟨0x4100, 1, 0xe, "pace_points", .u64, .ro, true, 8, false, 8, 0, 0, 18446744073709551615⟩,
  ⟨0x4100, 1, 0xf, "steps_run", .u64, .ro, true, 8, false, 8, 0, 0, 18446744073709551615⟩,
  ⟨0x4100, 1, 0x10, "last_unload", .u8, .wo, true, 1, false, 1, 0, 0, 255⟩,
  ⟨0x5000, 1, 0x0, "highest_sub", .u8, .ro, true, 1, false, 1, 28, 0, 255⟩,
  ⟨0x5000, 1, 0x1, "tenant_state", .u8, .ro, true, 1, false, 1, 0, 0, 255⟩,
  ⟨0x5000, 1, 0x2, "tenant_id", .u32, .ro, true, 4, false, 4, 0, 0, 4294967295⟩]

/-- Rows of the entry tables, part 13. -/
def entries13 : List Entry := [
  ⟨0x5000, 1, 0x3, "tenant_mode", .u8, .ro, true, 1, false, 1, 0, 0, 255⟩,
  ⟨0x5000, 1, 0x4, "tenant_change", .blob, .wo, false, 520, false, 0, 0, 0, 0⟩,
  ⟨0x5000, 1, 0x5, "peer_set", .blob, .rw, false, 512, false, 0, 0, 0, 0⟩,
  ⟨0x5000, 1, 0x6, "last_clear_us", .u32, .ro, false, 4, false, 4, 0, 0, 4294967295⟩,
  ⟨0x5000, 1, 0x7, "tenant_changes", .u32, .ro, false, 4, false, 4, 0, 0, 4294967295⟩,
  ⟨0x5000, 1, 0x8, "fw_svn", .u8, .ro, true, 1, false, 1, 0, 0, 255⟩,
  ⟨0x5000, 1, 0x9, "rollback_fused", .u8, .ro, true, 1, false, 1, 0, 0, 255⟩,
  ⟨0x5000, 1, 0xa, "fw_rollback_commit", .u8, .wo, false, 1, false, 1, 0, 0, 255⟩,
  ⟨0x5000, 1, 0xb, "measurement", .blob, .ro, true, 48, false, 0, 0, 0, 0⟩,
  ⟨0x5000, 1, 0xc, "attest_nonce", .blob, .wo, true, 32, false, 0, 0, 0, 0⟩,
  ⟨0x5000, 1, 0xd, "attest_report", .blob, .ro, true, 352, true, 0, 0, 0, 0⟩,
  ⟨0x5000, 1, 0xe, "device_cert_chain", .blob, .ro, true, 1048576, true, 0, 0, 0, 0⟩,
  ⟨0x5000, 1, 0xf, "binding_pubkey", .blob, .ro, true, 97, false, 0, 0, 0, 0⟩,
  ⟨0x5000, 1, 0x10, "device_serial", .u64, .ro, true, 8, false, 8, 0, 0, 18446744073709551615⟩,
  ⟨0x5000, 1, 0x11, "key_slot_write", .blob, .wo, true, 176, false, 0, 0, 0, 0⟩,
  ⟨0x5000, 1, 0x12, "key_slot_erase", .u8, .wo, true, 1, false, 1, 0, 0, 255⟩,
  ⟨0x5000, 1, 0x13, "key_slot_table", .blob, .ro, true, 1024, false, 0, 0, 0, 0⟩,
  ⟨0x5000, 1, 0x14, "seal_install", .blob, .wo, true, 40, false, 0, 0, 0, 0⟩,
  ⟨0x5000, 1, 0x15, "install_status", .u64, .ro, true, 8, false, 8, 0, 0, 18446744073709551615⟩,
  ⟨0x5000, 1, 0x16, "mgmt_anchors", .blob, .rw, false, 1048576, true, 0, 0, 0, 0⟩,
  ⟨0x5000, 1, 0x17, "seal_auth_failures", .u64, .ro, false, 8, false, 8, 0, 0, 18446744073709551615⟩,
  ⟨0x5000, 1, 0x18, "seal_mismatches", .u32, .rc, false, 4, false, 4, 0, 0, 4294967295⟩,
  ⟨0x5000, 1, 0x19, "sealed_denials", .u32, .rc, false, 4, false, 4, 0, 0, 4294967295⟩,
  ⟨0x5000, 1, 0x1a, "fw_image_stage", .blob, .wo, false, 1048576, true, 0, 0, 0, 0⟩]

/-- Rows of the entry tables, part 14. -/
def entries14 : List Entry := [
  ⟨0x5000, 1, 0x1b, "fw_update_state", .u8, .ro, false, 1, false, 1, 0, 0, 255⟩,
  ⟨0x5000, 1, 0x1c, "fw_activate", .u8, .wo, false, 1, false, 1, 0, 0, 255⟩,
  ⟨0x6010, 64, 0x0, "highest_sub", .u8, .ro, true, 1, false, 1, 5, 0, 255⟩,
  ⟨0x6010, 64, 0x1, "ops_by_format", .blob, .ro, true, 768, false, 8, 0, 0, 18446744073709551615⟩,
  ⟨0x6010, 64, 0x2, "conversion_events", .blob, .ro, true, 24, false, 8, 0, 0, 18446744073709551615⟩,
  ⟨0x6010, 64, 0x3, "filled_reads", .u64, .ro, true, 8, false, 8, 0, 0, 18446744073709551615⟩,
  ⟨0x6010, 64, 0x4, "dropped_writes", .u64, .ro, true, 8, false, 8, 0, 0, 18446744073709551615⟩,
  ⟨0x6010, 64, 0x5, "window_refusals", .u64, .ro, true, 8, false, 8, 0, 0, 18446744073709551615⟩,
  ⟨0x6080, 72, 0x0, "highest_sub", .u8, .ro, true, 1, false, 1, 4, 0, 255⟩,
  ⟨0x6080, 72, 0x1, "busy_beats", .u64, .ro, true, 8, false, 8, 0, 0, 18446744073709551615⟩,
  ⟨0x6080, 72, 0x2, "array_active_cycles", .blob, .ro, true, 32, false, 8, 0, 0, 18446744073709551615⟩,
  ⟨0x6080, 72, 0x3, "hbm_bytes", .blob, .ro, true, 16, false, 8, 0, 0, 18446744073709551615⟩,
  ⟨0x6080, 72, 0x4, "errors_by_class", .blob, .ro, true, 32, false, 8, 0, 0, 18446744073709551615⟩,
  ⟨0x6100, 1, 0x0, "highest_sub", .u8, .ro, true, 1, false, 1, 3, 0, 255⟩,
  ⟨0x6100, 1, 0x1, "transit_by_source", .blob, .rc, false, 32768, false, 8, 0, 0, 18446744073709551615⟩,
  ⟨0x6100, 1, 0x2, "global_lane_busy", .blob, .rc, false, 2048, false, 8, 0, 0, 18446744073709551615⟩,
  ⟨0x6100, 1, 0x3, "laser_power_log", .blob, .rc, false, 64, false, 4, 0, 0, 4294967295⟩,
  ⟨0x6200, 1, 0x0, "highest_sub", .u8, .ro, true, 1, false, 1, 18, 0, 255⟩,
  ⟨0x6200, 1, 0x1, "trace_enable", .bits32, .rw, false, 4, false, 4, 710, 0, 4294967295⟩,
  ⟨0x6200, 1, 0x2, "trace_mark_beats", .u32, .rw, false, 4, false, 4, 4096, 64, 16777215⟩,
  ⟨0x6200, 1, 0x3, "trace_records", .u64, .ro, false, 8, false, 8, 0, 0, 18446744073709551615⟩,
  ⟨0x6200, 1, 0x4, "trace_lost", .u64, .ro, false, 8, false, 8, 0, 0, 18446744073709551615⟩,
  ⟨0x6200, 1, 0x5, "tread_base", .u64, .rwx, false, 8, false, 8, 751619276800, 0, 18446744073709551615⟩,
  ⟨0x6200, 1, 0x6, "tread_bytes", .u64, .rwx, false, 8, false, 8, 4294967296, 0, 18446744073709551615⟩]

/-- Rows of the entry tables, part 15. -/
def entries15 : List Entry := [
  ⟨0x6200, 1, 0x7, "tread_head", .u64, .ro, false, 8, false, 8, 0, 0, 18446744073709551615⟩,
  ⟨0x6200, 1, 0x8, "tread_freeze", .u8, .rw, false, 1, false, 1, 0, 0, 1⟩,
  ⟨0x6200, 1, 0x9, "tread_autofreeze", .bits32, .rw, false, 4, false, 4, 1, 0, 4294967295⟩,
  ⟨0x6200, 1, 0xa, "freeze_count", .u32, .ro, false, 4, false, 4, 0, 0, 4294967295⟩,
  ⟨0x6200, 1, 0xb, "tread_span_bytes", .u64, .ro, false, 8, false, 8, 0, 0, 18446744073709551615⟩,
  ⟨0x6200, 1, 0xc, "tread_lost", .u64, .ro, false, 8, false, 8, 0, 0, 18446744073709551615⟩,
  ⟨0x6200, 1, 0xd, "tread_export_offset", .u64, .rw, false, 8, false, 8, 0, 0, 18446744073709551615⟩,
  ⟨0x6200, 1, 0xe, "tread_export_chunk", .blob, .ro, false, 524304, true, 0, 0, 0, 0⟩,
  ⟨0x6200, 1, 0xf, "tread_replay", .blob, .rw, false, 16, false, 8, 0, 0, 18446744073709551615⟩,
  ⟨0x6200, 1, 0x10, "digest_interval_beats", .u32, .rw, false, 4, false, 4, 0, 0, 4294967295⟩,
  ⟨0x6200, 1, 0x11, "pace_digests", .blob, .ro, true, 512, false, 8, 0, 0, 18446744073709551615⟩,
  ⟨0x6200, 1, 0x12, "trace_port_state", .u8, .ro, false, 1, false, 1, 0, 0, 255⟩,
  ⟨0x7000, 1, 0x0, "highest_sub", .u8, .ro, true, 1, false, 1, 24, 0, 255⟩,
  ⟨0x7000, 1, 0x1, "fault_epoch", .u32, .rw, false, 4, false, 4, 0, 0, 4294967295⟩,
  ⟨0x7000, 1, 0x2, "fault_ack", .u16, .wo, false, 2, false, 2, 0, 0, 65535⟩,
  ⟨0x7000, 1, 0x3, "held_reports", .u16, .ro, false, 2, false, 2, 0, 0, 65535⟩,
  ⟨0x7000, 1, 0x4, "fault_log", .blob, .ro, false, 8192, true, 0, 0, 0, 0⟩,
  ⟨0x7000, 1, 0x5, "fault_counts", .blob, .ro, true, 1024, false, 4, 0, 0, 4294967295⟩,
  ⟨0x7000, 1, 0x6, "rollback_state", .u8, .ro, true, 1, false, 1, 0, 0, 255⟩,
  ⟨0x7000, 1, 0x7, "rollback_step", .u32, .ro, true, 4, false, 4, 0, 0, 4294967295⟩,
  ⟨0x7000, 1, 0x8, "rollbacks", .u32, .ro, true, 4, false, 4, 0, 0, 4294967295⟩,
  ⟨0x7000, 1, 0x9, "steps_rerun", .u64, .ro, true, 8, false, 8, 0, 0, 18446744073709551615⟩,
  ⟨0x7000, 1, 0xa, "rollback_wait_ms", .u16, .rw, false, 2, false, 2, 200, 10, 10000⟩,
  ⟨0x7000, 1, 0xb, "rollback_limit", .u8, .rw, false, 1, false, 1, 3, 1, 16⟩]

/-- Rows of the entry tables, part 16. -/
def entries16 : List Entry := [
  ⟨0x7000, 1, 0xc, "buddy_chip", .u16, .rw, false, 2, false, 2, 65535, 0, 65535⟩,
  ⟨0x7000, 1, 0xd, "buddy_area", .u64, .rw, false, 8, false, 8, 768799145984, 0, 18446744073709551615⟩,
  ⟨0x7000, 1, 0xe, "local_area", .u64, .rw, false, 8, false, 8, 785979015168, 0, 18446744073709551615⟩,
  ⟨0x7000, 1, 0xf, "snapshot_slot_gib", .u8, .rw, false, 1, false, 1, 8, 1, 32⟩,
  ⟨0x7000, 1, 0x10, "snapshot_ranges", .blob, .rw, true, 512, true, 0, 0, 0, 0⟩,
  ⟨0x7000, 1, 0x11, "snapshot_status", .blob, .ro, true, 16, false, 8, 0, 0, 18446744073709551615⟩,
  ⟨0x7000, 1, 0x12, "snapshot_restore", .blob, .wo, true, 16, false, 0, 0, 0, 0⟩,
  ⟨0x7000, 1, 0x13, "restore_status", .u16, .ro, true, 2, false, 2, 0, 0, 65535⟩,
  ⟨0x7000, 1, 0x14, "tryon_interval_s", .u32, .rw, false, 4, false, 4, 0, 0, 4294967295⟩,
  ⟨0x7000, 1, 0x15, "tryon_kinds", .bits32, .rw, false, 4, false, 4, 0, 0, 4294967295⟩,
  ⟨0x7000, 1, 0x16, "tryon_counts", .blob, .ro, false, 60, false, 4, 0, 0, 4294967295⟩,
  ⟨0x7000, 1, 0x17, "standby_ready", .bits32, .ro, true, 4, false, 4, 0, 0, 4294967295⟩,
  ⟨0x7000, 1, 0x18, "tryon_recovery_ms", .u16, .rw, false, 2, false, 2, 1000, 10, 60000⟩,
  ⟨0x7100, 1, 0x0, "highest_sub", .u8, .ro, true, 1, false, 1, 19, 0, 255⟩,
  ⟨0x7100, 1, 0x1, "mgmt_link_state", .u8, .ro, false, 1, false, 1, 0, 0, 255⟩,
  ⟨0x7100, 1, 0x2, "mgmt_mac", .u64, .ro, false, 8, false, 8, 0, 0, 18446744073709551615⟩,
  ⟨0x7100, 1, 0x3, "mgmt_ipv6_addr", .blob, .rw, false, 16, false, 0, 0, 0, 0⟩,
  ⟨0x7100, 1, 0x4, "mgmt_ipv6_prefix", .u8, .rw, false, 1, false, 1, 64, 8, 128⟩,
  ⟨0x7100, 1, 0x5, "mgmt_ipv6_gateway", .blob, .rw, false, 16, false, 0, 0, 0, 0⟩,
  ⟨0x7100, 1, 0x6, "kdp_udp_port", .u16, .rw, false, 2, false, 2, 7418, 1024, 65535⟩,
  ⟨0x7100, 1, 0x7, "kdp_rev_range", .u16, .ro, true, 2, false, 2, 257, 0, 65535⟩,
  ⟨0x7100, 1, 0x8, "sessions_open", .u8, .ro, false, 1, false, 1, 0, 0, 255⟩,
  ⟨0x7100, 1, 0x9, "seg_timeout_ms", .u16, .ro, true, 2, false, 2, 2000, 0, 65535⟩,
  ⟨0x7100, 1, 0xa, "alert_unacked", .bits32, .ro, false, 4, false, 4, 0, 0, 4294967295⟩]

/-- Rows of the entry tables, part 17. -/
def entries17 : List Entry := [
  ⟨0x7100, 1, 0xb, "alert_ack", .bits32, .wo, false, 4, false, 4, 0, 0, 4294967295⟩,
  ⟨0x7100, 1, 0xc, "alert_line_state", .u8, .ro, false, 1, false, 1, 0, 0, 255⟩,
  ⟨0x7100, 1, 0xd, "alert_line_enable", .u8, .wo, false, 1, false, 1, 0, 0, 255⟩,
  ⟨0x7100, 1, 0xe, "alert_stuck_events", .u32, .rc, false, 4, false, 4, 0, 0, 4294967295⟩,
  ⟨0x7100, 1, 0xf, "session_aborts", .blob, .rc, false, 32, false, 4, 0, 0, 4294967295⟩,
  ⟨0x7100, 1, 0x10, "mailbox_base", .u64, .rwx, false, 8, false, 8, 807453655040, 0, 18446744073709551615⟩,
  ⟨0x7100, 1, 0x11, "mailbox_requests", .u64, .ro, false, 8, false, 8, 0, 0, 18446744073709551615⟩,
  ⟨0x7100, 1, 0x12, "link_downs", .u32, .rc, false, 4, false, 4, 0, 0, 4294967295⟩,
  ⟨0x7100, 1, 0x13, "dtls_failures", .u32, .rc, false, 4, false, 4, 0, 0, 4294967295⟩,
  ⟨0x7180, 1, 0x0, "highest_sub", .u8, .ro, true, 1, false, 1, 3, 0, 255⟩,
  ⟨0x7180, 1, 0x1, "mem_read_addr", .u64, .rw, false, 8, false, 8, 0, 0, 18446744073709551615⟩,
  ⟨0x7180, 1, 0x2, "mem_read_len", .u32, .rw, false, 4, false, 4, 64, 0, 4294967295⟩,
  ⟨0x7180, 1, 0x3, "mem_read_data", .blob, .ro, false, 1048576, true, 0, 0, 0, 0⟩]

/-- Every entry of the dictionary. -/
def entries : List Entry :=
  entries0 ++ entries1 ++ entries2 ++ entries3 ++ entries4 ++ entries5 ++ entries6 ++ entries7 ++ entries8 ++ entries9 ++ entries10 ++ entries11 ++ entries12 ++ entries13 ++ entries14 ++ entries15 ++ entries16 ++ entries17

/-- The entry at an index and subindex (R441 rank 2: none when it is not in use). -/
def findEntry (index sub : Nat) : Option Entry :=
  entries.find? (fun e => e.index ≤ index && index < e.index + e.count && e.sub == sub)

/-- Which of the indices of its family an index is: the eyelet, tile, partition or set. -/
def Entry.unit (e : Entry) (index : Nat) : Nat := index - e.index

/-- R444: every index in use, ascending (the entries stand in ascending order of index). -/
def indicesInUse : List Nat :=
  (entries.filter (fun e => e.sub == 0)).flatMap (fun e => (List.range e.count).map (e.index + ·))

/-- R524: whether an entry is served while RST_N holds the package. -/
def Entry.aon (e : Entry) : Bool :=
  e.sub == 0 ||
  (if e.index == 0x1000 || e.index == 0x1010 || e.index == 0x1100 || e.index == 0x1200 || e.index == 0x1240 || e.index == 0x1300 then true
   else if e.index == 0x2110 then e.sub == 2
   else if e.index == 0x2210 then e.sub == 1 || e.sub == 2
   else if e.index == 0x3000 || e.index == 0x6080 || e.index == 0x7000 || e.index == 0x7100 then true
   else if e.index == 0x5000 then !(0x11 ≤ e.sub && e.sub ≤ 0x15)
   else
     -- the always-on counters of R503 kept at other indices: of the Last (R321), per lane (R270), per welt (R406), freeze_count
     (e.index == 0x4100 && 0xD ≤ e.sub && e.sub ≤ 0xF) || (e.index == 0x2140 && 6 ≤ e.sub && e.sub ≤ 0xC) || (e.index == 0x3020 && (e.sub == 3 || e.sub == 4)) || (e.index == 0x6200 && e.sub == 0xA))

end Sys2Proof.Machine
end

