-- ==== Sys2Proof/Machine/Ops.lean ====
section
/-! DEFINITION. The named operations that every chapter shares: registers, memory, the outbox, free values, trace and tread
records (R506 to R513), and raising an event (R479 to R482, R497, R498). -/

namespace Sys2Proof.Machine

/-! ### Registers -/

/-- R372: what an engine outside the always-on domain makes of the state; nothing while the switched clocks stand. -/
def clocked (s t : State) : State := if s.power.clocksOff then s else t

/-- The value of a dictionary register. -/
def rget (s : State) (r : Reg) : Nat := tget r.dflt s.regs r.key

/-- Write a dictionary register, cut to its width. -/
def rset (s : State) (r : Reg) (v : Nat) : State := { s with regs := tset r.dflt s.regs r.key (v % 2 ^ r.bits) }

/-- Add to a counter of the dictionary. -/
def radd (s : State) (r : Reg) (n : Nat) : State := rset s r (rget s r + n)

/-- Count one event. -/
def rinc (s : State) (r : Reg) : State := radd s r 1

/-- A signed register. -/
def rgetI (s : State) (r : Reg) : Int := signed r.bits (rget s r)

/-- Write a signed register, two's complement. -/
def rsetI (s : State) (r : Reg) (v : Int) : State := rset s r (unsigned r.bits v)

/-! ### Memories -/

/-- One byte of a memory. -/
def Mem.read (m : Mem) (a : Nat) : Byte :=
  match tget? m.cells a with
  | some b => b
  | none => match m.free with
    | none => 0
    | some n => Config.freeByte n a

/-- Write one byte, keeping the canonical form. -/
def Mem.write (m : Mem) (a : Nat) (b : Byte) : Mem :=
  match m.free with
  | none => { m with cells := tset 0 m.cells a b }
  | some _ => { m with cells := tput m.cells a b }

/-- `n` bytes from an address. -/
def Mem.readN (m : Mem) (a : Nat) : Nat → List Byte
  | 0 => []
  | n + 1 => m.read a :: m.readN (a + 1) n

/-- Write bytes from an address upward. -/
def Mem.writeN (m : Mem) (a : Nat) : List Byte → Mem
  | [] => m
  | b :: bs => (m.write a b).writeN (a + 1) bs

/-- Write the bytes whose enable bit is set (bit i of `en` for byte i). -/
def Mem.writeEn (m : Mem) (a en : Nat) : List Byte → Mem
  | [] => m
  | b :: bs => (if en % 2 = 1 then m.write a b else m).writeEn (a + 1) (en / 2) bs

/-- The canonical form of a memory: strictly rising addresses, and no cell equal to the 0 that an unlisted byte reads. -/
def Mem.wf (m : Mem) : Bool := sorted m.cells && (m.free.isSome || m.cells.all (fun c => c.2 != 0))

/-- A word of a memory (R7, R8). -/
def Mem.word (m : Mem) (a : Nat) : Word := Machine.word (leNat (m.readN a 8))

/-- One element of a store. -/
def Store.read (m : Store) (i : Nat) : Nat :=
  match tget? m.cells i with
  | some v => v
  | none => match m.free with
    | none => 0
    | some n => (Config.freeElem n i).toNat % 2 ^ 32

/-- Write one element. -/
def Store.write (m : Store) (i v : Nat) : Store :=
  match m.free with
  | none => { m with cells := tset 0 m.cells i v }
  | some _ => { m with cells := tput m.cells i v }

/-- R141, R151: bytes of HBM on the package. -/
def hbmBytes : Nat := 0x00C000000000

/-- Read `n` bytes of HBM. -/
def hbmRead (s : State) (a n : Nat) : List Byte := s.hbm.mem.readN a n

/-- A word of HBM. -/
def hbmWord (s : State) (a : Nat) : Word := s.hbm.mem.word a

/-- R114, R165: every tile's line buffer loses the lines of a range before the write is acknowledged. -/
def dropLines (s : State) (a n : Nat) : State :=
  { s with phys := s.phys.map (fun p => (p.1, { p.2 with lines := p.2.lines.filter (fun l => !(a / 64 ≤ l.1 && 64 * l.1 < a + n)) })) }

/-- R338: whether a WAIT of condition `cond` on `x` is met by the semaphore value `v`. -/
def waitMet (cond v x : Nat) : Bool :=
  match cond with
  | 0 => x ≤ v
  | 1 => v == x
  | 2 => v != x
  | _ => false

/-- R338: the WAITs in flight whose semaphore a write touches evaluate their condition again. -/
def wakeWaits (s : State) (a n : Nat) : State :=
  let base := rget s Reg.semBase
  { s with queues := { s.queues with queues := s.queues.queues.map (fun q => (q.1, { q.2 with flights := q.2.flights.map (fun f =>
      let w1 := nth f.words 1
      let sem := base + 8 * fld w1 63 52
      let v := (hbmWord s sem).toNat
      if f.result.isNone && fld (nth f.words 0) 63 56 == 7 && sem < a + n && a < sem + 8
          && waitMet (fld w1 51 48) v (nth f.words 2).toNat then
        { f with result := some { value := v } }
      else f) })) } }

/-- R155: whether a range of HBM holds a poisoned line. -/
def poisoned (s : State) (a n : Nat) : Bool :=
  0 < n && s.hbm.poison.any (fun p => a / 64 ≤ p.1 && p.1 ≤ (a + n - 1) / 64)

/-- R155: what a write of bytes at `a` leaves there: the bytes, but in a poisoned line that it does not cover whole what the line holds. -/
def landing (s : State) (a : Nat) (bs : List Byte) : List Byte :=
  if !poisoned s a bs.length then bs
  else bs.zipIdx.map (fun b =>
    let line := (a + b.2) / 64
    if poisoned s (64 * line) 64 && !(a ≤ 64 * line && 64 * line + 64 ≤ a + bs.length) then s.hbm.mem.read (a + b.2) else b.1)

/-- R335: a line of the semaphore table, locked in its slice. -/
def semLine (s : State) (line : Nat) : Bool := rget s Reg.semBase / 64 ≤ line && line < rget s Reg.semBase / 64 + 512

/-- R164, R335: a line is modified in its slice. A set of 16 modified lines writes back one that is not locked. -/
def dirtyLine (locked : Nat → Bool) (t : Tab Nat) (line : Nat) : Tab Nat :=
  if (tget? t line).isSome then t
  else if t.length < 16 then tput t line 1
  else
    let set := (t.filter (fun l => l.1 / 0x30000000 / 4 == line / 0x30000000 / 4 && Config.cacheSet l.1 == Config.cacheSet line)).map (·.1)
    let free := set.filter (fun l => !locked l)
    tput (if set.length < 16 then t else match free[Config.cacheVictim free line % max 1 free.length]? with | some v => tdel t v | none => t) line 1

/-- Write bytes of HBM through the shared cache: the line buffers lose what is written, a poisoned line takes no part of itself and loses its
poison when written whole (R155, R164, R165), and WAITs see it (R338). -/
def hbmWrite (s : State) (a : Nat) (bs : List Byte) : State :=
  let first := (a + 63) / 64
  let last := (a + bs.length) / 64
  let s1 := dropLines s a bs.length
  wakeWaits { s1 with hbm := { s1.hbm with
      mem := s1.hbm.mem.writeN a (landing s a bs)
      poison := s1.hbm.poison.filter (fun p => !(first ≤ p.1 && p.1 < last))
      dirty := (List.range (if bs.isEmpty then 0 else (a + bs.length - 1) / 64 + 1 - a / 64)).foldl (fun t i => dirtyLine (semLine s) t (a / 64 + i)) s1.hbm.dirty } } a bs.length

/-- R335, R336: signalling a semaphore: a 64-bit atomic ADD at its home slice; a poisoned line takes none (R155). -/
def semAdd (s : State) (j v : Nat) : State :=
  let a := rget s Reg.semBase + 8 * j
  if poisoned s a 8 then s else hbmWrite s a (leBytes 8 ((hbmWord s a).toNat + v))

/-! ### Outbox and free values -/

/-- Something leaves the package. -/
def emit (s : State) (o : Out) : State := { s with out := s.out ++ [o] }

/-- A fresh free word (log 3). -/
def draw (s : State) : Word × State := (Config.freeWord s.draws, { s with draws := s.draws + 1 })

/-! ### Where the package stands -/

/-- R176: own chip number as the 12-bit fields carry it. -/
def ownChip (s : State) : Nat := rget s Reg.chipNumberActive % 4096

/-- R176: the package is unassigned. -/
def unassigned (s : State) : Bool := rget s Reg.chipNumberActive == 0xFFFF

/-- SVN and build of the running image: what the part ran at manufacture until another has booted (R523). -/
def runSvn (s : State) : Nat := match s.tenancy.running with | some i => i.svn | none => Config.svn
def runBuild (s : State) : Nat := match s.tenancy.running with | some i => i.build | none => Config.build

/-- R412: the tenancy is SEALED. -/
def sealedMode (s : State) : Bool := s.tenancy.vals.mode == .sealed

/-- R318: state of a slot. -/
def slotState (s : State) (i : Nat) : SlotState := (tget {} s.last.slots i).state

/-- The state of the running slot, EMPTY when no launch is in progress. -/
def runState (s : State) : SlotState :=
  match s.last.run with
  | some r => slotState s r.slot
  | none => .empty

/-- R318: a Last is running. -/
def lastRunning (s : State) : Bool := runState s == .running

/-- A Last is ARMED or RUNNING. -/
def lastArmed (s : State) : Bool := runState s == .armed || runState s == .running

/-- A Last is ARMED, RUNNING, ENDING or FAULTED. -/
def lastBusy (s : State) : Bool := s.last.run.isSome

/-- Schedule beat of the running Last: the beat last issued. -/
def schedBeat (s : State) : Option Nat :=
  match s.last.run with
  | some r => if r.launchAt.isSome && (runState s == .running || runState s == .ending || runState s == .faulted) && 0 < r.sched
      then some (r.sched - 1) else none
  | none => none

/-- Step number as records carry it: 0 outside a Last (R482, R507). -/
def stepNow (s : State) : Nat := if s.last.run.isSome then rget s Reg.stepNumber else 0

/-! ### Trace (R506 to R509) -/

/-- R507: the words of a trace record; STEP is the 32-bit step number (log 80). -/
def traceWords (s : State) (rtype : Nat) (w2 w3 : Word) : List Word :=
  let slot := match s.last.run with
    | some r => r.slot % 16
    | none => 0xF
  [s.clock.beat, word (at' rtype 8 56 + at' (ownChip s) 12 44 + at' slot 4 40 + at' (stepNow s) 32 0), w2, w3]

/-- R509: a record of a type other than FAULT and LOST joins the queue, or is dropped and counted. -/
def traceQueue (s : State) (r : List Word) : State :=
  if s.trace.queue.length < 8192 - 512 then
    { s with trace := { s.trace with queue := s.trace.queue ++ [r] } }
  else
    rinc { s with trace := { s.trace with lostPending := s.trace.lostPending + 1 } } Reg.traceLost

/-- R508: make a record of a type that trace_enable selects. -/
def traceMake (s : State) (rtype : Nat) (w2 w3 : Word) : State :=
  if (rget s Reg.traceEnable).testBit rtype then traceQueue s (traceWords s rtype w2 w3) else s

/-- R508: FABRIC record. -/
def traceFabric (s : State) (event peer eyelet lane seq count : Nat) : State :=
  traceMake s 5 (word (at' event 8 56 + at' peer 12 44 + at' eyelet 5 39 + at' lane 5 34)) (word (at' seq 32 32 + at' count 32 0))

/-- R39, R508: GENERATION record with the extended value of what changed. -/
def traceGeneration (s : State) (what : Nat) (ext : Nat) : State := traceMake s 9 (word (at' what 8 56)) (word ext)

/-! ### The tread log (R510 to R513) -/

/-- R522: size and base of the ring in force. -/
def treadBytes (s : State) : Nat := rget s Reg.treadBytes
def treadBase (s : State) : Nat := rget s Reg.treadBase

/-- R511: bytes of a record: header, payload, padding to 32. -/
def treadImage (r : TreadRec) : List Byte :=
  bytesOf [word r.beat, word (at' r.kind 8 56 + at' r.src 12 44 + at' r.queue 9 35 + at' r.payload.length 32 0),
    (match r.sched with
     | some b => word b
     | none => word (2 ^ 64 - 1)), word r.arg] ++ padTo ((r.payload.length + 31) / 32 * 32) r.payload

/-- R512: a record that cannot be written: counted, and every held snapshot position loses its record. -/
def treadLose (s : State) : State :=
  rinc { s with trace := { s.trace with ok0 := false, ok1 := false } } Reg.treadLost

/-- Put a record at the head of the ring; the oldest records it overwrites go (R512). -/
def treadPut (s : State) (r : TreadRec) : State :=
  let img := treadImage r
  let total := s.trace.treadTotal + img.length
  let size := treadBytes s
  let keep := s.trace.tread.filter (fun q => total ≤ q.pos + size)
  let low := match keep with
    | q :: _ => q.pos
    | [] => r.pos
  let s1 := hbmWrite s (treadBase s + s.trace.treadTotal % size) img
  rset { s1 with trace := { s1.trace with
      tread := keep ++ [r], treadTotal := total
      ok0 := s.trace.ok0 && low ≤ s.faults.treadPos0
      ok1 := s.trace.ok1 && low ≤ s.faults.treadPos1 } } Reg.treadHead (total % size)

/-- R510 to R513: log an input. A PAD record fills the space before the ring's end where the record would wrap (R511); a
frozen log writes nothing and counts the record as lost. -/
def treadLog (s : State) (kind src queue arg : Nat) (payload : List Byte) : State :=
  if s.trace.frozen then treadLose s
  else
    let r : TreadRec := { pos := s.trace.treadTotal, kind := kind, src := src, queue := queue, sched := schedBeat s, beat := s.clock.beat.toNat, arg := arg, payload := payload }
    let len := (treadImage r).length
    let size := treadBytes s
    let at0 := s.trace.treadTotal % size
    if size < len then treadLose s
    else if size < at0 + len then
      let pad : TreadRec := { r with kind := 8, src := ownChip s, queue := 0, arg := 0, payload := zeros (size - at0 - 32) }
      let s1 := treadPut s pad
      treadPut s1 { r with pos := s1.trace.treadTotal }
    else treadPut s r

/-- R513: freeze the log; the span runs from the oldest record to the newest. -/
def treadFreezeOp (s : State) : State :=
  if s.trace.frozen then s
  else
    let low := match s.trace.tread with
      | q :: _ => q.pos
      | [] => s.trace.treadTotal
    rset (rset (rinc { s with trace := { s.trace with frozen := true } } Reg.freezeCount) Reg.treadSpanBytes (s.trace.treadTotal - low)) Reg.treadFreeze 1

/-- R513: an empty, running log. -/
def treadEmpty (s : State) : State :=
  rset (rset (rset { s with trace := { s.trace with tread := [], treadTotal := 0, frozen := false, ok0 := false, ok1 := false } } Reg.treadFreeze 0)
    Reg.treadHead 0) Reg.treadSpanBytes 0

/-! ### Raising an event (R479 to R482, R497, R498) -/

/-- What a rule raises: its code, the unit, the failed chip (none: the own chip), the cause and detail, and whether an
injection of try-on made it (R500). -/
structure Event where
  code : Nat
  unitKind : Nat := 0
  unit : Nat := 0
  failed : Option Nat := none
  cause : Nat := 0
  detail : Nat := 0
  injected : Bool := false
  deriving DecidableEq, Repr

/-- R482: a fault record's four words. -/
def faultWords (r : FaultRec) : List Word :=
  [word (at' r.code 8 56 + at' r.errClass 3 53 + at' r.injected.toNat 1 52 + at' r.held.toNat 1 51 + at' r.unitKind 4 47
      + at' r.unit 15 32 + at' r.epoch 32 0),
   word r.beat,
   word (at' r.observer 12 52 + at' r.failedChip 12 40 + at' r.cause 8 32 + at' r.step 32 0),
   word r.detail]

/-- R276: the witness order of a plan. -/
def witnessOrder (plan : List Byte) : List Nat :=
  let w := wordAt plan 0
  (List.range (fld w 15 0)).map (fun i => leNat ((plan.drop (128 + 8 * fld w 31 16 + 2 * i)).take 2))

/-- R498: rank of an observer of a failed chip in the witness order. -/
def rank (order : List Nat) (failed observer : Nat) : Nat :=
  let n := order.length
  if n = 0 then 0
  else
    let start := if order.contains failed then (order.findIdx (· == failed) + 1) % n
      else (let p := order.findIdx (fun c => failed < c); if p < n then p else 0)
    if !order.contains observer then n
    else (order.findIdx (· == observer) + n - start % n) % n

/-- R458, R498: make a report: the alert bit, and the line to drive. -/
def report (s : State) (code : Nat) : State :=
  match alertBit code with
  | some b => { s with mgmt := { s.mgmt with alerts := s.mgmt.alerts ||| 2 ^ b, lineWanted := s.mgmt.lineWanted || !s.mgmt.stuck } }
  | none => s

/-- R523: the fused map fills the physical tiles other than 8c + 7, c = 0 to 7, in ascending order. -/
def fusedTile (t : Nat) : Nat := if t < 56 then 8 * (t / 7) + t % 7 else t + 8

/-- R472: physical tile of a logical tile. -/
def physTile (s : State) (t : Nat) : Nat := tget (fusedTile t) s.reset'.tileMap t

/-- R505, R481: the physical tile an event is raised against, if it is a tile's. -/
def tileOfUnit (s : State) (e : Event) : Option Nat :=
  match e.unitKind with
  | 1 => some (physTile s e.unit)
  | 2 => some (physTile s (e.unit / 4))
  | 3 => if e.unit < 256 then some (physTile s (e.unit / 4)) else none
  | 7 => if e.unit < 72 then some e.unit else none
  | _ => none

/-- R505: count an error of a class against a physical tile: 0 corrected, 1 mended, 2 step, 3 device. -/
def tileError (s : State) (p cls : Nat) : State := rinc s ((Reg.errorsByClass p).at cls)

/-- R482, R509: keep a fault record: in fault_log, of 256 places, and as a FAULT pair in trace while places last. -/
def keepRecord (s : State) (r : FaultRec) : State :=
  let log := if s.faults.log.length < 256 then s.faults.log else s.faults.log.drop 1
  let s1 := { s with faults := { s.faults with log := log ++ [r] } }
  if s1.trace.queue.length + 2 ≤ 8192 then
    { s1 with trace := { s1.trace with queue := s1.trace.queue ++ [traceWords s1 8 0 0, faultWords r] } }
  else radd { s1 with trace := { s1.trace with lostPending := s1.trace.lostPending + 2 } } Reg.traceLost 2

/-- Raise an event (R482): the record, the count, and the report now, held or withheld (R497, R498). -/
def raise (s : State) (e : Event) : State :=
  let own := ownChip s
  let failed := e.failed.getD own
  let isOwn := failed == own
  let first := !s.faults.reported.contains (e.code, failed)
  let acked := !isOwn && s.faults.acked.contains failed
  let rk := if isOwn then 0 else rank (witnessOrder s.plan.committed) failed own
  let wait := first && !acked && 0 < rk
  let r : FaultRec :=
    { code := e.code, errClass := errClass e.code, injected := e.injected, held := acked || wait
      unitKind := e.unitKind, unit := e.unit, epoch := rget s Reg.faultEpoch, beat := s.clock.beat.toNat
      observer := own, failedChip := failed, cause := e.cause, step := stepNow s, detail := e.detail }
  let s1 := keepRecord s r
  let s2 := if e.injected then s1 else
    let s3 := rinc s1 (Reg.faultCounts.at e.code)
    match tileOfUnit s e, errClass e.code with
    | some p, 1 => tileError s3 p 2
    | some p, 2 => tileError s3 p 3
    | _, _ => s3
  let s4 := if first && !acked then { s2 with faults := { s2.faults with reported := s2.faults.reported ++ [(e.code, failed)] } } else s2
  if first && !acked then
    if wait then
      { s4 with faults := { s4.faults with held := s4.faults.held ++ [⟨e.code, failed, rk, s.clock.beat.toNat⟩] } }
    else report s4 e.code
  else s4

/-- Raise a notice of a local unit. -/
def notice (s : State) (code unitKind unit detail : Nat) : State :=
  raise s { code := code, unitKind := unitKind, unit := unit, detail := detail }

/-! ### Flash (R467) -/

/-- The registers of a part of flash. -/
def FlashPart.holds (p : FlashPart) (key : Nat) : Bool :=
  let index := key / 2 ^ 24
  let sub := key / 2 ^ 16 % 256
  match p with
  | .chip => index == 0x2380 && sub == 1
  | .banks => index == 0x2300 && (sub == 2 || sub == 3)
  | .plan => [Reg.planGeneration, Reg.groupDigest, Reg.podDigest].any (fun r => r.key == key / 2 ^ 16 * 2 ^ 16)
  | _ => false

/-- R467: the pending value of chip_number. -/
def keptPending (s : State) : List (Nat × Nat) := s.mgmt.pendingRwx.filter (fun x => x.1 == Reg.chipNumber.key)

/-- The calibration set as it stands. -/
def calibNow (s : State) : Calib := { tables := s.optics.tables, rings := s.optics.rings, biases := s.power.biases, plateBias := s.power.plateBias }

/-- The registers that flash holds, those of one part as they now are. -/
def flashRegs (old now : Tab Nat) (p : FlashPart) : Tab Nat :=
  (now.filter (fun (r : Nat × Nat) => p.holds r.1)).foldl (fun (t : Tab Nat) (r : Nat × Nat) => tput t r.1 r.2) (old.filter (fun (r : Nat × Nat) => !p.holds r.1))

/-- A part of flash as the package now has it. -/
def flashPut (s : State) (g : Flash) (p : FlashPart) : Flash :=
  let f : Flash := { g with regs := flashRegs g.regs s.regs p }
  match p with
  | .anchors => { f with anchors := s.tenancy.anchors }
  | .chip => { f with pendingChip := keptPending s }
  | .plan => { f with plan := { s.plan with staged := [] } }
  | .banks => { f with active := s.router.active, shadow := s.router.shadow, genExt := s.router.genExt }
  | .tiles => { f with tileMap := s.reset'.tileMap, health := (s.phys.filter (fun (x : Nat × PhysTile) => x.2.health != Health.healthy)).map (fun (x : Nat × PhysTile) => (x.1, x.2.health)) }
  | .marks => { f with marks := s.reset'.marks }
  | .tenancy => { f with ten := s.tenancy.state, vals := s.tenancy.vals, change := s.tenancy.change }
  | .calib => { f with calib := calibNow s }

/-- R467: a commit that reaches flash. -/
def flashStore (s : State) (p : FlashPart) : State :=
  rinc { s with reset' := { s.reset' with flash := flashPut s s.reset'.flash p } } Reg.flashWrites

/-- R467: a commit to flash. One that fails (free, log 3) leaves the earlier value there and is raised. -/
def flashCommit (s : State) (p : FlashPart) : State :=
  let s1 := { s with draws := s.draws + 1 }
  if Config.flashFails s.draws then notice s1 Code.flashFail 0 0 0 else flashStore s1 p

end Sys2Proof.Machine
end

