-- ==== Sys2Proof/Machine/Image.lean ====
section
/-! DEFINITION. The image of a Last as the package reads it from the Last store (R287 to R302, R309), and the scratchpad as handles
reach it (R100 to R105, R141), with the write digest of scheduled writes (R515, R516). -/

namespace Sys2Proof.Machine

/-! ### The Last store and the image header -/

/-- R287: physical base of a slot. -/
def slotBase (s : State) (slot : Nat) : Nat := rget s Reg.lastStoreBase + slot * 0x40000000

/-- A word of the image in a slot, at a byte offset. -/
def imgWord (s : State) (slot off : Nat) : Word := hbmWord s (slotBase s slot + off)

/-- Word `i` of the header. -/
def hdr (s : State) (slot i : Nat) : Word := imgWord s slot (8 * i)

/-- R289: header fields. -/
def nPart (s : State) (slot : Nat) : Nat := fld (hdr s slot 0) 39 31
def nBuckets (s : State) (slot : Nat) : Nat := fld (hdr s slot 0) 30 27
def nShapes (s : State) (slot : Nat) : Nat := fld (hdr s slot 0) 26 25
def generationOf (s : State) (slot : Nat) : Nat := fld (hdr s slot 1) 63 32
def setDigestOf (s : State) (slot : Nat) : Nat := (hdr s slot 2).toNat
def srSeedOf (s : State) (slot : Nat) : Word := hdr s slot 3
def paceSpacing (s : State) (slot : Nat) : Nat := fld (hdr s slot 4) 63 40
def paceFirst (s : State) (slot : Nat) : Nat := fld (hdr s slot 4) 39 16
def paceLag (s : State) (slot : Nat) : Nat := fld (hdr s slot 4) 15 0
def rampBeats (s : State) (slot : Nat) : Nat := fld (hdr s slot 5) 63 48
def staggerMax (s : State) (slot : Nat) : Nat := fld (hdr s slot 5) 47 42
def paceLaceSet (s : State) (slot : Nat) : Nat := fld (hdr s slot 5) 41 36
def fitCycle (s : State) (slot : Nat) : Nat := fld (hdr s slot 5) 35 25

/-- R289, R159: SCHED_SHARE and MAINT_SHARE of a stack. -/
def schedShare (s : State) (slot stack : Nat) : Nat := leNat (hbmRead s (slotBase s slot + 48 + 2 * stack) 1)
def maintShare (s : State) (slot stack : Nat) : Nat := leNat (hbmRead s (slotBase s slot + 49 + 2 * stack) 1)

/-- R289: the participants, ascending. -/
def participants (s : State) (slot : Nat) : List Nat :=
  (List.range (nPart s slot)).map (fun i => leNat (hbmRead s (slotBase s slot + 256 + 2 * i) 2))

/-- R34: the leader. -/
def leaderOf (s : State) (slot : Nat) : Nat := (participants s slot).headD 0

/-- R289: word `i` of a bucket's entry. -/
def bucketWord (s : State) (slot b i : Nat) : Word := imgWord s slot (768 + 32 * b + 8 * i)
def shape0 (s : State) (slot b : Nat) : Nat := fld (bucketWord s slot b 0) 63 40
def shape1 (s : State) (slot b : Nat) : Nat := fld (bucketWord s slot b 0) 39 16
def beatCount (s : State) (slot b : Nat) : Nat := fld (bucketWord s slot b 1) 63 40

/-- R290: a section: byte offset in the image and length. -/
structure Sec where
  off : Nat
  size : Nat
  deriving DecidableEq, Repr

/-- R290: the directory entries of a bucket: (type, tile, section). -/
def directory (s : State) (slot b : Nat) : List (Nat × Nat × Sec) :=
  let w := bucketWord s slot b 2
  (List.range (fld w 31 16)).map (fun i =>
    let d0 := imgWord s slot (fld w 63 32 + 16 * i)
    let d1 := imgWord s slot (fld w 63 32 + 16 * i + 8)
    (fld d0 63 56, fld d0 55 50, ⟨fld d1 63 32, fld d1 31 0⟩))

/-- R290: section types. -/
abbrev secBeats : Nat := 0x01
abbrev secPass : Nat := 0x02
abbrev secFunc : Nat := 0x03
abbrev secStitch : Nat := 0x04
abbrev secTensor : Nat := 0x05
abbrev secPattern : Nat := 0x06
abbrev secHandles : Nat := 0x07
abbrev secPresets : Nat := 0x08
abbrev secWindows : Nat := 0x09
abbrev secPins : Nat := 0x0A
abbrev secLace : Nat := 0x0B
abbrev secRuns : Nat := 0x10
abbrev secLatency : Nat := 0x11
abbrev secMend : Nat := 0x12
abbrev secFit : Nat := 0x13
abbrev secGo : Nat := 0x14

/-- The section of a type (and tile, 0 for a package section). -/
def findSec (s : State) (slot b type tile : Nat) : Option Sec :=
  (((directory s slot b).find? (fun d => d.1 == type && d.2.1 == tile))).map (·.2.2)

/-- A word of a section, by its index; 0 past the section. -/
def secWord (s : State) (slot : Nat) (sec : Option Sec) (i : Nat) : Word :=
  match sec with
  | some x => if 8 * i + 8 ≤ x.size then imgWord s slot (x.off + 8 * i) else 0
  | none => 0

/-- Words of a section. -/
def secWords (sec : Option Sec) : Nat :=
  match sec with
  | some x => x.size / 8
  | none => 0

/-- Entry `i` of a section of entries of `n` words. -/
def secEntry (s : State) (slot : Nat) (sec : Option Sec) (n i : Nat) : List Word :=
  (List.range n).map (fun j => secWord s slot sec (n * i + j))

/-- R119, R290: the tables that a launch installs, of every tile with a BEAT_STREAM: (section type, tile, words). -/
def tablesOf (s : State) (slot b : Nat) : List (Nat × Nat × List Word) :=
  let types := [secPass, secFunc, secStitch, secTensor, secPattern, secWindows, secLace]
  (directory s slot b).filterMap (fun d =>
    if types.contains d.1 && (findSec s slot b secBeats d.2.1).isSome then
      some (d.1, d.2.1, (List.range (d.2.2.size / 8)).map (fun i => secWord s slot (some d.2.2) i))
    else none)

/-- Entry `i` of a table of the running Last: section type, tile, words an entry. -/
def runEntry (r : Run) (type tile n i : Nat) : List Word :=
  match r.tables.find? (fun x => x.1 == type && x.2.1 == tile) with
  | some x => (List.range n).map (fun j => nth x.2.2 (n * i + j))
  | none => List.replicate n 0

/-- R295: a lane run. -/
structure LaneRun where
  dir : Nat
  eyelet : Nat
  lane : Nat
  pos : Nat
  beat : Nat
  count : Nat
  w1 : Word
  deriving DecidableEq, Repr

/-- R295: decode a lane run. -/
def laneRun (w0 w1 : Word) : LaneRun :=
  ⟨fld w0 63 62, fld w0 61 57, fld w0 56 52, fld w0 51 50, fld w0 49 26, fld w0 25 10, w1⟩

/-- Block index of the run's first block within a step. -/
def LaneRun.first (x : LaneRun) : Nat := 4 * x.beat + x.pos

/-- R295: the lane runs of a bucket. -/
def laneRuns (s : State) (slot b : Nat) : List LaneRun :=
  let sec := findSec s slot b secRuns 0
  (List.range (secWords sec / 2)).map (fun i => laneRun (secWord s slot sec (2 * i)) (secWord s slot sec (2 * i + 1)))

/-- R300: the latency a Last assumes for a logical eyelet and lane. -/
def laneLatency (s : State) (slot b ell k : Nat) : Nat :=
  match findSec s slot b secLatency 0 with
  | some x => if 32 * ell + k < x.size then leNat (hbmRead s (slotBase s slot + x.off + 32 * ell + k) 1) else 0
  | none => 0

/-- R301: whether block n of schedule beat t is a mend slot on logical eyelet ℓ under the Last's map. -/
def mendSlotMap (s : State) (slot b ell t n : Nat) : Bool :=
  let sec := findSec s slot b secMend 0
  let period := fld (secWord s slot sec (5 * ell)) 63 56
  let i := 4 * (t % period) + n
  period != 0 && bit (secWord s slot sec (5 * ell + 1 + i / 64)) (i % 64)

/-- R302: a fitting window: (eyelet, lane, beat, phase). -/
def fitWindows (s : State) (slot b : Nat) : List (Nat × Nat × Nat × Nat) :=
  let sec := findSec s slot b secFit 0
  (List.range (secWords sec)).map (fun i =>
    let w := secWord s slot sec i
    (fld w 63 59, fld w 58 54, fld w 53 30, fld w 29 20))

/-- R309: the GO path of a bucket: word 0, then the relays as (eyelet, lane). -/
def goPath (s : State) (slot b : Nat) : Word := secWord s slot (findSec s slot b secGo 0) 0
def goRelays (s : State) (slot b : Nat) : List (Nat × Nat) :=
  let sec := findSec s slot b secGo 0
  (List.range (fld (goPath s slot b) 37 32)).map (fun i =>
    let u := fld (secWord s slot sec (1 + i / 4)) (16 * (i % 4) + 15) (16 * (i % 4))
    (bits u 9 5, bits u 4 0))

/-! ### Eyelets and lanes -/

/-- R281: logical eyelet that a physical eyelet serves. -/
def logicalEyelet (s : State) (e : Nat) : Nat := tget e s.plan.map e

/-- R281: physical eyelet that serves a logical one; 32, which has no lanes, where none does. -/
def physEyelet (s : State) (ell : Nat) : Nat := ((List.range 32).find? (fun e => logicalEyelet s e == ell)).getD 32

/-- A lane of a physical eyelet, by its key 32e + k. -/
def laneKey (e k : Nat) : Nat := 32 * e + k
def lane (s : State) (e k : Nat) : Lane := tget {} s.lanes (laneKey e k)

/-- R258: the reverse lane of a lane of an eyelet. -/
def reverseLane (e k : Nat) : Nat := if e < 24 then (32 - k) % 32 else k

/-- Change a lane. -/
def setLane (s : State) (e k : Nat) (f : Lane → Lane) : State := { s with lanes := tmod {} s.lanes (laneKey e k) f }

/-! ### Handles and scratchpad -/

/-- A logical tile's tables. -/
def ltile (s : State) (t : Nat) : LogTile := tget {} s.tiles t
def setLtile (s : State) (t : Nat) (f : LogTile → LogTile) : State := { s with tiles := tmod {} s.tiles t f }

/-- A physical tile. -/
def ptile (s : State) (p : Nat) : PhysTile := tget {} s.phys p
def setPtile (s : State) (p : Nat) (f : PhysTile → PhysTile) : State := { s with phys := tmod {} s.phys p f }

/-- R103: a handle's entry, and its fields. -/
def handleOf (s : State) (t h : Nat) : Word := tget 0 (ltile s t).handles h
def hValid (w : Word) : Bool := bit w 63
def hResident (w : Word) : Bool := bit w 62
def hWindowed (w : Word) : Bool := bit w 61
def hScratch (w : Word) : Bool := bit w 60
def hSwizzle (w : Word) : Nat := fld w 59 56
def hExpect (w : Word) : Bool := bit w 55
def hSize (w : Word) : Nat := fld w 51 32
def hBase (w : Word) : Nat := fld w 18 0

/-- R105: scratchpad byte address of a byte offset of a handle's buffer. -/
def resolve (w : Word) (off : Nat) : Nat :=
  let g := off / 64
  let g := if hSwizzle w = 0 then g else g - g % 64 + (g % 64 ^^^ bits g (hSwizzle w + 5) (hSwizzle w))
  (hBase w + g) * 64 + off % 64

/-- R486: mark the handles that cover a scratchpad byte dirty for both snapshot slots. -/
def markDirty (s : State) (t a : Nat) : State :=
  let hs := (ltile s t).handles.filter (fun h => hValid h.2 && hBase h.2 ≤ a / 64 && a / 64 < hBase h.2 + hSize h.2)
  setLtile s t (fun l => { l with dirty := hs.foldl (fun d h => tset 0 d h.1 3) l.dirty })

/-- Read a byte of a logical tile's scratchpad (R100). -/
def scratchByte (s : State) (t a : Nat) : Byte := (ptile s (physTile s t)).scratch.read (a % 0x2000000)

/-- Read bytes of a logical tile's scratchpad. -/
def scratchRead (s : State) (t a n : Nat) : List Byte := (List.range n).map (fun i => scratchByte s t (a + i))

/-- R359: activity of a physical tile in the sample interval now, by kind and format (log 36). -/
def activityAdd (s : State) (p kind fmt n : Nat) : State :=
  { s with power := { s.power with activity := tmod 0 s.power.activity (128 * p + 16 * kind + fmt) (· + n) } }

/-- Write bytes of one granule of a logical tile's scratchpad: one bank access. -/
def scratchWrite (s : State) (t a : Nat) (bs : List Byte) : State :=
  if bs.isEmpty then s
  else
    let p := physTile s t
    activityAdd (markDirty (setPtile s p (fun x => { x with scratch := x.scratch.writeN (a % 0x2000000) bs })) t (a % 0x2000000)) p 3 0 1

/-- Read `n` bytes through a handle from a byte offset. -/
def handleRead (s : State) (t : Nat) (w : Word) (off n : Nat) : List Byte :=
  (List.range n).map (fun i => scratchByte s t (resolve w (off + i)))

/-- Pieces of a byte string cut at granule boundaries of its offset: (offset, bytes). -/
def granules : Nat → Nat → List Byte → List (Nat × List Byte)
  | 0, _, _ => []
  | fuel + 1, off, bs =>
    if bs.isEmpty then []
    else
      let n := 64 - off % 64
      (off, bs.take n) :: granules fuel (off + n) (bs.drop n)

/-! ### Write digests (R515, R516) -/

/-- R516: the key of the digests: 0 in OPEN mode; in SEALED mode derived from the EXPORT slot, none without one. -/
def digestKey (s : State) : Option Word :=
  if !sealedMode s then some 0
  else match s.tenancy.keys.find? (fun k => k.2.state == .loaded && k.2.purpose == 2) with
    | some k => some (wordAt (hkdf384 k.2.key [] (ascii "aev-digest") 8) 0)
    | none => none

/-- R516: hash of one granule write. -/
def granuleHash (key : Word) (stepExt stepBeat target : Nat) (g : List Word) : Word :=
  g.foldl (fun z w => mix64 (z ^^^ w)) (mix64 (mix64 (key ^^^ word (stepExt * 2 ^ 24 + stepBeat)) ^^^ word target))

/-- R515: add a scheduled write of a granule to its tile's digest, attributed to schedule beat `b`. -/
def digestAdd (s : State) (t b target : Nat) (g : List Byte) : State :=
  match s.last.run with
  | none => s
  | some r =>
    let bc := max 1 (beatCount s r.slot r.bucket)
    let ext := rget s Reg.stepNumberExt + b / bc - (r.stepIdx - 1)
    let h := granuleHash ((digestKey s).getD 0) ext (b % bc) target (wordsOf g 8)
    setLtile s t (fun l => { l with digest := tput l.digest b ((tget 0 l.digest b + h.toNat) % 2 ^ 64) })

/-- R516: target of a scratchpad granule and of an HBM granule. -/
def scratchTarget (t a : Nat) : Nat := 2 ^ 63 + t * 2 ^ 25 + a / 64 * 64
def hbmTarget (a : Nat) : Nat := a / 64 * 64

/-- The schedule beat a scheduled write belongs to when it has no other attribution (R515): the beat of the write. -/
def nowSched (s : State) : Nat := (schedBeat s).getD 0

/-- Beats of a step of the launch in progress. -/
def stepBeats (s : State) : Nat :=
  match s.last.run with
  | some r => beatCount s r.slot r.bucket
  | none => 0

/-- A scheduled write of bytes of one granule, attributed to beat `b`. -/
def schedWrite (s : State) (t b a : Nat) (bs : List Byte) : State :=
  if bs.isEmpty then s
  else
    let s1 := scratchWrite s t a bs
    digestAdd s1 t b (scratchTarget t a) (scratchRead s1 t (a / 64 * 64) 64)

/-- Tile cycle of cycle 0 of the beat now: 56 tile cycles a beat (R24, R33). -/
def cycleNow (s : State) : Nat := 56 * s.clock.beat.toNat

/-- Schedule beat of a tile cycle: the beats between now and the cycle counted as schedule beats (log 14). -/
def schedAt (s : State) (c : Nat) : Nat := nowSched s + c / 56 - s.clock.beat.toNat

/-- A scheduled write of a row through a handle in tile cycle `c`, granule by granule (R101 ranks 1 to 3, R515);
a handle that is no longer VALID takes no write (R106, log 14). -/
def schedWriteHandle (s : State) (t : Nat) (w : Word) (off c : Nat) (bs : List Byte) : State :=
  if !hValid w then s
  else (granules (bs.length + 1) off bs).foldl (fun s p => schedWrite s t (schedAt s c) (resolve w p.1) p.2) s

/-- R504: count one conversion event: 0 saturation, 1 non-finite made finite, 2 scale 0xFF. -/
def convCount (s : State) (t kind n : Nat) : State := radd s ((Reg.conversionEvents t).at kind) n

/-- R504, R98: count an operation of a type (0 pass, 1 row, 2 vector, 3 copy, 4 fabric send, 5 lace) and format. -/
def opCount (s : State) (t type fmt n : Nat) : State := radd s ((Reg.opsByFormat t).at (16 * type + fmt)) n

end Sys2Proof.Machine
end

