-- ==== Sys2Proof/Machine/Packets.lean ====
section
/-! DEFINITION. Packets (R196 to R198): the header's fields, building and injecting packets (R182, R206), completion of a queue
command's meaning, slots of the Last and STEP_FAULT, the one operation by which a job stops (R318, R483, R484, R491). -/

namespace Sys2Proof

open Machine

/-! ### The header flit (R197) -/

def Packet.w (p : Packet) (i : Nat) : Word := nth p.hdr i
def Packet.dst (p : Packet) : Nat := fld (p.w 0) 63 52
def Packet.src (p : Packet) : Nat := fld (p.w 0) 51 40
def Packet.vc (p : Packet) : Nat := fld (p.w 0) 39 38
def Packet.cls (p : Packet) : Nat := fld (p.w 0) 37 37
def Packet.priv (p : Packet) : Bool := bit (p.w 0) 36
def Packet.sync (p : Packet) : Bool := bit (p.w 0) 35
def Packet.hops (p : Packet) : Nat := fld (p.w 0) 34 31
def Packet.len (p : Packet) : Nat := fld (p.w 0) 30 24
def Packet.kind (p : Packet) : Nat := fld (p.w 0) 23 20
def Packet.mprio (p : Packet) : Nat := fld (p.w 0) 19 18
def Packet.atomicOp (p : Packet) : Nat := fld (p.w 0) 17 14
def Packet.wide (p : Packet) : Nat := fld (p.w 0) 13 13
def Packet.fmt (p : Packet) : Nat := fld (p.w 0) 12 9
def Packet.seq (p : Packet) : Nat := fld (p.w 1) 63 32
def Packet.tag (p : Packet) : Nat := fld (p.w 1) 31 16
def Packet.pathKey (p : Packet) : Nat := fld (p.w 1) 15 8
def Packet.offset (p : Packet) : Nat := fld (p.w 2) 51 0
def Packet.karg (p : Packet) : Word := p.w 3
def Packet.rlen (p : Packet) : Nat := fld (p.w 3) 6 0
def Packet.arg0 (p : Packet) : Word := p.w 4
def Packet.arg1 (p : Packet) : Word := p.w 5
def Packet.arg2 (p : Packet) : Word := p.w 6

/-- Word `i` of the payload. -/
def Packet.pay (p : Packet) (i : Nat) : Word := wordAt p.payload i

/-- R198: packet kinds. -/
abbrev Machine.kWrite : Nat := 0
abbrev Machine.kRead : Nat := 1
abbrev Machine.kAtomic : Nat := 2
abbrev Machine.kAccStore : Nat := 3
abbrev Machine.kResponse : Nat := 4
abbrev Machine.kLace : Nat := 5
abbrev Machine.kControl : Nat := 6

/-- R198: the virtual channel of a kind. -/
def Machine.kindVc (k : Nat) : Nat := if k ≤ 3 then 0 else if k = 4 then 1 else if k = 5 then 2 else 3

/-- R196: flits of a packet: its header and at most 64 more; and whether all have come. -/
def Packet.flits (p : Packet) : Nat := 1 + min 64 p.len
def Packet.whole (p : Packet) : Bool := 64 * min 64 p.len ≤ p.payload.length

/-- R198: whether a packet is a request. -/
def Packet.isRequest (p : Packet) : Bool := p.kind ≤ 3

/-- R197, R198: KIND, its virtual channel, its LEN rule, the RSV fields of the header, and the operand fields that the kind does not use
(log 64). -/
def Packet.wellFormed (p : Packet) : Bool :=
  let k := p.kind
  let zero (ws : List Word) : Bool := ws.all (· == 0)
  k ≤ 6 && p.vc == kindVc k && fld (p.w 0) 8 0 == 0 && fld (p.w 1) 7 0 == 0 && fld (p.w 2) 63 52 == 0 && p.w 7 == 0 &&
  p.payload.length == 64 * p.len && p.len ≤ 64 &&
  (match k with
   | 0 => 1 ≤ p.len && p.atomicOp == 0 && p.wide == 0 && p.fmt == 0 && zero [p.w 3, p.w 4, p.w 5, p.w 6]
   | 1 => p.len == 0 && 1 ≤ p.rlen && p.rlen ≤ 64 && fld (p.w 3) 63 7 == 0 && p.atomicOp == 0 && p.wide == 0 && p.fmt == 0 && zero [p.w 4, p.w 5, p.w 6]
   | 2 => p.len == 0 && p.fmt == 0 && zero [p.w 3, p.w 6]
   | 3 => p.len == 1 && p.atomicOp == 0 && p.wide == 0 && zero [p.w 4, p.w 5, p.w 6]
   | 4 => p.atomicOp == 0 && p.wide == 0 && p.fmt == 0 && p.w 2 == 0 && p.w 3 == 0
   | _ => p.atomicOp == 0 && p.wide == 0 && p.fmt == 0 && zero [p.w 3, p.w 4, p.w 5, p.w 6])

/-- Set SEQ, TAG, PATH_KEY and SYNC of a packet. -/
def Packet.stamp (p : Packet) (seq tag path : Nat) (sync : Bool) : Packet :=
  match p.hdr with
  | w0 :: _ :: ws => { p with hdr := word (w0.toNat % 2 ^ 64 + (if sync && !bit w0 35 then 2 ^ 35 else 0)) :: word (at' seq 32 32 + at' tag 16 16 + at' path 8 8) :: ws }
  | _ => p

end Sys2Proof

namespace Sys2Proof.Machine

/-- Header of a packet from this package (R197): CLASS and HOPS are 0 at injection (R213). -/
def mkHeader (s : State) (dst kind len : Nat) (priv : Bool) (mprio aop wide fmt off : Nat) (karg arg0 arg1 : Word) : List Word :=
  [word (at' dst 12 52 + at' (ownChip s) 12 40 + at' (kindVc kind) 2 38 + at' priv.toNat 1 36 + at' len 7 24 + at' kind 4 20
     + at' mprio 2 18 + at' aop 4 14 + at' wide 1 13 + at' fmt 4 9), 0, word (at' off 52 0), karg, arg0, arg1, 0, 0]

/-- R195: the local port of a slice. -/
def localPort (slice : Nat) : Nat := 1025 + slice % 4

/-- A packet's head joins the local input of a slice of the router (R195, R203). -/
def inject (s : State) (slice : Nat) (p : Packet) : State :=
  { s with router := { s.router with waiting := s.router.waiting ++ [{ port := localPort slice, pkt := p }] } }

/-- R206: a packet that is no request goes with the package-wide counter as its path key, by the slice of the die that sends it; an unassigned
package sends nothing (R176). -/
def sendOther (s : State) (slice : Nat) (p : Packet) (seq tag : Nat) : State :=
  if unassigned s then s
  else
    let s1 := { s with fabric := { s.fabric with pathCtr := (s.fabric.pathCtr + 1) % 256 } }
    inject s1 slice (p.stamp seq tag (s.fabric.pathCtr % 256) false)

/-- R308, R484: a CONTROL packet of LEN 1 on the management virtual channel, from I/O die 0 (log 71). -/
def sendControl (s : State) (dst : Nat) (payload : List Word) : State :=
  sendOther s 0 { hdr := mkHeader s dst kControl 1 false 0 0 0 0 0 0 0 0, payload := padTo 64 (bytesOf payload) } 0 0

/-- R182: a request joins what waits for one destination. -/
def queueRequest (s : State) (dst : Nat) (p : Packet) (o : Origin) : State :=
  { s with fabric := { s.fabric with out := tmod {} s.fabric.out dst (fun d => { d with unsent := d.unsent ++ [⟨p, o⟩] }) } }

/-! ### Results of queue commands -/

/-- Give a command in flight its result, once; COMMAND_COMPLETE writes the record (R334). -/
def setResult (s : State) (o : Option (Nat × Nat)) (r : Result) : State :=
  match o with
  | none => s
  | some (q, id) =>
    { s with queues := { s.queues with queues := tmod {} s.queues.queues q (fun x =>
        { x with flights := x.flights.map (fun f => if f.id = id ∧ f.result.isNone then { f with result := some r } else f) }) } }

/-! ### Slots (R318) -/

/-- R318: code of a slot state. -/
def SlotState.code (x : SlotState) : Nat :=
  match x with
  | .empty => 0 | .loading => 1 | .loaded => 2 | .armed => 3 | .running => 4 | .ending => 5 | .faulted => 6

/-- R508: a LAST record of a slot's state. -/
def traceLast (s : State) (slot : Nat) (st : SlotState) : State :=
  match s.last.run with
  | some r => if r.slot = slot then
      traceMake s 2 (word (at' st.code 4 60 + at' r.bucket 3 57 + at' r.s0 24 24 + at' r.s1 24 0)) (word (at' (generationOf s slot) 32 32 + at' r.firstStep 32 0))
    else traceMake s 2 (word (at' st.code 4 60)) (word (at' (tget {} s.last.slots slot).gen 32 32))
  | none => traceMake s 2 (word (at' st.code 4 60)) (word (at' (tget {} s.last.slots slot).gen 32 32))

/-- Put a slot into a state. -/
def setSlot (s : State) (slot : Nat) (st : SlotState) : State :=
  let s1 := { s with last := { s.last with slots := tmod {} s.last.slots slot (fun x => { x with state := st }) } }
  traceLast s1 slot st

/-- Change the launch in progress. -/
def setRun (s : State) (f : Run → Run) : State := { s with last := { s.last with run := s.last.run.map f } }

/-! ### The end of a Last (R106, R110, R145, R318) -/

/-- R110: every window of every tile closes. -/
def closeWindows (s : State) : State :=
  { s with tiles := s.tiles.map (fun t => (t.1, { t.2 with windows := t.2.windows.map (fun w => (w.1, w.2 &&& ~~~((1 : Word) <<< 63))) })) }

/-- R106: every handle with RESIDENT = 0 is cleared. -/
def clearHandles (s : State) : State :=
  { s with tiles := s.tiles.map (fun t => (t.1, { t.2 with handles := t.2.handles.filter (fun h => hResident h.2) })) }

/-- R145: pins are released; the entries become ordinary ones. -/
def releasePins (s : State) : State :=
  { s with stitch := { s.stitch with tlbs := s.stitch.tlbs.map (fun t => (t.1, t.2.map (fun x => { x with pinned := false }))) } }

/-- The cleanup of ENDING. -/
def endCleanup (s : State) : State := releasePins (clearHandles (closeWindows s))

/-- R140: the copies on scheduled contexts are abandoned, and what they had placed for lanes goes with them. -/
def dropScheduled (s : State) : State :=
  { s with
    stitch := { s.stitch with ctxs := s.stitch.ctxs.filter (fun c => !(c.1 < 512 && c.1 % 2 == 0)) }
    lanes := s.lanes.map (fun l => (l.1, { l.2 with txBuf := [], sent := l.2.sent.map (fun b => { b with ctx := none }) })) }

/-! ### STEP_FAULT (R318, R482, R483, R484, R491) -/

/-- R486: status of a local snapshot slot: complete, and its step. -/
def snapComplete (s : State) (i : Nat) : Bool := (rget s (Reg.snapshotStatus.at i)).testBit 63
def snapStep (s : State) (i : Nat) : Nat := rget s (Reg.snapshotStatus.at i) % 2 ^ 32

/-- R512: a slot that a FAULT may offer: complete, with no record at or after its tread position lost. -/
def snapValid (s : State) (i : Nat) : Bool := snapComplete s i && (if i = 0 then s.trace.ok0 else s.trace.ok1)

/-- R484: the payload flit of FAULT and ROLLBACK. -/
def faultPayload (s : State) (r : Run) (kind cause failed faultStep a b : Nat) (aValid bValid abandon : Bool) (faultBeat : Nat) : List Word :=
  [word (at' kind 8 56 + at' r.slot 4 52 + at' cause 8 44 + at' failed 12 32 + at' (rget s Reg.faultEpoch) 32 0),
   word (at' (generationOf s r.slot) 32 32 + at' faultStep 32 0),
   word (setDigestOf s r.slot),
   word (at' a 32 32 + at' b 32 0),
   word (at' aValid.toNat 1 63 + at' bValid.toNat 1 62 + at' abandon.toNat 1 61),
   word faultBeat, 0, 0]

/-- R483: the FAULT packets to every other participant. -/
def sendFaults (s : State) (r : Run) (cause failed faultBeat : Nat) : State :=
  ((participants s r.slot).filter (· != ownChip s)).foldl (fun s c =>
    sendControl s c (faultPayload s r 4 cause failed (rget s Reg.stepNumber) (snapStep s 0) (snapStep s 1)
      (snapValid s 0) (snapValid s 1) false faultBeat)) s

/-- R491: whether a STEP_FAULT changes state: only from NONE and REPLAYING. -/
def faultable (s : State) : Bool := s.faults.rollback == .none || s.faults.rollback == .replaying

/-- R318: what follows a STEP_FAULT at the end of its beat: windows close, the copies on scheduled contexts are abandoned, handles
are cleared and pins released. -/
def faultCleanup (s : State) : State :=
  match s.last.run with
  | some r => if r.cleanupDue then setRun (endCleanup (dropScheduled s)) (fun x => { x with cleanupDue := false, issuing := false }) else s
  | none => s

/-- STEP_FAULT: the record (R482); then, unless a rollback already holds the package (R491), the slot is FAULTED, issue stops at the
end of the beat and the cleanup follows then (`faultCleanup`), every other participant gets a FAULT packet (R483) and rollback_state
is FAULTED. With no launch in progress only the record is made (DEDUCED, log 12). R500: the fault that holds the package is injected as long as every
STEP_FAULT since is. -/
def stepFault (s : State) (cause unitKind unit : Nat) (failed : Option Nat) (detail : Nat) (injected : Bool) : State :=
  let s1 := raise s { code := Code.stepFault, unitKind := unitKind, unit := unit, failed := failed, cause := cause, detail := detail, injected := injected }
  let s1 := if (rget s Reg.treadAutofreeze).testBit 1 then treadFreezeOp s1 else s1
  match s.last.run with
  | none => s1
  | some r =>
    if !faultable s then { s1 with faults := { s1.faults with injectedFault := s1.faults.injectedFault && injected } }
    else
      let fb := (schedBeat s).getD 0
      let me : PeerFault :=
        { chip := ownChip s
          stepA := if snapValid s 0 then some (snapStep s 0) else none
          stepB := if snapValid s 1 then some (snapStep s 1) else none
          faultStep := rget s Reg.stepNumber
          faultBeat := fb }
      let s2 := sendFaults s1 r cause (failed.getD (ownChip s)) fb
      let s3 := setRun s2 (fun x => { x with cleanupDue := true })
      let s4 := setSlot s3 r.slot .faulted
      { s4 with faults := { s4.faults with rollback := .faulted, peers := [me], injectedFault := injected } }

/-- STEP_FAULT if a Last is running. -/
def stepFaultIfRunning (s : State) (cause unitKind unit : Nat) (detail : Nat) : State :=
  if lastRunning s then stepFault s cause unitKind unit none detail false else s

/-- A fault a logical tile's work makes: STEP_FAULT naming the tile. -/
def tileFault (s : State) (t cause detail : Nat) : State := stepFault s cause 1 t none detail false

/-! ### Try-on (R499, R500) -/

/-- R499, R500: a fired injection of a kind on a unit has been recovered: counted, and no longer in force. -/
def injectionDone (s : State) (kind unit : Nat) : State :=
  match s.faults.injects.find? (fun i => i.kind == kind && i.unit == unit && i.fired) with
  | some i => rinc { s with faults := { s.faults with injects := s.faults.injects.erase i } } (Reg.tryonCounts.at (3 * (kind - 1) + 1))
  | none => s

/-- R500: whether an injection of a kind on a unit is in force. -/
def injectionOn (s : State) (kind unit : Nat) : Bool := s.faults.injects.any (fun i => i.kind == kind && i.unit == unit && i.fired)

/-- R499: injected FENCE_TILEs are recovered once the tile has passed its self-test and no rollback runs. -/
def fenceInjectionDone (s : State) : State :=
  if s.faults.rollback ≠ .none ∨ s.pkg.testing.isSome = true then s
  else s.faults.injects.foldl (fun s i => if i.kind = 4 ∧ i.fired = true ∧ (tget {} s.phys i.unit).health = .healthy then injectionDone s 4 i.unit else s) s

/-- R499: what a rollback's end recovers: injected STEP_FAULTs at NONE or ARMED_REPLAY, FENCE_TILEs at NONE. -/
def rollbackInjectionDone (s : State) : State := fenceInjectionDone (injectionDone s 5 0)

end Sys2Proof.Machine
end

