-- ==== Sys2Proof/Machine/Sequence.lean ====
section
/-! DEFINITION. The tile sequencers (R291 to R293, R312): which beat records are due in the schedule beat now, and issuing one. -/

namespace Sys2Proof.Machine

/-- Insert by a key, after equal keys. -/
def insertKey {α : Type} (x : Nat × α) : List (Nat × α) → List (Nat × α)
  | [] => [x]
  | y :: ys => if x.1 < y.1 then x :: y :: ys else y :: insertKey x ys

def sortKeys {α : Type} (xs : List (Nat × α)) : List (Nat × α) := xs.foldl (fun ys x => insertKey x ys) []

/-- R291: the records of a tile's stream with the step beat each issues in, as (index, beat, word). -/
def streamFrom (s : State) (slot : Nat) (sec : Option Sec) : Nat → Nat → Nat → List (Nat × Nat × Word)
  | 0, _, _ => []
  | n + 1, i, b =>
    let w := secWord s slot sec i
    let b' := b + fld w 55 48
    (i, b', w) :: streamFrom s slot sec n (i + 1) b'

def stream (s : State) (slot b t : Nat) : List (Nat × Nat × Word) :=
  let sec := findSec s slot b secBeats t
  streamFrom s slot sec (secWords sec) 0 0

/-- R312: the step beat in which a record authored at step beat `b` issues under stagger σ. -/
def staggered (s : State) (r : Run) (b : Nat) : Nat :=
  if b < rampBeats s r.slot - staggerMax s r.slot then b + r.stagger else b

/-- Step beat of the schedule beat now. -/
def stepBeat (s : State) (r : Run) : Nat := (r.sched - 1) % max 1 (beatCount s r.slot r.bucket)

/-- The records of a tile due now, as (index, word). -/
def dueRecords (s : State) (r : Run) (t : Nat) : List (Nat × Word) :=
  (((stream s r.slot r.bucket t).filter (fun x => staggered s r x.2.1 == stepBeat s r))).map (fun x => (x.1, x.2.2))

/-- R96, R118, R293: rank of a record among those of one beat; an IDLE record waits for none and holds none up. -/
def issueRank (isVec : Nat → Bool) (w : Word) : Nat :=
  match fld w 63 56 with
  | 0 => 0
  | 1 => 3 + fld w 47 46
  | 2 => if isVec (fld w 47 38) then 2 else 1
  | 3 => 7 + fld w 47 46
  | op => 7 + op

/-- UNIT of a function-table entry of a tile. -/
def entryIsVec (r : Run) (t entry : Nat) : Bool := bit (nth (runEntry r secFunc t 4 entry) 0) 55

/-- The records of a tile due now and not yet issued in this beat. -/
def unissued (s : State) (r : Run) (t : Nat) : List (Nat × Word) := (dueRecords s r t).filter (fun x => !r.issued.contains (t, x.1))

/-- R96, R118, R293: a record of lower rank that is due and not issued holds up a record. -/
def heldUp (s : State) (r : Run) (t : Nat) (w : Word) : Bool :=
  (unissued s r t).any (fun x => fld x.2 63 56 != 0 && decide (issueRank (entryIsVec r t) x.2 < issueRank (entryIsVec r t) w))

/-- A PASS, FUNC or COPY record of a tile is due and not issued in the beat now. -/
def unitRecordsLeft (s : State) (t : Nat) : Bool :=
  match s.last.run with
  | some r => r.issuing && (unissued s r t).any (fun x => 1 ≤ fld x.2 63 56 && fld x.2 63 56 ≤ 3)
  | none => false

/-- R291 to R293: issue a record of opcode `op` and operands `args` (bits 47:0) of a tile: the first such record due and not yet
issued in this beat. Nothing happens when none is due, or while a record that issues before it in the beat has not issued (log 9). -/
def issue (s : State) (t op args : Nat) (act : State → Run → Nat → State) : State :=
  match s.last.run with
  | none => s
  | some r =>
    if !r.issuing then s
    else
      match (unissued s r t).find? (fun x => fld x.2 63 56 == op && fld x.2 47 0 == args) with
      | none => s
      | some x => if heldUp s r t x.2 then s else act (setRun s (fun y => { y with issued := y.issued ++ [(t, x.1)] })) r x.1

/-- IDLE (R292): an IDLE record issues nothing. -/
def execIdle (tile : Nat) (s : State) : Host.Outcome State Fault Refusal :=
  .next (issue s tile 0 0 (fun s _ _ => s))

/-- R110, R109: load a window entry into a slot, or close it. -/
def setWindow (s : State) (t slot : Nat) (w : Word) : State :=
  setLtile s t (fun l => { l with windows := tset 0 l.windows slot w })

/-- WINDOW (R110, R292): ACTION 1 loads window-image entry IMAGE into SLOT and opens it; ACTION 0 closes SLOT. -/
def execWindow (tile slot action image : Nat) (s : State) : Host.Outcome State Fault Refusal :=
  .next (issue s tile 4 (at' slot 4 44 + at' action 1 43 + at' image 8 35) (fun s r _ =>
    if action = 1 then setWindow s tile slot (nth (runEntry r secWindows tile 1 image) 0 ||| (1 : Word) <<< 63)
    else setWindow s tile slot (tget 0 (ltile s tile).windows slot &&& ~~~((1 : Word) <<< 63))))

end Sys2Proof.Machine
end

