-- ==== Sys2Proof/Machine/Array.lean ====
section
/-! DEFINITION. The matrix arrays (R70 to R83): operand staging, the pass descriptor, block sums, and issuing a pass. What a pass does in
later cycles is Units.lean's. -/

namespace Sys2Proof.Machine

/-! ### Storage and staging (R71, R77, R78) -/

/-- Array `a` of a physical tile. -/
def arrayOf (s : State) (p a : Nat) : ArrayState := tget {} (ptile s p).arrays a

/-- Change one array of a physical tile. -/
def setArray (s : State) (p a : Nat) (f : ArrayState → ArrayState) : State :=
  setPtile s p (fun x => { x with arrays := tmod {} x.arrays a f })

/-- R71: the areas of an array's storage. -/
abbrev areaA (i : Nat) : Nat := 2 * i
abbrev areaB (i : Nat) : Nat := 4 + 2 * i
abbrev areaSet (i : Nat) : Nat := 8 + 2 * i

/-- The key that names the rescale vector in staging. -/
abbrev areaRescale : Nat := 12

/-- Bytes of an area: 64 KiB of data, 1 KiB of scales (R71). -/
def areaSize (area : Nat) : Nat := if area % 2 = 0 then 65536 else 1024

/-- `n` bytes of an area from an offset. -/
def areaBytes (x : ArrayState) (area off n : Nat) : List Byte :=
  (List.range n).map (fun i => BitVec.ofNat 8 (x.bytes.read (area * 65536 + off + i)))

/-- Write bytes of an area from an offset. -/
def ArrayState.writeArea (x : ArrayState) (area off : Nat) (bs : List Byte) : ArrayState :=
  { x with bytes := (bs.foldl (fun (p : Store × Nat) b => (p.1.write p.2 b.toNat, p.2 + 1)) (x.bytes, area * 65536 + off)).1 }

/-- R77: whether an operand is staged in cycle `c`. -/
def isStaged (x : ArrayState) (key c : Nat) : Bool :=
  match tget 0 x.staged key with
  | 0 => false
  | 1 => true
  | n + 2 => c < n

/-- R77: an operand becomes staged, and stops being staged from cycle `c`, or earlier where something else ended it earlier. -/
def ArrayState.stage (x : ArrayState) (key : Nat) : ArrayState := { x with staged := tset 0 x.staged key 1 }
def ArrayState.unstageAt (x : ArrayState) (key c : Nat) : ArrayState :=
  match tget 0 x.staged key with
  | 0 => x
  | 1 => { x with staged := tset 0 x.staged key (c + 2) }
  | n + 2 => { x with staged := tset 0 x.staged key (min n c + 2) }

/-! ### The pass descriptor (R72) -/

def PassRec.fmtA (d : PassRec) : Nat := fld d.w0 63 60
def PassRec.fmtB (d : PassRec) : Nat := fld d.w0 59 56
def PassRec.kind (d : PassRec) : Nat := fld d.w0 55 53
def PassRec.aBuf (d : PassRec) : Nat := fld d.w0 52 52
def PassRec.aKeep (d : PassRec) : Bool := bit d.w0 51
def PassRec.bSet (d : PassRec) : Nat := fld d.w0 50 50
def PassRec.loadB (d : PassRec) : Bool := bit d.w0 49
def PassRec.bBuf (d : PassRec) : Nat := fld d.w0 48 48
def PassRec.accBank (d : PassRec) : Nat := fld d.w0 47 47
def PassRec.accInit (d : PassRec) : Nat := fld d.w0 46 45
def PassRec.drain (d : PassRec) : Bool := bit d.w0 44
def PassRec.scaleA (d : PassRec) : Bool := bit d.w0 43
def PassRec.scaleB (d : PassRec) : Bool := bit d.w0 42
def PassRec.mCount (d : PassRec) : Nat := fld d.w0 41 34
def PassRec.kCount (d : PassRec) : Nat := fld d.w0 33 25
def PassRec.nCount (d : PassRec) : Nat := fld d.w0 24 17
def PassRec.loadOnly (d : PassRec) : Bool := d.kind == 4

/-- R53: the operand pair of a pass; a pair the load refuses reads as the 8-bit float pair. -/
def PassRec.pair (d : PassRec) : Pair := (pairOf d.fmtA d.fmtB).getD ⟨32, false, 16⟩

/-- R70: cycles per A row. -/
def PassRec.cpr (d : PassRec) : Nat :=
  match d.kind with
  | 1 => 10
  | 2 => 4
  | 3 => 2
  | _ => if d.pair.rate = 8 then 2 else 1

/-- R71: row pitch of B: 256 bytes in the 6/4-bit class, else 512. -/
def PassRec.bPitch (d : PassRec) : Nat := if d.pair.rate = 32 then 256 else 512

/-- R79: the cycle in which the stream ends, and the one in which the pass completes. -/
def PassRec.streamEnd (d : PassRec) : Nat := d.start + d.mCount * d.cpr
def PassRec.completes (d : PassRec) : Nat := d.start + (d.mCount - 1) * d.cpr + 257

/-- R77, R79: the first cycle in which a pass has completed and, where it drains, its drain has ended. -/
def PassRec.settles (d : PassRec) : Nat := d.completes + (if d.drain then d.mCount else 0)

/-! ### Block sums (R55 to R60) -/

/-- R49: the scale field of block `b` of an operand row or column; 0x7F where the pass names no scales. -/
def scaleField (x : ArrayState) (named : Bool) (area off : Nat) : Nat :=
  if named then x.bytes.read (area * 65536 + off) % 256 else 0x7F

/-- The block sums of output (m, n) in ascending K order: FP32 bits, or INT32 for an integer pair (R55 to R60). -/
def blockSums (x : ArrayState) (d : PassRec) (m n : Nat) : List Nat :=
  let p := d.pair
  let arow := areaBytes x (areaA d.aBuf) (512 * m) 512
  let a (k : Nat) : Nat := getElem d.fmtA arow k
  let b (k : Nat) : Nat := getElem d.fmtB (areaBytes x (areaSet d.bSet) (d.bPitch * k) d.bPitch) n
  (List.range (cdiv d.kCount p.block)).map (fun j =>
    let ks := (List.range p.block).filterMap (fun i => if p.block * j + i < d.kCount then some (p.block * j + i) else none)
    if p.int then
      unsigned 32 ((ks.map (fun k => signed (fmtBits d.fmtA) (a k) * signed (fmtBits d.fmtB) (b k))).sum)
    else
      let blk := p.block * j / 32
      let sa := scaleField x d.scaleA (areaA d.aBuf + 1) (8 * m + blk)
      let sb := scaleField x d.scaleB (areaSet d.bSet + 1) (128 * blk + n)
      let prods := ks.flatMap (fun k =>
        let va := decodeNum d.fmtA (a k)
        let vb := decodeNum d.fmtB (b k)
        if sa = 0xFF ∨ sb = 0xFF then [.nan]
        else if 1 ≤ d.kind ∧ d.kind ≤ 3 then fp32Products d.kind va vb
        else [va.mul vb])
      blockSum prods ((sa : Int) - 127 + ((sb : Int) - 127)))

/-- R74, R57, R59, R93: the new accumulator value of row m, column n. -/
def accumulate (d : PassRec) (old m : Nat) (sums : List Nat) : Nat :=
  let start := match d.accInit with
    | 1 => 0
    | 2 => mul32 old (tget 0 d.factors m)
    | _ => old
  if d.pair.int then sums.foldl (fun a b => (a + b) % 2 ^ 32) start else sums.foldl add32 start

/-! ### Issue (R76 to R78) -/

/-- STEP_FAULT naming an array; DETAIL is the operand: its area, 12 for the rescale vector, 15 for an occupied pending slot (log 12). -/
def arrayFault (s : State) (t a detail : Nat) : State := stepFault s 0 2 (4 * t + a) none detail false

/-- R77: the first later pass of the stream on an array that uses register set `set` has SCALE_B = 1. -/
def userScaleB (s : State) (r : Run) (t a i set : Nat) : Bool :=
  let later := (stream s r.slot r.bucket t).filterMap (fun x =>
    if i < x.1 ∧ fld x.2.2 63 56 = 1 ∧ fld x.2.2 47 46 = a then
      let d : PassRec := { w0 := nth (runEntry r secPass t 2 (fld x.2.2 45 34)) 0 }
      if !d.loadOnly && d.bSet == set then some d else none
    else none)
  match later with
  | d :: _ => d.scaleB
  | [] => false

/-- R77: the operands that a pass names at issue and that are not staged in cycle `c`. -/
def unstaged (x : ArrayState) (d : PassRec) (bScale : Bool) (c : Nat) : List Nat :=
  let loads := d.loadOnly || d.loadB
  ((if d.loadOnly then [] else [(true, areaA d.aBuf), (d.scaleA, areaA d.aBuf + 1), (d.accInit == 2, areaRescale)])
    ++ [(loads, areaB d.bBuf), (loads && bScale, areaB d.bBuf + 1)]).filterMap (fun q => if q.1 && !isStaged x q.2 c then some q.2 else none)

/-- R80: load register set `set` from staging buffer `buf`, beginning in cycle `l0`; the buffer stays staged for 128 cycles. -/
def ArrayState.loadSet (x : ArrayState) (set buf l0 : Nat) : ArrayState :=
  let y := (x.writeArea (areaSet set) 0 (areaBytes x (areaB buf) 0 65536)).writeArea (areaSet set + 1) 0 (areaBytes x (areaB buf + 1) 0 1024)
  let z := (y.unstageAt (areaB buf) (l0 + 128)).unstageAt (areaB buf + 1) (l0 + 128)
  let z := if set = 0 then { z with loadedAt0 := some l0 } else { z with loadedAt1 := some l0 }
  if buf = 0 then { z with loadEnd0 := max z.loadEnd0 (l0 + 128) } else { z with loadEnd1 := max z.loadEnd1 (l0 + 128) }

/-- R76, R80, R93: the pending pass, if it is the one issued in cycle `issue`, moves to the active slot and starts streaming. -/
def ArrayState.startStream (x : ArrayState) (issue : Nat) : ArrayState :=
  match x.pending with
  | none => x
  | some d1 =>
    if d1.issue ≠ issue then x
    else
      let d : PassRec := { d1 with
        sums := (List.range d1.mCount).flatMap (fun m => (List.range d1.nCount).map (fun n => (128 * m + n, blockSums x d1 m n)))
        factors := if d1.accInit = 2 then (List.range d1.mCount).map (fun m => (m, x.rescale.read m)) else [] }
      let y := { x with pending := none, streams := x.streams ++ [d] }
      let y := if d.aKeep then y else (y.unstageAt (areaA d.aBuf) d.streamEnd).unstageAt (areaA d.aBuf + 1) d.streamEnd
      let y := if d.accInit = 2 then y.unstageAt areaRescale (d.start + 1) else y
      if d.loadB then y.loadSet (1 - d.bSet) d.bBuf d.start else y

/-- R76: the pending slot is free from the cycle in which its pass starts to stream. -/
def ArrayState.freePending (x : ArrayState) (c : Nat) : ArrayState :=
  match x.pending with
  | some d => if d.start ≤ c then x.startStream d.issue else x
  | none => x

/-- PASS (R76 to R78, R80): the staging check, the pending-slot check, then the pending slot, its stream start known; a LOAD_ONLY loads its
set at once. -/
def execPass (tile array entry : Nat) (s : State) : Host.Outcome State Fault Refusal :=
  .next (issue s tile 1 (at' array 2 46 + at' entry 12 34) (fun s0 r i =>
    let ws := runEntry r secPass tile 2 entry
    let c := cycleNow s0
    let p := physTile s0 tile
    let s := setArray s0 p array (fun x => x.freePending c)
    let x := arrayOf s p array
    let d : PassRec := { w0 := nth ws 0, w1 := nth ws 1, issue := c, start := max c x.streamEnd }
    let set := if d.loadOnly then d.bSet else 1 - d.bSet
    match unstaged x d (userScaleB s r tile array i set) c with
    | k :: _ => arrayFault s tile array k
    | [] =>
      if x.pending.isSome then arrayFault s tile array 15
      else if d.loadOnly then setArray s p array (fun x => x.loadSet set d.bBuf c)
      else opCount (setArray s p array (fun x => { x with pending := some d, streamEnd := d.streamEnd })) tile 0 d.fmtA 1))

/-! ### What the rows of a pass do (R74, R75, R79) -/

/-- R74: write row `m` of a pass to its bank. -/
def ArrayState.addRow (x : ArrayState) (d : PassRec) (m : Nat) : ArrayState :=
  { x with acc := (d.sums.filter (fun e => e.1 / 128 == m)).foldl (fun acc e =>
      let k := 16384 * d.accBank + e.1
      acc.write k (accumulate d (acc.read k) m e.2)) x.acc }

/-- R75: bytes of row `m` that the drain of a pass writes. -/
def ArrayState.drainBytes (x : ArrayState) (d : PassRec) (m : Nat) : List Byte :=
  (List.range d.nCount).flatMap (fun n => leBytes 4 (x.acc.read (16384 * d.accBank + 128 * m + n)))

/-- R75: byte offset of row `m` of a drain in its handle. -/
def PassRec.drainOff (d : PassRec) (m : Nat) : Nat := 64 * (fld d.w1 55 36 + m * fld d.w1 35 24)
def PassRec.drainHandle (d : PassRec) : Nat := fld d.w1 63 56

/-- R77: an accumulator bank is staged as a source: no pass that targets it has yet to complete or to drain. -/
def bankStaged (x : ArrayState) (bank : Nat) : Bool :=
  let targets (d : PassRec) : Bool := d.accBank == bank
  !(x.pending.any targets) && !(x.streams.any targets)

/-- R78: a write to an area in cycle `c` is allowed only when the area is not staged and no pass or load is still reading it. -/
def writableArea (x : ArrayState) (area c : Nat) : Bool :=
  !isStaged x area c
    && !(x.streams.any (fun d => decide (c < d.streamEnd) && (area == areaA d.aBuf || (d.scaleA && area == areaA d.aBuf + 1))))
    && !((area == areaB 0 || area == areaB 0 + 1) && decide (c < x.loadEnd0))
    && !((area == areaB 1 || area == areaB 1 + 1) && decide (c < x.loadEnd1))

end Sys2Proof.Machine
end

