-- ==== Sys2Proof/Machine/Reference.lean ====
section
/-! DEFINITION. The values of the function reference (R87, R89): whatever its source returns, within the bound that R87 states. The exact
function of R87 is worked out in fixed point to 512 fraction bits, far below an FP32 ulp of any result. -/

namespace Sys2Proof.Machine

/-! ### Fixed point -/

/-- Fraction bits. -/
abbrev fracBits : Nat := 512

abbrev fixOne : Int := 2 ^ fracBits

/-- A finite number in fixed point. -/
def fixOf (x : Num) : Option Int :=
  match x with
  | .fin neg m e =>
    let v : Int := if 0 ≤ e + fracBits then (m : Int) * 2 ^ (e + fracBits).toNat else (m : Int) / 2 ^ (-(e + fracBits)).toNat
    some (if neg then -v else v)
  | _ => none

/-- The number of a fixed-point value. -/
def numOfFix (y : Int) : Num := .fin (y < 0) y.natAbs (-fracBits)

def fixMul (a b : Int) : Int := a * b / fixOne
def fixDiv (a b : Int) : Int := a * fixOne / b

/-- Floor of a square root, bit by bit from bit `i - 1` down. -/
def rootBits (n : Nat) : Nat → Nat → Nat
  | 0, r => r
  | i + 1, r => if (r + 2 ^ i) * (r + 2 ^ i) ≤ n then rootBits n i (r + 2 ^ i) else rootBits n i r

/-- 1 / √x, for x > 0. -/
def fixRsqrt (x : Int) : Int :=
  let n := (x * fixOne).toNat
  fixDiv fixOne (rootBits n (Nat.log2 n / 2 + 1) 0)

/-! ### Elementary functions -/

/-- Σ of `n` terms of a series whose next term is the last one times `z`, over a divisor of the term's number. -/
def seriesSum (z : Int) (divisor : Nat → Int) : Nat → Nat → Int → Int
  | 0, _, _ => 0
  | n + 1, k, term => term / divisor k + seriesSum z divisor n (k + 1) (fixMul term z)

/-- Σ y^k / k!. -/
def expTerms (y : Int) : Nat → Nat → Int → Int
  | 0, _, _ => 0
  | n + 1, k, term => term + expTerms y n (k + 1) (fixMul term y / (k + 1))

def squares : Nat → Int → Int
  | 0, x => x
  | n + 1, x => squares n (fixMul x x)

/-- e^x; an argument outside −400 to 200, where no FP32 result is other than 0 or beyond the format, counts as the limit. -/
def fixExp (x0 : Int) : Int :=
  let x := max (-400 * fixOne) (min (200 * fixOne) x0)
  let p := squares 12 (expTerms ((x.natAbs : Int) / 4096) 90 0 fixOne)
  if 0 ≤ x then p else fixDiv fixOne p

/-- atanh t = t + t³/3 + …, for |t| ≤ 1/3, and atan t = t − t³/3 + …. -/
def fixAtanh (t : Int) : Int := seriesSum (fixMul t t) (fun k => 2 * (k : Int) + 1) 180 0 t
def fixAtan (t : Int) : Int := seriesSum (-fixMul t t) (fun k => 2 * (k : Int) + 1) 130 0 t

def fixLn2 : Int := 2 * fixAtanh (fixOne / 3)
def fixPi : Int := 16 * fixAtan (fixOne / 5) - 4 * fixAtan (fixOne / 239)

/-- ln of m × 2^e, for m > 0. -/
def fixLn (m : Nat) (e : Int) : Int :=
  let l := Nat.log2 m
  let f : Int := (m : Int) * fixOne / 2 ^ l
  2 * fixAtanh (fixDiv (f - fixOne) (f + fixOne)) + (e + l) * fixLn2

/-- 1 / (1 + e^−x). -/
def fixSigmoid (x : Int) : Int :=
  if 0 ≤ x then fixDiv fixOne (fixOne + fixExp (-x)) else (let e := fixExp x; fixDiv e (fixOne + e))

/-- tanh x. -/
def fixTanh (x : Int) : Int := let e := fixExp (max (-200 * fixOne) (2 * x)); fixDiv (e - fixOne) (e + fixOne)

/-- Terms of Σ (−1)^n x^(2n+1) / (2^n n! (2n + 1)). -/
def normTerms (z : Int) : Nat → Nat → Int → Int
  | 0, _, _ => 0
  | n + 1, k, term => term / (2 * (k : Int) + 1) + normTerms z n (k + 1) (-(fixMul term z) / (2 * ((k : Int) + 1)))

/-- The normal distribution Φ. -/
def fixNorm (x : Int) : Int :=
  if x ≤ -15 * fixOne then 0
  else if 15 * fixOne ≤ x then fixOne
  else fixOne / 2 + fixMul (fixRsqrt (2 * fixPi)) (normTerms (fixMul x x) 700 0 x)

/-- x × sigmoid(x), and the tanh form of GELU as x × sigmoid(2u). -/
def fixSilu (x : Int) : Int := fixMul x (fixSigmoid x)
def fixGeluTanh (x : Int) : Int :=
  let u := (x + fixMul (fixMul x x) x * 44715 / 1000000) * 79788456 / 100000000
  fixMul x (fixSigmoid (2 * u))

/-! ### The functions of R87 -/

/-- s / n for FP32 bits, where n is not 0. -/
def quotient (s n : Int) : Option Int := if n = 0 then none else some (fixDiv s n)

/-- The exact result of a function of R87 at FP32 bits, where the function is defined there. -/
def exactRef (fn : Nat) (args : List Nat) : Option Int :=
  match fn, args.map (fun a => fixOf (f32 a)) with
  | 0x02, [some x, some p] => some (fixExp (fixMul p x))
  | 0x03, [some x] => some (fixExp (fixMul x fixLn2))
  | 0x04, [some x] => if x ≤ 0 then none else some (fixLn x.toNat (-fracBits))
  | 0x05, [some x] => quotient fixOne x
  | 0x06, [some x] => if x ≤ 0 then none else some (fixRsqrt x)
  | 0x07, [some x] => some (fixTanh x)
  | 0x08, [some x] => some (fixSigmoid x)
  | 0x09, [some x] => some (fixMul x (fixNorm x))
  | 0x0A, [some x] => some (fixGeluTanh x)
  | 0x0B, [some x] => some (fixSilu x)
  | 0x11, [some x, some l] => quotient x l
  | 0x15, [some x, some s2, some p, some n, some g] =>
    match quotient s2 n with
    | some q => if q + p ≤ 0 then none else some (fixMul (fixMul x (fixRsqrt (q + p))) g)
    | none => none
  | 0x16, [some x, some s1, some s2, some p, some n, some g] =>
    match quotient s1 n, quotient s2 n with
    | some m, some q =>
      let v := max (q - fixMul m m) 0 + p
      if v ≤ 0 then none else some (fixMul (fixMul (x - m) (fixRsqrt v)) g)
    | _, _ => none
  | 0x1C, [some x, some y] => some (fixMul (fixSilu x) y)
  | 0x1D, [some x, some y] => some (fixMul (fixGeluTanh x) y)
  | _, _ => none

/-- R87: the bound of a function, in ulps. -/
def ulpBound (fn : Nat) : Nat :=
  match fn with
  | 0x02 => 2 | 0x03 => 1 | 0x04 => 2 | 0x05 => 1 | 0x06 => 1 | 0x07 => 3 | 0x08 => 3 | 0x09 => 4 | 0x0A => 4 | 0x0B => 3
  | 0x11 => 2 | 0x15 => 3 | 0x16 => 4 | 0x1C => 4 | _ => 5

/-- R87: one FP32 ulp of y, in fixed point. -/
def fixUlp (y : Int) : Int :=
  let e : Int := if y = 0 then -126 else max ((Nat.log2 y.natAbs : Int) - fracBits) (-126)
  2 ^ (e - 23 + fracBits).toNat

/-- FP32 bits lie within `b` ulps of y; an infinity counts as ±2^128, what follows the largest finite value. -/
def withinUlps (b : Nat) (y : Int) (n : Nat) : Bool :=
  let near (v : Int) : Bool := decide (((v - y).natAbs : Int) ≤ b * fixUlp y)
  match f32 n with
  | .nan => false
  | .inf neg => near (if neg then -(2 ^ 128 * fixOne) else 2 ^ 128 * fixOne)
  | x => match fixOf x with
    | some v => near v
    | none => false

/-- R87, R89: a value of the function reference: what its source returns, held to the bound of R87 (log 68). A result out of bound stands
for the exact result rounded; where R87 gives no exact result the value is free. -/
def refValue (fn : Nat) (args : List Nat) : Nat :=
  let raw := Config.funcRef fn args % 2 ^ 32
  match exactRef fn args with
  | none => raw
  | some y => if withinUlps (ulpBound fn) y raw then raw else toF32 (numOfFix y)

end Sys2Proof.Machine
end

