-- ==== Sys2Proof/Machine/RowVec.lean ====
section
/-! DEFINITION. The row function unit and the vector unit (R84 to R97, R525). -/

namespace Sys2Proof.Machine

/-! ### The function descriptor (R84) -/

def FuncRec.w (d : FuncRec) (i : Nat) : Word := nth d.words i
def FuncRec.fn (d : FuncRec) : Nat := fld (d.w 0) 63 56
def FuncRec.isVec (d : FuncRec) : Bool := bit (d.w 0) 55
def FuncRec.fmtIn (d : FuncRec) : Nat := fld (d.w 0) 54 51
def FuncRec.fmtOut (d : FuncRec) : Nat := fld (d.w 0) 50 47
def FuncRec.round (d : FuncRec) : Nat := fld (d.w 0) 46 45
def FuncRec.sat (d : FuncRec) : Bool := bit (d.w 0) 44
def FuncRec.fit (d : FuncRec) : Bool := bit (d.w 0) 43
def FuncRec.source (d : FuncRec) : Nat := fld (d.w 0) 42 39
def FuncRec.source2 (d : FuncRec) : Nat := fld (d.w 0) 38 35
def FuncRec.dst (d : FuncRec) : Nat := fld (d.w 0) 34 31
def FuncRec.stateSet (d : FuncRec) : Nat := fld (d.w 0) 30 29
def FuncRec.stateInit (d : FuncRec) : Bool := bit (d.w 0) 28
def FuncRec.rescale (d : FuncRec) : Nat := fld (d.w 0) 27 24
def FuncRec.rows (d : FuncRec) : Nat := fld (d.w 0) 23 16
def FuncRec.cols (d : FuncRec) : Nat := fld (d.w 0) 15 7
def FuncRec.srcHandle (d : FuncRec) : Nat := fld (d.w 1) 63 56
def FuncRec.srcOffset (d : FuncRec) : Nat := fld (d.w 1) 55 36
def FuncRec.srcStride (d : FuncRec) : Nat := fld (d.w 1) 35 24
def FuncRec.strm (d : FuncRec) : Nat := fld (d.w 1) 23 8
def FuncRec.src2Handle (d : FuncRec) : Nat := fld (d.w 1) 7 0
def FuncRec.dstHandle (d : FuncRec) : Nat := fld (d.w 2) 63 56
def FuncRec.dstOffset (d : FuncRec) : Nat := fld (d.w 2) 55 36
def FuncRec.dstStride (d : FuncRec) : Nat := fld (d.w 2) 35 24
def FuncRec.src2Offset (d : FuncRec) : Nat := fld (d.w 2) 23 4
def FuncRec.param (d : FuncRec) : Nat := fld (d.w 3) 63 32
def FuncRec.param2 (d : FuncRec) : Nat := fld (d.w 3) 31 0

/-! ### Timing (R86, R87, R94) -/

/-- R87: latency L of a row function. -/
def rowLatency (fn : Nat) : Nat :=
  match fn with
  | 0x01 => 16 | 0x09 => 28 | 0x0A => 28 | 0x0C => 16 | 0x10 => 40 | 0x14 => 32 | 0x15 => 32 | 0x16 => 32 | 0x18 => 36 | 0x19 => 16
  | 0x1C => 28 | 0x1D => 32 | _ => 24

/-- Cycles per row: R86 for the row function unit, R94 for the vector unit. -/
def FuncRec.perRow (d : FuncRec) : Nat :=
  if d.isVec then cdiv d.cols (if d.fmtIn = 0 then 64 else 256) else cdiv d.cols 128

/-- The cycle in which row r of the result is written, the one in which the operation completes, and the first in which its unit
accepts another. -/
def FuncRec.writes (d : FuncRec) (r : Nat) : Nat :=
  if d.isVec then d.issue + (r + 1) * d.perRow + 16 else d.issue + r * d.perRow + rowLatency d.fn
def FuncRec.completes (d : FuncRec) : Nat := d.writes (d.rows - 1) + 1
def FuncRec.frees (d : FuncRec) : Nat := d.issue + d.rows * d.perRow

/-- R94: elements of a row that the vector unit reads in one cycle; the row function unit reads a row in one cycle. -/
def FuncRec.partSize (d : FuncRec) : Nat := if d.isVec then (if d.fmtIn = 0 then 64 else 256) else 256
def FuncRec.parts (d : FuncRec) : Nat := if d.isVec then d.perRow else 1

/-- The cycle in which part `i` of row `r` is read. -/
def FuncRec.readsAt (d : FuncRec) (r i : Nat) : Nat := d.issue + r * d.perRow + i

/-! ### Sources (R85, R86, R525) -/

/-- A row of a packed scratchpad tile, as element encodings. -/
def scratchRow (s : State) (t h off fmt cols : Nat) : List Nat :=
  let bs := handleRead s t (handleOf s t h) off (packedBytes fmt cols)
  (List.range cols).map (getElem fmt bs)

/-- Row r of a bank, as 32-bit patterns. -/
def bankRow (s : State) (t code r cols : Nat) : List Nat :=
  let x := arrayOf s (physTile s t) ((code - 1) / 2)
  (List.range cols).map (fun c => x.acc.read (16384 * ((code - 1) % 2) + 128 * r + c))

/-- Row `r` of the first source. -/
def srcRow (s : State) (t : Nat) (d : FuncRec) (r : Nat) : List Nat :=
  if 1 ≤ d.source ∧ d.source ≤ 8 then bankRow s t d.source r d.cols
  else scratchRow s t d.srcHandle (64 * (d.srcOffset + r * d.srcStride)) d.fmtIn d.cols

/-- R525: byte offset in its handle, format and elements of row `r` of a second source in scratchpad; a norm function's one row of g serves
every row. -/
def FuncRec.src2Row (d : FuncRec) (r : Nat) : Nat × Nat × Nat :=
  if d.isVec then (64 * (d.src2Offset + r * d.srcStride), d.fmtIn, d.cols)
  else if d.fn = 0x0C then (64 * d.src2Offset + 4 * r, 1, 1)
  else if d.fn = 0x15 ∨ d.fn = 0x16 then (64 * d.src2Offset, 1, d.cols)
  else (64 * (d.src2Offset + r * d.srcStride), d.fmtIn, d.cols)

/-- R87, R94: an operation on x and y that names no second source; its y is a free value (log 69). -/
def FuncRec.lacksY (d : FuncRec) : Bool :=
  d.source2 == 0xD && (if d.isVec then d.fn ≤ 0x26 || 0x2C ≤ d.fn else d.fn == 0x1C || d.fn == 0x1D)

/-- R525: row `r` of the second source. -/
def srcRow2 (s : State) (t : Nat) (d : FuncRec) (r : Nat) : List Nat :=
  if d.lacksY then (List.range d.cols).map (fun c => (Config.missingY d.stepExt d.beat t d.isVec (256 * r + c)).toNat % 2 ^ fmtBits d.fmtIn)
  else if d.source2 = 0xD then []
  else if 1 ≤ d.source2 ∧ d.source2 ≤ 8 then bankRow s t d.source2 r (if d.fn = 0x0C then 1 else d.cols)
  else let q := d.src2Row r; scratchRow s t d.src2Handle q.1 q.2.1 q.2.2

/-- The value of a source element: a bank gives FP32 or INT32 (R86). -/
def FuncRec.value (d : FuncRec) (e : Nat) : Num := decodeNum d.fmtIn e

/-! ### Row functions (R87 to R92); FP32 bits in, FP32 bits out -/

abbrev nan32 : Nat := 0x7FC00000
abbrev posInf32 : Nat := 0x7F800000
abbrev negInf32 : Nat := 0xFF800000
abbrev one32 : Nat := 0x3F800000

/-- R88: a function of several inputs gives the canonical NaN where one of them is NaN. -/
def refOrNan (fn : Nat) (args : List Nat) : Nat := if args.any (fun a => (f32 a).isNan) then nan32 else refValue fn args

/-- R88, R90: exp of an FP32 value; exp(0) is 1, since f is exactly 1 when the maximum does not change. -/
def exp32 (x : Nat) : Nat :=
  match f32 x with
  | .nan => nan32
  | .inf neg => if neg then 0 else posInf32
  | .fin _ m _ => if m = 0 then one32 else refValue 0x02 [x, one32]

/-- R87, R88: the elementwise functions of one argument. An infinite x of EXP gives what R88 says by the sign of x, whatever PARAM is (DESIGN
CHOICE, log 97). -/
def unary32 (fn param x : Nat) : Nat :=
  match fn, f32 x with
  | _, .nan => nan32
  | 0x01, _ => x
  | 0x02, .inf neg => if neg then 0 else posInf32
  | 0x03, .inf neg => if neg then 0 else posInf32
  | 0x02, _ => if (f32 param).isNan then nan32 else refValue 0x02 [x, param]
  | 0x04, .fin neg m _ => if m = 0 then negInf32 else if neg then nan32 else refValue 0x04 [x]
  | 0x04, .inf neg => if neg then nan32 else posInf32
  | 0x05, .fin neg m _ => if m = 0 then (if neg then negInf32 else posInf32) else refValue 0x05 [x]
  | 0x05, .inf neg => if neg then 0x80000000 else 0
  | 0x06, .fin neg m _ => if m = 0 then (if neg then refValue 0x06 [x] else posInf32) else if neg then nan32 else refValue 0x06 [x]
  | 0x06, .inf neg => if neg then nan32 else 0
  | 0x07, .inf neg => if neg then 0xBF800000 else one32
  | 0x08, .inf neg => if neg then 0 else one32
  | 0x09, .inf neg => if neg then 0 else posInf32
  | 0x0A, .inf neg => if neg then 0 else posInf32
  | 0x0B, .inf neg => if neg then 0 else posInf32
  | fn, _ => refValue fn [x]

/-- IEEE 754 maximum and minimum: NaN propagates, −0 below +0 (R94). -/
def maxNum (x y : Num) : Num :=
  if x.isNan || y.isNan then .nan
  else if x.lt y then y else if y.lt x then x
  else match x with
    | .fin true 0 _ => y
    | _ => x
def minNum (x y : Num) : Num :=
  if x.isNan || y.isNan then .nan
  else if x.lt y then x else if y.lt x then y
  else match x with
    | .fin true 0 _ => x
    | _ => y

/-- R92: whether slot (v, i) ranks before (w, j). -/
def ranksBefore (v i w j : Nat) : Bool :=
  let a := f32 v
  let b := f32 w
  if a.isNan then (if b.isNan then i < j else true)
  else if b.isNan then false
  else if b.lt a then true else if a.lt b then false else i < j

/-- R92: insert a value into ranked slots. -/
def rankInsert : List (Nat × Nat) → Nat → Nat → List (Nat × Nat)
  | [], v, i => [(v, i)]
  | (w, j) :: t, v, i => if ranksBefore v i w j then (v, i) :: (w, j) :: t else (w, j) :: rankInsert t v i

/-- R90: one row of the online softmax: the row's p, the new state, and the factor f. -/
def softmaxRow (param : Nat) (xs : List Nat) (st : RowState) : List Nat × RowState × Nat :=
  let sc := xs.map (fun x => mul32 param x)
  if sc.any (fun x => (f32 x).isNan) then (xs.map (fun _ => nan32), { st with m := nan32, l := nan32 }, nan32)
  else
    let mx := toF32 (sc.foldl (fun a x => maxNum a (f32 x)) (f32 st.m))
    if mx = negInf32 then (xs.map (fun _ => 0), { st with m := mx }, one32)
    else
      let neg := toF32 (f32 mx).neg
      let f := exp32 (add32 st.m neg)
      let p := sc.map (fun x => exp32 (add32 x neg))
      (p, { st with m := mx, l := p.foldl add32 (mul32 st.l f) }, f)

/-- R87, R88 (log 69): one row of a row function: source values as FP32, second source, state; the outputs as FP32 bits, the new state, and the
rescale factor of SOFTMAX_ONLINE. -/
def rowFunction (d : FuncRec) (xs ys : List Nat) (st : RowState) : List Nat × RowState × Option Nat :=
  let y (c : Nat) : Nat := ys.getD c one32
  let idx : List (Nat × Nat) := xs.zipIdx
  match d.fn with
  | 0x0C => (xs.map (fun x => mul32 x (y 0)), st, none)
  | 0x10 => let r := softmaxRow d.param xs st; (r.1, r.2.1, some r.2.2)
  | 0x11 => (xs.map (fun x => if (f32 st.l).isZero then 0 else refOrNan 0x11 [x, st.l]), st, none)
  | 0x14 => ([], xs.foldl (fun st x => { st with s1 := add32 st.s1 x, s2 := toF32 ((f32 st.s2).add ((f32 x).mul (f32 x))) }) st, none)
  | 0x15 => (idx.map (fun e => refOrNan 0x15 [e.1, st.s2, d.param, d.param2, y e.2]), st, none)
  | 0x16 => (idx.map (fun e => refOrNan 0x16 [e.1, st.s1, st.s2, d.param, d.param2, y e.2]), st, none)
  | 0x18 => ([], { st with topk := (idx.foldl (fun t e => rankInsert t e.1 ((d.param2 + e.2) % 2 ^ 32)) st.topk).take (min 8 d.param) }, none)
  | 0x19 =>
    let slots := (st.topk ++ List.replicate 8 (negInf32, 0xFFFFFFFF)).take (min 8 d.param)
    (slots.map (·.1) ++ slots.map (·.2), st, none)
  | 0x1A => (xs, st, none)
  | 0x1C => (idx.map (fun e => refOrNan 0x1C [e.1, y e.2]), st, none)
  | 0x1D => (idx.map (fun e => refOrNan 0x1D [e.1, y e.2]), st, none)
  | fn => (xs.map (unary32 fn d.param), st, none)

/-! ### Conversion to FMT_OUT (R51, R52, R61 to R66, R91) -/

/-- R61, R62: the rounding mode of one element. -/
def FuncRec.mode (d : FuncRec) (tile index : Nat) : Mode :=
  match d.round with
  | 0 => .rne
  | 1 => .rtz
  | _ => .sr (srBits d.seed (word d.stepExt) tile d.strm index).toNat

/-- One element converted. -/
def RowOut.push (e : RowOut) (c : Conv) : RowOut :=
  { e with elems := e.elems ++ [c.enc], sat := e.sat + c.sat.toNat, fin := e.fin + c.fin.toNat }

/-- Convert a row of values to FMT_OUT, element by element. -/
def encodePlain (d : FuncRec) (tile base : Nat) (xs : List Num) : RowOut :=
  xs.zipIdx.foldl (fun e x => e.push (conv d.fmtOut (d.mode tile (base + x.2)) d.sat x.1)) {}

/-- R51, R52: quantise a row to MX blocks of 32 columns. -/
def encodeMx (d : FuncRec) (tile base : Nat) (xs : List Num) : RowOut :=
  (List.range (cdiv xs.length 32)).foldl (fun e b =>
    let blk := (xs.drop (32 * b)).take 32
    let sc := mxScale d.fmtOut d.fit blk
    let e1 := { e with scales := e.scales ++ [sc], ff := e.ff + (if sc = 0xFF then 1 else 0) }
    blk.zipIdx.foldl (fun e x => e.push (mxElem d.fmtOut (d.mode tile (base + 32 * b + x.2)) sc x.1)) e1) {}

/-- R87, R91: the functions that quantise when FMT_OUT is an MX element format. -/
def quantises (fn : Nat) : Bool := fn == 0x01 || fn == 0x10 || fn == 0x1A || fn == 0x1C || fn == 0x1D

/-- R91, R92: one row of results of the row function unit in FMT_OUT. -/
def encodeRow (d : FuncRec) (tile r : Nat) (xs : List Nat) : RowOut :=
  if d.fn = 0x19 then { elems := xs }
  else if quantises d.fn && isMx d.fmtOut then encodeMx d tile (r * d.cols) (xs.map f32)
  else encodePlain d tile (r * d.cols) (xs.map f32)

/-! ### Vector operations (R94, R95) -/

/-- Rounding of what the vector unit computes: FP64 when FMT_IN is 0x0, else FP32. -/
def FuncRec.rnd (d : FuncRec) (x : Num) : Num := if d.fmtIn = 0 then f64 (toF64 x) else f32 (toF32 x)

/-- R95: the pairwise tree over 256 parts. -/
def treeSum (d : FuncRec) : Nat → List Num → List Num
  | 0, xs => xs
  | k + 1, xs => treeSum d k ((List.range (xs.length / 2)).map (fun t => d.rnd ((xs.getD (2 * t) .nan).add (xs.getD (2 * t + 1) .nan))))

/-- R95: the sum of a row. -/
def rowSum (d : FuncRec) (xs : List Num) : Num :=
  let part := (List.range 256).map (fun t => (xs.zipIdx.filter (fun x => x.2 % 256 == t)).foldl (fun a x => d.rnd (a.add x.1)) (.fin false 0 0))
  (treeSum d 8 part).headD .nan

/-- R94: one element of an elementwise operation; `i` gives the integer values. -/
def vecElem (d : FuncRec) (x y : Num) (ix iy : Nat) : Num :=
  let int (n : Nat) : Num := Num.ofInt (signed 32 n)
  match d.fn with
  | 0x20 => d.rnd (x.add y)
  | 0x21 => d.rnd (x.add y.neg)
  | 0x22 => d.rnd (x.mul y)
  | 0x23 => d.rnd ((x.mul (f32 d.param)).add y)
  | 0x24 => minNum x y
  | 0x25 => maxNum x y
  | 0x26 => Num.ofInt (if x.lt y then 1 else 0)
  | 0x27 => x.abs
  | 0x28 => x.neg
  | 0x2C => int (ix + iy)
  | 0x2D => int (ix &&& iy)
  | 0x2E => int (ix ||| iy)
  | 0x2F => int (ix ^^^ iy)
  | _ => x

/-- The 32-bit pattern of an integer operand (R94): an integer format by its value, any other by its bits (log 69). -/
def FuncRec.intOf (d : FuncRec) (e : Nat) : Nat :=
  if isInt d.fmtIn then unsigned 32 (signed (fmtBits d.fmtIn) e) else e % 2 ^ 32

/-- One row of a vector operation in FMT_OUT (R94, R95). Sources keep their exact values, INT32 ones too (DESIGN CHOICE, log 94); what an operation
computes is rounded once, in FP32 or FP64. -/
def vecRow (d : FuncRec) (tile r : Nat) (xe ye : List Nat) : RowOut :=
  match d.fn with
  | 0x2A => encodePlain d tile r [rowSum d (xe.map d.value)]
  | 0x2B => encodePlain d tile r [(xe.map d.value).foldl maxNum (.inf true)]
  | _ =>
    encodePlain d tile (r * d.cols) (xe.zipIdx.map (fun e =>
      let b := ye.getD e.2 0
      vecElem d (d.value e.1) (d.value b) (d.intOf e.1) (d.intOf b)))

/-! ### Issue (R84, R86, R94, R96) -/

/-- The banks an operation reads that are not staged (R77), as (array, bank). -/
def unstagedBanks (s : State) (t : Nat) (d : FuncRec) : List (Nat × Nat) :=
  [d.source, d.source2].filterMap (fun e =>
    if 1 ≤ e ∧ e ≤ 8 ∧ !bankStaged (arrayOf s (physTile s t) ((e - 1) / 2)) ((e - 1) % 2) then some ((e - 1) / 2, (e - 1) % 2) else none)

/-- FUNC (R84, R86, R94): an issue before the unit accepts it, or with an unstaged bank, raises STEP_FAULT and issues nothing; else the
operation enters its unit. -/
def execFunc (tile entry : Nat) (s : State) : Host.Outcome State Fault Refusal :=
  .next (issue s tile 2 (at' entry 10 38) (fun s r _ =>
    let d : FuncRec :=
      { words := runEntry r secFunc tile 4 entry, issue := cycleNow s, stepExt := rget s Reg.stepNumberExt, seed := srSeedOf s r.slot,
        beat := (r.sched - 1) % max 1 (stepBeats s) }
    let p := physTile s tile
    let x := ptile s p
    if d.issue < (if d.isVec then x.vecFree else x.rowFree) then tileFault s tile 0 entry
    else
      match unstagedBanks s tile d with
      | b :: _ => arrayFault s tile b.1 (16 + b.2)
      | [] =>
        let s1 := setPtile s p (fun x =>
          if d.isVec then { x with vecOps := x.vecOps ++ [d], vecFree := d.frees } else { x with rowOps := x.rowOps ++ [d], rowFree := d.frees })
        opCount s1 tile (if d.isVec then 2 else 1) d.fmtOut 1))

/-! ### Rows (R78, R84 to R95) -/

/-- R84, R90: row state as STATE_INIT sets it. -/
def RowState.init : RowState := { m := negInf32, topk := [] }

/-- R84, R466: the state of one row of one set. -/
def PhysTile.rowState (x : PhysTile) (key : Nat) : RowState :=
  match tget? x.rows key with
  | some st => st
  | none => match x.rowsFree with
    | none => {}
    | some n =>
      let v (i : Nat) : Nat := (Config.freeElem n (20 * key + i)).toNat % 2 ^ 32
      { m := v 0, l := v 1, s1 := v 2, s2 := v 3, topk := (List.range 8).map (fun i => (v (4 + 2 * i), v (5 + 2 * i))) }

def PhysTile.putRowState (x : PhysTile) (key : Nat) (st : RowState) : PhysTile :=
  { x with rows := if x.rowsFree.isNone then tset {} x.rows key st else tput x.rows key st }

/-- R84: STATE_INIT resets the rows of an operation's set. -/
def PhysTile.initSet (x : PhysTile) (d : FuncRec) : PhysTile :=
  if d.stateInit then (List.range 128).foldl (fun x r => x.putRowState (128 * d.stateSet + r) .init) x else x

/-- R86, R525: a source value as FP32: a bank holds FP32, or INT32 where FMT_IN is 0x9. An FP64 value is rounded to nearest even (log 69). -/
def FuncRec.value32 (d : FuncRec) (bank : Bool) (e : Nat) : Nat :=
  toF32 (decodeNum (if bank && d.fmtIn != 9 then 1 else d.fmtIn) e)

/-- R84, R87: row `r` of a row function operation: the row of results, and the new state. -/
def runRow (d : FuncRec) (tile r : Nat) (st : RowState) (src src2 : List Nat) : RowOut × RowState :=
  let xs := src.map (d.value32 (1 ≤ d.source && d.source ≤ 8))
  let ys := if d.fn = 0x1C ∨ d.fn = 0x1D then src2.map (d.value32 (1 ≤ d.source2 && d.source2 ≤ 8)) else src2
  let o := rowFunction d xs ys st
  ({ encodeRow d tile r o.1 with row := r, factor := o.2.2 }, o.2.1)

/-- Whether a function writes an output (R85). -/
def FuncRec.writesOut (d : FuncRec) : Bool := !(d.fn == 0x14 || d.fn == 0x18) && d.dst != 0xD

/-- R85: array and A buffer of a destination endpoint. -/
def FuncRec.dstArray (d : FuncRec) : Nat := if d.dst ≤ 0xA then 1 else 3
def FuncRec.dstBuf (d : FuncRec) : Nat := (d.dst - 9) % 2

/-- R85, R91: a function that writes block scales. -/
def FuncRec.scaled (d : FuncRec) : Bool := !d.isVec && quantises d.fn && isMx d.fmtOut

/-- R85: the operand areas an operation writes, as (array, area), and those that its factors fill. -/
def FuncRec.outAreas (d : FuncRec) : List (Nat × Nat) :=
  if 9 ≤ d.dst ∧ d.dst ≤ 0xC ∧ d.isVec = false ∧ d.writesOut then
    (d.dstArray, areaA d.dstBuf) :: (if d.scaled then [(d.dstArray, areaA d.dstBuf + 1)] else [])
  else []
def FuncRec.factorAreas (d : FuncRec) : List (Nat × Nat) :=
  if 1 ≤ d.rescale ∧ d.rescale ≤ 8 ∧ d.isVec = false then [((d.rescale - 1) / 2, areaRescale)] else []

/-- R66, R504: count a row's conversion events. -/
def countConv (s : State) (t : Nat) (e : RowOut) : State := convCount (convCount (convCount s t 0 e.sat) t 1 e.fin) t 2 e.ff

/-! ### Banks that an operation uses (R86, R91, R92, R94, R95, R525) -/

/-- Banks that `n` bytes from a byte offset of a handle's buffer touch. -/
def banksAt (h : Word) (off n : Nat) : List Nat :=
  if n = 0 then [] else (List.range ((off + n - 1) / 64 + 1 - off / 64)).map (fun i => resolve h (64 * (off / 64 + i)) / 64 % 64)

/-- Bytes of one result row, and of its block scales (R91, R92, R95). -/
def FuncRec.outBytes (d : FuncRec) : Nat :=
  if d.isVec then packedBytes d.fmtOut (if d.fn = 0x2A ∨ d.fn = 0x2B then 1 else d.cols)
  else if d.fn = 0x19 then 8 * d.param else packedBytes d.fmtOut d.cols
def FuncRec.scaleBytes (d : FuncRec) : Nat := if d.scaled then cdiv d.cols 32 else 0

/-- The banks that the read of part `i` of row `r` uses. -/
def FuncRec.readBanks (d : FuncRec) (handle : Nat → Word) (r i : Nat) : List Nat :=
  let cut (h off fmt n : Nat) : List Nat :=
    if d.isVec then
      (let whole := packedBytes fmt n
       let step := packedBytes fmt d.partSize
       banksAt (handle h) (off + i * step) (min step (whole - i * step)))
    else banksAt (handle h) off (packedBytes fmt n)
  (if d.source = 0 then cut d.srcHandle (64 * (d.srcOffset + r * d.srcStride)) d.fmtIn d.cols else [])
    ++ (if d.source2 = 0 then let q := d.src2Row r; cut d.src2Handle q.1 q.2.1 q.2.2 else [])

/-- The banks that the write of row `r` uses. -/
def FuncRec.writeBanks (d : FuncRec) (handle : Nat → Word) (r : Nat) : List Nat :=
  if d.dst = 0 ∧ d.writesOut = true then
    banksAt (handle d.dstHandle) (64 * (d.dstOffset + r * d.dstStride)) d.outBytes
      ++ banksAt (handle d.dstHandle) (64 * (d.dstOffset + d.rows * d.dstStride) + r * d.scaleBytes) d.scaleBytes
  else []

/-- The banks that the drain of row `m` of a pass uses (R75). -/
def PassRec.drainBanks (d : PassRec) (handle : Nat → Word) (m : Nat) : List Nat := banksAt (handle d.drainHandle) (d.drainOff m) (4 * d.nCount)

end Sys2Proof.Machine
end

