-- ==== Sys2Proof/Machine/Lace.lean ====
section
/-! DEFINITION. The fold and the message of the Lace unit (R339 to R344), and its sets. -/

namespace Sys2Proof.Machine

/-! ### The fold (R341, R342) -/

abbrev lopBarrier : Nat := 0xF
abbrev ltI64 : Nat := 0
abbrev ltU64 : Nat := 1
abbrev ltF64 : Nat := 2
abbrev ltF32 : Nat := 3

/-- R341: bytes of a value of a type. -/
def ltBytes (lt : Nat) : Nat := if lt = ltF32 then 4 else 8

/-- R504: format code of a type. -/
def ltFmt (lt : Nat) : Nat := if lt ≤ 1 then 9 else if lt = ltF64 then 0 else 1

/-- R341: an operation that has an encoding, and one that its type takes. -/
def lopKnown (lop : Nat) : Bool := lop ≤ 5 || lop == lopBarrier
def lopTakes (lop lt : Nat) : Bool := lop ≤ 2 || lt ≤ 1

/-- R55, R56, R342: the exact sum of float values, rounded once with RNE; an exact zero is +0. -/
def floatSum (toBits : Num → Nat) (nan : Nat) (xs : List Num) : Nat :=
  if xs.any Num.isNan then nan
  else if xs.contains (.inf true) && xs.contains (.inf false) then nan
  else if xs.contains (.inf true) then toBits (.inf true)
  else if xs.contains (.inf false) then toBits (.inf false)
  else
    match xs.foldl Num.add (.fin false 0 0) with
    | .fin neg m e => if m = 0 then 0 else toBits (.fin neg m e)
    | _ => nan

/-- R342: the fold of the members' values in ascending chip order. -/
def laceFold (lop lt : Nat) (vs : List Nat) : Nat :=
  match vs with
  | [] => 0
  | v :: rest =>
    if lop = lopBarrier then 0
    else if lt = ltF64 then
      (if lop = 0 then floatSum toF64 0x7FF8000000000000 (vs.map f64)
       else toF64 (rest.foldl (fun a x => if lop = 1 then minNum a (f64 x) else maxNum a (f64 x)) (f64 v)))
    else if lt = ltF32 then
      (if lop = 0 then floatSum toF32 0x7FC00000 (vs.map f32)
       else toF32 (rest.foldl (fun a x => if lop = 1 then minNum a (f32 x) else maxNum a (f32 x)) (f32 v)))
    else
      let lt' (a b : Nat) : Bool := if lt = ltI64 then decide (signed 64 a < signed 64 b) else decide (a < b)
      rest.foldl (fun a x =>
        match lop with
        | 0 => (a + x) % 2 ^ 64
        | 1 => if lt' x a then x else a
        | 2 => if lt' a x then x else a
        | 3 => a &&& x
        | 4 => a ||| x
        | _ => a ^^^ x) v

/-! ### The message (R344) -/

def lmSrc (m : List Word) : Nat := fld (nth m 0) 63 52
def lmSet (m : List Word) : Nat := fld (nth m 0) 51 46
def lmLop (m : List Word) : Nat := fld (nth m 0) 45 42
def lmType (m : List Word) : Nat := fld (nth m 0) 41 40
def lmKind (m : List Word) : Nat := fld (nth m 0) 39 38
def lmCount (m : List Word) : Nat := fld (nth m 0) 37 35
def lmFirst (m : List Word) : Nat := fld (nth m 0) 31 24
def lmSeq (m : List Word) : Nat := fld (nth m 0) 23 0

/-- A message: eight words. -/
def laceMessage (src set lop lt kind count first seq : Nat) (vs : List Nat) : List Word :=
  word (at' src 12 52 + at' set 6 46 + at' lop 4 42 + at' lt 2 40 + at' kind 2 38 + at' count 3 35 + at' first 8 24 + at' seq 24 0)
    :: ((List.range 7).map (fun i => word (vs.getD i 0)))

/-! ### Sets (R339, R340) -/

def laceSet (s : State) (i : Nat) : LaceSet := tget {} s.queues.sets i
def setLaceSet (s : State) (i : Nat) (f : LaceSet → LaceSet) : State := { s with queues := { s.queues with sets := tmod {} s.queues.sets i f } }

/-- R339: chip and group tag of a member entry. -/
def meChip (m : Nat) : Nat := bits m 11 0
def meGroup (m : Nat) : Nat := bits m 14 12

/-- The members' chips, ascending. -/
def laceMembers (x : LaceSet) : List Nat := x.members.map meChip

/-- R340: group tag of a chip in a set, and the representative of a group. -/
def laceGroup (x : LaceSet) (chip : Nat) : Nat := match x.members.find? (fun m => meChip m == chip) with | some m => meGroup m | none => 8
def laceGroupMembers (x : LaceSet) (g : Nat) : List Nat := (x.members.filter (fun m => meGroup m == g)).map meChip
def laceRep (x : LaceSet) (g : Nat) : Option Nat := (laceGroupMembers x g).head?

/-- Every member's value is held. -/
def laceWhole (x : LaceSet) (held : List (Nat × Nat)) : Bool := (laceMembers x).all (fun c => held.any (fun h => h.1 == c))

/-- The held values in ascending chip order. -/
def laceValues (x : LaceSet) (held : List (Nat × Nat)) : List Nat :=
  (laceMembers x).filterMap (fun c => (held.find? (fun h => h.1 == c)).map (·.2))

end Sys2Proof.Machine
end

