-- ==== Sys2Proof/Machine/Access.lean ====
section
/-! DEFINITION. Access to the dictionary: the refusals of R441 in their ranks, the responses of R446, and the one operation by which
a write row runs (R438, R440, R441, R434, R436, R510). -/

namespace Sys2Proof.Machine

/-- R434: the entries with SEALED_GUARD = 1: mem_read_data and bulk_digest. -/
def sealedGuard (index sub : Nat) : Bool := (index == 0x7180 && sub == 3) || (index == 0x4000 && sub == 0xE)

/-- R412: a tenant change runs. -/
def clearing (s : State) : Bool := s.tenancy.state == .clearing

/-- R416, R468: firmware runs: in ROM there is none, and FW_HALT serves a recovery image only. -/
def fwRuns (s : State) : Bool := s.reset'.boot != .rom && s.reset'.boot != .fwHalt

/-- R435, R454, R468: whether a request can come by a path: an open DTLS session, or a mailbox channel of a package that is ready. -/
def viaOpen (s : State) (via : Via) : Bool :=
  match via with
  | .mgmt n => fwRuns s && (tget? s.mgmt.sessions n).isSome
  | .mailbox c => decide (c < 8) && s.reset'.boot == .ready && !s.reset'.held

/-- R440: the mailbox path, not management. -/
def isMailbox (via : Via) : Bool :=
  match via with
  | .mgmt _ => false
  | .mailbox _ => true

/-- R440: whether an access code allows reading, and writing. -/
def Acc.reads (a : Acc) : Bool := a != .wo
def Acc.writes (a : Acc) : Bool := a == .rw || a == .wo || a == .rwx

/-- The number that names an entry in the tables of sessions: index and subindex. -/
def entryKey (index sub : Nat) : Nat := index * 256 + sub

/-- R450: an entry has an open write session. -/
def writeOpen (s : State) (index sub : Nat) : Bool := s.mgmt.segs.any (fun g => g.write && g.key == entryKey index sub)

/-- R441 ranks 1 to 7: the status of the first condition a request meets; OK when it meets none. `op`: 0 READ, 1 WRITE, 2 OPEN_READ,
3 OPEN_WRITE, 4 DESCRIBE. -/
def entryStatus (s : State) (via : Via) (index sub op : Nat) : Nat :=
  if isMailbox via && clearing s then Code.tenantClearing
  else
    match findEntry index sub with
    | none => Code.noEntry
    | some e =>
      if isMailbox via && !e.ten then Code.accessDenied
      else if !isMailbox via && sealedMode s && sealedGuard index sub then Code.sealedDenied
      else if s.reset'.held && !e.aon then Code.deviceResetting
      else if ((op == 0 || op == 2) && !e.acc.reads) || ((op == 1 || op == 3) && !e.acc.writes) then Code.accessDenied
      else if op != 0 && op != 4 && writeOpen s index sub then Code.sessionBusy
      else Code.ok

/-- A response that carries a status and nothing more. -/
def answer (s : State) (via : Via) (kind index sub status : Nat) : State :=
  emit s (.kdp via { kind := kind, status := status, index := index, sub := sub })

/-- R434: SEALED_DENIED is counted. -/
def countDenied (s : State) (status : Nat) : State := if status = Code.sealedDenied then rinc s Reg.sealedDenials else s

/-- R445: a datagram of no session is discarded and counted; a mailbox channel that is not served does nothing. -/
def dropRequest (s : State) (via : Via) : State :=
  match via with
  | .mgmt _ => rinc s Reg.dtlsFailures
  | .mailbox _ => s

/-- R436: every write but that of mgmt_anchors is refused while the package is unclaimed. -/
def unclaimedRefusal (s : State) (via : Via) (index sub : Nat) : Bool :=
  !isMailbox via && s.tenancy.anchors.isEmpty && !(index == 0x5000 && sub == 0x16)

/-- R454: the request message that stands in a channel's request area. -/
def mailboxMessage (s : State) (c : Nat) : List Byte :=
  let a := rget s Reg.mailboxBase + 8192 * c + 64
  hbmRead s a (24 + min 1024 (fld (hbmWord s a) 11 0))

/-- R510: a mailbox write that takes effect is logged. -/
def logMailboxWrite (s : State) (via : Via) : State :=
  match via with
  | .mgmt _ => s
  | .mailbox c => treadLog s 5 (tget 0 s.mgmt.mailboxChip c) 0 0 (mailboxMessage s c)

/-- Whether a write's status means that it took effect: OK, or accepted for later (R423). -/
def tookEffect (status : Nat) : Bool := status == Code.ok || status == Code.keyBusyDeferred

/-- R440, R441: run the write of an entry: the refusals in rank order, then the entry's own action. -/
def applyWrite (s : State) (via : Via) (index sub : Nat) (act : State → Nat × State) : Nat × State :=
  let st := entryStatus s via index sub 1
  if st ≠ Code.ok then (st, countDenied s st)
  else
    let r := act s
    if unclaimedRefusal s via index sub then (if r.1 = Code.lengthMismatch then Code.lengthMismatch else Code.valueRefused, s)
    else (r.1, if tookEffect r.1 then logMailboxWrite r.2 via else r.2)

/-- A row that writes an entry: the write and its response. -/
def doWrite (s : State) (via : Via) (index sub : Nat) (act : State → Nat × State) : State :=
  if !viaOpen s via then dropRequest s via
  else
    let r := applyWrite s via index sub act
    answer r.2 via 2 index sub r.1

/-- A write that its rule refuses, and one that it accepts. -/
def refuse (s : State) (code : Nat) : Nat × State := (code, s)
def accept (s : State) : Nat × State := (Code.ok, s)

end Sys2Proof.Machine
end

