-- ==== Sys2Proof/Machine/Tile.lean ====
section
/-! DEFINITION. Windows as inbound traffic meets them (R109 to R113), and the end of a tile's zeroisation (R115). -/

namespace Sys2Proof.Machine

/-- R109: fields of a window entry. -/
def wOpen (w : Word) : Bool := bit w 63
def wRead (w : Word) : Bool := bit w 62
def wWrite (w : Word) : Bool := bit w 61
def wHandle (w : Word) : Nat := fld w 59 52
def wStart (w : Word) : Nat := fld w 39 20
def wEnd (w : Word) : Nat := fld w 19 0

/-- R105 inverted: the offset, in granules, at which a handle's buffer holds scratchpad granule `g`. The swizzle leaves the higher bits
unchanged, so it is its own inverse. -/
def granuleOffset (h : Word) (g : Nat) : Nat :=
  let r := g - hBase h
  if hSwizzle h = 0 then r else r - r % 64 + (r % 64 ^^^ bits r (hSwizzle h + 5) (hSwizzle h))

/-- R111: granule `g` lies in the resolved range of a window. -/
def inWindow (s : State) (t : Nat) (w : Word) (g : Nat) : Bool :=
  let h := handleOf s t (wHandle w)
  hValid h && hBase h ≤ g && g < hBase h + hSize h && wStart w ≤ granuleOffset h g && granuleOffset h g < wEnd w

/-- R111: one open window admits an access to all of some granules. WRITE admits remote writes, atomics excluded (R109). -/
def windowCovers (s : State) (t : Nat) (gs : List Nat) (write atomic : Bool) : Bool :=
  !(ptile s (physTile s t)).zeroising && !atomic &&
  (ltile s t).windows.any (fun e => wOpen e.2 && (if write then wWrite e.2 else wRead e.2) && gs.all (inWindow s t e.2))

/-- R111: one open window admits every byte of an access. -/
def windowAdmits (s : State) (t addr len : Nat) (write atomic : Bool) : Bool :=
  windowCovers s t ((List.range (cdiv (addr % 64 + max 1 len) 64)).map (fun i => addr / 64 + i)) write atomic

/-- R111, R113, R115: whether an inbound packet is admitted: a window is needed by chips 0x000 to 0xEFF other than the own package, and
nothing from another package enters a tile that zeroises. -/
def admitted (s : State) (t : Nat) (h : TileHead) : Bool :=
  if h.src = ownChip s then true
  else if h.src ≤ 0xEFF then windowAdmits s t h.addr h.len h.write h.atomic
  else !(ptile s (physTile s t)).zeroising

/-- R112: what a refused packet does at the receiver: it is counted, and a scheduled transfer raises STEP_FAULT. -/
def refuseWindow (s : State) (t : Nat) (scheduled : Bool) : State :=
  let s1 := rinc s (Reg.windowRefusals t)
  if scheduled then tileFault s1 t Code.windowClosed 0 else s1

/-- INBOUND_PACKET_HEAD (R111, R112). The outcome is WINDOW_CLOSED for a refused unscheduled access, OK for an admitted one. -/
def execInboundPacketHead (tile : Nat) (h : TileHead) (s : State) : Host.Outcome State Fault Refusal :=
  .next (if admitted s tile h then emit s (.memReply Code.ok 0 0)
    else
      let s1 := refuseWindow s tile h.scheduled
      if h.scheduled then s1 else emit s1 (.memReply Code.windowClosed 0 0))

/-- R115 steps 1 and 2: a tile starts to zeroise. -/
def startZeroise (s : State) (p : Nat) : State := setPtile s p (fun x => { x with zeroising := true, lines := [] })

/-- R467, R472: set a tile's health; a change is kept in flash. -/
def setHealth (s : State) (p : Nat) (h : Health) : State :=
  if (ptile s p).health = h then s else flashCommit (setPtile s p (fun x => { x with health := h })) .tiles

/-- The storage of a tile with contents that no rule gives (free, log 3), from draw `n` on: 14 draws. -/
def looseTile (x : PhysTile) (n : Nat) (scratch : Bool) : PhysTile :=
  { x with
    scratch := { cells := [], free := if scratch then some n else none }
    arrays := (List.range 4).map (fun i => (i, { bytes := { free := some (n + 3 * i + 1) }, acc := { free := some (n + 3 * i + 2) }, rescale := { free := some (n + 3 * i + 3) } }))
    rows := [], rowsFree := some (n + 13), rowOps := [], vecOps := [], rowFree := 0, vecFree := 0, unitAt := 0, late := [], lines := [] }

/-- R473, R83: a tile cleared: scratchpad, arrays and row state zero. -/
def clearTile (s : State) (p : Nat) : State :=
  setPtile s p (fun x => { x with scratch := {}, arrays := [], rows := [], rowsFree := none, rowOps := [], vecOps := [], rowFree := 0, vecFree := 0, unitAt := 0, late := [], lines := [] })

/-- R115: a read-back that is not zero: what the scratchpad holds is unspecified, the tile is FAILED (R472), and a tenant change in progress
ends in FAILED (R412). -/
def zeroiseFailed (s : State) (p : Nat) : State :=
  let s1 := setPtile (clearTile s p) p (fun x => { x with scratch := { cells := [], free := some s.draws } })
  let s2 := notice (setHealth { s1 with draws := s.draws + 1 } p .failed) Code.zeroiseFail 7 p p
  if s2.tenancy.state = .clearing then
    flashCommit (flashCommit { s2 with
      tenancy := { s2.tenancy with state := .failed }, reset' := { s2.reset' with marks := { s2.reset'.marks with tenFail := true } } } .tenancy) .marks
  else s2

/-- TILE_ZEROISE_DONE (R115, R472): a tile that is zeroising has finished. -/
def execTileZeroiseDone (phys : Nat) (ok : Bool) (cycles : Nat) (s : State) : Host.Outcome State Fault Refusal :=
  if !(ptile s phys).zeroising then .next s
  else
    let s1 := rset s Reg.lastZeroiseCycles (max (rget s Reg.lastZeroiseCycles) (cycles % 2 ^ 32))
    let s2 := { s1 with tenancy := { s1.tenancy with zeroising := s1.tenancy.zeroising.filter (· != phys) } }
    let s3 := if ok then clearTile s2 phys else zeroiseFailed s2 phys
    .next (setPtile s3 phys (fun x => { x with zeroising := false }))

end Sys2Proof.Machine
end

