-- ==== Sys2Proof/Machine/MemSys.lean ====
section
/-! DEFINITION. HBM, the shared cache and translation (R141 to R173): the physical map, page walks, translation buffers, atomics and
accumulate-stores, scrub, frames, regulators and partitions. -/

namespace Sys2Proof.Machine

/-! ### The physical map (R141, R151, R152) -/

/-- R151: stack of an HBM address, and its home die. -/
def stackOf (a : Nat) : Nat := a / 0xC00000000
def homeDie (a : Nat) : Nat := stackOf a / 4

/-- R152: pseudo-channel of a granule of a stack. -/
def pseudoChannel (g : Nat) : Nat := bits g 5 0 ^^^ bits g 11 6 ^^^ bits g 17 12 ^^^ bits g 23 18 ^^^ bits g 29 24

/-- A place in the package: HBM, a logical tile's scratchpad, operand storage of an array, each by byte. -/
inductive Loc where
  | hbm (a : Nat)
  | scr (tile a : Nat)
  | opnd (array off : Nat)
  deriving DecidableEq, Repr

/-- R141: what a physical address names; none outside the map. -/
def physLoc (a : Nat) : Option Loc :=
  if a < hbmBytes then some (.hbm a)
  else if 0x10000000000 ≤ a ∧ a < 0x10080000000 then some (.scr ((a - 0x10000000000) / 0x2000000) (a % 0x2000000))
  else none

/-- Bytes of HBM or of a scratchpad. -/
def locRead (s : State) (x : Loc) (n : Nat) : List Byte :=
  match x with
  | .hbm a => hbmRead s a n
  | .scr t a => scratchRead s t a n
  | .opnd _ _ => []

/-- R359: the bank accesses of reads of `n` bytes at some places. -/
def bankReads (s : State) (n : Nat) (xs : List Loc) : State :=
  xs.foldl (fun s x => match x with | .scr t a => activityAdd s (physTile s t) 3 0 (cdiv (a % 64 + n) 64) | _ => s) s

/-! ### Page walks (R142 to R144) -/

/-- R142: index of a virtual address at a level, and the page size a leaf of the level maps. -/
def walkIndex (level v : Nat) : Nat := match level with | 3 => bits v 51 39 | 2 => bits v 38 30 | 1 => bits v 29 21 | _ => bits v 20 16
def pageSize (level : Nat) : Nat := match level with | 3 => 2 ^ 39 | 2 => 2 ^ 30 | 1 => 2 ^ 21 | _ => 2 ^ 16

/-- R142: size of the table that an entry of a level points to. -/
def nextTableSize (level : Nat) : Nat := if level = 1 then 256 else 4096

/-- R144: reasons. -/
abbrev reasonNotMapped : Nat := 1
abbrev reasonRead : Nat := 2
abbrev reasonWrite : Nat := 3
abbrev reasonNoFabric : Nat := 4
abbrev reasonSealed : Nat := 5
abbrev reasonPriv : Nat := 6
abbrev reasonMalformed : Nat := 7

/-- A page walk from a table at a level (R142, R144): the leaf, or a status and reason. -/
def walk (s : State) : Nat → Nat → Nat → Except (Nat × Nat) Xlate
  | level, table, v =>
    let a := table + 8 * walkIndex level v
    match physLoc a with
    | none => .error (Code.xlateFault, reasonMalformed)
    | some x =>
      if (match x with | .hbm a => poisoned s a 8 | _ => false) then .error (Code.memPoison, 0)
      else
        let w := wordAt (locRead s x 8) 0
        let pa := fld w 47 8 * 256
        if !bit w 0 then .error (Code.xlateFault, reasonNotMapped)
        else if fld w 63 48 ≠ 0 ∨ fld w 7 6 ≠ 0 then .error (Code.xlateFault, reasonMalformed)
        else if bit w 1 then
          if level = 3 ∨ pa % pageSize level ≠ 0 ∨ (physLoc pa).isNone then .error (Code.xlateFault, reasonMalformed)
          else .ok { base := v - v % pageSize level, size := pageSize level, leaf := w }
        else
          match level with
          | 0 => .error (Code.xlateFault, reasonMalformed)
          | l + 1 =>
            if fld w 5 2 ≠ 0 ∨ pa % nextTableSize (l + 1) ≠ 0 ∨ (physLoc pa).isNone then .error (Code.xlateFault, reasonMalformed)
            else walk s l pa v

/-- The walk of a virtual address from xlate_root. -/
def pageWalk (s : State) (v : Nat) : Except (Nat × Nat) Xlate := walk s 3 (rget s Reg.xlateRoot) v

/-- What an access asks of a page (R144): read, write, whether fabric traffic reaches it, whether a copy takes it to a host adapter. -/
structure Ask where
  read : Bool := false
  write : Bool := false
  fabric : Bool := false
  toHost : Bool := false
  deriving DecidableEq, Repr

/-- R144: the permission causes at the leaf, lowest code first. -/
def leafReason (w : Word) (q : Ask) : Option Nat :=
  if q.read && !bit w 2 then some reasonRead
  else if q.write && !bit w 3 then some reasonWrite
  else if q.fabric && bit w 4 then some reasonNoFabric
  else if q.read && q.toHost && bit w 5 then some reasonSealed
  else none

/-- The physical address that a translation gives a virtual address. -/
def Xlate.phys (x : Xlate) (v : Nat) : Nat := fld x.leaf 47 8 * 256 + (v - x.base)

/-- Whether a translation covers a virtual address. -/
def Xlate.covers (x : Xlate) (v : Nat) : Bool := x.base ≤ v && v < x.base + x.size

/-- Permission and range of a translated access. -/
def finish (x : Xlate) (v : Nat) (q : Ask) : Except (Nat × Nat) Loc :=
  match leafReason x.leaf q with
  | some r => .error (Code.xlateFault, r)
  | none =>
    match physLoc (x.phys v) with
    | some l => .ok l
    | none => .error (Code.xlateFault, reasonMalformed)

/-- R145, R147: use of a buffer of translations, most recent first: a hit moves to the front; a walk enters at the front, and the least
recently used unpinned one leaves when the buffer is full. -/
def enterXlate (l : List Xlate) (cap : Nat) (x : Xlate) : List Xlate :=
  let rest := l.filter (fun y => y.base != x.base || y.size != x.size)
  if rest.length < cap then x :: rest
  else
    match rest.reverse.find? (fun y => !y.pinned) with
    | some y => x :: rest.erase y
    | none => rest

/-- Translate through a buffer: the buffer's entry if it covers the address, else a walk. -/
def throughBuffer (s : State) (l : List Xlate) (cap v : Nat) : Except (Nat × Nat) Xlate × List Xlate :=
  match l.find? (fun x => x.covers v) with
  | some x => (.ok x, enterXlate l cap x)
  | none =>
    match pageWalk s v with
    | .ok x => (.ok x, enterXlate l cap x)
    | .error e => (.error e, l)

/-- R145: a Stitcher's translation of a virtual address; a scheduled access must find a pinned entry, and reason 0 with XLATE_FAULT says
that it did not. -/
def translate (s : State) (key v : Nat) (pinnedOnly : Bool) (q : Ask) : Except (Nat × Nat) Loc × State :=
  if 2 ^ 52 ≤ v then (.error (Code.xlateFault, reasonMalformed), s)
  else
    let l := tget [] s.stitch.tlbs key
    if pinnedOnly then
      match l.find? (fun x => x.pinned && x.covers v) with
      | some x => (finish x v q, s)
      | none => (.error (Code.xlateFault, 0), s)
    else
      match throughBuffer s l 1024 v with
      | (.ok x, l') => (finish x v q, { s with stitch := { s.stitch with tlbs := tset [] s.stitch.tlbs key l' } })
      | (.error e, l') => (.error e, { s with stitch := { s.stitch with tlbs := tset [] s.stitch.tlbs key l' } })

/-- R147: translation of an inbound offset through the cache of the I/O die where it enters. -/
def translateInbound (s : State) (die v : Nat) (q : Ask) : Except (Nat × Nat) Loc × State :=
  match throughBuffer s (tget [] s.stitch.dieCaches die) 4096 v with
  | (.ok x, l') => (finish x v q, { s with stitch := { s.stitch with dieCaches := tset [] s.stitch.dieCaches die l' } })
  | (.error e, l') => (.error e, { s with stitch := { s.stitch with dieCaches := tset [] s.stitch.dieCaches die l' } })

/-- R146, R147: every unpinned entry and the translation caches go. -/
def invalidateXlate (s : State) : State :=
  { s with stitch := { s.stitch with tlbs := s.stitch.tlbs.map (fun t => (t.1, t.2.filter (·.pinned))), dieCaches := [] } }

/-- R146, R150: xlate_invalidate. -/
def wXlateInvalidate (v : Nat) (s : State) : Nat × State :=
  if v ≠ 0 then refuse s Code.valueRefused else accept (invalidateXlate s)

/-- R150: xlate_root. -/
def wXlateRoot (v : Nat) (s : State) : Nat × State :=
  if v % 65536 ≠ 0 ∨ hbmBytes < v + 65536 then refuse s Code.valueRefused else accept (invalidateXlate (rset s Reg.xlateRoot v))

/-- XLATE_INVALIDATE (R146, R150). -/
def execXlateInvalidate (via : Via) (v : Nat) (s : State) : Host.Outcome State Fault Refusal := .next (doWrite s via 0x3060 9 (wXlateInvalidate v))

/-- XLATE_ROOT_WRITE (R146, R150). -/
def execXlateRootWrite (via : Via) (v : Nat) (s : State) : Host.Outcome State Fault Refusal := .next (doWrite s via 0x3060 8 (wXlateRoot v))

/-! ### Line buffers (R114) -/

/-- R114, R155: a tile reads a poisoned line that its line buffer does not hold. -/
def tilePoisoned (s : State) (p a n : Nat) : Bool :=
  0 < n && (List.range ((a + n - 1) / 64 + 1 - a / 64)).any (fun i => poisoned s (64 * (a / 64 + i)) 64 && (tget? (ptile s p).lines (a / 64 + i)).isNone)

/-- R114: a read of 64 bytes or less by a tile: the line enters the tile's line buffer, 64 sets of 4 ways; what a full set gives up is not
part of the interface (here its lowest line). -/
def lineFill (s : State) (p a : Nat) : State :=
  let n := a / 64
  setPtile s p (fun x =>
    let set := x.lines.filter (fun l => l.1 % 64 == n % 64 && l.1 != n)
    let kept := if set.length < 4 then x.lines else
      match set with
      | l :: _ => tdel x.lines l.1
      | [] => x.lines
    { x with lines := tput kept n (hbmRead s (64 * n) 64) })

/-! ### Atomics and accumulate-stores (R155, R165 to R169) -/

/-- R167: the new value of an atomic operation on `w`-bit values. -/
def atomicNew (op w old v cmp : Nat) : Nat :=
  let o := signed w old
  let x := signed w v
  match op with
  | 0 => (old + v) % 2 ^ w
  | 1 => unsigned w (min o x)
  | 2 => unsigned w (max o x)
  | 3 => min old v
  | 4 => max old v
  | 5 => old &&& v
  | 6 => old ||| v
  | 7 => old ^^^ v
  | 8 => v
  | 9 => if old = cmp then v else old
  | _ => add32 old v

/-- R168: an atomic at its home slice: status, reason and old value, and the state. The target is a place already translated. -/
def atomicAt (s : State) (x : Option Loc) (addr op wide : Nat) (v cmp : Word) : (Nat × Nat × Nat) × State :=
  let w := if wide = 0 then 32 else 64
  if 0xA < op then ((Code.reservedSet, 0, 0), s)
  else if addr % (w / 8) ≠ 0 then ((Code.alignFault, 0, 0), s)
  else if op = 0xA ∧ wide ≠ 0 then ((Code.formatUnsupported, 0, 0), s)
  else
    match x with
    | some (.hbm a) =>
      if poisoned s a (w / 8) then ((Code.memPoison, 0, 0), s)
      else
        let old := leNat (hbmRead s a (w / 8))
        ((Code.ok, 0, old), hbmWrite s a (leBytes (w / 8) (atomicNew op w old (v.toNat % 2 ^ w) (cmp.toNat % 2 ^ w))))
    | _ => ((Code.xlateFault, reasonMalformed, 0), s)

/-- R169: whether byte enables form whole, aligned 4-byte elements. -/
def enablesWhole (en : Nat) : Bool := (List.range 16).all (fun i => let e := bits en (4 * i + 3) (4 * i); e == 0 || e == 15)

/-- R169: one element of an accumulate-store: FP32 with RNE for format 1, modulo 2^32 for format 9. -/
def accElem (fmt old v : Nat) : Nat := if fmt = 1 then add32 old v else (old + v) % 2 ^ 32

/-- R155, R169: an accumulate-store of one granule at its home slice, in one write. -/
def accStoreAt (s : State) (x : Option Loc) (fmt en : Nat) (data : List Byte) : (Nat × Nat) × State :=
  if fmt ≠ 1 ∧ fmt ≠ 9 then ((Code.formatUnsupported, 0), s)
  else if !enablesWhole (en % 2 ^ 64) then ((Code.alignFault, 0), s)
  else
    match x with
    | some (.hbm a) =>
      if a % 64 ≠ 0 then ((Code.alignFault, 0), s)
      else if poisoned s a 64 then ((Code.memPoison, 0), s)
      else ((Code.ok, 0), hbmWrite s a ((List.range 16).flatMap (fun i =>
        let old := hbmRead s (a + 4 * i) 4
        if bits en (4 * i + 3) (4 * i) = 15 then leBytes 4 (accElem fmt (leNat old) (leNat ((data.drop (4 * i)).take 4))) else old)))
    | _ => ((Code.xlateFault, reasonMalformed), s)

/-- R155: a write of part of one HBM line, by byte and mask: MEM_POISON and no change where the line is poisoned and not written
whole. Each write is (offset in the line, mask, value). -/
def lineWrite (s : State) (line : Nat) (ws : List (Nat × Nat × Nat)) : Nat × State :=
  let whole := (List.range 64).all (fun i => ws.any (fun w => w.1 == i && w.2.1 == 255))
  if poisoned s (64 * line) 64 && !whole then (Code.memPoison, s)
  else
    let old := hbmRead s (64 * line) 64
    let new := ws.foldl (fun (bs : List Byte) w => bs.set w.1 ((bs.getD w.1 0 &&& ~~~BitVec.ofNat 8 w.2.1) ||| (BitVec.ofNat 8 w.2.2 &&& BitVec.ofNat 8 w.2.1))) old
    (Code.ok, hbmWrite s (64 * line) new)

/-- HOME_SLICE_WRITE (R155, R165): one granule write at its home slice, bit i of `enables` for byte i; a
slice without clocks makes none (R372). -/
def execHomeSliceWrite (addr : Nat) (data : List Byte) (enables : Nat) (s : State) : Host.Outcome State Fault Refusal :=
  .next (clocked s (match physLoc (addr / 64 * 64) with
    | some (.hbm a) =>
      let ws := (List.range 64).filterMap (fun i => if enables.testBit i then some (i, 255, (data.getD i 0).toNat) else none)
      let r := lineWrite s (a / 64) ws
      emit r.2 (.memReply r.1 0 0)
    | _ => emit s (.memReply Code.xlateFault reasonMalformed 0)))

/-- ATOMIC (R167, R168) at the home slice of a physical address; a slice without clocks does none (R372). -/
def execAtomic (addr op width : Nat) (value compare : Word) (s : State) : Host.Outcome State Fault Refusal :=
  let r := atomicAt s (physLoc addr) addr op width value compare
  .next (clocked s (emit r.2 (.memReply r.1.1 r.1.2.1 r.1.2.2)))

/-- ACC_STORE (R169) at the home slice of a physical address. -/
def execAccStore (addr fmt : Nat) (data : List Byte) (enables : Nat) (s : State) : Host.Outcome State Fault Refusal :=
  let r := accStoreAt s (physLoc addr) fmt enables data
  .next (clocked s (emit r.2 (.memReply r.1.1 r.1.2 0)))

/-! ### Scrub (R153 to R157) -/

/-- R155: a detection poisons its line, is recorded and counted. -/
def detect (s : State) (a : Nat) : State :=
  if (tget? s.hbm.poison (a / 64)).isSome then s
  else rset { s with hbm := { s.hbm with
      poison := tput s.hbm.poison (a / 64) 1
      uncorrectable := tmod 0 s.hbm.uncorrectable (stackOf a) (· + 1) } } Reg.lastUeAddress a

/-- R430: the security engine of a line, and its key; none when encryption is off. -/
def lineKey (s : State) (a : Nat) : Option (List Byte) := s.tenancy.hbmKeys[homeDie a]?

/-- R430: what the stack holds for a line whose plaintext is `bs`, and the plaintext of what it holds. -/
def lineStored (s : State) (a : Nat) (bs : List Byte) : List Byte := match lineKey s a with | some k => xtsLine true k (a / 64) bs | none => bs
def linePlain (s : State) (a : Nat) (bs : List Byte) : List Byte := match lineKey s a with | some k => xtsLine false k (a / 64) bs | none => bs

/-- R154: the decode of a read that meets `n` symbols in error: one is corrected and counted, two or more poison the line, and what a miscorrected
line then holds is, deciphered (R430), what its readers get, and counts as a corrected one. A line modified in its slice holds newer data, and stays. -/
def decodeRead (s : State) (a n position : Nat) (miscorrected : Option (List Byte)) : State :=
  let counted := { s with hbm := { s.hbm with corrected := tmod 0 s.hbm.corrected (64 * stackOf a + position % 64) (· + 1) } }
  if n = 0 || poisoned s a 1 then s
  else if n = 1 then counted
  else
    match miscorrected with
    | some bs =>
      if n = 2 then detect s a
      else if (tget? s.hbm.dirty (a / 64)).isSome then counted
      else { counted with hbm := { counted.hbm with mem := s.hbm.mem.writeN (a / 64 * 64) (linePlain s a (padTo 64 (bs.take 64))) } }
    | none => detect s a

/-- R156: patrol goes on to the next line; a pass ends at the end of HBM. -/
def patrolAdvance (s : State) : State :=
  let next := rget s Reg.patrolPosition + 64
  if hbmBytes ≤ next then rinc (rset s Reg.patrolPosition 0) Reg.patrolPasses else rset s Reg.patrolPosition next

/-- PATROL_SCRUB_READ (R154 to R156): the line at patrol_position is decoded with the errors the event reports; of three or more, whether they are
detected or miscorrected is no value of the spec's. A corrected line holds the same bytes, so writing it back changes none. -/
def execPatrolScrubRead (symbolErrors position : Nat) (_newerWrite : Bool) (s : State) : Host.Outcome State Fault Refusal :=
  if s.hbm.patrolSuspended || s.power.clocksOff then .next s
  else
    let a := rget s Reg.patrolPosition
    .next (patrolAdvance (if 3 ≤ symbolErrors then decodeRead { s with draws := s.draws + 1 } a symbolErrors position (Config.miscorrects (a / 64) s.draws)
      else decodeRead s a symbolErrors position none))

/-- R157: the scrub writes zero to every line and clears every poison; the cache's lines and marks are discarded. -/
def scrubHbm (s : State) : State := { s with hbm := { s.hbm with mem := {}, poison := [], dirty := [] } }

/-- R157: the scrub that runs ends; a write that failed marks a stack ZEROISE_FAIL. Patrol resumes from address 0. -/
def scrubEnd (s : State) (us : Nat) (failedStack : Option Nat) : State :=
  if !s.tenancy.scrubbing then s
  else
    let s1 := scrubHbm s
    let s2 := rset (rset { s1 with
        tenancy := { s1.tenancy with scrubbing := false }
        hbm := { s1.hbm with patrolSuspended := false } } Reg.lastScrubUs us) Reg.patrolPosition 0
    match failedStack with
    | none => s2
    | some k =>
      let s3 := notice { s2 with reset' := { s2.reset' with marks := { s2.reset'.marks with stackFail := true, tenFail := true } } } Code.zeroiseFail 8 k 0
      flashCommit (flashCommit { s3 with tenancy := { s3.tenancy with state := .failed } } .tenancy) .marks

/-- HBM_SCRUB_DONE (R157). -/
def execHbmScrubDone (us : Nat) (failedStack : Option Nat) (s : State) : Host.Outcome State Fault Refusal := .next (scrubEnd s us failedStack)

/-! ### Frames (R158, R159) -/

/-- R158: `n` slots shared out in proportion to weights, to within one slot: whole shares, then one more to the largest remainders, the lower
priority first. -/
def wholeShares (n : Nat) (xs : List (Nat × Nat × Nat)) : List (Nat × Nat) :=
  let w := (xs.map (fun x => x.2.1)).sum
  let left := n - (xs.map (fun x => n * x.2.1 / w)).sum
  xs.map (fun x =>
    let before (y : Nat × Nat × Nat) : Bool := n * x.2.1 % w < n * y.2.1 % w || (n * y.2.1 % w == n * x.2.1 % w && y.1 < x.1)
    (x.1, n * x.2.1 / w + (if (xs.filter before).length < left then 1 else 0)))

/-- R158: weighted round-robin over priorities (priority, weight, waiting): one whose requests fit its share has them all, and the rest share what
is left by weight. -/
def wrr : Nat → Nat → List (Nat × Nat × Nat) → List (Nat × Nat)
  | 0, n, xs => wholeShares n xs
  | fuel + 1, n, xs =>
    let w := (xs.map (fun x => x.2.1)).sum
    match xs.find? (fun x => x.2.2 * w ≤ n * x.2.1) with
    | some x => (x.1, x.2.2) :: wrr fuel (n - x.2.2) (xs.erase x)
    | none => wholeShares n xs

/-- R159: SCHED and MAINT shares of a stack: the Last's while it runs, in ENDING too. -/
def shares (s : State) (stack : Nat) : Nat × Nat :=
  match s.last.run with
  | some r =>
    if runState s == .running || runState s == .ending then (schedShare s r.slot stack, maintShare s r.slot stack) else (0, rget s Reg.maintIdleShare)
  | none => (0, rget s Reg.maintIdleShare)

/-- R158: the slots of a frame, for requests that wait: SCHED, MAINT, UNSCHED by priority. -/
def frameOf (s : State) (stack sched maint : Nat) (unsched : List Nat) : Frame :=
  let xs := (List.range 4).map (fun p => (p, bits (rget s Reg.prioWeights) (8 * p + 7) (8 * p), unsched.getD p 0))
  let g1 := min sched (shares s stack).1
  let g2 := min maint (shares s stack).2
  let g := wrr 4 (256 - g1 - g2) xs
  let g3 := (List.range 4).map (fun p => ((g.find? (fun x => x.1 == p)).map (·.2)).getD 0)
  let free := 256 - g1 - g2 - g3.sum
  let x1 := min free (sched - g1)
  { sched := g1 + x1, maint := g2 + min (free - x1) (maint - g2), unsched := g3 }

/-- R158: the slots that a frame grants. -/
def Frame.granted (f : Frame) : Nat := f.sched + f.maint + f.unsched.sum

/-- R154: the reads that a frame grants are decoded: which of them meet errors, and what they meet, is no value of the spec's. A line modified in its slice
is read from there and not decoded. -/
def decodeFrame (s : State) (stack pc granted : Nat) : State :=
  let xs := (Config.decodes stack pc s.draws).filter (fun x => x.1 < 0x30000000 && pseudoChannel x.1 == pc && (tget? s.hbm.dirty (stack * 0x30000000 + x.1)).isNone)
  (xs.take granted).foldl (fun s x => decodeRead s (stack * 0xC00000000 + 64 * x.1) x.2.1 (x.2.2.1 % 35) x.2.2.2) { s with draws := s.draws + 1 }

/-- FRAME_START (R154, R158, R159): grant the 256 slots of a frame to the requests that wait, and decode what is read. -/
def execFrameStart (stack pc sched maint : Nat) (unsched : List Nat) (s : State) : Host.Outcome State Fault Refusal :=
  let f := frameOf s stack sched maint unsched
  .next (clocked s (decodeFrame { s with hbm := { s.hbm with frames := tput s.hbm.frames (64 * stack + pc) f } } stack pc f.granted))

/-! ### Partitions and regulators (R160 to R163) -/

/-- R172: range_count, by partition. -/
def Reg.rangeCount (p : Nat) : Reg := ⟨regKey (0x3110 + p) 4 0, 8, 0⟩

/-- R163: a partition value in force. -/
def pget (s : State) (r : Reg) : Nat := tget r.dflt s.hbm.partActive r.key

/-- R172: ranges of a partition as (START, END) in 64 KiB units, from staged values or from those in force. -/
def rangesOf (get : Reg → Nat) (p : Nat) : List (Nat × Nat) :=
  (List.range (min 8 (get (Reg.rangeCount p)))).map (fun i => let w := get (Reg.range p i); (bits w 23 0, bits w 55 32))

/-- R160: the partition that owns an address. -/
def partitionOf (s : State) (a : Nat) : Nat :=
  (((List.range 15).map (· + 1)).find? (fun p => pget s (Reg.enable p) == 1
    && (rangesOf (pget s) p).any (fun r => r.1 * 65536 ≤ a && a < r.2 * 65536))).getD 0

/-- R163: whether a commit of the staged values is accepted. -/
def commitOk (s : State) : Bool :=
  let on := ((List.range 15).map (· + 1)).filter (fun p => rget s (Reg.enable p) == 1)
  let rs := on.flatMap (fun p => (rangesOf (rget s) p).map (fun r => (p, r)))
  rs.all (fun x => x.2.1 < x.2.2) && (List.range 16).all (fun p => (rangesOf (rget s) p).all (fun r => r.2 ≤ 0xC00000)) &&
  rs.all (fun x => rs.all (fun y => x.1 == y.1 || x.2.2 ≤ y.2.1 || y.2.2 ≤ x.2.1))

/-- The burst of a partition in bucket units of 1/1,250 byte: one router cycle refills ρ units (R161). -/
def burstUnits (s : State) (p : Nat) : Nat := pget s (Reg.burstKib p) * 1024 * 1250

/-- Router cycle at the start of the beat now: 44.8 router cycles a beat (R25). -/
def routerNow (s : State) : Nat := 224 * s.clock.beat.toNat / 5

/-- R161: refill a bucket to router cycle `now`. -/
def refill (s : State) (p now : Nat) (b : Bucket) : Bucket :=
  let full := burstUnits s p
  { b with tokens := some (min full (b.tokens.getD full + pget s (Reg.rateMbps p) * (now - b.last))), last := max now b.last }

def bucketOf (s : State) (die p : Nat) : Bucket := tget {} s.hbm.buckets (16 * die + p)
def setBucket (s : State) (die p : Nat) (b : Bucket) : State := { s with hbm := { s.hbm with buckets := tset {} s.hbm.buckets (16 * die + p) b } }

/-- R163: partition_commit: every bucket, refilled to now under the old values, keeps min(T, B). -/
def wPartitionCommit (v : Nat) (s : State) : Nat × State :=
  if v ≠ 1 ∨ !commitOk s then refuse s Code.valueRefused
  else
    let staged := s.regs.filter (fun e => regKey 0x3110 1 0 ≤ e.1 && e.1 < regKey 0x3120 0 0 && e.1 / 65536 % 256 ≤ 0xC)
    let s1 := { s with hbm := { s.hbm with partActive := staged } }
    accept ((List.range 64).foldl (fun t i =>
      let b := refill s (i % 16) (routerNow s) (bucketOf s (i / 16) (i % 16))
      setBucket t (i / 16) (i % 16) { b with tokens := b.tokens.map (fun x => min x (burstUnits s1 (i % 16))) }) s1)

/-- PARTITION_COMMIT (R163). -/
def execPartitionCommit (via : Via) (v : Nat) (s : State) : Host.Outcome State Fault Refusal := .next (doWrite s via 0x3100 0xA (wPartitionCommit v))

/-- R162: REG_NOTE. -/
def regNote (delayed refused : Bool) (die p : Nat) : Nat := at' delayed.toNat 1 7 + at' refused.toNat 1 6 + at' die 2 4 + at' p 4 0

/-- R160, R325, R335: whether a write of `n` bytes touches W0 or W1 of a queue control block, or a semaphore. -/
def touchesDoor (s : State) (a n : Nat) : Bool :=
  let cut (base : Nat) : Nat × Nat := (max a base - base, min (a + n) (base + 32768) - base)
  let q := cut (rget s Reg.queueTableBase)
  let m := cut (rget s Reg.semBase)
  (q.1 < q.2 && (q.1 % 64 < 16 || q.1 / 64 < (q.2 - 1) / 64)) || m.1 < m.2

/-- R160: a request that bypasses the regulators: a doorbell or an update of a semaphore, at the place of one. -/
def bypasses (s : State) (r : RegRequest) : Bool := r.door && touchesDoor s r.addr r.bytes

/-- R161: what a regulator says of a request that arrives: admitted, waiting, or refused. -/
inductive Metered where
  | admitted
  | waits
  | refused (note : Nat)
  deriving DecidableEq, Repr

/-- R160, R161: a request reaches its regulator slice in router cycle `now`. -/
def regulate (s : State) (die now : Nat) (r : RegRequest) : Metered × State :=
  let p := partitionOf s r.addr
  if bypasses s r ∨ pget s (Reg.rateMbps p) = 0xFFFFFFFF then (.admitted, s)
  else
    let b := refill s p now (bucketOf s die p)
    let t := b.tokens.getD 0
    if b.fifo.isEmpty ∧ 1250 * r.bytes ≤ t then (.admitted, setBucket s die p { b with tokens := some (t - 1250 * r.bytes) })
    else if rget s Reg.holdPlaces ≤ b.fifo.length then (.refused (regNote false true die p), rinc (setBucket s die p b) (Reg.refusedRequests p))
    else (.waits, setBucket s die p { b with fifo := b.fifo ++ [⟨r, now⟩] })

/-- R187: a request of an operation that has ended leaves the FIFO it waits in. -/
def forgetRequest (s : State) (id : Nat) : State :=
  { s with hbm := { s.hbm with buckets := s.hbm.buckets.map (fun b => (b.1, { b.2 with fifo := b.2.fifo.filter (fun h => h.req.id != id) })) } }

/-- R161: the head of a FIFO is admitted once its bucket holds enough tokens. -/
def regAdmit (s : State) (die p now : Nat) : Option Held × State :=
  let b := refill s p now (bucketOf s die p)
  match b.fifo with
  | [] => (none, s)
  | h :: rest =>
    let unmetered := pget s (Reg.rateMbps p) = 0xFFFFFFFF
    let t := b.tokens.getD 0
    if 1250 * h.req.bytes ≤ t ∨ unmetered then
      let s1 := setBucket s die p { b with fifo := rest, tokens := some (if unmetered then t else t - 1250 * h.req.bytes) }
      (some h, if h.stamp < now then rinc s1 (Reg.delayedRequests p) else s1)
    else (none, setBucket s die p b)

/-- R161: the admission loop of the routine: heads leave while the bucket holds their bytes. -/
def regAdmitAll (die p now : Nat) : Nat → State → List Held × State
  | 0, s => ([], s)
  | n + 1, s =>
    match regAdmit s die p now with
    | (some h, s1) => let r := regAdmitAll die p now n s1; (h :: r.1, r.2)
    | (none, s1) => ([], s1)

/-- R161: the whole routine at `now`: the requests it admits, those it refuses, held for hold_limit_us, and the state. -/
def regExpire (s : State) (die p now : Nat) : List Held × List Held × State :=
  let r := regAdmitAll die p now (bucketOf s die p).fifo.length s
  let b := bucketOf r.2 die p
  let late (h : Held) : Bool := h.stamp + 1250 * rget s Reg.holdLimitUs ≤ now
  let gone := b.fifo.filter late
  (r.1, gone, radd (setBucket r.2 die p { b with fifo := b.fifo.filter (fun h => !late h) }) (Reg.refusedRequests p) gone.length)

end Sys2Proof.Machine
end

