-- ==== Sys2Proof/Machine/Copy.lean ====
section
/-! DEFINITION. The structures of a copy and its walk (R119 to R138): fields, the checks of R120, element positions, the accesses in walk
order, and the cycles of a copy inside its own tile. -/

namespace Sys2Proof.Machine

/-! ### The Stitcher descriptor (R121) -/

def CopyRec.kind (c : CopyRec) : Nat := fld (nth c.sd 0) 63 60
def CopyRec.isFill (c : CopyRec) : Bool := c.kind == 1
def CopyRec.isAcc (c : CopyRec) : Bool := c.kind == 2
def CopyRec.mark (c : CopyRec) : Bool := bit (nth c.sd 0) 59
def CopyRec.scales (c : CopyRec) : Bool := bit (nth c.sd 0) 58
def sdSrcTd (sd : List Word) : Nat := fld (nth sd 0) 57 50
def sdDstTd (sd : List Word) : Nat := fld (nth sd 0) 49 42
def sdPattern (sd : List Word) : Nat := fld (nth sd 0) 41 35
def sdScalePattern (sd : List Word) : Nat := fld (nth sd 0) 34 28
def CopyRec.deadline (c : CopyRec) : Nat := fld (nth c.sd 0) 27 12
def CopyRec.sem (c : CopyRec) : Nat := fld (nth c.sd 0) 11 0
def CopyRec.signals (c : CopyRec) : Bool := bit (nth c.sd 1) 63

/-- A signed origin along dimension `d`, from word `base + d / 2`. -/
def origin (sd : List Word) (base d : Nat) : Int :=
  signed 32 (if d % 2 = 0 then fld (nth sd (base + d / 2)) 31 0 else fld (nth sd (base + d / 2)) 63 32)
def srcOrigin (sd : List Word) : List Int := (List.range 6).map (origin sd 2)
def dstOrigin (sd : List Word) : List Int := (List.range 6).map (origin sd 5)

/-! ### Tensor descriptors (R123, R124) -/

def tdFmt (t : List Word) : Nat := fld (nth t 0) 63 60
def tdDims (t : List Word) : Nat := fld (nth t 0) 59 57
def tdKind (t : List Word) : Nat := fld (nth t 0) 56 54
def tdScaleDim (t : List Word) : Nat := fld (nth t 0) 53 51
def tdScaleTd (t : List Word) : Nat := fld (nth t 0) 50 43
def tdFill (t : List Word) : Nat := fld (nth t 0) 31 0
def tdBase (t : List Word) : Word := nth t 1
def tdChip (t : List Word) : Nat := fld (tdBase t) 63 52
def tdHandle (t : List Word) : Nat := fld (tdBase t) 63 56

/-- R123: base kinds. -/
abbrev kHandle : Nat := 0
abbrev kVirtual : Nat := 1
abbrev kFabric : Nat := 2
abbrev kOperand : Nat := 3
abbrev kPhysical : Nat := 4

/-- Byte offset or address that BASE gives. -/
def tdOff (t : List Word) : Nat :=
  match tdKind t with
  | 0 => fld (tdBase t) 24 0
  | 1 => fld (tdBase t) 51 0
  | 2 => fld (tdBase t) 51 0
  | 4 => fld (tdBase t) 40 0
  | _ => 0

/-- Array and area of an OPERAND base. -/
def tdArray (t : List Word) : Nat := fld (tdBase t) 5 4
def tdArea (t : List Word) : Nat := fld (tdBase t) 3 0

def tdExtSel (t : List Word) (d : Nat) : Nat := if d % 2 = 0 then fld (nth t (2 + d / 2)) 63 62 else fld (nth t (2 + d / 2)) 37 36
def tdExtent (t : List Word) (d : Nat) : Nat := if d % 2 = 0 then fld (nth t (2 + d / 2)) 61 38 else fld (nth t (2 + d / 2)) 35 12
def tdStride (t : List Word) (d : Nat) : Int :=
  match d with
  | 1 => signed 32 (fld (nth t 5) 63 32)
  | 2 => signed 32 (fld (nth t 5) 31 0)
  | 3 => signed 32 (fld (nth t 6) 63 32)
  | 4 => signed 32 (fld (nth t 6) 31 0)
  | 5 => signed 32 (fld (nth t 7) 63 32)
  | _ => 0

/-- R124: the extent of a dimension under runtime shapes `s0` and `s1`. -/
def extentOf (t : List Word) (s0 s1 d : Nat) : Nat :=
  match tdExtSel t d with
  | 1 => min s0 (tdExtent t d)
  | 2 => min s1 (tdExtent t d)
  | _ => tdExtent t d

/-- R124: whether an element is in bounds under given extents. -/
def inBoundsBy (t : List Word) (ext : Nat → Nat) (x : List Int) : Bool :=
  (List.range 6).all (fun d => let v := x.getD d 0; if d < tdDims t then 0 ≤ v && v < ext d else v == 0)
def inBounds (t : List Word) (s0 s1 : Nat) (x : List Int) : Bool := inBoundsBy t (extentOf t s0 s1) x

/-- R124: bit address of an element from the start of what BASE names. -/
def bitAddr (t : List Word) (x : List Int) : Int :=
  let rows := ((List.range (tdDims t)).filter (0 < ·)).foldl (fun (a : Int) d => a + x.getD d 0 * tdStride t d) (tdOff t : Int)
  8 * rows + x.getD 0 0 * (fmtBits (tdFmt t) : Int)

/-- Granules that an element touches. -/
def elemGranules (t : List Word) (x : List Int) : List Int :=
  let a := bitAddr t x
  let g := a / 512
  let h := (a + (fmtBits (tdFmt t) : Int) - 1) / 512
  if g = h then [g] else [g, h]

/-- Keep the first of each value. -/
def dedup : List Int → List Int
  | [] => []
  | g :: gs => g :: (dedup gs).filter (· != g)

/-! ### Pattern entries (R127, R128) -/

def patOrder (p : List Word) (u : Nat) : Nat := fld (nth p 0) (3 * u + 48) (3 * u + 46)
def patInner (p : List Word) : Nat := fld (nth p 0) 45 44
def lvCount (p : List Word) (n : Nat) : Nat := fld (nth p (n + 1)) 63 48
def lvSrcDim (p : List Word) (n : Nat) : Nat := fld (nth p (n + 1)) 47 45
def lvDstDim (p : List Word) (n : Nat) : Nat := fld (nth p (n + 1)) 44 42
def lvSrcStride (p : List Word) (n : Nat) : Int := signed 21 (fld (nth p (n + 1)) 41 21)
def lvDstStride (p : List Word) (n : Nat) : Int := signed 21 (fld (nth p (n + 1)) 20 0)

/-- Add to one coordinate. -/
def addDim (x : List Int) (d : Nat) (v : Int) : List Int := x.set d (x.getD d 0 + v)

/-- R128: the counters of the outer loops at iteration `n`, innermost first. -/
def digitsOf : List Nat → Nat → List Nat
  | [], _ => []
  | c :: cs, n => n % max 1 c :: digitsOf cs (n / max 1 c)

/-- R128: the origins at outer iteration `n`. -/
def outerAt (p : List Word) (so d0 : List Int) (n : Nat) : List Int × List Int :=
  let us := [1, 2, 3, 4, 5]
  let is := digitsOf (us.map (fun u => lvCount p (patOrder p u))) n
  (us.zip is).foldl (fun (x : List Int × List Int) ui =>
    let lv := patOrder p ui.1
    (addDim x.1 (lvSrcDim p lv) (ui.2 * lvSrcStride p lv), addDim x.2 (lvDstDim p lv) (ui.2 * lvDstStride p lv))) (so, d0)

def outerCount (p : List Word) : Nat := [1, 2, 3, 4, 5].foldl (fun n u => n * lvCount p (patOrder p u)) 1

/-- One access of a copy before its cycles are known. -/
structure Step where
  /-- R128: source positions that the access reads, and destination positions that it writes. -/
  srcs : List (List Int) := []
  dsts : List (List Int) := []
  /-- R135: the one destination granule that an access of a RUN writes. -/
  gran : Option Int := none
  /-- Elements in front whose first bits an earlier access wrote. -/
  skip : Nat := 0
  deriving DecidableEq, Repr

/-- R128, R135: the accesses of a RUN of `n` elements, one for each destination granule that it touches. An element across two granules
belongs to the access of each. -/
def runSteps (dst : List Word) (n : Nat) (sc dc : List Int) : List Step :=
  let w : Int := fmtBits (tdFmt dst)
  let a := bitAddr dst dc
  let last := (a + n * w - 1) / 512
  if n = 0 then []
  else
    (List.range (last - a / 512 + 1).toNat).map (fun (j : Nat) =>
      let g := a / 512 + j
      let lo := (max 0 ((512 * g - a) / w)).toNat
      let hi := min n ((512 * (g + 1) - a + w - 1) / w).toNat
      let es := (List.range (hi - lo)).map (lo + ·)
      { srcs := es.map (fun (e : Nat) => addDim sc 0 e), dsts := es.map (fun (e : Nat) => addDim dc 0 e), gran := some g
        skip := if a + lo * w < 512 * g then 1 else 0 })

/-- R128, R135: the accesses of one innermost loop: a run by destination granules; row by row of a transposed block, where access `j` reads
source row `j` and writes destination row `j` (log 82); one element each. -/
def innerSteps (p : List Word) (dst : List Word) (sc dc : List Int) : List Step :=
  let lv := patOrder p 0
  let n := lvCount p lv
  match patInner p with
  | 0 => runSteps dst n sc dc
  | 1 => (List.range n).map (fun (j : Nat) =>
      { srcs := (List.range n).map (fun (c : Nat) => addDim (addDim sc 0 c) (lvSrcDim p lv) (j * lvSrcStride p lv))
        dsts := (List.range n).map (fun (r : Nat) => addDim (addDim dc 0 r) (lvDstDim p lv) (j * lvDstStride p lv)) })
  | _ => (List.range n).map (fun (e : Nat) =>
      { srcs := [addDim sc (lvSrcDim p lv) (e * lvSrcStride p lv)], dsts := [addDim dc (lvDstDim p lv) (e * lvDstStride p lv)] })

/-- The accesses of a walk, in walk order. -/
def walkSteps (p dst : List Word) (so d0 : List Int) : List Step :=
  (List.range (outerCount p)).flatMap (fun n => let x := outerAt p so d0 n; innerSteps p dst x.1 x.2)

/-- One access of a copy: what it reads and writes, whether it belongs to the scale walk, the number of accesses that form one block (1, or the
edge of a transposed block) and its place in it, and the cycles after the issue cycle in which a copy of fixed timing reads and writes
it (R136). -/
structure Access extends Step where
  scale : Bool
  edge : Nat
  place : Nat
  reads : Nat
  cycle : Nat
  deriving DecidableEq, Repr

/-! ### Fixed timing (R136) -/

/-- Scratchpad banks that granules of an end lie in. -/
def granuleBanks (t : List Word) (h : Word) (gs : List Int) : List Nat :=
  if tdKind t != kHandle then [] else gs.map (fun g => resolve h (64 * g.toNat) / 64 % 64)

/-- R130, R135: source granules of the part of an element at `x` that destination granule `g` takes, the element going to `y`. -/
def partGranules (t dst : List Word) (g : Int) (x y : List Int) : List Int :=
  let a := bitAddr t x - bitAddr dst y
  let lo := max (bitAddr dst y) (512 * g)
  let hi := min (bitAddr dst y + (fmtBits (tdFmt dst) : Int)) (512 * (g + 1))
  if hi ≤ lo then [] else if (a + lo) / 512 = (a + hi - 1) / 512 then [(a + lo) / 512] else [(a + lo) / 512, (a + hi - 1) / 512]

/-- Granules that an access reads, and those that it writes, of the elements in bounds by given extents. Of an element across two destination granules
an access reads the part that its own granule takes. -/
def Step.srcGranules (x : Step) (t dst : List Word) (ext : Nat → Nat) : List Int :=
  match x.gran with
  | some g => dedup (((x.srcs.zip x.dsts).filter (fun p => inBoundsBy t ext p.1)).flatMap (fun p => partGranules t dst g p.1 p.2))
  | none => dedup ((x.srcs.filter (inBoundsBy t ext)).flatMap (elemGranules t))
def Step.dstGranules (x : Step) (t : List Word) (ext : Nat → Nat) : List Int :=
  match x.gran with
  | some g => if x.dsts.any (inBoundsBy t ext) then [g] else []
  | none => dedup ((x.dsts.filter (inBoundsBy t ext)).flatMap (elemGranules t))

/-- R136: the group of each access. State: group number, accesses in it, banks read, banks written. -/
def groupAccesses (rate : Nat) : Nat → Nat → List Nat → List Nat → List (List Nat × List Nat) → List Nat
  | _, _, _, _, [] => []
  | j, k, rb, wb, (r, w) :: rest =>
    if k < rate && r.all (fun b => !rb.contains b) && w.all (fun b => !wb.contains b) then
      j :: groupAccesses rate j (k + 1) (r ++ rb) (w ++ wb) rest
    else (if k = 0 then j else j + 1) :: groupAccesses rate (if k = 0 then j else j + 1) 1 r w rest

/-- The accesses of a walk with their cycles, numbered from group `g0`, and the number of groups after it. Banks are those of the EXTENT
fields, so that runtime shapes change no time. -/
def walkAccesses (fill scale : Bool) (p src dst : List Word) (hs hd : Word) (steps : List Step) (g0 : Nat) : List Access × Nat :=
  if patInner p = 1 then
    let n := max 1 (lvCount p (patOrder p 0))
    (steps.zipIdx.map (fun x =>
      { toStep := x.1, scale := scale, edge := n, place := x.2 % n, reads := 2 + g0 + x.2, cycle := 4 + g0 + (x.2 / n + 1) * n + x.2 % n }), g0 + steps.length)
  else
    let bs := steps.map (fun a => ((if fill then [] else granuleBanks src hs (a.srcGranules src dst (tdExtent src))),
      granuleBanks dst hd (a.dstGranules dst (tdExtent dst))))
    let gs := groupAccesses (if patInner p = 0 then 8 else 1) 0 0 [] [] bs
    ((steps.zip gs).map (fun x => { toStep := x.1, scale := scale, edge := 1, place := 0, reads := 2 + g0 + x.2, cycle := 5 + g0 + x.2 }),
      g0 + (match gs.getLast? with | some j => j + 1 | none => 0))

/-- R126: the origins of the scale walk. -/
def scaleOrigin (t : List Word) (x : List Int) : List Int := x.set (tdScaleDim t) (x.getD (tdScaleDim t) 0 / 32)

/-- Every access of a copy, in walk order, the scale walk after the element walk (R126). -/
def CopyRec.accesses (c : CopyRec) : List Access :=
  let h (i : Nat) : Word := nth c.handles i
  let e := walkAccesses c.isFill false c.pat c.src c.dst (h 0) (h 1) (walkSteps c.pat c.dst (srcOrigin c.sd) (dstOrigin c.sd)) 0
  if c.scales then
    e.1 ++ (walkAccesses c.isFill true c.scalePat c.scaleSrc c.scaleDst (h 2) (h 3)
      (walkSteps c.scalePat c.scaleDst (scaleOrigin c.src (srcOrigin c.sd)) (scaleOrigin c.dst (dstOrigin c.sd))) e.2).1
  else e.1

/-- The ends of a walk. -/
def CopyRec.srcOf (c : CopyRec) (scale : Bool) : List Word := if scale then c.scaleSrc else c.src
def CopyRec.dstOf (c : CopyRec) (scale : Bool) : List Word := if scale then c.scaleDst else c.dst
def CopyRec.srcHandle (c : CopyRec) (scale : Bool) : Word := nth c.handles (if scale then 2 else 0)
def CopyRec.dstHandle (c : CopyRec) (scale : Bool) : Word := nth c.handles (if scale then 3 else 1)

/-- The ends that the copy uses, with whether each is a destination and its handle (R119, R122). -/
def CopyRec.ends (c : CopyRec) : List (List Word × Bool × Word) :=
  (if c.isFill then [] else [(c.src, false, nth c.handles 0)]) ++ [(c.dst, true, nth c.handles 1)]
    ++ (if c.scales then (if c.isFill then [] else [(c.scaleSrc, false, nth c.handles 2)]) ++ [(c.scaleDst, true, nth c.handles 3)] else [])

/-- The walks: source end if read, destination, pattern, origins. -/
def CopyRec.walks (c : CopyRec) : List (Option (List Word) × List Word × List Word × List Int × List Int) :=
  let so := srcOrigin c.sd
  let d0 := dstOrigin c.sd
  [((if c.isFill then none else some c.src), c.dst, c.pat, so, d0)]
    ++ (if c.scales then [((if c.isFill then none else some c.scaleSrc), c.scaleDst, c.scalePat, scaleOrigin c.src so, scaleOrigin c.dst d0)] else [])

/-- R133: fabric class. -/
def CopyRec.fabricClass (c : CopyRec) : Bool := c.ends.any (fun e => tdKind e.1 == kFabric)

/-- R136, R138: an end outside the tile. -/
def CopyRec.outside (c : CopyRec) : Bool := c.ends.any (fun e => tdKind e.1 != kHandle && tdKind e.1 != kOperand)

/-! ### The checks of R120 -/

/-- RSV bits and reserved encodings of the descriptor, an end, a pattern (R120 to R127). -/
def sdReserved (sd : List Word) : Bool := 2 < fld (nth sd 0) 63 60 || fld (nth sd 1) 62 0 != 0
def tdReserved (t : List Word) : Bool :=
  fld (nth t 0) 42 32 != 0 || fld (nth t 2) 11 0 != 0 || fld (nth t 3) 11 0 != 0 || fld (nth t 4) 11 0 != 0 || fld (nth t 7) 31 0 != 0
    || 4 < tdKind t || (List.range (min 6 (tdDims t))).any (fun d => tdExtSel t d == 3)
    || (match tdKind t with
        | 0 => fld (tdBase t) 55 25 != 0
        | 1 => fld (tdBase t) 63 52 != 0
        | 3 => fld (tdBase t) 63 6 != 0 || 1 < fld (tdBase t) 3 2
        | 4 => fld (tdBase t) 63 41 != 0
        | _ => false)
def patReserved (p : List Word) : Bool := fld (nth p 0) 43 0 != 0 || nth p 7 != 0 || patInner p == 3

/-- R127, R129, R120: a pattern outside its ranges. -/
def patInvalid (p : List Word) : Bool :=
  let lv := patOrder p 0
  !((List.range 6).all (fun l => (List.range 6).any (fun u => patOrder p u == l)))
    || (List.range 6).any (fun n => lvCount p n == 0 || 5 < lvSrcDim p n || 5 < lvDstDim p n)
    || (match patInner p with
        | 0 => lvSrcDim p lv != 0 || lvDstDim p lv != 0 || lvSrcStride p lv != 1 || lvDstStride p lv != 1
        | 1 => lvSrcDim p lv == 0 || lvDstDim p lv == 0
        | _ => false)

/-- R125: formats that an operand buffer's data area accepts: those of some pair of R53. -/
def operandFmt (f : Nat) : Bool := (List.range 13).any (fun g => (pairOf f g).isSome || (pairOf g f).isSome)

/-- R125: an OPERAND end that breaks its rules. -/
def operandInvalid (t : List Word) : Bool :=
  let f := tdFmt t
  let pitch : Int := match tdArea t % 2, tdArea t / 4 with
    | 0, 0 => 512
    | 0, _ => if (6 ≤ f && f ≤ 8) || f == 0xB then 256 else 512
    | _, 0 => 8
    | _, _ => 128
  tdDims t != 2 || tdStride t 1 != pitch

/-- R44, R125: a format that an operand area does not accept. -/
def operandFmtBad (t : List Word) : Bool := !(if tdArea t % 2 = 0 then operandFmt (tdFmt t) else tdFmt t == 0xC)

/-- R132: the footprint of an end, from the EXTENT fields; none when it is empty. -/
def footprint (t : List Word) : Option (Int × Int) :=
  let ds := List.range (tdDims t)
  if ds.any (fun d => tdExtent t d == 0) then none
  else
    let span (f : Int → Int) : Int := (ds.filter (0 < ·)).foldl (fun a d => a + f (((tdExtent t d : Int) - 1) * tdStride t d)) (tdOff t : Int)
    some (span (fun v => min 0 v), span (fun v => max 0 v) + (packedBytes (tdFmt t) (tdExtent t 0) : Int))

/-- R132: an end whose footprint leaves its handle or area. -/
def footprintBad (t : List Word) (h : Word) : Bool :=
  let size : Int := if tdKind t = kHandle then (64 * hSize h : Nat) else (areaSize (tdArea t) : Nat)
  match footprint t with
  | none => false
  | some f => f.1 < 0 || size < f.2

/-- R120 to R132: an end outside its ranges; `isDst` and `c` say how the copy uses it. -/
def endInvalid (c : CopyRec) (e : List Word × Bool × Word) : Bool :=
  let t := e.1
  tdDims t == 0 || tdDims t == 7 || 5 < tdScaleDim t
    || (tdFmt t != 0 && 2 ^ fmtBits (tdFmt t) ≤ tdFill t)
    || (tdKind t == kOperand && (!e.2.1 || !c.sched || operandInvalid t))
    || (tdKind t == kHandle && (c.priv || !hValid e.2.2))
    || ((tdKind t == kHandle || tdKind t == kOperand) && footprintBad t e.2.2)
    || (!c.sched && (List.range 6).any (fun d => tdExtSel t d != 0))

/-- R44, R122, R125, R126, R129, R49: a format that the copy cannot take. SCALES = 1 in a copy of a 256-byte block breaks R119 and is checked there. -/
def formatBad (c : CopyRec) : Bool :=
  let fmts := c.ends.map (fun e => tdFmt e.1)
  fmts.any (fun f => !fmtAssigned f)
    || c.ends.any (fun e => e.2.1 && c.sched && tdKind e.1 == kOperand && operandFmtBad e.1)
    || (c.kind == 0 && tdFmt c.src != tdFmt c.dst)
    || (c.isAcc && !((tdFmt c.src == 1 && tdFmt c.dst == 1) || (tdFmt c.src == 9 && tdFmt c.dst == 9)))
    || (c.sched && c.scales && (!isMx (tdFmt c.dst) || (!c.isFill && !isMx (tdFmt c.src))))
    || (c.sched && c.scales && (tdScaleTd c.dst == 0xFF || tdFmt c.scaleDst != 0xC || (dstOrigin c.sd).getD (tdScaleDim c.dst) 0 % 32 != 0
        || (!c.isFill && (tdScaleTd c.src == 0xFF || tdFmt c.scaleSrc != 0xC || (srcOrigin c.sd).getD (tdScaleDim c.src) 0 % 32 != 0))))
    || c.walks.any (fun w => ((match w.1 with | some t => [t] | none => []) ++ [w.2.1]).any (fun t =>
        let b := fmtBits (tdFmt t)
        match patInner w.2.2.1 with
        | 1 => !(b == 8 || b == 16 || b == 32 || b == 64)
        | 2 => b < 8
        | _ => false))

/-- R129: the block edge of TRANSPOSE, and R122: ACC_ADD runs only. -/
def innerBad (c : CopyRec) : Bool :=
  (c.isAcc && patInner c.pat != 0)
    || c.walks.any (fun w => patInner w.2.2.1 == 1 && lvCount w.2.2.1 (patOrder w.2.2.1 0) * fmtBits (tdFmt w.2.1) != 512)

/-- R133, R134, R129: a walk whose alignment fails. -/
def alignBad (c : CopyRec) (w : Option (List Word) × List Word × List Word × List Int × List Int) : Bool :=
  let p := w.2.2.1
  let ends : List (List Word × List Int × (Nat → Nat) × (Nat → Int)) :=
    (match w.1 with | some t => [(t, w.2.2.2.1, lvSrcDim p, lvSrcStride p)] | none => []) ++ [(w.2.1, w.2.2.2.2, lvDstDim p, lvDstStride p)]
  let lv0 := patOrder p 0
  let outer := [1, 2, 3, 4, 5].map (patOrder p)
  ends.any (fun e =>
    let t := e.1
    let b : Int := fmtBits (tdFmt t)
    let unit : Int := if b = 4 then 2 else if b = 6 then 4 else 1
    let o0 := e.2.1.getD 0 0
    let dim0 := (outer.filter (fun l => e.2.2.1 l == 0)).map e.2.2.2
    (tdKind t != kOperand && tdOff t % 64 != 0)
      || o0 % unit != 0 || dim0.any (fun v => v % unit != 0) || (patInner p == 0 && (lvCount p lv0 : Int) % unit != 0)
      || (c.fabricClass && ((List.range 6).any (fun d => tdStride t d % 64 != 0) || o0 * b % 512 != 0 || dim0.any (fun v => v * b % 512 != 0)
          || (patInner p == 0 && (lvCount p lv0 : Int) * b % 512 != 0) || patInner p == 2)))

/-- R120: the code of the first failing check, in the order of the codes (log 82); OK when every check holds. `badKind`: the command asks for another KIND
(R333). -/
def checkCopy (c : CopyRec) (badKind : Bool) : Nat :=
  if sdReserved c.sd || c.ends.any (fun e => tdReserved e.1) || c.walks.any (fun w => patReserved w.2.2.1) then Code.reservedSet
  else if formatBad c then Code.formatUnsupported
  else if badKind || c.walks.any (fun w => patInvalid w.2.2.1) || innerBad c || c.ends.any (endInvalid c)
      || (!c.sched && (c.scales || c.deadline != 0)) || (c.sched && c.outside && c.deadline == 0) then Code.descriptorInvalid
  else if c.walks.any (alignBad c) then Code.alignFault
  else Code.ok

/-- R120: what a failing check of a scheduled copy refuses the load with. -/
def loadCopyCode (c : CopyRec) : Nat := let k := checkCopy c false; if k = Code.descriptorInvalid then Code.scheduleInvalid else k

/-- A scheduled copy as tables give it: descriptor `sd` of a tile, from its sections by index. -/
def schedCopy (sd : List Word) (td pat : Nat → List Word) (handle : Nat → Word) : CopyRec :=
  let src := td (sdSrcTd sd)
  let dst := td (sdDstTd sd)
  let scales := bit (nth sd 0) 58
  let ss := if scales && tdScaleTd src != 0xFF then td (tdScaleTd src) else []
  let ds := if scales && tdScaleTd dst != 0xFF then td (tdScaleTd dst) else []
  { sd := sd, src := src, dst := dst, pat := pat (sdPattern sd), scaleSrc := ss, scaleDst := ds
    scalePat := if scales then pat (sdScalePattern sd) else []
    handles := [src, dst, ss, ds].map (fun t => if tdKind t = kHandle then handle (tdHandle t) else 0)
    sched := true }

end Sys2Proof.Machine
end

