-- ==== Sys2Proof/Machine/Stitch.lean ====
section
/-! DEFINITION. Stitchers (R117 to R140): starting a copy, performing its accesses, fabric ends, transmit buffers, completion. -/

namespace Sys2Proof.Machine

/-! ### The rack window (R179, R180) -/

/-- R276: chip of a member of the committed plan. -/
def memberChip (s : State) (m : Nat) : Option Nat :=
  let v := leNat ((s.plan.committed.drop (64 + 2 * m)).take 2)
  if s.plan.committed.length < 128 || 32 ≤ m || v == 0xFFFF then none else some v

/-- R408, R434: a chip that a privileged request may not name in SEALED mode. -/
def sealedOut (s : State) (chip : Nat) : Bool := sealedMode s && chip != ownChip s && !s.tenancy.vals.peers.contains chip

/-- Where a fabric address of the source leads: this package, or a chip with an offset and the privileged mark. -/
inductive Target where
  | here (a : Nat)
  | there (chip off : Nat) (priv : Bool)
  deriving DecidableEq, Repr

/-- R174, R175, R144, R179: a fabric address at its source; `g` is a byte offset that may have left the 52 bits. -/
def fabricTarget (s : State) (priv : Bool) (chip : Nat) (off : Int) : Except (Nat × Nat) Target :=
  if chip = 0xFFE ∨ (0xF80 ≤ chip ∧ chip ≤ 0xFFD) ∨ (chip = 0xFFF ∧ !priv) then .error (Code.xlateFault, reasonPriv)
  else if off < 0 ∨ (2 : Int) ^ 52 ≤ off then .error (Code.xlateFault, reasonMalformed)
  else if chip = 0xFFF then
    let o := off.toNat
    if 0x180000000000 ≤ o then .error (Code.xlateFault, reasonMalformed)
    else
      match memberChip s (o / hbmBytes) with
      | none => .error (Code.xlateFault, reasonMalformed)
      | some n =>
        if sealedOut s n then .error (Code.xlateFault, reasonPriv)
        else if n = ownChip s then .ok (.here (o % hbmBytes))
        else .ok (.there n (o % hbmBytes) true)
  else if priv && sealedOut s chip then .error (Code.xlateFault, reasonPriv)
  else .ok (.there chip off.toNat false)

/-! ### Contexts -/

/-- R117: context numbers. -/
def ctxKey (priv sched : Bool) (t st : Nat) : Nat := if priv then 512 + t else 2 * (4 * t + st) + (if sched then 0 else 1)
def ctxOf (s : State) (k : Nat) : Option CopyRec := tget? s.stitch.ctxs k
def putCtx (s : State) (k : Nat) (c : CopyRec) : State := { s with stitch := { s.stitch with ctxs := tput s.stitch.ctxs k c } }
def delCtx (s : State) (k : Nat) : State := { s with stitch := { s.stitch with ctxs := tdel s.stitch.ctxs k } }

/-- Change the copy of a context, if it runs one. -/
def modCtx (s : State) (k : Nat) (f : CopyRec → CopyRec) : State :=
  match ctxOf s k with
  | some c => putCtx s k (f c)
  | none => s

def CopyRec.key (c : CopyRec) : Nat := ctxKey c.priv c.sched c.tile c.stitcher

/-- R145: the Stitcher's translation buffer, and R482: the unit of its fault records. -/
def CopyRec.unit (c : CopyRec) : Nat := if c.priv then 256 + c.tile else 4 * c.tile + c.stitcher

/-- R508: W2 of STITCH_START and STITCH_DONE. -/
def CopyRec.traceW2 (c : CopyRec) (status : Nat) : Word :=
  word ((if c.priv then at' 1 1 54 + at' c.tile 3 51 else at' c.tile 6 58 + at' c.stitcher 2 56 + at' (!c.sched).toNat 1 55)
    + at' c.desc 12 36 + at' status 8 24)

/-! ### Faults and notes (R140, R144, R162) -/

/-- R140: a copy meets a fault at walk index `i`. A scheduled copy raises STEP_FAULT; its detail is the descriptor index with the reason
above it, or for an unpinned page the virtual address (R145, log 12). Any other keeps the status of its first fault in walk order. -/
def failCopy (s : State) (k : Nat) (c : CopyRec) (i st reason va : Nat) : State :=
  if c.sched then
    let detail := if st = Code.xlateFault ∧ reason = 0 then va else c.desc + reason * 2 ^ 32
    stepFault (putCtx s k { c with status := st, reason := reason }) st 3 c.unit none detail false
  else if c.status = 0 ∨ i < c.faultAt then putCtx s k { c with status := st, reason := reason, faultAt := i }
  else s

/-- R162: keep the note of the first refused request, else of the first delayed one. -/
def CopyRec.withNote (c : CopyRec) (i note : Nat) : CopyRec :=
  let refused (n : Nat) : Bool := bits n 6 6 == 1
  if note = 0 then c
  else if c.note = 0 ∨ (refused note && !refused c.note) ∨ (refused note == refused c.note && i < c.noteAt) then { c with note := note, noteAt := i }
  else c

/-! ### One access -/

/-- R141 to R146: the place of a granule of an end that is no FABRIC end: place, or status, reason and virtual address. -/
def granulePlace (s : State) (c : CopyRec) (t : List Word) (h : Word) (g : Int) (q : Ask) : Except (Nat × Nat × Nat) Loc × State :=
  match tdKind t with
  | 0 => (.ok (.scr c.tile (resolve h (64 * g.toNat))), s)
  | 3 => (.ok (.opnd (tdArray t) (65536 * tdArea t + 64 * g.toNat)), s)
  | 4 =>
    if !c.priv then (.error (Code.xlateFault, reasonPriv, 0), s)
    else if g < 0 then (.error (Code.xlateFault, reasonMalformed, 0), s)
    else
      match physLoc (64 * g.toNat) with
      | some x => (.ok x, s)
      | none => (.error (Code.xlateFault, reasonMalformed, 0), s)
  | _ =>
    if g < 0 then (.error (Code.xlateFault, reasonMalformed, 0), s)
    else
      let r := match c.inUse.find? (fun x => x.covers (64 * g.toNat)) with
        | some x => (finish x (64 * g.toNat) q, s)
        | none => translate s c.unit (64 * g.toNat) c.sched q
      match r.1 with
      | .ok x => (.ok x, r.2)
      | .error e => (.error (e.1, e.2, 64 * g.toNat), r.2)

/-- Places of a list of granules; the first that fails ends the list. -/
def granulePlaces (c : CopyRec) (t : List Word) (h : Word) (q : Ask) : List Int → State → Except (Nat × Nat × Nat) (List (Int × Loc)) × State
  | [], s => (.ok [], s)
  | g :: gs, s =>
    match granulePlace s c t h g q with
    | (.error e, s1) => (.error e, s1)
    | (.ok x, s1) =>
      match granulePlaces c t h q gs s1 with
      | (.ok xs, s2) => (.ok ((g, x) :: xs), s2)
      | r => r

/-- The 64 bytes of a place. -/
def placeRead (s : State) (tile : Nat) (x : Loc) : List Byte :=
  match x with
  | .opnd a off => areaBytes (arrayOf s (physTile s tile) a) (off / 65536) (off % 65536) 64
  | x => locRead s x 64

/-- R131: a tensor's fill value in its own format. -/
def fillOf (t : List Word) : Nat := if tdFmt t = 0 then toF64 (f32 (tdFill t)) else tdFill t % 2 ^ fmtBits (tdFmt t)

/-- The value of an element from granules read, by granule. -/
def elemValue (cache : List (Int × List Byte)) (t : List Word) (x : List Int) : Nat :=
  let a := bitAddr t x
  let w := fmtBits (tdFmt t)
  let r := (a % 8).toNat
  let byteAt (i : Int) : Byte :=
    match cache.find? (fun e => e.1 == i / 64) with
    | some e => e.2.getD (i % 64).toNat 0
    | none => 0
  leNat ((List.range ((r + w + 7) / 8)).map (fun (i : Nat) => byteAt (a / 8 + i))) / 2 ^ r % 2 ^ w

/-- A granule's bytes with its writes laid over `old`. -/
def overlay (old : List Byte) (ws : List (Nat × Nat × Nat)) : List Byte :=
  ws.foldl (fun (bs : List Byte) w =>
    bs.set w.1 ((bs.getD w.1 0 &&& ~~~BitVec.ofNat 8 w.2.1) ||| (BitVec.ofNat 8 w.2.2 &&& BitVec.ofNat 8 w.2.1))) old

/-- R130: a granule sent whole: zero bits where no write falls. -/
def wholeGranule (ws : List (Nat × Nat × Nat)) : List (Nat × Nat × Nat) := ((overlay (zeros 64) ws).zipIdx).map (fun b => (b.2, 255, b.1.toNat))

/-- The byte writes of an element: byte address, mask, value. -/
def elemWrites (t : List Word) (x : List Int) (v : Nat) : List (Int × Nat × Nat) :=
  let a := bitAddr t x
  let w := fmtBits (tdFmt t)
  let r := (a % 8).toNat
  (List.range ((r + w + 7) / 8)).map (fun (i : Nat) => (a / 8 + i, (2 ^ w - 1) * 2 ^ r / 256 ^ i % 256, v * 2 ^ r / 256 ^ i % 256))

/-- The writes that fall in a granule, merged by byte in walk order: offset, mask, value. -/
def granuleWrites (ws : List (Int × Nat × Nat)) (g : Int) : List (Nat × Nat × Nat) :=
  let mine := ws.filter (fun w => w.1 / 64 == g)
  (List.range 64).filterMap (fun (i : Nat) =>
    match mine.filter (fun w => w.1 % 64 == (i : Int)) with
    | [] => none
    | l => some (i, l.foldl (fun (a : Nat × Nat) (w : Int × Nat × Nat) => (a.1 ||| w.2.1, (a.2 &&& (255 ^^^ w.2.1)) ||| (w.2.2 &&& w.2.1))) (0, 0)))

/-- A number that names a byte of a place, for R139. -/
def byteKey (x : Loc) (i : Nat) : Nat :=
  match x with
  | .hbm a => a + i
  | .scr t a => 2 ^ 50 + t * 2 ^ 25 + a + i
  | .opnd a off => 2 ^ 51 + a * 2 ^ 24 + off + i

/-- R139: an overlapping destination byte takes its source value or keeps what it held: for a scheduled copy by what every run of the Last has
alike (R21), else by a draw. -/
def chooseOverlap (s : State) (c : CopyRec) (x : Loc) (ws : List (Nat × Nat × Nat)) : List (Nat × Nat × Nat) × State :=
  if c.overlap.isEmpty then (ws, s)
  else if c.sched then
    (ws.filter (fun w => !(c.overlap.contains (byteKey x w.1)
      && Config.overlapKeeps (rget s Reg.stepNumberExt) (c.launchBeat % max 1 (stepBeats s)) c.tile c.desc (byteKey x w.1))), s)
  else
    (ws.zipIdx.filterMap (fun w => if c.overlap.contains (byteKey x w.1.1) && Config.freeBool (s.draws + w.2) then none else some w.1),
      { s with draws := s.draws + ws.length })

/-- R515: the attribution beat of a scheduled copy's write in cycle `cyc`. -/
def CopyRec.digestBeat (c : CopyRec) (s : State) (cyc : Nat) : Nat := if c.outside then c.launchBeat + c.deadline else schedAt s cyc

/-- R97: the row function unit is writing an area of an array in cycle `cyc`. -/
def opWriting (s : State) (t a area cyc : Nat) : Bool :=
  (ptile s (physTile s t)).rowOps.any (fun d => d.outAreas.contains (a, area) && decide (d.writes 0 ≤ cyc) && decide (cyc ≤ d.writes (d.rows - 1)))

/-- R505: bytes of HBM that a tile's engines read (0) or wrote (1). -/
def countHbm (s : State) (c : CopyRec) (i n : Nat) : State := if c.priv then s else radd s ((Reg.hbmBytes (physTile s c.tile)).at i) n

/-- One granule write at a place of this package, in cycle `cyc`: status and reason, and the state. A write to an operand area that R78 or
R97 forbids is not performed. -/
def writePlace (s0 : State) (c : CopyRec) (fmt cyc : Nat) (x : Loc) (ws0 : List (Nat × Nat × Nat)) : (Nat × Nat) × State :=
  let r := chooseOverlap s0 c x ws0
  let ws := r.1
  let s := r.2
  match x with
  | .hbm addr =>
    let r : (Nat × Nat) × State :=
      if c.isAcc then
        accStoreAt s (some x) fmt (ws.foldl (fun e w => e + 2 ^ w.1) 0) (overlay (zeros 64) ws)
      else let q := lineWrite s (addr / 64) ws; ((q.1, 0), q.2)
    if r.1.1 ≠ Code.ok then r
    else
      let s1 := countHbm r.2 c 1 ws.length
      (r.1, if c.sched then digestAdd s1 c.tile (c.digestBeat s cyc) (hbmTarget addr) (hbmRead s1 (addr / 64 * 64) 64) else s1)
  | .scr t addr =>
    if c.isAcc then ((Code.xlateFault, reasonMalformed), s)
    else
      let s1 := if ws.isEmpty then s else scratchWrite s t addr (overlay (scratchRead s t addr 64) ws)
      ((Code.ok, 0), if c.sched then digestAdd s1 c.tile (c.digestBeat s cyc) (scratchTarget t addr) (scratchRead s1 t addr 64) else s1)
  | .opnd arr off =>
    let p := physTile s c.tile
    let y := arrayOf s p arr
    let area := off / 65536
    if c.isAcc then ((Code.xlateFault, reasonMalformed), s)
    else if !writableArea y area cyc || opWriting s c.tile arr area cyc then ((Code.stepFault, area), s)
    else ((Code.ok, 0), setArray s p arr (fun y => y.writeArea area (off % 65536) (overlay (placeRead s c.tile x) ws)))

/-- R182, R197: a request packet of a copy for one granule. -/
def copyPacket (s : State) (c : CopyRec) (chip kind off : Nat) (priv : Bool) (karg : Nat) (data : List Byte) : Packet :=
  { hdr := mkHeader s chip kind (data.length / 64) priv c.mprio 0 0 (if kind = kAccStore then tdFmt c.dst else 0) off (word karg) 0 0, payload := data }

/-- Send a granule of a FABRIC destination: a WRITE of the whole granule, or an ACC_STORE of its in-bounds bytes. -/
def sendGranule (s : State) (k : Nat) (c : CopyRec) (x : Target) (ws : List (Nat × Nat × Nat)) : State :=
  match x with
  | .here _ => s
  | .there chip off priv =>
    let p := if c.isAcc then copyPacket s c chip kAccStore off priv (ws.foldl (fun e w => e + 2 ^ w.1) 0) (overlay (zeros 64) ws)
      else copyPacket s c chip kWrite off priv 0 (overlay (zeros 64) ws)
    let s1 := queueRequest s chip p (.copyWrite k c.txNext)
    let s2 := putCtx s1 k { c with outstanding := c.outstanding + 1, txNext := c.txNext + 1 }
    if c.priv then s2 else opCount s2 c.tile 4 (tdFmt c.dst) 1

/-- What `CopyRec.wrote` and `CopyRec.sent` hold for granule `g` of an end. -/
def granuleKey (scale : Bool) (g : Int) : Int := 2 * g + if scale then 1 else 0

/-- R140, R504: granule `g` (as granuleKey) of a copy has been written. The count of R140 takes each destination granule once. -/
def granuleDone (s : State) (k : Nat) (c : CopyRec) (g : Int) (fmt : Nat) : State :=
  let s1 := modCtx s k (fun c => if c.wrote.contains g then c else { c with granules := c.granules + 1, wrote := g :: c.wrote })
  if c.priv then s1 else activityAdd (opCount s1 c.tile 3 fmt 1) (physTile s1 c.tile) 4 0 1

/-- The writes of an access in cycle `cyc`, granule by granule. `i` is the access's walk index. A granule of a scheduled copy with a FABRIC end
waits for its transmit buffer; an accumulate-store cannot go that way, since what receives it is a handle (R122, R191). -/
def writeGranules (k i cyc : Nat) (scale : Bool) (ws : List (Int × Nat × Nat)) : List (Int × Option Loc) → State → State
  | [], s => s
  | (g, x) :: rest, s =>
    match ctxOf s k with
    | none => s
    | some c =>
      if c.status ≠ 0 then s
      else
        let dst := c.dstOf scale
        let w := granuleWrites ws g
        match x with
        | some x =>
          let r := writePlace s c (tdFmt dst) cyc x w
          if r.1.1 = Code.ok then writeGranules k i cyc scale ws rest (granuleDone r.2 k c (granuleKey scale g) (tdFmt dst))
          else if r.1.1 = Code.stepFault then arrayFault (modCtx r.2 k (fun c => { c with status := Code.stepFault })) c.tile (tdArray dst) r.1.2
          else failCopy r.2 k c i r.1.1 r.1.2 0
        | none =>
          match fabricTarget s c.priv (tdChip dst) (64 * g) with
          | .error e => failCopy s k c i e.1 e.2 0
          | .ok x =>
            if c.sched then
              if c.isAcc then failCopy s k c i Code.xlateFault reasonMalformed 0
              else writeGranules k i cyc scale ws rest (putCtx s k { c with
                txWait := c.txWait ++ [⟨c.txNext, overlay (zeros 64) w⟩], txNext := c.txNext + 1, sent := c.sent ++ [granuleKey scale g] })
            else
              match x with
              | .here p =>
                let r := writePlace s c (tdFmt dst) cyc (.hbm p) (if c.isAcc then w else wholeGranule w)
                if r.1.1 = Code.ok then writeGranules k i cyc scale ws rest (granuleDone r.2 k c (granuleKey scale g) (tdFmt dst))
                else failCopy r.2 k c i r.1.1 r.1.2 0
              | x =>
                if unassigned s then failCopy s k c i Code.noRoute 0 0
                else writeGranules k i cyc scale ws rest (sendGranule s k { c with sent := c.sent ++ [granuleKey scale g] } x w)

/-- R160, R161: the requests of an access to HBM pass their regulators, each with whether it is a doorbell; the copy waits, or fails with REFUSED_CAP. -/
def meter (k i : Nat) : List (Nat × Bool) → State → Bool × State
  | [], s => (true, s)
  | a :: rest, s =>
    match regulate s (homeDie a.1) (routerNow s) ⟨2 ^ 32 + k, a.1, 64, a.2⟩ with
    | (.admitted, s1) => meter k i rest (modCtx s1 k (fun c => { c with metered := c.metered + 1 }))
    | (.waits, s1) => (false, modCtx s1 k (fun c => { c with waiting := true }))
    | (.refused n, s1) =>
      match ctxOf s1 k with
      | some c => (false, failCopy s1 k (c.withNote i n) i Code.refusedCap 0 0)
      | none => (false, s1)

/-! ### Reading and writing an access (R122, R128 to R130, R135, R136) -/

/-- What `CopyRec.reads` and `CopyRec.readBad` are keyed by: granule `g` of the source or of its scale tensor, which may lie below it. -/
def granKey (scale : Bool) (g : Int) : Nat := 2 * (if 0 ≤ g then 2 * g.toNat else 2 * (-g).toNat - 1) + if scale then 1 else 0

/-- Values that a read brings (R122, R130): from granules read, or the fill value. -/
def readValues (c : CopyRec) (a : Access) (cache : List (Int × List Byte)) : List Nat :=
  let t := c.srcOf a.scale
  a.srcs.map (fun x => if inBounds t c.s0 c.s1 x then elemValue cache t x else fillOf t)

/-- The destination leads to a host adapter (R144). -/
def CopyRec.toHost (c : CopyRec) (scale : Bool) : Bool := let d := c.dstOf scale; tdKind d == kFabric && 0xF00 ≤ tdChip d && tdChip d ≤ 0xF7F

/-- Places of the source granules of an access; those of a FABRIC source have come back already. -/
def srcPlaces (s : State) (c : CopyRec) (a : Access) : Except (Nat × Nat × Nat) (List (Int × Loc)) × State :=
  let t := c.srcOf a.scale
  if c.isFill then (.ok [], s)
  else
    let gs := a.srcGranules t (c.dstOf a.scale) (extentOf t c.s0 c.s1)
    if tdKind t = kFabric then
      (match gs.findSome? (fun g => tget? c.readBad (granKey a.scale g)) with
       | some e => .error (e / 8, e % 8, 0)
       | none => .ok [], s)
    else granulePlaces c t (c.srcHandle a.scale) { read := true, fabric := c.fabricClass, toHost := c.toHost a.scale } gs s

/-- Places of the sources of several accesses. -/
def srcPlacesAll (c : CopyRec) : List Access → State → Except (Nat × Nat × Nat) (List (List (Int × Loc))) × State
  | [], s => (.ok [], s)
  | a :: as, s =>
    match srcPlaces s c a with
    | (.error e, s1) => (.error e, s1)
    | (.ok x, s1) =>
      match srcPlacesAll c as s1 with
      | (.ok xs, s2) => (.ok (x :: xs), s2)
      | r => r

/-- Places of the destination granules of an access; none for a FABRIC end. -/
def dstPlaces (s : State) (c : CopyRec) (a : Access) : Except (Nat × Nat × Nat) (List (Int × Option Loc)) × State :=
  let d := c.dstOf a.scale
  let gs := a.dstGranules d (extentOf d c.s0 c.s1)
  if tdKind d = kFabric then (.ok (gs.map (fun g => (g, none))), s)
  else
    match granulePlaces c d (c.dstHandle a.scale) { write := true, fabric := c.fabricClass } gs s with
    | (.ok l, s1) => (.ok (l.map (fun e => (e.1, some e.2))), s1)
    | (.error e, s1) => (.error e, s1)

def hbmOf (x : Loc) : Option Nat := match x with | .hbm p => some p | _ => none

/-- Access `i` is read from its places. -/
def takeRead (s : State) (k i : Nat) (a : Access) (xs : List (Int × Loc)) : State :=
  match ctxOf s k with
  | none => s
  | some c =>
    if c.isFill then s
    else
      let t := c.srcOf a.scale
      let cache := if tdKind t = kFabric then (a.srcGranules t (c.dstOf a.scale) (extentOf t c.s0 c.s1)).map (fun g => (g, tget [] c.reads (granKey a.scale g)))
        else xs.map (fun e => (e.1, placeRead s c.tile e.2))
      let vals := match c.snap[i]? with
        | some v => v
        | none => readValues c a cache
      let s1 := putCtx s k { c with got := tput c.got i vals }
      let s2 := bankReads (countHbm s1 c 0 (64 * (xs.filterMap (fun e => hbmOf e.2)).length)) 64 (xs.map (·.2))
      if c.priv then s2
      else radd s2 (Reg.filledReads c.tile) ((a.srcs.drop a.skip).filter (fun x => !inBounds t c.s0 c.s1 x)).length

/-- The values that access `i` writes: those of its own read, or of a transposed block one from each read row. -/
def writeValues (c : CopyRec) (i : Nat) (a : Access) : List Nat :=
  if c.isFill then a.dsts.map (fun _ => fillOf (c.dstOf a.scale))
  else if a.edge = 1 then tget [] c.got i
  else (List.range a.dsts.length).map (fun r => (tget [] c.got (i - a.place + r)).getD a.place 0)

/-- R77, R137: the final write of a walk marks its operand area as staged. -/
def markWalk (s : State) (c : CopyRec) (scale : Bool) : State :=
  let t := c.dstOf scale
  if c.mark && tdKind t = kOperand then setArray s (physTile s c.tile) (tdArray t) (fun y => y.stage (tdArea t)) else s

/-- Access `i` is written to its places in cycle `cyc`. -/
def putWrite (s : State) (k i cyc : Nat) (a : Access) (ys : List (Int × Option Loc)) : State :=
  match ctxOf s k with
  | none => s
  | some c =>
    let d := c.dstOf a.scale
    let s1 := if c.priv then s else radd s (Reg.droppedWrites c.tile) ((a.dsts.drop a.skip).filter (fun x => !inBounds d c.s0 c.s1 x)).length
    let ws := (a.dsts.zip (writeValues c i a)).flatMap (fun p => if inBounds d c.s0 c.s1 p.1 then elemWrites d p.1 p.2 else [])
    modCtx (writeGranules k i cyc a.scale ws ys s1) k (fun c =>
      if c.status ≠ 0 then c
      else { c with at_ := c.at_ + 1, metered := 0, inUse := [], got := if a.place + 1 = a.edge then c.got.filter (fun g => !(i - a.place ≤ g.1 && g.1 ≤ i)) else c.got })

/-- R160: a destination granule of an access at an HBM address, with whether its bytes ring a doorbell or update a semaphore. -/
def doorWrite (s : State) (c : CopyRec) (a : Access) (g : Int) (p : Nat) : Nat × Bool :=
  let d := c.dstOf a.scale
  let ws := (a.dsts.filter (inBounds d c.s0 c.s1)).flatMap (fun x => elemWrites d x 0)
  (p, (granuleWrites ws g).any (fun w => touchesDoor s (p / 64 * 64 + w.1) 1))

/-- R146: the translations that the access which begins block `block` has in use. -/
def keepInUse (s : State) (k : Nat) (block : List Access) (a : Access) : State :=
  modCtx s k (fun c =>
    let vas (t : List Word) (gs : List Int) : List Nat := if tdKind t = kVirtual then gs.map (fun g => 64 * g.toNat) else []
    let need := block.flatMap (fun b => let t := c.srcOf b.scale; vas t (b.srcGranules t (c.dstOf b.scale) (extentOf t c.s0 c.s1)))
      ++ (let d := c.dstOf a.scale; vas d (a.dstGranules d (extentOf d c.s0 c.s1)))
    if c.waiting then { c with inUse := (tget [] s.stitch.tlbs c.unit ++ c.inUse).filter (fun x => need.any (fun v => x.covers v)) } else c)

/-- R135: half cycles that an access of a copy with an end outside its tile takes at the peak rate: 2 granules of a RUN in a cycle, 1 with an end
FABRIC, else 1 row or element. -/
def CopyRec.halfCycles (c : CopyRec) (a : Access) : Nat := if a.gran.isSome && !c.fabricClass then 1 else 2

/-- One access of a copy whose timing is not fixed (R135), in cycle `cyc`, with the block that it begins if it begins one (R129: a block is gathered before it is
written): true when the copy goes on to the next one. -/
def runAccess (s : State) (k cyc : Nat) (c : CopyRec) (a : Access) (as : List Access) : Bool × State :=
  let i := c.at_
  let block := if a.place = 0 then (a :: as).take a.edge else []
  match srcPlacesAll c block s with
  | (.error e, s1) => (false, failCopy s1 k c i e.1 e.2.1 e.2.2)
  | (.ok xs, s1) =>
    match dstPlaces s1 c a with
    | (.error e, s2) => (false, failCopy s2 k c i e.1 e.2.1 e.2.2)
    | (.ok ys, s2) =>
      let srcHbm := xs.flatMap (fun l => l.filterMap (fun e => hbmOf e.2))
      let asks := if c.sched || c.priv then []
        else (srcHbm.map (fun p => (p, false)) ++ ys.filterMap (fun e => (e.2.bind hbmOf).map (doorWrite s2 c a e.1))).drop c.metered
      match meter k i asks s2 with
      | (false, s3) => (false, keepInUse s3 k block a)
      | (true, s3) =>
        if srcHbm.any (fun p => poisoned s3 p 64) then (false, failCopy s3 k c i Code.memPoison 0 0)
        else
          let s4 := ((block.zip xs).zipIdx).foldl (fun s q => takeRead s k (i + q.2) q.1.1 q.1.2) s3
          let s5 := putWrite s4 k i cyc a ys
          match ctxOf s5 k with
          | some c' =>
            if c'.status ≠ 0 then (false, s5)
            else (true, if as.any (fun b => b.scale == a.scale) then s5 else markWalk s5 c' a.scale)
          | none => (false, s5)

/-- R370: queue contexts and privileged Stitchers stop between accesses in LIMIT. -/
def CopyRec.held (c : CopyRec) (s : State) : Bool := (!c.sched && s.power.stalled) || c.waiting || c.readsOut || c.status != 0

/-- R375: router cycle `n` is one of the fraction (x − 256) / x of cycles, spread evenly, in which queue contexts and privileged Stitchers issue
no access under a local request x. -/
def slowCycle (x n : Nat) : Bool := decide (n * (x - 256) / x < (n + 1) * (x - 256) / x)

/-- Perform accesses until the copy ends, waits or faults. -/
def runAll (k : Nat) : List Access → State → State
  | [], s => s
  | a :: as, s =>
    match ctxOf s k with
    | none => s
    | some c =>
      if c.held s then s
      else
        match runAccess s k (cycleNow s) c a as with
        | (true, s1) => runAll k as s1
        | (false, s1) => s1

/-- An unscheduled copy goes on from where it is; the accesses of a scheduled one come in cycles of its tile (R135, R136). -/
def advance (s : State) (k : Nat) : State :=
  match ctxOf s k with
  | some c => if c.held s || c.sched then s else runAll k (c.accesses.drop c.at_) s
  | none => s

/-- R135: the next access of a scheduled copy with an end outside its tile, in cycle `cyc`. -/
def stepCopy (s : State) (k cyc : Nat) : State :=
  match ctxOf s k with
  | some c =>
    match c.accesses.drop c.at_ with
    | a :: as =>
      if c.held s then s
      else modCtx (runAccess s k cyc c a as).2 k (fun x => { x with halfAt := max c.halfAt (2 * cyc) + c.halfCycles a })
    | [] => s
  | none => s

/-- A copy goes on in the router cycle now; one of a queue context or a privileged Stitcher issues nothing in a cycle that R375 takes from it, and waits
for a later one (log 75). -/
def advanceNow (s : State) (k : Nat) : State :=
  match ctxOf s k with
  | some c => if !c.sched && slowCycle s.power.localX (routerNow s) then s else advance s k
  | none => s

/-- Every copy goes on as far as it can. -/
def advanceAll (s : State) : State := s.stitch.ctxs.foldl (fun s c => advanceNow s c.1) s

/-- R97: a scheduled copy is writing an area of an array of a tile in cycle `cyc`. -/
def copyWriting (s : State) (t a area cyc : Nat) : Bool :=
  s.stitch.ctxs.any (fun e =>
    let c := e.2
    c.sched && c.tile == t && c.status == 0 && [false, true].any (fun scale =>
      (!scale || c.scales) && tdKind (c.dstOf scale) == kOperand && tdArray (c.dstOf scale) == a && tdArea (c.dstOf scale) == area
        && (if c.outside then decide (c.at_ < c.accesses.length)
            else
              let cs := (c.accesses.filter (fun x => x.scale == scale)).map (fun x => c.issue + x.cycle)
              cs.any (· ≤ cyc) && cs.any (cyc ≤ ·))))

/-! ### Start (R118, R119, R132, R139) -/

/-- The place of a granule of any end in this package, if it has one. -/
def endPlace (s : State) (c : CopyRec) (t : List Word) (h : Word) (g : Int) : Option Loc :=
  if tdKind t = kFabric then
    match fabricTarget s c.priv (tdChip t) (64 * g) with
    | .ok (.here p) => some (.hbm p)
    | _ => none
  else
    match (granulePlace s c t h g {}).1 with
    | .ok x => some x
    | .error _ => none

/-- Bytes of an end that the copy reads or writes, with no effect on any buffer; `whole`: with the rest of each granule. -/
def endBytes (s : State) (c : CopyRec) (src whole : Bool) : List Nat :=
  c.accesses.flatMap (fun a =>
    let t := if src then c.srcOf a.scale else c.dstOf a.scale
    let h := if src then c.srcHandle a.scale else c.dstHandle a.scale
    ((if src then a.srcs else a.dsts).filter (inBounds t c.s0 c.s1)).flatMap (fun x =>
      (elemWrites t x 0).flatMap (fun w =>
        match endPlace s c t h (w.1 / 64) with
        | some x => if whole then (List.range 64).map (byteKey x) else [byteKey x (w.1 % 64).toNat]
        | none => [])))

/-- R139: where source and destination overlap, the source values are those at the start; those of a FABRIC source are read then. -/
def withOverlap (s : State) (c : CopyRec) : CopyRec :=
  if c.isFill then c
  else
    let rs := endBytes s c true false
    if (endBytes s c false (tdKind c.dst == kFabric)).all (fun b => !rs.contains b) then c
    else
      { c with
        overlap := (endBytes s c false false).filter (fun b => rs.contains b)
        snap := if tdKind c.src = kFabric then [] else c.accesses.map (fun a =>
          let t := c.srcOf a.scale
          readValues c a ((a.srcGranules t (c.dstOf a.scale) (extentOf t c.s0 c.s1)).filterMap (fun g =>
            match (granulePlace s c t (c.srcHandle a.scale) g {}).1 with
            | .ok x => some (g, placeRead s c.tile x)
            | .error _ => none))) }

/-- The READ packets of the granules of FABRIC sources, each with whether it is of the scale walk, in walk order, up to the first that fails at the
source (R126, R140). -/
def sendReads (k : Nat) : List (Bool × Int) → State → State
  | [], s => s
  | (scale, g) :: gs, s =>
    match ctxOf s k with
    | none => s
    | some c =>
      let key := granKey scale g
      let bad (e : Nat) : State := putCtx s k { c with readBad := tput c.readBad key e }
      match fabricTarget s c.priv (tdChip (c.srcOf scale)) (64 * g) with
      | .error e => bad (8 * e.1 + e.2)
      | .ok (.here p) =>
        if poisoned s p 64 then bad (8 * Code.memPoison)
        else sendReads k gs (putCtx s k { c with reads := tput c.reads key (hbmRead s p 64) })
      | .ok (.there n off priv) =>
        if unassigned s then bad (8 * Code.noRoute)
        else sendReads k gs
          (putCtx (queueRequest s n (copyPacket s c n kRead off priv 1 []) (.copyRead k key)) k { c with outstanding := c.outstanding + 1, readsOut := true })

/-- The granules that the walks of a copy read from FABRIC sources, each once. -/
def CopyRec.fabricReads (c : CopyRec) : List (Bool × Int) :=
  [false, true].flatMap (fun scale =>
    let t := c.srcOf scale
    if c.isFill || tdKind t != kFabric then []
    else (dedup ((c.accesses.filter (fun a => a.scale == scale)).flatMap (fun a => a.srcGranules t (c.dstOf scale) (extentOf t c.s0 c.s1)))).map (fun g => (scale, g)))

/-- R434: in SEALED mode a privileged copy that names a chip outside the peer set fails before any byte moves. -/
def sealedRefused (s : State) (c : CopyRec) : Bool :=
  c.priv && sealedMode s && c.accesses.any (fun a =>
    [(c.srcOf a.scale, a.srcs, !c.isFill), (c.dstOf a.scale, a.dsts, true)].any (fun e =>
      e.2.2 && tdKind e.1 == kFabric && (e.2.1.filter (inBounds e.1 c.s0 c.s1)).any (fun x =>
        (elemGranules e.1 x).any (fun g =>
          match fabricTarget s true (tdChip e.1) (64 * g) with
          | .error (_, r) => r == reasonPriv
          | .ok _ => false))))

/-- A checked copy begins on its context. -/
def beginCopy (s : State) (c0 : CopyRec) : State :=
  let k := c0.key
  let c := withOverlap s c0
  let s1 := traceMake (putCtx s k c) 3 (c.traceW2 0) (if sealedMode s || c.isFill then 0 else tdBase c.src)
  if sealedRefused s c then failCopy s1 k c 0 Code.xlateFault reasonPriv 0
  else advanceNow (sendReads k c.fabricReads s1) k

/-- COPY record (R118, R119): a scheduled copy; a context whose copy has not completed raises STEP_FAULT. -/
def execCopyRecord (tile stitcher desc : Nat) (s : State) : Host.Outcome State Fault Refusal :=
  .next (issue s tile 3 (at' stitcher 2 46 + at' desc 12 34) (fun s r _ =>
    let k := ctxKey false true tile stitcher
    if (ctxOf s k).isSome then stepFault s 0 3 (4 * tile + stitcher) none desc false
    else
      let c0 := schedCopy (runEntry r secStitch tile 8 desc) (runEntry r secTensor tile 8) (runEntry r secPattern tile 8) (handleOf s tile)
      beginCopy s { c0 with tile := tile, stitcher := stitcher, desc := desc, launchBeat := nowSched s, issue := cycleNow s, halfAt := 2 * (cycleNow s + 2), s0 := r.s0, s1 := r.s1 }))

/-- R119: a copy of a 256-byte block. -/
def blockCopy (s : State) (bs : List Byte) (t st : Nat) (priv : Bool) : CopyRec :=
  let part (i : Nat) : List Word := wordsOf (bs.drop (64 * i)) 8
  let h (x : List Word) : Word := if tdKind x = kHandle && !priv then handleOf s t (tdHandle x) else 0
  { sd := part 0, src := part 1, dst := part 2, pat := part 3, handles := [h (part 1), h (part 2), 0, 0], tile := t, stitcher := st, priv := priv, mprio := 3 }

/-- R119 to R121: check a block's copy and begin it; a failure completes it with the code, and SIGNAL still signals (log 15). -/
def startBlock (s : State) (c : CopyRec) (badKind : Bool) : State :=
  let k := checkCopy c badKind
  if k ≠ Code.ok then
    let s1 := setResult s c.origin { status := k }
    if c.signals then semAdd s1 c.sem 1 else s1
  else beginCopy s c

/-- A command in flight. -/
def flightOf (s : State) (q id : Nat) : Option Flight := (tget {} s.queues.queues q).flights.find? (fun f => f.id == id)

/-- R118, R119, R333: start a COPY or FILL command on its queue context: read its block, check it, begin it. -/
def startQueueCopy (s : State) (t st q id : Nat) : State :=
  match flightOf s q id with
  | none => s
  | some f =>
    let va := (nth f.words 1).toNat
    match translate s (4 * t + st) va false { read := true } with
    | (.error e, s1) => setResult s1 (some (q, id)) { status := e.1, reason := e.2 }
    | (.ok x, s1) =>
      if (match x with | .hbm a => tilePoisoned s1 (physTile s1 t) a 256 | _ => false) then setResult s1 (some (q, id)) { status := Code.memPoison }
      else
        let s2 := match x with
          | .hbm a => (List.range 4).foldl (fun s i => lineFill s (physTile s t) (a + 64 * i)) s1
          | _ => bankReads s1 256 [x]
        let c := { blockCopy s2 (locRead s2 x 256) t st false with origin := some (q, id), mprio := fld (nth f.words 0) 53 52 }
        startBlock s2 c ((fld (nth f.words 0) 63 56 == 4) != c.isFill)

/-- The command that waits first for a queue context leaves the line. -/
def takeWaiting (s : State) (t st : Nat) : State := { s with stitch := { s.stitch with waiting := tmod [] s.stitch.waiting (4 * t + st) (·.drop 1) } }

/-- QUEUE_COPY_START (R328): the oldest command that waits for a queue context starts once the context is free. -/
def execQueueCopyStart (tile stitcher : Nat) (s : State) : Host.Outcome State Fault Refusal :=
  .next (if (ctxOf s (ctxKey false false tile stitcher)).isSome || s.power.stalled then s
    else
      match tget [] s.stitch.waiting (4 * tile + stitcher) with
      | [] => s
      | (q, id) :: _ =>
        match flightOf s q id with
        | some f => if f.begun then startQueueCopy (takeWaiting s tile stitcher) tile stitcher q id else s
        | none => takeWaiting s tile stitcher)

/-- R118: privileged Stitcher `n` takes a snapshot. -/
def snapOn (s : State) (n : Nat) : Bool := match s.faults.snap with | some x => x.ctx == some n | none => false

/-- PRIVILEGED_COPY_START (R118, R119, R148, R370): the Cobbler starts a copy on a free privileged Stitcher from the block at a physical
address. -/
def execPrivilegedCopyStart (n block : Nat) (s : State) : Host.Outcome State Fault Refusal :=
  .next (if 8 ≤ n ∨ s.power.stalled = true ∨ s.power.tripped = true ∨ (ctxOf s (512 + n)).isSome ∨ snapOn s n ∨ block % 256 ≠ 0 ∨ hbmBytes < block + 256 ∨ poisoned s block 256 then s
    else startBlock s (blockCopy s (hbmRead s block 256) n 0 true) false)

/-! ### Acknowledgements of fabric ends (R140, R186, R187) -/

/-- An acknowledgement of a granule that a copy wrote on the fabric. -/
def copyWriteAck (s : State) (k g status reason note : Nat) : State :=
  match ctxOf s k with
  | none => s
  | some c =>
    let c1 := { c.withNote g note with outstanding := c.outstanding - 1 }
    let s1 := putCtx s k c1
    if status = Code.ok then granuleDone s1 k c (c.sent.getD g 0) (tdFmt c.dst) else failCopy s1 k c1 g status reason 0

/-- The answer of a READ of a copy's FABRIC source; the last one lets the walk begin. -/
def copyReadAck (s : State) (k g status reason note : Nat) (data : List Byte) : State :=
  match ctxOf s k with
  | none => s
  | some c =>
    let c1 := { c.withNote g note with outstanding := c.outstanding - 1, readsOut := 1 < c.outstanding }
    let c2 := if status = Code.ok then { c1 with reads := tput c1.reads g data } else { c1 with readBad := tput c1.readBad g (8 * status + reason) }
    advanceNow (putCtx s k c2) k

/-- R187: an operation with an outstanding packet completes with FABRIC_TIMEOUT; no request of it waits at a regulator any more. -/
def copyTimeout (s : State) (k : Nat) : State :=
  match ctxOf s k with
  | none => s
  | some c =>
    if c.sched then failCopy s k c c.at_ Code.fabricTimeout 0 0
    else forgetRequest (putCtx s k { c with status := Code.fabricTimeout, reason := 0, outstanding := 0, readsOut := false, waiting := false }) (2 ^ 32 + k)

/-! ### Regulators resume copies (R161) -/

/-- A regulator admitted the request a copy waits for, after a delay. -/
def copyAdmitted (s : State) (k note : Nat) : State :=
  match ctxOf s k with
  | none => s
  | some c => advanceNow (putCtx s k { c.withNote c.at_ note with waiting := false, metered := c.metered + 1 }) k

/-- A regulator refused it. -/
def copyRefused (s : State) (k note : Nat) : State :=
  match ctxOf s k with
  | none => s
  | some c => let c1 := { c.withNote c.at_ note with waiting := false, inUse := [] }; failCopy (putCtx s k c1) k c1 c.at_ Code.refusedCap 0 0

/-! ### Transmit buffers (R297) -/

/-- The TX run that carries granule `j` of a copy. -/
def txRun (s : State) (r : Run) (c : CopyRec) (j : Nat) : Option LaneRun :=
  (laneRuns s r.slot r.bucket).find? (fun x => x.dir == 0 && fld x.w1 63 58 == c.tile && fld x.w1 57 56 == c.stitcher && fld x.w1 55 44 == c.desc
    && fld x.w1 43 28 ≤ j && j < fld x.w1 43 28 + x.count)

/-! ### Completion (R137, R138, R140) -/

/-- R136: the cycle after the issue in which a copy of fixed timing completes. -/
def CopyRec.doneCycle (c : CopyRec) : Nat := c.issue + 1 + (c.accesses.foldl (fun m a => max m a.cycle) 0)

/-- R135, R138: the cycle before which a scheduled copy with an end outside its tile cannot complete. -/
def CopyRec.soonest (c : CopyRec) : Nat := c.issue + (c.accesses.foldl (fun n a => n + c.halfCycles a) 0 + 1) / 2

/-- R140: every access made or the first fault met, and every write made has completed. -/
def CopyRec.finished (c : CopyRec) : Bool := (c.accesses.length ≤ c.at_ || c.status != 0) && c.outstanding == 0 && c.txWait.isEmpty && !c.waiting && !c.readsOut

/-- R138, R140, R121: a copy has completed: its context is free, its semaphore is signalled, its command has its result. -/
def completeCopy (s : State) (k : Nat) (c : CopyRec) : State :=
  let s2 := traceMake (delCtx s k) 4 (c.traceW2 c.status) (word (at' c.granules 32 32 + at' c.note 8 24))
  let s3 := if c.signals then semAdd s2 c.sem 1 else s2
  setResult s3 c.origin { status := c.status, reason := c.reason, note := c.note, detail := c.granules }

/-- A copy completes if it has finished. A scheduled copy that faulted never completes (R318 abandons it). -/
def tryComplete (s : State) (k : Nat) : State :=
  match ctxOf s k with
  | none => s
  | some c => if !c.finished || (c.sched && c.status != 0) then s else completeCopy s k c

/-- COPY_DEADLINE_MISSED (R138): at the start of schedule beat launch + DEADLINE a copy that has not completed raises STEP_FAULT. -/
def execCopyDeadlineMissed (ctx : Nat) (s : State) : Host.Outcome State Fault Refusal :=
  .next (match ctxOf s ctx with
    | some c =>
      if c.sched && c.deadline != 0 && c.launchBeat + c.deadline ≤ nowSched s && c.status == 0 && (runState s == .running || runState s == .ending) then
        stepFault (putCtx s ctx { c with status := Code.stepFault }) 0 3 c.unit none c.desc false
      else s
    | none => s)

end Sys2Proof.Machine
end

