-- ==== Sys2Proof/Machine/Commands.lean ====
section
/-! DEFINITION. What the commands of a queue do to memory and to the Lace unit, in the steps that a regulator may hold (R161, R333, R350), and
bulk mode (R351). -/

namespace Sys2Proof.Machine

/-! ### Flights and their accesses -/

def queueOf (s : State) (q : Nat) : Queue := tget {} s.queues.queues q
def modQueue (s : State) (q : Nat) (f : Queue → Queue) : State := { s with queues := { s.queues with queues := tmod {} s.queues.queues q f } }
def modFlight (s : State) (q id : Nat) (f : Flight → Flight) : State :=
  modQueue s q (fun x => { x with flights := x.flights.map (fun y => if y.id = id then f y else y) })

/-- R322: the I/O die of a queue's engine. -/
def queueDie (q : Nat) : Nat := q / 128

/-- Identifier of a queue command's request at a regulator. -/
def cmdRegId (q id : Nat) : Nat := 2 ^ 42 + q * 2 ^ 32 + id % 2 ^ 32

/-- Translate a tenant virtual address for a queue engine (R147). -/
def engineTranslate (s : State) (q va : Nat) (write : Bool) : Except (Nat × Nat) Loc × State :=
  translateInbound s (queueDie q) va { read := !write, write := write }

/-- Read bytes at a tenant virtual address that lie in one page. -/
def engineRead (s : State) (q va n : Nat) : Except (Nat × Nat) (List Byte) × State :=
  match engineTranslate s q va false with
  | (.error e, s1) => (.error e, s1)
  | (.ok x, s1) =>
    match x with
    | .hbm a => if poisoned s1 a n then (.error (Code.memPoison, 0), s1) else (.ok (hbmRead s1 a n), s1)
    | _ => (.ok (locRead s1 x n), bankReads s1 n [x])

/-- Write bytes of one granule at a tenant virtual address. -/
def engineWrite (s : State) (q va : Nat) (bs : List Byte) : Except (Nat × Nat) Unit × State :=
  match engineTranslate s q va true with
  | (.error e, s1) => (.error e, s1)
  | (.ok x, s1) =>
    match x with
    | .hbm a =>
      let r := lineWrite s1 (a / 64) (bs.zipIdx.map (fun b => (a % 64 + b.2, 255, b.1.toNat)))
      if r.1 = Code.ok then (.ok (), r.2) else (.error (r.1, 0), r.2)
    | .scr t a => (.ok (), scratchWrite s1 t a bs)
    | .opnd _ _ => (.ok (), s1)

/-- R160, R161: whether a request at a tenant virtual address passes its regulator, under an identifier. -/
def meterAs (s : State) (q reqId va n : Nat) (write : Bool) : Metered × State :=
  match engineTranslate s q va write with
  | (.ok (.hbm a), s1) => regulate s1 (homeDie a) (routerNow s1) ⟨reqId, a, n, write && touchesDoor s1 a n⟩
  | (_, s1) => (.admitted, s1)

/-- R160, R161: whether a request of a queue command passes its regulator. -/
def engineMeter (s : State) (q id va n : Nat) (write : Bool) : Metered × State := meterAs s q (cmdRegId q id) va n write

/-- Give a flight its result. -/
def finish' (s : State) (q id : Nat) (r : Result) : State := setResult s (some (q, id)) r

/-! ### Control blocks (R323, R324) -/

def qAddr (s : State) (q i : Nat) : Nat := rget s Reg.queueTableBase + 64 * q + 8 * i
def qWord (s : State) (q i : Nat) : Word := hbmWord s (qAddr s q i)
def setQWord (s : State) (q i v : Nat) : State := hbmWrite s (qAddr s q i) (leBytes 8 v)

def qTail (s : State) (q : Nat) : Nat := fld (qWord s q 0) 31 0
def qCqHead (s : State) (q : Nat) : Nat := fld (qWord s q 1) 31 0
def qHead (s : State) (q : Nat) : Nat := fld (qWord s q 2) 63 32
def qCqTail (s : State) (q : Nat) : Nat := fld (qWord s q 2) 31 0
/-- R324; queue 511's rings are the Cobbler's own and hold 2^15 (log 23). -/
def qRingLog (s : State) (q : Nat) : Nat := if q = 511 then 15 else fld (qWord s q 5) 63 60
def qCqLog (s : State) (q : Nat) : Nat := if q = 511 then 15 else fld (qWord s q 5) 59 56
def qPrio (s : State) (q : Nat) : Nat := fld (qWord s q 5) 55 53
/-- Commands that wait, and records not read. -/
def qWaiting (s : State) (q : Nat) : Nat := (qTail s q + 2 ^ 32 - qHead s q) % 2 ^ 32
def qRecords (s : State) (q : Nat) : Nat := (qCqTail s q + 2 ^ 32 - qCqHead s q) % 2 ^ 32

/-- R326: state codes. -/
def QState.code (x : QState) : Nat := match x with | .disabled => 0 | .idle => 1 | .running => 2 | .waiting => 3 | .stopped => 4 | .draining => 5

/-- Put a queue into a state; STATE and STOP_STATUS of its block follow. -/
def setQState (s : State) (q : Nat) (x : QState) (stop : Nat) : State :=
  let s1 := modQueue s q (fun y => { y with state := x, stop := stop })
  setQWord s1 q 6 (x.code * 2 ^ 56 + stop % 256 * 2 ^ 48)

/-! ### Starting (R328, R329) -/

/-- The head command's bytes. -/
def fetchHead (s : State) (q : Nat) : Except (Nat × Nat) (List Byte) × State :=
  if q = 511 then (.ok (s.queues.mgmtRing.headD (zeros 64)), s)
  else engineRead s q ((qWord s q 3).toNat + 64 * (qHead s q % 2 ^ qRingLog s q)) 64

/-- R350: a queue lace operation that would be the set's fifth. An operation is outstanding from its command's start. -/
def laceFull (s : State) (ws : List Word) : Bool :=
  let op := fld (nth ws 0) 63 56
  (op == 8 || op == 9) && 4 ≤ (laceSet s (fld (nth ws 1) 63 58)).ops.length

/-- R328: the head command of a queue may start. -/
def mayStart (s : State) (q : Nat) : Bool :=
  let fl := (queueOf s q).flights
  0 < qWaiting s q && fl.length < rget s Reg.inflightLimit && qRecords s q + fl.length + 1 ≤ 2 ^ qCqLog s q
    && !fl.any (fun f => let op := fld (nth f.words 0) 63 56; op == 5 || op == 7)
    && (match (fetchHead s q).1 with
        | .ok bs => let ws := wordsOf bs 8; (!bit (nth ws 0) 55 || fl.isEmpty) && !laceFull s ws
        | .error _ => true)

/-- R326: RUNNING, WAITING or IDLE as the queue stands. -/
def refreshQueue (s : State) (q : Nat) : State :=
  let x := queueOf s q
  if x.state = .running ∨ x.state = .waiting then
    let dest : QState := if qWaiting s q = 0 then (if x.flights.isEmpty then .idle else .running) else if mayStart s q then .running else .waiting
    if dest = x.state then s else setQState s q dest 0
  else s

/-- R326, R350: every queue as it stands, where a lace set has filled or has room again. -/
def refreshAll (s : State) : State := s.queues.queues.foldl (fun s x => refreshQueue s x.1) s

/-! ### TIMESTAMP (R333) -/

/-- TIMESTAMP writes the beat in which its command started. -/
def timestampWrite (s : State) (q id note : Nat) : State :=
  match flightOf s q id with
  | none => s
  | some f =>
    match engineWrite s q (nth f.words 1).toNat (leBytes 8 f.beat) with
    | (.ok (), s1) => finish' s1 q id { note := note, value := f.beat }
    | (.error e, s1) => finish' s1 q id { status := e.1, reason := e.2, note := note }

/-! ### Queue lace operations (R350) -/

/-- Queue number of the operations that bulk mode runs: 0 is MIN, 1 is MAX. -/
abbrev bulkQueue : Nat := 512

/-- The lace operation of a command. -/
def laceOpOf (s : State) (set q id : Nat) : Option LaceOp := (laceSet s set).ops.find? (fun o => o.queue == q && o.id == id)

/-- Change an operation. -/
def modLaceOp (s : State) (set q id : Nat) (f : LaceOp → LaceOp) : State :=
  setLaceSet s set (fun x => { x with ops := x.ops.map (fun o => if o.queue = q ∧ o.id = id then f o else o) })

/-- An operation ends: its command, or the bulk request it serves, has its result (R350, R351). -/
def laceEnd (s : State) (set q id : Nat) (r : Result) : State :=
  let s1 := refreshAll (setLaceSet s set (fun x => { x with ops := x.ops.filter (fun o => !(o.queue == q && o.id == id)) }))
  let s2 := if r.status = Code.ok ∨ r.status = Code.laceMismatch ∨ r.status = Code.laceTimeout then rinc s1 Reg.laceOps else s1
  if q ≠ bulkQueue then finish' s2 q id r
  else
    match s2.queues.bulk with
    | none => s2
    | some b =>
      if r.status ≠ Code.ok then rset { s2 with queues := { s2.queues with bulk := none } } Reg.bulkStatus r.status
      else
        let b1 := if id = 0 then { b with min := some r.value } else { b with max := some r.value }
        match b1.min, b1.max with
        | some x, some y => rset { s2 with queues := { s2.queues with bulk := none } } Reg.bulkStatus (if x = y then Code.ok else Code.laceMismatch)
        | _, _ => { s2 with queues := { s2.queues with bulk := some b1 } }

/-- The write of a fold that its regulator has admitted. -/
def laceWrite (s : State) (set q id note : Nat) : State :=
  match laceOpOf s set q id, flightOf s q id with
  | some o, some f =>
    let v := o.out.getD 0
    match engineWrite s q (nth f.words 3).toNat (leBytes (ltBytes o.ltype) v) with
    | (.ok (), s1) => laceEnd s1 set q id { note := if o.note = 0 then note else o.note, value := v }
    | (.error e, s1) => laceEnd s1 set q id { status := e.1, reason := e.2, note := if o.note = 0 then note else o.note }
  | _, _ => s

/-- R350 step 4: an operation that holds every member's message folds, writes and completes. -/
def laceCheck (s : State) (set q id : Nat) : State :=
  match laceOpOf s set q id with
  | none => s
  | some o =>
    let x := laceSet s set
    if o.out.isSome || !laceWhole x o.held then s
    else
      let v := laceFold o.lop o.ltype (laceValues x o.held)
      if o.lop = lopBarrier ∨ q = bulkQueue then laceEnd s set q id { value := if o.lop = lopBarrier then 0 else v }
      else
        let s1 := modLaceOp s set q id (fun o => { o with out := some v })
        match flightOf s1 q id with
        | none => s1
        | some f =>
          match engineMeter s1 q id (nth f.words 3).toNat (ltBytes o.ltype) true with
          | (.admitted, s2) => laceWrite s2 set q id 0
          | (.waits, s2) => s2
          | (.refused n, s2) => laceEnd s2 set q id { status := Code.refusedCap, note := n }

/-- R510: a LACE packet that an operation accepts is logged. -/
def logLace (s : State) (chip : Nat) (m : List Word) : State := treadLog s 2 chip 0 0 (bytesOf m)

/-- A message meets the operation with its OP_SEQ: LACE_MISMATCH where LOP or LTYPE differ, else its value is held. -/
def laceTake (s : State) (set : Nat) (o : LaceOp) (chip lop lt v : Nat) : State :=
  if lop ≠ o.lop ∨ lt ≠ o.ltype then laceEnd s set o.queue o.id { status := Code.laceMismatch }
  else laceCheck (modLaceOp s set o.queue o.id (fun o => { o with held := o.held ++ [(chip, v)] })) set o.queue o.id

/-- R350 step 3: a VALUE message of an operation to every other member. -/
def laceTell (s : State) (set : Nat) (o : LaceOp) (v : Nat) : State :=
  let m := laceMessage (ownChip s) set o.lop o.ltype 0 (if o.lop = lopBarrier then 0 else 1) 0 o.seq [v]
  ((laceMembers (laceSet s set)).filter (· != ownChip s)).foldl (fun s c =>
    sendOther s s.queues.laceDie { hdr := mkHeader s c kLace 1 false 0 0 0 0 ((nth m 0).toNat % 2 ^ 52) 0 0 0, payload := bytesOf m } 0 0) s

/-- R350 steps 2 and 3: the own value is held and told to every other member. An unassigned package has no route to them (R176). -/
def laceSend (s : State) (set q id v : Nat) : State :=
  match laceOpOf s set q id with
  | none => s
  | some o =>
    if unassigned s then laceEnd s set q id { status := Code.noRoute }
    else laceCheck (laceTell (modLaceOp s set q id (fun o => { o with held := (ownChip s, v) :: o.held })) set o v) set q id

/-- R350 step 1: an operation takes the set's lace_seq, and the messages for it that were held early. -/
def laceOpen (s : State) (set q id lop lt : Nat) : State :=
  let x := laceSet s set
  let s1 := setLaceSet s set (fun y => { y with
    ops := y.ops ++ [{ seq := y.seq, lop := lop, ltype := lt, queue := q, id := id }]
    early := y.early.filter (fun e => e.2.1 != y.seq)
    seq := (y.seq + 1) % 2 ^ 24 })
  (x.early.filter (fun e => e.2.1 == x.seq)).foldl (fun s e =>
    match laceOpOf s set q id with
    | some o =>
      laceTake (logLace s e.1 (laceMessage e.1 set e.2.2.1 e.2.2.2.1 0 (if e.2.2.1 = lopBarrier then 0 else 1) 0 e.2.1 [e.2.2.2.2])) set o
        e.1 e.2.2.1 e.2.2.2.1 e.2.2.2.2
    | none => s) s1

/-- The read of a REDUCE_SCALAR operand that its regulator has admitted. -/
def laceRead (s : State) (set q id note : Nat) : State :=
  match laceOpOf s set q id, flightOf s q id with
  | some o, some f =>
    match engineRead s q (nth f.words 2).toNat (ltBytes o.ltype) with
    | (.ok bs, s1) => laceSend (modLaceOp s1 set q id (fun o => { o with note := note })) set q id (leNat bs)
    | (.error e, s1) => laceEnd s1 set q id { status := e.1, reason := e.2, note := note }
  | _, _ => s

/-- What follows when a regulator admits a queue command's request after a wait, or refuses it (R161, R162). -/
def cmdOutcome (s : State) (q id : Nat) (admitted : Bool) (note : Nat) : State :=
  match flightOf s q id with
  | none => s
  | some f =>
    let op := fld (nth f.words 0) 63 56
    let set := fld (nth f.words 1) 63 58
    if op = 0x0A then (if admitted then timestampWrite s q id note else finish' s q id { status := Code.refusedCap, note := note })
    else
      match laceOpOf s set q id with
      | none => s
      | some o =>
        if !admitted then laceEnd s set q id { status := Code.refusedCap, note := note }
        else if o.out.isSome then laceWrite s set q id note
        else laceRead s set q id note

/-! ### Bulk mode (R351) -/

def chunkBytes : Nat := 65536

/-- R351: scratchpad byte address of a staging buffer. -/
def stageTile (s : State) : Nat := fld (word (rget s Reg.bulkStage)) 29 24
def stageAddr (s : State) (i : Nat) : Nat := 64 * (fld (word (rget s Reg.bulkStage)) 18 0 + 0x400 * i)

/-- Bytes of the source of a bulk request. -/
def bulkSource (s : State) (b : Bulk) (remote : Bool) (off n : Nat) : List Byte :=
  if remote then (List.range (n / 64)).flatMap (fun i => tget (zeros 64) b.got (off / 64 + i))
  else match physLoc (b.src + off) with
    | some x => locRead s x n
    | none => []

/-- Write bytes at a package physical address. -/
def physWrite (s : State) (a : Nat) (bs : List Byte) : State :=
  match physLoc a with
  | some (.hbm x) => hbmWrite s x bs
  | some (.scr t x) => (List.range (cdiv bs.length 64)).foldl (fun s i => scratchWrite s t (x + 64 * i) ((bs.drop (64 * i)).take 64)) s
  | _ => s

/-- Chunk n of a bulk request arrives in buffer n mod 2. -/
def stageChunk (s : State) (b : Bulk) (remote : Bool) (n : Nat) : State :=
  let bs := bulkSource s b remote (n * chunkBytes) chunkBytes
  let s := if remote then s else bankReads s chunkBytes (physLoc (b.src + n * chunkBytes)).toList
  (List.range 1024).foldl (fun s i => scratchWrite s (stageTile s) (stageAddr s (n % 2) + 64 * i) ((bs.drop (64 * i)).take 64)) s

/-- The bytes of buffer n mod 2. -/
def stagedChunk (s : State) (n : Nat) : List Byte := scratchRead s (stageTile s) (stageAddr s (n % 2)) chunkBytes

/-- Move the chunks: chunk n is read while chunk n − 1 is written out, or taken into the digest. -/
def bulkMove (s : State) (b : Bulk) (remote : Bool) : List Byte × State :=
  (List.range (b.len / chunkBytes + 1)).foldl (fun (r : List Byte × State) n =>
    let s1 := if n < b.len / chunkBytes then stageChunk r.2 b remote n else r.2
    if n = 0 then (r.1, s1)
    else
      let bs := stagedChunk s1 (n - 1)
      let s2 := bankReads s1 chunkBytes [.scr (stageTile s1) (stageAddr s1 ((n - 1) % 2))]
      if b.digest then (r.1 ++ bs, s2) else (r.1, physWrite s2 (b.dst + (n - 1) * chunkBytes) bs)) ([], s)

/-- A bulk request ends with a status. -/
def bulkEnd (s : State) (st : Nat) : State := rset { s with queues := { s.queues with bulk := none } } Reg.bulkStatus st

/-- A bulk request whose source is at hand: the copy is made, or the digest goes through MIN and MAX over the set. -/
def bulkRun (s : State) (b : Bulk) (remote : Bool) : State :=
  let r := bulkMove s b remote
  if !b.digest then bulkEnd r.2 Code.ok
  else
    let v := digest64 r.1
    let s1 := rset { r.2 with queues := { r.2.queues with bulk := some { b with value := v, got := [] } } } Reg.bulkDigest v
    if !(laceSet s1 b.dst).enabled then bulkEnd s1 Code.laceSetInvalid
    else
      let s2 := laceSend (refreshAll (laceOpen s1 b.dst bulkQueue 0 1 ltU64)) b.dst bulkQueue 0 v
      if s2.queues.bulk.isNone then s2 else laceSend (refreshAll (laceOpen s2 b.dst bulkQueue 1 2 ltU64)) b.dst bulkQueue 1 v

/-- R186: the answer of a READ of the rack-window source of bulk request `req`. -/
def bulkRead (s : State) (req off status : Nat) (data : List Byte) : State :=
  match s.queues.bulk with
  | none => s
  | some b =>
    if b.req ≠ req then s
    else if status ≠ Code.ok then bulkEnd s status
    else
      let got := (List.range (data.length / 64)).foldl (fun t i => tput t (off / 64 + i) ((data.drop (64 * i)).take 64)) b.got
      let b1 := { b with got := got, readsOut := b.readsOut - 1 }
      let s1 := { s with queues := { s.queues with bulk := some b1 } }
      if b1.readsOut = 0 then bulkRun s1 b1 true else s1

/-- R179, R180: READs of 4 KiB of a rack-window range; every one is counted out before the first is sent. -/
def bulkReads (s : State) (b : Bulk) : State :=
  let req := s.queues.bulkNext
  let s0 := { s with queues := { s.queues with bulk := some { b with req := req, readsOut := b.len / 4096 }, bulkNext := req + 1 } }
  (List.range (b.len / 4096)).foldl (fun (s : State) (i : Nat) =>
    if s.queues.bulk.isNone then s
    else
      match fabricTarget s true 0xFFF ((b.src + 4096 * i : Nat) : Int) with
      | .error e => bulkEnd s e.1
      | .ok (.here p) => bulkRead s req (4096 * i) (if poisoned s p 4096 then Code.memPoison else Code.ok) (hbmRead s p 4096)
      | .ok (.there c off priv) =>
        queueRequest s c { hdr := mkHeader s c kRead 0 priv 0 0 0 0 off 64 0 0, payload := [] } (.bulk req (4096 * i))) s0

end Sys2Proof.Machine
end

