-- ==== Sys2Proof/Machine/Metered.lean ====
section
/-! DEFINITION. Transfers of many unscheduled requests, each of which passes a regulator (R160 to R162): the copy of an image into its slot (R287,
R306) and weight installs (R427 to R429). -/

namespace Sys2Proof.Machine

/-! ### The copy of an image (R287, R304, R306) -/

def setLoad (s : State) (f : Load → Load) : State := { s with last := { s.last with load := s.last.load.map f } }

/-- Bytes of an image that its slot takes, at most 1 GiB, and of the piece in hand. -/
def Load.size (l : Load) : Nat := min l.bytes 0x40000000
def Load.pieceBytes (l : Load) : Nat := min 64 (l.size - l.copied)

/-- Where the piece in hand goes. -/
def pieceTarget (s : State) (l : Load) : Nat := slotBase s l.slot + l.copied

/-- The request of the piece in hand: its read, then its write. -/
def loadMeter (s : State) (q id : Nat) (l : Load) : Metered × State :=
  match l.piece with
  | none => engineMeter s q id (l.src + l.copied) l.pieceBytes false
  | some _ => regulate s (homeDie (pieceTarget s l)) (routerNow s) ⟨cmdRegId q id, pieceTarget s l, l.pieceBytes, touchesDoor s (pieceTarget s l) l.pieceBytes⟩

/-- The request that its regulator has admitted. -/
def loadMove (s : State) (q : Nat) (l : Load) : State :=
  match l.piece with
  | none =>
    match engineRead s q (l.src + l.copied) l.pieceBytes with
    | (.error e, s1) => setLoad s1 (fun l => { l with status := e.1, reason := e.2 })
    | (.ok bs, s1) => setLoad s1 (fun l => { l with piece := some bs })
  | some bs => setLoad (hbmWrite s (pieceTarget s l) bs) (fun x => { x with copied := x.copied + l.pieceBytes, piece := none })

/-- The copy goes on until a request waits or fails, or all is copied: at most `n` requests. -/
def loadGo (q id : Nat) : Nat → State → State
  | 0, s => s
  | n + 1, s =>
    match s.last.load with
    | none => s
    | some l =>
      if l.status ≠ Code.ok ∨ l.waits ∨ l.size ≤ l.copied then s
      else
        match loadMeter s q id l with
        | (.admitted, s1) => loadGo q id n (loadMove s1 q l)
        | (.waits, s1) => setLoad s1 (fun l => { l with waits := true })
        | (.refused note, s1) => setLoad s1 (fun l => { l with status := Code.refusedCap, note := note })

/-- Requests of a whole copy. -/
def Load.requests (l : Load) : Nat := 2 * cdiv l.size 64 + 1

/-- The request that waited is admitted or refused. -/
def loadOutcome (s : State) (q id : Nat) (admitted : Bool) (note : Nat) : State :=
  match s.last.load with
  | none => s
  | some l =>
    if !l.waits || l.origin != some (q, id) then s
    else if !admitted then setLoad s (fun l => { l with waits := false, status := Code.refusedCap, note := note })
    else loadGo q id l.requests (loadMove (setLoad s (fun l => { l with waits := false, note := if l.note = 0 then note else l.note })) q l)

/-! ### Weight installs (R427 to R429) -/

def keySlot (s : State) (i : Nat) : KeySlot := tget {} s.tenancy.keys i
def setKey (s : State) (i : Nat) (f : KeySlot → KeySlot) : State := { s with tenancy := { s.tenancy with keys := tmod {} s.tenancy.keys i f } }
def setInstall (s : State) (f : Install → Install) : State := { s with tenancy := { s.tenancy with install := s.tenancy.install.map f } }

/-- Chunks of an image. -/
def chunkCount (plain : Nat) : Nat := cdiv plain 65536

/-- R427: plaintext bytes of the chunk in hand, and the granules of its ciphertext and tag. -/
def Install.chunkSize (i : Install) : Nat := min 65536 (i.plain - 65536 * i.chunks)
def Install.sealedGranules (i : Install) : Nat := cdiv (i.chunkSize + 16) 64

/-- The place in the source of the chunk in hand. -/
def Install.source (i : Install) : Nat := (i.src + 65600 * i.chunks) % 2 ^ 64

/-- Where granule `g` of the chunk in hand goes. -/
def Install.target (i : Install) (g : Nat) : Nat := (i.dst + 65536 * i.chunks + 64 * g) % 2 ^ 64

/-- R428: bytes at a tenant virtual address, page by page in granules; the status of the first that does not read. -/
def installRead (s : State) (va : Nat) : Nat → Nat → Except Nat (List Byte) × State
  | 0, _ => (.ok [], s)
  | _, 0 => (.ok [], s)
  | g + 1, n =>
    match engineRead s 0 va (min 64 n) with
    | (.error e, s1) => (.error e.1, s1)
    | (.ok bs, s1) =>
      match installRead s1 (va + 64) g (n - 64) with
      | (.ok rest, s2) => (.ok (bs ++ rest), s2)
      | (.error e, s2) => (.error e, s2)

/-- R428: a destination granule: WRITE, and SEALED in sealed mode. -/
def installTarget (s : State) (va : Nat) : Except Nat Loc × State :=
  match engineTranslate s 0 va true with
  | (.error e, s1) => (.error e.1, s1)
  | (.ok x, s1) =>
    match pageWalk s1 va with
    | .ok p => if sealedMode s1 && !bit p.leaf 5 then (.error Code.xlateFault, s1) else (.ok x, s1)
    | .error e => (.error e.1, s1)

/-- A granule of plaintext is written; OK, or the status it fails with. -/
def installWrite (s : State) (va : Nat) (bs : List Byte) : Nat × State :=
  match installTarget s va with
  | (.error e, s1) => (e, s1)
  | (.ok (.hbm a), s1) => (Code.ok, setInstall (hbmWrite s1 a bs) (fun i => { i with places := i.places ++ [(none, a)] }))
  | (.ok (.scr t a), s1) => (Code.ok, setInstall (scratchWrite s1 t a bs) (fun i => { i with places := i.places ++ [(some t, a)] }))
  | (.ok _, s1) => (Code.ok, s1)

/-- R427: the nonce of chunk c. -/
def chunkNonce (id c : Nat) : List Byte := beBytes 8 id ++ beBytes 4 c

/-- Queue number of an install's requests at the regulators. -/
abbrev installQueue : Nat := 513

/-- The next request of the chunk in hand: a granule of the sealed chunk, then of the plaintext. -/
def installMeter (s : State) (i : Install) : Metered × State :=
  match i.text with
  | none => meterAs s 0 (cmdRegId installQueue 0) (i.source + 64 * i.passed) 64 false
  | some _ => meterAs s 0 (cmdRegId installQueue 0) (i.target i.passed) 64 true

/-- A request that its regulator has admitted. With the last granule of a sealed chunk the chunk is read and opened. -/
def installMove (s : State) (i : Install) : State :=
  match i.text with
  | none =>
    if i.passed + 1 < i.sealedGranules then setInstall s (fun i => { i with passed := i.passed + 1 })
    else
      match installRead s i.source i.sealedGranules (i.chunkSize + 16) with
      | (.error e, s1) => setInstall s1 (fun i => { i with status := e })
      | (.ok bs, s1) =>
        match gcmOpen (keySlot s1 i.slot).key (chunkNonce i.imageId i.chunks) (bs.take i.chunkSize) (bs.drop i.chunkSize) with
        | none => setInstall s1 (fun i => { i with status := Code.imageAuthFail })
        | some p => setInstall s1 (fun i => { i with text := some (padTo i.chunkSize p), passed := 0 })
  | some p =>
    let r := installWrite s (i.target i.passed) ((p.drop (64 * i.passed)).take 64)
    if r.1 ≠ Code.ok then setInstall r.2 (fun i => { i with status := r.1 })
    else if 64 * (i.passed + 1) < i.chunkSize then setInstall r.2 (fun i => { i with passed := i.passed + 1 })
    else setInstall r.2 (fun i => { i with chunks := i.chunks + 1, passed := 0, text := none })

/-- R428: chunks in ascending order up to chunk `stop`, at most `n` requests; one that fails ends it, one that waits holds it. -/
def installGo (stop : Nat) : Nat → State → State
  | 0, s => s
  | n + 1, s =>
    match s.tenancy.install with
    | none => s
    | some i =>
      if i.status ≠ Code.ok ∨ i.waiting ∨ i.held ∨ min stop (chunkCount i.plain) ≤ i.chunks then s
      else
        match installMeter s i with
        | (.admitted, s1) => installGo stop n (installMove s1 i)
        | (.waits, s1) => setInstall s1 (fun i => { i with held := true })
        | (.refused _, s1) => setInstall s1 (fun i => { i with status := Code.refusedCap })

/-- Requests of a whole install. -/
def Install.requests (i : Install) : Nat := 2050 * chunkCount i.plain

/-- The request that waited is admitted or refused. -/
def installOutcome (s : State) (admitted : Bool) : State :=
  match s.tenancy.install with
  | none => s
  | some i =>
    if !i.held then s
    else if admitted then installMove (setInstall s (fun i => { i with held := false })) i
    else setInstall s (fun i => { i with held := false, status := Code.refusedCap })

end Sys2Proof.Machine
end

