-- ==== Sys2Proof/Machine/Snapshot.lean ====
section
/-! DEFINITION. Snapshots (R485 to R490): the covered state, its place in a slot (log 27), taking one, its completion, and the SNAPSHOT
command. -/

namespace Sys2Proof.Machine

/-! ### Covered state (R485) -/

/-- R485: the handles whose contents are covered, as (tile, handle, entry). -/
def coveredHandles (s : State) : List (Nat × Nat × Word) :=
  s.tiles.flatMap (fun t => (t.2.handles.filter (fun h => hValid h.2 && !hScratch h.2)).map (fun h => (t.1, h.1, h.2)))

/-- R485, R502: the ranges of snapshot_ranges that step k covers, as (start, bytes). -/
def coveredRanges (s : State) (k : Nat) : List (Nat × Nat) :=
  (List.range (s.faults.ranges.length / 16)).filterMap (fun i =>
    let w0 := wordAt s.faults.ranges (2 * i)
    let w1 := wordAt s.faults.ranges (2 * i + 1)
    let parity := fld w1 63 62
    if parity = 0 ∨ (parity = 1 ∧ k % 2 = 0) ∨ (parity = 2 ∧ k % 2 = 1) then some (w0.toNat, fld w1 61 0) else none)

/-- Bytes of a tile's handle table. -/
def tableBytes (s : State) (t : Nat) : List Byte := bytesOf ((List.range 256).map (handleOf s t))

/-- Offset in a slot at which the contents of handles begin: after the header and 64 handle tables. -/
def handlesAt : Nat := 64 + 64 * 2048

/-- Where the contents of handles lie, one after another: (offset, tile, handle, entry). -/
def handlePlaces : Nat → List (Nat × Nat × Word) → List (Nat × Nat × Nat × Word)
  | _, [] => []
  | off, (t, h, w) :: rest => (off, t, h, w) :: handlePlaces (off + 64 * hSize w) rest

/-- Where ranges lie: (offset, start, bytes). -/
def rangePlaces : Nat → List (Nat × Nat) → List (Nat × Nat × Nat)
  | _, [] => []
  | off, (a, n) :: rest => (off, a, n) :: rangePlaces (off + n) rest

/-- Offset at which ranges begin. -/
def rangesAt (hs : List (Nat × Nat × Word)) : Nat := handlesAt + (hs.map (fun h => 64 * hSize h.2.2)).sum

/-- R486: covered bytes of step k. -/
def coveredBytes (s : State) (k : Nat) : Nat := rangesAt (coveredHandles s) + ((coveredRanges s k).map (·.2)).sum

/-- R155: the bytes of a range of HBM before its first poisoned line. -/
def cleanRun (s : State) (a n : Nat) : Nat :=
  ((s.hbm.poison.map (·.1)).filter (fun l => decide (a / 64 ≤ l) && decide (64 * l < a + n))).foldl (fun m l => min m (64 * l - a)) n

/-- A piece of covered state: its offset in the slot, its bytes, the logical tile whose scratchpad holds it, and whether it ends at a line that
reads MEM_POISON. -/
structure Piece where
  off : Nat
  bytes : List Byte
  tile : Option Nat := none
  poison : Bool := false
  deriving DecidableEq, Repr

/-- The pieces of covered state of step k, header apart; with `slot`, a handle that is clean for that slot is not sent again (R486). -/
def snapPieces (s : State) (k : Nat) (slot : Option Nat) : List Piece :=
  let hs := coveredHandles s
  let dirty (t h : Nat) : Bool := match slot with
    | some i => bits (tget 0 (ltile s t).dirty h) i i == 1
    | none => true
  (List.range 64).map (fun t => { off := 64 + 2048 * t, bytes := tableBytes s t })
    ++ ((handlePlaces handlesAt hs).filter (fun x => dirty x.2.1 x.2.2.1)).map (fun x => { off := x.1, bytes := handleRead s x.2.1 x.2.2.2 0 (64 * hSize x.2.2.2), tile := some x.2.1 })
    ++ (rangePlaces (rangesAt hs) (coveredRanges s k)).map (fun x =>
      let n := cleanRun s x.2.1 x.2.2
      { off := x.1, bytes := hbmRead s x.2.1 n, poison := decide (n < x.2.2) })

/-- R140, R155: a copy stops at the first piece that ends at a poisoned line; what it moves, and whether it stops there. -/
def movedPieces (ps : List Piece) : List Piece := ps.take ((ps.takeWhile (fun p => !p.poison)).length + 1)

/-- R359: the bank accesses that reading the pieces makes. -/
def pieceReads (s : State) (ps : List Piece) : State :=
  (movedPieces ps).foldl (fun s p => match p.tile with | some t => activityAdd s (physTile s t) 3 0 (cdiv p.bytes.length 64) | none => s) s
def piecesPoisoned (ps : List Piece) : Bool := ps.any (·.poison)

/-- R485: the header of a snapshot of step k with COMPLETE set. -/
def snapHeader (s : State) (k ext : Nat) : List Word :=
  let r := s.last.run
  let slot := match r with | some x => x.slot | none => 0
  [word (at' 1 8 56 + at' 1 1 55 + at' slot 4 51 + at' k 32 0), word ext,
   word (match r with | some x => at' (generationOf s x.slot) 32 32 | none => 0),
   word (match r with | some x => setDigestOf s x.slot | none => 0),
   word s.trace.treadTotal, word (coveredBytes s k), 0, 0]

/-! ### Taking a snapshot (R486, R487) -/

/-- R486: bytes of a slot, and the base of the slot of step k in an area. -/
def snapSlotBytes (s : State) : Nat := rget s Reg.snapshotSlotGib * 2 ^ 30
def snapSlotBase (s : State) (area k : Nat) : Nat := area + k % 2 * snapSlotBytes s

/-- Granules of a piece. -/
def pieceGranules (p : Piece) : List (Nat × List Byte) := (List.range (cdiv p.bytes.length 64)).map (fun i => (p.off + 64 * i, (p.bytes.drop (64 * i)).take 64))

/-- Change the snapshot that runs. -/
def setSnap (s : State) (f : Snap → Snap) : State := { s with faults := { s.faults with snap := s.faults.snap.map f } }

/-- R140: the copy of a snapshot meets a failure; the first is kept. -/
def Snap.fail (x : Snap) (status reason : Nat) : Snap := if x.status = 0 then { x with status := status, reason := reason } else x

/-- R117, R118: the lowest privileged Stitcher that no copy and no snapshot holds. -/
def privHeld (s : State) (n : Nat) : Bool := (ctxOf s (512 + n)).isSome || snapOn s n
def freePriv (s : State) : Option Nat := (List.range 8).find? (fun n => !privHeld s n)

/-- R508: STITCH_START and STITCH_DONE of the privileged Stitcher that takes a snapshot. -/
def snapTrace (s : State) (done : Bool) : State :=
  match s.faults.snap with
  | some x =>
    (match x.ctx with
     | some n =>
       let c : CopyRec := { priv := true, tile := n }
       if done then traceMake s 4 (c.traceW2 x.status) (word (at' x.granules 32 32)) else traceMake s 3 (c.traceW2 0) 0
     | none => s)
  | none => s

/-- A snapshot starts on a privileged Stitcher, and one ends. -/
def snapOpen (s : State) (x : Snap) : State := snapTrace { s with faults := { s.faults with snap := some { x with ctx := freePriv s } } } false
def snapEnd (s : State) : State := let s1 := snapTrace s true; { s1 with faults := { s1.faults with snap := none } }

/-- A WRITE of one granule through the rack window (R179); a place on this package is written at once. Nothing more is sent once something has
failed (R140). -/
def snapSend (s : State) (a : Nat) (bs : List Byte) : State :=
  match s.faults.snap with
  | none => s
  | some x =>
    if x.status ≠ 0 then s
    else
      match fabricTarget s true 0xFFF (a : Int) with
      | .ok (.here p) => hbmWrite (setSnap s (fun y => { y with granules := y.granules + 1 })) p bs
      | .ok (.there c off priv) =>
        queueRequest (setSnap s (fun y => { y with acks := y.acks + 1, granules := y.granules + 1 })) c
          { hdr := mkHeader s c kWrite 1 priv 0 0 0 0 off 0 0 0, payload := padTo 64 bs } .snap
      | .error e => setSnap s (fun y => y.fail e.1 e.2)

/-- R485, R486: the first word of a header with COMPLETE clear. -/
def incomplete (w : Word) : Word := word (at' (fld w 63 56) 8 56 + at' (fld w 54 51) 4 51 + at' (fld w 31 0) 32 0)

/-- R155: the failure of a snapshot that has read a poisoned line. -/
def snapPoison (s : State) (pieces : List Piece) : State := if piecesPoisoned pieces then setSnap s (fun y => y.fail Code.memPoison 0) else s

/-- Stream a snapshot through the rack window to `base`: the header with COMPLETE clear, the pieces, the header last. -/
def snapStream (s : State) (base : Nat) (header : List Word) (pieces : List Piece) : State :=
  let s1 := snapSend s base (bytesOf (incomplete (nth header 0) :: header.drop 1))
  let s2 := (movedPieces pieces).foldl (fun s p => (pieceGranules p).foldl (fun s g => snapSend s (base + g.1) g.2) s) s1
  snapSend (snapPoison s2 pieces) base (bytesOf header)

/-- R276: member index of a chip in the committed plan. -/
def memberOf (s : State) (chip : Nat) : Option Nat := (List.range 32).find? (fun m => memberChip s m == some chip)

/-- R487: the checks of the two areas. -/
def snapAreasOk (s : State) (k : Nat) : Bool :=
  let buddy := rget s Reg.buddyChip
  let area (a : Nat) : Bool := a % 2 ^ 30 == 0 && decide (a + 2 * snapSlotBytes s ≤ hbmBytes)
  buddy != 0xFFFF && buddy != ownChip s && (memberOf s buddy).isSome && !sealedOut s buddy
    && area (rget s Reg.buddyArea) && area (rget s Reg.localArea) && decide (coveredBytes s k ≤ snapSlotBytes s)

/-- Clear a slot's dirty bit of every handle (R486). -/
def cleanSlot (s : State) (i : Nat) : State :=
  { s with tiles := s.tiles.map (fun t => (t.1, { t.2 with dirty := (t.2.dirty.map (fun d => (d.1, if i = 0 then d.2 / 2 * 2 else d.2 % 2))).filter (fun d => d.2 != 0) })) }

/-- R179: where a byte of HBM of a chip is reached through the rack window; a chip that is no member, past it. -/
def rackPlace (s : State) (chip a : Nat) : Nat := (memberOf s chip).getD 32 * hbmBytes + a

/-- R486: the snapshot of step k at its boundary starts on a privileged Stitcher: COMPLETE is cleared in both headers, the covered state is streamed to
the local slot and to the buddy, whose header goes last. -/
def snapStart (s : State) (k ext : Nat) : State :=
  let i := k % 2
  let h := snapHeader s k ext
  let pieces := snapPieces s k (some i)
  let a := snapSlotBase s (rget s Reg.localArea) k
  let s0 := pieceReads (snapOpen s { step := k, slot := i, header := h }) pieces
  let s1 := { s0 with
    faults := { s0.faults with
      treadPos0 := if i = 0 then s.trace.treadTotal else s.faults.treadPos0
      treadPos1 := if i = 1 then s.trace.treadTotal else s.faults.treadPos1 }
    trace := { s.trace with ok0 := s.trace.ok0 || (i == 0 && !s.trace.frozen), ok1 := s.trace.ok1 || (i == 1 && !s.trace.frozen) } }
  let s2 := rset s1 (Reg.snapshotStatus.at i) k
  let s3 := hbmWrite s2 a (bytesOf [incomplete (hbmWord s2 a)])
  let s4 := (movedPieces pieces).foldl (fun s p => hbmWrite s (a + p.off) p.bytes) (setSnap s3 (fun y => { y with granules := ((movedPieces pieces).map (fun p => cdiv p.bytes.length 64)).sum }))
  cleanSlot (snapStream s4 (rackPlace s (rget s Reg.buddyChip) (snapSlotBase s (rget s Reg.buddyArea) k)) h pieces) i

/-- R485 to R488: what a step boundary does about snapshots. -/
def snapBoundary (s : State) (k ext : Nat) : State :=
  match s.last.run with
  | none => s
  | some r =>
    if r.noSnap then s
    else if r.stepIdx ≤ 1 && !snapAreasOk s k then setRun (notice s Code.snapshotFail 0 0 0) (fun y => { y with noSnap := true })
    else
      match s.faults.snap with
      | some x => if (x.step + 1) % 2 ^ 32 = k % 2 ^ 32 then notice s Code.snapshotLate 0 0 0 else s
      | none => snapStart s k ext

/-- The answer to a write of a snapshot; a SNAPSHOT command completes with the last one (R490). -/
def snapAck (s : State) (status reason : Nat) : State :=
  match s.faults.snap with
  | none => s
  | some x =>
    let y := { (if status = 0 then x else x.fail status reason) with acks := x.acks - 1 }
    let s1 := { s with faults := { s.faults with snap := some y } }
    if y.acks = 0 ∧ y.origin.isSome = true then setResult (snapEnd s1) y.origin { status := y.status, reason := y.reason } else s1

/-- R187: a snapshot with a write outstanding meets FABRIC_TIMEOUT; nothing more of it is sent. -/
def snapTimeout (s : State) : State :=
  let s1 := { s with
    fabric := { s.fabric with out := s.fabric.out.map (fun e => (e.1, { e.2 with unsent := e.2.unsent.filter (fun u => u.origin != .snap) })) }
    faults := { s.faults with snap := s.faults.snap.map (fun x => { x with acks := 1 }) } }
  snapAck s1 Code.fabricTimeout 0

/-- SNAPSHOT_COMPLETE (R486): with every write acknowledged, the local header is written with COMPLETE and snapshot_status reads COMPLETE. A
snapshot whose write failed ends without it and raises SNAPSHOT_FAIL (log 27). -/
def execSnapshotComplete (s : State) : Host.Outcome State Fault Refusal :=
  .next (match s.faults.snap with
    | none => s
    | some x =>
      if x.acks ≠ 0 ∨ x.origin.isSome = true then s
      else
        let s1 := snapEnd s
        if x.status ≠ 0 then notice s1 Code.snapshotFail 0 0 0
        else rset (hbmWrite s1 (snapSlotBase s (rget s Reg.localArea) x.step) (bytesOf x.header)) (Reg.snapshotStatus.at x.slot) (2 ^ 63 + x.step % 2 ^ 32))

/-! ### Reading a copy back (R493, R495) -/

/-- The copy that is restored: its chip and base. A granule that was read through the rack window stands in `restoreGot`. -/
def copyByte (s : State) (chip base off : Nat) : Byte :=
  match tget? s.faults.restoreGot (off / 64) with
  | some bs => bs.getD (off % 64) 0
  | none => if chip = ownChip s then s.hbm.mem.read (base + off) else 0

def copyBytes (s : State) (chip base off n : Nat) : List Byte := (List.range n).map (fun i => copyByte s chip base (off + i))
def copyWord (s : State) (chip base i : Nat) : Word := wordAt (copyBytes s chip base (8 * i) 8) 0

/-- The handle table of a tile that is restored: the entries that are not zero. -/
def copyTable (s : State) (chip base t : Nat) : Tab Word :=
  ((List.range 256).map (fun i => (i, wordAt (copyBytes s chip base (64 + 2048 * t + 8 * i) 8) 0))).filter (fun e => e.2 != 0)

/-- The covered handles of the copy, as (tile, handle, entry). -/
def copyHandles (s : State) (chip base : Nat) : List (Nat × Nat × Word) :=
  (List.range 64).flatMap (fun t => ((copyTable s chip base t).filter (fun h => hValid h.2 && !hScratch h.2)).map (fun h => (t, h.1, h.2)))

/-- R494: TREAD_POS of the copy that is restored. -/
def copyTreadPos (s : State) (chip base : Nat) : Nat := (copyWord s chip base 4).toNat

/-- Granules of `n` bytes of a copy from a place. -/
def granulesAt (off n : Nat) : List Nat := if n = 0 then [] else (List.range ((off + n - 1) / 64 - off / 64 + 1)).map (· + off / 64)

/-- The granules of the header and the handle tables, and those of the contents. -/
def headGranules : List Nat := List.range (handlesAt / 64)
def bodyGranules (s : State) (chip base k : Nat) : List Nat :=
  let hs := copyHandles s chip base
  (handlePlaces handlesAt hs).flatMap (fun x => granulesAt x.1 (64 * hSize x.2.2.2))
    ++ (rangePlaces (rangesAt hs) (coveredRanges s k)).flatMap (fun x => granulesAt x.1 x.2.2)

/-- R155, R187: a granule of a restore cannot be read; the first status is kept. -/
def restoreFail (s : State) (st : Nat) : State :=
  if s.faults.restoreBad = 0 then { s with faults := { s.faults with restoreBad := st } } else s

/-- R179, R493, R495: a privileged READ of granule `g` of a copy, at a place of the rack window. -/
def restoreRead (place g : Nat) (s : State) : State :=
  match fabricTarget s true 0xFFF (place : Int) with
  | .ok (.there c off priv) =>
    queueRequest { s with faults := { s.faults with restoreOut := s.faults.restoreOut + 1 } } c
      { hdr := mkHeader s c kRead 0 priv 0 0 0 0 off 1 0 0, payload := [] } (.restore g)
  | .ok (.here p) => if poisoned s p 64 then restoreFail s Code.memPoison else { s with faults := { s.faults with restoreGot := tput s.faults.restoreGot g (hbmRead s p 64) } }
  | .error e => restoreFail s e.1

/-- R493, R495: granules of the copy are asked for: of a local copy those whose line reads MEM_POISON, which RESTORING reads from the buddy copy and
which fail a snapshot_restore; of another member's, every one. -/
def restoreAsk (s : State) (k chip base : Nat) (gs : List Nat) : State :=
  if chip ≠ ownChip s then gs.foldl (fun s g => restoreRead (rackPlace s chip (base + 64 * g)) g s) s
  else
    (gs.filter (fun g => poisoned s (base + 64 * g) 64)).foldl (fun s g =>
      if s.faults.rollback = .restoring then restoreRead (rackPlace s (rget s Reg.buddyChip) (snapSlotBase s (rget s Reg.buddyArea) k + 64 * g)) g s
      else restoreFail s Code.memPoison) s

/-- R495: another member's copy holds step k, COMPLETE. -/
def copyHolds (s : State) (chip base k : Nat) : Bool :=
  let w := copyWord s chip base 0
  chip == ownChip s || (fld w 63 56 == 1 && bit w 55 && fld w 31 0 == k)

/-- With the header and tables read, the contents follow. -/
def restoreNext (s : State) : State :=
  match s.faults.restore with
  | none => s
  | some (k, chip, base) =>
    if s.faults.restoreOut ≠ 0 ∨ s.faults.restoreBody = true ∨ s.faults.restoreBad ≠ 0 then s
    else if !copyHolds s chip base k then restoreFail s Code.valueRefused
    else restoreAsk { s with faults := { s.faults with restoreBody := true } } k chip base (bodyGranules s chip base k)

/-- R493, R495: a restore of step k from a copy begins; one that was running leaves nothing behind. -/
def restoreBegin (s : State) (k chip base : Nat) : State :=
  let old (o : Origin) : Bool := match o with | .restore _ => true | _ => false
  let s1 := { s with
    fabric := { s.fabric with out := s.fabric.out.map (fun e => (e.1, { e.2 with
      unsent := e.2.unsent.filter (fun u => !old u.origin)
      sent := e.2.sent.map (fun x => if old x.origin then { x with origin := .other } else x) })) }
    faults := { s.faults with restore := some (k, chip, base), restoreGot := [], restoreOut := 0, restoreBad := 0, restoreBody := false } }
  restoreNext (restoreAsk s1 k chip base headGranules)

/-- The answer of a READ of a restore. -/
def restoreAck (s : State) (g status : Nat) (data : List Byte) : State :=
  match s.faults.restore with
  | none => s
  | some _ =>
    let s1 := { s with faults := { s.faults with restoreOut := s.faults.restoreOut - 1 } }
    restoreNext (if status = Code.ok then { s1 with faults := { s1.faults with restoreGot := tput s1.faults.restoreGot g data } } else restoreFail s1 status)

/-- R187: a READ of a restore meets FABRIC_TIMEOUT. -/
def restoreTimeout (s : State) : State := restoreFail { s with faults := { s.faults with restoreOut := 0 } } Code.fabricTimeout

end Sys2Proof.Machine
end

