-- ==== Sys2Proof/Machine/Welts.lean ====
section
/-! DEFINITION. Welts (R384 to R388): ports and partners, home dies, flits as they are sent, their retry buffer and their credits. Dies are
indexed as in R355. -/

namespace Sys2Proof.Machine

/-! ### Ports and partners (R384, R386) -/

/-- R386: the eyelet die beside a tile column, on the north edge; the port of it that the column has. -/
def columnEye (c : Nat) : Nat × Nat :=
  if c < 2 then (0, c + 1) else if c < 5 then (1, c - 1) else if c < 7 then (2, c - 4) else (3, c - 6)

/-- Position of a number in a list. -/
def indexIn (x : Nat) (l : List Nat) : Nat := l.findIdx (fun y => y == x)

/-- The partner of a port, as (die, port). -/
def weltPartner (die port : Nat) : Option (Nat × Nat) :=
  if die < 72 then
    let c := die / 8
    let r := die % 8
    match port with
    | 0 => if r = 0 then some (92 + (columnEye c).1, (columnEye c).2) else some (die - 1, 2)
    | 1 => if c = 8 then some (88 + 1 + 2 * (r / 4), 6 + r % 4) else some (die + 8, 3)
    | 2 => if r = 7 then some (96 + (columnEye c).1, (columnEye c).2) else some (die + 1, 0)
    | 3 => if c = 0 then some (88 + 2 * (r / 4), 6 + r % 4) else some (die - 8, 1)
    | _ => none
  else if die < 88 then none
  else if die < 92 then
    let d := die - 88
    let others := (List.range 4).filter (· != d)
    if port < 3 then
      let o := others.getD port 0
      some (88 + o, indexIn d ((List.range 4).filter (· != o)))
    else if port < 5 then some (92 + 2 * d + (port - 3), 0)
    else if port = 5 then (if d = 0 then some (100, 0) else if d = 2 then some (100, 1) else none)
    else if port < 10 then
      let r := 4 * (d / 2) + (port - 6)
      some (if d % 2 = 0 then (r, 3) else (64 + r, 1))
    else none
  else if die < 100 then
    let d := die - 92
    if port = 0 then some (88 + d / 2, 3 + d % 2)
    else
      match (List.range 9).find? (fun c => columnEye c == (d % 4, port)) with
      | some c => some (if d < 4 then (8 * c, 0) else (8 * c + 7, 2))
      | none => none
  else if die = 100 then (if port = 0 then some (88, 5) else if port = 1 then some (90, 5) else none)
  else none

def welt (s : State) (die port : Nat) : Welt := tget {} s.pkg.welts (16 * die + port)
def setWelt (s : State) (die port : Nat) (f : Welt → Welt) : State := { s with pkg := { s.pkg with welts := tmod {} s.pkg.welts (16 * die + port) f } }

/-- Both ends of a welt. -/
def setWeltPair (s : State) (die port : Nat) (f : Welt → Welt) : State :=
  match weltPartner die port with
  | some q => setWelt (setWelt s die port f) q.1 q.2 f
  | none => s

def WeltState.code (x : WeltState) : Nat := match x with | .down => 0 | .training => 1 | .up => 2 | .degraded => 3 | .loopback => 4 | .unused => 5

/-- R385: home I/O die of a physical tile. -/
def tileDie (p : Nat) : Nat :=
  let c := p / 8
  let r := p % 8
  2 * (r / 4) + (if c < 4 then 0 else if 4 < c then 1 else if r % 4 < 2 then 0 else 1)

/-- R386: ports of a die that have a partner, by the die's index in R355. -/
def weltPorts (die : Nat) : List Nat :=
  if die < 72 then List.range 4
  else if 88 ≤ die ∧ die < 92 then (if die % 2 = 0 then List.range 10 else (List.range 10).filter (· != 5))
  else if 92 ≤ die ∧ die < 100 then (if die % 4 = 1 then List.range 4 else List.range 3)
  else if die = 100 then [0, 1] else []

/-! ### Flits (R387, R388) -/

def wfVc (f : WeltFlit) : Nat := fld (nth f.words 8) 63 61
def wfSched (f : WeltFlit) : Bool := bit (nth f.words 8) 60
def wfHead (f : WeltFlit) : Bool := bit (nth f.words 8) 59
def wfValid (f : WeltFlit) : Bool := bit (nth f.words 8) 57
def wfClass (f : WeltFlit) : Nat := fld (nth f.words 8) 56 56
def wfSeq (f : WeltFlit) : Nat := fld (nth f.words 8) 55 48
def wfAck (f : WeltFlit) : Nat := fld (nth f.words 8) 47 40
def wfNak (f : WeltFlit) : Bool := bit (nth f.words 8) 39
def wfCrc (f : WeltFlit) : Nat := fld (nth f.words 9) 63 32
def wfCrVc (f : WeltFlit) : Nat := fld (nth f.words 9) 31 29
def wfCrCount (f : WeltFlit) : Nat := fld (nth f.words 9) 28 24

/-- R387: bytes 0 to 75 of a flit. -/
def wfBody (ws : List Word) : List Byte := bytesOf ((List.range 9).map (nth ws)) ++ leBytes 4 (fld (nth ws 9) 31 0)

/-- R387: a flit with its CRC. -/
def withCrc (ws : List Word) (w9 : Nat) : WeltFlit :=
  let base := (List.range 9).map (nth ws) ++ [word (w9 % 2 ^ 32)]
  { words := (List.range 9).map (nth ws) ++ [word (w9 % 2 ^ 32 + at' (crc32c (wfBody base)) 32 32)] }

/-- What a welt flit carries besides its sequence, acknowledgement and credits. -/
structure WeltLoad where
  payload : List Word := List.replicate 8 0
  vc : Nat := 0
  head : Bool := false
  tail : Bool := false
  valid : Bool := false
  cls : Nat := 0
  sched : Bool := false
  /-- Source and destination die, where they are not the ends of the welt. -/
  ends : Option (Nat × Nat) := none
  deriving DecidableEq, Repr

/-- Whether a welt carries flits (R389). -/
def Welt.carries (w : Welt) : Bool := w.state == .up || w.state == .degraded

/-- R388: flits sent that are not acknowledged. -/
def Welt.unacked (w : Welt) : Nat := (w.txSeq + 256 - w.acked) % 256

/-- R387: credits that the next flit returns: of the lowest virtual channel that has any, at most 31. -/
def Welt.returns (w : Welt) : Nat × Nat :=
  match w.freed.find? (fun e => e.2 != 0) with
  | some e => (e.1, min 31 e.2)
  | none => (0, 0)

/-- R387: the flit that goes out next through a port of `die` to die `dst`. -/
def Welt.flit (w : Welt) (die dst : Nat) (x : WeltLoad) : WeltFlit :=
  let r := w.returns
  let ends := x.ends.getD (die, dst)
  withCrc ((List.range 8).map (nth x.payload) ++ [word (at' x.vc 3 61 + at' x.sched.toNat 1 60 + at' x.head.toNat 1 59 + at' x.tail.toNat 1 58 + at' x.valid.toNat 1 57 + at' x.cls 1 56
    + at' w.txSeq 8 48 + at' (w.rxSeq + 255) 8 40 + at' w.naking.toNat 1 39 + at' ends.2 7 32 + at' ends.1 7 25)]) (at' r.1 3 29 + at' r.2 5 24)

/-- R387, R388: a flit goes out: it takes a WSEQ, and the sender keeps its last 64. -/
def weltSend (s : State) (die port : Nat) (x : WeltLoad) : State :=
  let w := welt s die port
  let f := w.flit die (((weltPartner die port).map (·.1)).getD 0) x
  let sent := w.sent ++ [f]
  let r := w.returns
  emit (setWelt s die port (fun w => { w with
    txSeq := (w.txSeq + 1) % 256
    sent := sent.drop (sent.length - 64)
    freed := if r.2 = 0 then w.freed else tmod 0 w.freed r.1 (· - r.2) })) (.weltFlit die port f)

/-- R387, R391: a scheduled granule crosses the welts of its path, on WVC 0 (log 71). -/
def crossScheduled (s : State) (path : List Nat) (src dst : Nat) (bs : List Byte) : State :=
  path.foldl (fun s w =>
    if (welt s (w / 16) (w % 16)).carries then
      weltSend s (w / 16) (w % 16) { payload := wordsOf (padTo 64 bs) 8, head := true, tail := true, valid := true, sched := true, ends := some (src, dst) }
    else s) s

/-- R391: a scheduled granule goes from a physical tile to an eyelet die, and from an eyelet die to a tile, by the one fixed path. -/
def crossOut (s : State) (p die : Nat) (bs : List Byte) : State := crossScheduled s (Config.weltPath p die) p (92 + die) bs
def crossIn (s : State) (p die : Nat) (bs : List Byte) : State :=
  crossScheduled s ((Config.weltPath p die).reverse.filterMap (fun w => (weltPartner (w / 16) (w % 16)).map (fun q => 16 * q.1 + q.2))) (92 + die) p bs

/-- R387: idle flits return the credits that are due (log 71). -/
def weltCredits : Nat → State → Nat → Nat → State
  | 0, s, _, _ => s
  | n + 1, s, die, port =>
    let w := welt s die port
    if w.carries && w.returns.2 != 0 then weltCredits n (weltSend s die port {}) die port else s

/-- R388: the flits kept from a WSEQ on go out again, oldest first; a replay is counted. -/
def weltReplay (s : State) (die port seq : Nat) : State :=
  let again := (welt s die port).sent.dropWhile (fun f => wfSeq f != seq)
  if again.isEmpty then s else rinc (again.foldl (fun s f => emit s (.weltFlit die port f)) s) (Reg.weltReplays.at (16 * die + port))

/-- R386, R387: `n` flit buffers of a virtual channel at the input from a welt are free again. -/
def weltFree (s : State) (die port vc n : Nat) : State :=
  weltCredits 32 (setWelt s die port (fun w => { w with freed := tmod 0 w.freed vc (· + n) })) die port

/-- R388, R389: what the sender learns from a flit accepted: credits; what is received; and, from a NAK, the flit to replay from. -/
def onWeltAck (s : State) (die port : Nat) (f : WeltFlit) : State :=
  let next := (wfAck f + 1) % 256
  let s1 := setWelt s die port (fun w => { w with
    used := tmod 0 w.used (wfCrVc f) (· - wfCrCount f)
    acked := if (next + 256 - w.acked) % 256 ≤ w.unacked then next else w.acked })
  if !wfNak f then setWelt s1 die port (fun w => { w with replayed := none, failedReplays := 0 })
  else if (welt s1 die port).sent.any (fun x => wfSeq x == next) then
    weltReplay (setWelt s1 die port (fun w => { w with
      replayed := some next
      failedReplays := if w.replayed = some next then w.failedReplays + 1 else 0 })) die port next
  else s1

/-- R386: the port of I/O die `i` whose partner is I/O die `j`. -/
def ioPort (i j : Nat) : Nat := if j < i then j else j - 1

end Sys2Proof.Machine
end

