-- ==== Sys2Proof/Machine/Routing.lean ====
section
/-! DEFINITION. Routing (R195 to R218): lane states as the router sees them, the choice routine, heads, crossings between slices, grants, and
the swap of banks. -/

namespace Sys2Proof.Machine

/-! ### Lanes as the router sees them (R204, R432) -/

/-- Chip of the package that sends on a received lane, from the beacon accepted last (R268). -/
def lanePartner (l : Lane) : Option Nat := if l.accepted.isEmpty then none else some (fld (nth l.accepted 0) 63 52)

/-- R431: in SEALED mode, a lane whose partner is in the peer set. -/
def laneSealed (s : State) (l : Lane) : Bool :=
  sealedMode s && (match lanePartner l with | some c => s.tenancy.vals.peers.contains c | none => false)

/-- The received lane that makes one link with the sent lane k of an eyelet (R258, R272): it comes from the package that receives k. -/
def rxOf (s : State) (e k : Nat) : Lane := lane s e (reverseLane e k)

/-- R204. -/
inductive LaneStatus where
  | down | inService | paused
  deriving DecidableEq, Repr

/-- R204, R223, R232, R266, R432: state of the sent lane k of a physical eyelet, as the router sees it: of the direction it sends (R256). -/
def laneStatus (s : State) (e k : Nat) : LaneStatus :=
  let l := lane s e k
  let r := rxOf s e k
  if r.train != .serve then .down
  else if laneSealed s r && (l.sealTx.isNone || r.sealRx.isNone) then .down
  else if l.paused || l.txIdle || l.switching then .paused
  else .inService

/-- R204, R232, R244: state of lane k, the worse of its two directions: DOWN, or PAUSED as sender or as receiver. -/
def laneState (s : State) (e k : Nat) : LaneStatus :=
  let l := lane s e k
  let t := laneStatus s e k
  if l.train != .serve || t == .down then .down
  else if t == .paused || l.rxIgnore || l.rxNext == some true then .paused
  else .inService

/-- R300: lane k is IN_SERVICE in both directions. -/
def laneServes (s : State) (e k : Nat) : Bool := laneState s e k == .inService

/-- R432: in SEALED mode a packet between members of the peer set never leaves on a lane to a partner outside it. -/
def laneBars (s : State) (e k : Nat) (p : Packet) : Bool :=
  sealedMode s && !laneSealed s (rxOf s e k) && s.tenancy.vals.peers.contains p.src && s.tenancy.vals.peers.contains p.dst

/-! ### The choice (R202, R203) -/

def entryMode (w : Word) : Nat := fld w 63 62
def entryChoices (w : Word) : Nat := fld w 61 60 + 1
def entryChoice (w : Word) (i : Nat) : Nat := fld w (14 * i + 13) (14 * i)
def chEyelet (c : Nat) : Nat := bits c 13 9
def chLane (c : Nat) : Nat := bits c 8 4
def chSet (c : Nat) : Nat := bits c 3 2

/-- The answer of the choice routine. -/
inductive Choice where
  | take (choice : Nat)
  | wait
  | none
  deriving DecidableEq, Repr

/-- R203: the choice routine over the choices from index `i` on. -/
def choose (s : State) (w : Word) (p : Packet) : Choice :=
  let n := entryChoices w
  let i := (p.pathKey + p.hops) % n
  let cs := (List.range n).map (fun t => entryChoice w ((i + t) % n))
  let stat (c : Nat) : LaneStatus :=
    let e := physEyelet s (chEyelet c)
    if laneBars s e (chLane c) p then .down else laneStatus s e (chLane c)
  match cs.find? (fun c => stat c == .inService) with
  | some c => .take c
  | Option.none => if cs.any (fun c => stat c == .paused) then .wait else .none

/-- R202, R203: how a head for another chip leaves. -/
def routeOf (s : State) (p : Packet) : Choice :=
  let w := tget 0 s.router.active p.dst
  if entryMode w = 2 then choose s w p else .none

/-- R203, R213: the header as the packet leaves: HOPS incremented, CLASS by the choice. -/
def leaveHeader (p : Packet) (c : Nat) : List Word :=
  match p.hdr with
  | w0 :: ws =>
    let cls := match chSet c with | 1 => 0 | 2 => 1 | _ => p.cls
    let v := w0.toNat - at' p.cls 1 37 - at' p.hops 4 31
    word (v + at' cls 1 37 + at' (p.hops + 1) 4 31) :: ws
  | [] => []

/-! ### Operations that end at the source (R204) -/

/-- The end of an operation's request: its granule written or read, or its failure. -/
def completeOrigin (s : State) (o : Origin) (status reason note : Nat) (data : List Byte) : State :=
  match o with
  | .copyWrite ctx g => copyWriteAck s ctx g status reason note
  | .copyRead ctx g => copyReadAck s ctx g status reason note data
  | .bulk req off => bulkRead s req off status data
  | .snap => snapAck s status reason
  | .restore g => restoreAck s g status data
  | .other => s

/-- R204: the lace operation that sent message `m` completes with NO_ROUTE. -/
def noRouteLace (s : State) (m : List Word) : State :=
  match (laceSet s (lmSet m)).ops.find? (fun o => o.seq == lmSeq m) with
  | some o => laceEnd s (lmSet m) o.queue o.id { status := Code.noRoute }
  | none => s

/-- R204: the operation whose packet `p` finds no route at the source completes with NO_ROUTE. -/
def noRoute (s : State) (p : Packet) : State :=
  if p.kind = kLace then noRouteLace s (wordsOf p.payload 8)
  else if !p.isRequest then s
  else
    let d := tget {} s.fabric.out p.dst
    match d.sent.find? (fun o => o.tag == p.tag) with
    | none => s
    | some o =>
      let s1 := { s with fabric := { s.fabric with out := tput s.fabric.out p.dst { d with sent := d.sent.filter (fun q => q.tag != p.tag) } } }
      completeOrigin s1 o.origin Code.noRoute 0 0 []

/-! ### Ports and buffers (R195, R196) -/

/-- The port of lane k of eyelet e, and of the input of slice `i` from slice `j`. -/
def lanePort (e k : Nat) : Nat := 1 + laneKey e k
def inputPort (i j : Nat) : Nat := 1029 + 4 * i + j

/-- R195: the slice of a port. -/
def portSlice (port : Nat) : Nat := if port < 1025 then (port - 1) / 256 else if port < 1029 then port - 1025 else (port - 1029) / 4

/-- R199: the key of the downstream buffer that is a sent lane's, and of one that is an input's. -/
def bufKey (e k vc cls : Nat) : Nat := 8 * laneKey e k + 2 * vc + cls
def inputKey (port vc cls : Nat) : Nat := 8 * (port - 1) + 2 * vc + cls

/-- The flits of a packet that have come: the header `hdr`, then payload. -/
def Grant.flits (g : Grant) : List (List Byte) :=
  bytesOf (g.hdr.take 8) :: (List.range (g.head.pkt.payload.length / 64)).map (fun i => (g.head.pkt.payload.drop (64 * i)).take 64)

/-- R199: the next flit of a granted packet, where it has come. -/
def Grant.next (g : Grant) : Option (List Byte) := g.flits[g.sent]?

/-- R199: whether the flit sent next is the tail. -/
def Grant.atTail (g : Grant) : Bool := g.head.pkt.flits ≤ g.sent + 1

/-- A packet that has more flits to come on an input's virtual channel and class. -/
def Head.takes (h : Head) (port vc cls : Nat) : Bool := h.port == port && h.pkt.vc == vc && h.pkt.cls == cls && !h.pkt.whole

/-- Every packet in the router has its next flit appended by `f`. -/
def Router.mapHeads (r : Router) (f : Head → Head) : Router :=
  { r with
    waiting := r.waiting.map f
    chosen := r.chosen.map (fun c => { c with head := f c.head })
    granted := r.granted.map (fun g => (g.1, { g.2 with head := f g.2.head }))
    dropping := r.dropping.map f }

/-- Every packet in the router. -/
def Router.heads (r : Router) : List Head := r.waiting ++ r.chosen.map (·.head) ++ r.granted.map (·.2.head) ++ r.dropping

/-- R199: flits freed of an input buffer return as credits; a local port has none. -/
def freeInput (s : State) (port vc cls n : Nat) : State :=
  if port = 0 then s
  else if port < 1025 then setLane s ((port - 1) / 32) ((port - 1) % 32) (fun l => { l with freedTx := tmod 0 l.freedTx (2 * vc + cls) (fun v => (v + n) % 512) })
  else if port < 1029 then s
  else weltFree { s with router := { s.router with used := tmod 0 s.router.used (inputKey port vc cls) (· - n) } }
    (88 + (port - 1029) / 4) (ioPort ((port - 1029) / 4) ((port - 1029) % 4)) vc n

/-- A whole packet leaves its input: its flits are freed. -/
def takeHead (s : State) (h : Head) : State :=
  freeInput { s with router := { s.router with waiting := s.router.waiting.erase h } } h.port h.pkt.vc h.pkt.cls h.pkt.flits

/-- A packet is given up: the flits of it that are here, `n`, are freed now, the rest as they come (R201). -/
def giveUp (s : State) (h : Head) (n : Nat) : State :=
  freeInput (if h.pkt.whole then s else { s with router := { s.router with dropping := s.router.dropping ++ [h] } }) h.port h.pkt.vc h.pkt.cls n

/-- R201: a packet cut short that crosses to another slice ends there as well: what has come to that slice's input is given up, and a header
still on its way is given up when it comes; `n` slices on. -/
def cutCrossing : Nat → State → Head → State
  | 0, s, _ => s
  | n + 1, s, h =>
    match s.router.granted.find? (fun g => g.2.head == h && 1028 ≤ g.1 / 8) with
    | none => s
    | some g =>
      let s1 := { s with router := { s.router with granted := tdel s.router.granted g.1 } }
      match s1.router.heads.find? (fun x => x.takes (g.1 / 8 + 1) (g.1 % 8 / 2) (g.1 % 2) && !s1.router.dropping.contains x) with
      | none => if g.2.sent = 0 then s1 else { s1 with router := { s1.router with cut := s1.router.cut ++ [g.1] } }
      | some x =>
        let s2 := cutCrossing n s1 x
        let here := match s1.router.granted.find? (fun q => q.2.head == x) with
          | some q => q.2.flits.length - q.2.sent
          | none => 1 + x.pkt.payload.length / 64
        giveUp { s2 with router := { s2.router with
          waiting := s2.router.waiting.erase x
          chosen := s2.router.chosen.filter (fun c => c.head != x)
          granted := s2.router.granted.filter (fun q => q.2.head != x) } } x here

/-- Change a head in place. -/
def replaceHead (s : State) (h h' : Head) : State :=
  { s with router := { s.router with waiting := s.router.waiting.map (fun x => if x = h then h' else x) } }

/-- Virtual channels and classes in the order of R200. -/
def vcOrder : List (Nat × Nat) := [(3, 0), (3, 1), (1, 0), (1, 1), (2, 0), (2, 1), (0, 0), (0, 1)]

/-! ### Crossings between slices (R195, R199) -/

/-- R199: the flit of a granted packet that leaves now: its buffer at the input is free, and after the tail the grant ends. -/
def sentFlit (s : State) (key : Nat) (g : Grant) : State :=
  freeInput { s with router := { s.router with
    granted := if g.atTail then tdel s.router.granted key else tput s.router.granted key { g with sent := g.sent + 1 } } } g.head.port g.head.pkt.vc g.head.pkt.cls 1

/-- Flits that one call of `crossFlits` may send: of two packets on each virtual channel. -/
abbrev crossFuel : Nat := 520

/-- R195, R388: granted packets cross the welt from slice `i` to slice `j`, flit by flit, while it carries flits and fewer than 64 are without
acknowledgement; the order among virtual channels is that of R200 (log 71). -/
def crossFlits : Nat → State → Nat → Nat → State
  | 0, s, _, _ => s
  | n + 1, s, i, j =>
    let w := welt s (88 + i) (ioPort i j)
    let port := inputPort j i
    let go := vcOrder.findSome? (fun p => (tget? s.router.granted (inputKey port p.1 p.2)).bind (fun g => g.next.map (fun f => (p, g, f))))
    match go with
    | some (p, g, f) =>
      if w.carries && w.unacked < 64 then
        let s1 := weltSend s (88 + i) (ioPort i j)
          { payload := wordsOf f 8, vc := p.1, head := g.sent == 0, tail := g.atTail, valid := true, cls := p.2 }
        let key := inputKey port p.1 p.2
        let s2 := setWelt s1 (88 + i) (ioPort i j) (fun w => { w with used := tmod 0 w.used p.1 (· + 1) })
        let s3 := { s2 with router := { s2.router with used := tmod 0 s2.router.used key (· + 1) } }
        crossFlits n (sentFlit s3 key g) i j
      else s
    | none => s

/-- R195, R196, R199: a head whose choice lies on another slice is granted that slice's input from here once the buffer of its virtual channel
and class there is empty, its credits are back (what is out on the virtual channel is the other class's) and no packet crosses to it; else it
waits, and tries again as a head that got WAIT does (log 71). -/
def crossHead (s : State) (h : Head) (j : Nat) : State :=
  let i := portSlice h.port
  let w := welt s (88 + i) (ioPort i j)
  let key := inputKey (inputPort j i) h.pkt.vc
  if w.carries && tget 0 s.router.used (key h.pkt.cls) == 0 && tget 0 w.used h.pkt.vc ≤ tget 0 s.router.used (key (1 - h.pkt.cls))
      && (tget? s.router.granted (key h.pkt.cls)).isNone then
    crossFlits crossFuel { s with router := { s.router with
      waiting := s.router.waiting.erase h
      granted := tput s.router.granted (key h.pkt.cls) { head := h, hdr := h.pkt.hdr } } } i j
  else replaceHead s h { h with waited := true }

/-! ### Flits that arrive at an input (R196, R199, R431) -/

/-- A packet whose flit has just come: one given up frees it; one that crosses sends it on. -/
def afterFlit (s : State) (h : Head) : State :=
  if s.router.dropping.contains h then
    freeInput (if h.pkt.whole then { s with router := { s.router with dropping := s.router.dropping.erase h } } else s) h.port h.pkt.vc h.pkt.cls 1
  else
    match s.router.granted.find? (fun g => g.2.head == h) with
    | some g => if 1028 ≤ g.1 / 8 then crossFlits crossFuel s (portSlice h.port) ((g.1 / 8 - 1028) / 4) else s
    | none => s

/-- R196, R199: a packet's header arrives at an input: it waits there at once, or is given up where its packet has been cut short (R201). What
was still to come of one given up on its virtual channel and class comes no more. -/
def arriveHead (s : State) (port : Nat) (h : Head) : State :=
  let key := inputKey port h.pkt.vc h.pkt.cls
  let s1 := { s with router := { s.router with dropping := s.router.dropping.filter (fun x => !x.takes port h.pkt.vc h.pkt.cls) } }
  if s.router.cut.contains key then giveUp { s1 with router := { s1.router with cut := s1.router.cut.erase key } } h 1
  else { s1 with router := { s1.router with waiting := s1.router.waiting ++ [h] } }

/-- R196, R199: a flit arrives at an input: a header, or with a virtual channel and class the next flit of the packet that has more to come on
them. -/
def arrive (s : State) (port : Nat) (dest : Option (Nat × Nat)) (flit : List Byte) : State :=
  match dest with
  | none => arriveHead s port { port := port, pkt := { hdr := wordsOf flit 8, payload := [] } }
  | some p =>
    match s.router.heads.find? (fun h => h.takes port p.1 p.2) with
    | none => s
    | some h =>
      let h' := { h with pkt := { h.pkt with payload := h.pkt.payload ++ padTo 64 flit } }
      afterFlit { s with router := s.router.mapHeads (fun x => if x = h then h' else x) } h'

/-! ### Heads (R199, R203 to R205) -/

/-- R204: this package is the source of the packet. -/
def atSource (s : State) (p : Packet) : Bool := p.src == ownChip s && p.hops == 0

/-- R203 to R205: route one head: delivered, dropped, chosen, or kept waiting; delivery and dropping act on a whole packet.
An unassigned package passes nothing on (R176, log 64). -/
def routeOne (s : State) (h : Head) : State :=
  let p := h.pkt
  if p.dst = ownChip s && !unassigned s then
    if !p.whole then s
    else
      let s1 := takeHead s h
      if p.wellFormed || p.isRequest then emit s1 (.deliver p) else rinc s1 Reg.routeDrops
  else if unassigned s then (if p.whole then takeHead s h else s)
  else if !atSource s p && p.hops = rget s Reg.maxHops then (if p.whole then rinc (takeHead s h) Reg.hopDrops else s)
  else
    match routeOf s p with
    | .none => if !p.whole then s else if atSource s p then noRoute (takeHead s h) p else rinc (takeHead s h) Reg.routeDrops
    | .wait => replaceHead s h { h with waited := true }
    | .take c =>
      let e := physEyelet s (chEyelet c)
      if e / 8 ≠ portSlice h.port then crossHead s h (e / 8)
      else
        { s with router := { s.router with
          waiting := s.router.waiting.erase h
          chosen := s.router.chosen ++ [{ eyelet := e, lane := chLane c, hdr := leaveHeader p c, head := h }] } }

/-- The oldest head of an input buffer; an input serves its heads in order. -/
def headAt (s : State) (port vc cls : Nat) : Option Head :=
  s.router.waiting.find? (fun h => h.port == port && h.pkt.vc == vc && h.pkt.cls == cls)

/-- ROUTE_HEAD (R203 to R205, R209): the router routes no head while a swap holds it. -/
def execRouteHead (port vc cls : Nat) (s : State) : Host.Outcome State Fault Refusal :=
  .next (if s.router.state != .serving then s
    else
      match headAt s port vc cls with
      | some h => if h.waited then s else routeOne s h
      | none => s)

/-- ROUTE_WAIT_RETRY (R203): a head that got WAIT tries again. -/
def execRouteWaitRetry (port vc cls : Nat) (s : State) : Host.Outcome State Fault Refusal :=
  .next (if s.router.state != .serving then s
    else
      match headAt s port vc cls with
      | some h => if h.waited then routeOne s h else s
      | none => s)

/-- The class that a header gives (R197). -/
def hdrClass (hdr : List Word) : Nat := fld (nth hdr 0) 37 37

/-- HEAD_GRANT (R199, R216): the oldest head chosen for a lane's buffer is granted it when all 65 credits have returned and no packet
still crosses; a lane that a fitting pass or a failover holds, or on which a pass is due, is granted nothing. -/
def execHeadGrant (eyelet lane vc cls : Nat) (s : State) : Host.Outcome State Fault Refusal :=
  let key := bufKey eyelet lane vc cls
  .next (if s.router.state != .serving || laneStatus s eyelet lane != .inService || ((Machine.lane s eyelet lane).fitDue && !lastRunning s)
      || tget 0 s.router.used key != 0 || (tget? s.router.granted key).isSome then s
    else
      match s.router.chosen.find? (fun c => c.eyelet == eyelet && c.lane == lane && c.head.pkt.vc == vc && hdrClass c.hdr == cls) with
      | none => s
      | some c =>
        let s1 := { s with router := { s.router with
            chosen := s.router.chosen.erase c
            granted := tput s.router.granted key { head := c.head, hdr := c.hdr } } }
        if atSource s c.head.pkt then s1 else radd s1 (Reg.transitBySource.at c.head.pkt.src) c.head.pkt.flits)

/-- Heads that have a choice and no grant go back to wait for a new choice, in front (R201, R209). -/
def unchoose (s : State) (which : Chosen → Bool) : State :=
  { s with router := { s.router with
      waiting := (s.router.chosen.filter which).map (fun c => { c.head with waited := false }) ++ s.router.waiting
      chosen := s.router.chosen.filter (fun c => !which c) } }

/-! ### Banks (R207, R210, R218) -/

/-- R209: code of a swap state. -/
def swapCode (x : SwapState) : Nat := match x with | .serving => 0 | .holding => 1 | .swapping => 2 | .held => 3

/-- The 4,096 entries of a bank as bytes, and a bank from bytes. -/
def bankBytes (t : Tab Word) : List Byte := bytesOf ((List.range 4096).map (fun i => tget 0 t i))
def bankOf (bs : List Byte) : Tab Word := ((List.range 4096).map (fun i => (i, wordAt bs i))).filter (fun e => e.2 != 0)

/-- R207, R210: route_shadow. -/
def wRouteShadow (v : List Byte) (s : State) : Nat × State :=
  if v.length ≠ 32768 then refuse s Code.lengthMismatch
  else if s.router.state != .serving then refuse s Code.routeBusy
  else accept (flashCommit { s with router := { s.router with shadow := bankOf v } } .banks)

/-- R207, R210: route_entry. -/
def wRouteEntry (v : Nat) (s : State) : Nat × State :=
  if s.router.state != .serving then refuse s Code.routeBusy
  else accept (flashCommit { s with router := { s.router with shadow := tset 0 s.router.shadow (rget s Reg.routeEntrySel) (word v) } } .banks)

/-- R207, R210, R218: route_copy. -/
def wRouteCopy (v : Nat) (s : State) : Nat × State :=
  if s.router.state != .serving then refuse s Code.routeBusy
  else if v ≠ 1 then refuse s Code.valueRefused
  else accept (flashCommit { s with router := { s.router with shadow := s.router.active } } .banks)

/-- R208: whether an entry of the shadow bank is faulty. LANE 0 of a group eyelet counts in the used choices of a FORWARD entry only (DESIGN
CHOICE, log 99). -/
def entryFaulty (c : Nat) (w : Word) : Bool :=
  let chs := (List.range 4).map (fun i => (i, entryChoice w i))
  entryMode w == 1 || entryMode w == 3 || fld w 59 56 != 0
    || chs.any (fun x => chSet x.2 == 3 || bits x.2 1 0 != 0 || (entryChoices w ≤ x.1 && x.2 != 0))
    || (entryMode w == 2 && chs.any (fun x => x.1 < entryChoices w && chEyelet x.2 < 24 && chLane x.2 == 0))
    || (0xF00 ≤ c && entryMode w != 0)

/-- R208, R209, R210, R218: route_swap. -/
def wRouteSwap (v : Nat) (s : State) : Nat × State :=
  if s.router.state != .serving then refuse s Code.routeBusy
  else if v ≠ 1 ∧ v ≠ 2 then refuse s Code.valueRefused
  else if !newer 16 (rget s Reg.shadowGeneration) (rget s Reg.activeGeneration) then (Code.valueRefused, rset s Reg.swapResult 2)
  else
    match s.router.shadow.find? (fun e => entryFaulty e.1 e.2) with
    | some e => (Code.valueRefused, rset (rset s Reg.swapResult 3) Reg.swapBadIndex e.1)
    | none => accept (unchoose { s with router := { s.router with state := .holding, swapValue := v } } (fun _ => true))

/-- R209, R218: route_release. -/
def wRouteRelease (v : Nat) (s : State) : Nat × State :=
  if s.router.state != .held then refuse s Code.routeBusy
  else if v ≠ 1 then refuse s Code.valueRefused
  else accept { s with router := { s.router with state := .serving } }

/-- ROUTE_SHADOW_WRITE (R207). -/
def execRouteShadowWrite (via : Via) (v : List Byte) (s : State) : Host.Outcome State Fault Refusal := .next (doWrite s via 0x2300 4 (wRouteShadow v))
/-- ROUTE_ENTRY_WRITE (R207). -/
def execRouteEntryWrite (via : Via) (v : Nat) (s : State) : Host.Outcome State Fault Refusal := .next (doWrite s via 0x2300 8 (wRouteEntry v))
/-- ROUTE_COPY (R207). -/
def execRouteCopy (via : Via) (v : Nat) (s : State) : Host.Outcome State Fault Refusal := .next (doWrite s via 0x2300 6 (wRouteCopy v))
/-- ROUTE_SWAP_RELEASE (R208, R209): route_swap written with 1. -/
def execRouteSwapRelease (via : Via) (s : State) : Host.Outcome State Fault Refusal := .next (doWrite s via 0x2300 9 (wRouteSwap 1))
/-- ROUTE_SWAP_HOLD (R208, R209): route_swap written with 2. -/
def execRouteSwapHold (via : Via) (s : State) : Host.Outcome State Fault Refusal := .next (doWrite s via 0x2300 9 (wRouteSwap 2))
/-- ROUTE_RELEASE (R209). -/
def execRouteRelease (via : Via) (v : Nat) (s : State) : Host.Outcome State Fault Refusal := .next (doWrite s via 0x2300 0xA (wRouteRelease v))

/-! ### The swap (R209) -/

/-- R209: no granted packet remains, on a lane or between slices. -/
def drained (s : State) : Bool := s.router.granted.isEmpty

/-- ROUTE_SWAP_EXCHANGE (R209): in HOLDING, once no granted packet remains, banks and generations exchange; then SERVING or HELD. -/
def execRouteSwapExchange (s : State) : Host.Outcome State Fault Refusal :=
  .next (if s.router.state != .holding || !drained s then s
    else
      let a := rget s Reg.activeGeneration
      let b := rget s Reg.shadowGeneration
      let ext := extend 16 s.router.genExt b
      let s1 := { s with router := { s.router with
          active := s.router.shadow
          shadow := s.router.active
          genExt := ext
          state := if s.router.swapValue = 2 then .held else .serving } }
      let s2 := rset (rinc (rset (rset s1 Reg.activeGeneration b) Reg.shadowGeneration a) Reg.swaps) Reg.swapResult 1
      flashCommit (traceFabric (traceGeneration s2 0 ext) 7 0 0 0 0 0) .banks)

/-- SWAP_DRAIN_TIMEOUT (R209). -/
def execSwapDrainTimeout (s : State) : Host.Outcome State Fault Refusal :=
  .next (if s.router.state = .holding then rset { s with router := { s.router with state := .serving } } Reg.swapResult 4 else s)

/-- ROUTE_HOLD_EXPIRY (R209). -/
def execRouteHoldExpiry (s : State) : Host.Outcome State Fault Refusal :=
  .next (if s.router.state = .held then rinc { s with router := { s.router with state := .serving } } Reg.holdExpiries else s)

end Sys2Proof.Machine
end

