-- ==== Sys2Proof/Machine/Sessions.lean ====
section
/-! DEFINITION. The end of segmented sessions and of DTLS sessions (R453). -/

namespace Sys2Proof.Machine

/-- R453: reasons of abandonment. -/
abbrev reasonCrc : Nat := 1
abbrev reasonTimeout : Nat := 2
abbrev reasonLink : Nat := 3
abbrev reasonHost : Nat := 4
abbrev reasonClosed : Nat := 5
abbrev reasonTenant : Nat := 6
abbrev reasonMalformedSeg : Nat := 7
abbrev reasonRst : Nat := 8

/-- A session ends: its buffer is released. -/
def dropSeg (s : State) (id : Nat) : State := { s with mgmt := { s.mgmt with segs := s.mgmt.segs.filter (fun g => g.id != id) } }

/-- R453: a session is abandoned: counted under its reason, which a later request that names it is told (R447). -/
def abandonSeg (s : State) (id reason : Nat) : State :=
  let s1 := dropSeg s id
  rinc { s1 with mgmt := { s1.mgmt with aborted := tput s1.mgmt.aborted id reason } } (Reg.sessionAborts.at (reason - 1))

/-- Every session that a condition takes. -/
def abandonAll (s : State) (which : Seg → Bool) (reason : Nat) : State :=
  (s.mgmt.segs.filter which).foldl (fun s g => abandonSeg s g.id reason) s

/-- A session of a mailbox channel, and one on a TEN entry. -/
def Seg.isMailbox (g : Seg) : Bool := Machine.isMailbox g.via
def Seg.onTen (g : Seg) : Bool := match findEntry (g.key / 256) (g.key % 256) with | some e => e.ten | none => false

/-- R453: a DTLS session ends, and its segmented sessions with it. -/
def endDtls (s : State) (n : Nat) : State :=
  let s1 := abandonAll s (fun g => g.via == .mgmt n) reasonLink
  { s1 with mgmt := { s1.mgmt with sessions := tdel s1.mgmt.sessions n, waiting := s1.mgmt.waiting.filter (fun x => x.1 != n) } }

/-- Every DTLS session ends. -/
def endAllDtls (s : State) : State := (s.mgmt.sessions.map (·.1)).foldl endDtls s

/-- R453: a standby copy takes over: every session ends. -/
def endEverySession (s : State) : State := abandonAll (endAllDtls s) Seg.isMailbox reasonLink

/-- R453: a SYNC packet from the chip that last rang a channel ends the channel's sessions. -/
def hostReset (s : State) (chip : Nat) : State :=
  abandonAll s (fun g => match g.via with | .mailbox c => tget? s.mgmt.mailboxChip c == some chip | .mgmt _ => false) reasonHost

/-- R423, R434: a key for exports is gone: what an open export session has still to give is zero. -/
def zeroExports (s : State) : State :=
  if !sealedMode s then s
  else { s with mgmt := { s.mgmt with segs := s.mgmt.segs.map (fun g => if g.key = entryKey 0x6200 0xE ∧ g.write = false then { g with data := zeros g.data.length } else g) } }

/-- R423, R434: reads that waited for an EXPORT slot which is gone are refused. -/
def refuseExports (s : State) : State :=
  s.mgmt.waiting.foldl (fun s x => rinc (emit s (.kdp (.mgmt x.1)
    { kind := fld x.2.w0 54 48, status := Code.sealedDenied, index := 0x6200, sub := 0xE, reqId := fld x.2.w1 63 32, segment := fld x.2.w1 15 0 })) Reg.sealedDenials)
    { s with mgmt := { s.mgmt with waiting := [] } }

/-- R422: export sessions that hold the EXPORT slot. -/
def exportRefs (s : State) : Nat := if sealedMode s then (s.mgmt.segs.filter (fun g => g.key == entryKey 0x6200 0xE && !g.write)).length else 0

end Sys2Proof.Machine
end

