-- ==== Sys2Proof/Machine/Fabric.lean ====
section
/-! DEFINITION. The fabric (R174 to R194): sending with sequence numbers, restoring order, performing requests, acknowledgements, timeouts;
scheduled blocks (R191, R298); and the regulators as they serve requests (R161). -/

namespace Sys2Proof.Machine

def peerOut (s : State) (c : Nat) : PeerOut := tget {} s.fabric.out c
def setOut (s : State) (c : Nat) (d : PeerOut) : State := { s with fabric := { s.fabric with out := tset {} s.fabric.out c d } }
def peerIn (s : State) (c : Nat) : PeerIn := tget {} s.fabric.inn c
def setIn (s : State) (c : Nat) (d : PeerIn) : State := { s with fabric := { s.fabric with inn := tset {} s.fabric.inn c d } }

/-! ### The source (R182, R184, R187) -/

/-- R148, R180, R385: the I/O die whose slice takes the request packets of an engine: of a tile's Stitchers its home die, of a privileged
Stitcher its own die, of bulk mode the die of the Lace unit; snapshots go from die 0 (log 71). -/
def originDie (s : State) (o : Origin) : Nat :=
  let ctxDie (c : Nat) : Nat := if c < 512 then tileDie (physTile s (c / 8)) else (c - 512) / 2
  match o with
  | .copyWrite c _ => ctxDie c
  | .copyRead c _ => ctxDie c
  | .bulk _ _ => s.queues.laceDie
  | _ => 0

/-- PACKET_SEND (R182, R184, R204, R209): the oldest request that waits for a destination takes the next SEQ and a TAG and joins the local
input of its slice; from UNSYNCED it is marked SYNC. One that finds no route completes with NO_ROUTE and takes no SEQ (log 16); while a swap
holds heads, that question waits. -/
def execPacketSend (dst : Nat) (s : State) : Host.Outcome State Fault Refusal :=
  let d := peerOut s dst
  .next (clocked s (match d.unsent with
    | [] => s
    | u :: rest =>
      let p0 := u.pkt.stamp d.next s.fabric.nextTag (d.next % 256) (d.state == .unsynced)
      if unassigned s || (dst != ownChip s && s.router.state == .serving && routeOf s p0 == .none) then
        completeOrigin (setOut s dst { d with unsent := rest }) u.origin Code.noRoute 0 0 []
      else if d.state = .syncing ∨ (d.state = .open ∧ rget s Reg.maxOutstanding ≤ d.sent.length) then s
      else
        let d' := { d with
          unsent := rest
          next := (d.next + 1) % 2 ^ 32
          sent := d.sent ++ [⟨d.next, s.fabric.nextTag, u.origin, if p0.kind = kRead then p0.rlen else 0⟩]
          state := if d.state = .unsynced then .syncing else d.state }
        let s1 := setOut { s with fabric := { s.fabric with nextTag := (s.fabric.nextTag + 1) % 65536 } } dst d'
        let s2 := if d.state = .unsynced then traceFabric s1 1 dst 0 0 d.next 0 else s1
        inject s2 (originDie s u.origin) p0))

/-- ACK_RECEIVED (R184, R185): a response ends the request with its TAG; the acknowledgement of the SYNC packet opens the destination.
A malformed response, or one whose LEN is not the RLEN of the READ it answers with OK, else 0, is dropped and counted (R198). -/
def execAckReceived (p : Packet) (s : State) : Host.Outcome State Fault Refusal :=
  .next (if p.kind ≠ kResponse then s
    else if !p.wellFormed then rinc s Reg.routeDrops
    else
      let d := peerOut s p.src
      let tag := fld p.arg0 31 16
      match d.sent.find? (fun o => o.tag == tag && o.seq == fld p.arg0 63 32) with
      | none => s
      | some o =>
        if p.len ≠ (if fld p.arg0 15 8 = Code.ok then o.rlen else 0) then rinc s Reg.routeDrops
        else
          let s1 := setOut s p.src { d with
            sent := d.sent.filter (fun q => q.tag != tag)
            state := if d.state = .syncing then .open else d.state }
          completeOrigin s1 o.origin (fld p.arg0 15 8) (fld p.arg1 63 61) (fld p.arg0 7 0) p.payload)

/-- The copy contexts among origins. -/
def ctxsOf (os : List Origin) : List Nat :=
  os.foldl (fun l o =>
    match o with
    | .copyWrite c _ => if l.contains c then l else l ++ [c]
    | .copyRead c _ => if l.contains c then l else l ++ [c]
    | _ => l) []

/-- R187: whether two request packets belong to one operation. -/
def Origin.same (a b : Origin) : Bool :=
  match a, b with
  | .bulk r _, .bulk q _ => r == q
  | .snap, .snap => true
  | .restore _, .restore _ => true
  | _, _ => !(ctxsOf [a]).isEmpty && ctxsOf [a] == ctxsOf [b]

/-- R187: what an operation that has ended leaves at its source: no packet of it is sent any more, and an answer still to come finds nothing. -/
def PeerOut.forget (d : PeerOut) (os : List Origin) : PeerOut :=
  let dead := fun (o : Origin) => os.any (fun x => x.same o)
  { d with
    unsent := d.unsent.filter (fun u => !dead u.origin)
    sent := d.sent.map (fun x => if dead x.origin then { x with origin := .other } else x) }

/-- ACK_TIMEOUT (R184, R187): every operation with an outstanding packet to the destination completes with FABRIC_TIMEOUT, and the destination
is UNSYNCED; so it is when the SYNC packet found no route and nothing is outstanding. -/
def execAckTimeout (dst : Nat) (s : State) : Host.Outcome State Fault Refusal :=
  let d := peerOut s dst
  let os := d.sent.map (·.origin)
  .next (if d.sent.isEmpty then (if d.state = .syncing then setOut s dst { d with state := .unsynced } else s)
    else
      let s1 := setOut s dst { d with sent := [], state := .unsynced }
      let s2 := { s1 with fabric := { s1.fabric with out := s1.fabric.out.map (fun e => (e.1, e.2.forget os)) } }
      let s3 := traceFabric (rinc s2 Reg.fabricTimeouts) 3 dst 0 0 d.next d.sent.length
      let s4 := (ctxsOf os).foldl copyTimeout s3
      let s5 := if os.contains .snap then snapTimeout s4 else s4
      let s5 := if os.any (fun o => match o with | .restore _ => true | _ => false) then restoreTimeout s5 else s5
      os.foldl (fun s o => match o with | .bulk r _ => bulkRead s r 0 Code.fabricTimeout [] | _ => s) s5)

/-! ### The destination: order (R178, R183, R184) -/

/-- R494, R518: from RESTORING until REPLAYING ends, live requests are answered ROLLING_BACK. -/
def rollingBack (s : State) : Bool :=
  match s.faults.rollback with
  | .restoring => true
  | .armedReplay => true
  | .replaying => true
  | _ => false

/-- Bytes a packet takes in the reorder pool, 64 for each flit (DESIGN CHOICE, log 98), and those in use on an ordering die. -/
def poolBytes (p : Packet) : Nat := 64 * (1 + p.len)
def poolUsed (s : State) (die : Nat) : Nat :=
  ((s.fabric.inn.filter (fun e => e.1 % 4 == die)).map (fun e => (e.2.held.map (fun h => poolBytes h.pkt)).sum)).sum

/-- The granules a request touches, as offsets. -/
def requestGranules (p : Packet) : List Nat :=
  (List.range (if p.kind = kWrite then p.len else if p.kind = kRead then p.rlen else 1)).map (fun i => p.offset + 64 * i)

/-- A physical address as one number. -/
def physNum (x : Loc) : Nat :=
  match x with
  | .hbm a => a
  | .scr t a => 0x10000000000 + t * 0x2000000 + a
  | .opnd _ _ => 0

/-- R147, R180: translate a request on the die where it enters, granule by granule; a privileged one carries a physical address. -/
def translateGranules (s : State) (die : Nat) (p : Packet) : (Nat × Nat × List Nat) × State :=
  let ask : Ask := { read := p.kind == kRead || p.kind == kAtomic, write := p.kind != kRead, fabric := true }
  (requestGranules p).foldl (fun (r : (Nat × Nat × List Nat) × State) a =>
    if r.1.1 ≠ Code.ok then r
    else
      match translateInbound r.2 die a ask with
      | (.ok x, s1) => ((Code.ok, 0, r.1.2.2 ++ [physNum x]), s1)
      | (.error e, s1) => ((e.1, e.2, []), s1)) ((Code.ok, 0, []), s)

/-- R144, R168: the target of an atomic must translate to HBM before its page's bits are checked. -/
def translateRequest (s : State) (die : Nat) (p : Packet) : (Nat × Nat × List Nat) × State :=
  if p.priv then
    ((if (requestGranules p).all (fun a => a < hbmBytes) then (Code.ok, 0, requestGranules p) else (Code.xlateFault, reasonMalformed, [])), s)
  else if p.kind = kAtomic then
    match translateInbound s die p.offset {} with
    | (.ok (.hbm _), s1) => translateGranules s1 die p
    | (.ok _, s1) => ((Code.xlateFault, reasonMalformed, []), s1)
    | (.error e, s1) => ((e.1, e.2, []), s1)
  else translateGranules s die p

/-- Discard a source's held packets: counted, one trace record each way. -/
def dropHeld (s : State) (src : Nat) (d : PeerIn) (n : Nat) : State :=
  if n = 0 then s else traceFabric (radd s Reg.reorderDrops n) 4 src 0 0 d.expected n

/-- R183: release a packet and those held behind it. -/
def releaseChain : Nat → PeerIn → PeerIn
  | 0, d => d
  | n + 1, d =>
    match d.held.find? (fun h => h.seq == d.expected) with
    | some h => releaseChain n { d with held := d.held.erase h, released := d.released ++ [h], expected := (d.expected + 1) % 2 ^ 32 }
    | none => d

/-- R190, R510: an inbound request is logged as it is released. -/
def logRequest (s : State) (p : Packet) : State := treadLog s 1 p.src 0 0 (bytesOf (p.hdr.take 8) ++ p.payload)

/-- R190: packets released are logged in release order. -/
def logReleased (s : State) (hs : List HeldPkt) : State := hs.foldl (fun s h => logRequest s h.pkt) s

/-- R494: a request released from RESTORING until REPLAYING ends is answered ROLLING_BACK, whenever its turn comes. -/
def refuseNew (s : State) (n : Nat) (hs : List HeldPkt) : List HeldPkt :=
  if rollingBack s then hs.take n ++ (hs.drop n).map (fun h => { h with status := Code.rollingBack, reason := 0, phys := [] }) else hs

/-- R183: the routine on_packet after the SYNC part, for a packet already translated. -/
def sequenced (s : State) (src : Nat) (d : PeerIn) (h : HeldPkt) : State :=
  let k := (h.seq + 2 ^ 32 - d.expected) % 2 ^ 32
  if !d.isOpen then dropHeld (setIn s src d) src d 1
  else if k = 0 then
    let d1 := { d with released := d.released ++ [h], expected := (d.expected + 1) % 2 ^ 32 }
    let d2 := releaseChain (d1.held.length + 1) d1
    logReleased (setIn s src { d2 with released := refuseNew s d.released.length d2.released }) (d2.released.drop d.released.length)
  else if k < rget s Reg.maxOutstanding then
    if poolUsed s (src % 4) + poolBytes h.pkt ≤ rget s Reg.reorderPoolBytes then setIn s src { d with held := d.held ++ [h] }
    else dropHeld (setIn s src { d with isOpen := false }) src d 1
  else if 2 ^ 31 ≤ k then dropHeld (setIn s src d) src d 1
  else dropHeld (setIn s src { d with isOpen := false }) src d 1

/-- PACKET_ARRIVAL (R178, R183): a request that has reached this package by a lane of an eyelet. A source outside the peer set is dropped and
counted; else the packet is translated on the die of entry and sequenced on the ordering die. -/
def execPacketArrival (eyelet _lane nowUs : Nat) (p : Packet) (s : State) : Host.Outcome State Fault Refusal :=
  .next (clocked s (if p.dst ≠ ownChip s ∨ !p.isRequest then s
    else if !s.tenancy.vals.peers.contains p.src then rinc s Reg.foreignDrops
    else
      let d := peerIn s p.src
      let x := if p.wellFormed then translateRequest s (eyelet / 8) p else ((Code.reservedSet, 0, []), s)
      let h : HeldPkt := { seq := p.seq, pkt := p, stampUs := nowUs, status := x.1.1, reason := x.1.2.1, phys := x.1.2.2 }
      if p.sync then
        let s1 := dropHeld (hostReset x.2 p.src) p.src d d.held.length
        let s2 := traceFabric (rinc s1 Reg.resyncs) 2 p.src 0 0 p.seq 0
        sequenced s2 p.src { d with held := [], isOpen := true, expected := p.seq } h
      else sequenced x.2 p.src d h))

/-- REORDER_HOLD_EXPIRY (R183): the hold limit has passed for a packet of a source: all its held packets go, and it is RESYNC. -/
def execReorderHoldExpiry (src : Nat) (s : State) : Host.Outcome State Fault Refusal :=
  let d := peerIn s src
  .next (if d.held.isEmpty then s
    else dropHeld (setIn s src { d with held := [], isOpen := false }) src d d.held.length)

/-! ### The destination: effect and acknowledgement (R177, R180, R185, R186, R190) -/

/-- R180: whether a chip is a member of this package's group. -/
def groupMember (s : State) (chip : Nat) : Bool := (List.range 32).any (fun m => memberChip s m == some chip)

/-- The scratchpad granules among the places of a request: tile and granule. -/
def scratchPlaces (phys : List Nat) : List (Nat × Nat) :=
  phys.filterMap (fun a => match physLoc a with | some (.scr t x) => some (t, x / 64) | _ => none)

/-- R111, R113, R115, R177: whether one window admits all scratchpad granules of a WRITE or READ that needs one. -/
def windowsAdmit (s : State) (p : Packet) (phys : List Nat) : Bool :=
  match scratchPlaces phys with
  | [] => true
  | (t, g) :: rest =>
    if p.src = ownChip s then true
    else if p.src ≤ 0xEFF then rest.all (fun x => x.1 == t) && windowCovers s t (g :: rest.map (·.2)) (p.kind != kRead) false
    else ((t, g) :: rest).all (fun x => !(ptile s (physTile s x.1)).zeroising)

/-- R112: a refused request is counted at the tile it names. -/
def countRefusal (s : State) (phys : List Nat) : State :=
  match phys.find? (fun a => hbmBytes ≤ a) with
  | some a => match physLoc a with
    | some (.scr t _) => refuseWindow s t false
    | _ => s
  | none => s

/-- What a performed request answers. -/
structure Answer where
  status : Nat := 0
  reason : Nat := 0
  old : Nat := 0
  data : List Byte := []
  deriving DecidableEq, Repr

/-- Perform a request whose granules are translated (R165 to R169, R177, R186). A failed request changes nothing. -/
def performRequest (s : State) (h : HeldPkt) : Answer × State :=
  let p := h.pkt
  let place : Option Loc := (h.phys.head?).bind physLoc
  let fail (st rs : Nat) : Answer × State := ({ status := st, reason := rs }, s)
  if h.status = Code.reservedSet then fail h.status 0
  else if p.priv && !groupMember s p.src then fail Code.xlateFault reasonPriv
  else if p.kind = kAtomic then
    let probe := (atomicAt s none p.offset p.atomicOp p.wide p.arg0 p.arg1).1
    if probe.1 ≠ Code.xlateFault then fail probe.1 0
    else if h.status ≠ Code.ok then fail h.status h.reason
    else
      let r := atomicAt s place p.offset p.atomicOp p.wide p.arg0 p.arg1
      ({ status := r.1.1, reason := r.1.2.1, old := r.1.2.2 }, r.2)
  else if p.offset % 64 ≠ 0 then fail Code.alignFault 0
  else if p.kind = kAccStore then
    let probe := (accStoreAt s none p.fmt p.karg.toNat p.payload).1
    if probe.1 ≠ Code.xlateFault then fail probe.1 0
    else if h.status ≠ Code.ok then fail h.status h.reason
    else
      let r := accStoreAt s place p.fmt p.karg.toNat p.payload
      ({ status := r.1.1, reason := r.1.2 }, r.2)
  else if h.status ≠ Code.ok then fail h.status h.reason
  else if !p.priv && !windowsAdmit s p h.phys then ({ status := Code.windowClosed }, countRefusal s h.phys)
  else if p.kind = kRead then
    if h.phys.any (fun a => decide (a < hbmBytes) && poisoned s a 64) then fail Code.memPoison 0
    else
      let xs := h.phys.filterMap physLoc
      ({ data := xs.flatMap (fun x => locRead s x 64) }, bankReads s 64 xs)
  else
    ({}, h.phys.zipIdx.foldl (fun s e =>
      let bs := (p.payload.drop (64 * e.2)).take 64
      match physLoc e.1 with
      | some (.hbm a) => hbmWrite s a bs
      | some (.scr t a) => scratchWrite s t a bs
      | _ => s) s)

/-- R183, R185, R186: the response packet of a request, from the ordering die of its source. -/
def respond (s : State) (h : HeldPkt) (a : Answer) (note : Nat) : State :=
  let w0 := word (at' h.seq 32 32 + at' h.pkt.tag 16 16 + at' a.status 8 8 + at' note 8 0)
  let w1 := word (at' (if a.status = Code.xlateFault then a.reason else 0) 3 61)
  let hdr := mkHeader s h.pkt.src kResponse (a.data.length / 64) false 0 0 0 0 0 0 w0 w1
  sendOther s (h.pkt.src % 4) { hdr := hdr.set 6 (word a.old), payload := a.data } 0 h.pkt.tag

/-- The released request at the front of a source's line takes effect and is acknowledged. -/
def takeEffect (s : State) (src : Nat) (note : Nat) : State :=
  let d := peerIn s src
  match d.released with
  | [] => s
  | h :: rest =>
    let s1 := setIn s src { d with released := rest }
    if rollingBack s then respond s1 h { status := Code.rollingBack } 0
    else
      let r := performRequest s1 h
      respond r.2 h r.1 note

/-- R158, R160: what a request brings to its regulator: none for a privileged one, a failed one, or one that names no HBM. -/
def meteredAs (s : State) (src : Nat) (h : HeldPkt) : Option RegRequest :=
  if h.pkt.priv || h.status != Code.ok || rollingBack s then none
  else
    match h.phys with
    | a :: _ => if a < hbmBytes then
        let n := if h.pkt.kind = kAtomic then (if h.pkt.wide = 0 then 4 else 8) else 64 * h.phys.length
        some ⟨2 ^ 33 + src, a, n, h.pkt.kind != kRead && touchesDoor s a n⟩ else none
    | [] => none

/-- ACKNOWLEDGEMENT (R181, R186): the oldest released request of a source takes effect or fails, and is acknowledged; one that a regulator
holds waits, and with it what the source sequenced after it. -/
def execAcknowledgement (src : Nat) (s : State) : Host.Outcome State Fault Refusal :=
  let d := peerIn s src
  .next (clocked s (match d.released with
    | [] => s
    | h :: rest =>
      if h.waits then s
      else
        match meteredAs s src h with
        | none => takeEffect s src 0
        | some r =>
          match regulate s (homeDie r.addr) (routerNow s) r with
          | (.admitted, s1) => takeEffect s1 src 0
          | (.waits, s1) => setIn s1 src { d with released := { h with waits := true } :: rest }
          | (.refused n, s1) => respond (setIn s1 src { d with released := rest }) h { status := Code.refusedCap } n))

/-! ### Regulators (R161, R162) -/

/-- What follows when the request `id` is admitted after a wait, or refused. -/
def regOutcome (s : State) (die p : Nat) (h : Held) (admitted delayed : Bool) : State :=
  let note := if admitted then (if delayed then regNote true false die p else 0) else regNote false true die p
  if 2 ^ 42 ≤ h.req.id then
    let q := (h.req.id - 2 ^ 42) / 2 ^ 32
    let id := (h.req.id - 2 ^ 42) % 2 ^ 32
    if q = installQueue then installOutcome s admitted
    else if (flightOf s q id).any (fun f => fld (nth f.words 0) 63 56 == 1) then loadOutcome s q id admitted note
    else cmdOutcome s q id admitted note
  else if 2 ^ 33 ≤ h.req.id then
    let src := h.req.id - 2 ^ 33
    let d := peerIn s src
    match d.released with
    | x :: rest =>
      if !x.waits then s
      else if admitted then takeEffect (setIn s src { d with released := { x with waits := false } :: rest }) src note
      else respond (setIn s src { d with released := rest }) x { status := Code.refusedCap } note
    | [] => s
  else if 2 ^ 32 ≤ h.req.id then (if admitted then copyAdmitted s (h.req.id - 2 ^ 32) note else copyRefused s (h.req.id - 2 ^ 32) note)
  else emit s (.reply h.req.id (if admitted then Code.ok else Code.refusedCap) note)

/-- REGULATOR_ARRIVAL (R160, R161): an UNSCHED request of another engine reaches the slice of its home die. -/
def execRegulatorArrival (die now : Nat) (r : RegRequest) (s : State) : Host.Outcome State Fault Refusal :=
  let q : RegRequest := { r with id := r.id % 2 ^ 32 }
  .next (clocked s (match regulate s die now q with
    | (.admitted, s1) => emit s1 (.reply q.id Code.ok 0)
    | (.waits, s1) => s1
    | (.refused n, s1) => emit s1 (.reply q.id Code.refusedCap n)))

/-- REGULATOR_ADMIT (R161): the head of a partition's FIFO is admitted once its bucket holds enough tokens. -/
def execRegulatorAdmit (die part now : Nat) (s : State) : Host.Outcome State Fault Refusal :=
  .next (clocked s (match regAdmit s die part now with
    | (some h, s1) => regOutcome s1 die part h true (h.stamp < now)
    | (none, s1) => s1))

/-- REGULATOR_HOLD_EXPIRY (R161): the routine refills, admits what it can, and refuses every request held for hold_limit_us. -/
def execRegulatorHoldExpiry (die part now : Nat) (s : State) : Host.Outcome State Fault Refusal :=
  let r := regExpire s die part now
  let s1 := r.1.foldl (fun s h => regOutcome s die part h true (h.stamp < now)) r.2.2
  .next (r.2.1.foldl (fun s h => regOutcome s die part h false false) s1)

/-! ### Scheduled blocks (R191, R298, R299) -/

/-- The RX run of the running Last that covers block `pos` of schedule beat `beat` on a lane of a physical eyelet, and the block's index
in it. -/
def rxRun (s : State) (r : Run) (e k pos beat : Nat) : Option (LaneRun × Nat) :=
  let bc := max 1 (beatCount s r.slot r.bucket)
  let ell := logicalEyelet s e
  let i := 4 * (beat % bc) + pos
  ((laneRuns s r.slot r.bucket).find? (fun x => x.dir == 1 && x.eyelet == ell && x.lane == k && x.first ≤ i && i < x.first + x.count)).map
    (fun x => (x, i - x.first))

/-- R265: slack of an RX run. -/
def rxSlack (x : LaneRun) : Nat := let v := fld x.w1 29 27; if v = 0 then 4 else v

/-- The key of a received block within the launch: schedule beat, lane, position. -/
def rxKey (e k pos beat : Nat) : Nat := (beat * 1024 + laneKey e k) * 4 + pos

/-- R258, R298: the schedule beat in which the blocks that arrive now on a received lane were sent. -/
def arrivedBeat (s : State) (e k : Nat) : Option (Run × Nat) :=
  match s.last.run with
  | some r => ((r.hist[rget s ((Reg.trainedLatency e).at k)]?).join).map (fun sb => (r, sb))
  | none => none

/-- R298: a scheduled block is written to a tile's scratchpad: one released in its due beat as block `pos` in cycle 14·pos + 37 from the
start of that beat, at rank 5 of R101; a replay, whose rank is 6, at once. -/
def placeBlock (s : State) (t pos a beat : Nat) (due : Bool) (bs : List Byte) : State :=
  if due then setPtile s (physTile s t) (fun x => { x with late := x.late ++ [(cycleNow s + 14 * pos + 37, .inbound a beat bs)] })
  else schedWrite s t beat a bs

/-- R265, R515: the schedule beat in which the final block of the transfer is due, for one of its blocks sent in `sb`. -/
def transferDue (s : State) (r : Run) (x : LaneRun) (k sb : Nat) : Nat :=
  let bc := max 1 (beatCount s r.slot r.bucket)
  sb / bc * bc + (x.first + x.count - 1) / 4 + laneLatency s r.slot r.bucket x.eyelet k

/-- A block sent in schedule beat `sb` at position `pos` is written at its run's handle and offset, or discarded: uncovered, counted with
uncorrectable_blocks; late for a closed group, or received before, counted in duplicates (R298, R299, R111, R112). -/
def schedBlock (s : State) (e k pos sb : Nat) (data : List Byte) : State :=
  match s.last.run with
  | none => rinc s ((Reg.uncorrectableBlocks e).at k)
  | some r =>
    match rxRun s r e k pos sb with
    | none => rinc s ((Reg.uncorrectableBlocks e).at k)
    | some (x, i) =>
      let t := fld x.w1 63 58
      let bc := max 1 (beatCount s r.slot r.bucket)
      let key := rxKey e k pos sb
      if r.closed.contains (t, fld x.w1 26 15 + 4096 * (sb / bc)) ∨ (tget? r.rxSeen key).isSome then rinc s ((Reg.duplicates e).at k)
      else
        let a := resolve (handleOf s t (fld x.w1 57 50)) (64 * (fld x.w1 49 30 + i))
        let h : TileHead := { src := (lanePartner (lane s e k)).getD 0, addr := a, len := 64, write := true, atomic := false, scheduled := true }
        let s0 := crossIn s (physTile s t) (e / 4) (data.take 64)
        if !admitted s t h then refuseWindow s0 t true
        else
          let s1 := setRun s0 (fun y => { y with rxSeen := tput y.rxSeen key 1 })
          placeBlock s1 t pos a (transferDue s r x k sb + rxSlack x) ((arrivedBeat s e k).map (·.2) == some sb) (data.take 64)

/-- SCHED_BLOCK_RELEASE (R298, R299): a block sent in schedule beat `schedBeat` is released. -/
def execSchedBlockRelease (eyelet lane pos schedBeat : Nat) (data : List Byte) (s : State) : Host.Outcome State Fault Refusal :=
  .next (schedBlock s eyelet lane pos schedBeat data)

end Sys2Proof.Machine
end

