-- ==== Sys2Proof/Machine/Plan.lean ====
section
/-! DEFINITION. The fields of a cabling plan (R276, R277). -/

namespace Sys2Proof.Machine

/-! ### The plan (R276, R277) -/

/-- R276: fields of the plan header. -/
def planGen (p : List Byte) : Nat := fld (wordAt p 0) 55 40
def planLinks (p : List Byte) : Nat := fld (wordAt p 0) 31 16
def planWitness (p : List Byte) : Nat := fld (wordAt p 0) 15 0
def swapTolerant (p : List Byte) (e : Nat) : Bool := bit (wordAt p 1) (32 + e)
def buildLock (p : List Byte) : Bool := bit (wordAt p 1) 31
def lockBuild (p : List Byte) : Nat := fld (wordAt p 2) 63 32
/-- Member i's chip number. -/
def planMember (p : List Byte) (i : Nat) : Nat := leNat ((p.drop (64 + 2 * i)).take 2)
/-- The link entries. -/
def planLink (p : List Byte) (i : Nat) : Word := wordAt p (16 + i)
def planLinkList (p : List Byte) : List Word := (List.range (planLinks p)).map (planLink p)
/-- The two ends of a link entry, as (chip, eyelet). -/
def linkEnds (w : Word) : (Nat × Nat) × (Nat × Nat) := ((fld w 63 52, fld w 51 47), (fld w 46 35, fld w 34 30))

/-- R276: the partner that the link table gives for (chip, eyelet). -/
def linkPartner (p : List Byte) (chip e : Nat) : Option (Nat × Nat) :=
  (planLinkList p).findSome? (fun w =>
    let x := linkEnds w
    if x.1 == (chip, e) then some x.2 else if x.2 == (chip, e) then some x.1 else none)

/-- R277. -/
def groupDigestOf (p : List Byte) : Nat := digest64 ((p.drop 8).take 120)
def podDigestOf (p : List Byte) : Nat := digest64 (p.drop 128)

end Sys2Proof.Machine
end

