-- ==== Sys2Proof/Machine/Lanes.lean ====
section
/-! DEFINITION. What the chapters of optics, links and cabling share about a lane: its unit number, its use by the running Last, leaving
and entering SERVE (R201, R204, R256, R319), link messages, and the start of sealing (R431). -/

namespace Sys2Proof.Machine

/-- R482: unit number of a lane: 32ℓ + k for its logical eyelet ℓ. -/
def laneUnit (s : State) (e k : Nat) : Nat := 32 * logicalEyelet s e + k

/-- R319: the lane schedule of the running Last uses the link that is received on lane k: an RX or LACE run of k, or a TX or LACE run of its
reverse lane. -/
def laneUsed (s : State) (e k : Nat) : Bool :=
  match s.last.run with
  | some r => lastRunning s && (laneRuns s r.slot r.bucket).any (fun x => x.eyelet == logicalEyelet s e &&
      ((x.lane == k && x.dir != 0) || (x.lane == reverseLane e k && x.dir != 1)))
  | none => false

/-- The eight buffers of a lane. -/
def laneBuffers (e k : Nat) : List Nat := (List.range 8).map (fun i => 8 * laneKey e k + i)

/-- Remove keys from a table. -/
def dropKeys {α : Type} (t : Tab α) (ks : List Nat) : Tab α := t.filter (fun e => !ks.contains e.1)

/-- R201: a packet of which not every flit has come ends here: no more flits come of it, and those here are freed. -/
def Router.dropPartials (r : Router) (port : Nat) : Router :=
  let part := fun (h : Head) => h.port == port && !h.pkt.whole
  { r with
    waiting := r.waiting.filter (fun h => !part h)
    chosen := r.chosen.filter (fun c => !part c.head)
    granted := r.granted.filter (fun g => !part g.2.head)
    dropping := r.dropping.filter (fun h => h.port != port) }

/-- R201: the sender discards what is left of the packets granted on a sent lane. -/
def dropGranted (s : State) (e k : Nat) : State :=
  let keys := laneBuffers e k
  let gone := s.router.granted.filter (fun g => keys.contains g.1)
  let s1 := { s with router := { s.router with granted := dropKeys s.router.granted keys, used := dropKeys s.router.used keys } }
  gone.foldl (fun s g => giveUp s g.2.head (g.2.flits.length - g.2.sent)) s1

/-- R201: packets that cross a link are truncated: what has arrived in part on lane k is discarded, here and where it crosses to, and counted
(log 56), with a header that still waits for its payload, `more`; what was granted on the reverse lane is discarded, and heads that chose that
lane choose again. -/
def truncateLane (s : State) (e k more : Nat) : State :=
  let port := lanePort e k
  let parts := s.router.heads.filter (fun h => h.port == port && !h.pkt.whole && !s.router.dropping.contains h)
  let s0 := parts.foldl (cutCrossing 4) s
  let s1 := dropGranted { s0 with router := s0.router.dropPartials port } e (reverseLane e k)
  radd (unchoose s1 (fun c => c.eyelet == e && c.lane == reverseLane e k)) Reg.truncatedPackets (parts.length + more)

/-- R256: on entry to SERVE the router buffers of a received lane are empty: what still stands at its port is lost, and a packet that is being
sent on frees nothing there. -/
def Router.emptyPort (r : Router) (port : Nat) : Router :=
  { r with
    waiting := r.waiting.filter (fun h => h.port != port)
    chosen := r.chosen.filter (fun c => c.head.port != port)
    granted := r.granted.map (fun g => (g.1, if g.2.head.port = port then { g.2 with head := { g.2.head with port := 0 } } else g.2))
    dropping := r.dropping.filter (fun h => h.port != port) }

/-- R256, R266: what is kept of a received lane that has left its state for `to`. -/
def restRx (l : Lane) (dest : Train) : Lane :=
  { l with
    scrRx := none, fitDue := false
    train := dest, rxIgnore := false, rxNext := none, readyRecv := false, rxBsn := 0, rxSkip := 0, missing := [], rxHeld := [], freedTx := [], echoes := [], echoNext := 0, rev := 0
    sealRx := none, sealWait := none, sealPos := 0, sealIn := 0, sealRxWin := [], sealHeld := [], sealTags := [], sealRaw := [], frames := [], ctlHead := none }

/-- What is kept of the sent lane of that link. -/
def restTx (l : Lane) : Lane :=
  { l with
    txIdle := false, readySent := false, txBsn := 0, sent := [], replays := [], links := [], linkNow := none, linkSent := false, beaconDue := false, creditNext := 0, nackAt := none, freedRx := []
    sealTx := none, sealNext := none, sealOut := 0, sealTxWin := [], sealFlits := [] }

/-- The link received on lane k goes to `dest` (R256). Leaving SERVE truncates its packets, is traced, and raises STEP_FAULT when the running
Last's lane schedule uses it (R238, R283, R319), marked where all of it follows from an injection (R500). -/
def laneGoBy (s : State) (e k : Nat) (dest : Train) (cause : Nat) (injected : Bool) : State :=
  let l := lane s e k
  let s1 := setLane (setLane s e k (fun l => restRx l dest)) e (reverseLane e k) restTx
  if l.train != .serve then s1
  else
    let s2 := traceFabric (truncateLane s1 e k l.ctlHead.isSome.toNat) 6 ((lanePartner l).getD 0) e k 0 0
    if laneUsed s e k then stepFault s2 cause 4 (laneUnit s e k) (lanePartner l) 0 injected else s2

/-- `laneGoBy` for what is no injection's. -/
def laneGo (s : State) (e k : Nat) (dest : Train) (cause : Nat) : State := laneGoBy s e k dest cause false

/-- R256: a failure of training is recorded. -/
def trainFail (s : State) (e k code : Nat) : State := laneGo (rset s ((Reg.trainResult e).at k) code) e k .wait 0

/-- R422: the identifier of a key. -/
def keyId (key : List Byte) : Nat := digest64 (ascii "aev-key-id" ++ key)

/-- The LOADED FABRIC slots, as (KEY_ID, key). -/
def fabricKeys (s : State) : List (Nat × List Byte) :=
  (s.tenancy.keys.filter (fun k => k.2.state == .loaded && k.2.purpose == 1)).map (fun k => (keyId k.2.key, k.2.key))

/-- R431: the session key of a direction: chips as two bytes, eyelet and lane as one, most significant first (log 78). -/
def sessionKey (key salt : List Byte) (sender receiver ell k : Nat) : List Byte :=
  hkdf384 key salt (ascii "aev-lane" ++ beBytes 2 sender ++ beBytes 2 receiver ++ beBytes 1 ell ++ beBytes 1 k) 32

/-- R431: the logical eyelet of the partner that sends on a lane of a physical eyelet. -/
def peerEyelet (s : State) (e : Nat) : Nat :=
  let ell := logicalEyelet s e
  if ell < 24 then ell else ((linkPartner s.plan.committed (ownChip s) ell).map (·.2)).getD ell

/-- R431: a window's nonce, its plaintext from the positions that carry any, and the DATA bytes of position `n` of a stream under its key. -/
def sealNonce (w : Nat) : List Byte := zeros 4 ++ beBytes 8 w
def windowText (ps : List (Nat × List Byte)) : List Byte :=
  (List.range 256).flatMap (fun p => match ps.find? (fun x => x.1 == p) with | some x => padTo 64 x.2 | none => zeros 64)
def sealCrypt (key : List Byte) (n : Nat) (data : List Byte) : List Byte := gcmCrypt key (sealNonce (n / 256)) (4 * (n % 256)) (padTo 64 data)

/-- R431: the tag of a window. -/
def windowTag (key : List Byte) (w : Nat) (ps : List (Nat × List Byte)) : List Byte :=
  gcmTag key (sealNonce w) (gcmCrypt key (sealNonce w) 0 (windowText ps))

/-- R431: a SEAL_START or SEAL_TAG packet joins what waits for free blocks of a sent lane, with its path key (R206); its stream, if any, begins
after its payload. -/
def queueSeal (s : State) (e k dst kind v : Nat) (bs : List Byte) (begins : Option (Nat × List Byte)) : State :=
  let payload := bytesOf [word (at' kind 8 56), word v] ++ padTo 16 bs ++ zeros 32
  let p : Packet := { hdr := mkHeader s dst kControl 1 false 0 0 0 0 0 0 0 0, payload := payload }
  let hdr := (p.stamp 0 0 (s.fabric.pathCtr % 256) false).hdr
  setLane { s with fabric := { s.fabric with pathCtr := (s.fabric.pathCtr + 1) % 256 } } e k (fun l => { l with sealFlits := l.sealFlits
    ++ [{ bytes := bytesOf hdr, header := true }, { bytes := payload, header := false, begins := begins }] })

/-- R431: on a link in SERVE to a partner of the peer set, a sender that holds a FABRIC key sends SEAL_START with a random salt (free, log 3),
under the key with a KEY_ID, or the first. `k` is the received lane; SEAL_START goes on its reverse lane. -/
def sealLane (s : State) (e k : Nat) (id : Option Nat) : State :=
  let l := lane s e k
  match (fabricKeys s).filter (fun x => id.all (· == x.1)), lanePartner l with
  | x :: _, some c =>
    if l.train = .serve ∧ laneSealed s l = true then
      let r := reverseLane e k
      let salt := leBytes 8 (Config.freeWord s.draws).toNat ++ leBytes 8 (Config.freeWord (s.draws + 1)).toNat
      queueSeal { s with draws := s.draws + 2 } e r c 2 x.1 salt (some (x.1, sessionKey x.2 salt (ownChip s) c (logicalEyelet s e) r))
    else s
  | _, _ => s

/-- R431: every lane that should be sealed starts anew with a key just loaded. -/
def sealAll (s : State) (id : Nat) : State := s.lanes.foldl (fun s l => sealLane s (l.1 / 32) (l.1 % 32) (some id)) s

/-- R255: a LINK message becomes due; GO goes before PAUSE, PAUSE before RESUME, and among equals in order. -/
def addLink (ls : List LinkMsg) (x : LinkMsg) : List LinkMsg :=
  let rank (m : Nat) : Nat := match m with | 6 => 0 | 4 => 1 | 5 => 2 | _ => 3
  ls.filter (fun y => rank y.msg ≤ rank x.msg) ++ [x] ++ ls.filter (fun y => rank x.msg < rank y.msg)

/-- A LINK message on a lane, due from a beat on. -/
def sendLink (s : State) (e k msg marg beat : Nat) : State :=
  setLane s e k (fun l => { l with links := addLink l.links { msg := msg, marg := marg, due := 4 * beat } })

/-- R222: the selector of a lane's die switches. -/
def selectorMoves (s : State) (e : Nat) : Bool :=
  match (tget {} s.optics.dies (e / 4)).sel with | .toA => true | .toB => true | _ => false

/-- R256: entry of the link received on lane k to SERVE: counted, traced, buffers empty, FREED totals 0, PAUSED while the selector switches (R204, R222),
and sealing starts (R431). -/
def enterServe (s : State) (e k : Nat) : State :=
  let r := reverseLane e k
  let moves := selectorMoves s e
  let s1 := { s with router := { (s.router.emptyPort (lanePort e k)) with used := dropKeys s.router.used (laneBuffers e r) } }
  let s2 := setLane s1 e k (fun l => { l with train := .serve, freedTx := [], missing := [], rxHeld := [], frames := [], ctlHead := none, rev := 1, switching := l.switching || moves })
  let s2 := setLane s2 e r (fun l => { l with freedRx := [], switching := l.switching || moves })
  let s3 := rset (rinc s2 ((Reg.trainings e).at k)) ((Reg.trainResult e).at k) 1
  let s4 := traceFabric s3 5 ((lanePartner (lane s3 e k)).getD 0) e k 0 0
  sealLane s4 e k none

end Sys2Proof.Machine
end

