-- ==== Sys2Proof/Machine/Optics.lean ====
section
/-! DEFINITION. Laser inputs and selectors (R220 to R225), ring tables and heaters (R226, R227), fitting passes (R230 to R240), full search
(R241). -/

namespace Sys2Proof.Machine

def eyeDie (s : State) (d : Nat) : EyeDie := tget {} s.optics.dies d
def setEye (s : State) (d : Nat) (f : EyeDie → EyeDie) : State := { s with optics := { s.optics with dies := tmod {} s.optics.dies d f } }

/-! ### Tables and heaters (R226, R227) -/

/-- R227: the table of a ring, by 64·eyelet + ring. -/
def ringTable (s : State) (ring : Nat) : List Nat := tget (Config.factoryTable ring) s.optics.tables ring

/-- R227: interval and weight of a temperature in 0.001 °C. -/
def tablePoint (t : Frac) : Nat × Frac :=
  let lo : Frac := ⟨40000, 1⟩
  let hi : Frac := ⟨115000, 1⟩
  let c := if fle t lo then lo else if fle hi t then hi else t
  let x := fdiv (fsub c lo) ⟨5000, 1⟩
  let i := min ((x.num / (x.den : Int)).toNat) 14
  (i, fsub x (Frac.ofInt i))

/-- R227: interp. -/
def interp (table : List Nat) (t : Frac) : Frac :=
  let p := tablePoint t
  fadd (fmul (Frac.ofInt (table.getD p.1 0)) (fsub ⟨1, 1⟩ p.2)) (fmul (Frac.ofInt (table.getD (p.1 + 1) 0)) p.2)

/-- R227: heater_code. -/
def heaterCode (table : List Nat) (t : Frac) : Nat := (fround (interp table t)).toNat

/-- R364: the model's estimate of a die, in 0.001 °C. -/
def estimate (s : State) (i : Nat) : Frac := fadd (tget ⟨0, 1⟩ s.power.temps i) (tget ⟨0, 1⟩ s.power.biases i)

/-- R227: the table code of a ring at the model's estimate. -/
def tableCode (s : State) (ring : Nat) : Nat := heaterCode (ringTable s ring) (estimate s (92 + ring / 256))

/-- R226: drive a ring's heater. -/
def drive (s : State) (ring code : Nat) : State := { s with optics := { s.optics with heaters := tset 0 s.optics.heaters ring code } }

/-- R227, R240: at an evaluation every ring of a lane that is in no fitting pass takes its table code. -/
def driveHeaters (s : State) : State :=
  { s with optics := { s.optics with heaters :=
      ((List.range 2048).map (fun ring =>
        (ring, if (tget? s.optics.fits (ring / 2)).isSome then tget 0 s.optics.heaters ring else tableCode s ring))).filter (fun h => h.2 != 0) } }

/-! ### Inputs (R221) -/

/-- One input's measurement: its class and its run of readings below the LOST threshold; while the run is short the class stays (DESIGN CHOICE,
log 100). -/
def classify (s : State) (c : LaserClass) (below : Nat) (x : Int) : LaserClass × Nat :=
  if rgetI s Reg.laserLowCdbm ≤ x then (.ok, 0)
  else if rgetI s Reg.laserLostCdbm ≤ x then (.low, 0)
  else (c, below + 1)

/-- R521: the lowest power seen at an input since the last read. -/
def logPower (s : State) (i : Nat) (seen : Bool) (x : Int) : State :=
  let r := Reg.laserPowerLog.at i
  rsetI s r (if seen then min x (rgetI s r) else x)

/-- R221: an input enters LOW. -/
def laserLow (s : State) (d i : Nat) : State := notice (rinc s (Reg.laserLowEvents d)) Code.laserLow 5 d i

/-- R244: transmitted powers measured with it, by 32·(eyelet of the die) + lane. -/
def txPowers (s : State) (die : Nat) (xs : List Int) : State :=
  xs.zipIdx.foldl (fun s x => rsetI s ((Reg.txPowerCdbm (4 * die + x.2 / 32)).at (x.2 % 32)) x.1) s

/-- LASER_MEASUREMENT (R221, R225, R244). -/
def execLaserMeasurement (die : Nat) (aCdbm bCdbm : Int) (depths : Nat × Nat) (txCdbm : List Int) (s : State) : Host.Outcome State Fault Refusal :=
  let x := eyeDie s die
  let a := classify s x.classA x.belowA aCdbm
  let b := classify s x.classB x.belowB bCdbm
  let s1 := logPower (logPower (txPowers s die txCdbm) die x.seenA aCdbm) (8 + die) x.seenB bCdbm
  let s2 := rset (rset (rsetI (rsetI s1 (Reg.powerACdbm die) aCdbm) (Reg.powerBCdbm die) bCdbm) (Reg.toneDepthA die) depths.1) (Reg.toneDepthB die) depths.2
  let forced (i : Nat) : Bool := match x.forced with | some f => f.1 == i && decide (s.clock.beat.toNat < f.2) | none => false
  let ca := if forced 0 then x.classA else a.1
  let cb := if forced 1 then x.classB else b.1
  let s3 := setEye s2 die (fun x => { x with classA := ca, belowA := a.2, classB := cb, belowB := b.2, seenA := true, seenB := true })
  let s4 := if ca = .low ∧ x.classA ≠ .low then laserLow s3 die 0 else s3
  .next (if cb = .low ∧ x.classB ≠ .low then laserLow s4 die 1 else s4)

/-! ### Fitting passes that end early (R240) -/

/-- R247: a last_fit record. -/
def fitRecord (mod flt tStar result fails cm cf : Nat) : Nat :=
  at' mod 12 52 + at' flt 12 40 + at' tStar 16 24 + at' result 4 20 + at' fails 4 16 + at' cm 8 8 + at' cf 8 0

/-- FAILS of a lane (R237). -/
def fitFails (s : State) (e k : Nat) : Nat := bits (rget s ((Reg.lastFit e).at k)) 19 16

/-- The rings of a lane. -/
def modRing (e k : Nat) : Nat := 64 * e + 2 * k
def fltRing (e k : Nat) : Nat := 64 * e + 2 * k + 1

/-- End a pass: the record, the count, the heaters at table code, the lane no longer held. -/
def closeFit (s : State) (e k : Nat) (record : Nat) : State :=
  let s1 := { s with optics := { s.optics with fits := tdel s.optics.fits (laneKey e k) } }
  let s2 := rinc (rset s1 ((Reg.lastFit e).at k) record) Reg.fitPasses
  let s3 := drive (drive s2 (modRing e k) (tableCode s2 (modRing e k))) (fltRing e k) (tableCode s2 (fltRing e k))
  setLane s3 e k (fun l => { l with paused := false })

/-- R240: the pass of a lane is ABORTED. -/
def abortFit (s : State) (e k : Nat) : State :=
  match tget? s.optics.fits (laneKey e k) with
  | none => s
  | some _ => closeFit s e k (fitRecord (tableCode s (modRing e k)) (tableCode s (fltRing e k)) 0 6 (fitFails s e k) 0 0)

/-- The lanes of an eyelet die, as (eyelet, lane). -/
def dieLanes (d : Nat) : List (Nat × Nat) := (List.range 128).map (fun i => (4 * d + i / 32, i % 32))

/-! ### Selectors (R222 to R224) -/

/-- The selector starts to switch: passes end, the die's lanes are PAUSED. -/
def startSwitch (s : State) (d : Nat) (x : Selector) : State :=
  let s1 := (dieLanes d).foldl (fun s l => abortFit s l.1 l.2) (setEye s d (fun y => { y with sel := x }))
  (dieLanes d).foldl (fun s l =>
    if (lane s l.1 l.2).train = .serve ∨ (rxOf s l.1 l.2).train = .serve then setLane s l.1 l.2 (fun y => { y with switching := true }) else s) s1

/-- The die goes dark: passes end, its lanes are DOWN in OFF (R222, R256). What a LASER_LOSS injection does alone is marked (R500): it is not alone
where the input it spares is LOST. -/
def goDark (s : State) (d : Nat) : State :=
  let x := eyeDie s d
  let injected := injectionOn s 3 d && (match x.forced with | some f => (if f.1 = 0 then x.classB else x.classA) != .lost | none => false)
  let s1 := (dieLanes d).foldl (fun s l => abortFit s l.1 l.2) (setEye s d (fun y => { y with sel := .dark }))
  (dieLanes d).foldl (fun s l =>
    if (lane s l.1 l.2).train = .off then s else setLane (laneGoBy s l.1 l.2 .off Code.laserLost injected) l.1 l.2 (fun y => { y with switching := false })) s1

/-- R222: what the selector does when its selected input is LOST. -/
def evalSelector (s : State) (d : Nat) : State :=
  let x := eyeDie s d
  match x.sel with
  | .onA => if x.classA = .lost then (if x.classB = .lost then goDark s d else startSwitch s d .toB) else s
  | .onB => if x.classB = .lost then (if x.classA = .lost then goDark s d else startSwitch s d .toA) else s
  | _ => s

/-- R222: an input enters LOST; in TO_A and TO_B the target counts as the selected input (DESIGN CHOICE, log 101); what an injection makes is marked and not counted (R500). -/
def loseInput (s : State) (d input : Nat) (injected : Bool) : State :=
  let x := eyeDie s d
  let selected := (input = 0 ∧ (x.sel = .onA ∨ x.sel = .toA)) ∨ (input = 1 ∧ (x.sel = .onB ∨ x.sel = .toB))
  let s1 := setEye s d (fun y => if input = 0 then { y with classA := .lost } else { y with classB := .lost })
  let s2 := if selected then
      raise (if injected then s1 else rinc s1 (Reg.laserLostEvents d)) { code := Code.laserLost, unitKind := 5, unit := d, detail := input, injected := injected }
    else s1
  evalSelector s2 d

/-- LASER_INPUT_LOST (R221, R222): nothing happens before 10 consecutive readings below the threshold. -/
def execLaserInputLost (die input : Nat) (s : State) : Host.Outcome State Fault Refusal :=
  let x := eyeDie s die
  let below := if input = 0 then x.belowA else x.belowB
  let cls := if input = 0 then x.classA else x.classB
  if below < 10 ∨ cls = .lost ∨ 1 < input then .next s
  else .next (loseInput s die input false)

/-- LASER_SWITCH_COMPLETE (R222, R223): lanes return to the state they held. -/
def execLaserSwitchComplete (die : Nat) (s : State) : Host.Outcome State Fault Refusal :=
  let done (x : Selector) : State :=
    let s0 := setEye s die (fun y => { y with sel := x })
    let s1 := if injectionOn s 3 die then injectionDone s0 3 die else rinc s0 (Reg.laserFailovers die)
    let s2 := (dieLanes die).foldl (fun s l => if (lane s l.1 l.2).switching then setLane s l.1 l.2 (fun y => { y with switching := false }) else s) s1
    evalSelector s2 die
  .next (match (eyeDie s die).sel with
    | .toB => done .onB
    | .toA => done .onA
    | _ => s)

/-- LASER_DARK_RECOVERY (R222). -/
def execLaserDarkRecovery (die : Nat) (s : State) : Host.Outcome State Fault Refusal :=
  let x := eyeDie s die
  .next (if x.sel != .dark || (x.classA == .lost && x.classB == .lost) then s
    else startSwitch s die (if x.classA = .lost then .toB else .toA))

/-- LASER_REVERT (R222). -/
def execLaserRevert (die : Nat) (s : State) : Host.Outcome State Fault Refusal :=
  let x := eyeDie s die
  .next (if rget s Reg.laserRevert = 1 ∧ x.sel = .onB ∧ x.classA = .ok ∧ !lastRunning s then startSwitch s die .toA else s)

/-- R224: a selection is applied: from ON_A to B, from ON_B to A. -/
def applySelect (s : State) (d v : Nat) : State :=
  match (eyeDie s d).sel, v with
  | .onA, 1 => startSwitch s d .toB
  | .onB, 0 => startSwitch s d .toA
  | _, _ => s

/-- R224: selections that wait are applied. -/
def applyPendingSelects (s : State) : State :=
  (List.range 8).foldl (fun s d =>
    match (eyeDie s d).pendingSel with
    | some v => applySelect (setEye s d (fun y => { y with pendingSel := none })) d v
    | none => s) s

/-- R224, R475: when a Last ends, and after the bring-up, a die takes the input that laser_select_req names, unless it is LOST. -/
def dueSelects (s : State) : State :=
  applyPendingSelects { s with optics := { s.optics with dies := s.optics.dies.map (fun d =>
    (d.1, if (d.2.pendingSel = some 0 ∧ d.2.classA = .lost) ∨ (d.2.pendingSel = some 1 ∧ d.2.classB = .lost) then { d.2 with pendingSel := none } else d.2)) } }

/-- R224: laser_select_req. -/
def wLaserSelect (die v : Nat) (s : State) : Nat × State :=
  let x := eyeDie s die
  if 1 < v ∨ (v = 0 ∧ x.classA = .lost) ∨ (v = 1 ∧ x.classB = .lost) then refuse s Code.valueRefused
  else
    let s1 := rset s (Reg.laserSelectReq die) v
    accept (if lastRunning s then setEye s1 die (fun y => { y with pendingSel := some v }) else applySelect s1 die v)

/-- LASER_SELECT_REQ (R224). -/
def execLaserSelectReq (via : Via) (die v : Nat) (s : State) : Host.Outcome State Fault Refusal := .next (doWrite s via (0x2010 + die) 2 (wLaserSelect die v))

/-! ### Fitting passes (R230 to R237) -/

/-- R302: a fitting window of the running Last opens for a lane in the schedule beat now. -/
def windowOpens (s : State) (r : Run) (e k : Nat) : Bool :=
  let bc := max 1 (beatCount s r.slot r.bucket)
  (fitWindows s r.slot r.bucket).any (fun w =>
    w.1 == logicalEyelet s e && w.2.1 == k && w.2.2.1 == (r.sched - 1) % bc && rget s Reg.stepNumber % max 1 (fitCycle s r.slot) == w.2.2.2)

/-- R233: beat 0 of a pass: both heaters take their table codes, the lane is PAUSED, and the notices of R232 go out
unless the lane is DOWN and carries none. -/
def beginFit (s : State) (e k : Nat) : State :=
  let p : FitPass := { start := s.clock.beat.toNat, modP := tableCode s (modRing e k), fltP := tableCode s (fltRing e k) }
  let s1 := drive (drive { s with optics := { s.optics with fits := tput s.optics.fits (laneKey e k) p } } (modRing e k) p.modP) (fltRing e k) p.fltP
  let s2 := setLane s1 e k (fun l => { l with paused := true, fitDue := false })
  if laneState s e k = .down then s2 else sendLink (sendLink s2 e k 4 (at' k 5 0) p.start) e (reverseLane e k) 4 (32 + at' k 5 0) p.start

/-- R230: lane `i` of a die's round, in ascending order of lane and then eyelet, as (eyelet, lane). -/
def roundLane (d i : Nat) : Nat × Nat := (4 * d + i % 4, i / 4 % 32)

/-- R230: whether the lane of a place in the round of a die may have a pass: not while a full search drives its rings. -/
def fitEligible (s : State) (d i : Nat) : Bool := (tget? s.optics.searching (roundLane d i).1).isNone

/-- R230: whether the lane goes first: its ring state is SUSPECT or NEVER_FIT. One that is DOWN keeps its place in the order: with no light its
passes would leave it NEVER_FIT, and the die would come to no other lane (log 72). -/
def fitFirst (s : State) (d i : Nat) : Bool :=
  let l := roundLane d i
  let r := tget .neverFit s.optics.rings (laneKey l.1 l.2)
  laneState s l.1 l.2 != .down && (r == .suspect || r == .neverFit)

/-- R230: the place in the round of the lane whose pass is next on a die: the first that goes first, else the next in order. -/
def nextFit (s : State) (d : Nat) : Option Nat :=
  match (List.range 128).find? (fun i => fitEligible s d i && fitFirst s d i) with
  | some i => some i
  | none => ((List.range 128).map (fun i => ((eyeDie s d).fitNext + i) % 128)).find? (fitEligible s d)

/-- R230, R240: outside a Last the pass due on a die is that of its next lane: deferred and counted while the selector switches or is DARK, waiting
while a granted packet crosses (R216) or a partner pauses the lane. -/
def idleFit (s : State) (e k : Nat) (busy switching carrying : Bool) : State :=
  let d := e / 4
  match nextFit s d with
  | none => s
  | some i =>
    if roundLane d i ≠ (e, k) ∨ busy = true then s
    else if switching then rinc s Reg.fitDeferrals
    else if carrying then setLane s e k (fun l => { l with fitDue := true })
    else if laneState s e k = .paused then s
    else beginFit (if fitFirst s d i then s else setEye s d (fun y => { y with fitNext := (i + 1) % 128 })) e k

/-- FIT_PASS_START (R216, R230 to R233, R240): a due pass starts, or is deferred and counted. -/
def execFitPassStart (eyelet lane : Nat) (s : State) : Host.Outcome State Fault Refusal :=
  let d := eyelet / 4
  let busy := s.optics.fits.any (fun f => f.1 / 128 == d)
  let carrying := (laneBuffers eyelet lane).any (fun b => (tget? s.router.granted b).isSome)
  let switching := match (eyeDie s d).sel with | .onA => false | .onB => false | _ => true
  .next (match s.last.run with
    | some r =>
      if lastRunning s then
        if !windowOpens s r eyelet lane then s
        else if switching || carrying || busy || laneState s eyelet lane != .inService then rinc s Reg.fitDeferrals
        else beginFit s eyelet lane
      else idleFit s eyelet lane busy switching carrying
    | none => idleFit s eyelet lane busy switching carrying)

/-- R233: code of sweep point `j` of a ring swept around `p`. -/
def sweepCode (span p j : Nat) : Nat := (clampI 0 4095 ((p : Int) - span + 20 * j)).toNat

/-- R233: in SWEEP, beats 4 to 451 of a pass, both heaters step through 64 points of 7 beats. -/
def sweepHeaters (s : State) : State :=
  s.optics.fits.foldl (fun s f =>
    let n := s.clock.beat.toNat - f.2.start
    if f.2.solved || n < 4 || 451 < n then s
    else
      let j := (n - 4) / 7
      let e := f.1 / 32
      let k := f.1 % 32
      drive (drive s (modRing e k) (sweepCode (rget s Reg.fitSpanCodes) f.2.modP j)) (fltRing e k) (sweepCode (rget s Reg.fitSpanCodes) f.2.fltP j)) s

/-- R234: contrast in 0.25 dB, rounded down, from the largest and smallest reading. -/
def contrast (rs : List Nat) : Nat :=
  let hi := rs.foldl max 0
  let lo := rs.foldl min hi
  if lo = 0 then (if hi = 0 then 0 else 255)
  else ((List.range 256).filter (fun n => 10 ^ n * lo ^ 40 ≤ hi ^ 40)).foldl max 0

/-- The vertex of the parabola through three points with rising x; the middle point where two of them are one point or the three lie on a
line (log 72). -/
def vertex (x0 x1 x2 y0 y1 y2 : Int) : Frac :=
  let a := (x1 - x0) * (y1 - y2)
  let b := (x1 - x2) * (y1 - y0)
  if a = b ∨ x0 = x1 ∨ x1 = x2 then Frac.ofInt x1
  else fsub (Frac.ofInt x1) (fdiv (Frac.ofInt ((x1 - x0) * a - (x1 - x2) * b)) (Frac.ofInt (2 * (a - b))))

/-- R234: the found code of a ring swept around `p`: none when it has no peak. A contrast of 3 dB is max^10 ≥ 1,000 · min^10. -/
def foundCode (span p : Nat) (rs : List Nat) : Option Nat :=
  let hi := rs.foldl max 0
  let lo := rs.foldl min hi
  let j := rs.findIdx (· == hi)
  if rs.length ≠ 64 ∨ j = 0 ∨ 63 ≤ j ∨ hi ^ 10 < 1000 * lo ^ 10 then none
  else
    let y (i : Nat) : Int := rs.getD i 0
    let x (i : Nat) : Int := sweepCode span p i
    some (clampI 0 4095 (fround (vertex (x (j - 1)) (x j) (x (j + 1)) (y (j - 1)) (y j) (y (j + 1))))).toNat

/-- R236: fit_update. -/
def fitUpdate (table : List Nat) (t : Frac) (c : Nat) : List Nat :=
  let p := tablePoint t
  let w := p.2
  let e := fsub (Frac.ofInt c) (interp table t)
  let half (x : Frac) : Frac := fdiv x ⟨2, 1⟩
  let bump (i : Nat) (x : Frac) (l : List Int) : List Int := l.set i (l.getD i 0 + fround x)
  let l0 : List Int := table.map (fun (v : Nat) => (v : Int))
  let l1 := bump (p.1 + 1) (fmul e w) (bump p.1 (fmul e (fsub ⟨1, 1⟩ w)) l0)
  let l2 := if 1 ≤ p.1 then bump (p.1 - 1) (half (fmul e (fsub ⟨1, 1⟩ w))) l1 else l1
  let l3 := if p.1 ≤ 13 then bump (p.1 + 2) (half (fmul e w)) l2 else l2
  l3.map (fun v => (clampI 0 4095 v).toNat)

/-- R236: a ring with a peak updates its table. -/
def updateRing (s : State) (ring : Nat) (t : Frac) (found : Option Nat) : State :=
  match found with
  | none => s
  | some c => { s with optics := { s.optics with tables := tput s.optics.tables ring (fitUpdate (ringTable s ring) t c) } }

/-- FIT_SOLVE (R234 to R237): peak codes, t*, table updates, and the codes of SET. -/
def execFitSolve (eyelet lane : Nat) (mod flt : RingSweep) (s : State) : Host.Outcome State Fault Refusal :=
  match tget? s.optics.fits (laneKey eyelet lane) with
  | none => .next s
  | some p =>
    if p.solved then .next s
    else
      let span := rget s Reg.fitSpanCodes
      let m := foundCode span p.modP mod.readings
      let f := foundCode span p.fltP flt.readings
      let temps := (m.map (Config.ringTempMc (modRing eyelet lane))).toList ++ (f.map (Config.ringTempMc (fltRing eyelet lane))).toList
      let t : Option Int := if temps.isEmpty then none else some (fround (frac temps.sum temps.length))
      let p' : FitPass := { p with
        solved := true, modCode := m, fltCode := f, modLight := !mod.readings.isEmpty, fltLight := !flt.readings.isEmpty
        modContrast := contrast mod.readings, fltContrast := contrast flt.readings, tStarMc := t }
      let s1 := { s with optics := { s.optics with fits := tput s.optics.fits (laneKey eyelet lane) p' } }
      let s2 := match t with
        | none => s1
        | some t =>
          let s2 := updateRing (updateRing s1 (modRing eyelet lane) ⟨t, 1⟩ m) (fltRing eyelet lane) ⟨t, 1⟩ f
          rsetI { s2 with power := { s2.power with tStars := tput s2.power.tStars (eyelet / 4) t } } (Reg.eyeletTempMc eyelet) t
      .next (drive (drive s2 (modRing eyelet lane) (m.getD p.modP)) (fltRing eyelet lane) (f.getD p.fltP))

/-- FIT_CHECK_END (R233, R237): the verdict of CHECK, the phase moved by up to 8 steps, and the resume notices. -/
def execFitCheckEnd (eyelet lane : Nat) (ok : Bool) (phaseStep : Int) (s : State) : Host.Outcome State Fault Refusal :=
  match tget? s.optics.fits (laneKey eyelet lane) with
  | none => .next s
  | some p =>
    if !p.solved || p.checked then .next s
    else
      let step := clampI (-8) 8 phaseStep
      let s1 := { s with optics := { s.optics with fits := tput s.optics.fits (laneKey eyelet lane) { p with checked := true, checkOk := ok, phaseStep := step } } }
      let r := (Reg.rxPhase eyelet).at lane
      let s2 := rset s1 r (((rget s r : Int) + step) % 64).toNat
      let b := s.clock.beat.toNat
      .next (if laneState s eyelet lane = .down then s2
        else sendLink (sendLink s2 eyelet lane 5 (at' lane 5 0) b) eyelet (reverseLane eyelet lane) 5 (32 + at' lane 5 0) b)

/-- R237: RESULT of a pass. -/
def fitResult (p : FitPass) : Nat :=
  if p.modCode.isNone then 2
  else if !p.fltLight then 4
  else if p.fltCode.isNone then 3
  else if p.checkOk then 1 else 5

/-- R467: the calibration set is written to flash. -/
def calibSave (s : State) : State := flashCommit s .calib

/-- R237, R238: both rings of a lane are out: the links of its two directions go to `dest`. -/
def lanesGo (s : State) (e k : Nat) (dest : Train) (cause : Nat) : State :=
  let r := reverseLane e k
  let s1 := if (lane s e k).train = .off then s else laneGo s e k dest cause
  if r = k ∨ (lane s1 e r).train = .off then s1 else laneGo s1 e r dest cause

/-- R238: the lane schedule of the running Last uses lane k. -/
def laneScheduled (s : State) (e k : Nat) : Bool :=
  match s.last.run with
  | some r => lastRunning s && (laneRuns s r.slot r.bucket).any (fun x => x.eyelet == logicalEyelet s e && x.lane == k)
  | none => false

/-- R237, R238, R467: a lane becomes UNFIT: DOWN in both directions; STEP_FAULT where the running Last uses it, in service or not. -/
def becomeUnfit (s : State) (e k : Nat) : State :=
  let s1 := calibSave { s with optics := { s.optics with rings := tput s.optics.rings (laneKey e k) .unfit } }
  let s2 := lanesGo (notice s1 Code.ringUnfit 4 (laneUnit s e k) 0) e k .off Code.ringUnfit
  if laneScheduled s2 e k then stepFault s2 Code.ringUnfit 4 (laneUnit s e k) (lanePartner (lane s e k)) 0 false else s2

/-- R237, R238: the ring state after a pass; an UNFIT lane stays so until a full search succeeds (log 72). -/
def ringAfter (s : State) (e k res : Nat) (failed : Bool) : State :=
  let key := laneKey e k
  let rings (x : RingState) : Tab RingState := if tget .neverFit s.optics.rings key = .unfit then s.optics.rings else tput s.optics.rings key x
  if res = 1 then { s with optics := { s.optics with rings := rings .fit, stale := tdel s.optics.stale key, ages := tput s.optics.ages key 0 } }
  else if failed then { s with optics := { s.optics with rings := rings .suspect } }
  else s

/-- FIT_PASS_END (R237): at beat 560 the outcome is recorded; the lane returns to its state, or goes DOWN. -/
def execFitPassEnd (eyelet lane : Nat) (s : State) : Host.Outcome State Fault Refusal :=
  match tget? s.optics.fits (laneKey eyelet lane) with
  | none => .next s
  | some p =>
    if !p.checked then .next s
    else
      let res := fitResult p
      let failed := res == 2 || res == 3 || res == 5
      let fails := if failed then min 15 (fitFails s eyelet lane + 1) else if res = 1 then 0 else fitFails s eyelet lane
      let tStar := match p.tStarMc with | some t => (fround (frac (256 * t) 1000) % 65536).toNat | none => 0
      let rec' := fitRecord (p.modCode.getD p.modP) (p.fltCode.getD p.fltP) tStar res fails p.modContrast p.fltContrast
      let s1 := closeFit s eyelet lane rec'
      let s2 := if failed then rinc s1 Reg.fitFailures else s1
      let s3 := ringAfter s2 eyelet lane res failed
      .next (if failed && rget s Reg.fitFailLimit ≤ fails && tget .neverFit s3.optics.rings (laneKey eyelet lane) != .unfit then becomeUnfit s3 eyelet lane
        else if res = 5 ∧ laneState s eyelet lane ≠ .down then lanesGo s3 eyelet lane .wait Code.ringUnfit
        else s3)

/-- TABLE_STALE (R239): once per lane until its next pass with result OK. -/
def execTableStale (eyelet lane ageMs : Nat) (s : State) : Host.Outcome State Fault Refusal :=
  let key := laneKey eyelet lane
  .next (if ageMs ≤ rget s Reg.fitStaleMs ∨ (tget? s.optics.stale key).isSome then s
    else
      let s1 := { s with optics := { s.optics with stale := tput s.optics.stale key 1, ages := tput s.optics.ages key (100 * ageMs) } }
      notice s1 Code.tableStale 4 (laneUnit s eyelet lane) 0)

/-! ### Full search (R241) -/

/-- R241: a search starts: passes end and all lanes of the eyelet are DOWN in OFF. -/
def startSearch (s : State) (e : Nat) : State :=
  let s1 := { s with optics := { s.optics with searching := tput s.optics.searching e 1 } }
  (List.range 32).foldl (fun s k => let s2 := abortFit s e k; if (lane s2 e k).train = .off then s2 else laneGo s2 e k .off 0) s1

/-- R241: full_search. -/
def wFullSearch (e v : Nat) (s : State) : Nat × State :=
  if v ≠ 1 ∨ lastRunning s then refuse s Code.valueRefused else accept (startSearch s e)

/-- FULL_SEARCH (R241). -/
def execFullSearch (via : Via) (eyelet v : Nat) (s : State) : Host.Outcome State Fault Refusal := .next (doWrite s via (0x2210 + eyelet) 5 (wFullSearch eyelet v))

/-- R241: the code of the resonance assigned to ring r: of those within its reach, as (place in the order of the rings' resonances, code), the one
whose place is the number of its lane. -/
def assigned (found : List (List (Nat × Nat))) (r : Nat) : Option Nat := ((found.getD r []).find? (fun x => x.1 == r / 2)).map (·.2)

/-- FULL_SEARCH_DONE (R241, R475: not during a bring-up): `found` holds what the sweep of each ring has located. Fresh tables are built; a lane with a
ring that has no resonance is UNFIT, every other lane NEVER_FIT. -/
def execFullSearchDone (eyelet : Nat) (found : List (List (Nat × Nat))) (s : State) : Host.Outcome State Fault Refusal :=
  if (tget? s.optics.searching eyelet).isNone ∨ (s.reset'.boot ≠ .ready ∧ s.reset'.boot ≠ .excluded) ∨ s.reset'.held then .next s
  else
    let s1 := { s with optics := { s.optics with searching := tdel s.optics.searching eyelet } }
    let s2 := (List.range 64).foldl (fun s r =>
      match assigned found r with
      | none => s
      | some c => { s with optics := { s.optics with tables := tput s.optics.tables (64 * eyelet + r) (Config.searchTable (64 * eyelet + r) (min 4095 c)) } }) s1
    .next (calibSave ((List.range 32).foldl (fun s k =>
      if (assigned found (2 * k)).isNone || (assigned found (2 * k + 1)).isNone then
        (if tget .neverFit s.optics.rings (laneKey eyelet k) = .unfit then s else becomeUnfit s eyelet k)
      else { s with optics := { s.optics with rings := tdel s.optics.rings (laneKey eyelet k) } }) s2))

end Sys2Proof.Machine
end

