-- ==== Sys2Proof/Machine/BlockCode.lean ====
section
/-! DEFINITION. The lane block's code (R248, R249, R251): RS(70,66) over GF(2^8). -/

namespace Sys2Proof.Machine

/-- R249: a product in GF(2^8) with x^8 + x^4 + x^3 + x^2 + 1, over the low `n` bits of `b`. -/
def gfMulN : Nat → Nat → Nat → Nat
  | 0, _, _ => 0
  | n + 1, a, b =>
    let a2 := if 128 ≤ a then (2 * a) ^^^ 0x11D else 2 * a
    (if b % 2 = 1 then a else 0) ^^^ gfMulN n a2 (b / 2)
def gfMul (a b : Nat) : Nat := gfMulN 8 a b

/-- α^n. -/
def gfPow : Nat → Nat
  | 0 => 1
  | n + 1 => gfMul (gfPow n) 2

/-- R249: g(x) without its leading 1, from the highest power: the product of x − α^i, i = 0 to 3. -/
def rsGen : List Nat := [0x0F, 0x36, 0x78, 0x40]

/-- R249: the remainder: four check bytes of 66 bytes. -/
def rsCheck (bs : List Nat) : List Nat :=
  bs.foldl (fun r b =>
    let f := b ^^^ r.getD 0 0
    ((r.drop 1 ++ [0]).zip rsGen).map (fun (p : Nat × Nat) => p.1 ^^^ gfMul f p.2)) [0, 0, 0, 0]

/-- The value at α^i of the polynomial whose byte j is the coefficient of x^(69 − j). -/
def syndrome (bs : List Nat) (i : Nat) : Nat := bs.foldl (fun v b => gfMul v (gfPow i) ^^^ b) 0

/-- A quotient in GF(2^8): the divisor's inverse is its power 254. -/
def gfDiv (a b : Nat) : Nat :=
  let b2 := gfMul b b
  let b4 := gfMul b2 b2
  let b8 := gfMul b4 b4
  let b16 := gfMul b8 b8
  let b32 := gfMul b16 b16
  let b64 := gfMul b32 b32
  let b128 := gfMul b64 b64
  gfMul a (gfMul b2 (gfMul b4 (gfMul b8 (gfMul b16 (gfMul b32 (gfMul b64 b128))))))

/-- R251: outcome of a received block. -/
inductive Decoded where
  | clean
  | corrected (bytes : List Nat)
  | bad
  deriving DecidableEq, Repr

/-- XOR a value into one byte. -/
def flipByte (bs : List Nat) (j v : Nat) : List Nat := bs.set j (bs.getD j 0 ^^^ v)

/-- Power of x at a byte's place. -/
def bytePower (j : Nat) : Nat := gfPow (69 - j)

/-- Where one error lies at power `x`, the byte and value of another that the rest of the syndromes shows: the error at `x` taken out of
each pair of syndromes in turn leaves those of one error. -/
def otherError (xs : List (Nat × Nat)) (s0 s1 s2 s3 : Nat) (x : Nat × Nat) : Option (Nat × Nat) :=
  let t0 := s1 ^^^ gfMul s0 x.2
  let t1 := s2 ^^^ gfMul s1 x.2
  let t2 := s3 ^^^ gfMul s2 x.2
  if gfMul t1 t1 = gfMul t0 t2 then
    (xs.find? (fun y => decide (x.1 < y.1) && gfMul t0 y.2 == t1 && gfMul t1 y.2 == t2)).map (fun y => (y.1, gfDiv t0 (x.2 ^^^ y.2)))
  else none

/-- R249, R251: any one or two byte errors are corrected. -/
def rsDecode (bs : List Nat) : Decoded :=
  let s0 := syndrome bs 0
  let s1 := syndrome bs 1
  let s2 := syndrome bs 2
  let s3 := syndrome bs 3
  if s0 = 0 ∧ s1 = 0 ∧ s2 = 0 ∧ s3 = 0 then .clean
  else
    let xs := (List.range 70).map (fun j => (j, bytePower j))
    match xs.find? (fun x => gfMul s0 x.2 == s1 && gfMul s1 x.2 == s2 && gfMul s2 x.2 == s3 && s0 != 0) with
    | some x => .corrected (flipByte bs x.1 s0)
    | none =>
      match xs.findSome? (fun x => (otherError xs s0 s1 s2 s3 x).map (fun y => (x.1, y))) with
      | some (i, j, b) => .corrected (flipByte (flipByte bs i (s0 ^^^ b)) j b)
      | none => .bad

/-! ### The sequence (R250) -/

/-- R250: x^31 + x^28 + 1. A state holds the next 31 bits, the oldest lowest; 28 bits on. -/
def prbsStep (x : Nat) : Nat := x / 2 ^ 28 % 8 + (x ^^^ x / 8) % 2 ^ 28 * 8

/-- The next 28·n bits from a state, the oldest lowest, and the state after them. -/
def prbsBits : Nat → Nat → Nat × Nat
  | 0, x => (0, x)
  | n + 1, x => let r := prbsBits n (prbsStep x); (x % 2 ^ 28 + r.1 * 2 ^ 28, r.2)

/-- R248, R250: the 560 bits of a block, each byte least significant bit first, XORed with the sequence. -/
def prbsBlock (x : Nat) (block : List Byte) : List Byte := leBytes 70 (leNat block ^^^ (prbsBits 20 x).1)

/-- The state a block later. -/
def prbsNext (x : Nat) : Nat := (prbsBits 20 x).2

/-- R250: the state before a block, from its first 31 bits, where they are the bare sequence. -/
def prbsSeed (block : List Byte) : Nat := leNat (block.take 4) % 2 ^ 31

/-- R248: a block from its data and control word. -/
def encodeBlock (data : List Byte) (ctl : Nat) : List Byte :=
  let bs := padTo 64 data ++ leBytes 2 ctl
  bs ++ (rsCheck (bs.map BitVec.toNat)).map (BitVec.ofNat 8)

/-- R248, R251: DATA and CTL of a received block of 70 bytes, and whether it was corrected; none when uncorrectable. -/
def decodeBlock (block : List Byte) : Option (List Byte × Nat × Bool) :=
  if block.length ≠ 70 then none
  else
    match rsDecode (block.map BitVec.toNat) with
    | .clean => some (block.take 64, leNat ((block.drop 64).take 2), false)
    | .corrected bs => let b := bs.map (BitVec.ofNat 8); some (b.take 64, leNat ((b.drop 64).take 2), true)
    | .bad => none

end Sys2Proof.Machine
end

