-- ==== Sys2Proof/Machine/LaneLink.lean ====
section
/-! DEFINITION. Training of a lane (R256 to R258) and the pauses and beacons of R266 and R268. The lane operand names the received lane; what
its link sends goes on the reverse lane. -/

namespace Sys2Proof.Machine

/-- R256: a lane may leave OFF: the package has reached the end of MAP (R468), the die is not DARK, the rings of the lane and of the reverse
lane, on which its link answers, are not UNFIT, and no full search runs. -/
def mayTrain (s : State) (e k : Nat) : Bool :=
  (s.reset'.boot == .ready || s.reset'.boot == .excluded) && !s.reset'.held
    && (tget {} s.optics.dies (e / 4)).sel != .dark
    && tget .neverFit s.optics.rings (laneKey e k) != .unfit && tget .neverFit s.optics.rings (laneKey e (reverseLane e k)) != .unfit
    && (tget? s.optics.searching e).isNone

/-- A transition of R256 inside training. -/
def trainTo (s : State) (e k : Nat) (dest : Train) : State := setLane s e k (fun l => { l with train := dest })

/-- R250: where the sequence of a sent lane starts: a free value, not 0. -/
def prbsStart (draw : Nat) : Nat := (Config.freeWord draw).toNat % (2 ^ 31 - 1) + 1

/-- TRAIN_START (R250, R256): the sent lane's sequence starts; where in it, no rule says: a free value (log 73). -/
def execTrainStart (eyelet lane : Nat) (s : State) : Host.Outcome State Fault Refusal :=
  .next (if (Machine.lane s eyelet lane).train = .off ∧ mayTrain s eyelet lane = true then
      setLane (trainTo { s with draws := s.draws + 1 } eyelet lane .signal) eyelet (reverseLane eyelet lane) (fun l => { l with scrTx := prbsStart s.draws })
    else s)

/-- SIGNAL_DETECTED (R256): received power of at least −16 dBm for 100 µs; rx_power_cdbm takes the measured power. -/
def execSignalDetected (eyelet lane : Nat) (cdbm : Int) (s : State) : Host.Outcome State Fault Refusal :=
  let s1 := rsetI s ((Reg.rxPowerCdbm eyelet).at lane) cdbm
  .next (if (Machine.lane s eyelet lane).train = .signal ∧ -1600 ≤ cdbm then trainTo s1 eyelet lane .phase else s1)

/-- Length of the run of clean phases from phase `i` on, circular (R257). -/
def runFrom (clean : List Bool) : Nat → Nat → Nat
  | 0, _ => 0
  | n + 1, i => if clean.getD (i % 64) false then 1 + runFrom clean n (i + 1) else 0

/-- R257: the eye, as its first phase and its length: the longest circular run, the lowest first phase among equals. -/
def eye (clean : List Bool) : Nat × Nat :=
  (List.range 64).foldl (fun (b : Nat × Nat) i => let n := runFrom clean 64 i; if b.2 < n then (i, n) else b) (0, 0)

/-- PHASE_SCAN_DONE (R257): an eye of at least min_eye_steps sets the sampling phase to its centre, the lower of two; else EYE_CLOSED. -/
def execPhaseScanDone (eyelet lane : Nat) (clean : List Bool) (s : State) : Host.Outcome State Fault Refusal :=
  let x := eye clean
  .next (if (Machine.lane s eyelet lane).train ≠ .phase then s
    else if rget s Reg.minEyeSteps ≤ x.2 ∧ 0 < x.2 then
      trainTo (rset s ((Reg.rxPhase eyelet).at lane) ((x.1 + (x.2 - 1) / 2) % 64)) eyelet lane .align
    else trainFail s eyelet lane 2)

/-- ALIGN_DONE (R256). -/
def execAlignDone (eyelet lane : Nat) (s : State) : Host.Outcome State Fault Refusal :=
  .next (if (Machine.lane s eyelet lane).train = .align then
      setLane s eyelet lane (fun l => { l with train := .echo, echoes := [], echoNext := 0 })
    else s)

/-- ALIGN_TIMEOUT (R256): NO_ALIGN. -/
def execAlignTimeout (eyelet lane : Nat) (s : State) : Host.Outcome State Fault Refusal :=
  .next (if (Machine.lane s eyelet lane).train = .align then trainFail s eyelet lane 3 else s)

/-- ECHO (R258): an ECHO received on a lane is answered on the reverse lane with its stamp and the turnaround, in the first block that starts
at least one beat later: it arrives after the start of the block sent last and before the next. -/
def execEcho (eyelet lane stamp turnaroundPs : Nat) (s : State) : Host.Outcome State Fault Refusal :=
  let t := (Machine.lane s eyelet lane).train
  .next (if t = .echo ∨ t = .beacon ∨ t = .quarantine then
      setLane s eyelet (reverseLane eyelet lane) (fun l => { l with
        links := addLink l.links ⟨2, stamp % 64, turnaroundPs % 2 ^ 32, max l.sentAt (4 * s.clock.beat.toNat) + 4⟩ })
    else s)

/-- ECHO_REPLY (R258): one measurement. -/
def execEchoReply (eyelet lane stamp roundTripPs turnaroundPs : Nat) (s : State) : Host.Outcome State Fault Refusal :=
  .next (if (Machine.lane s eyelet lane).train = .echo ∧ stamp < 64 then
      setLane s eyelet lane (fun l => { l with echoes := tput l.echoes stamp (roundTripPs - turnaroundPs) })
    else s)

/-- Insert a value into an ascending list. -/
def insertAsc (v : Nat) : List Nat → List Nat
  | [] => [v]
  | x :: xs => if v ≤ x then v :: x :: xs else x :: insertAsc v xs

/-- Twice the median of an even number of values: the sum of the two middle ones (log 20). -/
def twiceMedian (vs : List Nat) : Nat :=
  let sorted := vs.foldr insertAsc []
  sorted.getD (vs.length / 2 - 1) 0 + sorted.getD (vs.length / 2) 0

/-- R258: least whole number of beats L with L × 35.84 ns ≥ F + 10 ns, for 4F in ps. -/
def leastLatency (f4 : Nat) : Nat := cdiv (f4 + 40000) (4 * 35840)

/-- LATENCY_SET (R258): with 64 replies, F and L; a latency too short for F or above 16 fails with LATENCY_HIGH. -/
def execLatencySet (eyelet lane : Nat) (s : State) : Host.Outcome State Fault Refusal :=
  let l := Machine.lane s eyelet lane
  .next (if l.train ≠ .echo ∨ l.echoes.length ≠ 64 then s
    else
      let f4 := twiceMedian (l.echoes.map (·.2))
      let fixed := rget s ((Reg.laneLatencyBeats eyelet).at lane)
      let n := if fixed ≠ 0 then fixed else leastLatency f4
      let s1 := rset s ((Reg.flightPs eyelet).at lane) (f4 / 4)
      if n < leastLatency f4 ∨ 16 < n then trainFail s1 eyelet lane 5
      else trainTo (rset s1 ((Reg.trainedLatency eyelet).at lane) n) eyelet lane .beacon)

/-- ECHO_TIMEOUT (R256): NO_ECHO. -/
def execEchoTimeout (eyelet lane : Nat) (s : State) : Host.Outcome State Fault Refusal :=
  .next (if (Machine.lane s eyelet lane).train = .echo then trainFail s eyelet lane 4 else s)

/-- QUARANTINE_TIMEOUT (R283): no beacon has decoded for 64 consecutive beats. -/
def execQuarantineTimeout (eyelet lane : Nat) (s : State) : Host.Outcome State Fault Refusal :=
  .next (if (Machine.lane s eyelet lane).train = .quarantine then laneGo s eyelet lane .wait 0 else s)

/-- TRAIN_RETRY (R256). -/
def execTrainRetry (eyelet lane : Nat) (s : State) : Host.Outcome State Fault Refusal :=
  .next (if (Machine.lane s eyelet lane).train = .wait then trainTo s eyelet lane .signal else s)

/-- R266: a PAUSE received on a lane: DIR 0 makes the receiver ignore the lane's content from the next beat; DIR 1 makes it send only DATA = 0 blocks on its lane
`target` of the same eyelet. -/
def onPause (s : State) (e k dir target : Nat) : State :=
  if (lane s e k).train != .serve then s
  else if dir = 0 then setLane s e k (fun l => { l with rxNext := some true })
  else setLane s e (target % 32) (fun l => { l with txIdle := true })

/-- R266: RESUME ends the pause, of a received lane with the next beat. -/
def onResume (s : State) (e k dir target : Nat) : State :=
  if dir = 0 then setLane s e k (fun l => { l with rxNext := some false })
  else setLane s e (target % 32) (fun l => { l with txIdle := false })

/-- PAUSE (R266). -/
def execPause (eyelet lane dir target : Nat) (s : State) : Host.Outcome State Fault Refusal := .next (onPause s eyelet lane dir target)

/-- RESUME (R266). -/
def execResume (eyelet lane dir target : Nat) (s : State) : Host.Outcome State Fault Refusal := .next (onResume s eyelet lane dir target)

/-- PAUSE_TIMEOUT (R266): a pause of 600 beats takes the paused lane's link to WAIT. -/
def execPauseTimeout (eyelet lane : Nat) (s : State) : Host.Outcome State Fault Refusal :=
  let l := Machine.lane s eyelet lane
  let s1 := if (l.rxIgnore && l.rxNext != some false) || l.rxNext == some true then laneGo s eyelet lane .wait Code.laneUnavailable else s
  .next (if (Machine.lane s eyelet lane).txIdle then laneGo s1 eyelet (reverseLane eyelet lane) .wait Code.laneUnavailable else s1)

/-- BEACON_TIMER (R268): a beacon is due on a sent lane whose link is in SERVE; an interval of 0 stops these beacons. -/
def execBeaconTimer (eyelet lane : Nat) (s : State) : Host.Outcome State Fault Refusal :=
  .next (if (rxOf s eyelet lane).train = .serve ∧ rget s Reg.beaconIntervalUs ≠ 0 then setLane s eyelet lane (fun l => { l with beaconDue := true }) else s)

end Sys2Proof.Machine
end

