-- ==== Sys2Proof/Machine/Queue.lean ====
section
/-! DEFINITION. Command queues (R322 to R334, R352), the commands that need nothing but queues, memory and the Lace unit (R333, R337, R338,
R350), lace sets (R340, R350), and bulk mode (R351). -/

namespace Sys2Proof.Machine

/-- R329: a queue stops. -/
def stopQueue (s : State) (q code : Nat) : State := setQState s q .stopped code

/-- QUEUE_DOORBELL (R325, R352). -/
def doorbell (s : State) (q : Nat) : State :=
  let x := queueOf s q
  if x.state = .idle ∨ x.state = .running ∨ x.state = .waiting then
    if 2 ^ qRingLog s q < qWaiting s q then stopQueue s q Code.queueOverflow
    else if x.state = .idle then (if 0 < qWaiting s q then refreshQueue (setQState s q .running 0) q else s)
    else refreshQueue s q
  else s

/-- QUEUE_DOORBELL (R325): a write touched W0 or W1 of a control block. -/
def execQueueDoorbell (queue : Nat) (s : State) : Host.Outcome State Fault Refusal := .next (if queue < 512 then doorbell s queue else s)

/-- R327: a control block that ENABLE accepts. -/
def blockValid (s : State) (q : Nat) : Bool :=
  q == 511 ||
  ((qWord s q 3).toNat % 4096 == 0 && (qWord s q 4).toNat % 4096 == 0
    && 4 ≤ fld (qWord s q 5) 63 60 && 4 ≤ fld (qWord s q 5) 59 56
    && fld (qWord s q 0) 63 32 == 0 && fld (qWord s q 1) 63 32 == 0 && fld (qWord s q 5) 52 0 == 0 && fld (qWord s q 6) 47 0 == 0 && qWord s q 7 == 0
    && fld (qWord s q 5) 63 60 ≤ 15 && fld (qWord s q 5) 59 56 ≤ 15)

/-- R352: DISABLE completes the WAITs in flight with QUEUE_DISABLED. -/
def disableWaits (s : State) (q : Nat) : State :=
  modQueue s q (fun x => { x with flights := x.flights.map (fun f =>
    if fld (nth f.words 0) 63 56 = 7 ∧ f.result.isNone then { f with result := some { status := Code.queueDisabled } } else f) })

/-- R326, R468, R474: the three actions of queue_ctl; ENABLE is refused outside READY; one that meets no row of the table changes nothing. -/
def queueAction (s : State) (action q : Nat) : Nat × State :=
  let x := (queueOf s q).state
  if action = 1 then
    (if s.reset'.boot ≠ .ready then refuse s Code.valueRefused else if x ≠ .disabled then accept s else if blockValid s q then accept (setQState s q .idle 0) else refuse s Code.valueRefused)
  else if action = 2 then
    accept (match x with
      | .idle => setQState (disableWaits s q) q .disabled 0
      | .running => setQState (disableWaits s q) q .draining 0
      | .waiting => setQState (disableWaits s q) q .draining 0
      | .stopped => setQState (disableWaits s q) q .draining 0
      | _ => s)
  else accept (if x = .stopped then (if qWaiting s q = 0 then setQState s q .idle 0 else refreshQueue (setQState s q .running 0) q) else s)

/-- queue_ctl (R353). -/
def wQueueCtl (via : Via) (v : Nat) (s : State) : Nat × State :=
  let action := bits v 31 24
  let q := bits v 8 0
  if bits v 23 9 ≠ 0 ∨ action = 0 ∨ 3 < action then refuse s Code.valueRefused
  else if isMailbox via && q == 511 then refuse s Code.valueRefused
  else queueAction s action q

/-- QUEUE_ENABLE, QUEUE_DISABLE, QUEUE_RESUME (R326, R327). -/
def execQueueEnable (via : Via) (queue : Nat) (s : State) : Host.Outcome State Fault Refusal := .next (doWrite s via 0x4000 4 (wQueueCtl via (2 ^ 24 + queue % 512)))
def execQueueDisable (via : Via) (queue : Nat) (s : State) : Host.Outcome State Fault Refusal := .next (doWrite s via 0x4000 4 (wQueueCtl via (2 * 2 ^ 24 + queue % 512)))
def execQueueResume (via : Via) (queue : Nat) (s : State) : Host.Outcome State Fault Refusal := .next (doWrite s via 0x4000 4 (wQueueCtl via (3 * 2 ^ 24 + queue % 512)))

/-- QUEUE_DRAINED (R326). -/
def execQueueDrained (queue : Nat) (s : State) : Host.Outcome State Fault Refusal :=
  let x := queueOf s queue
  .next (if x.state = .draining ∧ x.flights.isEmpty = true then setQState s queue .disabled 0 else s)

/-- R331, R333: the bits of a command that must be 0, by opcode: (word, high, low). -/
def rsvBits (op : Nat) : List (Nat × Nat × Nat) :=
  let from' (i : Nat) : List (Nat × Nat × Nat) := (List.range (8 - i)).map (fun j => (i + j, 63, 0))
  (0, 39, 32) :: (match op with
    | 0x01 => (2, 27, 0) :: from' 3
    | 0x02 => (1, 11, 0) :: from' 3
    | 0x03 => (2, 55, 0) :: from' 3
    | 0x04 => (2, 55, 0) :: from' 3
    | 0x05 => from' 1
    | 0x06 => (1, 47, 0) :: from' 3
    | 0x07 => (1, 47, 32) :: from' 3
    | 0x08 => (1, 57, 0) :: from' 2
    | 0x09 => (1, 51, 0) :: from' 4
    | 0x0A => from' 2
    | 0x10 => (2, 31, 0) :: from' 3
    | _ => (1, 39, 0) :: from' 3)

/-- R332: opcodes that are assigned. -/
def opKnown (op : Nat) : Bool := (1 ≤ op && op ≤ 0x0A) || op == 0x10 || op == 0x11

/-- R332 check 1; a reserved SOP, COND, LOP counts with it. -/
def reservedSet (ws : List Word) : Bool :=
  let op := fld (nth ws 0) 63 56
  !opKnown op || (rsvBits op).any (fun r => fld (nth ws r.1) r.2.1 r.2.2 != 0)
    || (op == 6 && 1 < fld (nth ws 1) 51 48) || (op == 7 && 2 < fld (nth ws 1) 51 48)
    || (op == 9 && !lopKnown (fld (nth ws 1) 57 54))

/-- R332: the result of checks 1 and 2, if either fails. -/
def startChecks (q : Nat) (ws : List Word) : Option Result :=
  let op := fld (nth ws 0) 63 56
  if reservedSet ws then some { status := Code.reservedSet }
  else if (op = 0x10 ∨ op = 0x11) ∧ q ≠ 511 then some { status := Code.privDenied }
  else none

/-- R491, R494: in ARMED_REPLAY only a LAUNCH starts (log 44). -/
def startsNow (s : State) (q : Nat) : Bool :=
  s.faults.rollback != .armedReplay || (match (fetchHead s q).1 with | .ok bs => fld (nth (wordsOf bs 8) 0) 63 56 == 2 | .error _ => false)

/-- R328: the queue an engine starts from: the lowest PRIO, then round-robin from the queue last started. -/
def pickQueue (s : State) (engine : Nat) : Option Nat :=
  let last := tget (128 * engine + 127) s.queues.lastStarted engine
  let cands := (s.queues.queues.filter (fun x => x.1 / 128 == engine && (x.2.state == .running || x.2.state == .waiting) && mayStart s x.1 && startsNow s x.1)).map (·.1)
  let rank (q : Nat) : Nat := qPrio s q * 128 + (q + 127 - last % 128) % 128
  cands.foldl (fun b q => match b with | none => some q | some p => if rank q < rank p then some q else some p) none

/-- R341, R350: why a lace command fails at start, if it does: BARRIER is no operation on a value (log 24). -/
def laceFails (s : State) (ws : List Word) : Option Result :=
  let lop := fld (nth ws 1) 57 54
  let lt := fld (nth ws 1) 53 52
  let value := fld (nth ws 0) 63 56 == 9
  if value && ((nth ws 2).toNat % ltBytes lt != 0 || (nth ws 3).toNat % ltBytes lt != 0) then some { status := Code.alignFault }
  else if value && (lop == lopBarrier || !lopTakes lop lt) then some { status := Code.formatUnsupported }
  else if !(laceSet s (fld (nth ws 1) 63 58)).enabled then some { status := Code.laceSetInvalid }
  else none

/-- R333: the queue context that a COPY or FILL wants, unless its block is misaligned. -/
def copyContext (ws : List Word) : Option Nat :=
  let op := fld (nth ws 0) 63 56
  if (op = 3 ∨ op = 4) ∧ (nth ws 1).toNat % 256 = 0 then some (4 * fld (nth ws 2) 63 58 + fld (nth ws 2) 57 56) else none

/-- R328, R350: what a command takes at its start, in start order: a lace operation its OP_SEQ, a COPY or FILL its place before its context. -/
def takePlace (s : State) (q id : Nat) (ws : List Word) : State :=
  let op := fld (nth ws 0) 63 56
  let set := fld (nth ws 1) 63 58
  if op = 8 ∨ op = 9 then
    (if (laceFails s ws).isSome then s
     else refreshAll (laceOpen s set q id (if op = 8 then lopBarrier else fld (nth ws 1) 57 54) (if op = 8 then 0 else fld (nth ws 1) 53 52)))
  else
    match copyContext ws with
    | some c => { s with stitch := { s.stitch with waiting := tmod [] s.stitch.waiting c (· ++ [(q, id)]) } }
    | none => s

/-- R338: the result of a WAIT whose condition holds as it is evaluated. -/
def waitResult (s : State) (ws : List Word) : Option Result :=
  let a := rget s Reg.semBase + 8 * fld (nth ws 1) 63 52
  let v := (hbmWord s a).toNat
  if poisoned s a 8 then some { status := Code.memPoison } else if waitMet (fld (nth ws 1) 51 48) v (nth ws 2).toNat then some { value := v } else none

/-- R332, R338, R434: the result that a command has at its start, if any: of the checks, of queue 511 in SEALED mode for what it
may not ask, or of a WAIT whose condition holds at once. -/
def startResult (s : State) (q : Nat) (ws : List Word) : Option Result :=
  let op := fld (nth ws 0) 63 56
  (startChecks q ws).or
    (if sealedMode s ∧ q = 511 ∧ op ≠ 0x10 ∧ op ≠ 0x11 ∧ op ≠ 5 ∧ op ≠ 0xA then some { status := Code.sealedDenied }
     else if op = 7 then waitResult s ws else none)

/-- COMMAND_START (R328, R330, R332, R350). -/
def execCommandStart (engine : Nat) (s : State) : Host.Outcome State Fault Refusal :=
  .next (if s.power.stalled || s.power.tripped || s.power.clocksOff || (rollingBack s && s.faults.rollback != .armedReplay) then s
    else
      match pickQueue s engine with
      | none => s
      | some q =>
        match fetchHead s q with
        | (.error e, s1) => stopQueue s1 q e.1
        | (.ok bs, s1) =>
          let ws := wordsOf bs 8
          let h := qHead s1 q
          let s2 := { s1 with queues := { s1.queues with
            lastStarted := tput s1.queues.lastStarted engine q
            mgmtRing := if q = 511 then s1.queues.mgmtRing.drop 1 else s1.queues.mgmtRing } }
          let s3 := setQWord s2 q 2 (((h + 1) % 2 ^ 32) * 2 ^ 32 + qCqTail s2 q)
          let s4 := rinc (modQueue s3 q (fun x => { x with flights := x.flights ++ [{ id := h, words := ws, beat := s3.clock.beat.toNat, result := startResult s3 q ws }] })) Reg.commandsStarted
          let s5 := match startResult s3 q ws with
            | none => takePlace s4 q h ws
            | some r => countDenied s4 r.status
          refreshQueue (treadLog s5 3 (ownChip s5) q 0 bs) q)

/-! ### The meanings of commands -/

/-- Run a command's meaning once: a flight with the opcode that has neither begun nor a result, while the engines have their clock (R372). -/
def runCommand (s : State) (q id op : Nat) (act : State → Flight → State) : State :=
  match flightOf s q id with
  | none => s
  | some f =>
    if s.power.clocksOff ∨ f.begun ∨ f.result.isSome ∨ fld (nth f.words 0) 63 56 ≠ op then s
    else act (modFlight s q id (fun f => { f with begun := true })) f

/-- R333: COPY or FILL on its queue context; one whose context is busy, or that is not the context's next in start order, waits (R328). -/
def copyCommand (s : State) (q id : Nat) (f : Flight) : State :=
  let t := fld (nth f.words 2) 63 58
  let st := fld (nth f.words 2) 57 56
  if (nth f.words 1).toNat % 256 ≠ 0 then finish' s q id { status := Code.alignFault }
  else if (ctxOf s (ctxKey false false t st)).isSome || s.power.stalled || (tget [] s.stitch.waiting (4 * t + st)).head? != some (q, id) then s
  else startQueueCopy (takeWaiting s t st) t st q id

/-- COPY (R119, R333). -/
def execCopy (queue id : Nat) (s : State) : Host.Outcome State Fault Refusal :=
  .next (runCommand s queue id 3 (fun s f => copyCommand s queue id f))

/-- FILL (R122, R333). -/
def execFill (queue id : Nat) (s : State) : Host.Outcome State Fault Refusal :=
  .next (runCommand s queue id 4 (fun s f => copyCommand s queue id f))

/-- R189: an earlier command that may still have fabric requests out: a copy with a FABRIC end, or one that has not begun, and SNAPSHOT. -/
def holdsFence (s : State) (q : Nat) (f : Flight) : Bool :=
  let op := fld (nth f.words 0) 63 56
  f.result.isNone && (op == 0x10 || ((op == 3 || op == 4) &&
    (match s.stitch.ctxs.find? (fun c => c.2.origin == some (q, f.id)) with
     | some c => tdKind c.2.src == kFabric || tdKind c.2.dst == kFabric || tdKind c.2.scaleSrc == kFabric || tdKind c.2.scaleDst == kFabric || c.2.outstanding != 0
     | none => true)))

/-- R189: a FENCE is met. -/
def fenceMet (s : State) (q id : Nat) : Bool := ((queueOf s q).flights.takeWhile (fun f => f.id != id)).all (fun f => !holdsFence s q f)

/-- FENCE (R189). -/
def execFence (queue id : Nat) (s : State) : Host.Outcome State Fault Refusal :=
  .next (runCommand s queue id 5 (fun s _ => if fenceMet s queue id then finish' s queue id {} else s))

/-- R337: what a SIGNAL does to its semaphore. -/
def signalWrite (s : State) (ws : List Word) : State :=
  let j := fld (nth ws 1) 63 52
  let v := (nth ws 2).toNat
  if fld (nth ws 1) 51 48 = 0 then semAdd s j v else hbmWrite s (rget s Reg.semBase + 8 * j) (leBytes 8 v)

/-- SIGNAL (R337). -/
def execSignal (queue id : Nat) (s : State) : Host.Outcome State Fault Refusal :=
  .next (runCommand s queue id 6 (fun s f =>
    if poisoned s (rget s Reg.semBase + 8 * fld (nth f.words 1) 63 52) 8 then finish' s queue id { status := Code.memPoison }
    else finish' (signalWrite s f.words) queue id {}))

/-- WAIT (R338): the condition has been evaluated at the start and at every update since, and is so now. -/
def execWait (queue id : Nat) (s : State) : Host.Outcome State Fault Refusal :=
  .next (runCommand s queue id 7 (fun s f => match waitResult s f.words with | some r => finish' s queue id r | none => s))

/-- WAIT_TIMEOUT (R338). -/
def execWaitTimeout (queue id : Nat) (s : State) : Host.Outcome State Fault Refusal :=
  .next (match flightOf s queue id with
    | some f => if f.result.isNone ∧ fld (nth f.words 0) 63 56 = 7 ∧ fld (nth f.words 1) 31 0 ≠ 0 then finish' s queue id { status := Code.waitTimeout } else s
    | none => s)

/-- R350 steps 1 to 3: a lace command whose operation was opened at its start goes on with `act`; one that may not start fails. -/
def laceCommand (s : State) (q id : Nat) (f : Flight) (act : State → Nat → State) : State :=
  let set := fld (nth f.words 1) 63 58
  match laceFails s f.words, laceOpOf s set q id with
  | some r, _ => finish' s q id r
  | none, none => finish' s q id { status := Code.laceSetInvalid }
  | none, some _ => act s set

/-- BARRIER (R350). -/
def execBarrier (queue id : Nat) (s : State) : Host.Outcome State Fault Refusal :=
  .next (runCommand s queue id 8 (fun s f => laceCommand s queue id f (fun s set => laceSend s set queue id 0)))

/-- REDUCE_SCALAR (R341, R350): the operand is read through its regulator. -/
def execReduceScalar (queue id : Nat) (s : State) : Host.Outcome State Fault Refusal :=
  .next (runCommand s queue id 9 (fun s f => laceCommand s queue id f (fun s set =>
    match engineMeter s queue id (nth f.words 2).toNat (ltBytes (fld (nth f.words 1) 53 52)) false with
    | (.admitted, s1) => laceRead s1 set queue id 0
    | (.waits, s1) => s1
    | (.refused note, s1) => laceEnd s1 set queue id { status := Code.refusedCap, note := note })))

/-- TIMESTAMP (R333). -/
def execTimestamp (queue id : Nat) (s : State) : Host.Outcome State Fault Refusal :=
  .next (runCommand s queue id 0x0A (fun s f =>
    let va := (nth f.words 1).toNat
    if va % 8 ≠ 0 then finish' s queue id { status := Code.alignFault }
    else
      match engineMeter s queue id va 8 true with
      | (.admitted, s1) => timestampWrite s1 queue id 0
      | (.waits, s1) => s1
      | (.refused note, s1) => finish' s1 queue id { status := Code.refusedCap, note := note }))

/-! ### Completion (R334, R336) -/

/-- R334: the four words of a completion record. -/
def recordWords (s : State) (q : Nat) (f : Flight) (r : Result) (index log2 : Nat) : List Word :=
  let w0 := nth f.words 0
  [word (at' (fld w0 31 0) 32 32 + at' q 9 23 + at' (fld w0 63 56) 8 15 + at' r.status 8 7
      + at' (if r.status = Code.xlateFault then r.reason else 0) 3 4 + at' (1 - index / 2 ^ log2 % 2) 1 3),
   word (at' r.note 8 56 + at' r.detail 32 0), word (r.beat.getD s.clock.beat.toNat), word r.value]

/-- Write a command's record, advance CQ_TAIL, log it, signal, and let the flight go. -/
def completeFlight (s : State) (q : Nat) (f : Flight) (r : Result) : State :=
  let i := qCqTail s q
  let bs := bytesOf (recordWords s q f r i (qCqLog s q))
  let gone (s : State) : State := modQueue s q (fun x => { x with flights := x.flights.filter (fun y => y.id != f.id) })
  let done (s : State) : State :=
    let s1 := setQWord s q 2 (qHead s q * 2 ^ 32 + (i + 1) % 2 ^ 32)
    let s2 := gone (treadLog s1 4 (ownChip s1) q 0 bs)
    let s3 := if bit (nth f.words 0) 54 then semAdd s2 (fld (nth f.words 0) 51 40) 1 else s2
    refreshQueue s3 q
  if q = 511 then done { s with queues := { s.queues with mgmtCq := s.queues.mgmtCq ++ [bs] } }
  else
    match engineWrite s q ((qWord s q 4).toNat + 32 * (i % 2 ^ qCqLog s q)) bs with
    | (.ok (), s1) => done s1
    | (.error e, s1) =>
      let s2 := gone s1
      if (queueOf s2 q).state = .running ∨ (queueOf s2 q).state = .waiting then stopQueue s2 q e.1 else s2

/-- COMMAND_COMPLETE (R334, R189, R352): a command with its result, or a FENCE that is met, completes where the completion ring has room, and the
engines have their clock (R372). -/
def execCommandComplete (queue id : Nat) (s : State) : Host.Outcome State Fault Refusal :=
  .next (clocked s (match flightOf s queue id with
    | none => s
    | some f =>
      let r := match f.result with
        | some r => some r
        | none => if fld (nth f.words 0) 63 56 = 5 ∧ f.begun ∧ fenceMet s queue id = true then some {} else none
      match r with
      | none => s
      | some r => if 2 ^ qCqLog s queue ≤ qRecords s queue then s else completeFlight s queue f r))

/-- mgmt_command (R322, R353): a command joins queue 511 and its doorbell rings. -/
def wMgmtCommand (v : List Byte) (s : State) : Nat × State :=
  if v.length ≠ 64 then refuse s Code.lengthMismatch
  else
    let s1 := { s with queues := { s.queues with mgmtRing := s.queues.mgmtRing ++ [v] } }
    accept (doorbell (setQWord s1 511 0 ((qTail s1 511 + 1) % 2 ^ 32)) 511)

/-- MGMT_COMMAND (R353). -/
def execMgmtCommand (via : Via) (bytes : List Byte) (s : State) : Host.Outcome State Fault Refusal := .next (doWrite s via 0x4000 7 (wMgmtCommand bytes))

/-! ### Queue lace operations and sets (R340, R343, R350) -/

/-- R350: what the Lace unit does with a message: one for an operation outstanding is taken, and logged unless it comes from the log; one 1 to 3 ahead is
held; none is the answer for any other. With nothing outstanding, ahead counts from the operation last issued (log 25). -/
def laceReceive (s : State) (m : List Word) (log : Bool) : Option State :=
  let set := lmSet m
  let x := laceSet s set
  let chip := lmSrc m
  if !x.enabled ∨ !(laceMembers x).contains chip ∨ chip = ownChip s ∨ lmKind m ≠ 0 then none
  else
    match x.ops.find? (fun o => o.seq == lmSeq m) with
    | some o =>
      if o.held.any (fun h => h.1 == chip) then none
      else some (laceTake (if log then logLace s chip m else s) set o chip (lmLop m) (lmType m) (nth m 1).toNat)
    | none =>
      let base := match x.ops with
        | o :: _ => o.seq
        | [] => (x.seq + 2 ^ 24 - 1) % 2 ^ 24
      let k := (lmSeq m + 2 ^ 24 - base) % 2 ^ 24
      if 1 ≤ k ∧ k ≤ 3 ∧ !x.early.any (fun e => e.1 == chip && e.2.1 == lmSeq m) then
        some (setLaceSet s set (fun y => { y with early := y.early ++ [(chip, lmSeq m, lmLop m, lmType m, (nth m 1).toNat)] }))
      else none

/-- LACE_PACKET (R350): a message that the Lace unit neither takes nor holds is dropped. -/
def execLacePacket (p : Packet) (s : State) : Host.Outcome State Fault Refusal :=
  let m := wordsOf p.payload 8
  .next (if p.kind ≠ kLace then s
    else if !p.wellFormed then rinc s Reg.routeDrops
    else (laceReceive s m true).getD (rinc s (Reg.laceDrops (lmSet m))))

/-- LACE_TIMEOUT (R350): the oldest operation of a set completes with LACE_TIMEOUT. -/
def execLaceTimeout (set : Nat) (s : State) : Host.Outcome State Fault Refusal :=
  .next (match (laceSet s set).ops with
    | o :: _ => laceEnd s set o.queue o.id { status := Code.laceTimeout }
    | [] => s)

/-- LACE_TAKEOVER (R343). -/
def execLaceTakeover (s : State) : Host.Outcome State Fault Refusal :=
  .next (if s.queues.laceDie = 0 then rinc { s with queues := { s.queues with laceDie := 1 } } Reg.laceTakeovers else s)

/-- R340: a set that may be enabled. -/
def laceSetValid (s : State) (x : LaceSet) : Bool :=
  let chips := laceMembers x
  let n := chips.length
  let table := (List.range 32).filterMap (memberChip s)
  let own := laceGroup x (ownChip s)
  0 < n && n ≤ 256 && x.members.all (fun m => bits m 15 15 == 0)
    && (List.range (n - 1)).all (fun i => chips.getD i 0 < chips.getD (i + 1) 0)
    && chips.contains (ownChip s) && !s.plan.committed.isEmpty
    && (if x.shape = 0 then chips.all (fun c => table.contains c)
        else x.members.all (fun m => !table.contains (meChip m) || meGroup m == own)
          && (List.range 8).all (fun g => g == own || (laceGroupMembers x g).length ≤ 32))

/-- R340: the pace set of a Last that is ARMED or RUNNING. -/
def isPaceSet (s : State) (set : Nat) : Bool :=
  match s.last.run with
  | some r => lastArmed s && paceLaceSet s r.slot == set
  | none => false

/-- R340: a lace operation on the set is outstanding: from a queue, or a scheduled one whose result is not written. -/
def laceOutstanding (s : State) (set : Nat) : Bool :=
  !(laceSet s set).ops.isEmpty || (match s.last.run with | some r => r.laceOps.any (fun o => o.set == set && o.done.isNone) | none => false)

/-- lace_enable (R340, R354). -/
def wLaceEnable (set v : Nat) (s : State) : Nat × State :=
  let x := laceSet s set
  if 1 < v then refuse s Code.valueRefused
  else if v = 1 then (if laceSetValid s x then accept (setLaceSet s set (fun y => { y with enabled := true })) else refuse s Code.valueRefused)
  else if laceOutstanding s set || isPaceSet s set then refuse s Code.valueRefused
  else accept (setLaceSet s set (fun y => { y with enabled := false }))

/-- LACE_ENABLE (R340). -/
def execLaceEnable (via : Via) (set v : Nat) (s : State) : Host.Outcome State Fault Refusal := .next (doWrite s via (0x4040 + set % 64) 1 (wLaceEnable (set % 64) v))

/-! ### Bulk mode (R351) -/

/-- Whether a range lies in package memory. -/
def physRange (a n : Nat) : Bool := (physLoc a).isSome && (physLoc (a + n - 1)).isSome && (a + n ≤ hbmBytes || hbmBytes ≤ a)

/-- Start a bulk request: only while no Last is ARMED or RUNNING, one at a time, of whole 64 KiB chunks. -/
def startBulk (s : State) (b : Bulk) (remote : Bool) : State :=
  if lastArmed s || s.queues.bulk.isSome || b.len = 0 || b.len % chunkBytes != 0 then s
  else if !b.digest && !physRange b.dst b.len then bulkEnd s Code.xlateFault
  else if remote then bulkReads s b
  else if !physRange b.src b.len then bulkEnd s Code.xlateFault
  else if b.src < hbmBytes && poisoned s b.src b.len then bulkEnd s Code.memPoison
  else bulkRun s b false

/-- BULK_COPY (R351). -/
def execBulkCopy (src : Nat) (remote : Bool) (len dst : Nat) (s : State) : Host.Outcome State Fault Refusal :=
  .next (clocked s (startBulk s { src := src, len := len, dst := dst } remote))

/-- BULK_DIGEST (R351). -/
def execBulkDigest (src : Nat) (remote : Bool) (len set : Nat) (s : State) : Host.Outcome State Fault Refusal :=
  .next (clocked s (startBulk s { digest := true, src := src, len := len, dst := set % 64 } remote))

end Sys2Proof.Machine
end

