-- ==== Sys2Proof/Machine/SchedLace.lean ====
section
/-! DEFINITION. Scheduled lace operations (R345 to R349), and the ARRIVE and SIGNAL records (R292, R299, R336). -/

namespace Sys2Proof.Machine

/-! ### Lace-table entries (R345) -/

def leLop (x : List Word) : Nat := fld (nth x 0) 59 56
def leType (x : List Word) : Nat := fld (nth x 0) 55 54
def leSet (x : List Word) : Nat := fld (nth x 0) 53 48
def leSrcHandle (x : List Word) : Nat := fld (nth x 0) 47 40
def leSrcOff (x : List Word) : Nat := fld (nth x 0) 39 20
def leDeadline (x : List Word) : Nat := fld (nth x 0) 19 4
def leDstHandle (x : List Word) : Nat := fld (nth x 1) 63 56
def leDstOff (x : List Word) : Nat := fld (nth x 1) 55 36
def leSignal (x : List Word) : Bool := bit (nth x 1) 35
def leSem (x : List Word) : Nat := fld (nth x 1) 34 23

/-- The tile number under which the pace reduction stands (R349). -/
abbrev paceTile : Nat := 64

/-! ### Stages and runs (R346) -/

/-- The LACE runs of a bucket that begin in a step beat. -/
def laceRunsAt (s : State) (slot b beat : Nat) : List LaneRun := (laneRuns s slot b).filter (fun x => x.dir == 2 && x.beat == beat)

/-- Greatest latency of the lanes of some runs. -/
def greatestLatency (s : State) (slot b : Nat) (xs : List LaneRun) : Nat := (xs.map (fun x => laneLatency s slot b x.eyelet x.lane)).foldl max 0

/-- The committed plan's partner of a lane of a logical eyelet: the chip that receives what is sent on it, or that sends what comes on it (R272,
R276). -/
def planPartner (s : State) (sends : Bool) (ell k : Nat) : Option Nat :=
  let p := s.plan.committed
  let m := rget s Reg.groupMember
  if ell < 24 then
    (if m = 0xFF then none
     else let c := planMember p (if sends then (m + k) % 32 else (m + 32 - k) % 32); if c = 0xFFFF then none else some c)
  else (linkPartner p (ownChip s) ell).map (·.1)

/-- R346: the chips with which a package exchanges an operation's messages in a stage: every other member in ONE_HOP; in TREE, the other
members of its group in stages 1 and 3, of which only the representative sends in stage 3, and between representatives the others in stage 2. -/
def lacePeers (s : State) (x : LaceSet) (stage : Nat) : List Nat :=
  let own := ownChip s
  let g := laceGroup x own
  if x.shape = 0 then (if stage = 1 then (laceMembers x).filter (· != own) else [])
  else if stage = 1 then (laceGroupMembers x g).filter (· != own)
  else if stage = 2 then (if laceRep x g = some own then ((List.range 8).filter (· != g)).filterMap (laceRep x) else [])
  else if stage = 3 then (if laceRep x g = some own then (laceGroupMembers x g).filter (· != own) else (laceRep x g).toList)
  else []

/-- Whether a run's lane joins the package to one of some chips, in either direction. -/
def joins (s : State) (chips : List Nat) (x : LaneRun) : Bool :=
  [planPartner s true x.eyelet x.lane, planPartner s false x.eyelet x.lane].any (fun p => match p with | some c => chips.contains c | none => false)

/-- Whether a run of a stage stands at a beat on a lane of the set to or from one of some chips: group lanes, or global ones. -/
def laceLanes (s : State) (slot b beat : Nat) (group : Bool) (chips : List Nat) : List LaneRun :=
  (laceRunsAt s slot b beat).filter (fun y => decide (y.eyelet < 24) == group && joins s chips y)

/-- The logical tiles that a bucket has sections for. -/
def lastTiles (s : State) (slot b : Nat) : List Nat :=
  let d := directory s slot b
  (List.range 64).filter (fun t => d.any (fun x => x.1 < 0x10 && x.2.1 == t))

/-- R314: step beats of the pace points of a bucket. -/
def pacePoints (s : State) (slot b : Nat) : List Nat :=
  let first := paceFirst s slot
  let bc := beatCount s slot b
  let lag := paceLag s slot
  ((List.range (bc / max 1 (paceSpacing s slot) + 1)).map (fun p => first + p * paceSpacing s slot)).filter (fun x => x + lag < bc)

/-- R346: the Lace unit's bound for a shape. -/
def laceBound (shape lg lG : Nat) : Nat := if shape = 0 then 3 + lg else 6 + 2 * lg + lG

/-- R345, R349: a lace operation of a step: its step beat, tile (`paceTile` for the pace reduction), record, lace-table entry and set. -/
structure LaceIssue where
  beat : Nat
  tile : Nat
  record : Nat
  entry : List Word
  set : LaceSet
  deriving DecidableEq, Repr

def LaceIssue.barrier (q : LaceIssue) : Bool := q.tile != paceTile && leLop q.entry == lopBarrier

/-- The lace operations of a step in the order of their beats, and in one beat by tile. -/
def laceIssues (s : State) (slot b : Nat) : List LaceIssue :=
  let recs := (lastTiles s slot b).flatMap (fun t => ((stream s slot b t).filter (fun x => fld x.2.2 63 56 == 5)).map (fun x =>
    let en := secEntry s slot (findSec s slot b secLace t) 2 (fld x.2.2 47 38)
    (128 * x.2.1 + t, (⟨x.2.1, t, x.1, en, laceSet s (leSet en)⟩ : LaceIssue))))
  let own := (pacePoints s slot b).map (fun p => (128 * p + paceTile, (⟨p, paceTile, 0, [], laceSet s (paceLaceSet s slot)⟩ : LaceIssue)))
  (sortKeys (recs ++ own)).map (·.2)

/-- R346: L_G of an operation issued in step beat `beat` whose L_g is `lg`: the greatest latency among the global lanes on which the
representative forwards. Another member of the group has no global lane in its Last; there the runs of stage 3 say it, as the least latency after
which a run from the representative stands that no operation's stage 1 wants (DEDUCED, log 26). -/
def laceLGAfter (s : State) (slot b beat : Nat) (x : LaceSet) (lg : Nat) (issues : List LaceIssue) : Nat :=
  match laceRep x (laceGroup x (ownChip s)) with
  | none => 0
  | some rep =>
    if rep = ownChip s then greatestLatency s slot b (laceLanes s slot b (beat + 2 + lg) false (lacePeers s x 2))
    else
      let stage1 (at0 : Nat) : Nat := (issues.filter (fun q => q.beat + 1 == at0 && (lacePeers s q.set 1).contains rep)).length
      let from_ (at0 : Nat) : Nat := ((laceLanes s slot b at0 true [rep]).filter (fun y => planPartner s false y.eyelet y.lane == some rep)).length
      (((List.range 16).map (· + 1)).find? (fun w => stage1 (beat + 3 + lg + w) < from_ (beat + 3 + lg + w))).getD 0

/-- R346: L_g and L_G of an operation on a set issued in step beat `beat`: the greatest latency among the set's own group lanes, of stage 1 and, in
a TREE, of stage 3, and among its global lanes. -/
def laceLatencies (s : State) (slot b beat : Nat) (x : LaceSet) (issues : List LaceIssue) : Nat × Nat :=
  let lg0 := greatestLatency s slot b (laceLanes s slot b (beat + 1) true (lacePeers s x 1))
  if x.shape = 0 then (lg0, 0)
  else
    let lG (v : Nat) : Nat := laceLGAfter s slot b beat x v issues
    let third (v : Nat) : Nat := greatestLatency s slot b (laceLanes s slot b (beat + 3 + v + lG v) true (lacePeers s x 3))
    let lg := (((List.range 17).map (lg0 + ·)).find? (fun v => max lg0 (third v) == v)).getD lg0
    (lg, lG lg)

/-- The stage of an operation in which the package sends, for messages of schedule beat `sb`; 0 for none. In stages 2 and 3 only a
representative sends. -/
def laceStage (s : State) (r : Run) (o : SchedLace) (sb : Nat) : Nat :=
  let bc := max 1 (beatCount s r.slot r.bucket)
  let x := laceSet s o.set
  if sb = o.issued + 1 then 1
  else if x.shape = 0 ∨ laceRep x (laceGroup x (ownChip s)) ≠ some (ownChip s) then 0
  else
    let l := laceLatencies s r.slot r.bucket (o.issued % bc) x []
    if sb = o.issued + 2 + l.1 then 2
    else if sb = o.issued + 3 + l.1 + l.2 then 3
    else 0

/-- The operations whose messages are sent in a schedule beat, in issue order. -/
def laceSending (s : State) (r : Run) (sb : Nat) : List SchedLace := r.laceOps.filter (fun o => laceStage s r o sb != 0)

/-- R344: set indices in messages of at most seven consecutive ones. -/
def forwardChunks : List Nat → List (List Nat)
  | [] => []
  | i :: is =>
    match forwardChunks is with
    | (j :: js) :: rest => if j = i + 1 ∧ js.length < 6 then (i :: j :: js) :: rest else [i] :: (j :: js) :: rest
    | rest => [i] :: rest

/-- The set indices whose values a representative forwards in a stage: its own group's in stage 2, every other group's in stage 3. -/
def forwarded (s : State) (x : LaceSet) (stage : Nat) : List Nat :=
  let own := laceGroup x (ownChip s)
  (List.range x.members.length).filter (fun i => (meGroup (x.members.getD i 0) == own) == (stage == 2))

/-- The message that block `i` of a LACE run carries for an operation in a stage. -/
def stageMessage (s : State) (o : SchedLace) (stage i : Nat) : Option (List Word) :=
  let x := laceSet s o.set
  let own := ownChip s
  let value (c : Nat) : Option Nat := (o.held.find? (fun h => h.1 == c)).map (·.2)
  if stage = 1 then
    (if i = 0 then (value own).map (fun v => laceMessage own o.set o.lop o.ltype 0 (if o.lop = lopBarrier then 0 else 1) 0 o.seq (if o.lop = lopBarrier then [] else [v])) else none)
  else if laceRep x (laceGroup x own) ≠ some own then none
  else
    let is := forwarded s x stage
    if !is.all (fun j => (value (meChip (x.members.getD j 0))).isSome) then none
    else if o.lop = lopBarrier then (if i = 0 then some (laceMessage own o.set o.lop o.ltype 1 0 0 o.seq []) else none)
    else
      match (forwardChunks is)[i]? with
      | some (j :: js) => some (laceMessage own o.set o.lop o.ltype 1 (js.length + 1) j o.seq ((j :: js).map (fun m => (value (meChip (x.members.getD m 0))).getD 0)))
      | _ => none

/-- The LACE run that covers block `pos` of schedule beat `sb` on a lane of a physical eyelet, and the block's index in it. -/
def laceRunAt (s : State) (r : Run) (e k pos sb : Nat) : Option (LaneRun × Nat) :=
  let bc := max 1 (beatCount s r.slot r.bucket)
  let ell := logicalEyelet s e
  let i := 4 * (sb % bc) + pos
  ((laneRuns s r.slot r.bucket).find? (fun x => x.dir == 2 && x.eyelet == ell && x.lane == k && x.first ≤ i && i < x.first + x.count)).map
    (fun x => (x, i - x.first))

/-- The message a LACE block carries (R346). Where two operations send in one beat, the runs toward one partner serve them in order
(PRESUMED, log 26). -/
def laceBlock (s : State) (r : Run) (e k pos sb : Nat) : Option (List Word) :=
  match laceRunAt s r e k pos sb, lanePartner (rxOf s e k) with
  | some (x, i), some c =>
    let peers := (laceRunsAt s r.slot r.bucket x.beat).filter (fun y => lanePartner (rxOf s (physEyelet s y.eyelet) y.lane) == some c)
    let j := peers.findIdx (fun y => y == x)
    let ops := (laceSending s r sb).filter (fun o => (lacePeers s (laceSet s o.set) (laceStage s r o sb)).contains c)
    match ops[j]? with
    | some o => stageMessage s o (laceStage s r o sb) i
    | none => none
  | _, _ => none

/-! ### Issue, arrival and result (R345, R347, R349) -/

/-- Change a scheduled operation. -/
def modSchedLace (s : State) (o : SchedLace) (f : SchedLace → SchedLace) : State :=
  setRun s (fun y => { y with laceOps := y.laceOps.map (fun p => if p.tile = o.tile ∧ p.entry = o.entry ∧ p.issued = o.issued then f p else p) })

/-- R345, R347: the entry of an operation. -/
def laceEntry (r : Run) (tile entry : Nat) : List Word := runEntry r secLace tile 2 entry

/-- R347, R348: the cycle of the result's beat in which it is written: it is visible from the cycle after. -/
def laceWriteCycle (shape : Nat) : Nat := if shape = 0 then 18 else 4

/-- The schedule beat in which the last value of an operation arrives when no block is replayed (R348). -/
def laceArrival (s : State) (r : Run) (o : SchedLace) : Nat :=
  let x := laceSet s o.set
  let l := laceLatencies s r.slot r.bucket (o.issued % max 1 (beatCount s r.slot r.bucket)) x (laceIssues s r.slot r.bucket)
  o.issued + laceBound x.shape l.1 l.2 - 2

/-- R347, R515: an operation that holds every value writes its result, in the beat after the last arrival, and signals. The write is a rank 5
request of R101 in its cycle; one that a replay delays is unscheduled, as the replayed block is, and is written at once. -/
def schedLaceCheck (s : State) (r : Run) (o : SchedLace) : State :=
  let x := laceSet s o.set
  if o.done.isSome || !laceWhole x o.held then s
  else
    let v := laceFold o.lop o.ltype (laceValues x o.held)
    let s1 := rinc (modSchedLace s o (fun p => { p with done := some (nowSched s + 1) })) Reg.laceOps
    if o.tile = paceTile then setRun s1 (fun y => { y with paceResult := some v })
    else
      let en := laceEntry r o.tile o.entry
      let h := handleOf s1 o.tile (leDstHandle en)
      let a := resolve h (64 * leDstOff en)
      let bs := leBytes (ltBytes o.ltype) v
      let s2 :=
        if o.lop = lopBarrier ∨ !hValid h then s1
        else if nowSched s1 ≤ laceArrival s1 r o then
          setPtile s1 (physTile s1 o.tile) (fun x' => { x' with late := x'.late ++ [(cycleNow s1 + 56 + laceWriteCycle x.shape, .inbound a (nowSched s1 + 1) bs)] })
        else schedWrite s1 o.tile (nowSched s1 + 1) a bs
      if leSignal en then semAdd s2 (leSem en) 1 else s2

/-- An operation is issued with the package's own value. -/
def schedLaceIssue (s : State) (r : Run) (o : SchedLace) : State :=
  schedLaceCheck (setRun s (fun y => { y with laceOps := y.laceOps ++ [o] })) r o

/-- LACE_RECORD (R345, R347): the operand is read and the operation is issued. -/
def execLaceRecord (tile entry : Nat) (s : State) : Host.Outcome State Fault Refusal :=
  .next (issue s tile 5 (at' entry 10 38) (fun s r _ =>
    let en := laceEntry r tile entry
    let lt := leType en
    let barrier := leLop en == lopBarrier
    let v := if barrier then 0 else leNat (handleRead s tile (handleOf s tile (leSrcHandle en)) (64 * leSrcOff en) (ltBytes lt))
    let s1 := if barrier then s else activityAdd s (physTile s tile) 3 0 1
    schedLaceIssue (opCount s1 tile 5 (ltFmt lt) 1) r
      { tile := tile, entry := entry, issued := nowSched s, seq := stepBeat s r % 2 ^ 24, lop := leLop en, ltype := lt, set := leSet en, held := [(ownChip s, v)] }))

/-- The values that a message brings, by chip. A FORWARD of a BARRIER stands for its sender's whole group, or, from the own representative, for
every other group. -/
def laceBrings (s : State) (x : LaceSet) (m : List Word) : List (Nat × Nat) :=
  if lmKind m = 0 then [(lmSrc m, (nth m 1).toNat)]
  else if lmLop m = lopBarrier then
    let g := laceGroup x (lmSrc m)
    let own := laceGroup x (ownChip s)
    (x.members.filter (fun e => if g = own then meGroup e != own else meGroup e == g)).map (fun e => (meChip e, 0))
  else (List.range (lmCount m)).filterMap (fun i => (x.members[lmFirst m + i]?).map (fun e => (meChip e, (nth m (1 + i)).toNat)))

/-- R347: a lace message received in a LACE run, sent in schedule beat `sb`. -/
def onLaceMessage (s : State) (e k pos sb : Nat) (m : List Word) : State :=
  match s.last.run with
  | none => rinc s ((Reg.uncorrectableBlocks e).at k)
  | some r =>
    if (laceRunAt s r e k pos sb).isNone then rinc s ((Reg.uncorrectableBlocks e).at k)
    else
      match r.laceOps.find? (fun o => o.set == lmSet m && o.seq == lmSeq m && o.lop == lmLop m && o.ltype == lmType m && decide (o.issued < sb)) with
      | none => stepFault s 0 10 0 (lanePartner (lane s e k)) (lmSeq m) false
      | some o =>
        let new := (laceBrings s (laceSet s o.set) m).filter (fun b => !o.held.any (fun h => h.1 == b.1))
        schedLaceCheck (modSchedLace s o (fun p => { p with held := p.held ++ new })) r { o with held := o.held ++ new }

/-- LACE_MESSAGE_RECEIVED (R347). -/
def execLaceMessageReceived (eyelet lane pos schedBeat : Nat) (msg : List Word) (s : State) : Host.Outcome State Fault Refusal :=
  .next (onLaceMessage s eyelet lane pos schedBeat msg)

/-- R347: an operation's result is visible by the start of a schedule beat. -/
def laceVisible (o : SchedLace) (beat : Nat) : Bool := match o.done with | some v => decide (v < beat) | none => false

/-- LACE_DEADLINE_MISSED (R347): a result not visible by the start of beat b + DEADLINE raises STEP_FAULT. One whose last message landed in the
beat before becomes visible inside beat b + DEADLINE, which is too late (R348). -/
def execLaceDeadlineMissed (tile entry : Nat) (s : State) : Host.Outcome State Fault Refusal :=
  .next (match s.last.run with
    | none => s
    | some r =>
      let due (o : SchedLace) : Nat := o.issued + leDeadline (laceEntry r tile entry)
      match r.laceOps.find? (fun o => o.tile == tile && o.entry == entry && due o ≤ nowSched s && !laceVisible o (due o)) with
      | some o => if lastRunning s then stepFault s 0 10 0 none o.seq false else s
      | none => s)

/-! ### ARRIVE and SIGNAL (R299, R336) -/

/-- R299: the receive blocks of a group in the step that holds schedule beat `sb`, by key. -/
def groupKeys (s : State) (r : Run) (tile group sb : Nat) : List Nat :=
  let bc := max 1 (beatCount s r.slot r.bucket)
  let base := sb / bc * bc
  ((laneRuns s r.slot r.bucket).filter (fun x => x.dir == 1 && fld x.w1 63 58 == tile && fld x.w1 26 15 == group)).flatMap (fun x =>
    (List.range x.count).map (fun i => rxKey (physEyelet s x.eyelet) x.lane ((x.first + i) % 4) (base + (x.first + i) / 4)))

/-- ARRIVE (R299): a missing block raises MEND_EXHAUSTED and STEP_FAULT; the group is closed. -/
def execArrive (tile group : Nat) (s : State) : Host.Outcome State Fault Refusal :=
  .next (issue s tile 6 (at' group 12 36) (fun s r _ =>
    let bc := max 1 (beatCount s r.slot r.bucket)
    let s1 := setRun s (fun y => { y with closed := y.closed ++ [(tile, group + 4096 * (nowSched s / bc))] })
    if (groupKeys s r tile group (nowSched s)).all (fun key => (tget? r.rxSeen key).isSome) then s1
    else tileFault (notice s1 Code.mendExhausted 1 tile group) tile Code.mendExhausted group))

/-- SIGNAL_RECORD (R336): a 64-bit atomic ADD of 1. -/
def execSignalRecord (tile sem : Nat) (s : State) : Host.Outcome State Fault Refusal :=
  .next (issue s tile 7 (at' sem 12 36) (fun s _ _ => semAdd s sem 1))

end Sys2Proof.Machine
end

