-- ==== Sys2Proof/Machine/Units.lean ====
section
/-! DEFINITION. What a tile's units do cycle by cycle (R75 to R80, R84 to R97, R100 to R102, R136, R137, R298): passes, drains, row and vector
operations, copies of fixed timing and received blocks, in the cycles that their issue fixes, over the banks of the scratchpad. -/

namespace Sys2Proof.Machine

/-! ### Who asks for a bank (R101) -/

/-- Requesters of a bank. -/
inductive Requester where
  | drain (array : Nat)
  | rowUnit
  | vecUnit
  | stitcher (n : Nat)
  | inbound
  | unscheduled
  | maintenance
  deriving DecidableEq, Repr

/-- R101: the priority of a requester, in tenths: its rank, and the order within a rank. Unscheduled and maintenance requests take only
bank cycles that no scheduled request claims (R102), so none of them is among the requests that `runActs` orders (log 83). -/
def Requester.rank (q : Requester) : Nat :=
  match q with
  | .drain a => 10 + a
  | .rowUnit => 20
  | .vecUnit => 30
  | .stitcher n => 40 + n
  | .inbound => 50
  | .unscheduled => 60
  | .maintenance => 70

/-- The requester of an act, if it asks for banks. -/
def UnitAct.requester (u : UnitAct) : Option Requester :=
  match u with
  | .drainRow a _ _ => some (.drain a)
  | .opRead vec _ _ _ => some (if vec then .vecUnit else .rowUnit)
  | .opWrite vec _ _ => some (if vec then .vecUnit else .rowUnit)
  | .copyRead st _ _ => some (.stitcher st)
  | .copyWrite st _ _ => some (.stitcher st)
  | .copyStep st _ => some (.stitcher st)
  | .inbound _ _ _ => some .inbound
  | _ => none

/-- The order of acts in one cycle: what holds from the cycle on, stream starts, the requests by rank, a requester's reads before its writes,
and the writes to accumulator banks, which a read of the same cycle does not see. -/
def UnitAct.order (u : UnitAct) : Nat :=
  match u with
  | .passSettled _ _ => 0
  | .opComplete _ _ => 0
  | .walkMark _ _ _ => 0
  | .copyDone _ _ => 1
  | .stream _ _ => 2
  | .bankRow _ _ _ => 200
  | u =>
    2 * ((u.requester.map Requester.rank).getD 0) + (match u with | .opWrite _ _ _ => 1 | .copyWrite _ _ _ => 1 | _ => 0)

/-! ### The acts of a tile -/

/-- R75, R76, R79: the acts of a pass on array `a`. -/
def PassRec.acts (a : Nat) (d : PassRec) : List (Nat × UnitAct) :=
  (d.start, .stream a d.issue) :: (d.settles, .passSettled a d.issue)
    :: (List.range d.mCount).map (fun m => (d.start + m * d.cpr + 256, .bankRow a d.issue m))
    ++ (if d.drain then (List.range d.mCount).map (fun m => (d.completes + m, .drainRow a d.issue m)) else [])

/-- R86, R94: the acts of an operation. -/
def FuncRec.acts (d : FuncRec) : List (Nat × UnitAct) :=
  (d.completes, .opComplete d.isVec d.issue)
    :: (List.range d.rows).flatMap (fun r =>
        (d.writes r, .opWrite d.isVec d.issue r) :: (List.range d.parts).map (fun i => (d.readsAt r i, .opRead d.isVec d.issue r i)))

/-- R136, R137: the acts of a copy of fixed timing. -/
def CopyRec.acts (c : CopyRec) : List (Nat × UnitAct) :=
  let as := c.accesses.zipIdx
  let lastWrite (sc : Bool) : Nat := (as.filter (fun x => x.1.scale == sc)).foldl (fun m x => max m (c.issue + x.1.cycle)) 0
  (c.doneCycle, .copyDone c.stitcher c.issue)
    :: (if c.mark then ((false :: (if c.scales then [true] else [])).filter (fun sc => 0 < lastWrite sc)).map (fun sc => (lastWrite sc + 1, .walkMark c.stitcher c.issue sc)) else [])
    ++ as.flatMap (fun x => (if c.isFill then [] else [(c.issue + x.1.reads, UnitAct.copyRead c.stitcher c.issue x.2)])
        ++ [(c.issue + x.1.cycle, UnitAct.copyWrite c.stitcher c.issue x.2)])

/-- The copies of fixed timing of a tile. -/
def fixedCopies (s : State) (t : Nat) : List CopyRec := (s.stitch.ctxs.map (·.2)).filter (fun c => c.sched && c.tile == t && !c.outside)

/-- The scheduled copies of a tile with an end outside it that nothing holds. -/
def outsideCopies (s : State) (t : Nat) : List CopyRec :=
  (s.stitch.ctxs.map (·.2)).filter (fun c => c.sched && c.tile == t && c.outside && !c.held s && decide (c.at_ < c.accesses.length))

/-- What the units of a tile have before them, requests that wait apart. -/
def tileActs (s : State) (t : Nat) : List (Nat × UnitAct) :=
  let x := ptile s (physTile s t)
  (outsideCopies s t).map (fun c => (max (c.halfAt / 2) x.unitAt, .copyStep c.stitcher c.issue)) ++
  x.arrays.flatMap (fun a => (a.2.pending.toList ++ a.2.streams).flatMap (PassRec.acts a.1))
    ++ (x.rowOps ++ x.vecOps).flatMap FuncRec.acts ++ (fixedCopies s t).flatMap CopyRec.acts

/-! ### One act -/

/-- The pass, operation and scheduled copy that an act names. -/
def passOf (s : State) (t a issue : Nat) : Option PassRec := (arrayOf s (physTile s t) a).streams.find? (fun d => d.issue == issue)
def opOf (s : State) (t : Nat) (vec : Bool) (issue : Nat) : Option FuncRec :=
  let x := ptile s (physTile s t)
  (if vec then x.vecOps else x.rowOps).find? (fun d => d.issue == issue)
def fixedCopy (s : State) (t st issue : Nat) : Option CopyRec := (ctxOf s (ctxKey false true t st)).filter (fun c => c.issue == issue)

/-- Change a pass of an array, and an operation of a unit. -/
def modPass (s : State) (t a issue : Nat) (f : PassRec → PassRec) : State :=
  setArray s (physTile s t) a (fun x => { x with streams := x.streams.map (fun d => if d.issue = issue then f d else d) })
def modOp (s : State) (t : Nat) (vec : Bool) (issue : Nat) (f : FuncRec → FuncRec) : State :=
  let g (l : List FuncRec) : List FuncRec := l.map (fun d => if d.issue = issue then f d else d)
  setPtile s (physTile s t) (fun x => if vec then { x with vecOps := g x.vecOps } else { x with rowOps := g x.rowOps })

/-- R86, R94: part `i` of row `r` is read; with the last part the row is worked out (R84, R87, R94). -/
def readRow (s : State) (t : Nat) (d : FuncRec) (r i : Nat) : State :=
  let cut (xs : List Nat) : List Nat := (xs.drop (i * d.partSize)).take d.partSize
  let src := d.src ++ cut (srcRow s t d r)
  let src2 := d.src2 ++ cut (srcRow2 s t d r)
  let p := physTile s t
  let s1 := activityAdd (activityAdd s p (if d.isVec then 2 else 1) (if d.isVec then d.fmtIn else d.fmtOut) 1) p 3 0 (d.readBanks (handleOf s t) r i).length
  if i + 1 < d.parts then modOp s1 t d.isVec d.issue (fun d => { d with src := src, src2 := src2 })
  else if d.isVec then
    modOp s1 t true d.issue (fun d => { d with src := [], src2 := [], outs := d.outs ++ [{ vecRow d t r src src2 with row := r }] })
  else
    let s2 := if r = 0 then setPtile s1 p (fun x => x.initSet d) else s1
    let o := runRow d t r ((ptile s2 p).rowState (128 * d.stateSet + r)) src src2
    modOp (setPtile s2 p (fun x => x.putRowState (128 * d.stateSet + r) o.2)) t false d.issue (fun d => { d with src := [], src2 := [], outs := d.outs ++ [o.1] })

/-- R86, R91, R94: a row of results goes to scratchpad: elements at the row's place, block scales in the operation's scale area. -/
def putRow (s : State) (t : Nat) (d : FuncRec) (e : RowOut) (cyc : Nat) : State :=
  let h := handleOf s t d.dstHandle
  let base := 64 * d.dstOffset
  let s1 := schedWriteHandle s t h (base + 64 * e.row * d.dstStride) cyc (packElems d.fmtOut e.elems)
  schedWriteHandle s1 t h (base + 64 * d.rows * d.dstStride + e.row * e.scales.length) cyc (e.scales.map (BitVec.ofNat 8))

/-- R78, R86, R97: a row of results goes to an odd array's A buffer. A write to a staged buffer, to one still read, or to one that a Stitcher is
writing raises STEP_FAULT and is not performed. A row longer than the pitch of 512 bytes goes on past it (DESIGN CHOICE, log 96). -/
def putBuffer (s : State) (t : Nat) (d : FuncRec) (e : RowOut) (cyc : Nat) : State :=
  let x := arrayOf s (physTile s t) d.dstArray
  match d.outAreas.find? (fun k => !writableArea x k.2 cyc || copyWriting s t k.1 k.2 cyc) with
  | some k => modOp (arrayFault s t d.dstArray k.2) t false d.issue (fun d => { d with refused := d.refused || e.row + 1 == d.rows })
  | none =>
    setArray s (physTile s t) d.dstArray (fun x =>
      (x.writeArea (areaA d.dstBuf) (512 * e.row) (packElems d.fmtOut e.elems)).writeArea (areaA d.dstBuf + 1) (8 * e.row) (e.scales.map (BitVec.ofNat 8)))

/-- R78, R90, R97: a row's factor goes to the rescale vector that RESCALE names. -/
def putFactor (s : State) (t : Nat) (d : FuncRec) (e : RowOut) (cyc : Nat) : State :=
  match d.factorAreas, e.factor with
  | [(a, _)], some f =>
    let p := physTile s t
    let other (q : FuncRec) : Bool := q.issue != d.issue && q.factorAreas.contains (a, areaRescale) && decide (q.writes 0 ≤ cyc) && decide (cyc ≤ q.writes (q.rows - 1))
    if !writableArea (arrayOf s p a) areaRescale cyc || (ptile s p).rowOps.any other then
      modOp (arrayFault s t a areaRescale) t false d.issue (fun d => { d with refusedFactor := d.refusedFactor || e.row + 1 == d.rows })
    else setArray s p a (fun x => { x with rescale := x.rescale.write e.row f })
  | _, _ => s

/-- R86, R94: a row of results is written. -/
def writeRow (s : State) (t : Nat) (d : FuncRec) (e : RowOut) (cyc : Nat) : State :=
  let s1 := modOp s t d.isVec d.issue (fun d => { d with outs := d.outs.filter (fun o => o.row != e.row), done := d.done + 1 })
  let s2 := countConv s1 t e
  let s3 := if !d.writesOut then s2 else if d.dst = 0 then putRow s2 t d e cyc else putBuffer s2 t d e cyc
  putFactor s3 t d e cyc

/-- R77, R86: an operation completes: its unit lets it go, and what its last row marked is staged. -/
def completeOp (s : State) (t : Nat) (d : FuncRec) : State :=
  let p := physTile s t
  let s1 := setPtile s p (fun x =>
    if d.isVec then { x with vecOps := x.vecOps.filter (fun q => q.issue != d.issue) } else { x with rowOps := x.rowOps.filter (fun q => q.issue != d.issue) })
  let keys := (if d.refused then [] else d.outAreas) ++ (if d.refusedFactor then [] else d.factorAreas)
  keys.foldl (fun s k => setArray s p k.1 (fun y => y.stage k.2)) s1

/-- R136: the read, and the write, of access `i` of a copy of fixed timing. -/
def fixedRead (s : State) (k i : Nat) (c : CopyRec) : State :=
  match c.accesses[i]? with
  | some a =>
    match srcPlaces s c a with
    | (.ok xs, s1) => takeRead s1 k i a xs
    | (.error e, s1) => failCopy s1 k c i e.1 e.2.1 e.2.2
  | none => s
def fixedWrite (s : State) (k i cyc : Nat) (c : CopyRec) : State :=
  match c.accesses[i]? with
  | some a =>
    match dstPlaces s c a with
    | (.ok ys, s1) => putWrite s1 k i cyc a ys
    | (.error e, s1) => failCopy s1 k c i e.1 e.2.1 e.2.2
  | none => s

/-- An act of a tile in cycle `cyc`; one whose pass, operation or copy is gone does nothing. -/
def perform (s : State) (t cyc : Nat) (u : UnitAct) : State :=
  let p := physTile s t
  match u with
  | .passSettled a i => setArray s p a (fun x => { x with streams := x.streams.filter (fun d => d.issue != i) })
  | .stream a i => setArray s p a (fun x => x.startStream i)
  | .bankRow a i m => match passOf s t a i with | some d => setArray s p a (fun x => x.addRow d m) | none => s
  | .drainRow a i m =>
    match passOf s t a i with
    | some d => modPass (schedWriteHandle s t (handleOf s t d.drainHandle) (d.drainOff m) cyc ((arrayOf s p a).drainBytes d m)) t a i (fun d => { d with drained := d.drained + 1 })
    | none => s
  | .opRead vec i r part => match opOf s t vec i with | some d => readRow s t d r part | none => s
  | .opWrite vec i r =>
    match opOf s t vec i with
    | some d => match d.outs.find? (fun o => o.row == r) with | some e => writeRow s t d e cyc | none => s
    | none => s
  | .opComplete vec i => match opOf s t vec i with | some d => completeOp s t d | none => s
  | .copyRead st i j => match fixedCopy s t st i with | some c => if c.status = 0 then fixedRead s c.key j c else s | none => s
  | .copyWrite st i j => match fixedCopy s t st i with | some c => if c.status = 0 then fixedWrite s c.key j cyc c else s | none => s
  | .walkMark st i sc =>
    match fixedCopy s t st i with
    | some c => if c.status = 0 && !c.marked.contains sc then modCtx (markWalk s c sc) c.key (fun c => { c with marked := sc :: c.marked }) else s
    | none => s
  | .copyDone st i => match fixedCopy s t st i with | some c => tryComplete s c.key | none => s
  | .copyStep st i => match fixedCopy s t st i with | some c => stepCopy s c.key cyc | none => s
  | .inbound a b bs => schedWrite s t b a bs

/-! ### Banks (R101, R102) -/

/-- The banks that an act asks for. -/
def actBanks (s : State) (t : Nat) (u : UnitAct) : List Nat :=
  let copyBanks (st i j : Nat) (f : CopyRec → Access → List Nat) : List Nat :=
    match fixedCopy s t st i with
    | some c => match c.accesses[j]? with | some a => f c a | none => []
    | none => []
  match u with
  | .drainRow a i m => match passOf s t a i with | some d => d.drainBanks (handleOf s t) m | none => []
  | .opRead vec i r part => match opOf s t vec i with | some d => d.readBanks (handleOf s t) r part | none => []
  | .opWrite vec i r => match opOf s t vec i with | some d => d.writeBanks (handleOf s t) r | none => []
  | .copyRead st i j => copyBanks st i j (fun c a => let x := c.srcOf a.scale; granuleBanks x (c.srcHandle a.scale) (a.srcGranules x (c.dstOf a.scale) (extentOf x c.s0 c.s1)))
  | .copyWrite st i j => copyBanks st i j (fun c a => let x := c.dstOf a.scale; granuleBanks x (c.dstHandle a.scale) (a.dstGranules x (extentOf x c.s0 c.s1)))
  | .copyStep st i =>
    match fixedCopy s t st i with
    | some c =>
      match c.accesses[c.at_]? with
      | some a =>
        let x := c.srcOf a.scale
        let y := c.dstOf a.scale
        (if c.isFill then [] else granuleBanks x (c.srcHandle a.scale) (a.srcGranules x y (extentOf x c.s0 c.s1)))
          ++ granuleBanks y (c.dstHandle a.scale) (a.dstGranules y (extentOf y c.s0 c.s1))
      | none => []
    | none => []
  | .inbound a _ _ => [a / 64 % 64]
  | _ => []

/-- Whether what an act needs has happened; after a wait for a bank it may come a cycle later. -/
def actReady (s : State) (t : Nat) (u : UnitAct) : Bool :=
  match u with
  | .passSettled a i => match passOf s t a i with | some d => !d.drain || d.mCount ≤ d.drained | none => true
  | .opWrite vec i r => match opOf s t vec i with | some d => d.outs.any (fun o => o.row == r) | none => true
  | .opComplete vec i => match opOf s t vec i with | some d => d.rows ≤ d.done | none => true
  | .copyWrite st i j =>
    match fixedCopy s t st i with
    | some c =>
      c.isFill || c.status != 0 || (match c.accesses[j]? with
        | some a => if a.edge = 1 then (tget? c.got j).isSome else (List.range a.edge).all (fun r => (tget? c.got (j - a.place + r)).isSome)
        | none => true)
    | none => true
  | .walkMark st i sc =>
    match fixedCopy s t st i with
    | some c => c.status != 0 || decide (c.accesses.length ≤ c.at_) || (!sc && decide ((c.accesses.filter (fun a => !a.scale)).length ≤ c.at_))
    | none => true
  | .copyDone st i => match fixedCopy s t st i with | some c => c.status != 0 || decide (c.accesses.length ≤ c.at_) | none => true
  | _ => true

/-- The key that puts acts in order: cycle, then order in the cycle. -/
def actKey (x : Nat × UnitAct) : Nat := 256 * x.1 + x.2.order

/-- R102: STEP_FAULT naming the tile, the beat, and the bank in DETAIL, at 0x1000 and above (log 12). -/
def bankFault (s : State) (t bank : Nat) : State := tileFault s t 0 (0x1000 + bank)

/-- Requests that go on waiting; the next access of a copy stands in its context. -/
def keepLate (s : State) (t : Nat) (xs : List (Nat × UnitAct)) : State :=
  let ys := xs.filter (fun x => match x.2 with | .copyStep _ _ => false | _ => true)
  if ys.isEmpty then s else setPtile s (physTile s t) (fun x => { x with late := x.late ++ ys })

/-- The act that follows an act performed in cycle `cyc`: the next access of a copy, before cycle `hi`. -/
def followUp (s : State) (t hi cyc : Nat) (u : UnitAct) (rest : List (Nat × UnitAct)) : List (Nat × UnitAct) :=
  match u with
  | .copyStep st i =>
    match (outsideCopies s t).find? (fun c => c.stitcher == st && c.issue == i) with
    | some c => let n := max cyc (c.halfAt / 2); if n < hi then insertKey (actKey (n, u), u) rest else rest
    | none => rest
  | _ => rest

/-- R100: an act asks for one bank more than once. -/
def bankTwice : List Nat → Option Nat
  | [] => none
  | b :: bs => if bs.contains b then some b else bankTwice bs

/-- R100 to R102: acts in the order of their keys, before cycle `hi`. `taken` holds the banks that requests of cycle `now` have won. A request that
loses a bank raises STEP_FAULT and waits for the next cycle; so does one that asks for a bank twice, whose second access comes late (log 83). -/
def runActs (t hi : Nat) : Nat → List (Nat × UnitAct) → Nat → List Nat → State → State
  | 0, xs, _, _, s => keepLate s t (xs.map (fun x => (x.1 / 256, x.2)))
  | _ + 1, [], _, _, s => s
  | fuel + 1, (key, u) :: rest, now, taken, s =>
    let cyc := key / 256
    let later := insertKey (actKey (cyc + 1, u), u) rest
    let held := if cyc = now then taken else []
    if hi ≤ cyc then keepLate s t (((key, u) :: rest).map (fun x => (x.1 / 256, x.2)))
    else if !actReady s t u then runActs t hi fuel later cyc held s
    else
      let banks := if u.requester.isSome then actBanks s t u else []
      match banks.find? (fun b => held.contains b) with
      | some b => runActs t hi fuel later cyc held (bankFault s t b)
      | none =>
        let s1 := match bankTwice banks with | some b => bankFault s t b | none => s
        let s2 := perform s1 t cyc u
        runActs t hi fuel (followUp s2 t hi cyc u rest) cyc (held ++ banks) s2

/-! ### Array activity (R98, R359, R505) -/

/-- The format under which an array is active in a cycle: that of a pass that streams, else of one that drains. -/
def activeFmt (x : ArrayState) (c : Nat) : Option Nat :=
  let ds := x.pending.toList ++ x.streams
  match ds.find? (fun d => decide (d.start ≤ c) && decide (c < d.streamEnd)) with
  | some d => some d.fmtA
  | none => (ds.find? (fun d => d.drain && decide (d.completes ≤ c) && decide (c < d.settles))).map PassRec.fmtA

/-- Cycles `lo` to `hi` of every array join array_active_cycles and the activity of the tile. -/
def countArrays (s : State) (p lo hi : Nat) : State :=
  (ptile s p).arrays.foldl (fun s a =>
    if a.2.pending.isNone && a.2.streams.isEmpty then s
    else
      let fs := (List.range (hi - lo)).filterMap (fun i => activeFmt a.2 (lo + i))
      (fs.eraseDups).foldl (fun s f => activityAdd s p 0 f (fs.filter (· == f)).length) (radd s ((Reg.arrayActiveCycles p).at a.1) fs.length)) s

/-! ### Time -/

/-- The first cycle in which the units of a tile may still have work. -/
def workFrom (s : State) (t : Nat) : Nat :=
  let x := ptile s (physTile s t)
  match tileActs s t ++ x.late with
  | [] => x.unitAt
  | a :: as => max x.unitAt (as.foldl (fun m e => min m e.1) a.1)

/-- The acts of a tile due before cycle `hi`, with those that wait from earlier cycles. -/
def dueActs (s : State) (t hi : Nat) : List (Nat × UnitAct) :=
  (tileActs s t).filter (fun e => decide (workFrom s t ≤ e.1) && decide (e.1 < hi)) ++ (ptile s (physTile s t)).late.filter (fun e => decide (e.1 < hi))

/-- The cycles of a tile before `hi` are counted, and its due acts are taken out. -/
def workTo (s : State) (t hi : Nat) : State :=
  let p := physTile s t
  setPtile (countArrays s p (workFrom s t) hi) p (fun x => { x with unitAt := max x.unitAt hi, late := x.late.filter (fun e => decide (hi ≤ e.1)) })

/-- The units of a tile work up to cycle `hi`, exclusive. -/
def unitsTo (s : State) (t hi : Nat) : State :=
  if (tileActs s t).isEmpty && (ptile s (physTile s t)).late.isEmpty then s
  else
    let due := dueActs s t hi
    let n := due.length + ((outsideCopies s t).map (fun c => c.accesses.length - c.at_)).sum + 2
    runActs t hi (n * n) (sortKeys (due.map (fun e => (actKey e, e.2)))) 0 [] (workTo s t hi)

/-- Every tile's units work up to cycle `hi`. -/
def allUnitsTo (s : State) (hi : Nat) : State := (List.range 64).foldl (fun s t => unitsTo s t hi) s

/-- R77, R96: what holds from cycle `c` on of the work of a tile (passes completed, operations and copies done, walks marked), before a record issues in
that cycle. -/
def beginCycle (s : State) (t c : Nat) : State :=
  ((sortKeys (((tileActs s t).filter (fun e => e.1 == c && decide (e.2.order ≤ 1))).map (fun e => (actKey e, e.2)))).foldl
    (fun s e => if actReady s t e.2 then perform s t c e.2 else s) s)

/-- R96: every tile, at cycle 0 of the beat now. -/
def beginBeat (s : State) : State := (List.range 64).foldl (fun s t => beginCycle s t (cycleNow s)) s

/-- A unit's event in cycle `c` of the beat now: the tile works through that cycle. Before the tile's records of the beat have issued, and in an
earlier beat than the event's, nothing happens; a later beat boundary finds the event done (log 14). -/
def unitEvent (s : State) (t c : Nat) : State := if unitRecordsLeft s t || decide (cycleNow s + 56 ≤ c) then s else unitsTo s t (c + 1)

/-- PASS_STREAM_START (R76, R80, R93): the pending pass moves to the active slot and starts streaming. -/
def execPassStreamStart (tile array : Nat) (s : State) : Host.Outcome State Fault Refusal :=
  .next (match (arrayOf s (physTile s tile) array).pending with
    | some d => unitEvent s tile d.start
    | none => s)

/-- PASS_COMPLETE (R74, R75, R79): the oldest pass that has not completed completes. -/
def execPassComplete (tile array : Nat) (s : State) : Host.Outcome State Fault Refusal :=
  let p := physTile s tile
  .next (match (arrayOf s p array).streams.find? (fun d => decide ((ptile s p).unitAt ≤ d.completes)) with
    | some d => unitEvent s tile d.completes
    | none => s)

/-- ROW_FUNC_COMPLETE (R86): the oldest row function operation of a tile completes. -/
def execRowFuncComplete (tile : Nat) (s : State) : Host.Outcome State Fault Refusal :=
  .next (match (ptile s (physTile s tile)).rowOps with
    | d :: _ => unitEvent s tile d.completes
    | [] => s)

/-- VECTOR_OP_COMPLETE (R94): the oldest vector operation of a tile completes. -/
def execVectorOpComplete (tile : Nat) (s : State) : Host.Outcome State Fault Refusal :=
  .next (match (ptile s (physTile s tile)).vecOps with
    | d :: _ => unitEvent s tile d.completes
    | [] => s)

/-- R135: the accesses of a scheduled copy with an end outside its tile that come in the beat now, at most `n`. -/
def driveCopy : Nat → State → Nat → State
  | 0, s, _ => s
  | n + 1, s, k =>
    match ctxOf s k with
    | some c => if c.sched && c.outside && !c.held s && decide (c.at_ < c.accesses.length) then
        driveCopy n (unitEvent s c.tile (max (c.halfAt / 2) (ptile s (physTile s c.tile)).unitAt)) k
      else s
    | none => s

/-- TX_BUFFER_PLACE (R297): the oldest granule that waits goes into the transmit buffer of the lane whose run carries it, if there is
room. A copy whose next access comes in the beat now makes it first. -/
def execTxBufferPlace (ctx : Nat) (s : State) : Host.Outcome State Fault Refusal :=
  let s := match ctxOf s ctx with | some c => if c.txWait.isEmpty then driveCopy 1 s ctx else s | none => s
  .next (match ctxOf s ctx, s.last.run with
    | some c, some r =>
      match c.txWait with
      | [] => s
      | m :: rest =>
        match txRun s r c m.idx with
        | none => s
        | some x =>
          let e := physEyelet s x.eyelet
          if 64 ≤ (lane s e x.lane).txBuf.length then s
          else
            let s1 := setLane (crossOut s (physTile s c.tile) (e / 4) m.data) e x.lane (fun l => { l with txBuf := l.txBuf ++ [(ctx, m.idx, m.data)] })
            opCount (putCtx s1 ctx { c with txWait := rest, outstanding := c.outstanding + 1 }) c.tile 4 (tdFmt c.dst) 1
    | _, _ => s)

/-- COPY_COMPLETE (R136, R138, R140): a copy of fixed timing completes in its cycle; for any other nothing happens while a write is
outstanding or, for a scheduled one, before its peak rate allows it. -/
def execCopyComplete (ctx : Nat) (s : State) : Host.Outcome State Fault Refusal :=
  .next (match ctxOf s ctx with
    | none => s
    | some c =>
      if c.sched && !c.outside then unitEvent s c.tile c.doneCycle
      else if c.sched && decide (cycleNow s + 56 ≤ c.soonest) then s
      else tryComplete (driveCopy (c.accesses.length - c.at_) s ctx) ctx)

end Sys2Proof.Machine
end

