-- ==== Sys2Proof/Machine/Last.lean ====
section
/-! DEFINITION. The Last (R287, R300 to R319): loading an image into its slot, LAUNCH and its checks, the timing handshake (R34 to R37), the
beat (R33, R312, R317), steps, pace points (R314 to R317, R371 to R374), write digests (R517), the end, and the SNAPSHOT command (R490). -/

namespace Sys2Proof.Machine

/-! ### Loading (R304, R306) -/

/-- R304: load_detail: check, logical tile or 0x3F, index. -/
def loadDetail (check tile index : Nat) : Nat := check % 256 * 2 ^ 24 + tile % 64 * 2 ^ 18 + index % 2 ^ 18

/-- A LOAD_LAST ends: load_result, load_detail, and its completion. -/
def loadEnd (s : State) (origin : Option (Nat × Nat)) (status reason detail note : Nat) : State :=
  setResult (rset (rset s Reg.loadResult status) Reg.loadDetail detail) origin { status := status, reason := reason, detail := detail, note := note }

/-- LOAD_LAST (R304 check 1, R305, R306, R287): LOADING is entered before any byte is copied; the coefficients and fit_max_age_ms are those that
read now. -/
def execLoadLast (queue id : Nat) (s : State) : Host.Outcome State Fault Refusal :=
  .next (runCommand s queue id 1 (fun s f =>
    let va := (nth f.words 1).toNat
    let size := fld (nth f.words 2) 63 32
    let slot := fld (nth f.words 2) 31 28
    let st := slotState s slot
    if va % 64 ≠ 0 then finish' s queue id { status := Code.alignFault }
    else if clearing s then finish' s queue id { status := Code.tenantClearing }
    else if (st ≠ .empty ∧ st ≠ .loaded) ∨ s.last.load.isSome = true then
      loadEnd s (some (queue, id)) Code.lastBusy 0 (loadDetail 1 0x3F 0) 0
    else
      let s1 := setSlot { s with last := { s.last with slots := tset {} s.last.slots slot { fitAge := rget s Reg.fitMaxAgeMs } } } slot .loading
      let l : Load := { slot := slot, bytes := size, origin := some (queue, id), src := va, coeffs := s1.power.coeffs }
      loadGo queue id l.requests { s1 with last := { s1.last with load := some l } }))

/-- last_unload (R318, R319). -/
def wLastUnload (v : Nat) (s : State) : Nat × State :=
  if 15 < v ∨ slotState s v ≠ .loaded then refuse s Code.valueRefused
  else accept (setSlot { s with last := { s.last with slots := tdel s.last.slots v } } v .empty)

/-- LAST_UNLOAD (R318). -/
def execLastUnload (via : Via) (slot : Nat) (s : State) : Host.Outcome State Fault Refusal := .next (doWrite s via 0x4100 0x10 (wLastUnload slot))

/-! ### What a Last uses (R290, R300, R384 to R386, R390, R394) -/


/-- The lanes with a non-zero LANE_LATENCY value, as (32ℓ + k, value). -/
def usedLanes (s : State) (slot b : Nat) : List (Nat × Nat) :=
  match findSec s slot b secLatency 0 with
  | none => []
  | some x => ((List.range (min 1024 x.size)).zip ((hbmRead s (slotBase s slot + x.off) (min 1024 x.size)).map BitVec.toNat)).filter (fun p => p.2 != 0)

/-- R300: a lane is ready for a Last that assumes a value for it. -/
def laneReady (s : State) (i v : Nat) : Bool :=
  let e := physEyelet s (i / 32)
  let k := i % 32
  laneServes s e k && tget .neverFit s.optics.rings (laneKey e k) != .unfit && (tget {} s.optics.dies (e / 4)).sel != .dark
    && (v == 0xFF || rget s ((Reg.trainedLatency e).at k) == v)

/-- R300: the first lane that is not ready. -/
def badLane (s : State) (slot b : Nat) : Option Nat := ((usedLanes s slot b).find? (fun p => !laneReady s p.1 p.2)).map (·.1)

/-- A die with a welt that is DEGRADED or DOWN. -/
def weltPoor (s : State) (die : Nat) : Bool := (weltPorts die).any (fun p =>
  let st := (tget {} s.pkg.welts (16 * die + p)).state
  st == .degraded || st == .down)

/-- R390: a logical tile of the Last, or 0x3F for an I/O die or eyelet die that it uses (log 31), with such a welt. -/
def weltRefusal (s : State) (slot b : Nat) : Option Nat :=
  let tiles := lastTiles s slot b
  let dies := (usedLanes s slot b).map (fun p => physEyelet s (p.1 / 32) / 4)
  let ios := tiles.map (fun t => tileDie (physTile s t)) ++ dies.map (· / 2)
  match tiles.find? (fun t => weltPoor s (physTile s t)) with
  | some t => some t
  | none => if dies.any (fun d => weltPoor s (92 + d)) || ios.any (fun d => weltPoor s (88 + d)) then some 0x3F else none

/-- R394, R478: a logical tile of the Last that is not HEALTHY. -/
def fencedTile (s : State) (slot b : Nat) : Option Nat := (lastTiles s slot b).find? (fun t => (ptile s (physTile s t)).health != .healthy)

/-- R314: the pace set is enabled and its members are exactly the participants. -/
def paceSetOk (s : State) (slot : Nat) : Bool :=
  let x := laceSet s (paceLaceSet s slot)
  x.enabled && laceMembers x == participants s slot

/-- R231: gap limit in beats for fit_max_age_ms. -/
def gapLimit (ms : Nat) : Nat := ms * 100000000 / 3584

/-- R302: a lane with a non-zero latency value and no window. -/
def windowless (s : State) (slot b : Nat) : Bool :=
  let ws := fitWindows s slot b
  (usedLanes s slot b).any (fun p => !ws.any (fun w => 32 * w.1 + w.2.1 == p.1))

/-- R303: bucket selection. -/
def pickBucket (s : State) (slot s0 s1 : Nat) : Option Nat :=
  if (nShapes s slot < 2 ∧ s1 ≠ 0) ∨ (nShapes s slot < 1 ∧ s0 ≠ 0) then none
  else (List.range (nBuckets s slot)).find? (fun b => s0 ≤ shape0 s slot b && s1 ≤ shape1 s slot b)

/-! ### Handle images and pins (R106, R145) -/

/-- R290: a section of a tile; a tile with no BEAT_STREAM has none, and its tables stay empty. -/
def tileSec (s : State) (slot b type t : Nat) : Option Sec := if (findSec s slot b secBeats t).isSome then findSec s slot b type t else none

/-- The handle image of a tile: 256 entries, none where it has no section. -/
def handleImage (s : State) (slot b t : Nat) : List Word :=
  match tileSec s slot b secHandles t with
  | none => []
  | some x => (List.range 256).map (fun i => secWord s slot (some x) i)

/-- An image entry without its EXPECT. -/
def unexpect (w : Word) : Word := w &&& ~~~((1 : Word) <<< 55)

/-- R106: the first handle of a tile whose EXPECT entry does not match. -/
def imageMismatch (s : State) (slot b t : Nat) : Option Nat :=
  (((handleImage s slot b t).zipIdx).find? (fun p => hValid p.1 && hExpect p.1 && (let w := handleOf s t p.2; !hResident w || w != unexpect p.1))).map (·.2)

/-- R106: install a tile's image; other entries stay when RESIDENT. Both snapshot slots send every handle again (log 27). -/
def installImage (s : State) (slot b t : Nat) : State :=
  setLtile s t (fun l =>
    let kept := l.handles.filter (fun h => hResident h.2)
    let hs := ((handleImage s slot b t).zipIdx).foldl (fun t p => if hValid p.1 && !hExpect p.1 then tput t p.2 p.1 else t) kept
    { l with handles := hs, dirty := hs.map (fun h => (h.1, 3)) })

/-- R290: the pages that a tile's PIN_LIST gives its Stitchers 0 to 3, from word `i` on. -/
def pinLists (s : State) (slot : Nat) (sec : Option Sec) : Nat → Nat → List (List Nat)
  | 0, _ => []
  | n + 1, i =>
    let c := (secWord s slot sec i).toNat
    let c := min c (secWords sec - (i + 1))
    (List.range c).map (fun j => (secWord s slot sec (i + 1 + j)).toNat) :: pinLists s slot sec n (i + 1 + c)

/-- R145: walk a page and pin its translation in a buffer. -/
def pinPage (s : State) (key va : Nat) : Except (Nat × Nat) State :=
  if 2 ^ 52 ≤ va then .error (Code.xlateFault, reasonMalformed)
  else
    match pageWalk s va with
    | .error e => .error e
    | .ok x => .ok { s with stitch := { s.stitch with tlbs := tput s.stitch.tlbs key (enterXlate (tget [] s.stitch.tlbs key) 1024 { x with pinned := true }) } }

/-- Pin pages, as (tile, Stitcher, position, address); the first that faults. -/
def pinAll : List (Nat × Nat × Nat × Nat) → State → Except ((Nat × Nat) × Nat × Nat) State × State
  | [], s => (.ok s, s)
  | (t, st, i, va) :: rest, s =>
    match pinPage s (4 * t + st) va with
    | .error e => (.error (e, t, st * 2 ^ 16 + i % 2 ^ 16), s)
    | .ok s1 => pinAll rest s1

/-- Every page that a bucket pins. -/
def pinPages (s : State) (slot b : Nat) : List (Nat × Nat × Nat × Nat) :=
  (List.range 64).flatMap (fun t =>
    match tileSec s slot b secPins t with
    | none => []
    | some x => ((pinLists s slot (some x) 4 0).zipIdx).flatMap (fun p => (p.1.zipIdx).map (fun v => (t, p.2, v.2, v.1))))

/-! ### Write digests (R517) -/

/-- A logical tile that has a BEAT_STREAM. -/
def hasStream (s : State) (r : Run) (t : Nat) : Bool := (findSec s r.slot r.bucket secBeats t).isSome

/-- R517: a tile's digest of the writes before schedule beat `stop`, or of all that are left when `final`, emitted and reset. -/
def emitDigest (s : State) (r : Run) (t stop : Nat) (final : Bool) : State :=
  let d := (ltile s t).digest
  let v := if (digestKey s).isNone then 0 else ((d.filter (fun x => final || decide (x.1 < stop))).map (·.2)).sum % 2 ^ 64
  let s1 := setLtile s t (fun l => { l with digest := d.filter (fun x => !final && decide (stop ≤ x.1)) })
  traceMake (rset s1 (Reg.paceDigests.at t) v) 7 (word (at' t 6 58 + at' final.toNat 1 57 + at' (stop % max 1 (beatCount s r.slot r.bucket)) 24 0)) (word v)

/-- Every tile with a BEAT_STREAM emits. -/
def emitDigests (s : State) (r : Run) (stop : Nat) (final : Bool) : State :=
  (List.range 64).foldl (fun s t => if hasStream s r t then emitDigest s r t stop final else s) s

/-- DIGEST_EMIT (R517): with digest_interval_beats in force, a tile emits at its multiples. -/
def execDigestEmit (tile : Nat) (s : State) : Host.Outcome State Fault Refusal :=
  .next (match s.last.run with
    | some r => if lastRunning s && s.trace.digestEvery != 0 && decide (0 < r.sched) && nowSched s % s.trace.digestEvery == 0 && hasStream s r tile
        then emitDigest s r tile (nowSched s) false else s
    | none => s)

/-! ### The end of a launch (R318) -/

/-- A launch leaves its slot LOADED and LAUNCH completes; a bench run disarms (R518); laser selections that waited apply (R224). -/
def endRun (s : State) (r : Run) (x : Result) : State :=
  let s1 := setResult (setSlot s r.slot .loaded) r.origin x
  dueSelects { s1 with
    last := { s1.last with run := none }
    tiles := s1.tiles.map (fun t => (t.1, { t.2 with digest := [] }))
    trace := { s1.trace with bench := if r.bench then none else s1.trace.bench }
    faults := { s1.faults with injects := s1.faults.injects.filter (fun i => i.fired || i.atBeat == 0) } }

/-- R155: a poisoned line in what LAUNCH reads of an image: the header, the directory and the sections of its bucket. -/
def imagePoisoned (s : State) (slot b : Nat) : Bool :=
  let w := bucketWord s slot b 2
  let at0 (off n : Nat) : Bool := poisoned s (slotBase s slot + off) n
  at0 0 1024 || at0 (fld w 63 32) (16 * fld w 31 16) || (directory s slot b).any (fun d => d.1 != secBeats && at0 d.2.2.off d.2.2.size)

/-- R518: a bench run disarms when its LAUNCH completes; one that runs stays armed while another LAUNCH is refused. -/
def disarmBench (s : State) : State := if s.last.run.isSome then s else { s with trace := { s.trace with bench := none } }

/-- R307, R518: a launch that fails writes load_detail. -/
def launchFail (s : State) (origin : Option (Nat × Nat)) (status reason check tile low : Nat) : State :=
  let d := loadDetail check tile low
  setResult (rset (disarmBench s) Reg.loadDetail d) origin { status := status, reason := reason, detail := d }

/-- R36, R37, R307: the handshake ends: handle images and pins end as those of a Last that ends. -/
def handshakeFail (s : State) (r : Run) (status : Nat) : State :=
  let d := loadDetail 0x8A 0x3F 0
  endRun (endCleanup (rset s Reg.loadDetail d)) r { status := status, detail := d }

/-! ### The handshake (R34 to R37, R308, R309) -/

/-- R308: the READY payload of the launch in progress. -/
def readyPayload (s : State) (r : Run) : List Word :=
  [word (at' 1 8 56 + at' r.slot 4 52 + at' r.bucket 3 49), word (at' (generationOf s r.slot) 32 32 + at' r.firstStep 32 0), word (setDigestOf s r.slot),
   word (at' r.s0 24 40 + at' r.s1 24 16), word (at' r.stepCount 32 32), 0, 0, 0]

/-- R309: GO on every RELAY lane, in a beat. -/
def sendGo (s : State) (r : Run) (beat : Nat) : State := (goRelays s r.slot r.bucket).foldl (fun s x => sendLink s (physEyelet s x.1) x.2 6 r.slot beat) s

/-- R35: the leader that holds READY from every participant sends GO in the next whole beat T, and its launch beat counts from it (log 74). -/
def leaderGo (s : State) : State :=
  match s.last.run with
  | some r =>
    if r.launchAt.isNone && leaderOf s r.slot == ownChip s && (participants s r.slot).all (fun c => r.ready.contains c) then
      let t := s.clock.beat.toNat + 1
      sendGo (setRun s (fun x => { x with launchAt := some (t + r.lead) })) r t
    else s
  | none => s

/-- R308: a READY of a chip is compared with the leader's own; one that differs counts as missing. -/
def takeReady (s : State) (chip : Nat) (ws : List Word) : State :=
  match s.last.run with
  | some r => if (participants s r.slot).contains chip && ws == readyPayload s r && !r.ready.contains chip then setRun s (fun x => { x with ready := x.ready ++ [chip] }) else s
  | none => s

/-- READY_RECEIVED (R308, R35): the leader takes it; one that comes before the leader has armed is held for its LAUNCH (log 28). -/
def execReadyReceived (p : Packet) (s : State) : Host.Outcome State Fault Refusal :=
  let ws := wordsOf p.payload 8
  .next (if p.kind ≠ kControl then s
    else if !p.wellFormed || p.len != 1 || fld (nth ws 0) 63 56 != 1 then rinc s Reg.routeDrops
    else if runState s = .armed then leaderGo (takeReady s p.src ws)
    else { s with last := { s.last with early := tput s.last.early p.src ws } })

/-- GO (R35, R267, R309): on GO_EYELET and GO_LANE, for the armed slot, the first copy sets the launch beat to C − D + start_lead_beats. -/
def onGo (s : State) (e k slot : Nat) : State :=
  match s.last.run with
  | none => s
  | some r =>
    let g := goPath s r.slot r.bucket
    if runState s = .armed ∧ r.launchAt.isNone = true ∧ leaderOf s r.slot ≠ ownChip s ∧ slot % 16 = r.slot ∧ fld g 47 43 = logicalEyelet s e ∧ fld g 42 38 = k then
      let c := s.clock.beat.toNat
      setRun s (fun x => { x with launchAt := some (c + r.lead - fld g 63 48), relayAt := some (c + 2) })
    else s

/-- GO (R267). -/
def execGo (eyelet lane slot : Nat) (s : State) : Host.Outcome State Fault Refusal := .next (onGo s eyelet lane slot)

/-- GO_RELAY (R267): a relay sends its own GO copies in beat C + 2, for which they stand ready from beat C + 1 on. -/
def execGoRelay (s : State) : Host.Outcome State Fault Refusal :=
  .next (match s.last.run with
    | some r =>
      match r.relayAt with
      | some b => if b ≤ s.clock.beat.toNat + 1 then sendGo (setRun s (fun x => { x with relayAt := none })) r b else s
      | none => s
    | none => s)

/-- SYNC_TIMEOUT (R36). -/
def execSyncTimeout (s : State) : Host.Outcome State Fault Refusal :=
  .next (match s.last.run with
    | some r => if runState s = .armed ∧ r.launchAt.isNone = true then handshakeFail s r Code.syncFault else s
    | none => s)

/-! ### LAUNCH (R307) -/

/-- R307: the checks 5 to 8 of a LOADED slot, with WELT_DEGRADED and TILE_FENCED before the handle images (log 31): status, check number, tile and
low bits of the first that fails. -/
def launchChecks (s : State) (slot b steps : Nat) : Option (Nat × Nat × Nat × Nat) :=
  let bc := beatCount s slot b
  if staggerMax s slot < rget s Reg.staggerBeats ∨ steps = 0 ∨ (windowless s slot b && decide (gapLimit (tget {} s.last.slots slot).fitAge < steps * bc)) = true
      ∨ paceSetOk s slot = false then some (Code.scheduleInvalid, 5, 0x3F, 0)
  else
    match badLane s slot b with
    | some i => some (Code.laneUnavailable, 6, 0x3F, i)
    | none =>
      if rget s Reg.startLeadBeats ≤ fld (goPath s slot b) 63 48 then some (Code.syncFault, 7, 0x3F, 0)
      else
        match weltRefusal s slot b with
        | some t => some (Code.weltDegraded, 8, t, 0)
        | none =>
          match fencedTile s slot b with
          | some t => some (Code.tileFenced, 8, t, 0)
          | none => (((List.range 64).filterMap (fun t => (imageMismatch s slot b t).map (fun h => (t, h)))).head?).map (fun x => (Code.residentMismatch, 8, x.1, x.2))

/-- The slot becomes ARMED: READY goes to the leader, or the leader takes what it holds (R35, R308). -/
def arm (s : State) (r : Run) : State :=
  let s0 := if s.faults.rollback = .armedReplay then s else { s with faults := { s.faults with lastS := none, sameS := 0 } }
  let s1 := setSlot { s0 with last := { s0.last with run := some r }, trace := { s0.trace with digestEvery := rget s Reg.digestIntervalBeats } } r.slot .armed
  let leader := leaderOf s1 r.slot
  if leader ≠ ownChip s1 then sendControl { s1 with last := { s1.last with early := [] } } leader (readyPayload s1 r)
  else
    let held := s1.last.early
    let s2 := setRun { s1 with last := { s1.last with early := [] } } (fun x => { x with ready := [ownChip s1] })
    leaderGo (held.foldl (fun s h => takeReady s h.1 h.2) s2)

/-- LAUNCH (R307, R106, R145, R312). -/
def execLaunch (queue id : Nat) (s : State) : Host.Outcome State Fault Refusal :=
  .next (runCommand s queue id 2 (fun s f =>
    let w1 := nth f.words 1
    let w2 := nth f.words 2
    let slot := fld w1 63 60
    let s0 := fld w1 59 36
    let s1 := fld w1 35 12
    let steps := fld w2 63 32
    let o := some (queue, id)
    let st := slotState s slot
    if clearing s then finish' (disarmBench s) queue id { status := Code.tenantClearing }
    else if st ≠ .loaded then launchFail s o (if st = .loading then Code.lastBusy else Code.slotEmpty) 0 0x81 0x3F 0
    else if s.last.run.isSome then launchFail s o Code.lastBusy 0 0x82 0x3F 0
    else if s.clock.refState = .lost then launchFail s o Code.refLost 0 0x83 0x3F 0
    else
      match pickBucket s slot s0 s1 with
      | none => launchFail s o Code.refusedShape 0 0x84 0x3F 0
      | some b =>
        if imagePoisoned s slot b then finish' (disarmBench s) queue id { status := Code.memPoison } else
        match launchChecks s slot b steps with
        | some (status, check, t, low) => launchFail s o status 0 (0x80 + check) t low
        | none =>
          let t1 := (List.range 64).foldl (fun s t => installImage s slot b t) s
          match pinAll (pinPages t1 slot b) t1 with
          | (.error (e, t, low), t2) => launchFail (endCleanup t2) o e.1 e.2 0x89 t low
          | (.ok _, t2) =>
            arm t2 { slot := slot, bucket := b, s0 := s0, s1 := s1, stepCount := steps, firstStep := fld w2 31 0, tables := tablesOf s slot b, stagger := rget s Reg.staggerBeats
                     origin := o, lead := rget s Reg.startLeadBeats, syncUs := rget s Reg.syncTimeoutUs, bench := s.trace.bench.isSome }))

/-! ### Beats (R33, R310, R312, R317) -/

/-- Beats of the whole launch. -/
def totalBeats (s : State) (r : Run) : Nat := r.stepCount * max 1 (beatCount s r.slot r.bucket)

/-- R505: a tile whose sequencer issues any record in the beat now is busy, IDLE among them (R292). -/
def countBusy (s : State) : State :=
  match s.last.run with
  | none => s
  | some r => (List.range 64).foldl (fun s t => if !(dueRecords s r t).isEmpty then rinc s (Reg.busyBeats (physTile s t)) else s) s

/-- R114, R155, R291: the sequencer of a tile reads a record that is due, through its line buffer; a poisoned line raises STEP_FAULT, and the
record does not issue. -/
def readRecord (s : State) (r : Run) (t i : Nat) : State :=
  match findSec s r.slot r.bucket secBeats t with
  | none => s
  | some sec =>
    let a := slotBase s r.slot + sec.off + 8 * i
    if tilePoisoned s (physTile s t) a 8 then tileFault (setRun s (fun x => { x with issued := x.issued ++ [(t, i)] })) t Code.memPoison i
    else if (tget? (ptile s (physTile s t)).lines (a / 64)).isSome then s
    else lineFill s (physTile s t) a

/-- Every tile's sequencer reads the records that are due in the beat now. -/
def readRecords (s : State) : State :=
  match s.last.run with
  | none => s
  | some r => (List.range 64).foldl (fun s t => (dueRecords s r t).foldl (fun s x => readRecord s r t x.1) s) s

/-- The next schedule beat is issued. -/
def issueBeat (s : State) : State :=
  readRecords (countBusy (setRun s (fun x => { x with
    sched := x.sched + 1, issuing := true, resting := false, issued := []
    stepDue := x.stepDue || x.sched % max 1 (beatCount s x.slot x.bucket) == 0
    hist := (some x.sched :: x.hist).take 32 })))

/-- What a beat boundary does to a launch: the next schedule beat, a rest beat, or nothing. In ENDING the schedule goes on with nothing to
issue (R318). -/
def beatRun (s : State) (r : Run) : State :=
  let idle (x : Run) : Run := { x with issuing := false, resting := false, issued := [], hist := (none :: x.hist).take 32 }
  if runState s = .running then
    if totalBeats s r ≤ r.sched ∨ s.power.stalled = true ∨ s.power.tripped = true then setRun s idle
    else
      match r.rests with
      | p :: ps =>
        if p ≤ r.sched then rinc (setRun s (fun x => { idle x with rests := ps, resting := true, restCount := x.restCount + 1 })) Reg.restBeats
        else issueBeat s
      | [] => issueBeat s
  else if runState s = .ending then setRun s (fun x => { idle x with sched := x.sched + 1 })
  else setRun s idle

/-- BEAT_TICK (R33, R317, R372): without clocks no beat passes; the tiles' units end the beat's cycles; the end of a beat in which a STEP_FAULT was raised stops the launch; the
counter advances, without power too (log 84); swept heaters step (R233); what holds from the new beat's first cycle holds before its records issue (R96);
copies go on. -/
def execBeatTick (s : State) : Host.Outcome State Fault Refusal :=
  if s.power.clocksOff then .next s else
  let s0 := allUnitsTo s (cycleNow s + 56)
  let s1 := if (s0.last.run.map (·.cleanupDue)).getD false then dueSelects (faultCleanup s0) else s0
  let s2 := beginBeat (sweepHeaters { s1 with clock := { s1.clock with beat := s1.clock.beat + 1 } })
  .next (advanceAll (match s2.last.run with
    | some r => beatRun s2 r
    | none => s2))

/-- R491, R518: rollback at a launch beat: a relaunch of the slot with FIRST_STEP = rollback_step, or a bench run, enters REPLAYING. -/
def replayStart (s : State) (r : Run) : State :=
  if r.bench then { s with faults := { s.faults with rollback := .replaying }, trace := { s.trace with replayAt := 0 } }
  else if s.faults.rollback = .armedReplay ∧ (s.faults.relaunch = none ∨ s.faults.relaunch = some r.slot) ∧ r.firstStep = rget s Reg.rollbackStep then
    { s with faults := { s.faults with rollback := .replaying }, trace := { s.trace with replayAt := s.faults.replayPos } }
  else s

/-- R110: the presets of every tile with OPEN = 1. -/
def openPresets (s : State) (r : Run) : State :=
  (List.range 64).foldl (fun s t =>
    match tileSec s r.slot r.bucket secPresets t with
    | none => s
    | some x => (List.range 16).foldl (fun s i =>
        let w := secWord s r.slot (some x) i
        if wOpen w then setWindow s t i w else s) s) s

/-- R508: a BEAT_MARK record, with the schedule beat since the launch beat. -/
def beatMark (s : State) (sb : Option Nat) : State :=
  let bucket := match s.last.run with | some r => r.bucket | none => 0xFF
  let rests := match s.last.run with | some r => r.restCount | none => 0
  let s1 := { s with trace := { s.trace with markAt := some s.clock.beat.toNat } }
  traceMake s1 1 (word (sb.getD (2 ^ 64 - 1))) (word (at' (rget s Reg.agreedStretch) 16 48 + at' bucket 8 40 + at' rests 40 0))

/-- LAUNCH_BEAT_REACHED (R318, R310, R375, R508): ARMED to RUNNING, and schedule beat 0 is issued in this beat. A package that stalls issues nothing,
and the Last that now runs on it has its STEP_FAULT (R370, R372, log 76). -/
def execLaunchBeatReached (s : State) : Host.Outcome State Fault Refusal :=
  .next (match s.last.run with
    | none => s
    | some r =>
      match r.launchAt with
      | none => s
      | some b =>
        if runState s ≠ .armed ∨ s.clock.beat.toNat < b then s
        else
          let s1 : State := rset (rset (setSlot s r.slot .running) Reg.launchBeat b) Reg.agreedStretch 256
          let s2 : State := { s1 with tiles := s1.tiles.map (fun (t : Nat × LogTile) => (t.1, { t.2 with digest := [] })) }
          let s3 := beatMark (setRun (openPresets (replayStart { s2 with power := { s2.power with localX := 256, paceSum := 0, paceCount := 0 } } r) r)
            (fun x => { x with rests := [], sched := 0 })) (some 0)
          if s.power.stalled || s.power.tripped then stepFault s3 (if s.power.tripped then Code.thermalShutdown else Code.thermalLimit) 0 0 none 0 false
          else issueBeat (setRun s3 (fun x => { x with hist := x.hist.drop 1 })))

/-- STEP_START (R310, R39, R486, R488, R510): the step number and its extended form, the snapshot of the boundary, the tread record. -/
def execStepStart (s : State) : Host.Outcome State Fault Refusal :=
  .next (match s.last.run with
    | none => s
    | some r =>
      if !r.stepDue || runState s != .running then s
      else
        let bc := max 1 (beatCount s r.slot r.bucket)
        let k := (r.firstStep + r.stepIdx) % 2 ^ 32
        let ext := extend 32 (rget s Reg.stepNumberExt) k
        let low := nowSched s / bc * bc - bc
        let s1 := setRun s (fun x => { x with
          stepIdx := x.stepIdx + 1, stepDue := false
          rxSeen := x.rxSeen.filter (fun b => low ≤ b.1 / 4096)
          closed := x.closed.filter (fun g => low / bc ≤ g.2 / 4096)
          laceOps := x.laceOps.filter (fun o => o.done.isNone || decide (low ≤ o.issued)) })
        let s2 := rinc (rset (rset s1 Reg.stepNumber k) Reg.stepNumberExt ext) Reg.stepsRun
        treadLog (snapBoundary s2 k ext) 6 (ownChip s2) 0 ext [])

/-! ### Pace points (R314 to R317, R371, R373, R374) -/

/-- R371: the thermal request. -/
def thermalRequest (s : State) : Nat :=
  match s.power.thermal with
  | .normal => 256
  | .warning => 256
  | _ =>
    let d := rgetI s Reg.tMaxMc - 97000
    min 512 (max 267 (256 + -((-(1024 * d)) / 100000)).toNat)

/-- R373: the cap request for a mean input power in mW. -/
def capRequest (s : State) (xPrev : Nat) (pAvg : Frac) : Nat :=
  let floor := rget s Reg.powerFloorW
  let cap := rget s Reg.powerCapW
  let excess := fsub pAvg (Frac.ofInt (1000 * floor))
  if fle excess ⟨0, 1⟩ then 256 else min 512 (max 256 (fceil (fmul excess (frac xPrev (1000 * (cap - floor))))).toNat)

/-- R374: p_avg exceeds 1.05 × power_cap_w. -/
def capExceeded (s : State) (pAvg : Frac) : Bool := flt (Frac.ofInt (1050 * rget s Reg.powerCapW)) pAvg

/-- R374: the event of the second of consecutive points. -/
def raiseCap (s : State) : State := rinc (notice s Code.powerCapExceeded 0 0 0) Reg.capExceededEvents

/-- R373, R374: the requests of a point, as they read: (request, x_th, x_cap). -/
def sampleRequest (s : State) (xPrev : Nat) (pAvg : Frac) : (Nat × Nat × Nat) × State :=
  let xc := capRequest s xPrev pAvg
  let xt := thermalRequest s
  ((max xt xc, xt, xc), rset (rset (rset s Reg.capStretch xc) Reg.thermalStretch xt) Reg.stretchRequest (max xt xc))

/-- R314: the step beat is a pace point of the running bucket. -/
def isPacePoint (s : State) (r : Run) (b : Nat) : Bool :=
  paceFirst s r.slot ≤ b && (b - paceFirst s r.slot) % max 1 (paceSpacing s r.slot) == 0 && b + paceLag s r.slot < beatCount s r.slot r.bucket

/-- R373: p_avg in mW: the mean of the input-power samples since the previous pace point or the launch beat. Where none fell there the spec
states no value: the command brings it, and it may be any (log 77). -/
def paceMean (s : State) (unsampled : Int) : Frac := if s.power.paceCount = 0 then Frac.ofInt unsampled else frac s.power.paceSum (1000 * s.power.paceCount)
/-- The interval of the next pace point begins. -/
def paceRestart (s : State) : State := { s with power := { s.power with paceSum := 0, paceCount := 0 } }

/-- PACE_POINT (R315, R349, R373, R374, R508, R517). -/
def execPacePoint (unsampledMw : Int) (s : State) : Host.Outcome State Fault Refusal :=
  .next (match s.last.run with
    | none => s
    | some r =>
      if runState s ≠ .running ∨ !r.issuing ∨ r.pacePending = some (nowSched s) ∨ !isPacePoint s r (stepBeat s r) then s
      else
        let agreed := rget s Reg.agreedStretch
        let p := paceMean s unsampledMw
        let q := sampleRequest (paceRestart s) agreed p
        let past := capExceeded s p
        let hit := past && r.capOver && !r.capRaised
        let s1 := if hit then raiseCap q.2 else q.2
        let s2 := setRun (rinc s1 Reg.pacePoints) (fun x => { x with
          pacePending := some (nowSched s), paceResult := none, capOver := past, capRaised := past && (x.capRaised || hit) })
        let s3 := traceMake s2 6 (word (at' q.1.1 16 48 + at' q.1.2.1 16 32 + at' q.1.2.2 16 16 + at' agreed 16 0))
          (word (at' (unsigned 32 (fround p)) 32 32 + at' (rget s Reg.tMaxMc) 32 0))
        let s4 := schedLaceIssue s3 r { tile := paceTile, entry := 0, issued := nowSched s, seq := stepBeat s r % 2 ^ 24, lop := 2, ltype := ltU64
                                        set := paceLaceSet s r.slot, held := [(ownChip s, q.1.1)] }
        if s.trace.digestEvery = 0 then emitDigests s4 r (nowSched s) false else s4)

/-- R317: schedule beats before which a rest beat comes. -/
def restPositions (a q x : Nat) : List Nat :=
  let n := cdiv (q * (x - 256)) 256
  (List.range n).map (fun j => a + j * q / n)

/-- R317: the next application beat after that of pace point P, or the end of the Last. -/
def nextApplication (s : State) (r : Run) (p : Nat) : Nat :=
  let bc := max 1 (beatCount s r.slot r.bucket)
  let lag := paceLag s r.slot
  if isPacePoint s r (p % bc + paceSpacing s r.slot) then p + paceSpacing s r.slot + lag
  else if p / bc + 1 < r.stepCount then (p / bc + 1) * bc + paceFirst s r.slot + lag
  else r.stepCount * bc

/-- STRETCH_APPLY (R315 to R317): as schedule beat A begins, before it is issued, the agreed stretch sets the rest beats; one that has not arrived
raises STEP_FAULT. -/
def execStretchApply (s : State) : Host.Outcome State Fault Refusal :=
  .next (match s.last.run with
    | none => s
    | some r =>
      match r.pacePending with
      | none => s
      | some p =>
        let a := p + paceLag s r.slot
        if runState s ≠ .running ∨ r.sched < a then s
        else
          match r.paceResult with
          | none => stepFault (setRun s (fun x => { x with pacePending := none })) 0 10 0 none p false
          | some x =>
            rset (setRun s (fun y => { y with pacePending := none, paceResult := none, rests := restPositions a (nextApplication s r p - a) x })) Reg.agreedStretch x)

/-! ### The end (R318) -/

/-- LAST_END (R318): the last step has ended. -/
def execLastEnd (s : State) : Host.Outcome State Fault Refusal :=
  .next (match s.last.run with
    | some r => if runState s = .running ∧ totalBeats s r ≤ r.sched then setSlot (setRun s (fun x => { x with issuing := false })) r.slot .ending else s
    | none => s)

/-- A scheduled copy is in flight. -/
def schedCopies (s : State) : Bool := s.stitch.ctxs.any (fun c => c.1 < 512 && c.1 % 2 == 0)

/-- ENDING_DONE (R318, R106, R110, R145, R517): the cleanup, the final digests, the slot LOADED, LAUNCH OK. -/
def execEndingDone (s : State) : Host.Outcome State Fault Refusal :=
  .next (match s.last.run with
    | some r =>
      if runState s = .ending ∧ schedCopies s = false then endRun (endCleanup (emitDigests s r (totalBeats s r) true)) r {}
      else s
    | none => s)

/-! ### SNAPSHOT (R490) -/

/-- SNAPSHOT (R490): one snapshot of the covered state to a rack-window address. A TARGET of another CHIP is malformed, and a second snapshot at once
finds the privileged Stitchers busy (log 27). -/
def execSnapshot (queue id : Nat) (s : State) : Host.Outcome State Fault Refusal :=
  .next (runCommand s queue id 0x10 (fun s f =>
    let w1 := nth f.words 1
    let step := fld (nth f.words 2) 63 32
    if fld w1 51 0 % 64 ≠ 0 then finish' s queue id { status := Code.alignFault }
    else if lastBusy s || s.faults.snap.isSome then finish' s queue id { status := Code.lastBusy }
    else if fld w1 63 52 ≠ 0xFFF then finish' s queue id { status := Code.xlateFault, reason := reasonMalformed }
    else
      match fabricTarget s true 0xFFF (fld w1 51 0 : Int) with
      | .error e => finish' s queue id { status := e.1, reason := e.2 }
      | .ok _ =>
        let h := snapHeader s step step
        let pieces := snapPieces s step none
        let s1 := pieceReads (snapOpen s { step := step, slot := 0, origin := some (queue, id), header := h, acks := 1 }) pieces
        snapAck (snapStream s1 (fld w1 51 0) h pieces) Code.ok 0))

end Sys2Proof.Machine
end

