-- ==== Sys2Proof/Machine/Timetable.lean ====
section
/-! DEFINITION. What a load works out about one tile of an image before any of it runs: the cycle in which each record issues, the times of
every pass, load, drain, function and copy (R76 to R81, R86, R94, R96, R97, R118, R136 to R138), the bank accesses (R101, R136), and the
core current (R305, R362, R363). Two steps in a row are worked out, from empty storage. -/

namespace Sys2Proof.Machine

/-! ### The records of two steps, in issue order -/

/-- R312: step beat in which a record issues under stagger `sg`. -/
def placed (s : State) (slot sg b : Nat) : Nat := if b < rampBeats s slot - staggerMax s slot then b + sg else b

/-- Function-table entry of a tile of a bucket, as an operation issued in a cycle. -/
def imageFunc (s : State) (slot b t entry cyc : Nat) : FuncRec := { words := secEntry s slot (findSec s slot b secFunc t) 4 entry, issue := cyc }

/-- Pass-table entry of a tile of a bucket. -/
def imagePass (s : State) (slot b t entry cyc : Nat) : PassRec :=
  let ws := secEntry s slot (findSec s slot b secPass t) 2 entry
  { w0 := nth ws 0, w1 := nth ws 1, issue := cyc }

/-- R106, R132: a copy of a bucket, with its handles as the handle image has them; bits that only the run knows are those of the full shapes. -/
def imageCopy (s : State) (slot b t stitcher desc cyc : Nat) : CopyRec :=
  let ent (type i : Nat) : List Word := secEntry s slot (findSec s slot b type t) 8 i
  let img := findSec s slot b secHandles t
  let c := schedCopy (ent secStitch desc) (ent secTensor) (ent secPattern) (fun h => secWord s slot img h)
  { c with tile := t, stitcher := stitcher, desc := desc, issue := cyc, launchBeat := cyc / 56, s0 := shape0 s slot b, s1 := shape1 s slot b }

/-- A tile's records of two steps in issue order: (issue cycle, record index, word). -/
def timeline (s : State) (slot b t sg : Nat) : List (Nat × Nat × Word) :=
  let bc := beatCount s slot b
  let one := stream s slot b t
  let keyed := (List.range 2).flatMap (fun n => one.map (fun x =>
    let beat := n * bc + placed s slot sg x.2.1
    (16 * beat + issueRank (fun e => (imageFunc s slot b t e 0).isVec) x.2.2, (56 * beat, x.1, x.2.2))))
  (sortKeys keyed).map (·.2)

/-! ### Times -/

/-- Cycles `lo` to `hi` in which something reads or writes area `key` of an array. -/
structure Span where
  array : Nat
  key : Nat
  lo : Nat
  hi : Nat
  deriving DecidableEq, Repr

/-- R77: an operand staged from a cycle until another. -/
structure Hold where
  array : Nat
  key : Nat
  start : Nat
  stop : Option Nat := none
  deriving DecidableEq, Repr

/-- A write to operand storage: the record that makes it, whether the row function unit makes it, the area, its cycle, and the bytes
(row of the rescale vector) from `first` up to `past`. -/
structure Fill where
  record : Nat
  unit : Bool
  array : Nat
  key : Nat
  cycle : Nat
  first : Nat
  past : Nat
  deriving DecidableEq, Repr

/-- What the records taken so far do. -/
structure Timing where
  passes : List (Nat × PassRec) := []
  /-- Loads: (array, set, staging buffer, first cycle). -/
  loads : List (Nat × Nat × Nat × Nat) := []
  held : List Hold := []
  reads : List Span := []
  /-- Writes to operand storage, and the whole span of each writer: (record, by the row function unit, span). -/
  writes : List (Nat × Bool × Span) := []
  hulls : List (Nat × Bool × Span) := []
  /-- The bytes that each write gives a value. -/
  fills : List Fill := []
  ops : List FuncRec := []
  /-- Reads of banks by row functions: (array, bank, issue, cycles a row, rows). -/
  bankReads : List (Nat × Nat × Nat × Nat × Nat) := []
  copies : List CopyRec := []
  /-- First cycle in which each Stitcher's scheduled context is free. -/
  ctx : Tab Nat := []
  rowFree : Nat := 0
  vecFree : Nat := 0
  /-- The first record that breaks a rule. -/
  bad : Option Nat := none
  deriving DecidableEq, Repr

/-- Note that record `i` breaks a rule. -/
def Timing.fail (x : Timing) (i : Nat) (broken : Bool) : Timing := if broken && x.bad.isNone then { x with bad := some i } else x

/-- R77, R81 rule 4: an operand is staged in cycle `c` by a write of the same step of `len` cycles. -/
def Timing.staged (x : Timing) (len a key c : Nat) : Bool :=
  x.held.any (fun h => h.array == a && h.key == key && h.start ≤ c && (match h.stop with | some e => decide (c < e) | none => true)
    && decide (c / len * len < h.start))

/-- An operand staged in cycle `c` stops being staged from cycle `e`. -/
def Timing.close (x : Timing) (a key c e : Nat) : Timing :=
  { x with held := x.held.map (fun h =>
      if h.array = a ∧ h.key = key ∧ h.start ≤ c then { h with stop := some (match h.stop with | some o => min o e | none => e) } else h) }

/-- R81 rule 4: the cycles up to `e` (exclusive) lie in the step of an issue in cycle `c`. -/
def inStep (len c e : Nat) : Bool := e ≤ (c / len + 1) * len

/-- R81 rule 4: bytes `first` to `past` of an area have been written before cycle `c`, in the step of `len` cycles that holds it. -/
def Timing.filled (x : Timing) (len a key c first past : Nat) : Bool :=
  let fs := x.fills.filter (fun f => f.array == a && f.key == key && decide (f.cycle < c) && decide (c / len * len ≤ f.cycle))
  (List.range (past - first)).all (fun i => fs.any (fun f => decide (f.first ≤ first + i) && decide (first + i < f.past)))

/-- A load of a register set from a staging buffer begins in cycle `l0` (R77, R80). -/
def Timing.load (x : Timing) (a set buf c l0 : Nat) : Timing :=
  let y := { x with loads := x.loads ++ [(a, set, buf, l0)], reads := x.reads ++ ([⟨a, areaB buf, l0, l0 + 127⟩, ⟨a, areaB buf + 1, l0, l0 + 127⟩] : List Span) }
  (y.close a (areaB buf) c (l0 + 128)).close a (areaB buf + 1) c (l0 + 128)

/-- R81 rule 4: what a pass reads of its A buffer, of the rescale vector, and of the staging buffer that its register set was loaded from, was
written in its step. -/
def Timing.sourceHas (x : Timing) (len a : Nat) (d : PassRec) : Bool :=
  let c := d.issue
  let rows := List.range d.mCount
  rows.all (fun m => x.filled len a (areaA d.aBuf) c (512 * m) (512 * m + packedBytes d.fmtA d.kCount))
    && (!d.scaleA || rows.all (fun m => x.filled len a (areaA d.aBuf + 1) c (8 * m) (8 * m + cdiv d.kCount 32)))
    && (d.accInit != 2 || x.filled len a areaRescale c 0 d.mCount)
    && (match (x.loads.filter (fun l => l.1 == a && l.2.1 == d.bSet && decide (l.2.2.2 ≤ d.start))).getLast? with
        | none => true
        | some l =>
          (List.range d.kCount).all (fun k => x.filled len a (areaB l.2.2.1) l.2.2.2 (d.bPitch * k) (d.bPitch * k + packedBytes d.fmtB d.nCount))
            && (!d.scaleB || (List.range (cdiv d.kCount 32)).all (fun b => x.filled len a (areaB l.2.2.1 + 1) l.2.2.2 (128 * b) (128 * b + d.nCount))))

/-- Passes of an array that stream rows, oldest first. -/
def Timing.arrayPasses (x : Timing) (a : Nat) : List PassRec := (x.passes.filter (fun p => p.1 == a)).map (·.2)

/-- R81 rule 4: rows 0 to m − 1, columns 0 to n − 1 of a bank have been written by a pass of the step of cycle `c`. -/
def Timing.bankHas (x : Timing) (len a bank c m n : Nat) : Bool :=
  (x.arrayPasses a).any (fun d => d.accBank == bank && d.issue / len == c / len && m ≤ d.mCount && n ≤ d.nCount)

/-- R76 to R81: a PASS; a row that is written in the very cycle of its read is read first (log 81). `bScale`: the first pass that uses the set it loads has SCALE_B. -/
def Timing.pass (x : Timing) (len i a : Nat) (d0 : PassRec) (bScale : Bool) : Timing :=
  let c := d0.issue
  let need (key : Nat) (on : Bool) : Bool := on && !x.staged len a key c
  let loads := d0.loadOnly || d0.loadB
  let x1 := x.fail i (need (areaB d0.bBuf) loads || need (areaB d0.bBuf + 1) (loads && bScale)
    || (x.arrayPasses a).any (fun p => decide (c < p.start)))
  if d0.loadOnly then (x1.load a d0.bSet d0.bBuf c c).fail i (!inStep len c (c + 128))
  else
    let old := x1.arrayPasses a
    let prev := match old.getLast? with | some p => p.streamEnd | none => 0
    let d := { d0 with start := max c prev }
    let e := d.streamEnd
    let bad := need (areaA d.aBuf) true || need (areaA d.aBuf + 1) d.scaleA || need areaRescale (d.accInit == 2)
      || !x1.sourceHas len a d
      || !inStep len c e || (d.loadB && !inStep len c (d.start + 128))
      || (d.drain && !inStep len c d.settles)
      || (d.accInit != 1 && (!inStep len c d.completes || !x1.bankHas len a d.accBank c d.mCount d.nCount))
      || old.any (fun p => p.accBank == d.accBank && p.drain
          && (List.range (min p.mCount d.mCount)).any (fun m => decide (d.start + m * d.cpr + 256 < p.completes + m)))
      || x1.bankReads.any (fun r => r.1 == a && r.2.1 == d.accBank
          && (List.range (min r.2.2.2.2 d.mCount)).any (fun m => decide (d.start + m * d.cpr + 256 < r.2.2.1 + m * r.2.2.2.1)))
    let y := { x1 with
      passes := x1.passes ++ [(a, d)]
      reads := x1.reads ++ ([⟨a, areaA d.aBuf, d.start, e - 1⟩] : List Span) ++ (if d.scaleA then ([⟨a, areaA d.aBuf + 1, d.start, e - 1⟩] : List Span) else []) }
    let y := if d.aKeep then y else (y.close a (areaA d.aBuf) c e).close a (areaA d.aBuf + 1) c e
    let y := if d.accInit = 2 then y.close a areaRescale c (d.start + 1) else y
    let y := if d.loadB then y.load a (1 - d.bSet) d.bBuf c d.start else y
    y.fail i bad

/-- R77: a bank is staged as a source in cycle `c`. -/
def Timing.bankReady (x : Timing) (a bank c : Nat) : Bool := (x.arrayPasses a).all (fun d => d.accBank != bank || d.settles ≤ c)

/-- The banks a function reads, with the columns it reads of each (R525). -/
def FuncRec.banks (d : FuncRec) : List (Nat × Nat × Nat) :=
  [(d.source, d.cols), (d.source2, if d.fn = 0x0C then 1 else d.cols)].filterMap (fun e => if 1 ≤ e.1 ∧ e.1 ≤ 8 then some ((e.1 - 1) / 2, (e.1 - 1) % 2, e.2) else none)

/-- R84 to R86, R94, R97: a FUNC. -/
def Timing.func (x : Timing) (len i : Nat) (d : FuncRec) : Timing :=
  let c := d.issue
  let bad := c < (if d.isVec then x.vecFree else x.rowFree)
    || d.banks.any (fun k => !x.bankReady k.1 k.2.1 c || !x.bankHas len k.1 k.2.1 c d.rows k.2.2 || !inStep len c (c + (d.rows - 1) * d.perRow + 1))
  let out := d.outAreas ++ d.factorAreas
  let bytesOf (key r : Nat) : Nat × Nat :=
    if key = areaRescale then (r, r + 1) else if key % 2 = 0 then (512 * r, 512 * r + packedBytes d.fmtOut d.cols) else (8 * r, 8 * r + d.scaleBytes)
  let y := { x with
    ops := x.ops ++ [d]
    rowFree := if d.isVec then x.rowFree else d.frees
    vecFree := if d.isVec then d.frees else x.vecFree
    bankReads := x.bankReads ++ d.banks.map (fun (k : Nat × Nat × Nat) => (k.1, k.2.1, c, d.perRow, d.rows))
    held := x.held ++ out.map (fun (k : Nat × Nat) => ({ array := k.1, key := k.2, start := d.completes } : Hold))
    hulls := x.hulls ++ out.map (fun (k : Nat × Nat) => (i, true, (⟨k.1, k.2, d.writes 0, d.writes (d.rows - 1)⟩ : Span)))
    writes := x.writes ++ out.flatMap (fun (k : Nat × Nat) => (List.range d.rows).map (fun r => (i, true, (⟨k.1, k.2, d.writes r, d.writes r⟩ : Span))))
    fills := x.fills ++ out.flatMap (fun (k : Nat × Nat) => (List.range d.rows).map (fun r => (⟨i, true, k.1, k.2, d.writes r, (bytesOf k.2 r).1, (bytesOf k.2 r).2⟩ : Fill))) }
  y.fail i bad

/-- First cycle after those a copy can occupy its context (R136, R138). -/
def CopyRec.endCycle (c : CopyRec) : Nat := if c.outside then 56 * (c.launchBeat + c.deadline) else c.doneCycle

/-- R118, R136 to R138: a COPY. -/
def Timing.copy (x : Timing) (i : Nat) (c : CopyRec) : Timing :=
  let last := c.endCycle - 1
  let ends : List (List Word × Bool) := [(c.dst, false)] ++ (if c.scales then [(c.scaleDst, true)] else [])
  let areas := ends.filter (fun e => tdKind e.1 == kOperand)
  let cycles (sc : Bool) : List Nat := (c.accesses.filter (fun a => a.scale == sc)).map (fun a => c.issue + a.cycle)
  let spans (e : List Word × Bool) : List Span :=
    if c.outside then [⟨tdArray e.1, tdArea e.1, c.issue, last⟩] else (cycles e.2).map (fun z => ⟨tdArray e.1, tdArea e.1, z, z⟩)
  let hull (e : List Word × Bool) : Span :=
    if c.outside then ⟨tdArray e.1, tdArea e.1, c.issue, last⟩
    else ⟨tdArray e.1, tdArea e.1, (cycles e.2).foldl min last, (cycles e.2).foldl max c.issue⟩
  let y := { x with
    copies := x.copies ++ [c]
    ctx := tput x.ctx c.stitcher c.endCycle
    held := x.held ++ (if c.mark then areas.map (fun (e : List Word × Bool) => ({ array := tdArray e.1, key := tdArea e.1, start := (hull e).hi + 1 } : Hold)) else [])
    hulls := x.hulls ++ areas.map (fun (e : List Word × Bool) => (i, false, hull e))
    writes := x.writes ++ areas.flatMap (fun (e : List Word × Bool) => (spans e).map (fun z => (i, false, z)))
    fills := x.fills ++ areas.flatMap (fun (e : List Word × Bool) => (c.accesses.filter (fun (a : Access) => a.scale == e.2)).flatMap (fun (a : Access) =>
      (a.dsts.filter (inBoundsBy e.1 (tdExtent e.1))).map (fun z =>
        let b := bitAddr e.1 z
        (⟨i, false, tdArray e.1, tdArea e.1, if c.outside then last else c.issue + a.cycle, (b / 8).toNat, ((b + fmtBits (tdFmt e.1) + 7) / 8).toNat⟩ : Fill)))) }
  y.fail i (decide (c.issue < tget 0 x.ctx c.stitcher))

/-- R77: the first later pass of the stream on an array that uses a register set has SCALE_B = 1. -/
def firstUserScaled (s : State) (slot b t a i set : Nat) : Bool :=
  match (stream s slot b t).findSome? (fun x =>
    if i < x.1 ∧ fld x.2.2 63 56 = 1 ∧ fld x.2.2 47 46 = a then
      (let d := imagePass s slot b t (fld x.2.2 45 34) 0
       if !d.loadOnly && d.bSet == set then some d.scaleB else none)
    else none) with
  | some v => v
  | none => false

/-- One record. -/
def Timing.record (s : State) (slot b t len : Nat) (x : Timing) (e : Nat × Nat × Word) : Timing :=
  let w := e.2.2
  match fld w 63 56 with
  | 1 =>
    let d := imagePass s slot b t (fld w 45 34) e.1
    let a := fld w 47 46
    x.pass len e.2.1 a d (firstUserScaled s slot b t a e.2.1 (if d.loadOnly then d.bSet else 1 - d.bSet))
  | 2 => x.func len e.2.1 (imageFunc s slot b t (fld w 47 38) e.1)
  | 3 => x.copy e.2.1 (imageCopy s slot b t (fld w 47 46) (fld w 45 34) e.1)
  | _ => x

/-- The times of a tile under a stagger. -/
def timing (s : State) (slot b t sg : Nat) : Timing := (timeline s slot b t sg).foldl (Timing.record s slot b t (56 * beatCount s slot b)) {}

/-! ### The rules that need every time (R78, R80, R81, R97) -/

/-- Two spans of one area that meet. -/
def Span.meets (p q : Span) : Bool := p.array == q.array && p.key == q.key && decide (p.lo ≤ q.hi) && decide (q.lo ≤ p.hi)

/-- R78, R137: a write to an area that is staged or being read. -/
def Timing.badWrite (x : Timing) : Option Nat :=
  (x.writes.find? (fun w =>
    x.held.any (fun h => h.array == w.2.2.array && h.key == w.2.2.key && decide (h.start ≤ w.2.2.hi)
      && (match h.stop with | some e => decide (w.2.2.lo < e) | none => true))
    || x.reads.any (fun r => r.meets w.2.2))).map (·.1)

/-- R97: the row function unit and a Stitcher write one area together. -/
def Timing.badMeet (x : Timing) : Option Nat :=
  (x.hulls.find? (fun h => h.2.1 && x.hulls.any (fun g => !g.2.1 && g.2.2.meets h.2.2))).map (·.1)

/-- R80, R81 rules 2 and 4: a pass whose register set was not loaded 128 cycles before its stream start in its step, or is loaded while it
streams. -/
def Timing.badSet (x : Timing) (len : Nat) : Bool :=
  x.passes.any (fun p =>
    let d := p.2
    let ls := (x.loads.filter (fun l => l.1 == p.1 && l.2.1 == d.bSet)).map (·.2.2.2)
    let before := ls.filter (fun l => l ≤ d.start)
    ls.any (fun l => decide (d.start ≤ l) && decide (l < d.streamEnd))
      || (match before with
          | [] => true
          | l :: more => let l0 := more.foldl max l; decide (d.start < l0 + 128) || decide (l0 < d.issue / len * len)))

/-- R81 rule 3: in each bank's passes, the FP32 passes come in the order LOW, MID, HIGH, with one A buffer and one register set. -/
def fp32Order : List PassRec → Bool
  | [] => true
  | d :: rest =>
    if d.kind = 1 then
      match rest with
      | m :: h :: more =>
        m.kind == 2 && h.kind == 3 && m.aBuf == d.aBuf && h.aBuf == d.aBuf && m.bSet == d.bSet && h.bSet == d.bSet && fp32Order more
      | _ => false
    else d.kind != 2 && d.kind != 3 && fp32Order rest

def Timing.badFp32 (x : Timing) : Bool :=
  (List.range 8).any (fun k => !fp32Order ((x.arrayPasses (k / 2)).filter (fun d => d.accBank == k % 2)))

/-! ### Bank accesses (R100, R101, R136) -/

/-- An access to a bank: cycle, bank, requester, and whether a copy makes it. -/
structure Claim where
  cycle : Nat
  bank : Nat
  owner : Requester
  copy : Bool
  deriving DecidableEq, Repr

/-- The claims of one access. -/
def claimsAt (owner : Requester) (copy : Bool) (cycle : Nat) (bs : List Nat) : List Claim := bs.map (fun k => ⟨cycle, k, owner, copy⟩)

/-- R75, R79: drains. -/
def PassRec.claims (handle : Nat → Word) (a : Nat) (d : PassRec) : List Claim :=
  if !d.drain then [] else (List.range d.mCount).flatMap (fun m => claimsAt (.drain a) false (d.completes + m) (d.drainBanks handle m))

/-- R86, R94: the accesses of a function. -/
def FuncRec.claims (handle : Nat → Word) (d : FuncRec) : List Claim :=
  let q : Requester := if d.isVec then .vecUnit else .rowUnit
  (List.range d.rows).flatMap (fun r =>
    (List.range d.parts).flatMap (fun i => claimsAt q false (d.readsAt r i) (d.readBanks handle r i)) ++ claimsAt q false (d.writes r) (d.writeBanks handle r))

/-- Banks that an access of a copy reads, and those that it writes, by the EXTENT fields. -/
def CopyRec.srcBanks (c : CopyRec) (a : Access) : List Nat :=
  let t := c.srcOf a.scale
  if c.isFill then [] else granuleBanks t (c.srcHandle a.scale) (a.srcGranules t (c.dstOf a.scale) (tdExtent t))
def CopyRec.dstBanks (c : CopyRec) (a : Access) : List Nat :=
  let t := c.dstOf a.scale
  granuleBanks t (c.dstHandle a.scale) (a.dstGranules t (tdExtent t))

/-- R130, R359: the granules that an access moves; out of bounds none is moved. -/
def CopyRec.moves (c : CopyRec) (a : Access) : Nat :=
  let t := c.dstOf a.scale
  (a.dstGranules t (tdExtent t)).length

/-- R136: the accesses of a copy of fixed timing. -/
def CopyRec.claims (c : CopyRec) : List Claim :=
  if c.outside then []
  else
    c.accesses.flatMap (fun a =>
      claimsAt (.stitcher c.stitcher) true (c.issue + a.reads) (c.srcBanks a) ++ claimsAt (.stitcher c.stitcher) true (c.issue + a.cycle) (c.dstBanks a))

/-- R347, R348: the rank 5 writes of the results of a tile's lace records, in two steps. -/
def laceClaims (s : State) (slot b t : Nat) (handle : Nat → Word) : List Claim :=
  let ops := laceIssues s slot b
  (ops.filter (fun q => q.tile == t && !q.barrier)).flatMap (fun q =>
    let l := laceLatencies s slot b q.beat q.set ops
    (List.range 2).flatMap (fun n =>
      claimsAt .inbound false (56 * (n * beatCount s slot b + q.beat + laceBound q.set.shape l.1 l.2 - 1) + laceWriteCycle q.set.shape)
        (banksAt (handle (leDstHandle q.entry)) (64 * leDstOff q.entry) (ltBytes (leType q.entry)))))

/-- R298, R347: the rank 5 writes of a tile, in two steps: those of its RX runs and of its lace results. -/
def inboundClaims (s : State) (slot b t : Nat) (handle : Nat → Word) : List Claim :=
  let bc := beatCount s slot b
  ((laneRuns s slot b).filter (fun x => x.dir == 1 && fld x.w1 63 58 == t)).flatMap (fun x =>
    (List.range 2).flatMap (fun n => (List.range x.count).flatMap (fun i =>
      let blk := x.first + i
      claimsAt .inbound false (56 * (n * bc + blk / 4 + laneLatency s slot b x.eyelet x.lane) + 14 * (blk % 4) + 37)
        (banksAt (handle (fld x.w1 57 50)) (64 * (fld x.w1 49 30 + i)) 64))))
    ++ laceClaims s slot b t handle

/-- Every claim of a tile's records. -/
def Timing.claims (x : Timing) (handle : Nat → Word) : List Claim :=
  x.passes.flatMap (fun p => p.2.claims handle p.1) ++ x.ops.flatMap (FuncRec.claims handle) ++ x.copies.flatMap CopyRec.claims

/-- R102, R136: a copy of fixed timing and another scheduled user want one bank in one cycle. -/
def bankConflict (cs : List Claim) : Bool :=
  cs.any (fun p => p.copy && cs.any (fun q => q.cycle == p.cycle && q.bank == p.bank && q.owner != p.owner))

/-! ### Core current (R305, R362, R363) -/

/-- An amount of work: cycles from and to (exclusive), kind of R359, format, count spread evenly over the cycles. -/
structure Work where
  lo : Nat
  hi : Nat
  kind : Nat
  fmt : Nat
  count : Nat
  deriving DecidableEq, Repr

/-- R362: the work of a tile's records. A cycle in which an array both streams and drains counts once, under the stream (R359). -/
def Timing.work (x : Timing) (handle : Nat → Word) : List Work :=
  (List.range 4).flatMap (fun a =>
    let ds := x.arrayPasses a
    ds.map (fun d => ⟨d.start, d.streamEnd, 0, d.fmtA, d.streamEnd - d.start⟩)
      ++ (ds.filter (·.drain)).flatMap (fun d => (List.range d.mCount).filterMap (fun m =>
          let c := d.completes + m
          if ds.any (fun e => decide (e.start ≤ c) && decide (c < e.streamEnd)) then none else some ⟨c, c + 1, 0, d.fmtA, 1⟩)))
    ++ x.ops.flatMap (fun d =>
        if d.isVec then [⟨d.issue, d.frees, 2, d.fmtIn, d.frees - d.issue⟩]
        else (List.range d.rows).map (fun r => ⟨d.issue + r * d.perRow, d.issue + r * d.perRow + 1, 1, d.fmtOut, 1⟩))
    ++ (x.claims handle).map (fun q => ⟨q.cycle, q.cycle + 1, 3, 0, 1⟩)
    ++ x.copies.flatMap (fun c =>
        if c.outside then
          [⟨c.issue, c.endCycle, 4, 0, (c.accesses.map c.moves).sum⟩,
           ⟨c.issue, c.endCycle, 3, 0, (c.accesses.map (fun a => (c.srcBanks a).length + (c.dstBanks a).length)).sum⟩]
        else c.accesses.map (fun a => ⟨c.issue + a.cycle, c.issue + a.cycle + 1, 4, 0, c.moves a⟩))

/-- The energy of work in the cycles of a beat, in fJ. -/
def Work.energy (coeff : Nat → Nat) (w : Work) (beat : Nat) : Frac :=
  let lo := max w.lo (56 * beat)
  let hi := min w.hi (56 * beat + 56)
  frac ((w.count * (hi - lo) * coeff (16 * w.kind + w.fmt) : Nat) : Int) (max 1 (w.hi - w.lo))

/-- R362: the core current of a beat, in A: static mW over 72 tiles, and fJ over 35.84 ns, at model_core_mv. -/
def coreCurrent (coeff : Nat → Nat) (mv : Nat) (ws : List Work) (beat : Nat) : Frac :=
  let dyn := (ws.filter (fun w => w.lo < 56 * beat + 56 && 56 * beat < w.hi)).foldl (fun a w => fadd a (w.energy coeff beat)) ⟨0, 1⟩
  fadd (frac ((72 * coeff 112 : Nat) : Int) (max 1 mv)) (fmul dyn (frac 1 (35840 * max 1 mv)))

/-- R363: a beat of current `i` after one of `prev`. -/
def currentOk (s : State) (prev i : Frac) : Bool :=
  let d := fsub i prev
  let slew := frac 5376 1000
  let stored := fadd (frac (rget s Reg.storedBaseMj) 1000) (fmul (frac (rget s Reg.storeLNh) 2000000000) (fmul i i))
  fle d slew && fle (fneg d) slew && fle stored ⟨3, 1⟩
    && (!flt ⟨0, 1⟩ (fneg d) || fle (fmul (frac (rget s Reg.revGainMa) 1000) (fneg d)) ⟨5, 1⟩)

def profileOk (s : State) (prev : Frac) : List Frac → Bool
  | [] => true
  | i :: rest => currentOk s prev i && profileOk s i rest

/-- R305: the profile of a bucket under a stagger: idle, the step twice, idle. -/
def profilePasses (s : State) (slot b sg : Nat) : Bool :=
  let coeff (i : Nat) : Nat := ((s.last.load.map (·.coeffs)).getD s.power.coeffs).getD i 0
  let ws := (List.range 64).flatMap (fun t =>
    let img := findSec s slot b secHandles t
    let h (i : Nat) : Word := secWord s slot img i
    (timing s slot b t sg).work h ++ (inboundClaims s slot b t h).map (fun q => (⟨q.cycle, q.cycle + 1, 3, 0, 1⟩ : Work)))
  let last := (ws.map (·.hi)).foldl max (112 * beatCount s slot b)
  let mv := rget s Reg.modelCoreMv
  let idle := coreCurrent coeff mv [] 0
  profileOk s idle ((List.range (last / 56 + 2)).map (coreCurrent coeff mv ws))

end Sys2Proof.Machine
end

