-- ==== Sys2Proof/Machine/Power.lean ====
section
/-! DEFINITION. Power sense (R355 to R361), the thermal model and states (R364 to R372), the power window (R375) and the Shank governor
(R376 to R378). Powers are in mW and temperatures in 0.001 °C, exact. -/

namespace Sys2Proof.Machine

/-- R355: dies, the column of a die, the members of a column. -/
def dieCount : Nat := 101
def columnOf (i : Nat) : Nat := if i = 100 then 12 else i / 8
def columnDies (c : Nat) : List Nat := (List.range dieCount).filter (fun i => columnOf i == c)

def tap (s : State) (i : Nat) : Tap := tget {} s.power.taps i
def setPower (s : State) (f : Power → Power) : State := { s with power := f s.power }
def setTap (s : State) (i : Nat) (f : Tap → Tap) : State := setPower s (fun p => { p with taps := tmod {} p.taps i f })
def column (s : State) (c : Nat) : Column := tget {} s.power.columns c

def fsum (xs : List Frac) : Frac := xs.foldl fadd ⟨0, 1⟩
/-- R357: a 1 ms average: the mean of the last 100 samples. -/
def fmean (xs : List Frac) : Frac := if xs.isEmpty then ⟨0, 1⟩ else fdiv (fsum xs) (Frac.ofInt xs.length)
def fmax (a b : Frac) : Frac := if fle a b then b else a
def fabs (a : Frac) : Frac := if a.num < 0 then fneg a else a

/-! ### Estimates (R359) -/

/-- R359: the estimate of a tile for one 10 µs interval, in mW: static mW, and fJ over 10 µs. -/
def tileEstimate (s : State) (p : Nat) : Frac :=
  let coeff (i : Nat) : Nat := s.power.coeffs.getD i 0
  let e := ((List.range 80).map (fun i => tget 0 s.power.activity (128 * p + i) * coeff i)).sum
  fadd (Frac.ofInt (coeff 112)) (frac (e : Int) 10000000)

/-! ### Samples (R356, R358) -/

/-- R356: the power a code gives, in mW; none for the open-detect code. -/
def codePower (c : BitVec 16) : Option Frac := if c = 0x8000 then none else some (Frac.ofInt (100 * c.toInt))

/-- A power no rule gives: a tap that reads the open-detect code before it is SENSE_OPEN, and the estimate of one that opens with no average of
its last second (a free value, log 3). -/
def freePower (s : State) : Frac := Frac.ofInt (100 * signed 16 (Config.freeWord s.draws).toNat)

/-- R359: the highest 1 ms average that a tap gave in the last second. -/
def highestAverage (s : State) (t : Tap) : Frac :=
  match t.avgs.filterMap id with
  | [] => freePower s
  | a :: as => as.foldl fmax a

/-- The sample of one tap. The estimate stands from the third open-detect code in a row on, so that what uses the sample sees no gap (R380). -/
def sampleTap (s : State) (i : Nat) (c : BitVec 16) : State :=
  let t := tap s i
  let opens := !t.isOpen && c == 0x8000 && 2 ≤ t.openRun
  let held := if opens then highestAverage s t else t.heldEst
  let est := if i < 72 then tileEstimate s i else held
  let isOpen := t.isOpen && (c == 0x8000 || t.validRun + 1 < 100)
  let raw := if isOpen || opens then est else (codePower c).getD (freePower s)
  let col := column s (columnOf i)
  let cor := if col.broken then fsub raw col.offset else raw
  let s1 := if !isOpen && c == 0x8000 then { s with draws := s.draws + 1 } else s
  setTap s1 i (fun t => { t with
    openRun := if c = 0x8000 then t.openRun + 1 else 0
    validRun := if c = 0x8000 then 0 else t.validRun + 1
    isOpen := isOpen
    heldEst := held
    raw := (raw :: t.raw).take 100
    hist := (cor :: t.hist).take 100
    est := (est :: t.est).take 100 })

/-- R395: nominal voltage of a rail in mV and its static tolerance in percent. -/
def railTable : List (Nat × Nat) := [(800, 3), (1800, 5), (1800, 5), (1050, 3), (400, 5), (800, 3), (850, 3), (750, 3), (1800, 3)]

/-- R405: 0 IN_RANGE, 1 LOW, 2 HIGH. -/
def railCode (rail mv : Nat) : Nat :=
  let r := railTable.getD rail (0, 0)
  if 100 * mv < r.1 * (100 - r.2) then 1 else if r.1 * (100 + r.2) < 100 * mv then 2 else 0

/-- SENSE_SAMPLE (R356 to R359): every tap, the package input, the fast sense and the rails; a new activity interval begins. -/
def execSenseSample (x : Sample) (s : State) : Host.Outcome State Fault Refusal :=
  let s1 := ((List.range dieCount).zip x.taps).foldl (fun s (p : Nat × BitVec 16) => sampleTap s p.1 p.2) s
  let s2 := setPower s1 (fun p => { p with
    activity := []
    inHist := (x.inputMv * x.inputMa :: p.inHist).take 100
    paceSum := p.paceSum + x.inputMv * x.inputMa
    paceCount := p.paceCount + 1
    curHist := (x.inputMa :: p.curHist).take 100
    coreHist := (x.coreMa :: p.coreHist).take 100
    railHist := (x.rails :: p.railHist).take 100 })
  .next (((List.range 9).zip x.rails).foldl (fun s (p : Nat × Nat) => rset s (Reg.railStatus.at p.1) (railCode p.1 p.2)) s2)

/-- SENSE_OPEN (R358, R359): after 3 open-detect codes in a row, once per event. -/
def execSenseOpen (die : Nat) (s : State) : Host.Outcome State Fault Refusal :=
  let t := tap s die
  .next (if t.isOpen = true ∨ t.openRun < 3 then s
    else rinc (notice (setTap s die (fun t => { t with isOpen := true, validRun := 0 })) Code.senseOpen 7 die 0) (Reg.senseEvents.at 0))

/-! ### Column returns (R360) -/

/-- The mean of the last 100 values of a list of numbers. -/
def meanNat (xs : List Nat) : Frac := fmean (xs.map (fun (n : Nat) => Frac.ofInt n))
def meanInt (xs : List Int) : Frac := fmean (xs.map Frac.ofInt)

/-- R356, R357: the 1 ms average of the input power, in mW. -/
def inputPower (s : State) : Frac := fdiv (meanInt s.power.inHist) (Frac.ofInt 1000)

/-- The averages one check uses: input, loss, taps by die. -/
structure Returns where
  pIn : Frac
  loss : Frac
  taps : List Frac
  deriving DecidableEq, Repr

def returnsNow (s : State) : Returns :=
  let p := inputPower s
  { pIn := p
    loss := fadd (Frac.ofInt (1000 * rget s Reg.convLossFixedW)) (fmul p (frac (rget s Reg.convLossPpm) 1000000))
    taps := (List.range dieCount).map (fun i => fmean (tap s i).raw) }

def colSum (xs : List Frac) (c : Nat) : Frac := fsum ((columnDies c).map (fun i => xs.getD i ⟨0, 1⟩))
def Returns.residual (x : Returns) : Frac := fsub (fsub x.pIn x.loss) (fsum x.taps)
def Returns.inBounds (x : Returns) : Bool := fle (fabs x.residual) (fmax (Frac.ofInt 20000) (fmul (frac 3 100) x.pIn))
/-- What the other columns leave for column c. -/
def Returns.need (x : Returns) (c : Nat) : Frac := fadd x.residual (colSum x.taps c)
/-- The offset o of column c. -/
def Returns.off (x : Returns) (c : Nat) : Frac := fdiv (fsub (colSum x.taps c) (x.need c)) (Frac.ofInt (columnDies c).length)

/-- The estimate of a column: tiles by R359, other dies by their averages at the last IN_BOUNDS check. -/
def colEstimate (s : State) (c : Nat) : Frac := fsum ((columnDies c).map (fun i => if i < 72 then fmean (tap s i).est else (tap s i).good))

/-- The columns that would explain the residual. -/
def returnCandidates (s : State) (x : Returns) : List Nat :=
  (List.range 13).filter (fun c => let est := colEstimate s c; fle (fabs (fsub (x.need c) est)) (fmax (Frac.ofInt 10000) (fmul (frac 1 10) est)))

/-- R381, R405: the values of the last 1 ms. -/
def publishPower (s : State) : State :=
  let s1 := rsetI s Reg.packagePowerMw (fround (inputPower s))
  let s2 := rsetI s1 Reg.inputCurrentMa (fround (meanInt s.power.curHist))
  let s3 := rsetI s2 Reg.coreCurrentMa (fround (meanInt s.power.coreHist))
  let s4 := (List.range 9).foldl (fun s n => rsetI s (Reg.railMv.at n) (fround (meanNat (s.power.railHist.map (fun r => r.getD n 0))))) s3
  (List.range dieCount).foldl (fun s i => rsetI s (Reg.tapPowerMw.at i) (fround (fmean (tap s i).hist))) s4

/-- The averages a check keeps: those of taps that are not open, and, in bounds, those that later estimates use. -/
def keepAverages (s : State) (x : Returns) (good : Bool) : State :=
  (List.range dieCount).foldl (fun s i =>
    let a := x.taps.getD i ⟨0, 1⟩
    setTap s i (fun t => { t with avgs := ((if t.isOpen then none else some a) :: t.avgs).take 1000, good := if good then a else t.good })) s

/-- RETURN_CHECK (R360): the check runs on raw readings; UNRESOLVED raises SENSE_MISMATCH; a column acts after 10 checks out of bounds in a row and
is clear again after 1,000 in bounds; the offset of a broken column is computed anew at every check. -/
def execReturnCheck (s : State) : Host.Outcome State Fault Refusal :=
  let x := returnsNow s
  let good := x.inBounds
  let out := if good then 0 else s.power.outRun + 1
  let inn := if good then s.power.inRun + 1 else 0
  let s1 := keepAverages (publishPower s) x good
  let fresh (c : Column) (i : Nat) : Column := if c.broken then { c with offset := x.off i } else c
  let s2 := setPower s1 (fun p => { p with outRun := out, inRun := inn, columns := p.columns.map (fun c => (c.1, fresh c.2 c.1)) })
  .next (if good then (if 1000 ≤ inn then setPower s2 (fun p => { p with columns := [] }) else s2)
    else
      match returnCandidates s x with
      | [c] =>
        if out < 10 then s2
        else
          let s3 := setPower s2 (fun p => { p with columns := tput p.columns c { broken := true, offset := x.off c } })
          if (column s c).broken then s3 else rinc (notice s3 Code.returnBroken 7 (8 * c) c) (Reg.senseEvents.at 1)
      | _ => rinc (notice s2 Code.senseMismatch 0 0 0) (Reg.senseEvents.at 2))

/-! ### DIE_DEAD (R361) -/

/-- R361: whether a running Last uses a die: a tile by its logical tile's streams, an eyelet die by its lanes, an HBM stack and an I/O die
always. -/
def dieUsed (s : State) (i : Nat) : Bool :=
  match s.last.run with
  | none => false
  | some r =>
    lastRunning s && (if i < 72 then (lastTiles s r.slot r.bucket).any (fun t => physTile s t == i)
      else if i < 92 then true
      else if i < 100 then (usedLanes s r.slot r.bucket).any (fun u => physEyelet s (u.1 / 32) / 4 == i - 92)
      else false)

/-- R361: every welt of a die that has some is down; an HBM stack has none. -/
def weltsDown (s : State) (die : Nat) : Bool := (weltPorts die).all (fun p => (tget {} s.pkg.welts (16 * die + p)).state == .down)

/-- DIE_DEAD (R361, R472, R474): the 100 µs without heartbeat, or without a completed command and a report, have passed; a tile becomes FAILED; another die excludes the package at the next restart boundary. -/
def execDieDead (die : Nat) (s : State) : Host.Outcome State Fault Refusal :=
  .next (if dieCount ≤ die ∨ (tap s die).dead = true ∨ weltsDown s die = false then s
    else
      let used := dieUsed s die
      let s1 := setTap s die (fun t => { t with dead := true })
      let s2 := notice s1 Code.dieDead 7 die 0
      let s3 := if die < 72 then setHealth s2 die .failed else flashCommit { s2 with reset' := { s2.reset' with marks := { s2.reset'.marks with dieDead := true } } } .marks
      if used then stepFault s3 Code.dieDead 7 die none 0 false else s3)

/-! ### The thermal model (R364, R365) -/

/-- An FP32 pattern of a positive finite number, exactly. -/
def f32Frac (n : Nat) : Frac :=
  let e := bits n 30 23
  let m := if e = 0 then bits n 22 0 else 2 ^ 23 + bits n 22 0
  let e1 := max e 1
  if 150 ≤ e1 then Frac.ofInt ((m * 2 ^ (e1 - 150) : Nat) : Int) else frac (m : Int) (2 ^ (150 - e1))

/-- R365: the coolant value in force. -/
def coolantNow (s : State) : Int :=
  let c := rgetI s Reg.coolantInletTemp
  if s.power.coolantStale then max c (rgetI s Reg.coolantFallbackMc) else c

/-- Temperature of a node. -/
def nodeT (s : State) (i : Nat) : Frac := tget ⟨0, 1⟩ s.power.temps i

/-- R364: the new temperature of die i, for dt = 10 µs. -/
def stepNode (s : State) (plate : Frac) (i : Nat) : Frac :=
  let p := (tap s i).hist.headD ⟨0, 1⟩
  let q0 := fsub p (fmul (f32Frac (Config.gPlate i)) (fsub (nodeT s i) plate))
  let q := (Config.neighbours i).foldl (fun q j => fsub q (fmul (f32Frac j.2) (fsub (nodeT s i) (nodeT s j.1)))) q0
  fadd (nodeT s i) (fdiv (fmul (frac 1 100000) q) (f32Frac (Config.cap i)))

/-- MODEL_STEP (R364): every node, from the values before the step. It comes every 10 µs, so it is what the ages of R239 and R365 count. -/
def execModelStep (s : State) : Host.Outcome State Fault Refusal :=
  let plate := fadd (fadd (Frac.ofInt (coolantNow s)) s.power.plateBias) (frac (s.power.inHist.headD 0 * rget s Reg.plateRiseUkPerW) 1000000000)
  .next (setPower { s with optics := { s.optics with ages := s.optics.ages.map (fun a => (a.1, a.2 + 1)) } } (fun p => { p with
    coolantSteps := p.coolantSteps + 1
    temps := (List.range dieCount).map (fun i => (i, stepNode s plate i)) }))

/-- R365: coolant_inlet_temp. -/
def wCoolant (v : Int) (s : State) : Nat × State :=
  if v < 0 ∨ 70000 < v then refuse s Code.valueRefused
  else accept (setPower (rsetI s Reg.coolantInletTemp v) (fun p => { p with coolantSteps := 0, coolantStale := false }))

/-- COOLANT_WRITE (R365). -/
def execCoolantWrite (via : Via) (mc : Int) (s : State) : Host.Outcome State Fault Refusal := .next (doWrite s via 0x1300 1 (wCoolant mc))

/-- COOLANT_STALE (R365). -/
def execCoolantStale (s : State) : Host.Outcome State Fault Refusal :=
  .next (if s.power.coolantStale then s
    else rinc (notice (setPower s (fun p => { p with coolantStale := true })) Code.coolantStale 0 0 0) Reg.coolantStaleEvents)

/-! ### Evaluation (R366, R368 to R372) -/

/-- R366: ring thermometry of eyelet die d. -/
def correctRing (s : State) (d : Nat) (t : Int) : State :=
  let i := 92 + d
  let r := fsub (Frac.ofInt t) (estimate s i)
  setPower s (fun p => { p with
    biases := tput p.biases i (fsub (Frac.ofInt t) (nodeT s i))
    plateBias := fadd p.plateBias (fmul (frac 1 20) r) })

/-- R366: a corner diode or an HBM stack's own report moves the bias toward it by the fraction eval_period / 1 s. -/
def correctDiode (s : State) (i : Nat) (t : Int) : State :=
  if 92 ≤ i then s
  else
    let b := tget ⟨0, 1⟩ s.power.biases i
    let d := fsub (fsub (Frac.ofInt t) (nodeT s i)) b
    setPower s (fun p => { p with biases := tput p.biases i (fadd b (fmul (frac (rget s Reg.evalPeriodUs) 1000000) d)) })

/-- R364: J_i in 0.001 °C, by die; t_max and the lowest die that has it. -/
def junctions (s : State) : List Int := (List.range dieCount).map (fun i => fround (estimate s i))
def hottest (js : List Int) : Nat × Int := js.zipIdx.foldl (fun (m : Nat × Int) e => if m.2 < e.1 then (e.2, e.1) else m) (0, js.headD 0)

def Thermal.code (x : Thermal) : Nat := match x with | .normal => 0 | .warning => 1 | .throttle => 2 | .limit => 3 | .shutdown => 4

/-- R368: the highest state whose set level t has reached. -/
def setState (t : Int) : Thermal :=
  if 110000 ≤ t then .shutdown else if 103000 ≤ t then .limit else if 97000 ≤ t then .throttle else if 90000 ≤ t then .warning else .normal

/-- R368: the state after falling through every state whose clear level lies above t. SHUTDOWN is latched. -/
def fallState (x : Thermal) (t : Int) : Thermal :=
  match x with
  | .shutdown => .shutdown
  | .limit => if 97000 ≤ t then .limit else if 93000 ≤ t then .throttle else if 87000 ≤ t then .warning else .normal
  | .throttle => if 93000 ≤ t then .throttle else if 87000 ≤ t then .warning else .normal
  | .warning => if 87000 ≤ t then .warning else .normal
  | .normal => .normal

/-- R368: the next thermal state. -/
def nextThermal (x : Thermal) (t : Int) : Thermal := if x.code < (setState t).code then setState t else fallState x t

/-- R370, R372: the package stalls; STEP_FAULT while a Last is running. -/
def enterStall (s : State) (code : Nat) : State := stepFaultIfRunning (setPower s (fun p => { p with stalled := true })) code 0 0 0

/-- R368, R370, R372: entry to a state raises its event once. -/
def enterThermal (s : State) (x : Thermal) : State :=
  let s1 := rset (setPower s (fun p => { p with thermal := x, stalled := false })) Reg.thermalState x.code
  match x with
  | .normal => s1
  | .warning => rinc (notice s1 Code.thermalWarning 0 0 0) Reg.warningEvents
  | .throttle => rinc (notice s1 Code.thermalThrottle 0 0 0) Reg.throttleEvents
  | .limit => enterStall (rinc (notice s1 Code.thermalLimit 0 0 0) Reg.limitEvents) Code.thermalLimit
  | .shutdown =>
    let s2 := rinc (notice s1 Code.thermalShutdown 0 0 0) Reg.shutdownEvents
    let s3 := enterStall (emit s2 (.pin 1 false)) Code.thermalShutdown
    setPower s3 (fun p => { p with tripped := true, clearUs := 0 })

/-- R369: the period that t_max selects, in µs. -/
def evalPeriod (t : Int) : Nat := if t < 91000 then 1000 else if t < 97000 then 100 else 10

/-- R369: die_temps_mc, t_max_mc and hottest_die. -/
def publishTemps (s : State) (js : List Int) : State :=
  let h := hottest js
  let s1 := js.zipIdx.foldl (fun s (e : Int × Nat) => rsetI s (Reg.dieTempsMc.at e.2) e.1) s
  rset (rsetI s1 Reg.tMaxMc h.2) Reg.hottestDie h.1

/-- R361: dies that run again may be found dead anew. -/
def aliveAgain (s : State) (which : Nat → Bool) : State :=
  setPower s (fun p => { p with taps := p.taps.map (fun t => (t.1, if which t.1 then { t.2 with dead := false } else t.2)) })

/-- R380: the model's state is mirrored; and a standby copy resumes from the last mirror. -/
def mirrorModel (s : State) : State :=
  setPower s (fun p => { p with mirror := some { temps := p.temps, biases := p.biases, plateBias := p.plateBias } })
def resumeMirror (s : State) : State :=
  match s.power.mirror with
  | some m => setPower s (fun p => { p with temps := m.temps, biases := m.biases, plateBias := m.plateBias })
  | none => s

/-- THERMAL_EVAL (R366, R368, R369, R372): corrections, t_max, the state, the period and the ring heaters. `diodesMc` lists the readings of tiles,
I/O dies and HBM stacks by die. -/
def execThermalEval (diodesMc : List (Nat × Int)) (s : State) : Host.Outcome State Fault Refusal :=
  let s1 := s.power.tStars.foldl (fun s x => correctRing s x.1 x.2) s
  let s2 := diodesMc.foldl (fun s x => correctDiode s x.1 x.2) (setPower s1 (fun p => { p with tStars := [] }))
  let js := junctions s2
  let t := (hottest js).2
  let before := rgetI s Reg.tMaxMc
  let period := rget s Reg.evalPeriodUs
  let s3 := publishTemps s2 js
  let s4 := setPower s3 (fun p => { p with clearUs := if t < 100000 then (if before < 100000 then p.clearUs + period else 0) else 0 })
  let x := nextThermal s.power.thermal t
  let s5 := if x = s.power.thermal then s4 else enterThermal s4 x
  .next (driveHeaters (mirrorModel (rset s5 Reg.evalPeriodUs (evalPeriod t))))

/-! ### The governor (R376 to R378) -/

/-- R377: the ballast of a beat, in mA, for the measured current of the beat before and the model's of the beat. -/
def ballast (mPrev d : Frac) : Frac :=
  let floor := fsub mPrev (Frac.ofInt 5376)
  if flt d floor then fsub floor d else ⟨0, 1⟩

/-- The state after a command that answers a next state. -/
def nextOr (o : Host.Outcome State Fault Refusal) (s : State) : State := match o with | .next t => t | _ => s

/-- R377: the state that the issues of the beat now lead to, which the governor sees before they take effect. -/
def issueAhead (s : State) : State :=
  match s.last.run with
  | none => s
  | some r =>
    if !r.issuing then s
    else (List.range 64).foldl (fun s t =>
      (sortKeys ((unissued s r t).map (fun x => (issueRank (entryIsVec r t) x.2, x.2)))).foldl (fun s x =>
        let w := x.2
        match fld w 63 56 with
        | 1 => nextOr (execPass t (fld w 47 46) (fld w 45 34) s) s
        | 2 => nextOr (execFunc t (fld w 47 38) s) s
        | 3 => nextOr (execCopyRecord t (fld w 47 46) (fld w 45 34) s) s
        | _ => s) s) s

/-- R362: the work that a tile's units have before them and in hand, with the blocks that arrive for it. The beats of a copy with an end outside
the tile, which its DEADLINE counts in the schedule, are put on the beat counter's line. -/
def liveWork (s : State) (t : Nat) : List Work :=
  let x := ptile s (physTile s t)
  let live : Timing := {
    passes := x.arrays.flatMap (fun a => (a.2.streams ++ a.2.pending.toList).map (fun d => (a.1, d)))
    ops := x.rowOps ++ x.vecOps
    copies := ((s.stitch.ctxs.map (·.2)).filter (fun c => c.sched && c.tile == t)).map (fun c => { c with launchBeat := s.clock.beat.toNat + c.launchBeat - nowSched s }) }
  live.work (handleOf s t) ++ x.late.filterMap (fun e => match e.2 with | .inbound _ _ _ => some ⟨e.1, e.1 + 1, 3, 0, 1⟩ | _ => none)

/-- R362, R377: the model's core current of the beat now, in mA, with the coefficients in force. -/
def modelCurrent (s : State) : Frac :=
  let s1 := issueAhead s
  fmul (Frac.ofInt 1000) (coreCurrent (fun i => s.power.coeffs.getD i 0) (rget s Reg.modelCoreMv) ((List.range 64).flatMap (liveWork s1)) s.clock.beat.toNat)

/-- R378: one violation: counted, recorded, and STEP_FAULT during a Last. -/
def violation (s : State) (i code : Nat) (bad : Bool) : State :=
  if bad then stepFaultIfRunning (rinc (notice s code 0 0 s.clock.beat.toNat) (Reg.governorViolations.at i)) code 0 0 s.clock.beat.toNat else s

/-- GOVERNOR_BEAT (R377, R378): the ballast from the last beat's measured current and the model's current of this beat, which the tiles hold up
to ballast_max_a each; then the checks of the measured values. Once SHUTDOWN's taper has ended, the clocks stop (R372). -/
def execGovernorBeat (measuredMa inputMa : Nat) (reversed : Bool) (s : State) : Host.Outcome State Fault Refusal :=
  let want := ballast (Frac.ofInt (s.power.measured.headD 0)) (modelCurrent s)
  let most := Frac.ofInt (72 * 1000 * rget s Reg.ballastMaxA)
  let b := if fle want most then want else most
  let m28 := s.power.measured[27]?
  let slew : Bool := match m28 with
    | some m => decide (150528 < (if m < measuredMa then measuredMa - m else m - measuredMa))
    | none => false
  let stored : Bool := decide (6 * 10 ^ 15 < rget s Reg.storedBaseMj * 2 * 10 ^ 12 + rget s Reg.storeLNh * measuredMa * measuredMa)
  let s1 := setPower s (fun p => { p with ballastMa := b, measured := (measuredMa :: p.measured).take 28, clocksOff := p.clocksOff || (p.tripped && b.num == 0) })
  .next (violation (violation (violation s1 0 Code.slewViolation slew) 1 Code.energyLimit stored) 2 Code.reverseCurrent (reversed && decide (5000 < inputMa)))

/-! ### Outside a Last (R375) -/

/-- R375: p_avg over the 1 ms that ends now. Before the first sample the spec states no value: the command brings it, and it may be any (log 77). -/
def windowMean (s : State) (unsampled : Int) : Frac := if s.power.inHist.isEmpty then Frac.ofInt unsampled else inputPower s

/-- POWER_WINDOW (R374, R375): at a 1 ms boundary outside a Last the request is computed from that 1 ms and applied locally. -/
def execPowerWindow (unsampledMw : Int) (s : State) : Host.Outcome State Fault Refusal :=
  .next (if lastRunning s then s
    else
      let p := windowMean s unsampledMw
      let r := sampleRequest s s.power.localX p
      let past := capExceeded s p
      let fire := past && s.power.capOver && !s.power.capRaised
      let s1 := setPower r.2 (fun q => { q with localX := r.1.1, capOver := past, capRaised := past && (q.capRaised || fire) })
      if fire then raiseCap s1 else s1)

end Sys2Proof.Machine
end

