-- ==== Sys2Proof/Machine/Package.lean ====
section
/-! DEFINITION. Welts (R386 to R391), the stand-alone test of a tile (R393, R394, R407), and rails (R397). Dies are indexed as in R355. -/

namespace Sys2Proof.Machine

/-- Every port as its die leaves reset: those with a partner take a state, the others are UNUSED (R389). -/
def allWelts (s : State) (st : WeltState) : State :=
  (List.range 1616).foldl (fun s i =>
    setWelt s (i / 16) (i % 16) (fun _ => { state := if (weltPartner (i / 16) (i % 16)).isSome then st else .unused })) s

/-! ### Flits received (R387, R388) -/

/-- R387: a flit that a die has accepted: at an I/O die's port to another I/O die, a fabric flit joins that slice's input (R195).
A scheduled granule has its effect where its copy or its block has it (R297, R298; log 71). -/
def weltTake (s : State) (die port : Nat) (f : WeltFlit) : State :=
  if 88 ≤ die && die < 92 && port < 3 then
    let i := die - 88
    let j := ((weltPartner die port).map (·.1)).getD 88 - 88
    let s1 := if wfValid f && wfVc f < 4 && !wfSched f then
        arrive s (inputPort i j) (if wfHead f then none else some (wfVc f, wfClass f)) (bytesOf (f.words.take 8))
      else s
    crossFlits crossFuel s1 i j
  else s

/-- WELT_FLIT_RECEIVED (R387, R388): a CRC mismatch discards the flit and every later one until the replay, and sends NAK in an idle flit; a
flit received before is discarded by its WSEQ. -/
def execWeltFlitReceived (die port : Nat) (f : WeltFlit) (s : State) : Host.Outcome State Fault Refusal :=
  let w := welt s die port
  .next (if !w.carries then s
    else if crc32c (wfBody f.words) ≠ wfCrc f then
      weltSend (setWelt (rinc s (Reg.weltCrcErrors.at (16 * die + port))) die port (fun w => { w with naking := true })) die port {}
    else if wfSeq f ≠ w.rxSeq then s
    else weltTake (onWeltAck (setWelt s die port (fun w => { w with rxSeq := (w.rxSeq + 1) % 256, naking := false })) die port f) die port f)

/-- HEARTBEAT (R388, R391): a die sends a flit on WVC SERVICE through each UP port, head and tail of no packet, with no payload. -/
def execHeartbeat (die : Nat) (s : State) : Host.Outcome State Fault Refusal :=
  .next ((weltPorts die).foldl (fun s p =>
    if (welt s die p).state != .up then s else weltSend s die p { vc := 7, head := true, tail := true, valid := true }) s)

/-! ### Training (R389, R390, R392) -/

/-- R389: what a welt that carries flits again sends first: the flits not acknowledged, which the retry buffer kept, credits that are due, and
what waits to cross. -/
def weltResume (s : State) (die port : Nat) : State :=
  let w := welt s die port
  let s1 := weltCredits 32 (if w.unacked = 0 then s else weltReplay s die port w.acked) die port
  if 88 ≤ die && die < 92 && port < 3 then crossFlits crossFuel s1 (die - 88) (((weltPartner die port).map (·.1)).getD 88 - 88) else s1

/-- WELT_TRAINING_DONE (R389, R392). Lanes that failed are replaced only when at most 4 did; a welt whose ends share no revision stays DOWN. -/
def execWeltTrainingDone (die port failed : Nat) (oneHalf timedOut commonRev : Bool) (s : State) : Host.Outcome State Fault Refusal :=
  let st : WeltState := if !commonRev || timedOut then .down else if failed ≤ 4 then .up else if failed ≤ 32 && oneHalf then .degraded else .down
  .next (if (welt s die port).state = .training then
      let s1 := setWeltPair s die port (fun w => { w with
        state := st, repaired := if st = .up then failed else 0, replayed := none, failedReplays := 0
        fails := if st = .down then w.fails + 1 else 0, noRev := !commonRev })
      match weltPartner die port with
      | some q => if st = .down then s1 else weltResume (weltResume s1 die port) q.1 q.2
      | none => s1
    else s)

/-- A bring-up is in progress, or one has ended: the switched domain has power. -/
def poweredUp (s : State) : Bool :=
  match s.reset'.boot with
  | .dies => true
  | .memory => true
  | .map => true
  | .ready => true
  | .excluded => true
  | _ => false

/-- R389: the dies have power and are out of reset. -/
def diesRun (s : State) : Bool := s.reset'.pwrOk && !s.reset'.held && poweredUp s

/-- WELT_RETRY (R389): both dies are powered and out of reset, and share a revision (R392). -/
def execWeltRetry (die port : Nat) (s : State) : Host.Outcome State Fault Refusal :=
  .next (if (welt s die port).state = .down ∧ (welt s die port).noRev = false ∧ diesRun s = true then
      setWeltPair s die port (fun w => { w with state := .training })
    else s)

/-- WELT_RETRAIN (R389): once 16 consecutive replays of one flit have failed; the retry buffers stay; STEP_FAULT while a Last is RUNNING. -/
def execWeltRetrain (die port : Nat) (s : State) : Host.Outcome State Fault Refusal :=
  let w := welt s die port
  .next (if w.carries ∧ 16 ≤ w.failedReplays then
      stepFaultIfRunning (setWeltPair s die port (fun w => { w with state := .training, naking := false })) 0 6 (16 * die + port) 0
    else s)

/-! ### Self-test (R393, R394, R407) -/

/-- The logical tile that a physical tile serves. -/
def logicalOf (s : State) (p : Nat) : Option Nat := (List.range 64).find? (fun t => physTile s t == p)

/-- R394, R478: the tile serves a logical tile of a Last that is ARMED or RUNNING. -/
def tileServes (s : State) (p : Nat) : Bool :=
  match s.last.run with
  | some r => lastArmed s && (lastTiles s r.slot r.bucket).any (fun t => physTile s t == p)
  | none => false

/-- R478: a tile is fenced: its windows close. -/
def fenceTile (s : State) (p : Nat) : State :=
  let s1 := if (ptile s p).health = .failed then s else setHealth s p .fenced
  match logicalOf s p with
  | some t => setLtile s1 t (fun l => { l with windows := l.windows.map (fun w => (w.1, w.2 &&& ~~~((1 : Word) <<< 63))) })
  | none => s1

/-- R394: a field test starts: the tile is fenced, its neighbours take the shared welts to LOOPBACK, its tables are cleared. -/
def startSelftest (s : State) (p : Nat) : State :=
  let s1 := fenceTile { s with pkg := { s.pkg with testing := some p } } p
  let s2 := (List.range 4).foldl (fun s q => setWeltPair s p q (fun w => { w with state := .loopback })) s1
  match logicalOf s p with
  | some t => setLtile s2 t (fun l => { l with handles := [], windows := [] })
  | none => s2

/-- R394: welt_selftest. -/
def wWeltSelftest (p : Nat) (s : State) : Nat × State :=
  if 71 < p ∨ s.pkg.testing.isSome = true ∨ tileServes s p = true then refuse s Code.valueRefused else accept (startSelftest s p)

/-- WELT_SELFTEST (R394). -/
def execWeltSelftest (via : Via) (phys : Nat) (s : State) : Host.Outcome State Fault Refusal := .next (doWrite s via 0x3020 5 (wWeltSelftest phys))

/-- R407: selftest_result. -/
def selftestWord (p result : Nat) (r : SelfTest) : Nat :=
  at' p 8 24 + at' result 4 20 + at' r.ports 4 16 + at' r.banks.toNat 1 15 + at' r.arrays.toNat 1 14 + at' r.tables.toNat 1 13 + at' r.zero.toNat 1 12

/-- R393, R394: what the test leaves in the tile: zero in every bank when the read-back passes; else, and in array storage, values no rule gives
(free, log 3). -/
def testedTile (s : State) (p : Nat) (zeroOk : Bool) (h : Health) : State :=
  let s1 := setPtile { s with draws := s.draws + 14 } p (fun x => looseTile x s.draws (!zeroOk))
  setHealth s1 p h

/-- R389, R394: a welt of the tested tile retrains; STEP_FAULT while a Last is RUNNING, marked where the test is an injection's (R500). -/
def retrainTested (s : State) (p q : Nat) : State :=
  let s1 := setWeltPair s p q (fun w => { w with state := .training, naking := false, replayed := none, failedReplays := 0 })
  if lastRunning s1 then stepFault s1 0 6 (16 * p + q) none 0 (injectionOn s 4 p) else s1

/-- R394, R472: the end of a test: a passing tile is unfenced, may be found dead anew, and its welts retrain; a failing one is FAILED and its welts
stay down. In the test of every die the welts stay in LOOPBACK until it ends (log 87). -/
def endSelftest (s : State) (p : Nat) (r : SelfTest) : State :=
  let ok := r.ports % 16 == 0 && !r.banks && !r.arrays && !r.tables && !r.zero
  let s1 := testedTile { s with pkg := { s.pkg with testing := none } } p (!r.zero) (if ok then .healthy else .failed)
  let s2 := rset (if ok then aliveAgain s1 (· == p) else s1) Reg.selftestResult (selftestWord p (if ok then 1 else 2) r)
  if s.reset'.boot = .dies then s2
  else (List.range 4).foldl (fun s q => if ok then retrainTested s p q else
    setWeltPair s p q (fun w => { w with state := .down, naking := false, replayed := none, failedReplays := 0 })) s2

/-- R393, R400: a test that waits begins: one that try-on asked for while another ran (R499, log 85), or that of the next die; after the last of
those the welts leave LOOPBACK (log 87). -/
def nextSelftest (s : State) : State :=
  match s.pkg.testNext with
  | p :: ps =>
    if s.reset'.boot = .dies then { s with pkg := { s.pkg with testing := some p, testNext := ps } }
    else startSelftest { s with pkg := { s.pkg with testNext := ps } } p
  | [] =>
    if s.reset'.boot = .dies then
      { s with pkg := { s.pkg with welts := s.pkg.welts.map (fun w => (w.1, if w.2.state = .loopback then { w.2 with state := .training } else w.2)) } }
    else s

/-- SELFTEST_DONE (R393, R394, R407). -/
def execSelftestDone (r : SelfTest) (s : State) : Host.Outcome State Fault Refusal :=
  .next (match s.pkg.testing with
    | some p => fenceInjectionDone (nextSelftest (endSelftest s p r))
    | none => s)

/-- R394: RST_N abandons a test, and those that wait; the tile stays fenced. -/
def abortSelftest (s : State) : State :=
  match s.pkg.testing with
  | some p => rset { s with pkg := { s.pkg with testing := none, testNext := [] } } Reg.selftestResult (selftestWord p 3 ⟨0, false, false, false, false⟩)
  | none => s

/-! ### Rails (R397) -/

/-- RAIL_FAULT (R397, R405, R474): a rail whose last sample lies above, or below, its static tolerance. -/
def execRailFault (rail : Nat) (high : Bool) (s : State) : Host.Outcome State Fault Refusal :=
  .next (if s.reset'.pwrOk = false ∨ 9 ≤ rail ∨ rget s (Reg.railStatus.at rail) ≠ (if high then 2 else 1) then s
    else
      let s1 := flashCommit { s with reset' := { s.reset' with marks := { s.reset'.marks with railFault := true } } } .marks
      let s2 := rinc (notice s1 Code.railFault 9 rail 0) (Reg.railFaults.at rail)
      stepFaultIfRunning s2 Code.railFault 9 rail 0)

end Sys2Proof.Machine
end

