-- ==== Sys2Proof/Machine/FaultsRb.lean ====
section
/-! DEFINITION. Faults across a job, rollback and restore (R483 to R495), epochs, witnesses and reports (R480, R497, R498), and try-on
(R499, R500). -/

namespace Sys2Proof.Machine

/-! ### FAULT (R483) -/

/-- R484: whether a packet is a well-formed CONTROL packet of a kind. -/
def isControl (p : Packet) (kind : Nat) : Bool := p.kind == kControl && p.wellFormed && p.len == 1 && fld (p.pay 0) 63 56 == kind

/-- R484: what the FAULT of a participant reports. -/
def peerFaultOf (p : Packet) : PeerFault :=
  { chip := p.src
    stepA := if bit (p.pay 4) 63 then some (fld (p.pay 3) 63 32) else none
    stepB := if bit (p.pay 4) 62 then some (fld (p.pay 3) 31 0) else none
    faultStep := fld (p.pay 1) 31 0
    faultBeat := (p.pay 5).toNat }

/-- Keep what a participant reported; a later FAULT of one chip replaces its earlier one. -/
def keepPeerFault (s : State) (x : PeerFault) : State :=
  { s with faults := { s.faults with peers := s.faults.peers.filter (fun y => y.chip != x.chip) ++ [x] } }

/-- R483: a FAULT names the launch that is ARMED or RUNNING. -/
def faultMatches (s : State) (p : Packet) : Bool :=
  match s.last.run with
  | some r => lastArmed s && fld (p.pay 1) 63 32 == generationOf s r.slot && (p.pay 2).toNat == setDigestOf s r.slot
  | none => false

/-- FAULT (R483). -/
def execFault (p : Packet) (s : State) : Host.Outcome State Fault Refusal :=
  .next (if p.kind ≠ kControl then s
    else if !isControl p 4 then rinc s Reg.routeDrops
    else if faultMatches s p then
      let s1 := stepFault s Code.stepFault 0 0 (some (fld (p.pay 0) 43 32)) 0 false
      if faultable s then keepPeerFault s1 (peerFaultOf p) else s1
    else if s.faults.rollback = .faulted then keepPeerFault s (peerFaultOf p)
    else rinc s (Reg.faultCounts.at Code.stepFault))

/-! ### The end of a launch that faulted (R318, R491, R493) -/

/-- R318, R493: the slot is released: LOADED, and LAUNCH completes STEP_FAULT. -/
def releaseLaunch (s : State) : State :=
  match s.last.run with
  | some r => if runState s = .faulted then endRun (faultCleanup s) r { status := Code.stepFault, beat := some s.clock.beat.toNat } else s
  | none => s

/-- R491, R513: the rollback is ABANDONED: the log freezes if it should, the slot is released, and the state is NONE. -/
def abandonRollback (s : State) : State :=
  let s1 := { s with faults := { s.faults with rollback := .abandoned, restore := none, peers := [] } }
  let s2 := if (rget s Reg.treadAutofreeze).testBit 0 then treadFreezeOp s1 else s1
  let s3 := releaseLaunch s2
  rollbackInjectionDone { s3 with faults := { s3.faults with rollback := .none } }

/-! ### The coordinator (R492) -/

/-- R492: the coordinator: the lowest participant whose FAULT is held. -/
def coordinator (s : State) (r : Run) : Option Nat :=
  ((s.faults.peers.filter (fun x => (participants s r.slot).contains x.chip)).map (·.chip)).foldl (fun (m : Option Nat) c => some (min c (m.getD c))) none

/-- R492: what is held of every participant. -/
def allFaults (s : State) (r : Run) : Bool := (participants s r.slot).all (fun c => s.faults.peers.any (fun x => x.chip == c))

/-- R492: the newest step that is COMPLETE in a local slot of every participant. -/
def restartStep (s : State) (r : Run) : Option Nat :=
  let ps := s.faults.peers.filter (fun x => (participants s r.slot).contains x.chip)
  let cands := match ps with
    | x :: _ => x.stepA.toList ++ x.stepB.toList
    | [] => []
  (cands.filter (fun k => ps.all (fun x => x.stepA == some k || x.stepB == some k))).foldl
    (fun (m : Option Nat) k => match m with | none => some k | some y => if newer 32 k y then some k else some y) none

/-- R492: the greatest FAULT_BEAT. -/
def greatestBeat (s : State) : Nat := (s.faults.peers.map (·.faultBeat)).foldl max 0

/-- R484, R492: ROLLBACK to every other participant. -/
def sendRollback (s : State) (r : Run) (step : Nat) (abandon : Bool) : State :=
  ((participants s r.slot).filter (· != ownChip s)).foldl (fun s c =>
    sendControl s c (faultPayload s r 5 0 0 (rget s Reg.stepNumber) step 0 true false abandon (greatestBeat s))) s

/-- R491 to R493: a package acts on a ROLLBACK to step S: RESTORING. FAULT_BEAT counts from the launch beat of the launch that faulted; the
relaunch begins at step S (log 44). A rollback that follows from an injection alone is not counted (R500). -/
def actRollback (s : State) (r : Run) (step faultStep faultBeat : Nat) : State :=
  let bc : Int := beatCount s r.slot r.bucket
  let passed := signed 32 ((step + 2 ^ 32 - r.firstStep % 2 ^ 32) % 2 ^ 32) * bc
  let s1 := { s with faults := { s.faults with
    rollback := .restoring
    peers := []
    lastS := some step
    sameS := if s.faults.lastS = some step then s.faults.sameS + 1 else 1
    faultBeat := ((faultBeat : Int) - passed).toNat } }
  let s2 := restoreBegin s1 step (ownChip s) (snapSlotBase s (rget s Reg.localArea) step)
  if s.faults.injectedFault then s2 else radd (rinc s2 Reg.rollbacks) Reg.stepsRerun ((faultStep + 1 + 2 ^ 32 - step % 2 ^ 32) % 2 ^ 32)

/-- COORDINATOR_ROLLBACK (R492). -/
def execCoordinatorRollback (s : State) : Host.Outcome State Fault Refusal :=
  .next (match s.last.run with
    | none => s
    | some r =>
      if s.faults.rollback ≠ .faulted ∨ coordinator s r ≠ some (ownChip s) ∨ allFaults s r = false then s
      else
        match restartStep s r with
        | none => abandonRollback (sendRollback s r 0 true)
        | some k =>
          if s.faults.lastS = some k ∧ rget s Reg.rollbackLimit ≤ s.faults.sameS then abandonRollback (sendRollback s r k true)
          else actRollback (sendRollback s r k false) r k (rget s Reg.stepNumber) (greatestBeat s))

/-- ROLLBACK (R491, R492): only a ROLLBACK of the coordinator acts. -/
def execRollback (p : Packet) (s : State) : Host.Outcome State Fault Refusal :=
  .next (if p.kind ≠ kControl then s
    else if !isControl p 5 then rinc s Reg.routeDrops
    else
      match s.last.run with
      | none => s
      | some r =>
        if s.faults.rollback ≠ .faulted ∨ coordinator s r ≠ some p.src then s
        else if bit (p.pay 4) 61 then abandonRollback s
        else actRollback s r (fld (p.pay 3) 63 32) (fld (p.pay 1) 31 0) (p.pay 5).toNat)

/-- ROLLBACK_WAIT_EXPIRY (R491, R492): the coordinator that lacks a FAULT abandons for everyone. -/
def execRollbackWaitExpiry (s : State) : Host.Outcome State Fault Refusal :=
  .next (if s.faults.rollback ≠ .faulted then s
    else
      match s.last.run with
      | none => abandonRollback s
      | some r => abandonRollback (if coordinator s r = some (ownChip s) then sendRollback s r 0 true else s))

/-! ### Restoring (R493, R495) -/

/-- R493: the covered state of step k is rewritten from a copy, handle tables among it. `s0` is the state whose copy is read. -/
def restoreCovered (s0 : State) (chip base k : Nat) : State :=
  let s1 := (List.range 64).foldl (fun s t =>
    let h := copyTable s0 chip base t
    setLtile s t (fun l => { l with handles := h, dirty := h.map (fun h => (h.1, 3)) })) s0
  let hs := copyHandles s0 chip base
  let s2 := (handlePlaces handlesAt hs).foldl (fun s x =>
    (List.range (hSize x.2.2.2)).foldl (fun s g => scratchWrite s x.2.1 (resolve x.2.2.2 (64 * g)) (copyBytes s0 chip base (x.1 + 64 * g) 64)) s) s1
  (rangePlaces (rangesAt hs) (coveredRanges s0 k)).foldl (fun s x => hbmWrite s x.2.1 (copyBytes s0 chip base x.1 x.2.2)) s2

/-- R39, R493, R495: a restore of step k is complete: the covered state, the step number and its extended value are the copy's, a slot still FAULTED is
released, and the package waits for the relaunch. -/
def restored (s : State) (k chip base : Nat) : State :=
  let w := copyWord s chip base
  let s1 := rset (rset (restoreCovered s chip base k) Reg.stepNumber k) Reg.stepNumberExt (w 1).toNat
  let s2 := releaseLaunch (rset s1 Reg.rollbackStep k)
  injectionDone { s2 with faults := { s2.faults with
    rollback := .armedReplay
    restore := none
    restoreGot := []
    relaunch := if w 2 = 0 ∧ w 3 = 0 then none else some (fld (w 0) 54 51)
    replayPos := copyTreadPos s chip base } } 5 0

/-- RESTORE_DONE (R491, R493): the restore of RESTORING ends, once no READ of the buddy copy is out; it fails where a line can be read from neither
copy. -/
def execRestoreDone (ok : Bool) (s : State) : Host.Outcome State Fault Refusal :=
  .next (match s.faults.rollback, s.faults.restore with
    | .restoring, some (k, chip, base) =>
      if s.faults.restoreOut ≠ 0 then s
      else if !ok ∨ s.faults.restoreBad ≠ 0 then abandonRollback s
      else restored s k chip base
    | _, _ => s)

/-- R485, R495: a header at `base` holds step k, COMPLETE. -/
def headerHolds (s : State) (base k : Nat) : Bool :=
  let w := hbmWord s base
  fld w 63 56 == 1 && bit w 55 && fld w 31 0 == k && !poisoned s base 64

/-- R495: the base of the slot of an area that holds step k. What another member's slots hold is no state of this package: whether the write finds one is
free (log 46), and the READs of the restore look at its header again. -/
def restoreSlot (s : State) (chip area k : Nat) : Option Nat :=
  if chip = ownChip s then
    ([0, 1].map (fun i => area + i * snapSlotBytes s)).find? (fun b => decide (b + 64 ≤ hbmBytes) && headerHolds s b k)
  else if Config.freeBool s.draws then some (snapSlotBase s area k) else none

/-- snapshot_restore (R495). -/
def wSnapshotRestore (v : List Byte) (s : State) : Nat × State :=
  let chip := fld (wordAt v 0) 63 52
  let k := fld (wordAt v 0) 31 0
  if v.length ≠ 16 then refuse s Code.lengthMismatch
  else if lastArmed s = true ∨ (chip ≠ ownChip s ∧ groupMember s chip = false) then refuse s Code.valueRefused
  else
    let s1 := if chip = ownChip s then s else { s with draws := s.draws + 1 }
    match restoreSlot s chip (wordAt v 1).toNat k with
    | none => refuse s1 Code.valueRefused
    | some b => accept (restoreBegin (rset s1 Reg.restoreStatus 0x100) k chip b)

/-- SNAPSHOT_RESTORE (R495). -/
def execSnapshotRestore (via : Via) (v : List Byte) (s : State) : Host.Outcome State Fault Refusal := .next (doWrite s via 0x7000 0x12 (wSnapshotRestore v))

/-- SNAPSHOT_RESTORE_DONE (R495): once no READ is out, restore_status reports the outcome; a restore that has succeeded enters ARMED_REPLAY, and one
that failed changes no state. -/
def execSnapshotRestoreDone (ok : Bool) (s : State) : Host.Outcome State Fault Refusal :=
  .next (match s.faults.restore with
    | some (k, chip, base) =>
      let bad := if s.faults.restoreBad ≠ 0 then s.faults.restoreBad else Code.memPoison
      if s.faults.rollback = .restoring ∨ s.faults.restoreOut ≠ 0 then s
      else if !ok ∨ s.faults.restoreBad ≠ 0 then rset { s with faults := { s.faults with restore := none, restoreGot := [] } } Reg.restoreStatus (0x200 + bad)
      else restored (rset { s with faults := { s.faults with peers := [], faultBeat := 0 } } Reg.restoreStatus 0x200) k chip base
    | none => s)

/-! ### Replay (R494, R518) -/

/-- R511: the record at a place of a log that was copied into memory. -/
def parseTread (s : State) (base off : Nat) : TreadRec :=
  let w (i : Nat) : Word := hbmWord s (base + off + 8 * i)
  let n := fld (w 1) 31 0
  { pos := off, kind := fld (w 1) 63 56, src := fld (w 1) 55 44, queue := fld (w 1) 43 35
    sched := if (w 2).toNat = 2 ^ 64 - 1 then none else some (w 2).toNat
    beat := (w 0).toNat, arg := (w 3).toNat, payload := hbmRead s (base + off + 32) n }

/-- Bytes that a record takes. -/
def treadSize (r : TreadRec) : Nat := 32 + (r.payload.length + 31) / 32 * 32

/-- The records of a copied log from a place on. -/
def parseLog (s : State) (base len : Nat) : Nat → Nat → List TreadRec
  | 0, _ => []
  | n + 1, off =>
    if len < off + 32 then []
    else
      let r := parseTread s base off
      r :: parseLog s base len n (off + treadSize r)

/-- The log that the launch in progress re-applies: the ring, or the copied log of a bench run. -/
def replayLog (s : State) (r : Run) : List TreadRec :=
  match r.bench, s.trace.bench with
  | true, some (base, len) => parseLog s base len (len / 32) 0
  | _, _ => s.trace.tread.filter (fun x => s.faults.replayPos ≤ x.pos)

/-- The STEP record of the launch's first step, where its inputs begin (log 44). -/
def replayOrigin (s : State) (r : Run) : Option TreadRec := (replayLog s r).find? (fun x => x.kind == 6 && x.arg % 2 ^ 32 == r.firstStep % 2 ^ 32)

/-- The next record to re-apply. -/
def replayNext (s : State) (r : Run) : Option TreadRec :=
  let from' := max s.trace.replayAt (match replayOrigin s r with | some x => x.pos | none => 0)
  (replayLog s r).find? (fun x => from' ≤ x.pos)

/-- The record's schedule beat, counted from the launch beat of the replay, has come. -/
def replayDue (s : State) (r : Run) (x : TreadRec) : Bool :=
  match x.sched with
  | none => true
  | some b => b - (match replayOrigin s r with | some o => o.sched.getD 0 | none => 0) ≤ nowSched s

/-- R494: a logged request is performed, without acknowledgement. -/
def replayRequest (s : State) (x : TreadRec) : State :=
  let p : Packet := { hdr := wordsOf x.payload 8, payload := x.payload.drop 64 }
  let t := if p.wellFormed then translateRequest s (p.src % 4) p else ((Code.reservedSet, 0, []), s)
  (performRequest t.2 { seq := p.seq, pkt := p, stampUs := 0, status := t.1.1, reason := t.1.2.1, phys := t.1.2.2 }).2

/-- R494: a logged COPY or FILL is run again with no record and no signal. -/
def replayCopy (s : State) (ws : List Word) : State :=
  let va := (nth ws 1).toNat
  let t := fld (nth ws 2) 63 58
  let st := fld (nth ws 2) 57 56
  if va % 256 ≠ 0 then s
  else
    match translate s (4 * t + st) va false { read := true } with
    | (.error _, s1) => s1
    | (.ok x, s1) =>
      if (match x with | .hbm a => tilePoisoned s1 (physTile s1 t) a 256 | _ => false) then s1 else
      let c := blockCopy s1 (locRead s1 x 256) t st false
      let c := { c with sd := c.sd.set 1 (nth c.sd 1 &&& ~~~((1 : Word) <<< 63)), mprio := fld (nth ws 0) 53 52 }
      startBlock (bankReads s1 256 [x]) c ((fld (nth ws 0) 63 56 == 4) != c.isFill)

/-- The queue context of a logged COPY or FILL is taken. -/
def replayBlocked (s : State) (x : TreadRec) : Bool :=
  let ws := wordsOf x.payload 8
  let op := fld (nth ws 0) 63 56
  x.kind == 3 && (op == 3 || op == 4) && (ctxOf s (ctxKey false false (fld (nth ws 2) 63 58) (fld (nth ws 2) 57 56))).isSome

/-- R494: the logged start of the command that a completion record belongs to. -/
def startOf (s : State) (r : Run) (x : TreadRec) : Option (List Word) :=
  let id := fld (wordAt x.payload 0) 63 32
  let op := fld (wordAt x.payload 0) 22 15
  (((replayLog s r).filter (fun y => y.kind == 3 && y.queue == x.queue && y.pos < x.pos && fld (wordAt y.payload 0) 31 0 == id
    && fld (wordAt y.payload 0) 63 56 == op)).getLast?).map (fun y => wordsOf y.payload 8)

/-- R494: the value that a logged TIMESTAMP or REDUCE_SCALAR wrote is written again. -/
def replayDone (s : State) (r : Run) (x : TreadRec) : State :=
  let w0 := wordAt x.payload 0
  let v := (wordAt x.payload 3).toNat
  let put (va : Nat) (bs : List Byte) : State := (engineWrite s (x.queue % 512) va bs).2
  if fld w0 14 7 ≠ Code.ok then s
  else
    match startOf s r x with
    | none => s
    | some ws =>
      if fld w0 22 15 = 0xA then put (nth ws 1).toNat (leBytes 8 v)
      else if fld w0 22 15 = 9 then put (nth ws 3).toNat (leBytes (ltBytes (fld (nth ws 1) 53 52)) v)
      else s

/-- R494: what a logged record does in REPLAYING. -/
def replayRecord (s : State) (r : Run) (x : TreadRec) : State :=
  let op := fld (wordAt x.payload 0) 63 56
  match x.kind with
  | 1 => replayRequest s x
  | 2 => (laceReceive s (wordsOf x.payload 8) false).getD s
  | 3 =>
    if x.queue = 511 then s
    else if op = 3 ∨ op = 4 then replayCopy s (wordsOf x.payload 8)
    else if op = 6 then signalWrite s (wordsOf x.payload 8)
    else s
  | 4 => if x.queue ≠ 511 then replayDone s r x else s
  | _ => s

/-- TREAD_REPLAY_INPUT (R494): in REPLAYING, the next logged input whose schedule beat has come. -/
def execTreadReplayInput (s : State) : Host.Outcome State Fault Refusal :=
  .next (match s.last.run with
    | none => s
    | some r =>
      if s.faults.rollback ≠ .replaying then s
      else
        match replayNext s r with
        | none => s
        | some x =>
          if !replayDue s r x || replayBlocked s x then s
          else replayRecord { s with trace := { s.trace with replayAt := x.pos + treadSize x } } r x)

/-- R494: a command that is started again after REPLAYING: any in flight of a tenant queue but LOAD_LAST and LAUNCH. -/
def startsAgain (q : Nat) (f : Flight) : Bool := let op := fld (nth f.words 0) 63 56; q != 511 && op != 1 && op != 2

/-- R494, R350: a lace operation keeps its OP_SEQ and what it holds, and tells its value again; one whose fold was written writes it again. -/
def laceAgain (s : State) (q : Nat) (f : Flight) : State :=
  let set := fld (nth f.words 1) 63 58
  match laceOpOf s set q f.id, f.result with
  | some o, _ =>
    (match o.held.find? (fun h => h.1 == ownChip s) with
     | some h => laceTell s set o h.2
     | none => s)
  | none, some r => if r.status = Code.ok ∧ fld (nth f.words 0) 63 56 = 9 then (engineWrite s q (nth f.words 3).toNat (leBytes (ltBytes (fld (nth f.words 1) 53 52)) r.value)).2 else s
  | none, none => s

/-- R494: a command that had not completed is started again: its copy is abandoned, it takes its place for a context anew, and its meaning is still to
begin. -/
def startAgain (s : State) (q : Nat) (f : Flight) : State :=
  let op := fld (nth f.words 0) 63 56
  if op = 8 ∨ op = 9 then laceAgain s q f
  else
    let s1 := modFlight s q f.id (fun f => { f with begun := false, result := startResult s q f.words })
    let s2 := { s1 with stitch := { s1.stitch with
      ctxs := s1.stitch.ctxs.filter (fun c => c.2.origin != some (q, f.id))
      waiting := s1.stitch.waiting.map (fun w => (w.1, w.2.filter (· != (q, f.id)))) } }
    if (startResult s q f.words).isSome then s2 else takePlace s2 q f.id f.words

/-- R494: after REPLAYING, the commands in flight are started again in start order. -/
def restartFlights (s : State) : State :=
  let fs := s.queues.queues.flatMap (fun q => (q.2.flights.filter (startsAgain q.1)).map (fun f => (f.beat, q.1, f)))
  (sortKeys fs).foldl (fun s x => startAgain s x.2.1 x.2.2) s

/-- REPLAY_END (R491, R494, R518): FAULT_BEAT is passed, or the launch has ended; a bench run stays for its whole launch. -/
def execReplayEnd (s : State) : Host.Outcome State Fault Refusal :=
  .next (if s.faults.rollback ≠ .replaying then s
    else
      let past := match s.last.run with
        | none => true
        | some r => !r.bench && decide (s.faults.faultBeat < nowSched s)
      if !past then s else rollbackInjectionDone (restartFlights { s with faults := { s.faults with rollback := .none } }))

/-! ### Epochs, witnesses and reports (R480, R497, R498) -/

/-- fault_epoch (R497, R498, R39, R510). -/
def wFaultEpoch (v : Nat) (s : State) : Nat × State :=
  if !newer 32 v (rget s Reg.faultEpoch) then refuse s Code.valueRefused
  else
    let ext := extend 32 s.faults.epochExt v
    let s1 := rset { s with faults := { s.faults with epochExt := ext, held := [], reported := [], acked := [] } } Reg.faultEpoch v
    let s2 := traceGeneration s1 2 ext
    accept (treadLog s2 7 (ownChip s2) 0 ext [])

/-- FAULT_EPOCH_WRITE (R497). -/
def execFaultEpochWrite (via : Via) (v : Nat) (s : State) : Host.Outcome State Fault Refusal := .next (doWrite s via 0x7000 1 (wFaultEpoch v))

/-- fault_ack (R498). -/
def wFaultAck (chip : Nat) (s : State) : Nat × State :=
  if 0xF7F < chip then refuse s Code.valueRefused
  else accept { s with faults := { s.faults with held := s.faults.held.filter (fun h => h.chip != chip), acked := if s.faults.acked.contains chip then s.faults.acked else s.faults.acked ++ [chip] } }

/-- FAULT_ACK (R498). -/
def execFaultAck (via : Via) (chip : Nat) (s : State) : Host.Outcome State Fault Refusal := .next (doWrite s via 0x7000 2 (wFaultAck chip))

/-- R498: when a holdoff ends, in ps of the beat clock: 2 ms × rank after the raise. -/
def holdoffEnd (h : HeldReport) : Nat := h.beat * 35840 + h.rank * 2000000000

/-- REPORT_HOLDOFF_EXPIRY (R498): the held report whose holdoff ends first is made. -/
def execReportHoldoffExpiry (s : State) : Host.Outcome State Fault Refusal :=
  .next (match s.faults.held with
    | [] => s
    | x :: xs =>
      let h := xs.foldl (fun m y => if holdoffEnd y < holdoffEnd m then y else m) x
      report { s with faults := { s.faults with held := s.faults.held.erase h } } h.code)

/-- R480: the received lanes whose accepted beacon names a chip. -/
def lanesNaming (s : State) (chip : Nat) : List Nat := (s.lanes.filter (fun l => lanePartner l.2 == some chip)).map (·.1)

/-- PEER_LOST (R480): every lane that names the chip is DOWN. -/
def execPeerLost (chip : Nat) (s : State) : Host.Outcome State Fault Refusal :=
  let ls := lanesNaming s chip
  .next (if ls.isEmpty ∨ ls.any (fun l => laneStatus s (l / 32) (reverseLane (l / 32) (l % 32)) != .down) = true then s
    else raise s { code := Code.peerLost, failed := some chip })

/-! ### Try-on (R499, R500) -/

/-- R499: how many units an injection kind has; 0 for a reserved kind. -/
def injectUnits (kind : Nat) : Nat := match kind with | 1 => 1024 | 2 => 1024 | 3 => 8 | 4 => 72 | 5 => 1 | _ => 0

/-- An injection is armed. -/
def armInjection (s : State) (kind unit atBeat : Nat) : State :=
  { s with faults := { s.faults with injects := s.faults.injects ++ [{ kind := kind, unit := unit, atBeat := atBeat }] } }

/-- TRY_ON (R499). -/
def execTryOn (queue id : Nat) (s : State) : Host.Outcome State Fault Refusal :=
  .next (runCommand s queue id 0x11 (fun s f =>
    let kind := fld (nth f.words 1) 63 56
    let unit := fld (nth f.words 1) 55 40
    let b := (nth f.words 2).toNat
    if injectUnits kind = 0 then finish' s queue id { status := Code.reservedSet }
    else if injectUnits kind ≤ unit ∨ (b ≠ 0 ∧ lastRunning s = false) then finish' s queue id { status := Code.valueRefused }
    else finish' (armInjection s kind unit b) queue id {}))

/-- TRYON_TIMER (R499): the kinds of tryon_kinds in turn, rotating through their units. -/
def execTryonTimer (s : State) : Host.Outcome State Fault Refusal :=
  let ks := [1, 2, 3, 4, 5].filter (fun n => (rget s Reg.tryonKinds).testBit (n - 1))
  let n := s.faults.tryonNext
  .next (if rget s Reg.tryonIntervalS = 0 then s
    else
      match ks[n % max 1 ks.length]? with
      | none => s
      | some k => armInjection { s with faults := { s.faults with tryonNext := n + 1 } } k (n / ks.length % injectUnits k) 0)

/-- R499: whether an armed injection may fire now. -/
def injectDue (s : State) (i : Injection) : Bool :=
  !i.fired && (i.atBeat == 0 || (lastRunning s && decide (i.atBeat ≤ nowSched s)))

/-- R499: what an injection does. -/
def fireInjection (s : State) (i : Injection) : State :=
  let e := physEyelet s (i.unit / 32)
  match i.kind with
  | 1 => setLane s e (i.unit % 32) (fun l => { l with injectBlock := true })
  | 2 => setLane s e (i.unit % 32) (fun l => { l with dropAckUntil := s.clock.beat.toNat + 2 })
  | 3 =>
    let x := eyeDie s i.unit
    let input := match x.sel with | .onB => 1 | .toB => 1 | _ => 0
    loseInput (setEye s i.unit (fun y => { y with forced := some (input, s.clock.beat.toNat + 27902) })) i.unit input true
  | 4 =>
    let used := lastRunning s && tileServes s i.unit
    let s1 := if s.pkg.testing.isSome then { fenceTile s i.unit with pkg := { (fenceTile s i.unit).pkg with testNext := s.pkg.testNext ++ [i.unit] } } else startSelftest s i.unit
    if used then stepFault s1 0 7 i.unit none 0 true else s1
  | _ => if s.last.run.isSome then stepFault s 0 0 0 none 0 true else injectionDone (stepFault s 0 0 0 none 0 true) 5 0

/-- TRYON_INJECT (R499): the first injection that is due fires; none does while a rollback or a tenant change runs. -/
def execTryonInject (s : State) : Host.Outcome State Fault Refusal :=
  .next (if s.faults.rollback ≠ .none ∨ clearing s = true then s
    else
      match s.faults.injects.find? (injectDue s) with
      | none => s
      | some i =>
        let s1 := { s with faults := { s.faults with injects := { i with fired := true } :: s.faults.injects.erase i } }
        fireInjection (rinc s1 (Reg.tryonCounts.at (3 * (i.kind - 1)))) i)

/-- R482: unit kind and unit of what an injection targets. -/
def injectUnit (i : Injection) : Nat × Nat := match i.kind with | 1 => (4, i.unit) | 2 => (4, i.unit) | 3 => (5, i.unit) | 4 => (7, i.unit) | _ => (0, 0)

/-- TRYON_RECOVERY_TIMEOUT (R500): the injection that has been in force longest has failed. -/
def execTryonRecoveryTimeout (s : State) : Host.Outcome State Fault Refusal :=
  .next (match (s.faults.injects.filter (·.fired)).getLast? with
    | none => s
    | some i =>
      let s1 := { s with faults := { s.faults with injects := s.faults.injects.erase i } }
      notice (rinc s1 (Reg.tryonCounts.at (3 * (i.kind - 1) + 2))) Code.tryonFailed (injectUnit i).1 (injectUnit i).2 i.kind)

end Sys2Proof.Machine
end

