-- ==== Sys2Proof/Machine/Cabling.lean ====
section
/-! DEFINITION. Groups, pods and the cabling plan (R275 to R284): beacons, the check, adoption of eyelets, quarantine, and commit of a plan. -/

namespace Sys2Proof.Machine

/-- R276: position of a chip in the member table; 0xFF when absent. -/
def memberIndex (p : List Byte) (chip : Nat) : Nat := ((List.range 32).find? (fun i => planMember p i == chip)).getD 0xFF

/-- A list without repeats. -/
def noRepeats {α : Type} [DecidableEq α] : List α → Bool
  | [] => true
  | x :: xs => !xs.contains x && noRepeats xs

/-- R276, R278: bytes of a plan. -/
def planBytes (links witness : Nat) : Nat := (128 + 8 * links + 2 * witness + 7) / 8 * 8

/-- R278: the rules whose breach makes a plan INVALID. -/
def planValid (p : List Byte) : Bool :=
  let n := planLinks p
  let w := planWitness p
  let members := ((List.range 32).map (planMember p)).filter (· != 0xFFFF)
  let ends := (planLinkList p).flatMap (fun x => [(linkEnds x).1, (linkEnds x).2])
  let witness := (List.range w).map (fun i => leNat ((p.drop (128 + 8 * n + 2 * i)).take 2))
  decide (128 ≤ p.length) && n ≤ 1024 && w ≤ 256 && p.length == planBytes n w
    && fld (wordAt p 0) 63 56 == 1 && fld (wordAt p 0) 39 32 == 0 && fld (wordAt p 1) 30 0 == 0 && fld (wordAt p 2) 31 0 == 0
    && (List.range 5).all (fun i => wordAt p (3 + i) == 0)
    && (planLinkList p).all (fun x => fld x 29 0 == 0)
    && (p.drop (128 + 8 * n + 2 * w)).all (· == 0)
    && members.all (· ≤ 0xEFF) && witness.all (· ≤ 0xEFF) && ends.all (fun x => x.1 ≤ 0xF7F)
    && noRepeats members && noRepeats ends

/-! ### Beacons (R275) -/

/-- A plan is committed. -/
def planValidNow (s : State) : Bool := !s.plan.committed.isEmpty

/-- R275, R278: what beacons say of the plan: member index, whether a plan is committed, generation, group and pod digest. -/
def planTells (s : State) : Nat × Bool × Nat × Nat × Nat :=
  (rget s Reg.groupMember, planValidNow s, rget s Reg.planGeneration, rget s Reg.groupDigest, rget s Reg.podDigest)

/-- R278: in the beat of a plan_commit, what they said before it. -/
def toldNow (s : State) : Nat × Bool × Nat × Nat × Nat :=
  match s.plan.told with
  | some t => if t.1 = s.clock.beat.toNat then t.2 else planTells s
  | none => planTells s

/-- R275: this package's beacon on a physical eyelet. -/
def ownBeacon (s : State) (e : Nat) : List Word :=
  let un := unassigned s
  let t := toldNow s
  let rev := rget s Reg.linkRevRange
  [word ((if un then 0 else at' (ownChip s) 12 52) + at' e 5 47 + (if t.1 = 0xFF then 0 else at' t.1 5 42 + 2 ^ 41) + (if un then 0 else 2 ^ 40)
     + (if t.2.1 then 2 ^ 39 else 0) + at' (rev / 256) 8 31 + at' rev 8 23),
   word (at' (runBuild s) 32 32 + at' t.2.2.1 16 16),
   word (if e < 24 then t.2.2.2.1 else t.2.2.2.2), 0, 0, 0, 0, 0]

def bcChip (b : List Word) : Nat := fld (nth b 0) 63 52
def bcEyelet (b : List Word) : Nat := fld (nth b 0) 51 47
def bcMember (b : List Word) : Nat := fld (nth b 0) 46 42
def bcMemberValid (b : List Word) : Bool := bit (nth b 0) 41
def bcAssigned (b : List Word) : Bool := bit (nth b 0) 40
def bcPlanValid (b : List Word) : Bool := bit (nth b 0) 39
def bcBuild (b : List Word) : Nat := fld (nth b 1) 63 32

/-! ### The check (R279 to R281) -/

/-- R286: result codes. -/
abbrev cablePass : Nat := 1
abbrev cablePending : Nat := 2
abbrev cableSwapped : Nat := 3
abbrev cableRotated : Nat := 4
abbrev cableMismatch : Nat := 5
abbrev cableVersion : Nat := 6
abbrev cableAdopted : Nat := 7

/-- R279 steps 1 to 3: the result of the first that applies, if any. -/
def checkIdentity (s : State) (e : Nat) (b : List Word) : Option Nat :=
  let rev := rget s Reg.linkRevRange
  if unassigned s || !bcAssigned b || !planValidNow s || !bcPlanValid b then some cablePending
  else if min (rev % 256) (fld (nth b 0) 30 23) < max (rev / 256) (fld (nth b 0) 38 31) then some cableVersion
  else if (nth b 2).toNat ≠ rget s (if e < 24 then Reg.groupDigest else Reg.podDigest) then some cableMismatch
  else none

/-- Latest beacons of the received lanes of an eyelet, by lane. -/
def beaconsOf (s : State) (e : Nat) : List (Nat × List Word) :=
  ((List.range 32).map (fun k => (k, (lane s e k).peer))).filter (fun x => !x.2.isEmpty)

/-- R281: lanes 1 to 31 of an eyelet whose beacons name eyelet `x`. -/
def naming (s : State) (e x : Nat) : Nat := ((beaconsOf s e).filter (fun b => b.1 != 0 && bcEyelet b.2 == x)).length

/-- R281: a lane of a global eyelet has a beacon of the partner that the link table gives for (own chip, `x`). -/
def claims (s : State) (e x : Nat) : Bool :=
  (beaconsOf s e).any (fun b => (checkIdentity s e b.2).isNone && linkPartner s.plan.committed (ownChip s) x == some (bcChip b.2, bcEyelet b.2))

/-- R281: the logical eyelet that a beacon's sender is the partner of, where it and global eyelet e are tolerant: e would adopt it. -/
def adoptGlobal (s : State) (e : Nat) (b : List Word) : Option Nat :=
  let p := s.plan.committed
  if !swapTolerant p e then none
  else ((List.range 8).map (· + 24)).find? (fun x => swapTolerant p x && linkPartner p (ownChip s) x == some (bcChip b, bcEyelet b))

/-- R280: δ of each of lanes 1 to 31 whose latest beacon has passed steps 1 to 4; none where the member table lacks the own chip (R278). -/
def rotations (s : State) (e : Nat) : List Nat :=
  if rget s Reg.groupMember = 0xFF then [] else ((beaconsOf s e).filter (fun b => b.1 != 0 && (checkIdentity s e b.2).isNone && bcEyelet b.2 == logicalEyelet s e && bcMemberValid b.2)).map
    (fun b => (bcMember b.2 + 64 - (rget s Reg.groupMember + 32 - b.1) % 32) % 32)

/-- R280: the δ ≠ 0 that 16 or more lanes share. -/
def rotation (s : State) (e : Nat) : Option Nat :=
  let ds := rotations s e
  ((List.range 31).map (· + 1)).find? (fun d => 16 ≤ (ds.filter (· == d)).length)

/-- R279 steps 5, 6, 8 and 9 of a group lane. -/
def checkGroup (s : State) (e k : Nat) (b : List Word) : Nat :=
  let p := s.plan.committed
  let r := rget s Reg.groupMember
  if (rotation s e).isSome then cableRotated
  else if r = 0xFF ∨ !bcMemberValid b ∨ bcMember b ≠ (r + 32 - k) % 32 then cableMismatch
  else if bcChip b ≠ planMember p (bcMember b) then cableMismatch
  else if buildLock p && (bcBuild b != lockBuild p || runBuild s != lockBuild p) then cableVersion
  else if logicalEyelet s e ≠ e ∧ k ≠ 0 then cableAdopted
  else cablePass

/-- R279 steps 8 and 9 of a global lane. -/
def checkGlobalEnd (s : State) (e : Nat) (b : List Word) : Nat :=
  let p := s.plan.committed
  if buildLock p && (bcBuild b != lockBuild p || runBuild s != lockBuild p) then cableVersion
  else if logicalEyelet s e ≠ e then cableAdopted
  else cablePass

/-- R281: change the map. -/
def adopt (s : State) (e x : Nat) : State := { s with plan := { s.plan with map := if x = e then tdel s.plan.map e else tput s.plan.map e x } }

/-- R281: group eyelet e may adopt `x`: lane 0 passes with EYELET = e, and 16 or more of the other lanes name `x`. -/
def mayAdoptGroup (s : State) (e x : Nat) : Bool :=
  x != e && x < 24 && !lastRunning s && swapTolerant s.plan.committed e && swapTolerant s.plan.committed x
    && (let b := (lane s e 0).peer; !b.isEmpty && (checkIdentity s e b).isNone && bcEyelet b == e && checkGroup s e 0 b == cablePass) && 16 ≤ naming s e x

/-- R281: the other physical eyelets that serve, or would serve, logical eyelet `x`: of those that map to `x`, one with a lane in SERVE, or with 16
lanes that name it; of the others, a group eyelet that may adopt `x`, or a global one with a beacon of the partner of `x` (log 21). -/
def rivals (s : State) (e x : Nat) : List Nat :=
  (if x < 24 then List.range 24 else (List.range 8).map (· + 24)).filter (fun f => f != e &&
    (if logicalEyelet s f = x then (List.range 32).any (fun k => (lane s f k).train == .serve) || (if x < 24 then decide (16 ≤ naming s f x) else claims s f x)
     else if x < 24 then mayAdoptGroup s f x else claims s f x))

/-- R279, R281: the result of a beacon on a lane, the state with an eyelet adopted where that happens, and the eyelets that take SWAPPED
beside it. -/
def cableCheck (s : State) (e k : Nat) (b : List Word) : Nat × State × List Nat :=
  match checkIdentity s e b with
  | some r => (r, s, [])
  | none =>
    if e < 24 then
      let x := bcEyelet b
      if k = 0 then (if x ≠ e then (cableSwapped, s, []) else (checkGroup s e k b, s, []))
      else if x = logicalEyelet s e then
        let rs := rivals s e x
        if rs.isEmpty then (checkGroup s e k b, s, []) else (cableSwapped, s, rs)
      else if mayAdoptGroup s e x then
        let rs := rivals s e x
        if rs.isEmpty then
          let s1 := adopt s e x
          (checkGroup s1 e k b, s1, [])
        else (cableSwapped, s, rs)
      else (cableSwapped, s, [])
    else if linkPartner s.plan.committed (ownChip s) (logicalEyelet s e) = some (bcChip b, bcEyelet b) then
      let rs := (rivals s e (logicalEyelet s e)).filter (fun f => logicalEyelet s f == logicalEyelet s e)
      if rs.isEmpty then (checkGlobalEnd s e b, s, []) else (cableSwapped, s, rs)
    else if lastRunning s then (cableSwapped, s, [])
    else
      match adoptGlobal s e b with
      | some x => if (rivals s e x).isEmpty then let s1 := adopt s e x; (checkGlobalEnd s1 e b, s1, []) else (cableSwapped, s, rivals s e x)
      | none => (cableMismatch, s, [])

/-! ### Results (R283, R284) -/

/-- The event of a result. -/
def cableEvent (r : Nat) : Nat :=
  if r = cableSwapped then Code.swapped else if r = cableRotated then Code.portRotated else if r = cableMismatch then Code.planMismatch else Code.versionUnsupported

/-- R284: entry to QUARANTINE raises its event once per eyelet and code. -/
def quarantine (s : State) (e k r : Nat) : State :=
  let s1 := setLane s e k (fun l => { l with train := .quarantine })
  if (tget? s1.plan.raised (8 * e + r)).isSome then s1
  else
    let s2 := { s1 with plan := { s1.plan with raised := tput s1.plan.raised (8 * e + r) 1 } }
    raise s2 { code := cableEvent r, unitKind := 4, unit := laneUnit s2 e k, failed := some (bcChip (lane s e k).peer) }

/-- What a result does to its lane (R256, R279, R283, R284): READY goes on the reverse lane once the check passes. -/
def applyResult (s : State) (e k r : Nat) : State :=
  let s1 := rinc (setLane s e k (fun l => { l with cable := r })) (Reg.cablingEvents.at r)
  let t := (lane s e k).train
  if r = cablePending then (if t = .serve then laneGo s1 e k .wait Code.planMismatch else s1)
  else if r = cablePass ∨ r = cableAdopted then
    let s1 := { s1 with plan := { s1.plan with raised := s1.plan.raised.filter (fun x => x.1 / 8 != e) } }
    if t = .serve then setLane s1 e k (fun l => { l with accepted := l.peer })
    else
      let s2 := setLane s1 e k (fun l => { l with train := .beacon })
      setLane s2 e (reverseLane e k) (fun l => if l.readySent || l.links.any (·.msg == 7) || l.linkNow == some { msg := 7 } then l else { l with links := addLink l.links { msg := 7 } })
  else if t = .serve then laneGo s1 e k .wait (cableEvent r)
  else if t = .beacon then quarantine s1 e k r
  else s1

/-- R280: every lane of a rotated eyelet takes the result PORT_ROTATED; one that is in no check now has it as its cable_result. -/
def applyRotation (s : State) (e : Nat) : State :=
  match rotation s e with
  | none => rset s (Reg.rotationOffset e) 0
  | some d => (List.range 32).foldl (fun s k =>
      let t := (lane s e k).train
      if (lane s e k).cable = cableRotated then s
      else if t = .beacon ∨ t = .quarantine ∨ t = .serve then applyResult s e k cableRotated
      else rinc (setLane s e k (fun l => { l with cable := cableRotated })) (Reg.cablingEvents.at cableRotated)) (rset s (Reg.rotationOffset e) d)

/-- Check the latest beacon of a lane. -/
def checkLane (s : State) (e k : Nat) : State :=
  let r := cableCheck s e k (lane s e k).peer
  let s1 := applyResult r.2.1 e k r.1
  let s2 := r.2.2.foldl (fun s f => (List.range 32).foldl (fun s j =>
    let t := (lane s f j).train
    if t = .beacon ∨ t = .serve then applyResult s f j cableSwapped else s) s) s1
  if e < 24 then applyRotation s2 e else s2

/-- A beacon received on a lane (R268, R279, R283): in SERVE one that differs from the accepted one is checked again. -/
def onBeacon (s : State) (e k : Nat) (b : List Word) : State :=
  let l := lane s e k
  let b := (List.range 8).map (nth b)
  if l.train = .beacon ∨ l.train = .quarantine then checkLane (setLane s e k (fun l => { l with peer := b })) e k
  else if l.train = .serve then
    (if b = l.accepted then s else checkLane (setLane s e k (fun l => { l with peer := b })) e k)
  else s

/-- BEACON_RECEIVED (R279). -/
def execBeaconReceived (eyelet lane : Nat) (b : List Word) (s : State) : Host.Outcome State Fault Refusal := .next (onBeacon s eyelet lane b)

/-- LINK_READY (R256, R279): a passing lane that has sent and received READY enters SERVE; a BUILD other than the own is counted. -/
def execLinkReady (eyelet lane : Nat) (s : State) : Host.Outcome State Fault Refusal :=
  let l := Machine.lane s eyelet lane
  .next (if l.train = .beacon ∧ (l.cable = cablePass ∨ l.cable = cableAdopted) ∧ l.readyRecv = true
        ∧ (Machine.lane s eyelet (reverseLane eyelet lane)).readySent = true then
      let s1 := enterServe (setLane s eyelet lane (fun l => { l with accepted := l.peer })) eyelet lane
      if bcBuild l.peer ≠ runBuild s then rinc s1 (Reg.cablingEvents.at 0) else s1
    else s)

/-! ### Commit (R278) -/

/-- R278, R39: install a plan: group_member, digests, generation; lanes in BEACON, QUARANTINE or SERVE are checked again. -/
def installPlan (s : State) (p : List Byte) : State :=
  let ext := extend 16 s.plan.genExt (planGen p)
  let s1 := { s with plan := { s.plan with committed := p, genExt := ext } }
  let s2 := rset (rset (rset s1 Reg.planGeneration (planGen p)) Reg.groupDigest (groupDigestOf p)) Reg.podDigest (podDigestOf p)
  let s3 := traceGeneration (rset s2 Reg.groupMember (if unassigned s2 then 0xFF else memberIndex p (ownChip s2))) 1 ext
  s3.lanes.foldl (fun s l =>
    let t := (lane s (l.1 / 32) (l.1 % 32)).train
    if (t = .beacon ∨ t = .quarantine ∨ t = .serve) ∧ (lane s (l.1 / 32) (l.1 % 32)).peer ≠ [] then checkLane s (l.1 / 32) (l.1 % 32) else s) s3

/-- plan_commit (R278). -/
def wPlanCommit (v : Nat) (s : State) : Nat × State :=
  if v ≠ 1 then refuse s Code.valueRefused
  else if lastRunning s then (Code.valueRefused, rset s Reg.commitResult 4)
  else if planValidNow s && !newer 16 (planGen s.plan.staged) (rget s Reg.planGeneration) then (Code.valueRefused, rset s Reg.commitResult 2)
  else if !planValid s.plan.staged then (Code.valueRefused, rset s Reg.commitResult 3)
  else accept (flashCommit (rset (installPlan { s with plan := { s.plan with told := some (s.clock.beat.toNat, toldNow s) } } s.plan.staged) Reg.commitResult 1) .plan)

/-- PLAN_COMMIT (R278). -/
def execPlanCommit (via : Via) (v : Nat) (s : State) : Host.Outcome State Fault Refusal := .next (doWrite s via 0x2400 2 (wPlanCommit v))

end Sys2Proof.Machine
end

