-- ==== Sys2Proof/Machine/LoadCheck.lean ====
section
/-! DEFINITION. The load checks 3 to 8 of R304: layout, reserved values, formats, participants, table sizes, lanes. A check answers the breaches it
finds; the first is reported. Which of several breaches of one check comes first is the model's choice (log 32). -/

namespace Sys2Proof.Machine

/-- A breach: status, logical tile or 0x3F, index of the entry. -/
abbrev Breach := Nat × Nat × Nat

/-- A breach of the header or of a package section, unless a condition holds. -/
def needPkg (status i : Nat) (ok : Bool) : List Breach := if ok then [] else [(status, 0x3F, i)]

/-- A breach of a tile's entry, unless a condition holds. -/
def needTile (status t i : Nat) (ok : Bool) : List Breach := if ok then [] else [(status, t, i)]

/-- Entries of `n` words that a section holds. -/
def secCount (sec : Option Sec) (n : Nat) : Nat := secWords sec / n

/-- Every entry of a tile's section of type `type`, checked. -/
def eachEntry (s : State) (slot b type t n : Nat) (f : Nat → List Word → List Breach) : List Breach :=
  let sec := findSec s slot b type t
  (List.range (secCount sec n)).flatMap (fun i => f i (secEntry s slot sec n i))

/-- Every entry of a package section, checked. -/
def eachPkg (s : State) (slot b type n : Nat) (f : Nat → List Word → List Breach) : List Breach := eachEntry s slot b type 0 n f

/-- Something of every bucket. -/
def eachBucket (s : State) (slot : Nat) (f : Nat → List Breach) : List Breach := (List.range (nBuckets s slot)).flatMap f

/-- Something of every bucket and tile that has sections. -/
def eachTile (s : State) (slot : Nat) (f : Nat → Nat → List Breach) : List Breach :=
  eachBucket s slot (fun b => (lastTiles s slot b).flatMap (f b))

/-! ### Check 3: layout (R288 to R290) -/

/-- A power of two from 1 to 1,024. -/
def fitCycleOk (n : Nat) : Bool := (List.range 11).any (fun k => n == 2 ^ k)

/-- R289, R290: what a directory names, with a name that only the same directory or section shares: (name, offset, length). -/
def regions (s : State) (slot : Nat) : List (List Nat × Nat × Nat) :=
  (List.range (nBuckets s slot)).flatMap (fun b =>
    let w := bucketWord s slot b 2
    ([0, fld w 63 32, fld w 31 16], fld w 63 32, 16 * fld w 31 16)
      :: (directory s slot b).map (fun d => ([1, d.1, d.2.1, d.2.2.off, d.2.2.size], d.2.2.off, d.2.2.size)))

/-- Regions of different names do not overlap. -/
def apart (x y : List Nat × Nat × Nat) : Bool := x.1 == y.1 || decide (x.2.1 + x.2.2 ≤ y.2.1) || decide (y.2.1 + y.2.2 ≤ x.2.1)

/-- Check 3 for a command of `size` bytes. -/
def check3 (s : State) (slot size : Nat) : List Breach :=
  let n := fld (hdr s slot 1) 31 0
  let base := slotBase s slot
  let bad := Code.scheduleInvalid
  let rs := regions s slot
  needPkg bad 0 (fld (hdr s slot 0) 63 56 == 1 && n == size && 1024 ≤ n && n ≤ 0x40000000 && n % 64 == 0)
    ++ needPkg bad 0 (digest64 (hbmRead s base 248 ++ hbmRead s (base + 256) (n - 256)) == (hdr s slot 31).toNat)
    ++ needPkg bad 0 (1 ≤ nPart s slot && nPart s slot ≤ 256 && 1 ≤ nBuckets s slot && nBuckets s slot ≤ 8 && nShapes s slot ≤ 2
        && 1024 ≤ paceSpacing s slot && 16 ≤ paceLag s slot && paceLag s slot ≤ 1024 && fitCycleOk (fitCycle s slot))
    ++ (List.range 8).flatMap (fun b =>
        needPkg bad b (if b < nBuckets s slot then 1024 ≤ beatCount s slot b else (List.range 4).all (fun i => bucketWord s slot b i == 0)))
    ++ (rs.zipIdx).flatMap (fun r => needPkg bad r.2 (r.1.2.1 % 64 == 0 && 1024 ≤ r.1.2.1 && r.1.2.1 + r.1.2.2 ≤ n && rs.all (apart r.1)))
    ++ eachBucket s slot (fun b => needPkg bad b (noRepeats ((directory s slot b).map (fun d => (d.1, if d.1 < 0x10 then d.2.1 else 0)))))

/-! ### Check 4: reserved fields and encodings (R12) -/

/-- R290: section types. -/
def secTypeKnown (ty : Nat) : Bool := (1 ≤ ty && ty ≤ 0x0B) || (0x10 ≤ ty && ty ≤ 0x14)

/-- R292: a reserved opcode, or RSV operand bits. -/
def recordReserved (w : Word) : Bool :=
  match fld w 63 56 with
  | 0 => fld w 47 0 != 0
  | 1 => fld w 33 0 != 0
  | 2 => fld w 37 0 != 0
  | 3 => fld w 33 0 != 0
  | 4 => fld w 34 0 != 0
  | 5 => fld w 37 0 != 0
  | 6 => fld w 35 0 != 0
  | 7 => fld w 35 0 != 0
  | _ => true

/-- R72, R73. -/
def passReserved (d : PassRec) : Bool :=
  bit d.w0 0 || fld d.w1 23 0 != 0 || (!d.loadOnly && (4 < d.kind || d.accInit == 3))

/-- R87, R94: functions of each unit. -/
def funcKnown (vec : Bool) (fn : Nat) : Bool :=
  if vec then 0x20 ≤ fn && fn ≤ 0x2F
  else (1 ≤ fn && fn ≤ 0x0C) || fn == 0x10 || fn == 0x11 || (0x14 ≤ fn && fn ≤ 0x16) || (0x18 ≤ fn && fn ≤ 0x1A) || fn == 0x1C || fn == 0x1D

/-- R84, R85, R61. -/
def funcReserved (d : FuncRec) : Bool :=
  fld (d.w 0) 6 0 != 0 || fld (d.w 2) 3 0 != 0 || d.round == 3 || 0xD < d.source || 0xD < d.source2 || 0xD < d.dst || 0xD < d.rescale
    || !funcKnown d.isVec d.fn

/-- R103, R104. -/
def handleReserved (w : Word) : Bool := fld w 54 52 != 0 || fld w 31 19 != 0 || (!hValid w && w != 0)

/-- R109. -/
def windowReserved (w : Word) : Bool := bit w 60 || fld w 51 40 != 0

/-- R345. -/
def laceReserved (x : List Word) : Bool := fld (nth x 0) 63 60 != 0 || fld (nth x 0) 3 0 != 0 || fld (nth x 1) 22 0 != 0 || !lopKnown (leLop x)

/-- R295. -/
def runReserved (x : List Word) : Bool :=
  let r := laneRun (nth x 0) (nth x 1)
  fld (nth x 0) 9 0 != 0 || r.dir == 3
    || (match r.dir with
        | 0 => fld r.w1 27 0 != 0
        | 1 => fld r.w1 14 0 != 0
        | _ => r.w1 != 0)

/-- R119, R122: tensor descriptor `i` of a tile is named by FILL sources alone. -/
def fillOnly (s : State) (slot b t i : Nat) : Bool :=
  let sec := findSec s slot b secStitch t
  let sds := (List.range (secCount sec 8)).map (secEntry s slot sec 8)
  let td (j : Nat) : List Word := secEntry s slot (findSec s slot b secTensor t) 8 j
  let fill (x : List Word) : Bool := fld (nth x 0) 63 60 == 1
  let uses (x : List Word) : List Nat :=
    let ends := (if fill x then [] else [sdSrcTd x]) ++ [sdDstTd x]
    ends ++ (if bit (nth x 0) 58 then ends.map (fun e => tdScaleTd (td e)) else [])
  sds.any (fun x => fill x && sdSrcTd x == i) && !sds.any (fun x => (uses x).contains i)

/-- Check 4: RESERVED_SET. -/
def check4 (s : State) (slot : Nat) : List Breach :=
  let bad := Code.reservedSet
  needPkg bad 0 (fld (hdr s slot 0) 24 0 == 0 && fld (hdr s slot 5) 24 0 == 0 && (List.range 21).all (fun i => hdr s slot (10 + i) == 0))
    ++ eachBucket s slot (fun b =>
        let w2 := bucketWord s slot b 2
        needPkg bad b (fld (bucketWord s slot b 0) 15 0 == 0 && fld (bucketWord s slot b 1) 39 0 == 0 && fld w2 15 0 == 0 && bucketWord s slot b 3 == 0)
          ++ (List.range (fld w2 31 16)).flatMap (fun i =>
              let w := imgWord s slot (fld w2 63 32 + 16 * i)
              needPkg bad i (fld w 49 0 == 0 && secTypeKnown (fld w 63 56) && (fld w 63 56 < 0x10 || fld w 55 50 == 0)))
          ++ eachPkg s slot b secRuns 2 (fun i x => needPkg bad i (!runReserved x))
          ++ (match findSec s slot b secLatency 0 with
              | none => []
              | some x => ((hbmRead s (slotBase s slot + x.off) x.size).zipIdx).flatMap (fun v => needPkg bad v.2 (v.1.toNat ≤ 16 || v.1.toNat == 0xFF)))
          ++ eachPkg s slot b secMend 5 (fun i x => needPkg bad i (fld (nth x 0) 55 0 == 0 && (List.range 256).all (fun j => decide (j < 4 * fld (nth x 0) 63 56) || !bit (nth x (1 + j / 64)) (j % 64))))
          ++ eachPkg s slot b secFit 1 (fun i x => needPkg bad i (fld (nth x 0) 19 0 == 0))
          ++ (match findSec s slot b secGo 0 with
              | none => []
              | some x => needPkg bad 0 (fld (goPath s slot b) 31 0 == 0)
                  ++ (List.range (fld (goPath s slot b) 37 32)).flatMap (fun i => needPkg bad i (fld (secWord s slot (some x) (1 + i / 4)) (16 * (i % 4) + 15) (16 * (i % 4) + 10) == 0))))
    ++ eachTile s slot (fun b t =>
        eachEntry s slot b secBeats t 1 (fun i x => needTile bad t i (!recordReserved (nth x 0)))
          ++ eachEntry s slot b secPass t 2 (fun i x => needTile bad t i (!passReserved { w0 := nth x 0, w1 := nth x 1 }))
          ++ eachEntry s slot b secFunc t 4 (fun i x => needTile bad t i (!funcReserved { words := x }))
          ++ eachEntry s slot b secStitch t 8 (fun i x => needTile bad t i (!sdReserved x))
          ++ eachEntry s slot b secTensor t 8 (fun i x => needTile bad t i (fillOnly s slot b t i || !tdReserved x))
          ++ eachEntry s slot b secPattern t 8 (fun i x => needTile bad t i (!patReserved x))
          ++ eachEntry s slot b secHandles t 1 (fun i x => needTile bad t i (!handleReserved (nth x 0)))
          ++ eachEntry s slot b secPresets t 1 (fun i x => needTile bad t i (!windowReserved (nth x 0)))
          ++ eachEntry s slot b secWindows t 1 (fun i x => needTile bad t i (!windowReserved (nth x 0)))
          ++ eachEntry s slot b secLace t 2 (fun i x => needTile bad t i (!laceReserved x)))

/-! ### Check 5: formats (R44, R49, R53, R73, R86, R89, R92, R94) -/

/-- R49, R53, R73. -/
def passFormatOk (d : PassRec) : Bool :=
  d.loadOnly ||
    ((pairOf d.fmtA d.fmtB).isSome && (if d.kind = 0 then d.fmtA != 1 && d.fmtB != 1 else d.fmtA == 1 && d.fmtB == 1)
      && !(d.kind == 0 && d.pair.int && d.accInit == 2) && (!d.scaleA || isMx d.fmtA) && (!d.scaleB || isMx d.fmtB))

/-- R44, R86, R92, R94, R87. -/
def funcFormatOk (d : FuncRec) : Bool :=
  if d.isVec then d.fmtIn ≤ 0xB && d.fmtOut ≤ 0xB && !isMx d.fmtIn && !isMx d.fmtOut
  else d.fmtIn ≤ 0xB && d.fmtOut ≤ 0xB && (!(1 ≤ d.source && d.source ≤ 8) || d.fmtIn == 1 || d.fmtIn == 9)
    && (d.fn != 0x19 || d.fmtOut == 1) && (d.fn != 0x1A || isMx d.fmtOut)

/-- Check 5: FORMAT_UNSUPPORTED. -/
def check5 (s : State) (slot : Nat) : List Breach :=
  let bad := Code.formatUnsupported
  needPkg bad 0 (fld (hdr s slot 0) 55 40 == rget s Reg.funcRefRevision)
    ++ eachTile s slot (fun b t =>
        eachEntry s slot b secPass t 2 (fun i x => needTile bad t i (passFormatOk { w0 := nth x 0, w1 := nth x 1 }))
          ++ eachEntry s slot b secFunc t 4 (fun i x => needTile bad t i (funcFormatOk { words := x }))
          ++ eachEntry s slot b secTensor t 8 (fun i x => needTile bad t i (fillOnly s slot b t i || fmtAssigned (tdFmt x)))
          ++ eachEntry s slot b secLace t 2 (fun i x => needTile bad t i (leLop x == lopBarrier || lopTakes (leLop x) (leType x))))

/-! ### Checks 6 to 8 -/

/-- Check 6. -/
def check6 (s : State) (slot : Nat) : List Breach :=
  needPkg Code.notParticipant 0 ((participants s slot).contains (rget s Reg.chipNumberActive))

/-- R290: entry size in bytes and greatest number of entries of a section type; 0 for no bound. -/
def secShape (ty : Nat) : Nat × Nat :=
  match ty with
  | 0x01 => (8, 0) | 0x02 => (16, 4096) | 0x03 => (32, 1024) | 0x04 => (64, 4096) | 0x05 => (64, 256) | 0x06 => (64, 128) | 0x09 => (8, 256)
  | 0x0A => (8, 0) | 0x0B => (16, 0) | 0x10 => (16, 0) | 0x13 => (8, 0) | 0x14 => (8, 0) | _ => (1, 0)

/-- R290, R300, R301: the size of a section. -/
def secSizeOk (ty size : Nat) : Bool :=
  match ty with
  | 0x07 => size == 2048
  | 0x08 => size == 128
  | 0x11 => size == 1024
  | 0x12 => size == 1280
  | 0x14 => 8 ≤ size && size % 8 == 0
  | _ => let x := secShape ty; size % x.1 == 0 && (x.2 == 0 || size / x.1 ≤ x.2)

/-- R104. -/
def handleOk (w : Word) : Bool :=
  !hValid w || (1 ≤ hSize w && hBase w + hSize w ≤ 0x80000 && (hSwizzle w == 0 || (6 ≤ hSwizzle w && hBase w % 64 == 0 && hSize w % 64 == 0)))

/-- R145, R290: a PIN_LIST holds four lists of at most 768 pages. -/
def pinsOk (s : State) (slot : Nat) (sec : Sec) : Nat → Nat → Bool
  | 0, _ => true
  | n + 1, i =>
    let c := (secWord s slot (some sec) i).toNat
    i < sec.size / 8 && c ≤ 768 && i + 1 + c ≤ sec.size / 8 && pinsOk s slot sec n (i + 1 + c)

/-- Strictly ascending. -/
def ascends : List Nat → Bool
  | x :: y :: rest => x < y && ascends (y :: rest)
  | _ => true

/-- Check 7. -/
def check7 (s : State) (slot : Nat) : List Breach :=
  let bad := Code.scheduleInvalid
  let ps := participants s slot
  needPkg bad 0 (ascends ps && ps.all (· ≤ 0xEFF)
        && (List.range (256 - nPart s slot)).all (fun i => leNat (hbmRead s (slotBase s slot + 256 + 2 * (nPart s slot + i)) 2) == 0xFFFF))
    ++ (List.range 16).flatMap (fun k => needPkg bad k (schedShare s slot k + maintShare s slot k ≤ 240 && 1 ≤ maintShare s slot k))
    ++ eachBucket s slot (fun b => ((directory s slot b).zipIdx).flatMap (fun d =>
        [(bad, (if d.1.1 < 0x10 then d.1.2.1 else 0x3F), d.2)].filter (fun _ => !secSizeOk d.1.1 d.1.2.2.size)))
    ++ eachBucket s slot (fun b => needPkg bad 0 (match findSec s slot b secGo 0 with
        | none => true
        | some x => 8 + 2 * fld (goPath s slot b) 37 32 ≤ x.size))
    ++ eachTile s slot (fun b t =>
        eachEntry s slot b secHandles t 1 (fun i x => needTile bad t i (handleOk (nth x 0)))
          ++ (match findSec s slot b secPins t with
              | none => []
              | some x => needTile bad t 0 (pinsOk s slot x 4 0)))

/-- Check 8, then the refusal of R390 (log 31). -/
def check8 (s : State) (slot : Nat) : List Breach :=
  (eachBucket s slot (fun b => match badLane s slot b with
    | some i => [(Code.laneUnavailable, 0x3F, i)]
    | none => []))
    ++ eachBucket s slot (fun b => match weltRefusal s slot b with
    | some t => [(Code.weltDegraded, t, 0)]
    | none => [])

end Sys2Proof.Machine
end

