-- ==== Sys2Proof/Machine/Load.lean ====
section
/-! DEFINITION. Load checks 9 and 10 of R304, and the end of a load. -/

namespace Sys2Proof.Machine

/-- A breach of a schedule rule at an entry of a tile, unless a condition holds. -/
def ruleTile (t i : Nat) (ok : Bool) : List Breach := needTile Code.scheduleInvalid t i ok
def rulePkg (i : Nat) (ok : Bool) : List Breach := needPkg Code.scheduleInvalid i ok

/-- The handle image of a tile, by handle. -/
def imageHandle (s : State) (slot b t h : Nat) : Word := secWord s slot (findSec s slot b secHandles t) h

/-! ### Header, buckets, ramp, pace (R303, R311, R314) -/


/-- R303, R311, R314. -/
def headerRules (s : State) (slot : Nat) : List Breach :=
  let set := laceSet s (paceLaceSet s slot)
  rulePkg 0 (staggerMax s slot < rampBeats s slot && rampBeats s slot ≤ paceFirst s slot && paceSetOk s slot)
    ++ eachBucket s slot (fun b =>
        rulePkg b ((b == 0 || beatCount s slot (b - 1) ≤ beatCount s slot b) && (nShapes s slot != 0 || shape0 s slot b == 0)
            && (2 ≤ nShapes s slot || shape1 s slot b == 0) && rampBeats s slot ≤ beatCount s slot b)
          ++ rulePkg b (!(pacePoints s slot b).isEmpty
            && (pacePoints s slot b).all (fun p =>
                let l := laceLatencies s slot b p set (laceIssues s slot b)
                rampBeats s slot ≤ p && laceBound set.shape l.1 l.2 ≤ paceLag s slot)))

/-! ### Beat streams (R76, R291 to R293, R311) -/

/-- R293: whether record `i` of a stream, at beat `x.1`, keeps to the limits and names what its sections hold. -/
def streamRules (s : State) (slot b t : Nat) : List Breach :=
  let xs := stream s slot b t
  let vec (w : Word) : Bool := (imageFunc s slot b t (fld w 47 38) 0).isVec
  let op (w : Word) : Nat := fld w 63 56
  let ramp := rampBeats s slot
  let cnt (ty n : Nat) : Nat := secCount (findSec s slot b ty t) n
  xs.flatMap (fun x =>
    let w := x.2.2
    let now := ((xs.filter (fun y => y.2.1 == x.2.1 && op y.2.2 == op w)).map (·.2.2))
    ruleTile t x.1 (x.2.1 < beatCount s slot b
      && (op w == 0 || !(ramp - staggerMax s slot ≤ x.2.1 && x.2.1 < ramp))
      && (!(op w == 5 || op w == 6) || ramp ≤ x.2.1)
      && (match op w with
          | 1 => now.length ≤ 4 && (now.filter (fun y => fld y 47 46 == fld w 47 46)).length ≤ 1 && fld w 45 34 < cnt secPass 2
          | 2 => (now.filter (fun y => vec y == vec w)).length ≤ 1 && fld w 47 38 < cnt secFunc 4
          | 3 => now.length ≤ 4 && fld w 45 34 < cnt secStitch 8
          | 4 => now.length ≤ 1 && (!bit w 43 || fld w 42 35 < cnt secWindows 1)
          | 5 => now.length ≤ 2 && fld w 47 38 < cnt secLace 2
          | 6 => now.length ≤ 8
          | 7 => now.length ≤ 1
          | _ => true)))

/-- R346, R349: at most two lace operations issue in one beat across the package. -/
def laceLimit (s : State) (slot b : Nat) : List Breach :=
  let beats := (lastTiles s slot b).flatMap (fun t => ((stream s slot b t).filter (fun x => fld x.2.2 63 56 == 5)).map (fun x => (t, x.1, x.2.1)))
  let pace := pacePoints s slot b
  beats.flatMap (fun x => ruleTile x.1 x.2.1 ((beats.filter (fun y => y.2.2 == x.2.2)).length + (if pace.contains x.2.2 then 1 else 0) ≤ 2))

/-! ### Passes, functions, windows (R54, R73, R85, R91, R92, R105, R110, R525) -/

/-- R105: bytes `off` to `off + n − 1` lie in the buffer of a VALID handle. -/
def inHandle (h : Word) (off n : Nat) : Bool := n == 0 || (hValid h && off + n ≤ 64 * hSize h)

/-- R73, R54 and R105 of a pass. -/
def passRules (h : Nat → Word) (t i : Nat) (d : PassRec) : List Breach :=
  if d.loadOnly then []
  else
    ruleTile t i (1 ≤ d.mCount && d.mCount ≤ 128 && 1 ≤ d.nCount && d.nCount ≤ 128 && 1 ≤ d.kCount && d.kCount ≤ (if d.pair.rate = 32 then 256 else 128))
      ++ needTile Code.formatUnsupported t i (!(d.scaleA || d.scaleB) || fld d.w0 16 1 % 2 == 0)
      ++ ruleTile t i (!d.drain || (List.range d.mCount).all (fun m => inHandle (h (fld d.w1 63 56)) (64 * (fld d.w1 55 36 + m * fld d.w1 35 24)) (4 * d.nCount)))

/-- R85: endpoints that the unit and the function accept; R525: a norm function takes no bank. -/
def endpointsOk (d : FuncRec) : Bool :=
  if d.isVec then d.source == 0 && d.dst == 0 && (d.source2 == 0 || d.source2 == 0xD) && d.rescale == 0xD
  else
    d.source ≤ 8
      && (if d.fn = 0x14 ∨ d.fn = 0x18 then d.dst == 0xD else d.dst == 0 || (9 ≤ d.dst && d.dst ≤ 0xC))
      && (if d.fn = 0x10 then d.rescale == 0xD || d.rescale == 3 || d.rescale == 4 || d.rescale == 7 || d.rescale == 8 else d.rescale == 0xD)
      && (d.source2 ≤ 8 || d.source2 == 0xD) && (!(d.fn == 0x15 || d.fn == 0x16) || d.source2 == 0 || d.source2 == 0xD)

/-- R84, R85, R91, R92, R105, R525 of a function. -/
def funcRules (h : Nat → Word) (t i : Nat) (d : FuncRec) : List Breach :=
  let rows := List.range d.rows
  ruleTile t i (endpointsOk d && 1 ≤ d.rows && d.rows ≤ 128 && 1 ≤ d.cols && d.cols ≤ 256
    && (!d.scaled || d.cols % 32 == 0) && (!(d.fn == 0x18 || d.fn == 0x19) || (1 ≤ d.param && d.param ≤ 8))
    && (d.source != 0 || rows.all (fun r => inHandle (h d.srcHandle) (64 * (d.srcOffset + r * d.srcStride)) (packedBytes d.fmtIn d.cols)))
    && (d.source2 != 0 || rows.all (fun r => inHandle (h d.src2Handle) (d.src2Row r).1 (packedBytes (d.src2Row r).2.1 (d.src2Row r).2.2)))
    && (d.dst != 0 || !d.writesOut || rows.all (fun r => inHandle (h d.dstHandle) (64 * (d.dstOffset + r * d.dstStride)) d.outBytes))
    && (d.dst != 0 || inHandle (h d.dstHandle) (64 * (d.dstOffset + d.rows * d.dstStride)) (d.rows * d.scaleBytes)))

/-- R110. -/
def windowOk (h : Nat → Word) (w : Word) : Bool :=
  let e := h (wHandle w)
  hValid e && hWindowed e && (wRead w || wWrite w) && wStart w < wEnd w && wEnd w ≤ hSize e

/-- R110: windows that a WINDOW record loads, and presets with OPEN = 1. -/
def windowRules (s : State) (slot b t : Nat) : List Breach :=
  let h := imageHandle s slot b t
  eachEntry s slot b secPresets t 1 (fun i x => ruleTile t i (!wOpen (nth x 0) || windowOk h (nth x 0)))
    ++ (stream s slot b t).flatMap (fun x =>
        let w := x.2.2
        if fld w 63 56 = 4 ∧ bit w 43 = true then ruleTile t (fld w 42 35) (windowOk h (secWord s slot (findSec s slot b secWindows t) (fld w 42 35))) else [])

/-! ### Copies (R119 to R138) -/

/-- The copies that COPY records of a tile launch: (record, step beat, copy). -/
def launched (s : State) (slot b t : Nat) : List (Nat × Nat × CopyRec) :=
  ((stream s slot b t).filter (fun x => fld x.2.2 63 56 == 3)).map (fun x => (x.1, x.2.1, imageCopy s slot b t (fld x.2.2 47 46) (fld x.2.2 45 34) (56 * x.2.1)))

/-- R119: the indices that a descriptor names. -/
def indicesOk (s : State) (slot b t : Nat) (c : CopyRec) : Bool :=
  let tds := secCount (findSec s slot b secTensor t) 8
  let pats := secCount (findSec s slot b secPattern t) 8
  let td (i : Nat) : List Word := secEntry s slot (findSec s slot b secTensor t) 8 i
  let ends := (if c.isFill then [] else [sdSrcTd c.sd]) ++ [sdDstTd c.sd]
  ends.all (· < tds) && sdPattern c.sd < pats
    && (!c.scales || (sdScalePattern c.sd < pats && ends.all (fun e => tdScaleTd (td e) == 0xFF || tdScaleTd (td e) < tds)))

def copyRules (s : State) (slot b t : Nat) : List Breach :=
  (launched s slot b t).flatMap (fun x =>
    ruleTile t x.2.2.desc (indicesOk s slot b t x.2.2) ++ needTile (loadCopyCode x.2.2) t x.2.2.desc (loadCopyCode x.2.2 == Code.ok))

/-! ### Times (R76 to R81, R86, R94, R96, R97, R102, R118, R136 to R138) -/

def timeRules (s : State) (slot b t : Nat) : List Breach :=
  let x := timing s slot b t (staggerMax s slot)
  let h := imageHandle s slot b t
  let len := 56 * beatCount s slot b
  [x.bad, x.badWrite, x.badMeet].filterMap (fun o => o.map (fun i => (Code.scheduleInvalid, t, i)))
    ++ ruleTile t 0 (!x.badSet len && !x.badFp32 && !bankConflict (x.claims h ++ inboundClaims s slot b t h))

/-! ### Lane runs (R265, R295 to R302) -/

/-- Two runs of one lane that share a direction: a LACE run holds both (R346). -/
def sameWay (x y : LaneRun) : Bool := x.eyelet == y.eyelet && x.lane == y.lane && (x.dir == y.dir || x.dir == 2 || y.dir == 2)

/-- Last step beat of a run. -/
def LaneRun.lastBeat (x : LaneRun) : Nat := (x.first + x.count - 1) / 4

/-- R301: a block of step beat `t`, position `n` is a mend slot in some step. -/
def everMend (s : State) (slot b ell t n : Nat) : Bool :=
  let p := fld (secWord s slot (findSec s slot b secMend 0) (5 * ell)) 63 56
  (List.range p).any (fun q => mendSlotMap s slot b ell (q * beatCount s slot b + t) n)

/-- R296 rules 1 to 5 and 10, R300, for run `i`. -/
def runRules (s : State) (slot b : Nat) : List Breach :=
  let xs := (laneRuns s slot b).zipIdx
  let ws := fitWindows s slot b
  xs.flatMap (fun p =>
    let x := p.1
    let lat := laneLatency s slot b x.eyelet x.lane
    let late := if x.dir = 1 then lat else 0
    rulePkg p.2 (1 ≤ x.count && x.first + x.count ≤ 4 * beatCount s slot b && rampBeats s slot ≤ x.beat
      && !(x.dir == 1 && x.eyelet < 24 && x.lane == 0)
      && (if x.dir = 1 then 1 ≤ lat && lat ≤ 16 else lat != 0)
      && xs.all (fun q => q.2 == p.2 || !sameWay x q.1 || decide (x.first + x.count ≤ q.1.first) || decide (q.1.first + q.1.count ≤ x.first))
      && (List.range x.count).all (fun i => !everMend s slot b x.eyelet ((x.first + i) / 4) ((x.first + i) % 4))
      && ws.all (fun w => w.1 != x.eyelet || w.2.1 != x.lane || decide (x.lastBeat + late < w.2.2.1) || decide (w.2.2.1 + 560 ≤ x.beat))))

/-- R296: destination granules that a copy's walk writes. -/
def fabricGranules (c : CopyRec) : Nat :=
  (c.accesses.map (fun a => (a.dstGranules (c.dstOf a.scale) (extentOf (c.dstOf a.scale) c.s0 c.s1)).length)).sum

/-- R296 rule 7: every position that a copy's walk writes is in bounds, and no extent is a runtime shape. -/
def wholeBounds (c : CopyRec) : Bool :=
  (List.range 6).all (fun d => tdExtSel c.dst d == 0) && c.accesses.all (fun a => a.dsts.all (inBounds (c.dstOf a.scale) c.s0 c.s1))

/-- R296 rules 6 to 9: TX runs and the copies that feed them. -/
def txRules (s : State) (slot b : Nat) : List Breach :=
  let txs := (laneRuns s slot b).zipIdx.filter (fun x => x.1.dir == 0)
  let tileOf (x : LaneRun) : Nat := fld x.w1 63 58
  let feeds (x : LaneRun) (c : CopyRec) : Bool := fld x.w1 57 56 == c.stitcher && fld x.w1 55 44 == c.desc && tdKind c.dst == kFabric
  let within (x : LaneRun) (lb : Nat) (c : CopyRec) : Bool := lb < x.beat && x.lastBeat < lb + c.deadline
  txs.flatMap (fun x => rulePkg x.2 ((launched s slot b (tileOf x.1)).any (fun l =>
      let c := l.2.2
      feeds x.1 c && within x.1 l.2.1 c && tdOff c.dst == 0 && planPartner s true x.1.eyelet x.1.lane == some (tdChip c.dst))))
    ++ (lastTiles s slot b).flatMap (fun t => (launched s slot b t).flatMap (fun l =>
        let c := l.2.2
        if tdKind c.dst ≠ kFabric then []
        else
          let mine := (txs.filter (fun x => tileOf x.1 == t && feeds x.1 c && within x.1 l.2.1 c)).map (·.1)
          let js := mine.flatMap (fun x => (List.range x.count).map (fun i => fld x.w1 43 28 + i))
          let n := fabricGranules c
          ruleTile t c.desc (wholeBounds c && js.length == n && (List.range n).all (fun j => js.contains j))))

/-- R265, R295: slack of an RX run. -/
def slackOf (x : LaneRun) : Nat := let v := fld x.w1 29 27; if v = 0 then 4 else v

/-- Due beats of an RX run's first and last block (R298). -/
def dueFirst (s : State) (slot b : Nat) (x : LaneRun) : Nat := x.beat + laneLatency s slot b x.eyelet x.lane
def dueLast (s : State) (slot b : Nat) (x : LaneRun) : Nat := x.lastBeat + laneLatency s slot b x.eyelet x.lane

/-- The window entry in a slot of a tile at a step beat of a step that follows another, or of the first step. -/
def windowAt (s : State) (slot b t i beat : Nat) (first : Bool) : Word :=
  let set (w : Word) (x : Nat × Nat × Word) : Word :=
    if fld x.2.2 63 56 = 4 ∧ fld x.2.2 47 44 = i then
      (if bit x.2.2 43 then secWord s slot (findSec s slot b secWindows t) (fld x.2.2 42 35) ||| (1 : Word) <<< 63 else w &&& ~~~((1 : Word) <<< 63))
    else w
  let xs := stream s slot b t
  let start := secWord s slot (findSec s slot b secPresets t) i
  let before := if first then start else xs.foldl set start
  (xs.filter (fun x => x.2.1 ≤ beat)).foldl set before

/-- A window exposes granule `g` of a tile's scratchpad, under the handle image. -/
def windowHolds (h : Nat → Word) (w : Word) (g : Nat) : Bool :=
  let e := h (wHandle w)
  hValid e && hBase e ≤ g && g < hBase e + hSize e && wStart w ≤ granuleOffset e g && granuleOffset e g < wEnd w

/-- R298: target granules of an RX run. -/
def targets (h : Nat → Word) (x : LaneRun) : List Nat := (List.range x.count).map (fun i => resolve (h (fld x.w1 57 50)) (64 * (fld x.w1 49 30 + i)) / 64)

/-- R298: the target lies in its handle and in one window that grants WRITE and stays open from the due beat to the slack end. -/
def rxTargetOk (s : State) (slot b : Nat) (x : LaneRun) : Bool :=
  let t := fld x.w1 63 58
  let h := imageHandle s slot b t
  let gs := targets h x
  let lo := dueFirst s slot b x
  let hi := dueLast s slot b x + slackOf x
  let bc := max 1 (beatCount s slot b)
  inHandle (h (fld x.w1 57 50)) (64 * fld x.w1 49 30) (64 * x.count)
    && (List.range 16).any (fun i => (List.range (hi + 1 - lo)).all (fun j => [true, false].all (fun first =>
        let w := windowAt s slot b t i ((lo + j) % bc) (first && decide (lo + j < bc))
        wOpen w && wWrite w && gs.all (windowHolds h w))))

/-- Granules of scratchpad that a tile's records read in the first step, with the cycles from and to which they may (R136, R86, R94, R345). -/
def scratchReads (s : State) (slot b t : Nat) : List (Nat × Nat × Nat) :=
  let h := imageHandle s slot b t
  let x := timing s slot b t 0
  let rows (d : FuncRec) (off n hd : Nat) (r : Nat) : List (Nat × Nat × Nat) :=
    (List.range ((off + n - 1) / 64 + 1 - off / 64)).map (fun i => (d.issue + r * d.perRow, d.issue + (r + 1) * d.perRow, resolve (h hd) (64 * (off / 64 + i)) / 64))
  x.ops.flatMap (fun d => (List.range d.rows).flatMap (fun r =>
      (if d.source = 0 then rows d (64 * (d.srcOffset + r * d.srcStride)) (packedBytes d.fmtIn d.cols) d.srcHandle r else [])
        ++ (if d.source2 = 0 then rows d (d.src2Row r).1 (packedBytes (d.src2Row r).2.1 (d.src2Row r).2.2) d.src2Handle r else [])))
    ++ x.copies.flatMap (fun c =>
        if c.isFill then []
        else c.accesses.flatMap (fun a =>
          let src := c.srcOf a.scale
          if tdKind src ≠ kHandle then []
          else
            let gs := a.srcGranules src (c.dstOf a.scale) (tdExtent src)
            let lo := if c.outside then c.issue else c.issue + a.reads
            let hi := if c.outside then c.endCycle else c.issue + a.reads + 1
            gs.map (fun g => (lo, hi, resolve (c.srcHandle a.scale) (64 * g.toNat) / 64))))
    ++ ((stream s slot b t).filter (fun y => fld y.2.2 63 56 == 5)).map (fun y =>
        let en := secEntry s slot (findSec s slot b secLace t) 2 (fld y.2.2 47 38)
        (56 * y.2.1, 56 * y.2.1 + 1, resolve (h (leSrcHandle en)) (64 * leSrcOff en) / 64))

/-- R298, R299: RX runs and the ARRIVE records that close their groups. -/
def rxRules (s : State) (slot b : Nat) : List Breach :=
  let rxs := (laneRuns s slot b).zipIdx.filter (fun x => x.1.dir == 1)
  let tileOf (x : LaneRun) : Nat := fld x.w1 63 58
  let groupOf (x : LaneRun) : Nat := fld x.w1 26 15
  let arrives (t : Nat) : List (Nat × Nat × Nat) := ((stream s slot b t).filter (fun y => fld y.2.2 63 56 == 6)).map (fun y => (y.1, y.2.1, fld y.2.2 47 36))
  rxs.flatMap (fun x => rulePkg x.2 (rxTargetOk s slot b x.1
      && (match (arrives (tileOf x.1)).filter (fun a => a.2.2 == groupOf x.1) with
          | [a] => decide (dueLast s slot b x.1 + slackOf x.1 < a.2.1)
          | _ => false)))
    ++ (lastTiles s slot b).flatMap (fun t =>
        let reads := scratchReads s slot b t
        let h := imageHandle s slot b t
        (arrives t).flatMap (fun a =>
          let mine := (rxs.filter (fun x => tileOf x.1 == t && groupOf x.1 == a.2.2)).map (·.1)
          let gs := mine.flatMap (targets h)
          ruleTile t a.1 (!mine.isEmpty && !reads.any (fun r => decide (r.1 < 56 * a.2.1) && gs.contains r.2.2))))

/-! ### Latencies, mend slots, fitting windows (R231, R300 to R302) -/

/-- R301: a logical eyelet whose map holds a mend slot. -/
def mends (s : State) (slot b ell : Nat) : Bool :=
  (List.range 64).any (fun t => (List.range 4).any (mendSlotMap s slot b ell t))

/-- R300: lanes that fitting windows, mend slots and the GO path name. A mend slot stands on every lane of its eyelet (R301, log 70). -/
def namedLanes (s : State) (slot b : Nat) : List (Nat × Nat) :=
  (fitWindows s slot b).map (fun w => (w.1, w.2.1))
    ++ (List.range 32).flatMap (fun ell => if mends s slot b ell then (List.range 32).map (fun k => (ell, k)) else []) ++ goRelays s slot b
    ++ (if leaderOf s slot = ownChip s ∨ (findSec s slot b secGo 0).isNone = true then [] else [(fld (goPath s slot b) 47 43, fld (goPath s slot b) 42 38)])

/-- R301: the map of a logical eyelet. -/
def mendRules (s : State) (slot b : Nat) : List Breach :=
  let used := (usedLanes s slot b).map (fun p => p.1 / 32)
  let sec := findSec s slot b secMend 0
  (List.range 32).flatMap (fun ell =>
    let p := fld (secWord s slot sec (5 * ell)) 63 56
    rulePkg ell ((sec.isNone || (1 ≤ p && p ≤ 64))
      && (!used.contains ell || (List.range p).all (fun t => (List.range 8).any (fun j => (List.range 4).any (fun n => mendSlotMap s slot b ell (t + j) n))) && 1 ≤ p)))

/-- R231: gaps of a lane's windows, from beat 0 and from the end of one to the next, over one fitting cycle taken as circular. -/
def fitGaps (cycle : Nat) (starts : List Nat) : List Nat :=
  match starts with
  | [] => []
  | a :: rest =>
    let ends := (a :: rest).map (· + 560)
    let next := rest ++ [cycle + a]
    a :: (next.zip ends).map (fun p => p.1 - p.2)

/-- R231, R302: fitting windows. -/
def fitRules (s : State) (slot b : Nat) : List Breach :=
  let ws := fitWindows s slot b
  let bc := beatCount s slot b
  let start (w : Nat × Nat × Nat × Nat) : Nat := w.2.2.2 * bc + w.2.2.1
  let die (w : Nat × Nat × Nat × Nat) : Nat := physEyelet s w.1 / 4
  (ws.zipIdx).flatMap (fun x =>
    let w := x.1
    let lanes := sortKeys ((ws.filter (fun y => y.1 == w.1 && y.2.1 == w.2.1)).map (fun y => (start y, ())))
    rulePkg x.2 (w.2.2.1 + 560 ≤ bc && rampBeats s slot ≤ w.2.2.1 && w.2.2.2 < fitCycle s slot
      && (ws.zipIdx).all (fun y => y.2 == x.2 || die y.1 != die w || decide (start w + 560 ≤ start y.1) || decide (start y.1 + 560 ≤ start w))
      && (!laneServes s (physEyelet s w.1) w.2.1
          || (fitGaps (fitCycle s slot * bc) (lanes.map (·.1))).all (fun g => g ≤ gapLimit (tget {} s.last.slots slot).fitAge))))

def laneRules (s : State) (slot b : Nat) : List Breach :=
  ((namedLanes s slot b).zipIdx).flatMap (fun x => rulePkg x.2 (laneLatency s slot b x.1.1 x.1.2 != 0))

/-! ### Lace (R346, R347) -/

/-- Messages that carry some set indices (R344). -/
def forwardCount (is : List Nat) (barrier : Bool) : Nat := if barrier then 1 else (forwardChunks is).length

/-- A run that an operation needs in its stage: send beat, whether the package sends in it, whether it is on a group lane, the chip at its other
end and the blocks. In ONE_HOP the lane may be of either kind. -/
structure LaceNeed where
  beat : Nat
  sends : Bool
  group : Option Bool
  chip : Nat
  blocks : Nat
  deriving DecidableEq, Repr

/-- R346: what an operation issued in step beat `beat` needs. -/
def laceNeeds (s : State) (slot b beat : Nat) (x : LaceSet) (barrier : Bool) (issues : List LaceIssue) : List LaceNeed :=
  let own := ownChip s
  let g := laceGroup x own
  let l := laceLatencies s slot b beat x issues
  let ofGroup (q : Nat) : List Nat := (List.range x.members.length).filter (fun i => meGroup (x.members.getD i 0) == q)
  let rest := (List.range x.members.length).filter (fun i => meGroup (x.members.getD i 0) != g)
  if !x.enabled then []
  else if x.shape = 0 then (lacePeers s x 1).flatMap (fun c => [true, false].map (fun w => ⟨beat + 1, w, none, c, 1⟩))
  else
    (lacePeers s x 1).flatMap (fun c => [true, false].map (fun w => ⟨beat + 1, w, some true, c, 1⟩))
      ++ (lacePeers s x 2).flatMap (fun c =>
        [⟨beat + 2 + l.1, true, some false, c, forwardCount (ofGroup g) barrier⟩, ⟨beat + 2 + l.1, false, some false, c, forwardCount (ofGroup (laceGroup x c)) barrier⟩])
      ++ (lacePeers s x 3).map (fun c => ⟨beat + 3 + l.1 + l.2, laceRep x g == some own, some true, c, forwardCount rest barrier⟩)

/-- R346: the needs of an operation are met, where the operations before it need `before`: the runs of one send beat toward one chip serve the
operations in the order of their issue, as `laceBlock` pairs them. -/
def laceRunsOk (s : State) (slot b : Nat) (before mine : List LaceNeed) : Bool :=
  mine.all (fun n =>
    let j := (before.filter (fun q => q.beat == n.beat && q.sends == n.sends && q.chip == n.chip)).length
    match ((laceRunsAt s slot b n.beat).filter (fun y => planPartner s n.sends y.eyelet y.lane == some n.chip))[j]? with
    | some y => y.pos == 0 && n.blocks ≤ y.count && y.count ≤ 4 && (match n.group with | some g => decide (y.eyelet < 24) == g | none => true)
    | none => false)

/-- R346, R347: the lace records of a tile, and the pace reductions. No record reads the granule of a result before beat b + DEADLINE. -/
def laceRules (s : State) (slot b : Nat) : List Breach :=
  let ops := laceIssues s slot b
  let needs := ops.map (fun q => laceNeeds s slot b q.beat q.set q.barrier ops)
  (ops.zipIdx).flatMap (fun p =>
    let q := p.1
    let runs := laceRunsOk s slot b (needs.take p.2).flatten (needs.getD p.2 [])
    if q.tile = paceTile then rulePkg 0 runs
    else
      let l := laceLatencies s slot b q.beat q.set ops
      let g := resolve (imageHandle s slot b q.tile (leDstHandle q.entry)) (64 * leDstOff q.entry) / 64
      ruleTile q.tile q.record (laceBound q.set.shape l.1 l.2 ≤ leDeadline q.entry && runs
        && (q.barrier || !(scratchReads s slot b q.tile).any (fun x => x.2.2 == g && decide (x.1 < 56 * (q.beat + leDeadline q.entry))))))

/-! ### SEALED mode (R433) -/

/-- R433: the lane runs that send, or that receive, on a lane. -/
def directionRuns (s : State) (slot b ell k : Nat) (sends : Bool) : List LaneRun :=
  (laneRuns s slot b).filter (fun x => x.eyelet == ell && x.lane == k && x.dir != (if sends then 1 else 0))

/-- R433: blocks in schedule beats `t` to `t + 63` that none of a lane direction's runs holds and that are no mend slots. -/
def freeBlocks (s : State) (slot b ell k : Nat) (runs : List LaneRun) (t : Nat) : Nat :=
  let bc := max 1 (beatCount s slot b)
  ((List.range 256).filter (fun i =>
    let blk := 4 * t + i
    let at0 := blk % (4 * bc)
    !runs.any (fun x => decide (x.first ≤ at0) && decide (at0 < x.first + x.count)) && !mendSlotMap s slot b ell (blk / 4) (blk % 4))).length

def sealedRules (s : State) (slot b : Nat) : List Breach :=
  if !sealedMode s then []
  else (usedLanes s slot b).flatMap (fun p =>
    let ell := p.1 / 32
    let k := p.1 % 32
    let good (sends : Bool) : Bool :=
      let runs := directionRuns s slot b ell k sends
      (match planPartner s sends ell k with | some c => s.tenancy.vals.peers.contains c | none => false)
        && (runs.isEmpty || (List.range (2 * beatCount s slot b)).all (fun t => 2 ≤ freeBlocks s slot b ell k runs t))
    rulePkg p.1 (good true && good false))

/-- R391 (log 55): the welts that the granules of a lane run cross: the path between its physical tile and its eyelet's die, and the run's direction on it. -/
def runWelts (s : State) (x : LaneRun) : List (Nat × Nat) :=
  (Config.weltPath (physTile s (fld x.w1 63 58)) (physEyelet s x.eyelet / 4)).map (fun w => (x.dir, w))

/-- R391, R298: block position within the step at which a run's first granule crosses the package. -/
def runStart (s : State) (slot b : Nat) (x : LaneRun) : Nat := if x.dir = 1 then 4 * dueFirst s slot b x + x.pos else x.first

/-- R391: a run has a granule in the block at position `p` of the step, or of the next one. -/
def runCovers (s : State) (slot b : Nat) (x : LaneRun) (p : Nat) : Bool :=
  let n := 4 * beatCount s slot b
  decide ((p + n * (runStart s slot b x / n + 1) - runStart s slot b x) % n < x.count)

/-- R391: at most two scheduled granules cross a welt, in one direction, in the time of a block; the runs that begin where a third would be are named. -/
def weltRules (s : State) (slot b : Nat) : List Breach :=
  let xs := (laneRuns s slot b).zipIdx.filter (fun x => x.1.dir != 2)
  xs.flatMap (fun x =>
    let p := runStart s slot b x.1
    let now := xs.filter (fun y => runCovers s slot b y.1 p)
    rulePkg x.2 ((runWelts s x.1).all (fun w => (now.filter (fun y => (runWelts s y.1).contains w)).length ≤ 2)))

/-! ### Checks 9 and 10, and the end of a load -/

def check9 (s : State) (slot : Nat) : List Breach :=
  headerRules s slot
    ++ eachTile s slot (fun b t => streamRules s slot b t)
    ++ eachBucket s slot (laceLimit s slot)
    ++ eachTile s slot (fun b t =>
        let h := imageHandle s slot b t
        eachEntry s slot b secPass t 2 (fun i x => passRules h t i { w0 := nth x 0, w1 := nth x 1 })
          ++ eachEntry s slot b secFunc t 4 (fun i x => funcRules h t i { words := x })
          ++ windowRules s slot b t ++ copyRules s slot b t)
    ++ eachBucket s slot (fun b => runRules s slot b ++ laneRules s slot b ++ mendRules s slot b ++ fitRules s slot b)
    ++ eachTile s slot (timeRules s slot)
    ++ eachBucket s slot (fun b => txRules s slot b ++ rxRules s slot b ++ laceRules s slot b ++ sealedRules s slot b ++ weltRules s slot b)

/-- R305: every stagger from 0 to STAGGER_MAX. -/
def check10 (s : State) (slot : Nat) : List Breach :=
  eachBucket s slot (fun b => needPkg Code.profileRejected b ((List.range (staggerMax s slot + 1)).all (profilePasses s slot b)))

/-- Checks 3 to 10 in order: the first breach with its check number. -/
def firstBreach (s : State) (slot size : Nat) : Option (Nat × Breach) :=
  ([(3, fun (_ : Unit) => check3 s slot size), (4, fun _ => check4 s slot), (5, fun _ => check5 s slot), (6, fun _ => check6 s slot), (7, fun _ => check7 s slot),
    (8, fun _ => check8 s slot), (9, fun _ => check9 s slot), (10, fun _ => check10 s slot)] : List (Nat × (Unit → List Breach))).findSome?
      (fun c => ((c.2 ()).head?).map (fun x => (c.1, x)))

/-- LOAD_VERIFY (R304, R320, R155): the image is checked once it is copied, unless a line of it reads MEM_POISON; the slot becomes LOADED or EMPTY. -/
def execLoadVerify (s : State) : Host.Outcome State Fault Refusal :=
  .next (match s.last.load with
    | none => s
    | some l =>
      if l.status = Code.ok ∧ l.copied < l.size then s else
      let s0 := { s with last := { s.last with load := none } }
      let empty (status reason detail : Nat) : State :=
        loadEnd (setSlot { s0 with last := { s0.last with slots := tdel s0.last.slots l.slot } } l.slot .empty) l.origin status reason detail l.note
      if l.status ≠ Code.ok then empty l.status l.reason (loadDetail 2 0x3F 0)
      else if poisoned s (slotBase s l.slot) l.bytes then empty Code.memPoison 0 (loadDetail 3 0x3F 0)
      else
        match firstBreach s l.slot l.bytes with
        | some x => empty x.2.1 0 (loadDetail x.1 x.2.2.1 x.2.2.2)
        | none =>
          let slot : Slot := { state := .loading, gen := generationOf s l.slot, digest := setDigestOf s l.slot, bytes := l.bytes, fitAge := (tget {} s.last.slots l.slot).fitAge }
          loadEnd (setSlot { s0 with last := { s0.last with slots := tput s0.last.slots l.slot slot } } l.slot .loaded) l.origin Code.ok 0 0 l.note)

end Sys2Proof.Machine
end

