-- ==== Sys2Proof/Machine/Clock.lean ====
section
/-! DEFINITION. The reference loop (R27 to R32) and the wall anchor (R41). -/

namespace Sys2Proof.Machine

/-- R27: the input that feeds the reference: 1 LIN_A0, 2 LIN_B0, by eyelet die 0's selector; none while it switches or is DARK. -/
def refInput (s : State) : Option Nat :=
  match (tget {} s.optics.dies 0).sel with
  | .onA => some 1
  | .onB => some 2
  | _ => none

/-- R28, R225: a tone of at least 0.5% depth within 100 ppm of nominal, on the input that feeds the reference. -/
def toneValid (s : State) (t : Tone) : Bool := (refInput s).isSome && decide (50 ≤ t.depth) && decide (-100000 ≤ t.offsetPpb) && decide (t.offsetPpb ≤ 100000)

/-- R29: code of a state. -/
def RefState.code (x : RefState) : Nat := match x with | .free => 0 | .acquire => 1 | .locked => 2 | .holdover => 3 | .lost => 4

def setRef (s : State) (x : RefState) : State := { s with clock := { s.clock with refState := x } }

/-- R500: an injected laser loss of eyelet die 0 is in force: what follows from it is not counted. -/
def refInjected (s : State) : Bool := injectionOn s 3 0

/-- R31, R41: entry to LOCKED: the source is the selected input; a change from A to B or back is counted, also where
the package stood on its own oscillator in between (DESIGN CHOICE, log 93). -/
def lockRef (s : State) : State :=
  let src := (refInput s).getD s.clock.lastSource
  let s1 := { s with clock := { s.clock with refState := .locked, lastSource := src } }
  let s2 := rset s1 Reg.refSource src
  if s.clock.lastSource ≠ 0 ∧ src ≠ s.clock.lastSource ∧ refInjected s = false then rinc s2 Reg.refFailovers else s2

/-- TONE_DETECTED (R28, R29): a tone outside the acceptance range is treated as absent. -/
def execToneDetected (tone : Tone) (s : State) : Host.Outcome State Fault Refusal :=
  .next (if s.clock.refState = .free ∧ toneValid s tone = true then setRef s .acquire else s)

/-- REF_LOCK_ACQUIRED (R29, R41): the offset from the local oscillator is kept. -/
def execRefLockAcquired (offsetPpb : Int) (s : State) : Host.Outcome State Fault Refusal :=
  .next (if s.clock.refState = .acquire ∧ (refInput s).isSome = true then rsetI (lockRef s) Reg.refOffsetPpb offsetPpb else s)

/-- TONE_LOST_IN_ACQUIRE (R29). -/
def execToneLostInAcquire (s : State) : Host.Outcome State Fault Refusal :=
  .next (if s.clock.refState = .acquire then setRef s .free else s)

/-- REF_HOLDOVER_ENTRY (R29, R41): ref_source keeps the last input (log 79). -/
def execRefHoldoverEntry (s : State) : Host.Outcome State Fault Refusal :=
  .next (if s.clock.refState = .locked then
      let s1 := setRef s .holdover
      if refInjected s then s1 else rinc s1 Reg.refHoldovers
    else s)

/-- REF_HOLDOVER_RECOVERY (R29, R31): the beat counter neither gains nor loses a count. -/
def execRefHoldoverRecovery (tone : Tone) (s : State) : Host.Outcome State Fault Refusal :=
  .next (if s.clock.refState = .holdover ∧ toneValid s tone = true then lockRef s else s)

/-- REF_LOST (R32, R37): REF_LOST is raised, with STEP_FAULT if a Last is running; a handshake ends with REF_LOST. -/
def execRefLost (s : State) : Host.Outcome State Fault Refusal :=
  .next (if s.clock.refState = .holdover then
      let s1 := raise (setRef s .lost) { code := Code.refLost, injected := refInjected s }
      match s1.last.run with
      | some r =>
        if lastRunning s1 then stepFault s1 Code.refLost 0 0 none 0 (refInjected s)
        else if runState s1 = .armed then handshakeFail s1 r Code.refLost
        else s1
      | none => s1
    else s)

/-- R32: the lanes retrain after LOST. -/
def retrainAll (s : State) : State :=
  s.lanes.foldl (fun s x => if x.2.train == .off || x.2.train == .wait then s else laneGo s (x.1 / 32) (x.1 % 32) .wait Code.refLost) s

/-- REF_REACQUIRE (R29, R32): only while no Last is running; the local oscillator steers again. -/
def execRefReacquire (tone : Tone) (s : State) : Host.Outcome State Fault Refusal :=
  .next (if s.clock.refState = .lost ∧ toneValid s tone = true ∧ lastRunning s = false then rset (setRef (retrainAll s) .acquire) Reg.refSource 0 else s)

/-- R41: wall_anchor_ns; the beat counter is latched. -/
def wWallAnchor (v : Nat) (s : State) : Nat × State := accept (rset (rset s Reg.wallAnchorNs v) Reg.wallAnchorBeat s.clock.beat.toNat)

/-- WALL_ANCHOR_WRITE (R41). -/
def execWallAnchorWrite (via : Via) (ns : Nat) (s : State) : Host.Outcome State Fault Refusal := .next (doWrite s via 0x1100 0xB (wWallAnchor ns))

end Sys2Proof.Machine
end

