-- ==== Sys2Proof/Machine/Curve.lean ====
section
/-! DEFINITION. The curve P-384 (SP 800-186), ECDH on it, and the binding key (R420, R426, R523). -/

namespace Sys2Proof.Machine

/-! ### The field and the curve -/

/-- P-384: the prime of its field, the constant b of y² = x³ − 3x + b, the order of its base point, and that point. -/
def curveP : Nat := 2 ^ 384 - 2 ^ 128 - 2 ^ 96 + 2 ^ 32 - 1
def curveB : Nat := 0xB3312FA7E23EE7E4988E056BE3F82D19181D9C6EFE8141120314088F5013875AC656398D8A2ED19D2A85C8EDD3EC2AEF
def curveN : Nat := 0xFFFFFFFFFFFFFFFFFFFFFFFFFFFFFFFFFFFFFFFFFFFFFFFFC7634D81F4372DDF581A0DB248B0A77AECEC196ACCC52973
def curveG : Nat × Nat :=
  (0xAA87CA22BE8B05378EB1C71EF320AD746E1D3B628BA79B9859F741E082542A385502F25DBF55296C3A545E3872760AB7,
   0x3617DE4A96262C6F5D9E98BF9292DC29F8F41DBD289A147CE9DA3113B5F0B8C00A60B1CE1D7E819D7A431D7C90EA0E5F)

/-- A power in the field. -/
def fieldPow (b e : Nat) : Nat :=
  (List.range 384).reverse.foldl (fun r i => let q := r * r % curveP; if e.testBit i then q * b % curveP else q) 1

/-- A difference, and a quotient, in the field. -/
def fieldSub (a b : Nat) : Nat := (a + curveP - b % curveP) % curveP
def fieldDiv (a b : Nat) : Nat := a * fieldPow (b % curveP) (curveP - 2) % curveP

/-- Points but the one at infinity, which is `none`: the third point on the line of slope `m`, reflected. -/
def chord (m : Nat) (a b : Nat × Nat) : Nat × Nat :=
  let x := fieldSub (fieldSub (m * m) a.1) b.1
  (x, fieldSub (m * fieldSub a.1 x) a.2)

/-- The sum of two points. -/
def pointAdd (a b : Option (Nat × Nat)) : Option (Nat × Nat) :=
  match a, b with
  | none, _ => b
  | _, none => a
  | some p, some q =>
    if p.1 ≠ q.1 then some (chord (fieldDiv (fieldSub p.2 q.2) (fieldSub p.1 q.1)) p q)
    else if p.2 ≠ q.2 ∨ p.2 = 0 then none
    else some (chord (fieldDiv (fieldSub (3 * p.1 * p.1) 3) (2 * p.2)) p p)

/-- A multiple of a point. -/
def pointMul (d : Nat) (p : Nat × Nat) : Option (Nat × Nat) :=
  (List.range 384).reverse.foldl (fun r i => let q := pointAdd r r; if d.testBit i then pointAdd q (some p) else q) none

/-! ### Public keys and ECDH -/

/-- The bytes of a point, uncompressed, and the point that 97 bytes give, if it lies on the curve. -/
def pointBytes (p : Nat × Nat) : List Byte := 4 :: (beBytes 48 p.1 ++ beBytes 48 p.2)
def pointOf (bs : List Byte) : Option (Nat × Nat) :=
  let x := beNat ((bs.drop 1).take 48)
  let y := beNat ((bs.drop 49).take 48)
  if bs.length = 97 ∧ bs.head? = some 4 ∧ x < curveP ∧ y < curveP ∧ y * y % curveP = fieldSub (x * x * x + curveB) (3 * x) then some (x, y) else none

/-- R426: ECDH P-384 of a private key and a public key: the 48-byte x-coordinate; none for what is no valid point. -/
def ecdh (d : Nat) (key : List Byte) : Option (List Byte) := ((pointOf key).bind (pointMul d)).map (fun p => beBytes 48 p.1)

/-- R420, R523: the binding key: its private part, which the part holds from manufacture, and the public key of it. -/
def bindingPrivate : Nat := 1 + Config.rawBinding % (curveN - 1)
def bindingPubkey : List Byte := pointBytes ((pointMul bindingPrivate curveG).getD curveG)

end Sys2Proof.Machine
end

