-- ==== Sys2Proof/Machine/Halt.lean ====
section
/-! DEFINITION. Work that ends without completion records: what RST_N and a tenant change have in common (R140, R318, R321, R352, R413, R475). -/

namespace Sys2Proof.Machine

/-- R318, R321: every slot is EMPTY, no slot runs, agreed_stretch is 256; the rollback of a launch that is gone goes with it (log 38). -/
def emptyLast (s : State) : State :=
  let s1 := (s.last.slots.filter (fun x => x.2.state != .empty)).foldl (fun s x => setSlot s x.1 .empty) s
  rset { s1 with
    last := {}
    tiles := s1.tiles.map (fun t => (t.1, { t.2 with digest := [] }))
    power := { s1.power with localX := 256 }
    faults := { s1.faults with rollback := .none, peers := [], lastS := none, sameS := 0, injects := s1.faults.injects.filter (fun i => i.fired || i.atBeat == 0) } } Reg.agreedStretch 256

/-- R429: bits of install_status: state, status, chunks. -/
def installWord (state status chunks : Nat) : Nat := at' state 8 56 + at' status 8 48 + at' chunks 48 0

/-- R429, R413: an install is abandoned; what it has written stays. -/
def abandonInstall (s : State) : State :=
  match s.tenancy.install with
  | some i =>
    let keys := if i.waiting then s.tenancy.keys else tmod {} s.tenancy.keys i.slot (fun k => { k with refs := k.refs - 1 })
    rset { s with tenancy := { s.tenancy with install := none, keys := keys } } Reg.installStatus (installWord 3 0 i.chunks)
  | none => s

/-- R352, R413: queues are DISABLED, and their commands, queue operations of lace sets, copies, bulk requests, snapshots, restores and installs are
abandoned without records; what waits at a regulator goes with them (R161). -/
def abandonWork (s : State) : State :=
  let s1 := abandonInstall s
  { s1 with
    queues := { s1.queues with
      queues := s1.queues.queues.map (fun q => (q.1, { q.2 with state := .disabled, stop := 0, flights := [] }))
      sets := s1.queues.sets.map (fun x => (x.1, { x.2 with ops := [], early := [] }))
      bulk := none }
    stitch := { s1.stitch with ctxs := [], waiting := [] }
    lanes := s1.lanes.map (fun l => (l.1, { l.2 with txBuf := [], sent := l.2.sent.map (fun b => { b with ctx := none }) }))
    fabric := { s1.fabric with
      out := s1.fabric.out.map (fun d => (d.1, { d.2 with sent := d.2.sent.map (fun o => { o with origin := .other }), unsent := [] }))
      inn := s1.fabric.inn.map (fun d => (d.1, { d.2 with held := [], released := [] })) }
    hbm := { s1.hbm with buckets := s1.hbm.buckets.map (fun b => (b.1, { b.2 with fifo := [] })) }
    faults := { s1.faults with snap := none, restore := none } }

end Sys2Proof.Machine
end

