-- ==== Sys2Proof/Machine/Tenancy.lean ====
section
/-! DEFINITION. Tenants, the peer set and the tenant change (R408 to R414, R470), and anchors (R436). -/

namespace Sys2Proof.Machine

/-! ### The peer set (R408, R410) -/

/-- The chips of a 512-byte peer set, ascending. -/
def peersOf (v : List Byte) : List Nat := (List.range 4096).filter (fun c => ((v.getD (c / 8) 0).toNat).testBit (c % 8))

/-- The 512 bytes of a set of chips. -/
def peerBytes (peers : List Nat) : List Byte :=
  (List.range 512).map (fun i => BitVec.ofNat 8 ((List.range 8).foldl (fun n b => if peers.contains (8 * i + b) then n + 2 ^ b else n) 0))

/-- R408: a peer set that a tenancy may have: no chip from 0xF80 on, and the own chip. -/
def peersValid (s : State) (peers : List Nat) : Bool := peers.all (· < 0xF80) && peers.contains (rget s Reg.chipNumberActive)

/-- Lanes of links in SERVE that are sealed (R431), by received lane. -/
def sealedLanes (s : State) : List Nat := (s.lanes.filter (fun l => l.2.train == .serve && laneSealed s l.2)).map (·.1)

/-- R410: peer_set. -/
def wPeerSet (v : List Byte) (s : State) : Nat × State :=
  if v.length ≠ 512 then refuse s Code.lengthMismatch
  else
    let peers := peersOf v
    if s.tenancy.state ≠ .active ∨ lastArmed s = true ∨ peersValid s peers = false then refuse s Code.valueRefused
    else
      let gone := (sealedLanes s).filter (fun l => !(match lanePartner (tget {} s.lanes l) with | some c => peers.contains c | none => false))
      let s1 := { s with tenancy := { s.tenancy with vals := { s.tenancy.vals with peers := peers } } }
      accept (gone.foldl (fun s l => laneGo s (l / 32) (l % 32) .wait 0) s1)

/-- PEER_SET_WRITE (R410). -/
def execPeerSetWrite (via : Via) (v : List Byte) (s : State) : Host.Outcome State Fault Refusal := .next (doWrite s via 0x5000 5 (wPeerSet v))

/-! ### The tenant change (R411 to R414) -/

/-- R411: codes of the modes. -/
def TenMode.code (m : TenMode) : Nat := match m with | .vacant => 0 | .opn => 1 | .sealed => 2
def TenState.code (x : TenState) : Nat := match x with | .vacant => 0 | .clearing => 1 | .active => 2 | .failed => 3

/-- The lines of a word of tenant_change: none where a field breaks R408 or R411. -/
def changeVals (s : State) (v : List Byte) : Option TenVals :=
  let w := wordAt v 0
  let id := fld w 63 32
  let peers := peersOf (v.drop 8)
  if fld w 28 0 ≠ 0 then none
  else
    match fld w 31 30 with
    | 0 => if id = 0 ∧ v.drop 8 = zeros 512 then some {} else none
    | 1 => if id ≠ 0 ∧ peersValid s peers = true then some { id := id, mode := .opn, peers := peers } else none
    | 2 => if id ≠ 0 ∧ peersValid s peers = true then some { id := id, mode := .sealed, peers := peers } else none
    | _ => none

/-- R413 steps 1 to 5 for an accepted change. Its end is TENANT_CHANGE_COMPLETE. -/
def runChange (s : State) (c : TenVals) : State :=
  -- step 1: the peer set is empty, queues are DISABLED; sessions of the tenant end (R453)
  let lanes := sealedLanes s
  let s1 := abandonAll s (fun g => g.isMailbox || g.onTen) reasonTenant
  let s2 := s1.queues.queues.foldl (fun s q => setQState s q.1 .disabled 0) s1
  -- step 2: engines stop; the Last's slots are EMPTY (R318)
  let s3 := emptyLast (abandonWork s2)
  -- step 3: keys are erased, and sealed lanes go to WAIT
  let s4 := lanes.foldl (fun s l => laneGo s (l / 32) (l % 32) .wait 0) { refuseExports (zeroExports s3) with tenancy := { s3.tenancy with keys := [] } }
  -- R116: the durations of the zeroisation that begins
  let s4 := rset s4 Reg.lastZeroiseCycles 0
  -- step 4: a new HBM key for each engine, free, or none
  let s5 := { s4 with
    draws := s4.draws + 16
    tenancy := { s4.tenancy with
      state := .clearing
      change := some c
      vals := { s4.tenancy.vals with peers := [] }
      hbmKeys := if c.mode = .sealed then (List.range 4).map (fun e => bytesOf ((List.range 4).map (fun i => Config.freeWord (s4.draws + 4 * e + i)))) else []
      zeroising := List.range 72
      scrubbing := true }
    hbm := { s4.hbm with patrolSuspended := true }
    -- step 5, R115 steps 1 and 2
    tiles := [] }
  (List.range 72).foldl startZeroise s5

/-- R411: tenant_change. -/
def wTenantChange (v : List Byte) (s : State) : Nat × State :=
  if v.length ≠ 520 then refuse s Code.lengthMismatch
  else if clearing s = true ∨ (s.tenancy.state = .failed ∧ (s.reset'.marks.tenFail = true ∨ s.reset'.boot ≠ .ready)) then refuse s Code.valueRefused
  else
    match changeVals s v with
    | none => refuse s Code.valueRefused
    | some c =>
      let force := bit (wordAt v 0) 29
      if lastBusy s && !force then refuse s Code.valueRefused
      else
        let s1 := if lastRunning s then stepFault s 0 0 0 none 0 false else s
        accept (flashCommit (runChange s1 c) .tenancy)

/-- TENANT_CHANGE (R411, R413). -/
def execTenantChange (via : Via) (v : List Byte) (s : State) : Host.Outcome State Fault Refusal := .next (doWrite s via 0x5000 4 (wTenantChange v))

/-- Every register of the entries that a condition takes goes back to its default. -/
def defaultRegs (s : State) (which : Entry → Bool) : State :=
  let keep (k : Nat) : Bool :=
    match findEntry (k / 2 ^ 24) (k / 2 ^ 16 % 256) with
    | some e => !which e
    | none => true
  { s with regs := s.regs.filter (fun r => keep r.1) }

/-- R413 step 6, R503: the entries that a tenant change gives their defaults: RW-TEN and WO-TEN ones, and the tenant counters. -/
def tenantEntry (e : Entry) : Bool := (e.ten && (e.acc == .rw || e.acc == .wo)) || e.index == 0x6010

/-- R413 steps 6 and 7. The local snapshots were HBM's (log 39). -/
def finishChange (s : State) (c : TenVals) (us : Nat) : State :=
  let s1 := invalidateXlate (emptyLast (treadEmpty (defaultRegs s tenantEntry)))
  let s2 := rset (rset s1 (Reg.snapshotStatus.at 0) 0) (Reg.snapshotStatus.at 1) 0
  let s3 := { s2 with
    queues := { s2.queues with sets := [], mgmtRing := [], mgmtCq := [] }
    faults := { s2.faults with ranges := [] }
    tenancy := { s2.tenancy with
      state := if c.id = 0 then .vacant else .active
      vals := c
      change := none
      nonce := none
      report := [] } }
  flashCommit (rinc (rset (rset s3 Reg.installStatus 0) Reg.lastClearUs us) Reg.tenantChanges) .tenancy

/-- TENANT_CHANGE_COMPLETE (R412, R413): every tile has zeroised and the scrub has ended; a change that a reset has met runs again first (R414). -/
def execTenantChangeComplete (us : Nat) (s : State) : Host.Outcome State Fault Refusal :=
  .next (match s.tenancy.change with
    | some c =>
      if clearing s && s.tenancy.zeroising.isEmpty && !s.tenancy.scrubbing && (s.reset'.boot == .ready || s.reset'.boot == .excluded) && !s.reset'.held then
        finishChange s c us
      else s
    | none => s)

/-- R414: RST_N, or power, met the change: it runs again from step 1. -/
def rerunChange (s : State) : State :=
  match s.tenancy.change with
  | some c => if clearing s then runChange s c else s
  | none => s

/-! ### Anchors (R435, R436) -/

/-- The length of the DER value that starts a byte string, header and content; 0 where none does. -/
def derLength (bs : List Byte) : Nat :=
  match bs with
  | t :: l :: rest =>
    if t ≠ 0x30 then 0
    else if l.toNat < 128 then 2 + l.toNat
    else
      let n := l.toNat - 128
      if n = 0 ∨ 3 < n then 0 else 2 + n + (rest.take n).foldl (fun v b => 256 * v + b.toNat) 0
  | _ => 0

/-- The certificates that a value of mgmt_anchors holds: none where it is no row of DER values; at most `n`. -/
def derSplit : Nat → List Byte → Option (List (List Byte))
  | _, [] => some []
  | 0, _ => none
  | n + 1, bs =>
    let k := derLength bs
    if k = 0 ∨ bs.length < k then none else (derSplit n (bs.drop k)).map (bs.take k :: ·)

/-- Whether the session that writes chains to a current anchor. -/
def anchoredVia (s : State) (via : Via) : Bool :=
  match via with
  | .mgmt n => match (tget {} s.mgmt.sessions n).anchor with | some a => s.tenancy.anchors.contains a | none => false
  | .mailbox _ => false

/-- mgmt_anchors (R436). -/
def wAnchors (via : Via) (v : List (List Byte)) (s : State) : Nat × State :=
  if 4 < v.length ∨ v.any (fun c => !Config.isCertificate c) = true ∨ (v.isEmpty = true ∧ anchoredVia s via = false) then refuse s Code.valueRefused
  else accept (flashCommit { s with tenancy := { s.tenancy with anchors := v } } .anchors)

/-- MGMT_ANCHORS_WRITE (R436). -/
def execMgmtAnchorsWrite (via : Via) (v : List (List Byte)) (s : State) : Host.Outcome State Fault Refusal := .next (doWrite s via 0x5000 0x16 (wAnchors via v))

end Sys2Proof.Machine
end

