-- ==== Sys2Proof/Machine/Firmware.lean ====
section
/-! DEFINITION. Firmware and anti-rollback (R415 to R419) and attestation (R420, R421). -/

namespace Sys2Proof.Machine

/-! ### Images (R415, R416) -/

/-- R418: the fused counter. -/
def fusedNow (s : State) : Nat := s.tenancy.blown.getD Config.fused

/-- R415: an image that the ROM accepts. -/
def imageOk (s : State) (i : FwImage) : Bool := i.keyHash == Config.fwKeyHash && i.sigOk && fusedNow s ≤ i.svn && i.svn ≤ 64

/-- R416: the ROM prefers the higher SVN, and the higher build among equal SVNs. -/
def prefers (svn build : Nat) (i : FwImage) : Bool := svn < i.svn || (svn == i.svn && build < i.build)

/-- R419: the measurement of components in load order. -/
def measure (cs : List (List Byte)) : List Byte := cs.foldl (fun m c => sha384 (m ++ sha384 c)) (zeros 48)

/-- R417: codes of fw_update_state. -/
def FwState.code (x : FwState) : Nat := match x with | .none => 0 | .staged => 1 | .rejected => 2 | .activating => 3

/-- R417: the flash bank that does not hold the running image; bank 0 where neither does (log 88). -/
def standbyBank (s : State) : Nat :=
  let f := s.reset'.flash.images
  if s.tenancy.running.isSome ∧ tget? f 0 = s.tenancy.running then 1 else 0

/-- R417: fw_image_stage: an image that passes is written to the standby bank. One that fails leaves an earlier one staged (log 40). -/
def wImageStage (i : FwImage) (s : State) : Nat × State :=
  if s.tenancy.fw = .activating then refuse s Code.valueRefused
  else if imageOk s i && prefers (runSvn s) (runBuild s) i then accept { s with
      tenancy := { s.tenancy with fw := .staged, stagedImg := some i }
      reset' := { s.reset' with flash := { s.reset'.flash with images := tput s.reset'.flash.images (standbyBank s) i } } }
  else (Code.valueRefused, { s with tenancy := { s.tenancy with fw := .rejected } })

/-- FW_IMAGE_STAGE (R417). -/
def execFwImageStage (via : Via) (img : FwImage) (s : State) : Host.Outcome State Fault Refusal := .next (doWrite s via 0x5000 0x1A (wImageStage img))

/-- R417: fw_activate. -/
def wActivate (v : Nat) (s : State) : Nat × State :=
  if v ≠ 1 ∨ lastArmed s = true ∨ clearing s = true ∨ s.tenancy.stagedImg.isNone = true ∨ s.tenancy.fw = .activating then refuse s Code.valueRefused
  else accept { s with tenancy := { s.tenancy with fw := .activating } }

/-- FW_ACTIVATE (R417). -/
def execFwActivate (via : Via) (v : Nat) (s : State) : Host.Outcome State Fault Refusal := .next (doWrite s via 0x5000 0x1C (wActivate v))

/-- An image runs: nothing is staged, and the measurement is of the components loaded (R417, R419). -/
def runImage (s : State) (i : FwImage) (cs : List (List Byte)) : State :=
  { s with tenancy := { s.tenancy with running := some i, stagedImg := none, fw := .none, measurement := measure cs } }

/-- FW_ACTIVATION_DONE (R417, R380, R453): the copies have restarted, the model resumes from its mirror, and every session has ended. -/
def execFwActivationDone (components : List (List Byte)) (s : State) : Host.Outcome State Fault Refusal :=
  .next (match s.tenancy.fw, s.tenancy.stagedImg with
    | .activating, some i => runImage (endEverySession (resumeMirror s)) i components
    | _, _ => s)

/-- R418: fw_rollback_commit. -/
def wRollbackCommit (v : Nat) (s : State) : Nat × State :=
  if v ≠ 1 ∨ s.tenancy.fw = .staged ∨ s.tenancy.fw = .activating then refuse s Code.valueRefused
  else accept { s with tenancy := { s.tenancy with blown := some (max (fusedNow s) (runSvn s)) } }

/-- FW_ROLLBACK_COMMIT (R418). -/
def execFwRollbackCommit (via : Via) (v : Nat) (s : State) : Host.Outcome State Fault Refusal := .next (doWrite s via 0x5000 0xA (wRollbackCommit v))

/-! ### Attestation (R421) -/

/-- attest_nonce: a report is to be built. -/
def wNonce (v : List Byte) (s : State) : Nat × State :=
  if v.length ≠ 32 then refuse s Code.lengthMismatch else accept { s with tenancy := { s.tenancy with nonce := some v } }

/-- ATTEST_NONCE (R421). -/
def execAttestNonce (via : Via) (nonce : List Byte) (s : State) : Host.Outcome State Fault Refusal := .next (doWrite s via 0x5000 0xC (wNonce nonce))

/-- R421: bytes 0 to 255 of a report. -/
def reportBody (s : State) (nonce : List Byte) : List Byte :=
  let v := s.tenancy.vals
  bytesOf [word (at' 1 8 56 + at' v.mode.code 2 54 + at' s.tenancy.state.code 2 52 + at' (ownChip s) 12 40 + at' (runSvn s) 8 32 + at' (fusedNow s) 8 24),
    word Config.serial, word (at' v.id 32 32 + at' (runBuild s) 32 0), s.clock.beat]
  ++ padTo 48 s.tenancy.measurement ++ padTo 32 nonce ++ sha384 bindingPubkey ++ sha384 (peerBytes v.peers)
  ++ leBytes 8 ((s.tenancy.keys.filter (fun k => k.2.state != .empty)).foldl (fun n k => n + 2 ^ k.1) 0) ++ zeros 40

/-- ATTEST_REPORT_READY (R421). -/
def execAttestReportReady (s : State) : Host.Outcome State Fault Refusal :=
  .next (match s.tenancy.nonce with
    | some n =>
      let b := reportBody s n
      { s with tenancy := { s.tenancy with nonce := none, report := b ++ padTo 96 (Config.sign (sha384 b)) } }
    | none => s)

end Sys2Proof.Machine
end

