-- ==== Sys2Proof/Machine/Reset.lean ====
section
/-! DEFINITION. Resets (R464 to R467, R475, R476), bring-up (R468 to R470), the restart boundary (R471 to R474), power-up and power-down (R379,
R396, R400), and the release of SHUTDOWN (R372). -/

namespace Sys2Proof.Machine

def setBoot (s : State) (b : Boot) : State := { s with reset' := { s.reset' with boot := b } }

/-! ### What a reset clears (R466, R475) -/

/-- R107, R466: storage in tiles is unspecified, and the tables are clear. -/
def looseTiles (s : State) : State :=
  { s with
    draws := s.draws + 14 * 72
    phys := (List.range 72).map (fun p => (p, looseTile { tget {} s.phys p with zeroising := false } (s.draws + 14 * p) true))
    tiles := [] }

/-- R211: a swap in HOLDING is abandoned; buffers are cleared. -/
def resetRouter (s : State) : State :=
  let s1 := if s.router.state = .holding then rset s Reg.swapResult 5 else s
  { s1 with router := { active := s1.router.active, shadow := s1.router.shadow, genExt := s1.router.genExt } }

/-- R240, R241, R475: fitting passes are abandoned; a full search will be repeated; a selection that was under way or waits is due after the
bring-up. -/
def resetOptics (s : State) : State :=
  let dies := s.optics.dies.map (fun d =>
    (d.1, if d.2.sel = .toA ∨ d.2.sel = .toB ∨ d.2.pendingSel.isSome then { d.2 with pendingSel := some (rget s (Reg.laserSelectReq d.1)) } else d.2))
  let s1 := { s with optics := { s.optics with fits := [], dies := dies } }
  if s.optics.fits.isEmpty then s1 else driveHeaters s1

/-- R519: what waits for the trace port is discarded and counted. -/
def resetTrace (s : State) : State :=
  radd { s with trace := { s.trace with queue := [], replayAt := 0, digestEvery := 0 } } Reg.traceLost s.trace.queue.length

/-- R380: requests for stretch. -/
def resetPace (s : State) : State := rset (rset (setPower s (fun p => { p with localX := 256, taper := true })) Reg.capStretch 256) Reg.stretchRequest 256

/-- R465, R466, R475: the Last and all work are abandoned, and the switched domain is cleared. The tenant change that is under way stands still
until it runs again (R414). -/
def clearSwitched (s : State) : State :=
  let s1 := resetTrace (resetPace (resetOptics (resetRouter (abortSelftest (emptyLast (abandonWork (abandonAll s Seg.isMailbox reasonRst)))))))
  let s2 := looseTiles s1
  allWelts { s2 with
    stitch := {}
    fabric := {}
    lanes := (s2.lanes.filter (fun l => l.2.switching)).map (fun l => (l.1, { switching := true }))
    hbm := { s2.hbm with buckets := [], frames := [], dirty := [], patrolSuspended := false }
    queues := { s2.queues with sets := s2.queues.sets.map (fun x => (x.1, { x.2 with seq := 0, ops := [], early := [] })), lastStarted := [] }
    pkg := { s2.pkg with testing := none }
    tenancy := { s2.tenancy with scrubbing := false } } .down

/-! ### Warm resets (R464, R465) -/

/-- A warm reset is recognised: the package is held until the write-back has ended and RST_N is high. HBM keeps what was acknowledged (R166). -/
def warmReset (s : State) (cause : Nat) : State :=
  let s1 := clearSwitched s
  rset (rinc { s1 with reset' := { s1.reset' with boot := .dies, held := true, cause := cause } } Reg.warmResets) Reg.resetCause cause

/-- RST_N (R399, R464, R465): it acts while the switched domain has power. -/
def execRstN (s : State) : Host.Outcome State Fault Refusal :=
  .next (if s.reset'.pwrOk && poweredUp s && !s.reset'.held then warmReset s 2 else s)

/-- R468: bring-up enters DIES: dies leave reset and may be found dead anew, welts train, the reference loop starts in FREE. With BOOT_SRC 0b10
every die is in stand-alone test first (R393, R400; log 87). -/
def startDies (s : State) : State :=
  let s1 := rset (setRef s .free) Reg.refSource 0
  let s2 := setPower { s1 with reset' := { s1.reset' with boot := .dies, held := false } } (fun p => { p with taper := false, discharge := false })
  let s3 := aliveAgain s2 (fun _ => true)
  if s.reset'.straps % 4 = 2 then allWelts { s3 with pkg := { s3.pkg with testing := some 0, testNext := (List.range 71).map (· + 1) } } .loopback
  else allWelts s3 .training

/-- RST_N_RELEASE (R465, R166): the write-back has ended and RST_N is high: bring-up begins. -/
def execRstNRelease (writebackUs : Nat) (s : State) : Host.Outcome State Fault Refusal :=
  .next (if s.reset'.held && s.reset'.pwrOk then startDies (rset s Reg.resetWritebackUs writebackUs) else s)

/-- restart_request (R464, R476, R478). -/
def wRestart (v : Nat) (s : State) : Nat × State :=
  if v ≠ 1 ∨ (s.reset'.boot ≠ .ready ∧ s.reset'.boot ≠ .excluded) ∨ s.reset'.held then refuse s Code.valueRefused else accept (warmReset s 3)

/-- RESTART_REQUEST (R464). -/
def execRestartRequest (via : Via) (v : Nat) (s : State) : Host.Outcome State Fault Refusal := .next (doWrite s via 0x3000 9 (wRestart v))

/-- thermal_release (R372): after 60 s below 100 °C in SHUTDOWN; the thermal state is then the one that t_max leaves. Where the carrier has
removed power (R399), the latch alone is released: no domain is up to be reset. -/
def wThermalRelease (v : Nat) (s : State) : Nat × State :=
  if v ≠ 1 ∨ s.power.thermal ≠ .shutdown ∨ s.power.clearUs < 60000000 then refuse s Code.valueRefused
  else
    let s1 := emit (setPower s (fun p => { p with tripped := false, clocksOff := false, clearUs := 0 })) (.pin 1 true)
    let s2 := enterThermal s1 (fallState .limit (rgetI s Reg.tMaxMc))
    accept (if s.reset'.pwrOk && poweredUp s then warmReset s2 4 else s2)

/-- THERMAL_RELEASE (R372, R464). -/
def execThermalRelease (via : Via) (v : Nat) (s : State) : Host.Outcome State Fault Refusal := .next (doWrite s via 0x1300 0xE (wThermalRelease v))

/-! ### The restart boundary (R471 to R474) -/

/-- R440: one pending RWX value takes effect. -/
def applyRwx (s : State) (x : Nat × Nat) : State :=
  match findEntry (x.1 / 2 ^ 24) (x.1 / 2 ^ 16 % 256) with
  | some e => rset s (e.reg (x.1 / 2 ^ 24) 0) x.2
  | none => s

/-- R471 step 1, R176, R246, R467: pending values take effect. A tread ring that moves restarts empty (log 48). -/
def applyPending (s : State) : State :=
  let s0 := s.mgmt.pendingRwx.foldl applyRwx { s with mgmt := { s.mgmt with pendingRwx := [] } }
  let s1 := if (keptPending s).isEmpty then s0 else flashCommit s0 .chip
  let s2 := if treadBase s1 = treadBase s ∧ treadBytes s1 = treadBytes s then s1 else treadEmpty s1
  let s3 := if s2.optics.pendingTables.isEmpty then s2
    else calibSave (s2.optics.pendingTables.foldl (fun s x =>
      { s with optics := { s.optics with tables := (List.range 64).foldl (fun t r => tput t (64 * x.1 + r) ((x.2.drop (16 * r)).take 16)) s.optics.tables } })
      { s2 with optics := { s2.optics with pendingTables := [] } })
  let s4 := rset s3 Reg.chipNumberActive (rget s3 Reg.chipNumber)
  rset s4 Reg.groupMember (if unassigned s4 then 0xFF else memberIndex s4.plan.committed (ownChip s4))

/-- R390, R472: a tile with a welt that is DEGRADED or DOWN is FAILED. -/
def failByWelts (s : State) : State :=
  (List.range 72).foldl (fun s p => if (weltPorts p).any (fun q => (welt s p q).state = .degraded ∨ (welt s p q).state = .down) then setHealth s p .failed else s) s

/-- R472: rebuild; none for SPARES_EXHAUSTED. -/
def rebuildMap (ok : Nat → Bool) (map : List Nat) : Option (List Nat) :=
  (map.foldl (fun (a : Option (List Nat × List Nat)) p =>
    match a with
    | none => none
    | some (done, used) =>
      if ok p then some (done ++ [p], used)
      else
        match (List.range 72).filter (fun q => ok q && !used.contains q) with
        | [] => none
        | f :: fs =>
          let q := ((f :: fs).find? (fun q => tileDie q == tileDie p)).getD f
          some (done ++ [q], used ++ [q])) (some ([], map.filter ok))).map (·.1)

/-- R473: a spare newly mapped in for logical tile t is cleared; a read-back that fails marks it FAILED. -/
def clearSpare (clearOk : List Nat) (s : State) (t p : Nat) : State :=
  let s1 := setLtile (clearTile s p) t (fun _ => {})
  if clearOk.contains p then s1 else notice (setHealth s1 p .failed) Code.zeroiseFail 7 p p

/-- R471 step 2: the logical tiles whose physical tile changes in a new map, with the new one; none where spares do not suffice. -/
def freshTiles (s : State) : Option (List (Nat × Nat)) :=
  (rebuildMap (fun p => (ptile s p).health == .healthy) ((List.range 64).map (physTile s))).map (fun m =>
    ((List.range 64).zip m).filter (fun x => physTile s x.1 != x.2))

/-- R471, R473: the new map is committed, and each new spare is cleared. -/
def installMap (clearOk : List Nat) (s : State) (fresh : List (Nat × Nat)) : State :=
  fresh.foldl (fun s x => clearSpare clearOk s x.1 x.2)
    (flashCommit { s with reset' := { s.reset' with tileMap := fresh.foldl (fun t x => tset (fusedTile x.1) t x.1 x.2) s.reset'.tileMap } } .tiles)

/-- One round of a rebuild, unless it has ended; how it ended: whether spares are exhausted. -/
def rebuildRound (clearOk : List Nat) (x : Option Bool × State) : Option Bool × State :=
  match x.1 with
  | some _ => x
  | none =>
    match freshTiles x.2 with
    | none => (some true, x.2)
    | some fresh =>
      if fresh.isEmpty then (some false, x.2)
      else (if fresh.all (fun y => clearOk.contains y.2) then some false else none, installMap clearOk x.2 fresh)

/-- R471 step 2: the tile map is rebuilt, again after each spare that does not clear, with at most `n` rounds; whether spares are exhausted. The map
in force stays when they are (log 49). -/
def rebuild (clearOk : List Nat) (n : Nat) (s : State) : Bool × State :=
  let r := (List.range n).foldl (fun x _ => rebuildRound clearOk x) (none, s)
  (r.1.getD true, r.2)

/-- R474: the causes of exclusion, as exclusion reads them. -/
def exclusionBits (s : State) : Nat :=
  let m := s.reset'.marks
  (if m.spares then 1 else 0) + (if m.dieDead then 2 else 0) + (if m.railFault then 4 else 0) + (if m.stackFail then 8 else 0) + (if m.tenFail then 16 else 0)

/-- R241, R468: eyelets whose rings are all NEVER_FIT, those with an UNFIT lane, and those whose search a reset ended. -/
def dueSearches (s : State) : List Nat :=
  (List.range 32).filter (fun e =>
    let rings := (List.range 32).map (fun k => tget RingState.neverFit s.optics.rings (laneKey e k))
    rings.all (· == .neverFit) || rings.contains .unfit || (tget? s.optics.searching e).isSome)

/-- R471, R474: the restart boundary, and the end of the bring-up in READY or EXCLUDED. The route banks stand where R211 reinstalls them; the request
applied locally starts again from 256 (R375). -/
def restartBoundary (s : State) (clearOk : List Nat) (ms : Nat) : State :=
  let r := rebuild clearOk 9 (failByWelts (applyPending s))
  let m := r.2.reset'.marks
  let s1 := { r.2 with reset' := { r.2.reset' with marks := { m with spares := r.1 }, full := false } }
  let s2 := if r.1 then notice s1 Code.sparesExhausted 0 0 0 else s1
  let x := exclusionBits s2
  let s3 := rset { s2 with
    reset' := { s2.reset' with exclusion := x, marks := { m with spares := r.1, railFault := false } }
    power := { s2.power with localX := 256 } } Reg.lastBringupMs ms
  let s4 := if m.spares = r.1 ∧ m.railFault = false then s3 else flashCommit s3 .marks
  let s5 := if x = 0 then setBoot s4 .ready else setBoot (rset (rset s4 Reg.chipNumberActive 0xFFFF) Reg.groupMember 0xFF) .excluded
  (dueSearches s5).foldl startSearch (dueSelects s5)

/-! ### Bring-up (R468 to R470) -/

/-- R389, R392, R468: every welt has settled: one that is DOWN has been retried, or its ends share no revision. -/
def weltsSettled (s : State) : Bool :=
  s.pkg.welts.all (fun w => w.2.state != .training && w.2.state != .loopback && (w.2.state != .down || w.2.noRev || decide (2 ≤ w.2.fails)))

/-- R470: the cold clear begins. A tenancy that is FAILED stays so (R474; log 50). -/
def startColdClear (s : State) : State :=
  match s.tenancy.state, s.tenancy.change with
  | .clearing, some c => runChange s c
  | .failed, _ => let s1 := runChange s {}; { s1 with tenancy := { s1.tenancy with state := .failed, change := none } }
  | _, _ => runChange s {}

/-- R470: what the cold clear leaves. -/
def endColdClear (s : State) (us : Nat) (failedStack : Option Nat) : State :=
  let s1 := s.tenancy.zeroising.foldl (fun s p => if (ptile s p).zeroising then setPtile (clearTile s p) p (fun x => { x with zeroising := false }) else s) s
  let s2 := scrubEnd { s1 with tenancy := { s1.tenancy with zeroising := [] } } us failedStack
  match s2.tenancy.change with
  | some c => if clearing s2 then finishChange s2 c us else s2
  | none => s2

/-- R469: a bring-up is under way: after POWER and COLD it counts from the rise of PWR_OK. -/
def bringingUp (s : State) : Bool :=
  match s.reset'.boot with
  | .off => false
  | .rom => s.reset'.pwrOk
  | .fwHalt => s.reset'.pwrOk
  | .waitPower => s.reset'.pwrOk
  | .dies => true
  | .memory => true
  | .map => true
  | .ready => false
  | .excluded => false

/-- BRINGUP_TIMEOUT (R469): it is raised, and the bring-up continues. -/
def execBringupTimeout (s : State) : Host.Outcome State Fault Refusal :=
  .next (if bringingUp s then notice s Code.bringupTimeout 0 0 0 else s)

/-! ### Power (R379, R396, R400, R440, R466, R476) -/

/-- R468: WAIT_POWER, left at once when PWR_OK is high and the straps have passed. -/
def enterWaitPower (s : State) : State := if s.reset'.pwrOk && !s.reset'.strapBad then startDies s else setBoot s .waitPower

/-- PWR_OK_FALL (R379, R475, R476): issue stops, the governor tapers, and the discharge loads are connected. -/
def execPwrOkFall (s : State) : Host.Outcome State Fault Refusal :=
  .next (if !s.reset'.pwrOk then s
    else
      let up := poweredUp s
      let s1 := if up then clearSwitched s else s
      let s2 := setPower s1 (fun p => { p with taper := true, discharge := true })
      { s2 with reset' := { s2.reset' with boot := if up then .waitPower else s2.reset'.boot, pwrOk := false, held := false, full := true, fell := true, strapBad := false } })

/-- R466, R467: registers that a rise of PWR_OK leaves: chip_number, the route generations, what stands for the committed plan, lane ages and the
readings of the thermal model. -/
def keptReg (key : Nat) : Bool :=
  let index := key / 2 ^ 24
  let sub := key / 2 ^ 16 % 256
  FlashPart.holds .chip key || FlashPart.holds .banks key || FlashPart.holds .plan key
    || (0x2210 ≤ index && index < 0x2230 && sub == 2) || (index == 0x1300 && (sub == 4 || sub == 5 || sub == 6 || sub == 7 || sub == 8 || sub == 10))

/-- R467, R472: the health of tiles, and nothing else of them. -/
def keptTiles (s : State) : Tab PhysTile := (s.phys.filter (fun p => p.2.health != .healthy)).map (fun p => (p.1, { health := p.2.health }))

/-- R475: an install that a reset has cut short reads ABORTED until the next one (log 89). -/
def keptInstall (s t : State) : State :=
  let w := rget s Reg.installStatus
  if w = 0 then t else rset t Reg.installStatus w

/-- R475: a selector whose switch, or selection that waits, a reset has met: after the bring-up its die takes the input that laser_select_req
then names, which has its default, A. -/
def keptSelects (s : State) : Tab EyeDie :=
  (s.optics.dies.filter (fun d => d.2.pendingSel.isSome)).map (fun d => (d.1, { pendingSel := some 0 }))

/-- R33, R440, R466: the state that a rise of PWR_OK leaves: the Cobbler and its management sessions, what R467 and the table of R466 keep, and
defaults. HBM holds what no rule gives until the cold clear. -/
def powerState (s : State) : State :=
  looseTiles
  { s with
    regs := s.regs.filter (fun r => keptReg r.1)
    draws := s.draws + 1
    clock := {}
    phys := keptTiles s
    tiles := []
    stitch := {}
    hbm := { mem := { cells := [], free := some s.draws } }
    fabric := {}
    router := { active := s.router.active, shadow := s.router.shadow, genExt := s.router.genExt }
    optics := { tables := s.optics.tables, rings := s.optics.rings, ages := s.optics.ages, searching := s.optics.searching, dies := keptSelects s }
    lanes := []
    plan := { s.plan with staged := [] }
    last := {}
    queues := {}
    power := { s.power with coeffs := Config.factoryCoeffs, localX := 256, capOver := false, capRaised := false, taper := false, discharge := false }
    pkg := {}
    mgmt := { s.mgmt with sessions := s.mgmt.sessions.map (fun x => (x.1, ({ anchor := x.2.anchor } : Dtls))), pendingRwx := keptPending s, alerts := 0, stuck := false, highRun := 0, lineWanted := false, linePending := false, pendingFor := 0, sinceEnd := 0, ipv6 := [], gateway := [] }
    faults := {}
    trace := {} }

/-- PWR_OK_RISE (R396, R400, R440, R464, R466): the straps are sampled, defaults return, and bring-up goes on to DIES; reserved straps hold the
package. CARRIER_CAP gives power_cap_w its default. -/
def execPwrOkRise (straps slotId msSinceStep0 : Nat) (s : State) : Host.Outcome State Fault Refusal :=
  .next (if s.reset'.boot = .off ∨ s.reset'.pwrOk then s
    else
      let cause := if s.reset'.fell then 1 else s.reset'.cause
      let bad : Bool := straps % 4 == 3 || straps.testBit 3
      let s1 := keptInstall s (powerState s)
      let s2 := { s1 with reset' := { s1.reset' with pwrOk := true, cause := cause, full := true, strapBad := bad, straps := straps % 16, slotId := slotId % 64 } }
      let s3 := rset (rset (rset (rset s2 Reg.strapValue (straps % 16)) Reg.slotId (slotId % 64)) Reg.powerUpMs msSinceStep0) Reg.resetCause cause
      let s4 := if straps.testBit 2 then rset s3 Reg.powerCapW 1800 else s3
      let s5 := if bad then notice s4 Code.strapInvalid 0 0 0 else s4
      -- R399: with no alert pending ALERT_N is released
      let s6 := if s.mgmt.linePending then emit s5 (.pin 0 true) else s5
      if s.reset'.boot = .waitPower then enterWaitPower s6 else s6)

/-! ### The always-on rails (R464, R466, R467, R476) -/

/-- AON_POWER_LOSS (R476): everything stops. -/
def execAonPowerLoss (s : State) : Host.Outcome State Fault Refusal :=
  .next (if s.reset'.boot = .off then s
    else
      let s1 := endEverySession (if poweredUp s then clearSwitched s else s)
      { s1 with
        mgmt := { s1.mgmt with linkUp := false, segs := [], sessions := [] }
        reset' := { s1.reset' with boot := .off, pwrOk := false, held := false } })

/-- R367, R466, R467: the state after the always-on rails rise: what flash holds, and defaults. Every node starts at the default coolant
temperature; an image that is staged stays so until it boots (R417). -/
def coldState (s : State) : State :=
  let f := s.reset'.flash
  { State.reset with
    pending := s.pending
    out := s.out
    regs := f.regs.foldl (fun t r => tput t r.1 r.2) []
    draws := s.draws + 1
    phys := f.health.map (fun p => (p.1, { health := p.2 }))
    hbm := { mem := { cells := [], free := some s.draws } }
    router := { active := f.active, shadow := f.shadow, genExt := f.genExt }
    optics := { tables := f.calib.tables, rings := f.calib.rings, searching := s.optics.searching, dies := keptSelects s }
    plan := f.plan
    power := { temps := (List.range dieCount).map (fun i => (i, Frac.ofInt 45000)), biases := f.calib.biases, plateBias := f.calib.plateBias }
    tenancy := { state := f.ten, vals := f.vals, change := f.change, anchors := f.anchors, blown := s.tenancy.blown
                 fw := if s.tenancy.stagedImg.isSome then .staged else .none, stagedImg := s.tenancy.stagedImg }
    mgmt := { pendingRwx := f.pendingChip }
    reset' := { boot := .rom, cause := 0, full := true, tileMap := f.tileMap, marks := f.marks, flash := f } }

/-- R399: pins that were driven low and are not any more. -/
def freePins (s t : State) : State :=
  let t1 := if s.mgmt.linePending then emit t (.pin 0 true) else t
  if s.power.tripped then emit t1 (.pin 1 true) else t1

/-- COLD_RESET (R464): from below tolerance. -/
def execColdReset (s : State) : Host.Outcome State Fault Refusal :=
  .next (if s.reset'.boot = .off then rset (freePins s (keptInstall s (coldState s))) Reg.resetCause 0 else s)

/-- R416: the image of two banks that the ROM boots. -/
def bootImage (s : State) (banks : List FwImage) : Option FwImage :=
  (banks.filter (imageOk s)).foldl (fun (b : Option FwImage) i =>
    match b with
    | none => some i
    | some x => if prefers x.svn x.build i then some i else some x) none

/-- R416: the banks as flash holds them: `made` is what manufacture has put there (log 88). -/
def bankImages (s : State) (made : List FwImage) : Tab FwImage :=
  (List.range 2).filterMap (fun b => ((tget? s.reset'.flash.images b).or made[b]?).map (fun i => (b, i)))

/-- R416, R400: a recovery image that has come counts under BOOT_SRC 0b01; before the straps are sampled, the pins alone say so (log 88). -/
def recoveryAllowed (s : State) : Bool := !s.reset'.pwrOk || s.reset'.straps % 4 == 1

/-- ROM_BOOT_DONE (R416, R468): `images` are what manufacture has put into the two banks and, third, a recovery image under BOOT_SRC 0b01, which
the ROM turns to where neither bank passes. -/
def execRomBootDone (images : List FwImage) (components : List (List Byte)) (s : State) : Host.Outcome State Fault Refusal :=
  .next (if s.reset'.boot ≠ .rom then s
    else
      let banks := bankImages s (images.take 2)
      let s1 := { s with reset' := { s.reset' with flash := { s.reset'.flash with images := banks } } }
      let late := if recoveryAllowed s then bootImage s (images.drop 2) else none
      match (bootImage s (banks.map (·.2))).or late with
      | some i => enterWaitPower (runImage s1 i components)
      | none => setBoot (notice s1 Code.fwAuthFail 0 0 0) .fwHalt)

/-- RECOVERY_IMAGE (R416, R468): nothing but an accepted image leaves FW_HALT. -/
def execRecoveryImage (img : FwImage) (components : List (List Byte)) (s : State) : Host.Outcome State Fault Refusal :=
  .next (if s.reset'.boot = .fwHalt ∧ imageOk s img = true then enterWaitPower (runImage s img components) else s)

/-! ### Flash, fences and exclusion (R467, R474, R478) -/

/-- CALIB_FLASH_WRITE (R467). -/
def execCalibFlashWrite (ok : Bool) (s : State) : Host.Outcome State Fault Refusal :=
  .next (if s.reset'.boot = .off ∨ calibNow s = s.reset'.flash.calib then s else if ok then flashStore s .calib else notice s Code.flashFail 0 0 0)

/-- tile_fence_req (R472, R478). -/
def wTileFence (p : Nat) (s : State) : Nat × State := if 71 < p ∨ tileServes s p = true then refuse s Code.valueRefused else accept (fenceTile s p)

/-- TILE_FENCE_REQ (R478). -/
def execTileFenceReq (via : Via) (phys : Nat) (s : State) : Host.Outcome State Fault Refusal := .next (doWrite s via 0x3000 8 (wTileFence phys))

/-- exclusion_clear (R474, R478). -/
def wExclusionClear (v : Nat) (s : State) : Nat × State :=
  if v ≠ 1 ∨ s.reset'.boot ≠ .excluded then refuse s Code.valueRefused
  else accept (flashCommit (aliveAgain { s with reset' := { s.reset' with marks := {}, exclusion := 0 } } (fun d => decide (72 ≤ d))) .marks)

/-- EXCLUSION_CLEAR (R474). -/
def execExclusionClear (via : Via) (v : Nat) (s : State) : Host.Outcome State Fault Refusal := .next (doWrite s via 0x3000 0xB (wExclusionClear v))

end Sys2Proof.Machine
end

