-- ==== Sys2Proof/Machine/Sealing.lean ====
section
/-! DEFINITION. Sealed lanes (R431 to R433): what is sent and received under a session key, windows and their tags. -/

namespace Sys2Proof.Machine

/-! ### Sending (R431) -/

/-- R431: the DATA bytes of a flit or of scheduled data at the position of the stream now, and the lane that keeps the plaintext for the tag. -/
def sealData (s : State) (e k : Nat) (data : List Byte) : List Byte × State :=
  let l := lane s e k
  match l.sealTx with
  | none => (data, s)
  | some x => (sealCrypt x.2 l.sealOut data, setLane s e k (fun l => { l with sealTxWin := l.sealTxWin ++ [(l.sealOut % 256, data)] }))

/-- R431: a block has gone: a stream begins, or its position moves on and a window that has ended has its SEAL_TAG wait. -/
def sealStep (s : State) (e k : Nat) : State :=
  let l := lane s e k
  match l.sealNext, l.sealTx with
  | some x, _ => setLane s e k (fun l => { l with sealTx := some x, sealNext := none, sealOut := 0, sealTxWin := [] })
  | none, none => s
  | none, some x =>
    let n := l.sealOut
    let s1 := setLane s e k (fun l => { l with sealOut := n + 1 })
    if (n + 1) % 256 ≠ 0 then s1
    else
      let s2 := setLane s1 e k (fun l => { l with sealTxWin := [] })
      queueSeal s2 e k ((lanePartner (rxOf s e k)).getD 0) 3 (n / 256) (windowTag x.2 (n / 256) l.sealTxWin) none

/-- R200, R431: the SEAL flit that a free block takes: before other flits, but inside no other packet of its virtual channel. -/
def nextSeal (s : State) (e k : Nat) : Option SealFlit :=
  (lane s e k).sealFlits.head?.filter (fun f => !f.header || (match tget? s.router.granted (bufKey e k 3 0) with | some g => g.sent == 0 | none => true))

/-- A SEAL flit leaves; after the payload of a SEAL_START its stream begins. -/
def takeSealOut (s : State) (e k : Nat) (f : SealFlit) : State :=
  setLane s e k (fun l => { l with sealFlits := l.sealFlits.drop 1, sealNext := if f.begins.isSome then f.begins else l.sealNext })

/-! ### Receiving (R432, R433) -/

/-- How many block positions before the newest received one a BSN lies. -/
def rxAge (l : Lane) (bsn : Nat) : Nat := (l.rxBsn + 511 - bsn % 256) % 256

/-- R433: the position in the received stream of the block with a BSN, if it lies in it. -/
def sealPlace (l : Lane) (bsn : Nat) : Option Nat := if rxAge l bsn < l.sealIn then some (l.sealIn - 1 - rxAge l bsn) else none

/-- R433: the tag of a window fails or does not come: SEAL_AUTH_FAIL; the lane goes to WAIT and its unverified flits are gone; STEP_FAULT if the window
carried scheduled data or the running Last uses the lane. -/
def sealFail (s : State) (e k w : Nat) : State :=
  let l := lane s e k
  let scheduled := l.sealRxWin.any (fun x => x.1 / 256 == w && x.2.2)
  let used := laneUsed s e k
  let unit := laneUnit s e k
  let s1 := raise (rinc s Reg.sealAuthFailures) { code := Code.sealAuthFail, unitKind := 4, unit := unit, failed := lanePartner l, detail := w }
  let s2 := laneGo s1 e k .wait Code.sealAuthFail
  if scheduled && !used then stepFault s2 Code.sealAuthFail 4 unit (lanePartner l) w false else s2

/-- R433: window w has verified, and its flits pass to the router in order. -/
def passWindow (s : State) (e k w : Nat) : State :=
  let l := lane s e k
  let s1 := setLane s e k (fun l => { l with
    sealPos := w + 1
    sealHeld := l.sealHeld.filter (fun x => x.1 != w)
    sealRxWin := l.sealRxWin.filter (fun x => x.1 / 256 != w)
    sealTags := l.sealTags.filter (fun x => x.1 != w) })
  (l.sealHeld.filter (fun x => x.1 == w)).foldl (fun s x => arrive s (lanePort e k) x.2.1 x.2.2) s1

/-- R433: the next window to verify has ended, no block of it is missing, and its tag has come: it verifies, and perhaps the one after it. -/
def sealCheck : Nat → State → Nat → Nat → State
  | 0, s, _, _ => s
  | n + 1, s, e, k =>
    let l := lane s e k
    let w := l.sealPos
    match l.sealRx, l.sealTags.find? (fun t => t.1 == w) with
    | some x, some t =>
      if l.sealIn < 256 * (w + 1) || l.missing.any (fun m => (sealPlace l m.bsn).any (fun p => p / 256 == w)) then s
      else if windowTag x.2 w ((l.sealRxWin.filter (fun y => y.1 / 256 == w)).map (fun y => (y.1 % 256, y.2.1))) = t.2 then sealCheck n (passWindow s e k w) e k
      else sealFail s e k w
    | _, _ => s

/-- Windows that one call of `sealCheck` may verify. -/
abbrev sealFuel : Nat := 4

/-- R431, R432: a received link takes a session key from a SEAL_START that names a key: none loaded waits; one that matches no slot is a mismatch. -/
def takeSeal (s : State) (e k id : Nat) (salt : List Byte) : State :=
  let keys := fabricKeys s
  match keys.find? (fun x => x.1 == id) with
  | some x =>
    let key := sessionKey x.2 salt ((lanePartner (lane s e k)).getD 0) (ownChip s) (peerEyelet s e) k
    setLane s e k (fun l => { l with sealRx := some (id, key), sealWait := none })
  | none =>
    if keys.isEmpty then setLane s e k (fun l => { l with sealWait := some (id, salt), sealRx := none })
    else
      let s1 := raise (rinc s Reg.sealMismatches) { code := Code.sealMismatch, unitKind := 4, unit := laneUnit s e k, failed := lanePartner (lane s e k), detail := id }
      laneGo s1 e k .wait Code.sealMismatch

/-- R431: the payload of a SEAL_START, after which `n` block positions have come: the sealed stream of a link in SERVE to a partner of the peer set
begins after its block. What an earlier key left unverified is discarded (log 41). -/
def onSealStart (s : State) (e k n : Nat) (payload : List Byte) : State :=
  let l := lane s e k
  if l.train ≠ .serve ∨ laneSealed s l = false then s
  else
    takeSeal (setLane s e k (fun l => { l with sealPos := 0, sealIn := n, sealHeld := [], sealRxWin := [], sealTags := [], sealRaw := [] })) e k
      (wordAt payload 1).toNat ((payload.drop 16).take 16)

/-- R433: the tag of window `w` comes. -/
def onSealTag (s : State) (e k w : Nat) (tag : List Byte) : State :=
  let l := lane s e k
  if l.sealRx.isNone ∨ w < l.sealPos then s
  else sealCheck sealFuel (setLane s e k (fun l => { l with sealTags := l.sealTags ++ [(w, tag)] })) e k

/-- R431: a payload flit of a CONTROL packet of LEN 1 that is for the lane itself. -/
def isSealPayload (flit : List Byte) : Bool := let c := fld (wordAt flit 0) 63 56; c == 2 || c == 3

/-- R431: SEAL_START or SEAL_TAG, with the block positions that have come since. -/
def onSealPayload (s : State) (e k n : Nat) (payload : List Byte) : State :=
  if fld (wordAt payload 0) 63 56 = 2 then onSealStart s e k n payload else onSealTag s e k (wordAt payload 1).toNat ((payload.drop 16).take 16)

end Sys2Proof.Machine
end

