-- ==== Sys2Proof/Machine/LaneWire.lean ====
section
/-! DEFINITION. Lane blocks as they are sent and received (R252 to R255), acknowledgement and replay (R260, R261), mend slots (R262, R263)
and where mending ends (R264, R265). A block sent on lane k of an eyelet carries the control of the link received on the reverse lane. -/

namespace Sys2Proof.Machine

/-! ### Control words (R253, R254) -/

def ctlAck (seq : Nat) : Nat := at' seq 8 0
def ctlCredit (vc cls freed : Nat) : Nat := at' 1 3 13 + at' vc 2 10 + at' cls 1 9 + at' freed 9 0
def ctlNack (seq : Nat) : Nat := at' 2 3 13 + at' seq 8 0
def ctlLink (msg copy marg : Nat) : Nat := at' 3 3 13 + at' msg 4 8 + at' copy 2 6 + at' marg 6 0
def ctlMend (withData : Bool) (eyelet seq : Nat) : Nat := at' (if withData then 5 else 4) 3 13 + at' eyelet 5 8 + at' seq 8 0
/-- Bit 12 of TYPE ACK to LINK. -/
def ctlData (ctl : Nat) : Nat := ctl + 2 ^ 12

def ctType (c : Nat) : Nat := bits c 15 13
def ctHasData (c : Nat) : Bool := c.testBit 12
def ctSeq (c : Nat) : Nat := bits c 7 0
def ctMsg (c : Nat) : Nat := bits c 11 8
def ctCopy (c : Nat) : Nat := bits c 7 6
def ctMarg (c : Nat) : Nat := bits c 5 0
def ctEyelet (c : Nat) : Nat := bits c 12 8

/-- R251, R253, R254: a reserved TYPE or MSG. -/
def ctReserved (c : Nat) : Bool := 6 ≤ ctType c || (ctType c == 3 && 8 ≤ ctMsg c)

/-! ### Beats and BSNs -/

/-- The beat now as a number. -/
def beatNow (s : State) : Nat := s.clock.beat.toNat

/-- R258, R261: L_fwd + L_rev of the link that sends on lane k; L_fwd is taken to be the trained latency of the reverse lane (log 33). -/
def tripBeats (s : State) (e k : Nat) : Nat := 2 * rget s ((Reg.trainedLatency e).at (reverseLane e k))

/-- R260: the BSN just below the oldest missing block, or the newest received. -/
def ackSeq (l : Lane) : Nat :=
  match l.missing with
  | m :: _ => (m.bsn + 255) % 256
  | [] => (l.rxBsn + 255) % 256

/-- R264, R265, R482: MEND_EXHAUSTED of a lane. -/
def raiseMend (s : State) (e k bsn : Nat) (partner : Option Nat) (inj : Bool) : State :=
  raise s { code := Code.mendExhausted, unitKind := 4, unit := laneUnit s e k, failed := partner, detail := bsn, injected := inj }

/-- R499: the injection in force on a lane has been recovered. -/
def laneInjectionDone (s : State) (kind e k : Nat) : State := injectionDone s kind (laneUnit s e k)

/-! ### Mend slots (R262, R263) -/

/-- R262: the default rule. -/
def defaultMendSlot (beat e n : Nat) : Bool := 4 * (beat % 8) + n == 4 * e % 32 + e / 8

/-- R262: the beat now is a rest beat. -/
def restBeat (s : State) : Bool :=
  match s.last.run with
  | some r => lastRunning s && r.resting
  | none => false

/-- R262: block n of the beat now is a mend slot on an eyelet. -/
def isMendSlot (s : State) (e n : Nat) : Bool :=
  match s.last.run with
  | some r =>
    if !lastRunning s then defaultMendSlot (beatNow s) e n
    else if r.resting then true
    else
      match r.hist.head? with
      | some (some sb) => mendSlotMap s r.slot r.bucket (logicalEyelet s e) sb n
      | _ => defaultMendSlot (beatNow s) e n
  | none => defaultMendSlot (beatNow s) e n

/-- R263: the eyelets whose lane k shares the mend slots of eyelet e: its own first, then its siblings. -/
def mendGroup (s : State) (e k : Nat) : List Nat :=
  let c := lanePartner (rxOf s e k)
  e :: (List.range 32).filter (fun f => f != e && c.isSome && (rxOf s f k).train == .serve && lanePartner (rxOf s f k) == c)

/-- R261 to R263: the replay that a mend slot of a lane carries. -/
def nextReplay (s : State) (e k : Nat) : Option Replay := (mendGroup s e k).findSome? (fun f => (lane s f k).replays.head?)

/-- R261: the replay goes out: counted for the lane whose block it repeats, unless it follows from an injection (R500). -/
def takeReplay (s : State) (k : Nat) (x : Replay) : State :=
  let b := beatNow s
  let s1 := setLane s x.eyelet k (fun l => { l with
    replays := l.replays.drop 1
    sent := l.sent.map (fun y => if y.bsn = x.bsn then { y with replayed := some b } else y) })
  if x.injected then s1 else rinc s1 ((Reg.mends x.eyelet).at k)

/-- R261: queue a replay unless it is queued. -/
def queueReplay (s : State) (e k : Nat) (x : Replay) : State :=
  setLane s e k (fun l => if l.replays.any (fun y => y.bsn == x.bsn) then l else { l with replays := l.replays ++ [x] })

/-! ### What a block carries (R191, R200, R297, R346) -/

inductive Carry where
  | idle
  | sched (data : List Byte) (ctx : Option Nat)
  | flit (data : List Byte)
  deriving DecidableEq, Repr

/-- The TX run that covers block `pos` of schedule beat `sb` on a lane, and the block's index in it. -/
def txRunAt (s : State) (r : Run) (e k pos sb : Nat) : Option (LaneRun × Nat) :=
  let i := 4 * (sb % max 1 (beatCount s r.slot r.bucket)) + pos
  ((laneRuns s r.slot r.bucket).find? (fun x => x.dir == 0 && x.eyelet == logicalEyelet s e && x.lane == k && x.first ≤ i && i < x.first + x.count)).map
    (fun x => (x, i - x.first))

/-- R231, R302: a fitting window claims the lane in schedule beat `sb`. -/
def inFitWindow (s : State) (r : Run) (e k sb : Nat) : Bool :=
  let b := sb % max 1 (beatCount s r.slot r.bucket)
  (fitWindows s r.slot r.bucket).any (fun w =>
    w.1 == logicalEyelet s e && w.2.1 == k && w.2.2.1 ≤ b && b < w.2.2.1 + 560 && rget s Reg.stepNumber % max 1 (fitCycle s r.slot) == w.2.2.2)

/-- The schedule beat of the beat now, if the running Last issues one. -/
def sendBeat (s : State) : Option (Run × Nat) :=
  match s.last.run with
  | some r => (r.hist.head?.join).map (fun sb => (r, sb))
  | none => none

/-- R255, R266: a lane that may carry nothing. -/
def mustIdle (s : State) (e k : Nat) : Bool :=
  let l := lane s e k
  l.paused || l.txIdle || l.switching

/-- R200: the flit that a free block of a lane takes: management, response, collective, request; class 0 before class 1 (log 34). -/
def nextFlit (s : State) (e k : Nat) : Option (Nat × List Byte × Grant) :=
  vcOrder.findSome? (fun (p : Nat × Nat) =>
    let key := bufKey e k p.1 p.2
    if 65 ≤ tget 0 s.router.used key then none
    else (tget? s.router.granted key).bind (fun g => g.next.map (fun f => (key, f, g))))

/-- R199, R200: a flit leaves and uses a credit. -/
def takeFlitOut (s : State) (key : Nat) (g : Grant) : State :=
  sentFlit { s with router := { s.router with used := tmod 0 s.router.used key (· + 1) } } key g

/-- R200, R431: the flit of a free block. -/
def carryFlit (s : State) (e k : Nat) : Carry × State :=
  match nextSeal s e k with
  | some f => (.flit f.bytes, takeSealOut s e k f)
  | none =>
  match nextFlit s e k with
  | some (key, f, g) => (.flit f, takeFlitOut s key g)
  | none => (.idle, s)

/-- R297: the granule of a TX run, which must be in the transmit buffer. -/
def carryTx (s : State) (e k sb : Nat) (x : LaneRun) (i : Nat) : Carry × State :=
  let ctx := ctxKey false true (fld x.w1 63 58) (fld x.w1 57 56)
  let g := fld x.w1 43 28 + i
  match (lane s e k).txBuf.find? (fun b => b.1 == ctx && b.2.1 == g) with
  | some b => (.sched b.2.2 (some ctx), setLane s e k (fun l => { l with txBuf := l.txBuf.filter (fun y => !(y.1 == ctx && y.2.1 == g)) }))
  | none => (.idle, stepFault s 0 4 (laneUnit s e k) none sb false)

/-- What block `pos` of the beat now carries on a lane in SERVE; `mend` says that it is a mend slot. A block of a TX run takes its granule on a
lane that must idle too, and is sent idle (R255, R266, R297). -/
def carry (s : State) (e k pos : Nat) (mend : Bool) : Carry × State :=
  match (sendBeat s).bind (fun p => (txRunAt s p.1 e k pos p.2).map (fun x => (p.2, x))) with
  | some (sb, x, i) => let c := carryTx s e k sb x i; if mustIdle s e k then (.idle, c.2) else c
  | none =>
    if mustIdle s e k then (.idle, s)
    else
      match sendBeat s with
      | none => if mend && !restBeat s then (.idle, s) else carryFlit s e k
      | some p =>
        if (laceRunAt s p.1 e k pos p.2).isSome then
          (match laceBlock s p.1 e k pos p.2 with
            | some m => .sched (padTo 64 (bytesOf m)) none
            | none => .idle, s)
        else if mend || inFitWindow s p.1 e k p.2 then (.idle, s)
        else carryFlit s e k

/-! ### Sending (R252, R254, R255, R261) -/

/-- R261, R264, R265: a block leaves the replay buffer 32 blocks after it was sent; unacknowledged data in it cannot be mended. -/
def agedOut (s : State) (e k : Nat) (x : SentBlock) : State :=
  if !x.dataFlag then s
  else
    let s1 := if x.injected then s else rinc s ((Reg.mendExhausted e).at k)
    if x.sched then raiseMend s1 e k x.bsn (lanePartner (rxOf s e k)) x.injected
    else laneGoBy s1 e (reverseLane e k) .wait Code.mendExhausted x.injected

/-- R252, R261: a sent block takes its BSN and a place in the replay buffer. -/
def recordSent (s : State) (e k : Nat) (x : SentBlock) : State :=
  let l := lane s e k
  if !l.readySent then s
  else
    let y := { x with bsn := l.txBsn, beat := beatNow s }
    let old := l.sent.filter (fun z => 32 ≤ (y.bsn + 256 - z.bsn) % 256)
    let s1 := setLane s e k (fun l => { l with
      txBsn := (l.txBsn + 1) % 256
      sent := l.sent.filter (fun z => (y.bsn + 256 - z.bsn) % 256 < 32) ++ [y] })
    old.foldl (fun s z => agedOut s e k z) s1

/-- R521: a block with DATA = 1 on a lane of a global eyelet is counted. -/
def countGlobal (s : State) (e k ctl : Nat) : State :=
  let ell := logicalEyelet s e
  if 24 ≤ ell && ctType ctl < 4 && ctHasData ctl then rinc s (Reg.globalLaneBusy.at (32 * (ell - 24) + k)) else s

/-- R223, R233: while its die's selector switches, and in SWEEP, beats 4 to 451 of a pass, a lane's transmit output is invalid. -/
def outputInvalid (s : State) (e k : Nat) : Bool :=
  (lane s e k).switching || match tget? s.optics.fits (laneKey e k) with
  | some f => decide (f.start + 4 ≤ beatNow s ∧ beatNow s ≤ f.start + 451)
  | none => false

/-- R250: the 70 bytes of a block go onto the sent lane, XORed with its sequence; where the output is invalid, what goes is a free value. -/
def putBlock (s : State) (e k pos : Nat) (block : List Byte) : State :=
  let x := (lane s e k).scrTx
  let s1 := setLane s e k (fun l => { l with scrTx := prbsNext x, sentAt := 4 * beatNow s + pos + 1 })
  if outputInvalid s e k then emit { s1 with draws := s1.draws + 1 } (.block e k pos ((List.range 70).map (Config.freeByte s1.draws)))
  else emit s1 (.block e k pos (prbsBlock x block))

/-- A block goes out; a flit or scheduled data goes as the lane's stream has it (R431), and is kept so for a replay. -/
def sendBlock (s : State) (e k pos ctl : Nat) (data : List Byte) (x : SentBlock) : State :=
  let r := if x.dataFlag then sealData s e k data else (data, s)
  recordSent (sealStep (putBlock (countGlobal r.2 e k ctl) e k pos (encodeBlock r.1 ctl)) e k) e k { x with data := if x.dataFlag then r.1 else x.data }

/-- The record of a block that carries no data. -/
def idleBlock (mendSlot : Bool) : SentBlock := { bsn := 0, dataFlag := false, sched := false, data := [], beat := 0, mendSlot := mendSlot }

/-- R254: DATA bytes of a LINK message that carries its own. -/
def linkData (x : LinkMsg) : List Byte := if x.msg = 2 then leBytes 4 x.data else []

/-- A training block (R254, R256). -/
def sendTraining (s : State) (e k pos : Nat) (x : LinkMsg) (data : List Byte) : State :=
  sendBlock s e k pos (ctlLink x.msg pos x.marg) data (idleBlock false)

/-- TRAIN (R254). -/
def sendTrain (s : State) (e k pos : Nat) : State := sendTraining s e k pos { msg := 0, marg := pos } []

/-- R258: the oldest ECHO_REPLY due in a block of a lane, and the lane without it. -/
def echoReply (s : State) (e k pos : Nat) : Option (LinkMsg × State) :=
  match (lane s e k).links.find? (fun x => x.msg == 2 && decide (x.due ≤ 4 * beatNow s + pos)) with
  | some x => some (x, setLane s e k (fun l => { l with links := l.links.erase x }))
  | none => none

/-- R256, R258: a block in ECHO: a reply due, else the next ECHO stamp, else TRAIN. -/
def slotEcho (s : State) (e k pos : Nat) : State :=
  match echoReply s e k pos with
  | some (x, s1) => sendTraining s1 e k pos x (linkData x)
  | none =>
    let n := (rxOf s e k).echoNext
    if n < 64 then sendTraining (setLane s e (reverseLane e k) (fun l => { l with echoNext := n + 1 })) e k pos { msg := 1, marg := n } []
    else sendTrain s e k pos

/-- R255: at block 0 a LINK message that is due becomes the message of the beat. A GO leaves in the beat it is due or not at all, since the launch beat
counts from that beat (R35). -/
def pickLink (s : State) (e k pos : Nat) (which : LinkMsg → Bool) : State :=
  if pos ≠ 0 then s
  else
    let s := setLane s e k (fun l => { l with links := l.links.filter (fun x => !(x.msg == 6 && decide (x.due < 4 * beatNow s))) })
    match (lane s e k).links.find? (fun x => which x && decide (x.due ≤ 4 * beatNow s)) with
    | some x => setLane s e k (fun l => { l with links := l.links.erase x, linkNow := some x, linkSent := false })
    | none => setLane s e k (fun l => { l with linkNow := none, linkSent := false })

/-- R255: after block 3 the message of the beat is out; one that no block could carry, every one being a mend slot, is due again. -/
def endLink (s : State) (e k pos : Nat) : State :=
  if pos ≠ 3 then s
  else setLane s e k (fun l => { l with
    links := match l.linkNow with | some x => if l.linkSent then l.links else addLink l.links x | none => l.links
    linkNow := none })

/-- R255: the control word of a LINK message in a block, and the lane that has carried it. -/
def linkWord (s : State) (e k pos : Nat) (x : LinkMsg) : Nat × State :=
  (ctlLink x.msg pos x.marg, setLane s e k (fun l => { l with linkSent := true }))

/-- R252, R256: a block in BEACON or QUARANTINE: READY for one beat once the check has passed, else one BEACON per beat, in block 0, a reply due
in another block, else TRAIN. BSN 0 is block 0 of the beat after READY. -/
def slotBeacon (s : State) (e k pos : Nat) : State :=
  let s0 := pickLink s e k pos (fun x => x.msg == 7 && (rxOf s e k).train == .beacon)
  match (lane s0 e k).linkNow with
  | some x =>
    let s1 := sendTraining s0 e k pos x []
    if pos = 3 then setLane s1 e k (fun l => { l with linkNow := none, readySent := true, txBsn := 0 }) else s1
  | none =>
    if pos = 0 then sendTraining s0 e k pos { msg := 3 } (bytesOf (ownBeacon s0 e))
    else
      match echoReply s0 e k pos with
      | some (x, s1) => sendTraining s1 e k pos x (linkData x)
      | none => sendTrain s0 e k pos

/-- R255 rules 3 and 4: the control word of a block that carries no replay and no LINK message, and the lane after it. -/
def ackOrCredit (s : State) (e k pos : Nat) : Nat × State :=
  let r := rxOf s e k
  let l := lane s e k
  if pos % 2 = 0 then (ctlAck (ackSeq r), s)
  else
    match (if l.nackAt == some (beatNow s) then none else r.missing.find? (fun m => m.seen < beatNow s)) with
    | some m => (ctlNack m.bsn, setLane s e k (fun l => { l with nackAt := some (beatNow s) }))
    | none =>
      let i := l.creditNext % 8
      (ctlCredit (i / 2) (i % 2) (tget 0 r.freedTx i), setLane s e k (fun l => { l with creditNext := (i + 1) % 8 }))

/-- A block in service that carries no replay (R254, R255, R268). -/
def slotOpen (s : State) (e k pos : Nat) (mend : Bool) : State :=
  let c := carry s e k pos mend
  let l := lane c.2 e k
  let link := if mend && !restBeat s then none else l.linkNow
  match c.1, link with
  | .sched d ctx, link =>
    let w := match link with | some x => linkWord c.2 e k pos x | none => ackOrCredit c.2 e k pos
    sendBlock w.2 e k pos (ctlData w.1) d { idleBlock mend with dataFlag := true, sched := true, data := d, ctx := ctx }
  | .flit d, link =>
    let w := match link with | some x => linkWord c.2 e k pos x | none => ackOrCredit c.2 e k pos
    sendBlock w.2 e k pos (ctlData w.1) d { idleBlock mend with dataFlag := true, data := d }
  | .idle, some x => let w := linkWord c.2 e k pos x; sendBlock w.2 e k pos w.1 [] (idleBlock mend)
  | .idle, none =>
    if l.beaconDue && (!mend || restBeat s) && !mustIdle s e k && ((sendBeat s).all (fun (p : Run × Nat) =>
        (txRunAt s p.1 e k pos p.2).isNone && (laceRunAt s p.1 e k pos p.2).isNone && !inFitWindow s p.1 e k p.2)) then
      sendBlock (setLane c.2 e k (fun l => { l with beaconDue := false })) e k pos (ctlLink 3 pos 0) (bytesOf (ownBeacon s e)) (idleBlock false)
    else
      let w := ackOrCredit c.2 e k pos
      sendBlock w.2 e k pos w.1 [] (idleBlock mend)

/-- A block in service (R255): a mend slot with a replay pending first; a paused lane's own mend slots are unavailable (R263). -/
def slotServe (s : State) (e k pos : Nat) : State :=
  let s0 := pickLink s e k pos (fun x => x.msg == 4 || x.msg == 5 || x.msg == 6)
  let mend := isMendSlot s0 e pos
  let s1 :=
    match (if mend && !mustIdle s0 e k then nextReplay s0 e k else none) with
    | some x => sendBlock (takeReplay s0 k x) e k pos (ctlMend x.withData x.eyelet x.bsn) (if x.withData then x.data else []) (idleBlock true)
    | none => slotOpen s0 e k pos mend
  endLink s1 e k pos

/-- LANE_BLOCK_SLOT (R255, R256): block `pos` of the beat now on a lane. OFF sends nothing; SIGNAL, PHASE and WAIT send zero blocks. -/
def execLaneBlockSlot (eyelet lane pos : Nat) (s : State) : Host.Outcome State Fault Refusal :=
  let p := pos % 4
  .next (match (rxOf s eyelet lane).train with
    | .off => s
    | .signal => putBlock s eyelet lane p (zeros 70)
    | .phase => putBlock s eyelet lane p (zeros 70)
    | .wait => putBlock s eyelet lane p (zeros 70)
    | .align => sendTrain s eyelet lane p
    | .echo => slotEcho s eyelet lane p
    | .beacon => slotBeacon s eyelet lane p
    | .quarantine => slotBeacon s eyelet lane p
    | .serve => slotServe s eyelet lane p)

/-! ### Flits received (R196, R260, R433) -/

/-- The virtual channels and classes of a received lane on which a packet has more flits to come, highest priority first. -/
def partialsOf (l : Lane) : List (Nat × Nat) := vcOrder.filter (fun (p : Nat × Nat) => tget 0 l.frames (2 * p.1 + p.2) != 0)

/-- R200: priority of a virtual channel and class. -/
def vcRank (p : Nat × Nat) : Nat := 2 * (match p.1 with | 3 => 0 | 1 => 1 | 2 => 2 | _ => 3) + p.2

/-- R433: a flit passes to the router, or on a sealed lane waits until its window verifies; `to` is the packet that it continues. -/
def handOn (s : State) (e k : Nat) (w : Option Nat) (dest : Option (Nat × Nat)) (flit : List Byte) : State :=
  match w with
  | some w => setLane s e k (fun l => { l with sealHeld := l.sealHeld ++ [(w, dest, flit)] })
  | none => arrive s (lanePort e k) dest flit

/-- R196: the packet that a flit continues; none for a header. While a packet is incomplete, a flit continues the one of highest priority, or is the
header of a packet of higher priority still; which, no bit says: a free value (log 35). -/
def flitRole (s : State) (l : Lane) (flit : List Byte) : Option (Nat × Nat) × State :=
  let w := wordAt flit 0
  match partialsOf l with
  | [] => (none, s)
  | p :: _ =>
    if vcRank (fld w 39 38, fld w 37 37) < vcRank p then (if Config.freeBool s.draws then none else some p, { s with draws := s.draws + 1 })
    else (some p, s)

/-- R196: what of a packet is still to come after a flit. -/
def framesAfter (l : Lane) (dest : Option (Nat × Nat)) (flit : List Byte) : Tab Nat :=
  match dest with
  | some p => tmod 0 l.frames (2 * p.1 + p.2) (· - 1)
  | none =>
    let w := wordAt flit 0
    tset 0 l.frames (2 * fld w 39 38 + fld w 37 37) (min 64 (fld w 30 24))

/-- R431: a header of a CONTROL packet of LEN 1 on the management virtual channel, which may prove to be the lane's own. -/
def isCtlHead (flit : List Byte) : Bool :=
  let w := wordAt flit 0
  fld w 39 37 == 6 && fld w 30 24 == 1 && fld w 23 20 == kControl

/-- R200, R431: a flit in BSN order, in window `w` of a sealed stream, after which `n` block positions have come. SEAL_START and SEAL_TAG act on the
lane at once and never enter the router. -/
def takeFlit (s : State) (e k : Nat) (w : Option Nat) (n : Nat) (flit : List Byte) : State :=
  let l := lane s e k
  let r := flitRole s l flit
  let s1 := setLane r.2 e k (fun l => { l with frames := framesAfter l r.1 flit })
  match r.1, l.ctlHead with
  | none, _ => if isCtlHead flit then setLane s1 e k (fun l => { l with ctlHead := some (w, flit) }) else handOn s1 e k w none flit
  | some p, some h =>
    if p ≠ (3, 0) then handOn s1 e k w (some p) flit
    else
      let s2 := setLane s1 e k (fun l => { l with ctlHead := none })
      if isSealPayload flit then onSealPayload s2 e k n flit else handOn (handOn s2 e k h.1 none h.2) e k w (some p) flit
  | some p, none => handOn s1 e k w (some p) flit

/-- R433: the DATA bytes of the block with a BSN as the stream gives them, kept for its window. -/
def openData (s : State) (e k bsn : Nat) (sched : Bool) (data : List Byte) : Option Nat × List Byte × State :=
  let l := lane s e k
  match l.sealRx, sealPlace l bsn with
  | some x, some p =>
    let d := sealCrypt x.2 p data
    (some (p / 256), d, setLane s e k (fun l => { l with sealRxWin := l.sealRxWin ++ [(p, d, sched)] }))
  | _, _ => (none, data, s)

/-- R431 to R433: a flit in BSN order as it came; while no FABRIC slot is loaded, it waits as it is. -/
def passFlit (s : State) (e k : Nat) (bsn : Nat) (flit : List Byte) : State :=
  let l := lane s e k
  match (if l.sealWait.isSome then sealPlace l bsn else none) with
  | some p => setLane s e k (fun l => { l with sealRaw := l.sealRaw ++ [(p, flit)] })
  | none =>
    let r := openData s e k bsn false flit
    takeFlit r.2.2 e k r.1 (rxAge l bsn) r.2.1

/-- R432: what waited for a FABRIC slot is read under the session key. -/
def passRaw (s : State) (e k : Nat) : State :=
  let l := lane s e k
  match l.sealRx with
  | none => s
  | some x =>
    l.sealRaw.foldl (fun s y =>
      let d := sealCrypt x.2 y.1 y.2
      takeFlit (setLane s e k (fun l => { l with sealRxWin := l.sealRxWin ++ [(y.1, d, false)] })) e k (some (y.1 / 256)) (l.sealIn - 1 - y.1) d)
      (setLane s e k (fun l => { l with sealRaw := [] }))

/-- R260: the age of the oldest missing block that may carry a flit. -/
def blockingAge (l : Lane) : Option Nat :=
  (l.missing.filter (fun m => m.sched.isNone)).foldl (fun (a : Option Nat) m => some (max (a.getD 0) (rxAge l m.bsn))) none

/-- R260: flits that no gap holds pass on, oldest first. -/
def drainHeld (s : State) (e k : Nat) : State :=
  let l := lane s e k
  let go := fun (x : Nat × List Byte) => match blockingAge l with | some a => decide (a < rxAge l x.1) | none => true
  (l.rxHeld.filter go).foldl (fun s x => passFlit s e k x.1 x.2) (setLane s e k (fun l => { l with rxHeld := l.rxHeld.filter (fun x => !go x) }))

/-- Keep a flit in BSN order, oldest first. -/
def holdFlit (l : Lane) (bsn : Nat) (flit : List Byte) : List (Nat × List Byte) :=
  l.rxHeld.filter (fun x => rxAge l bsn < rxAge l x.1) ++ [(bsn, flit)] ++ l.rxHeld.filter (fun x => rxAge l x.1 ≤ rxAge l bsn)

/-- A flit with its BSN. -/
def onFlit (s : State) (e k bsn : Nat) (flit : List Byte) : State :=
  drainHeld (setLane s e k (fun l => { l with rxHeld := holdFlit l bsn flit })) e k

/-! ### Scheduled data received (R191, R298, R346) -/

/-- R260: the schedule beat of a block whose position carries scheduled data. -/
def schedAtPos (s : State) (e k pos : Nat) : Option Nat :=
  match arrivedBeat s e k with
  | some (r, sb) => if (rxRun s r e k pos sb).isSome || (laceRunAt s r e k pos sb).isSome then some sb else none
  | none => none

/-- Scheduled data of the block with a BSN: a lace message or a granule. -/
def onSched (s : State) (e k bsn sb : Nat) (bytes : List Byte) : State :=
  let r := openData s e k bsn true bytes
  let data := r.2.1
  match r.2.2.last.run with
  | some x => if (laceRunAt r.2.2 x e k (bsn % 4) sb).isSome then onLaceMessage r.2.2 e k (bsn % 4) sb (wordsOf data 8) else schedBlock r.2.2 e k (bsn % 4) sb data
  | none => schedBlock r.2.2 e k (bsn % 4) sb data

/-! ### Control received (R254, R261, R266) -/

/-- R260, R261: blocks up to an ACK_SEQ are received; the acknowledgement of a scheduled fabric write reaches its copy (R192). An armed
DROP_ACK ignores it (R499). -/
def onAck (s : State) (e k seq : Nat) : State :=
  let r := reverseLane e k
  let l := lane s e r
  let covered := fun (x : SentBlock) => decide ((seq + 256 - x.bsn) % 256 < 128)
  if beatNow s < l.dropAckUntil then
    setLane s e r (fun l => { l with sent := l.sent.map (fun x => if covered x && x.dataFlag then { x with injected := true } else x) })
  else
    let gone := l.sent.filter covered
    let s1 := setLane s e r (fun l => { l with sent := l.sent.filter (fun x => !covered x) })
    let s2 := gone.foldl (fun s x => match x.ctx with | some c => copyWriteAck s c 0 Code.ok 0 0 | none => s) s1
    if gone.any (fun x => x.injected && x.replayed.isSome) then laneInjectionDone s2 2 e r else s2

/-- R199, R254: credits of one virtual channel and class. -/
def onCredit (s : State) (e k vc cls freed : Nat) : State :=
  let r := reverseLane e k
  let i := 2 * vc + cls
  let d := (freed + 512 - tget 0 (lane s e r).freedRx i) % 512
  let s1 := setLane s e r (fun l => { l with freedRx := tset 0 l.freedRx i (freed % 512) })
  { s1 with router := { s1.router with used := tmod 0 s1.router.used (bufKey e r vc cls) (· - d) } }

/-- R261: a NACK of a sent block queues its replay, but within L_fwd + L_rev + 1 beats of the block's last replay. -/
def onNack (s : State) (e k seq : Nat) : State :=
  let r := reverseLane e k
  match (lane s e r).sent.find? (fun x => x.bsn == seq) with
  | none => s
  | some x =>
    if (match x.replayed with | some b => decide (beatNow s ≤ b + tripBeats s e r + 1) | none => false) then s
    else queueReplay s e r { eyelet := e, bsn := seq, withData := x.dataFlag, data := x.data, injected := x.injected }

/-- R263: the received lane of index k to which a MEND block's EYELET points, by the beacons of the same partner. -/
def mendLane (s : State) (e k x : Nat) : Nat :=
  let c := lanePartner (lane s e k)
  let ok := fun f => (lane s f k).train == .serve && lanePartner (lane s f k) == c && bcEyelet (lane s f k).accepted == x
  ((e :: (List.range 32).filter (· != e)).find? ok).getD x

/-- R260: a MEND block: what was missing is received; else it is a duplicate. -/
def onMend (s : State) (e k x seq : Nat) (data : Option (List Byte)) : State :=
  let f := mendLane s e k x
  let l := lane s f k
  match (if 31 < rxAge l seq then none else l.missing.find? (fun m => m.bsn == seq)) with
  | none => rinc s ((Reg.duplicates f).at k)
  | some m =>
    let s1 := setLane s f k (fun l => { l with missing := l.missing.filter (fun y => y.bsn != seq) })
    let s2 := if m.injected then laneInjectionDone s1 1 f k else s1
    match data, m.sched with
    | some d, some sb => drainHeld (onSched s2 f k seq sb d) f k
    | some d, none => onFlit s2 f k seq d
    | none, _ => drainHeld s2 f k

/-- The control word of a block in service takes effect. -/
def onControl (s : State) (e k ctl : Nat) (data : List Byte) : State :=
  match ctType ctl with
  | 0 => onAck s e k (ctSeq ctl)
  | 1 => onCredit s e k (bits ctl 11 10) (bits ctl 9 9) (bits ctl 8 0)
  | 2 => onNack s e k (ctSeq ctl)
  | 3 =>
    match ctMsg ctl with
    | 3 => onBeacon s e k (wordsOf data 8)
    | 4 => onPause s e k (bits (ctMarg ctl) 5 5) (bits (ctMarg ctl) 4 0)
    | 5 => onResume s e k (bits (ctMarg ctl) 5 5) (bits (ctMarg ctl) 4 0)
    | 6 => onGo s e k (bits (ctMarg ctl) 3 0)
    | _ => s
  | 4 => onMend s e k (ctEyelet ctl) (ctSeq ctl) none
  | _ => onMend s e k (ctEyelet ctl) (ctSeq ctl) (some data)

/-! ### Blocks received (R251, R252, R260) -/

/-- The next block position of a received lane; with block 0 of a beat a PAUSE or RESUME takes effect (R266). -/
def nextPosition (l : Lane) : Lane :=
  { l with
    rxIgnore := if l.rxBsn % 4 = 0 then l.rxNext.getD l.rxIgnore else l.rxIgnore
    rxNext := if l.rxBsn % 4 = 0 then none else l.rxNext
    rxBsn := (l.rxBsn + 1) % 256
    sealIn := if l.sealRx.isSome || l.sealWait.isSome then l.sealIn + 1 else l.sealIn }

/-- R251: count a received block; an injected event is not counted (R500). -/
def countBlock (s : State) (e k : Nat) (d : Option (List Byte × Nat × Bool)) (injected : Bool) : State :=
  match d with
  | some (_, _, true) => rinc s ((Reg.correctedBlocks e).at k)
  | some (_, _, false) => s
  | none => if injected then s else rinc s ((Reg.uncorrectableBlocks e).at k)

/-- R260: a missing block. -/
def missBlock (s : State) (e k bsn : Nat) (injected : Bool) : State :=
  let m : Missing := { bsn := bsn, sched := schedAtPos s e k (bsn % 4), seen := beatNow s, injected := injected }
  setLane s e k (fun l => { l with missing := l.missing ++ [m] })

/-- A block in service, from BSN 0 on (R252). A BSN still missing when the numbers have gone round is this block's from now on. -/
def servedBlock (s : State) (e k : Nat) (d : Option (List Byte × Nat × Bool)) (injected : Bool) : State :=
  let bsn := (lane s e k).rxBsn
  let s1 := setLane s e k (fun l => nextPosition { l with missing := l.missing.filter (fun m => m.bsn != bsn) })
  if (lane s1 e k).rxIgnore then
    match d with
    | some (data, ctl, _) => if ctType ctl = 3 ∧ ctMsg ctl = 5 then onControl s1 e k ctl data else s1
    | none => s1
  else
    let s2 := countBlock s1 e k d injected
    match d with
    | none => missBlock s2 e k bsn injected
    | some (data, ctl, _) =>
      let s3 := onControl s2 e k ctl data
      if 4 ≤ ctType ctl || !ctHasData ctl || (lane s3 e k).train != .serve then s3
      else
        match schedAtPos s3 e k (bsn % 4) with
        | some sb => onSched s3 e k bsn sb data
        | none => onFlit s3 e k bsn data

/-- A block in service; with it a window of a sealed stream may stand whole (R433). -/
def serveBlock (s : State) (e k : Nat) (d : Option (List Byte × Nat × Bool)) (injected : Bool) : State :=
  let s1 := servedBlock s e k d injected
  if (lane s1 e k).sealTags.isEmpty then s1 else sealCheck sealFuel s1 e k

/-- R252: a block position counts once READY is received. -/
def countTraining (l : Lane) : Lane :=
  if !l.readyRecv then l else if 0 < l.rxSkip then { l with rxSkip := l.rxSkip - 1 } else { l with rxBsn := (l.rxBsn + 1) % 256 }

/-- A block in ECHO, BEACON or QUARANTINE: BEACON and READY (R256, R279). ECHO and ECHO_REPLY come with their own rows, which bring what the
receiver measures. -/
def trainingBlock (s : State) (e k : Nat) (d : Option (List Byte × Nat × Bool)) (injected : Bool) : State :=
  let s1 := countBlock (setLane s e k countTraining) e k d injected
  match d with
  | some (data, ctl, _) =>
    if ctType ctl ≠ 3 then s1
    else if ctMsg ctl = 3 then onBeacon s1 e k (wordsOf data 8)
    else if ctMsg ctl = 7 ∧ (lane s1 e k).readyRecv = false ∧ (lane s1 e k).train = .beacon then
      setLane s1 e k (fun l => { l with readyRecv := true, rxSkip := 3 - ctCopy ctl, rxBsn := 0 })
    else s1
  | none => s1

/-- R250: a received block without the sequence, and the lane whose descrambler it has moved on. A descrambler with no state, or one that in PHASE
or ALIGN yields no clean block, takes its state from the block, whose first 31 bits a zero block or a TRAIN leaves bare. -/
def descramble (s : State) (e k : Nat) (block : List Byte) : List Byte × State :=
  let l := lane s e k
  let settling := l.train == .phase || l.train == .align
  let x := match l.scrRx with
    | some x => if settling && (decodeBlock (prbsBlock x block)).isNone then prbsSeed block else x
    | none => prbsSeed block
  (prbsBlock x block, setLane s e k (fun l => { l with scrRx := some (prbsNext x) }))

/-- R252: the partner's READY beat has not ended: the block is counted, and BSN 0 comes nearer. -/
def readyBlock (s : State) (e k : Nat) (d : Option (List Byte × Nat × Bool)) (injected : Bool) : State :=
  countBlock (setLane s e k countTraining) e k d injected

/-- LANE_BLOCK_RECEIVED (R250, R251, R260): the 70 bytes of a block as they come off the lane. -/
def execLaneBlockReceived (eyelet lane : Nat) (block : List Byte) (s : State) : Host.Outcome State Fault Refusal :=
  let l := Machine.lane s eyelet lane
  let u := descramble s eyelet lane block
  let d0 := match decodeBlock u.1 with
    | some (data, ctl, c) => if ctReserved ctl then none else some (data, ctl, c)
    | none => none
  let inj := l.injectBlock && d0.isSome
  let d := if l.injectBlock then none else d0
  let s0 := if l.injectBlock then setLane u.2 eyelet lane (fun l => { l with injectBlock := false }) else u.2
  .next (match l.train with
    | .serve => if 0 < l.rxSkip then readyBlock s0 eyelet lane d inj else serveBlock s0 eyelet lane d inj
    | .echo => trainingBlock s0 eyelet lane d inj
    | .beacon => trainingBlock s0 eyelet lane d inj
    | .quarantine => trainingBlock s0 eyelet lane d inj
    | .phase => u.2
    | .align => u.2
    | _ => s)

/-! ### Timers (R261, R264, R265) -/

/-- REPLAY_TIMEOUT (R261): on a sent lane, the oldest DATA = 1 block that no ACK_SEQ has covered in time is replayed. -/
def execReplayTimeout (eyelet lane : Nat) (s : State) : Host.Outcome State Fault Refusal :=
  let l := Machine.lane s eyelet lane
  let late := fun (x : SentBlock) => x.dataFlag && decide (x.replayed.getD x.beat + tripBeats s eyelet lane + 2 ≤ beatNow s)
    && !l.replays.any (fun y => y.bsn == x.bsn)
  .next (match l.sent.find? late with
    | some x =>
      let s1 := queueReplay s eyelet lane { eyelet := eyelet, bsn := x.bsn, withData := true, data := x.data, injected := x.injected }
      if x.injected then s1 else rinc s1 ((Reg.ackTimeouts eyelet).at lane)
    | none => s)

/-- MEND_EXHAUSTED (R264): on a received lane, a flit block still missing when the newest BSN is 32 past it. -/
def execMendExhausted (eyelet lane : Nat) (s : State) : Host.Outcome State Fault Refusal :=
  let l := Machine.lane s eyelet lane
  .next (match l.missing.find? (fun m => m.sched.isNone && decide (32 ≤ rxAge l m.bsn)) with
    | some m =>
      let s1 := if m.injected then s else rinc s ((Reg.mendExhausted eyelet).at lane)
      laneGoBy s1 eyelet lane .wait Code.mendExhausted m.injected
    | none => s)

/-- R265: the schedule beat a + S of the transfer that a missing block sent in `sb` belongs to. -/
def slackEnd (s : State) (r : Run) (e k pos sb : Nat) : Option Nat :=
  (rxRun s r e k pos sb).map (fun x => transferDue s r x.1 k sb + rxSlack x.1)

/-- SLACK_EXPIRY (R265): a scheduled block still missing at the end of beat a + S raises MEND_EXHAUSTED and STEP_FAULT, once; it stays missing until
it arrives (R260). -/
def execSlackExpiry (eyelet lane bsn : Nat) (s : State) : Host.Outcome State Fault Refusal :=
  let l := Machine.lane s eyelet lane
  .next (match s.last.run, l.missing.find? (fun m => m.bsn == bsn && !m.expired) with
    | some r, some m =>
      match m.sched with
      | some sb =>
        match slackEnd s r eyelet lane (bsn % 4) sb with
        | some b =>
          if nowSched s < b then s
          else
            let s1 := if m.injected then s else rinc s ((Reg.mendExhausted eyelet).at lane)
            let s2 := setLane s1 eyelet lane (fun l => { l with missing := l.missing.map (fun y => if y.bsn = bsn then { y with expired := true } else y) })
            let s3 := raiseMend s2 eyelet lane bsn (lanePartner l) m.injected
            stepFault s3 Code.mendExhausted 4 (laneUnit s eyelet lane) (lanePartner l) bsn m.injected
        | none => s
      | none => s
    | _, _ => s)

end Sys2Proof.Machine
end

