-- ==== Sys2Proof/Machine/Keys.lean ====
section
/-! DEFINITION. Key slots (R422 to R426), weight installs (R427 to R429) and sealed lanes (R431 to R433). -/

namespace Sys2Proof.Machine

/-! ### Slots -/

abbrev purposeImage : Nat := 0
abbrev purposeFabric : Nat := 1
abbrev purposeExport : Nat := 2

/-- R422: references that hold a slot. -/
def slotRefs (s : State) (i : Nat) : Nat :=
  let k := keySlot s i
  k.refs + (if k.state ≠ .empty ∧ k.purpose = purposeExport then exportRefs s else 0)

/-- R424: slots other than `i` that have, or wait for, a purpose. -/
def purposeCount (s : State) (i purpose : Nat) : Nat :=
  (s.tenancy.keys.filter (fun k => k.1 != i && ((k.2.state != .empty && k.2.purpose == purpose) || (k.2.state == .pending && k.2.newPurpose == purpose)))).length

/-! ### Sealed lanes (R431 to R433) -/

/-- SEAL_START (R431, R432): the payload comes on a received lane, in the block before the sealed stream's first. -/
def execSealStart (eyelet lane : Nat) (payload : List Word) (s : State) : Host.Outcome State Fault Refusal :=
  .next (if fld (nth payload 0) 63 56 ≠ 2 then s else onSealStart s eyelet lane 0 (bytesOf payload))

/-- SEAL_TAG (R431, R433): W0, W1 and the rest of the payload flit: the tag of a window; when it verifies, the window's flits pass on in order. -/
def execSealTag (eyelet lane : Nat) (w0 w1 : Word) (rest : List Word) (s : State) : Host.Outcome State Fault Refusal :=
  .next (if fld w0 63 56 ≠ 3 then s else onSealTag s eyelet lane w1.toNat ((bytesOf rest).take 16))

/-- SEAL_TAG_TIMEOUT (R433): the tag of window w has not come by the end of window w + 2. -/
def execSealTagTimeout (eyelet lane window : Nat) (s : State) : Host.Outcome State Fault Refusal :=
  let l := Machine.lane s eyelet lane
  .next (if l.sealRx.isNone = true ∨ window ≠ l.sealPos ∨ l.sealIn < 256 * (window + 3) then s else sealFail s eyelet lane window)

/-- R431, R432: a FABRIC slot is loaded: senders start anew, and receivers that waited for one look again. -/
def fabricLoaded (s : State) (id : Nat) : State :=
  let s1 := sealAll s id
  s1.lanes.foldl (fun s l =>
    match l.2.sealWait with
    | some x => passRaw (takeSeal s (l.1 / 32) (l.1 % 32) x.1 x.2) (l.1 / 32) (l.1 % 32)
    | none => s) s1

/-- R423: links keyed from a revoked FABRIC key go to WAIT. -/
def revokeLanes (s : State) (id : Nat) : State :=
  s.lanes.foldl (fun s l =>
    let e := l.1 / 32
    let k := l.1 % 32
    if l.2.train = .serve ∧ (((lane s e k).sealRx.map (·.1)) = some id ∨ ((lane s e (reverseLane e k)).sealTx.map (·.1)) = some id) then laneGo s e k .wait Code.keyRevoked else s) s

/-! ### Weight installs (R427 to R429) -/

/-- R429: every destination byte written is zeroed, where it was written. -/
def zeroInstalled (s : State) (i : Install) : State :=
  i.places.foldl (fun s p => match p.1 with | none => hbmWrite s p.2 (zeros 64) | some t => scratchWrite s t p.2 (zeros 64)) s

/-- An install holds its slot and starts; how far it is before it ends is no value of the spec's: a free number of chunks (log 42). -/
def startInstall (s : State) (i : Install) : State :=
  let n := (Config.freeWord s.draws).toNat % (chunkCount i.plain + 1)
  let s1 := setKey { s with draws := s.draws + 1 } i.slot (fun k => { k with refs := k.refs + 1 })
  let s2 := installGo n i.requests { s1 with tenancy := { s1.tenancy with install := some { i with waiting := false } } }
  rset s2 Reg.installStatus (installWord 1 0 ((s2.tenancy.install.map (·.chunks)).getD 0))

/-- An install ends: the slot is released; a failed tag or a revocation zeroes what was written (R429). -/
def endInstall (s : State) (i : Install) : State :=
  let s1 := if i.status = Code.imageAuthFail ∨ i.status = Code.keyRevoked then zeroInstalled s i else s
  let s2 := if i.waiting then s1 else setKey s1 i.slot (fun k => { k with refs := k.refs - 1 })
  rset { s2 with tenancy := { s2.tenancy with install := none } } Reg.installStatus (installWord 2 i.status i.chunks)

/-- seal_install (R428). A SRC or DST off its 64-byte grid ends with ALIGN_FAULT (log 42). -/
def wInstall (v : List Byte) (s : State) : Nat × State :=
  let slot := fld (wordAt v 0) 63 58
  let src := (wordAt v 2).toNat
  let dst := (wordAt v 3).toNat
  let k := keySlot s slot
  let done (st : Nat) : Nat × State := accept (rset s Reg.installStatus (installWord 2 st 0))
  if v.length ≠ 40 then refuse s Code.lengthMismatch
  else if s.tenancy.install.isSome = true ∨ fld (wordAt v 0) 57 0 ≠ 0 then refuse s Code.valueRefused
  else if k.state = .empty then done Code.keyRevoked
  else if (if k.state = .pending then k.newPurpose else k.purpose) ≠ purposeImage then done Code.formatUnsupported
  else if src % 64 ≠ 0 ∨ dst % 64 ≠ 0 then done Code.alignFault
  else
    let i : Install := { slot := slot, imageId := (wordAt v 1).toNat, src := src, dst := dst, plain := (wordAt v 4).toNat }
    if k.state = .pending then
      accept (rset { s with tenancy := { s.tenancy with install := some { i with waiting := true } } } Reg.installStatus (installWord 1 0 0))
    else accept (startInstall s i)

/-- SEAL_INSTALL (R428). -/
def execSealInstall (via : Via) (v : List Byte) (s : State) : Host.Outcome State Fault Refusal := .next (doWrite s via 0x5000 0x14 (wInstall v))

/-- INSTALL_DONE (R428, R429): the chunks that are left, and the end; nothing ends while a request waits at a regulator. -/
def execInstallDone (s : State) : Host.Outcome State Fault Refusal :=
  .next (match s.tenancy.install with
    | some i =>
      if i.waiting || i.held then s
      else
        let s1 := installGo (chunkCount i.plain) i.requests s
        match s1.tenancy.install with
        | some j => if j.held then s1 else endInstall s1 j
        | none => s1
    | none => s)

/-! ### Writing and erasing slots (R423 to R426) -/

/-- A key enters its slot. -/
def loadKey (s : State) (slot purpose : Nat) (key : List Byte) : State :=
  let s1 := setKey s slot (fun k => { k with state := .loaded, purpose := purpose, key := key, newPurpose := 0, newKey := [] })
  if purpose = purposeFabric then fabricLoaded s1 (keyId key) else s1

/-- R426: the key that an envelope wraps; none for a point that is not valid, or where the integrity check fails. -/
def unwrapKey (env : List Byte) : Option (List Byte) :=
  match ecdh bindingPrivate ((env.drop 32).take 97) with
  | some z => keyUnwrap (hkdf384 z ((env.drop 16).take 16) (ascii "aev-kek" ++ (env.drop 8).take 8) 32) ((env.drop 136).take 40)
  | none => none

/-- key_slot_write (R423 to R426). RSV bits of an envelope are refused (log 43). -/
def wKeySlot (env : List Byte) (s : State) : Nat × State :=
  let slot := fld (wordAt env 0) 63 58
  let purpose := fld (wordAt env 0) 57 56
  if env.length ≠ 176 then refuse s Code.lengthMismatch
  else if fld (wordAt env 0) 55 0 ≠ 0 ∨ (env.drop 129).take 7 ≠ zeros 7 ∨ purpose = 3 then refuse s Code.valueRefused
  else if (purpose = purposeFabric ∧ 2 ≤ purposeCount s slot purposeFabric) ∨ (purpose = purposeExport ∧ 1 ≤ purposeCount s slot purposeExport) then refuse s Code.valueRefused
  else if (wordAt env 1).toNat ≠ Config.serial then refuse s Code.keyUnwrapFail
  else
    match unwrapKey env with
    | none => refuse s Code.keyUnwrapFail
    | some key =>
      let k := keySlot s slot
      if k.state = .pending ∨ 0 < slotRefs s slot then
        (Code.keyBusyDeferred, setKey s slot (fun k => { k with state := .pending, newPurpose := purpose, newKey := padTo 32 key }))
      else accept (loadKey s slot purpose (padTo 32 key))

/-- KEY_SLOT_WRITE (R423 to R426). -/
def execKeySlotWrite (via : Via) (env : List Byte) (s : State) : Host.Outcome State Fault Refusal := .next (doWrite s via 0x5000 0x11 (wKeySlot env))

/-- R423: no reference to a PENDING slot is left: its key is replaced, and an install that waited for the slot starts. -/
def replacePending (s : State) (slot : Nat) : State :=
  let k := keySlot s slot
  let s1 := loadKey s slot k.newPurpose k.newKey
  match s1.tenancy.install with
  | some i => if i.slot = slot ∧ i.waiting = true then startInstall s1 i else s1
  | none => s1

/-- key_slot_erase (R423). -/
def wKeyErase (slot : Nat) (s : State) : Nat × State :=
  if 63 < slot then refuse s Code.valueRefused
  else
    let k := keySlot s slot
    let s1 := match s.tenancy.install with
      | some i => if i.slot = slot then endInstall s { i with status := Code.keyRevoked } else s
      | none => s
    let s2 := if k.state ≠ .empty ∧ k.purpose = purposeExport then refuseExports (zeroExports s1) else s1
    let s3 := { s2 with tenancy := { s2.tenancy with keys := tdel s2.tenancy.keys slot } }
    accept (if k.state ≠ .empty ∧ k.purpose = purposeFabric then revokeLanes s3 (keyId k.key) else s3)

/-- KEY_SLOT_ERASE (R423). -/
def execKeySlotErase (via : Via) (slot : Nat) (s : State) : Host.Outcome State Fault Refusal := .next (doWrite s via 0x5000 0x12 (wKeyErase slot))

end Sys2Proof.Machine
end

