-- ==== Sys2Proof/Machine/Trace.lean ====
section
/-! DEFINITION. The trace port (R506 to R509), the tread log as management sees it (R513, R514) and the bench run (R518). -/

namespace Sys2Proof.Machine

/-- R522: trace_port_state: the port sends while its die runs (DEDUCED, log 47). -/
def traceSending (s : State) : Bool :=
  s.reset'.pwrOk && !s.reset'.held && !s.power.tripped &&
  (match s.reset'.boot with | .dies => true | .memory => true | .map => true | .ready => true | .excluded => true | _ => false)

/-- R506, R248 to R250: a block of the port: its lane, its two records, PORT_BLOCK as its control word, coded and scrambled. -/
def traceSend (s : State) (rs : List (List Word)) : State :=
  let n := s.trace.portBlock
  let x := (tget? s.trace.scramblers (n % 4)).getD (prbsStart s.draws)
  let data := bytesOf ((List.range 2).flatMap (fun i => rs.getD i [0, 0, 0, 0]))
  emit { s with
    draws := if (tget? s.trace.scramblers (n % 4)).isSome then s.draws else s.draws + 1
    trace := { s.trace with portBlock := (n + 1) % 65536, scramblers := tput s.trace.scramblers (n % 4) (prbsNext x) } }
    (.trace (n % 4) (prbsBlock x (encodeBlock data n)))

/-- TRACE_BLOCK (R506): the next block carries two records, the earlier first; a slot with none is a NULL record. -/
def execTraceBlock (s : State) : Host.Outcome State Fault Refusal :=
  .next (if !traceSending s then s
    else
      let rs := s.trace.queue.take 2
      radd (traceSend { s with trace := { s.trace with queue := s.trace.queue.drop 2 } } rs) Reg.traceRecords rs.length)

/-- TRACE_LOST_RECORD (R509): 16 places are free after drops. -/
def execTraceLostRecord (s : State) : Host.Outcome State Fault Refusal :=
  .next (if s.trace.lostPending = 0 ∨ 8192 - 512 < s.trace.queue.length + 16 then s
    else { s with trace := { s.trace with queue := s.trace.queue ++ [traceWords s 0xA (word s.trace.lostPending) 0], lostPending := 0 } })

/-- BEAT_MARK (R508): one in each beat whose number trace_mark_beats divides (log 86). -/
def execBeatMark (s : State) : Host.Outcome State Fault Refusal :=
  .next (if s.clock.beat.toNat % rget s Reg.traceMarkBeats ≠ 0 ∨ s.trace.markAt = some s.clock.beat.toNat then s else beatMark s (schedBeat s))

/-! ### The tread log (R513, R514) -/

/-- R513: an export session is open. -/
def exportOpen (s : State) : Bool := s.mgmt.segs.any (fun g => g.key == entryKey 0x6200 0xE && !g.write)

/-- tread_freeze (R513). -/
def wTreadFreeze (v : Nat) (s : State) : Nat × State :=
  if 1 < v then refuse s Code.valueRefused
  else if v = 1 then accept (treadFreezeOp s)
  else if exportOpen s then refuse s Code.sessionBusy
  else accept (treadEmpty s)

/-- TREAD_FREEZE (R513). -/
def execTreadFreeze (via : Via) (s : State) : Host.Outcome State Fault Refusal := .next (doWrite s via 0x6200 8 (wTreadFreeze 1))

/-- TREAD_UNFREEZE (R513). -/
def execTreadUnfreeze (via : Via) (s : State) : Host.Outcome State Fault Refusal := .next (doWrite s via 0x6200 8 (wTreadFreeze 0))

/-- R514: bytes of a chunk. -/
def exportBytes : Nat := 0x80000

/-- R423: an export that names a PENDING EXPORT slot waits. -/
def exportWaits (s : State) : Bool :=
  sealedMode s && s.trace.frozen && !s.tenancy.keys.any (fun k => k.2.state == .loaded && k.2.purpose == purposeExport)
    && s.tenancy.keys.any (fun k => k.2.state == .pending && (k.2.purpose == purposeExport || k.2.newPurpose == purposeExport))

/-- R514: the value of tread_export_chunk at an offset of the frozen span; what is asked beyond the span is empty. While
CLEARING nothing of the old tenancy is served (R414, log 91). In SEALED mode it is sealed under the
EXPORT slot. -/
def exportChunk (s : State) (off : Nat) : Nat × List Byte :=
  let span := rget s Reg.treadSpanBytes
  let low := s.trace.treadTotal - span
  let n := min exportBytes (span - off)
  let size := max 1 (treadBytes s)
  let bs := (List.range n).map (fun i => s.hbm.mem.read (treadBase s + (low + off + i) % size))
  if clearing s then (Code.tenantClearing, [])
  else if !s.trace.frozen then (Code.valueRefused, [])
  else if !sealedMode s then (Code.ok, bs)
  else
    match s.tenancy.keys.find? (fun k => k.2.state == .loaded && k.2.purpose == purposeExport) with
    | none => (Code.sealedDenied, [])
    | some k => (Code.ok, gcmSeal k.2.key (beBytes 4 (rget s Reg.freezeCount) ++ beBytes 8 (off / exportBytes)) bs)

/-- tread_replay (R518): the next LAUNCH is a bench run of a copied log; all zero, the default, arms none. -/
def wTreadReplay (v : List Byte) (s : State) : Nat × State :=
  if v.length ≠ 16 then refuse s Code.lengthMismatch
  else if lastArmed s then refuse s Code.valueRefused
  else accept { s with trace := { s.trace with bench := if v = zeros 16 then none else some ((wordAt v 0).toNat, (wordAt v 1).toNat) } }

/-- TREAD_REPLAY (R518). -/
def execTreadReplay (via : Via) (v : List Byte) (s : State) : Host.Outcome State Fault Refusal := .next (doWrite s via 0x6200 0xF (wTreadReplay v))

end Sys2Proof.Machine
end

