-- ==== Sys2Proof/Machine/ReadEntry.lean ====
section
/-! DEFINITION. What each dictionary entry reads (R438 to R440, R443): registers as they stand, and the entries whose value the rest of the state
gives. -/

namespace Sys2Proof.Machine

/-- Bytes of a row of numbers. -/
def u8s (xs : List Nat) : List Byte := xs.map (BitVec.ofNat 8)
def u16s (xs : List Nat) : List Byte := xs.flatMap (leBytes 2)
def i32s (xs : List Int) : List Byte := xs.flatMap (fun x => leBytes 4 (unsigned 32 x))

/-! ### Codes -/

def RingState.code (x : RingState) : Nat := match x with | .fit => 0 | .suspect => 1 | .unfit => 2 | .neverFit => 3
def Selector.code (x : Selector) : Nat := match x with | .onA => 0 | .toB => 1 | .onB => 2 | .toA => 3 | .dark => 4
def Train.code (x : Train) : Nat :=
  match x with
  | .off => 0 | .signal => 1 | .phase => 2 | .align => 3 | .echo => 4 | .beacon => 5 | .quarantine => 6 | .serve => 7 | .wait => 8
def LaneStatus.code (x : LaneStatus) : Nat := match x with | .inService => 0 | .paused => 1 | .down => 2
def Rollback.code (x : Rollback) : Nat :=
  match x with
  | .none => 0 | .faulted => 1 | .restoring => 2 | .armedReplay => 3 | .replaying => 4 | .abandoned => 5
/-- R468; before the always-on rails rise nothing reads it. -/
def Boot.code (x : Boot) : Nat :=
  match x with
  | .off => 0 | .rom => 0 | .fwHalt => 1 | .waitPower => 2 | .dies => 3 | .memory => 4 | .map => 5 | .ready => 6 | .excluded => 7
def Health.code (x : Health) : Nat := match x with | .healthy => 0 | .fenced => 1 | .failed => 2
def KeyState.code (x : KeyState) : Nat := match x with | .empty => 0 | .loaded => 1 | .pending => 2

/-! ### Values that the state gives -/

/-- R381: status of a tap: DIE_DEAD, SENSE_OPEN or RETURN_BROKEN of its column, in this order. -/
def tapStatus (s : State) (i : Nat) : Nat :=
  if (tap s i).dead then 3 else if (tap s i).isOpen then 1 else if (column s (columnOf i)).broken then 2 else 0

/-- R383: a model_params record. -/
def modelRecord (i : Nat) : List Byte :=
  bytesOf ([word (at' (Config.cap i) 32 32 + at' (Config.gPlate i) 32 0)]
    ++ (List.range 6).map (fun n =>
        match (Config.neighbours i)[n]? with
        | some j => word (at' j.1 8 56 + at' j.2 32 0)
        | none => word (at' 0xFF 8 56))
    ++ [0])

/-- R501: the lanes that the committed plan gives the package, as (physical eyelet, lane): those that it sends on or receives on. -/
def plannedLanes (s : State) : List (Nat × Nat) :=
  if s.plan.committed.isEmpty then []
  else ((List.range 1024).filter (fun i => (planPartner s true (i / 32) (i % 32)).isSome || (planPartner s false (i / 32) (i % 32)).isSome)).map
    (fun i => (physEyelet s (i / 32), i % 32))

/-- R501. -/
def standbyReady (s : State) : Nat :=
  let ls := plannedLanes s
  let plan := !s.plan.committed.isEmpty
  let b (i : Nat) (x : Bool) : Nat := if x then 2 ^ i else 0
  b 0 (s.reset'.boot == .ready && s.reset'.exclusion == 0)
    + b 1 (plan && ls.all (fun l => laneServes s l.1 l.2))
    + b 2 (plan && ls.all (fun l => tget RingState.neverFit s.optics.rings (laneKey l.1 l.2) == .fit))
    + b 3 (plan && ls.all (fun l => let c := (lane s l.1 l.2).cable; c == cablePass || c == cableAdopted))
    + b 4 (s.tenancy.state == .active)

/-- R422: a key-slot record. -/
def keyRecord (s : State) (i : Nat) : List Byte :=
  let k := keySlot s i
  bytesOf [word (at' k.state.code 2 62 + at' k.purpose 2 60 + at' (slotRefs s i) 16 32), if k.state = .empty then 0 else word (keyId k.key)]

/-- R246: ring_tables of an eyelet in force, and a table from bytes. -/
def ringBytes (s : State) (e : Nat) : List Byte := (List.range 64).flatMap (fun r => u16s (ringTable s (64 * e + r)))

/-- R457: the bytes of a range that lies in one area of R141, read through the home slice or from the aperture. While CLEARING nothing of the old
tenancy is served (R414, log 91). -/
def memRead (s : State) (a n : Nat) : Nat × List Byte :=
  if a % 64 ≠ 0 ∨ !(a + n ≤ hbmBytes || (0x10000000000 ≤ a && a + n ≤ 0x10080000000)) then (Code.valueRefused, [])
  else if clearing s then (Code.tenantClearing, [])
  else if a < hbmBytes then (if poisoned s a n then (Code.memPoison, []) else (Code.ok, hbmRead s a n))
  else (Code.ok, (List.range n).map (fun i =>
    let x := a + i - 0x10000000000
    (ptile s (physTile s (x / 0x2000000))).scratch.read (x % 0x2000000)))

/-- The DTLS session by which a request comes. -/
def dtlsOf (s : State) (via : Via) : Dtls :=
  match via with
  | .mgmt n => tget {} s.mgmt.sessions n
  | .mailbox _ => {}

/-! ### Reading -/

/-- The value in force of an entry that registers hold. -/
def regBytes (s : State) (e : Entry) (index : Nat) : List Byte :=
  if e.elem = 0 then [] else (List.range (e.size / e.elem)).flatMap (fun i => leBytes e.elem (rget s (e.reg index i)))

/-- Values at 0x1000 to 0x1300. -/
def readPackage (s : State) (index sub : Nat) : Option (List Byte) :=
  match index, sub with
  | 0x1000, 1 => some (ascii "Sarelaxa")
  | 0x1000, 2 => some (ascii "Chowyn")
  | 0x1000, 3 => some (ascii "Aelvo")
  | 0x1000, 4 => some (ascii "SX-AEV64")
  | 0x1000, 6 => some (u16s indicesInUse)
  | 0x1010, 3 => some (u16s ((List.range dieCount).map Config.dieRevision))
  | 0x1100, 2 => some (u8s [s.clock.refState.code])
  | 0x1100, 5 => some (leBytes 8 s.clock.beat.toNat)
  | 0x1200, 7 => some (u8s ((List.range dieCount).map (tapStatus s)))
  | 0x1200, 8 => some (i32s ((List.range 13).map (fun c => fround (column s c).offset)))
  | 0x1200, 9 => some (s.power.coeffs.flatMap (leBytes 4))
  | 0x1300, 2 => some (leBytes 4 (min (2 ^ 32 - 1) (s.power.coolantSteps / 100)))
  | 0x1300, 9 => some (i32s ((List.range dieCount).map (fun i => fround (tget ⟨0, 1⟩ s.power.biases i))))
  | 0x1300, 0xA => some (leBytes 4 (unsigned 32 (fround s.power.plateBias)))
  | 0x1300, 0xC => some ((List.range dieCount).flatMap modelRecord)
  | 0x1300, 0xF => some (leBytes 4 (if s.power.thermal = .shutdown then min (2 ^ 32 - 1) (s.power.clearUs / 1000) else 0))
  | _, _ => none

/-- Values of lasers, eyelets, lanes, rings, routes and the plan, at 0x2000 to 0x2400. -/
def readLinks (s : State) (base sub u : Nat) : Option (List Byte) :=
  let lanes (f : Nat → Nat) : Option (List Byte) := some (u8s ((List.range 32).map f))
  match base, sub with
  | 0x2010, 1 => some (u8s [(eyeDie s u).sel.code])
  | 0x2110, 1 => lanes (fun k => (laneState s u k).code)
  | 0x2110, 2 => lanes (fun k => (tget RingState.neverFit s.optics.rings (laneKey u k)).code)
  | 0x2140, 4 => lanes (fun k => (lane s u k).train.code)
  | 0x2210, 1 => some (match tget? s.optics.pendingTables u with | some t => u16s t | none => ringBytes s u)
  | 0x2210, 2 => some ((List.range 32).flatMap (fun k => leBytes 4 (match tget? s.optics.ages (laneKey u k) with | some a => min (2 ^ 32 - 1) (a / 100) | none => 2 ^ 32 - 1)))
  | 0x2300, 1 => some (u8s [swapCode s.router.state])
  | 0x2300, 4 => some (bankBytes s.router.shadow)
  | 0x2300, 5 => some (bankBytes s.router.active)
  | 0x2300, 8 => some (leBytes 8 (tget 0 s.router.shadow (rget s Reg.routeEntrySel)).toNat)
  | 0x2400, 1 => some s.plan.staged
  | 0x2400, 3 => some s.plan.committed
  | 0x2400, 9 => some (leBytes 4 (runBuild s))
  | 0x2400, 0xA => some (u8s ((List.range 32).map (logicalEyelet s)))
  | 0x2410, 1 => lanes (fun k => (lane s u k).cable)
  | 0x2410, 2 => lanes (fun k => (lane s u k).rev)
  | 0x2410, 3 => some ((List.range 32).flatMap (fun k => padTo 64 (bytesOf (lane s u k).peer)))
  | _, _ => none

/-- Values of tiles, bring-up, welts, queues, lace sets and the Last store, at 0x3000 to 0x4100. -/
def readPlatform (s : State) (base sub u : Nat) : Option (List Byte) :=
  match base, sub with
  | 0x3000, 1 => some (u8s [s.reset'.boot.code])
  | 0x3000, 5 => some (u8s ((List.range 64).map (physTile s)))
  | 0x3000, 6 => some (u8s ((List.range 72).map (fun p => (ptile s p).health.code)))
  | 0x3000, 7 => some (u8s [((List.range 72).filter (fun p => (ptile s p).health == .healthy && (logicalOf s p).isNone)).length])
  | 0x3000, 0xA => some (leBytes 4 s.reset'.exclusion)
  | 0x3020, 1 => some (u8s ((List.range 1616).map (fun i => (welt s (i / 16) (i % 16)).state.code)))
  | 0x3020, 2 => some (u8s ((List.range 1616).map (fun i => (welt s (i / 16) (i % 16)).repaired)))
  | 0x4000, 5 => some (u8s ((List.range 512).map (fun q => (queueOf s q).state.code)))
  | 0x4040, 1 => some (u8s [(laceSet s u).enabled.toNat])
  | 0x4040, 2 => some (u8s [(laceSet s u).shape])
  | 0x4040, 3 => some (u16s (laceSet s u).members)
  | 0x4040, 4 => some (leBytes 4 (laceSet s u).seq)
  | 0x4100, 4 => some (u8s ((List.range 16).map (fun i => (slotState s i).code)))
  | 0x4100, 5 => some ((List.range 16).flatMap (fun i => leBytes 4 (tget {} s.last.slots i).gen))
  | 0x4100, 6 => some ((List.range 16).flatMap (fun i => leBytes 8 (tget {} s.last.slots i).digest))
  | 0x4100, 7 => some (u8s [match s.last.run with | some r => r.slot | none => 0xFF])
  | 0x4100, 8 => some (u8s [match s.last.run with | some r => r.bucket | none => 0xFF])
  | _, _ => none

/-- Values of security, trace, faults and the port, at 0x5000 to 0x7100. -/
def readService (s : State) (via : Via) (index sub : Nat) : Option (List Byte) :=
  match index, sub with
  | 0x5000, 1 => some (u8s [s.tenancy.state.code])
  | 0x5000, 2 => some (leBytes 4 s.tenancy.vals.id)
  | 0x5000, 3 => some (u8s [s.tenancy.vals.mode.code])
  | 0x5000, 5 => some (peerBytes s.tenancy.vals.peers)
  | 0x5000, 8 => some (u8s [runSvn s])
  | 0x5000, 9 => some (u8s [fusedNow s])
  | 0x5000, 0xB => some (padTo 48 s.tenancy.measurement)
  | 0x5000, 0xD => some s.tenancy.report
  | 0x5000, 0xE => some Config.certChain
  | 0x5000, 0xF => some bindingPubkey
  | 0x5000, 0x10 => some (leBytes 8 Config.serial)
  | 0x5000, 0x13 => some ((List.range 64).flatMap (keyRecord s))
  | 0x5000, 0x16 => some s.tenancy.anchors.flatten
  | 0x5000, 0x1B => some (u8s [s.tenancy.fw.code])
  | 0x6200, 0xD => some (leBytes 8 (dtlsOf s via).exportOff)
  | 0x6200, 0xF => some (match s.trace.bench with | some b => bytesOf [word b.1, word b.2] | none => zeros 16)
  | 0x6200, 0x12 => some (u8s [if traceSending s then 1 else 0])
  | 0x7000, 3 => some (leBytes 2 s.faults.held.length)
  | 0x7000, 4 => some (s.faults.log.flatMap (fun r => bytesOf (faultWords r)))
  | 0x7000, 6 => some (u8s [s.faults.rollback.code])
  | 0x7000, 0x10 => some s.faults.ranges
  | 0x7000, 0x17 => some (leBytes 4 (standbyReady s))
  | 0x7100, 1 => some (u8s [s.mgmt.linkUp.toNat])
  | 0x7100, 2 => some (leBytes 8 Config.mac)
  | 0x7100, 3 => some (padTo 16 s.mgmt.ipv6)
  | 0x7100, 5 => some (padTo 16 s.mgmt.gateway)
  | 0x7100, 8 => some (u8s [s.mgmt.sessions.length])
  | 0x7100, 0xA => some (leBytes 4 s.mgmt.alerts)
  | 0x7100, 0xC => some (u8s [s.mgmt.stuck.toNat])
  | 0x7180, 1 => some (leBytes 8 (dtlsOf s via).memAddr)
  | 0x7180, 2 => some (leBytes 4 (dtlsOf s via).memLen)
  | _, _ => none

/-- R440: the pending value of an RWX entry. -/
def pendingOf (s : State) (e : Entry) (index : Nat) : Option Nat := (s.mgmt.pendingRwx.find? (fun x => x.1 == (e.reg index 0).key)).map (·.2)

/-- R440: an RWX entry has a pending value. -/
def isPending (s : State) (e : Entry) (index : Nat) : Bool :=
  e.acc == .rwx && ((pendingOf s e index).isSome || (e.index == 0x2210 && (tget? s.optics.pendingTables (e.unit index)).isSome))

/-- R440: the value that a read of an entry gives: status, bytes. Only memory inspection and the export of the tread log can fail here. -/
def readValue (s : State) (via : Via) (e : Entry) (index : Nat) : Nat × List Byte :=
  if e.index = 0x7180 ∧ e.sub = 3 then memRead s (dtlsOf s via).memAddr (dtlsOf s via).memLen
  else if e.index = 0x6200 ∧ e.sub = 0xE then exportChunk s (dtlsOf s via).exportOff
  else
    match pendingOf s e index with
    | some v => (Code.ok, leBytes e.size v)
    | none =>
      let special :=
        if e.sub = 0 then none
        else if index < 0x2000 then readPackage s index e.sub
        else if index < 0x3000 then readLinks s e.index e.sub (e.unit index)
        else if index < 0x5000 then readPlatform s e.index e.sub (e.unit index)
        else readService s via index e.sub
      (Code.ok, special.getD (regBytes s e index))

/-- R440: an RC entry reads zero after the read; the log of laser power starts again (R521). -/
def clearRead (s : State) (e : Entry) (index : Nat) : State :=
  if e.acc ≠ .rc ∨ e.elem = 0 then s
  else
    let s1 := (List.range (e.size / e.elem)).foldl (fun s i => rset s (e.reg index i) 0) s
    if e.index = 0x6100 ∧ e.sub = 3 then { s1 with optics := { s1.optics with dies := s1.optics.dies.map (fun d => (d.1, { d.2 with seenA := false, seenB := false })) } } else s1

/-- R441 rank 9: how long the value is that a READ would carry, where that is known before its own rules. -/
def askedBytes (s : State) (via : Via) (e : Entry) (v : Nat × List Byte) : Nat :=
  if e.index = 0x7180 ∧ e.sub = 3 then (dtlsOf s via).memLen else v.2.length

end Sys2Proof.Machine
end

