-- ==== Sys2Proof/Machine/WriteEntry.lean ====
section
/-! DEFINITION. What a write of each dictionary entry does (R438, R440, R441): the plain entries that registers hold, RWX entries, the entries with a
rule of their own, and the actions that rows of the command table name as well. -/

namespace Sys2Proof.Machine

/-- A write whose value must meet a condition. -/
def guarded (ok : Bool) (s : State) : Nat × State := if ok then accept s else refuse s Code.valueRefused

/-- A plain RW entry: its value lies in its range. -/
def wPlain (e : Entry) (index v : Nat) (s : State) : Nat × State := guarded (decide (e.lo ≤ v) && decide (v ≤ e.hi)) (if e.lo ≤ v ∧ v ≤ e.hi then rset s (e.reg index 0) v else s)

/-- A plain entry whose value meets one more condition. -/
def wPlainIf (ok : Bool) (e : Entry) (index v : Nat) (s : State) : Nat × State := if ok then wPlain e index v s else refuse s Code.valueRefused

/-- R13: a BITS32 entry with reserved bits. -/
def wBits (valid : Nat) (e : Entry) (index v : Nat) (s : State) : Nat × State :=
  if v &&& (2 ^ 32 - 1 - valid) ≠ 0 then refuse s Code.reservedSet else wPlain e index v s

/-- R440: an RWX write is held as the pending value; a later one replaces it. -/
def wPending (ok : Bool) (e : Entry) (index v : Nat) (s : State) : Nat × State :=
  if ok then
    let key := (e.reg index 0).key
    accept { s with mgmt := { s.mgmt with pendingRwx := s.mgmt.pendingRwx.filter (fun x => x.1 != key) ++ [(key, v)] } }
  else refuse s Code.valueRefused

/-- The value that a register will have after the next restart boundary. -/
def nextVal (s : State) (r : Reg) : Nat := ((s.mgmt.pendingRwx.find? (fun x => x.1 == r.key)).map (·.2)).getD (rget s r)

/-- Whether two 64 KiB areas are apart, and whether an area lies in HBM on a boundary. -/
def areasApart (a b : Nat) : Bool := a + 65536 ≤ b || b + 65536 ≤ a
def hbmArea (a size align : Nat) : Bool := a % align == 0 && a + size ≤ hbmBytes

/-- The bytes of a value as numbers of `k` bytes. -/
def numsOf (k : Nat) (bs : List Byte) : List Nat := (List.range (bs.length / max 1 k)).map (fun i => leNat ((bs.drop (k * i)).take k))

/-! ### Entries with a rule of their own -/

/-- R381: energy_coeffs; kinds 5 and 6 are reserved. -/
def wCoeffs (bs : List Byte) (s : State) : Nat × State :=
  let xs := numsOf 4 bs
  let reserved := xs.zipIdx.any (fun x => (x.2 / 16 == 5 || x.2 / 16 == 6) && x.1 != 0)
  if reserved then refuse s Code.valueRefused else accept (setPower s (fun p => { p with coeffs := xs }))

/-- R270: lane_latency_beats. -/
def wLatency (e : Entry) (index : Nat) (bs : List Byte) (s : State) : Nat × State :=
  if bs.any (fun b => 16 < b.toNat) then refuse s Code.valueRefused
  else accept (bs.zipIdx.foldl (fun s b => rset s (e.reg index b.2) b.1.toNat) s)

/-- R246: ring_tables of an eyelet. -/
def wRingTables (u : Nat) (bs : List Byte) (s : State) : Nat × State :=
  accept { s with optics := { s.optics with pendingTables := tput s.optics.pendingTables u (numsOf 2 bs) } }

/-- R467: what an accepted write has changed goes to flash before it is acknowledged. -/
def flashed (r : Nat × State) (p : FlashPart) : Nat × State := if r.1 = Code.ok then (r.1, flashCommit r.2 p) else r

/-- R467: chip_number is kept in flash with its pending value. -/
def wChipNumber (e : Entry) (index v : Nat) (s : State) : Nat × State := flashed (wPending (decide (v ≤ 0xEFF) || v == 0xFFFF) e index v s) .chip

/-- R207, R467: shadow_generation. -/
def wShadowGen (e : Entry) (index v : Nat) (s : State) : Nat × State := flashed (wPlain e index v s) .banks

/-- R276: plan_staged. -/
def wPlanStaged (bs : List Byte) (s : State) : Nat × State := accept { s with plan := { s.plan with staged := bs } }

/-- R163, R172: partition entries; what partition 0 has is fixed. -/
def wPartition (e : Entry) (index v : Nat) (s : State) : Nat × State :=
  if e.unit index = 0 ∧ (e.sub = 1 ∨ 4 ≤ e.sub) then refuse s Code.valueRefused
  else if 5 ≤ e.sub then wPlainIf (bits v 63 56 == 0 && bits v 31 24 == 0) e index v s
  else wPlain e index v s

/-- R340: lace_shape and lace_members change only while the set is disabled. -/
def wLaceShape (set v : Nat) (s : State) : Nat × State :=
  if 1 < v ∨ (laceSet s set).enabled then refuse s Code.valueRefused else accept (setLaceSet s set (fun x => { x with shape := v }))
def wLaceMembers (set : Nat) (bs : List Byte) (s : State) : Nat × State :=
  if (laceSet s set).enabled then refuse s Code.valueRefused else accept (setLaceSet s set (fun x => { x with members := numsOf 2 bs }))

/-- R353: bulk_stage. -/
def bulkStageOk (v : Nat) : Bool := bits v 31 30 == 0 && bits v 23 19 == 0 && bits v 18 0 % 0x400 == 0 && decide (bits v 18 0 ≤ 0x7F800)

/-- R485, R502: snapshot_ranges. -/
def wRanges (bs : List Byte) (s : State) : Nat × State :=
  let ok := (List.range (bs.length / 16)).all (fun i =>
    let a := (wordAt bs (2 * i)).toNat
    let w := wordAt bs (2 * i + 1)
    a % 64 == 0 && fld w 61 0 % 64 == 0 && fld w 63 62 != 3)
  if lastArmed s ∨ !ok then refuse s Code.valueRefused else accept { s with faults := { s.faults with ranges := bs } }

/-- R458: alert_ack; with no bit left the line is let go (R459). -/
def wAlertAck (v : Nat) (s : State) : Nat × State :=
  if v &&& 0xFFFFFF00 ≠ 0 then refuse s Code.reservedSet
  else
    let left := s.mgmt.alerts &&& (0xFFFFFFFF - v % 2 ^ 32)
    let s1 := { s with mgmt := { s.mgmt with alerts := left, lineWanted := s.mgmt.lineWanted && left != 0 } }
    accept (if left = 0 ∧ s.mgmt.linePending = true then emit { s1 with mgmt := { s1.mgmt with linePending := false, pendingFor := 0, sinceEnd := 0 } } (.pin 0 true) else s1)

/-- R460: alert_line_enable: 10 high samples in a row follow within 10 ms, or the write is refused. -/
def wLineEnable (v : Nat) (tenHigh : Bool) (s : State) : Nat × State :=
  if v ≠ 1 ∨ tenHigh = false then refuse s Code.valueRefused else accept { s with mgmt := { s.mgmt with stuck := false } }

/-- R462: a port entry: every DTLS session ends after the response. -/
def portWrite (s : State) : State := { s with mgmt := { s.mgmt with portPending := true } }

/-- R457, R463, R514: values that a management session holds for itself. -/
def wOwn (via : Via) (f : Dtls → Dtls) (s : State) : Nat × State :=
  match via with
  | .mgmt n => accept { s with mgmt := { s.mgmt with sessions := tmod {} s.mgmt.sessions n f } }
  | .mailbox _ => refuse s Code.accessDenied

/-- R415: the image that the bytes written to fw_image_stage make. -/
def imageOf (bs : List Byte) : FwImage :=
  let f := Config.fwFields bs
  { keyHash := f.1, sigOk := f.2.1, svn := f.2.2.1, build := f.2.2.2, digest := sha384 bs }

/-- R436: mgmt_anchors as bytes. -/
def wAnchorBytes (via : Via) (bs : List Byte) (s : State) : Nat × State :=
  match derSplit 5 bs with
  | some cs => wAnchors via cs s
  | none => refuse s Code.valueRefused

/-! ### The entries, by index -/

/-- 0x1100 to 0x1300. -/
def writePackage (e : Entry) (index v : Nat) (bs : List Byte) (s : State) : Nat × State :=
  match index, e.sub with
  | 0x1100, 0xB => wWallAnchor v s
  | 0x1200, 1 => wPlainIf (!s.reset'.straps.testBit 2 || decide (v ≤ 1800)) e index v s
  | 0x1200, 9 => wCoeffs bs s
  | 0x1300, 1 => wCoolant (signed 32 v) s
  | 0x1300, 0xE => wThermalRelease v s
  | _, _ => wPlain e index v s

/-- 0x2000 to 0x2400. -/
def writeLinks (e : Entry) (index v : Nat) (bs : List Byte) (s : State) : Nat × State :=
  let u := e.unit index
  match e.index, e.sub with
  | 0x2000, 4 => wPlainIf (decide (rget s Reg.laserLostCdbm + 100 ≤ v)) e index v s
  | 0x2000, 5 => wPlainIf (decide (v + 100 ≤ rget s Reg.laserLowCdbm)) e index v s
  | 0x2010, 2 => wLaserSelect u v s
  | 0x2130, 4 => wPlainIf (v == 0 || (decide (100 ≤ v) && decide (v ≤ 100000))) e index v s
  | 0x2140, 1 => wLatency e index bs s
  | 0x2200, 4 => wPlainIf (decide (4 * v ≤ rget s Reg.fitStaleMs)) e index v s
  | 0x2200, 5 => wPlainIf (decide (4 * rget s Reg.fitMaxAgeMs ≤ v)) e index v s
  | 0x2210, 1 => wRingTables u bs s
  | 0x2210, 5 => wFullSearch u v s
  | 0x2300, 3 => wShadowGen e index v s
  | 0x2300, 4 => wRouteShadow bs s
  | 0x2300, 6 => wRouteCopy v s
  | 0x2300, 8 => wRouteEntry v s
  | 0x2300, 9 => wRouteSwap v s
  | 0x2300, 0xA => wRouteRelease v s
  | 0x2300, 0xB => wPlainIf (decide (v + rget s Reg.routeHoldLimitUs ≤ 150)) e index v s
  | 0x2300, 0xC => wPlainIf (decide (v + rget s Reg.swapDrainUs ≤ 150)) e index v s
  | 0x2380, 1 => wChipNumber e index v s
  | 0x2380, 5 => wPlainIf (decide (rget s Reg.reorderHoldUs + 100 ≤ v)) e index v s
  | 0x2380, 6 => wPlainIf (decide (v + 100 ≤ rget s Reg.ackTimeoutUs)) e index v s
  | 0x2400, 1 => wPlanStaged bs s
  | 0x2400, 2 => wPlanCommit v s
  | _, _ => wPlain e index v s

/-- 0x3000 to 0x4100. -/
def writePlatform (via : Via) (e : Entry) (index v : Nat) (bs : List Byte) (s : State) : Nat × State :=
  let u := e.unit index
  match e.index, e.sub with
  | 0x3000, 8 => wTileFence v s
  | 0x3000, 9 => wRestart v s
  | 0x3000, 0xB => wExclusionClear v s
  | 0x3020, 5 => wWeltSelftest v s
  | 0x3060, 8 => wXlateRoot v s
  | 0x3060, 9 => wXlateInvalidate v s
  | 0x3100, 8 => wPlainIf ((List.range 4).all (fun p => bits v (8 * p + 7) (8 * p) != 0)) e index v s
  | 0x3100, 0xA => wPartitionCommit v s
  | 0x3110, _ => wPartition e index v s
  | 0x4000, 2 => wPending (hbmArea v 65536 65536) e index v s
  | 0x4000, 3 => wPending (hbmArea v 65536 65536 && areasApart v (nextVal s Reg.queueTableBase)) e index v s
  | 0x4000, 4 => wQueueCtl via v s
  | 0x4000, 7 => wMgmtCommand bs s
  | 0x4000, 0xD => wPlainIf (bulkStageOk v) e index v s
  | 0x4040, 1 => wLaceEnable u v s
  | 0x4040, 2 => wLaceShape u v s
  | 0x4040, 3 => wLaceMembers u bs s
  | 0x4100, 1 => wPending (hbmArea v (16 * 2 ^ 30) (2 ^ 30)) e index v s
  | 0x4100, 0x10 => wLastUnload v s
  | _, _ => wPlain e index v s

/-- 0x5000 to 0x6200. -/
def writeSecurity (via : Via) (e : Entry) (index v : Nat) (bs : List Byte) (s : State) : Nat × State :=
  match index, e.sub with
  | 0x5000, 4 => wTenantChange bs s
  | 0x5000, 5 => wPeerSet bs s
  | 0x5000, 0xA => wRollbackCommit v s
  | 0x5000, 0xC => wNonce bs s
  | 0x5000, 0x11 => wKeySlot bs s
  | 0x5000, 0x12 => wKeyErase v s
  | 0x5000, 0x14 => wInstall bs s
  | 0x5000, 0x16 => wAnchorBytes via bs s
  | 0x5000, 0x1A => wImageStage (imageOf bs) s
  | 0x5000, 0x1C => wActivate v s
  | 0x6200, 1 => wBits 0x7FE e index v s
  | 0x6200, 5 => wPending (hbmArea v (nextVal s Reg.treadBytes) 65536) e index v s
  | 0x6200, 6 => wPending (v % 65536 == 0 && decide (2 ^ 26 ≤ v) && decide (v ≤ 2 ^ 34)) e index v s
  | 0x6200, 8 => wTreadFreeze v s
  | 0x6200, 9 => wBits 3 e index v s
  | 0x6200, 0xD => if v % 0x80000 = 0 then wOwn via (fun d => { d with exportOff := v }) s else refuse s Code.valueRefused
  | 0x6200, 0xF => wTreadReplay bs s
  | 0x6200, 0x10 => wPlainIf (v == 0 || (decide (4 ≤ v) && decide (v ≤ 16777215))) e index v s
  | _, _ => wPlain e index v s

/-- 0x7000 to 0x7180. -/
def writeService (via : Via) (e : Entry) (index v : Nat) (bs : List Byte) (s : State) : Nat × State :=
  match index, e.sub with
  | 0x7000, 1 => wFaultEpoch v s
  | 0x7000, 2 => wFaultAck v s
  | 0x7000, 0xC => wPlainIf (!lastArmed s && (decide (v ≤ 0xEFF) || v == 0xFFFF)) e index v s
  | 0x7000, 0xD => wPlainIf (!lastArmed s) e index v s
  | 0x7000, 0xE => wPlainIf (!lastArmed s) e index v s
  | 0x7000, 0xF => wPlainIf (!lastArmed s) e index v s
  | 0x7000, 0x10 => wRanges bs s
  | 0x7000, 0x12 => wSnapshotRestore bs s
  | 0x7000, 0x14 => wPlainIf (v == 0 || (decide (60 ≤ v) && decide (v ≤ 604800))) e index v s
  | 0x7000, 0x15 => wBits 0x1F e index v s
  | 0x7100, 3 => accept (portWrite { s with mgmt := { s.mgmt with ipv6 := if bs = zeros 16 then [] else bs } })
  | 0x7100, 4 => let r := wPlain e index v s; (r.1, if r.1 = Code.ok then portWrite r.2 else r.2)
  | 0x7100, 5 => accept (portWrite { s with mgmt := { s.mgmt with gateway := if bs = zeros 16 then [] else bs } })
  | 0x7100, 6 => let r := wPlain e index v s; (r.1, if r.1 = Code.ok then portWrite r.2 else r.2)
  | 0x7100, 0xB => wAlertAck v s
  | 0x7100, 0xD => wLineEnable v (Config.freeBool s.draws) { s with draws := s.draws + 1 }
  | 0x7100, 0x10 => wPending (hbmArea v 65536 65536 && areasApart v (nextVal s Reg.queueTableBase) && areasApart v (nextVal s Reg.semBase)) e index v s
  | 0x7180, 1 => wOwn via (fun d => { d with memAddr := v }) s
  | 0x7180, 2 => if v % 64 = 0 ∧ 64 ≤ v ∧ v ≤ 0x100000 then wOwn via (fun d => { d with memLen := v }) s else refuse s Code.valueRefused
  | _, _ => wPlain e index v s

/-- The write of an entry with a value of a length it takes. -/
def writeEntry (via : Via) (e : Entry) (index : Nat) (bs : List Byte) (s : State) : Nat × State :=
  let v := leNat bs
  if index < 0x2000 then writePackage e index v bs s
  else if index < 0x3000 then writeLinks e index v bs s
  else if index < 0x5000 then writePlatform via e index v bs s
  else if index < 0x7000 then writeSecurity via e index v bs s
  else writeService via e index v bs s

/-- R441 rank 8: a value length that an entry takes. -/
def lengthOk (e : Entry) (n : Nat) : Bool :=
  if !e.varlen then n == e.size
  else if e.index == 0x4040 then n % 2 == 0 && decide (2 ≤ n) && decide (n ≤ e.size)
  else if e.index == 0x7000 then n % 16 == 0 && decide (n ≤ e.size)
  else decide (n ≤ e.size)

/-- R441: write an entry: the refusals in rank order, then the entry's own rules. -/
def writeValue (s : State) (via : Via) (index sub : Nat) (bs : List Byte) (checked : Bool) : Nat × State :=
  let st := if checked then Code.ok else entryStatus s via index sub 1
  if st ≠ Code.ok then (st, countDenied s st)
  else
    match findEntry index sub with
    | none => (Code.noEntry, s)
    | some e =>
      if !lengthOk e bs.length then (Code.lengthMismatch, s)
      else if unclaimedRefusal s via index sub then (Code.valueRefused, s)
      else
        let r := writeEntry via e index bs s
        (r.1, if tookEffect r.1 then logMailboxWrite r.2 via else r.2)

/-! ### Rows -/

/-- ALERT_ACK (R458). -/
def execAlertAck (via : Via) (v : Nat) (s : State) : Host.Outcome State Fault Refusal := .next (doWrite s via 0x7100 0xB (wAlertAck v))

/-- ALERT_LINE_ENABLE (R460). -/
def execAlertLineEnable (via : Via) (v : Nat) (tenHigh : Bool) (s : State) : Host.Outcome State Fault Refusal := .next (doWrite s via 0x7100 0xD (wLineEnable v tenHigh))

end Sys2Proof.Machine
end

