-- ==== Sys2Proof/Machine/Dict.lean ====
section
/-! DEFINITION. The Korhiven Dictionary Protocol (R445 to R457), ALERT_N and NOTIFY (R458 to R461), and the sessions of the management port (R435,
R436, R453). -/

namespace Sys2Proof

/-! ### Message fields (R446) -/

def Kdp.rev (m : Kdp) : Nat := Machine.fld m.w0 63 56
def Kdp.kind (m : Kdp) : Nat := Machine.fld m.w0 55 48
def Kdp.index (m : Kdp) : Nat := Machine.fld m.w0 47 32
def Kdp.sub (m : Kdp) : Nat := Machine.fld m.w0 31 24
def Kdp.final (m : Kdp) : Bool := Machine.bit m.w0 14
def Kdp.length (m : Kdp) : Nat := Machine.fld m.w0 11 0
def Kdp.reqId (m : Kdp) : Nat := Machine.fld m.w1 63 32
def Kdp.session (m : Kdp) : Nat := Machine.fld m.w1 31 16
def Kdp.segment (m : Kdp) : Nat := Machine.fld m.w1 15 0
def Kdp.crc (m : Kdp) : Nat := Machine.fld m.w2 63 32
def Kdp.count (m : Kdp) : Nat := Machine.fld m.w2 31 0

end Sys2Proof

namespace Sys2Proof.Machine

/-- R447: the kinds of a request. -/
abbrev kindRead : Nat := 1
abbrev kindWrite : Nat := 2
abbrev kindDescribe : Nat := 3
abbrev kindOpenRead : Nat := 4
abbrev kindOpenWrite : Nat := 5
abbrev kindSegRead : Nat := 6
abbrev kindSegWrite : Nat := 7
abbrev kindClose : Nat := 8
abbrev kindNotify : Nat := 9

/-- R447: a reserved kind. -/
def kindReserved (k : Nat) : Bool := k == 0 || decide (kindNotify < k)

/-- R447: the error of a message as such; OK when it has none. -/
def messageError (m : Kdp) : Nat :=
  if m.rev ≠ 1 then Code.versionUnsupported
  else if kindReserved m.kind ∨ bit m.w0 12 = true ∨ 1024 < m.length ∨ m.data.length ≠ m.length then Code.reservedSet
  else Code.ok

/-- R446: a response to a message before it is filled: what it echoes. -/
def respOf (m : Kdp) (status : Nat) : Resp :=
  { kind := m.kind % 128, status := status, index := m.index, sub := m.sub, reqId := m.reqId, segment := m.segment }

/-- R446: the bytes of a response message. -/
def respBytes (r : Resp) : List Byte :=
  bytesOf [word (at' 1 8 56 + at' (r.kind + 128) 8 48 + at' r.index 16 32 + at' r.sub 8 24 + at' r.status 8 16
      + at' r.pending.toNat 1 15 + at' r.committed.toNat 1 13 + at' r.value.length 12 0),
    word (at' r.reqId 32 32 + at' r.session 16 16 + at' r.segment 16 0),
    word (at' r.crc 32 32 + at' r.count 32 0)] ++ r.value

/-! ### Kinds that name an entry -/

/-- R440, R441, R457: READ. -/
def doRead (s : State) (via : Via) (m : Kdp) : Resp × State :=
  let st := entryStatus s via m.index m.sub 0
  match findEntry m.index m.sub with
  | none => (respOf m st, s)
  | some e =>
    if st ≠ Code.ok then (respOf m st, countDenied s st)
    else
      let v := readValue s via e m.index
      if 1024 < askedBytes s via e v then (respOf m Code.valueTooLarge, s)
      else if v.1 ≠ Code.ok then (respOf m v.1, countDenied s v.1)
      else ({ respOf m Code.ok with pending := isPending s e m.index, value := v.2 }, clearRead s e m.index)

/-- R438, R441: WRITE. -/
def doWriteMsg (s : State) (via : Via) (m : Kdp) : Resp × State :=
  let r := writeValue s via m.index m.sub m.data false
  (respOf m r.1, r.2)

def Ty.code (t : Ty) : Nat :=
  match t with
  | .u8 => 1 | .u16 => 2 | .u32 => 3 | .u64 => 4 | .i32 => 5 | .f32 => 6 | .bits32 => 7 | .str => 8 | .blob => 9
def Acc.code (a : Acc) : Nat := match a with | .ro => 1 | .rw => 2 | .wo => 3 | .rc => 4 | .rwx => 5

/-- R448: the descriptor of an entry. -/
def descriptor (e : Entry) (index : Nat) : Word :=
  word (at' e.ty.code 4 60 + at' e.acc.code 4 56 + at' e.ten.toNat 1 55 + at' e.aon.toNat 1 54
    + at' (sealedGuard index e.sub).toNat 1 53 + at' e.varlen.toNat 1 52 + at' e.size 32 0)

/-- R448: DESCRIBE. -/
def doDescribe (s : State) (via : Via) (m : Kdp) : Resp × State :=
  let st := entryStatus s via m.index m.sub 4
  match findEntry m.index m.sub with
  | none => (respOf m st, s)
  | some e =>
    if st ≠ Code.ok then (respOf m st, countDenied s st)
    else ({ respOf m Code.ok with value := bytesOf [descriptor e m.index] ++ ascii e.name }, s)

/-! ### Opening sessions (R450 to R452) -/

/-- R450: open segmented sessions of a source, and how many it may have. -/
def openCount (s : State) (via : Via) : Nat := (s.mgmt.segs.filter (fun g => g.via == via)).length
def openLimit (via : Via) : Nat :=
  match via with
  | .mgmt _ => 4
  | .mailbox _ => 1

/-- R450: the next session number: a 16-bit counter that skips 0 and, with them, the numbers of open sessions. -/
def sessionNumber : Nat → List Nat → Nat → Nat
  | 0, _, n => n
  | fuel + 1, used, n =>
    let k := if n % 65536 = 0 then 1 else n % 65536
    if used.contains k then sessionNumber fuel used (k + 1) else k

/-- Open a session: its number, and the state in which it is open. -/
def openSeg (s : State) (mk : Nat → Seg) : Nat × State :=
  let id := sessionNumber (s.mgmt.segs.length + 1) (s.mgmt.segs.map (·.id)) s.mgmt.nextSeg
  (id, { s with mgmt := { s.mgmt with segs := s.mgmt.segs ++ [mk id], nextSeg := id + 1, aborted := tdel s.mgmt.aborted id } })

/-- R452: open a read session: its snapshot, and an RC entry cleared. -/
def openReadOf (s : State) (via : Via) (index sub : Nat) (r : Nat → Resp) : Resp × State :=
  let st := entryStatus s via index sub 2
  match findEntry index sub with
  | none => (r st, s)
  | some e =>
    if st ≠ Code.ok then (r st, countDenied s st)
    else if openLimit via ≤ openCount s via then (r Code.sessionBusy, s)
    else
      let v := readValue s via e index
      if v.1 ≠ Code.ok then (r v.1, countDenied s v.1)
      else
        let o := openSeg (clearRead s e index) (fun id => { id := id, via := via, key := entryKey index sub, write := false, count := v.2.length, data := v.2 })
        ({ r Code.ok with pending := isPending s e index, session := o.1, count := v.2.length, crc := crc32c v.2 }, o.2)

def doOpenRead (s : State) (via : Via) (m : Kdp) : Resp × State := openReadOf s via m.index m.sub (respOf m)

/-- R451: open a write session. -/
def doOpenWrite (s : State) (via : Via) (m : Kdp) : Resp × State :=
  let st := entryStatus s via m.index m.sub 3
  match findEntry m.index m.sub with
  | none => (respOf m st, s)
  | some e =>
    if st ≠ Code.ok then (respOf m st, countDenied s st)
    else if openLimit via ≤ openCount s via then (respOf m Code.sessionBusy, s)
    else if !lengthOk e m.count then (respOf m Code.lengthMismatch, s)
    else if unclaimedRefusal s via m.index m.sub then (respOf m Code.valueRefused, s)
    else
      let o := openSeg s (fun id => { id := id, via := via, key := entryKey m.index m.sub, write := true, count := m.count })
      ({ respOf m Code.ok with session := o.1 }, o.2)

/-! ### Kinds that name a session -/

/-- R450: segments of a value, and bytes of one. -/
def segCount (n : Nat) : Nat := max 1 ((n + 1023) / 1024)
def segBytes (n i : Nat) : Nat := min 1024 (n - 1024 * i)

/-- A response that names a session. -/
def segResp (m : Kdp) (status : Nat) : Resp := { respOf m status with session := m.session }

/-- R447: the response to a request that names an aborted or unknown session. -/
def abortedResp (m : Kdp) (reason : Nat) : Resp := { segResp m Code.sessionAborted with count := reason }

/-- R447, R453: find the session that a request names, or answer for it. -/
def withSeg (s : State) (via : Via) (m : Kdp) (f : Seg → Resp × State) : Resp × State :=
  if isMailbox via ∧ clearing s = true then (segResp m Code.tenantClearing, s)
  else
    match s.mgmt.segs.find? (fun g => g.id == m.session && g.via == via) with
    | none => (abortedResp m (if s.mgmt.segs.any (fun g => g.id == m.session) then 0 else tget 0 s.mgmt.aborted m.session), s)
    | some g =>
      let aon := match findEntry (g.key / 256) (g.key % 256) with | some e => e.aon | none => false
      if s.reset'.held && !aon then (segResp m Code.deviceResetting, s) else f g

/-- R452: SEG_READ. -/
def doSegRead (s : State) (via : Via) (m : Kdp) : Resp × State :=
  withSeg s via m (fun g =>
    if g.write ∨ segCount g.count ≤ m.segment then (segResp m Code.valueRefused, s)
    else ({ segResp m Code.ok with value := (g.data.drop (1024 * m.segment)).take 1024 }, s))

/-- R451: the buffer of a write session. -/
def Seg.buffer (g : Seg) : List Byte := (List.range (segCount g.count)).flatMap (fun i => tget [] g.segs i)

/-- R451: every segment is there and FINAL has come: check the CRC, and write the entry as one write. -/
def commitSeg (s : State) (via : Via) (m : Kdp) (g : Seg) (crc : Nat) : Resp × State :=
  if crc32c g.buffer ≠ crc then (abortedResp m reasonCrc, abandonSeg s g.id reasonCrc)
  else
    let r := writeValue (dropSeg s g.id) via (g.key / 256) (g.key % 256) g.buffer true
    ({ segResp m r.1 with committed := true }, r.2)

/-- R451: SEG_WRITE. -/
def doSegWrite (s : State) (via : Via) (m : Kdp) : Resp × State :=
  withSeg s via m (fun g =>
    let n := segCount g.count
    if !g.write then (segResp m Code.valueRefused, s)
    else if n ≤ m.segment ∨ m.data.length ≠ segBytes g.count m.segment ∨ (m.final = true ∧ m.segment + 1 ≠ n) then
      (abortedResp m reasonMalformedSeg, abandonSeg s g.id reasonMalformedSeg)
    else
      let g1 := { g with segs := tput g.segs m.segment m.data, crc := if m.final then some m.crc else g.crc }
      let s1 := { s with mgmt := { s.mgmt with segs := s.mgmt.segs.map (fun x => if x.id = g.id then g1 else x) } }
      let missing := n - g1.segs.length
      match g1.crc with
      | some c => if missing = 0 then commitSeg s1 via m g1 c else ({ segResp m Code.ok with count := missing }, s1)
      | none => ({ segResp m Code.ok with count := missing }, s1))

/-- R453: CLOSE. -/
def doClose (s : State) (via : Via) (m : Kdp) : Resp × State :=
  withSeg s via m (fun g => (segResp m Code.ok, abandonSeg s g.id reasonClosed))

/-- R447: run a request by its kind. -/
def runKind (s : State) (via : Via) (m : Kdp) : Resp × State :=
  if m.kind = kindRead then doRead s via m
  else if m.kind = kindWrite then doWriteMsg s via m
  else if m.kind = kindDescribe then doDescribe s via m
  else if m.kind = kindOpenRead then doOpenRead s via m
  else if m.kind = kindOpenWrite then doOpenWrite s via m
  else if m.kind = kindSegRead then doSegRead s via m
  else if m.kind = kindSegWrite then doSegWrite s via m
  else if m.kind = kindClose then doClose s via m
  else (respOf m Code.reservedSet, s)

/-! ### Serving a request -/

/-- R462: after the response to a write of a port entry, every DTLS session ends. -/
def afterResponse (s : State) : State :=
  if s.mgmt.portPending then endAllDtls { s with mgmt := { s.mgmt with portPending := false } } else s

/-- R449: what a DTLS session does with a request identifier. -/
inductive ReqSeen where
  | again (o : Out)
  | run
  | stale
  deriving DecidableEq, Repr

/-- R449: how far an identifier lies below the newest, modulo 2^32. -/
def below (newest id : Nat) : Nat := (newest + 2 ^ 32 - id % 2 ^ 32) % 2 ^ 32

/-- R449: the newest identifier and the 64 below it. -/
def reqSeen (d : Dtls) (id : Nat) : ReqSeen :=
  match d.memory.find? (fun x => x.1 == id) with
  | some x => .again x.2
  | none =>
    match d.newest with
    | none => .run
    | some n => if newer 32 id n ∨ below n id ≤ 64 then .run else .stale

/-- R449: remember an executed request and its response. -/
def remember (d : Dtls) (id : Nat) (o : Out) : Dtls :=
  let n := match d.newest with | none => id | some n => if newer 32 id n then id else n
  { d with newest := some n, memory := (id, o) :: d.memory.filter (fun x => decide (below n x.1 ≤ 64)) }

/-- R449: execute a request of a management session, answer it and remember it. -/
def runMgmt (s : State) (n : Nat) (m : Kdp) : State :=
  let r := runKind s (.mgmt n) m
  let o := Out.kdp (.mgmt n) r.1
  let s1 := emit r.2 o
  let s2 := if (tget? s1.mgmt.sessions n).isSome then { s1 with mgmt := { s1.mgmt with sessions := tmod {} s1.mgmt.sessions n (fun d => remember d m.reqId o) } } else s1
  afterResponse s2

/-- R423: a read of tread_export_chunk that must wait for its key. -/
def waitsExport (s : State) (m : Kdp) : Bool := (m.kind == kindRead || m.kind == kindOpenRead) && m.index == 0x6200 && m.sub == 0xE && exportWaits s

/-- R423: a request joins those that wait; the session's other requests go on (log 92). -/
def holdRequest (s : State) (n : Nat) (m : Kdp) : State := { s with mgmt := { s.mgmt with waiting := s.mgmt.waiting ++ [(n, m)] } }

/-- R449: serve a request of a management session. -/
def serveMgmt (s : State) (n : Nat) (m : Kdp) : State :=
  match reqSeen (tget {} s.mgmt.sessions n) m.reqId with
  | .again o => emit s o
  | .stale => emit s (.kdp (.mgmt n) (respOf m Code.staleRequest))
  | .run => if waitsExport s m then holdRequest s n m else runMgmt s n m

/-- R445, R447: a message that comes by an open path: its own errors, then its execution. -/
def serveMessage (s : State) (via : Via) (m : Kdp) : State :=
  if messageError m ≠ Code.ok then emit s (.kdp via (respOf m (messageError m)))
  else
    match via with
    | .mgmt n => serveMgmt s n m
    | .mailbox _ =>
      let r := runKind s via m
      emit r.2 (.kdp via r.1)

/-- A request row: a message of the row's kind, or of a reserved kind, which any row may carry. -/
def serve (s : State) (via : Via) (m : Kdp) (kind : Nat) : State :=
  if m.kind ≠ kind ∧ !kindReserved m.kind then s
  else if !viaOpen s via then dropRequest s via
  else serveMessage s via m

/-- READ (R440, R447). -/
def execRead (via : Via) (m : Kdp) (s : State) : Host.Outcome State Fault Refusal := .next (serve s via m kindRead)

/-- WRITE (R438, R441). -/
def execWrite (via : Via) (m : Kdp) (s : State) : Host.Outcome State Fault Refusal := .next (serve s via m kindWrite)

/-- DESCRIBE (R448). -/
def execDescribe (via : Via) (m : Kdp) (s : State) : Host.Outcome State Fault Refusal := .next (serve s via m kindDescribe)

/-- OPEN_READ (R450, R452). -/
def execOpenRead (via : Via) (m : Kdp) (s : State) : Host.Outcome State Fault Refusal := .next (serve s via m kindOpenRead)

/-- OPEN_WRITE (R450, R451). -/
def execOpenWrite (via : Via) (m : Kdp) (s : State) : Host.Outcome State Fault Refusal := .next (serve s via m kindOpenWrite)

/-- SEG_READ (R452). -/
def execSegRead (via : Via) (m : Kdp) (s : State) : Host.Outcome State Fault Refusal := .next (serve s via m kindSegRead)

/-- SEG_WRITE (R451). -/
def execSegWrite (via : Via) (m : Kdp) (s : State) : Host.Outcome State Fault Refusal := .next (serve s via m kindSegWrite)

/-- CLOSE (R453). -/
def execClose (via : Via) (m : Kdp) (s : State) : Host.Outcome State Fault Refusal := .next (serve s via m kindClose)

/-- SESSION_TIMEOUT (R453): 2 s have passed with no request that names the session. -/
def execSessionTimeout (session : Nat) (s : State) : Host.Outcome State Fault Refusal :=
  .next (if s.mgmt.segs.any (fun g => g.id == session) then abandonSeg s session reasonTimeout else s)

/-- MEM_READ_DATA (R457): a READ, or an OPEN_READ, of mem_read_data. -/
def execMemReadData (via : Via) (m : Kdp) (s : State) : Host.Outcome State Fault Refusal :=
  .next (if m.index = 0x7180 ∧ m.sub = 3 then (if m.kind = kindOpenRead then serve s via m kindOpenRead else serve s via m kindRead) else s)

/-- R514: the OPEN_READ of tread_export_chunk. -/
def exportMessage : Kdp := { w0 := word (at' 1 8 56 + at' kindOpenRead 8 48 + at' 0x6200 16 32 + at' 0xE 8 24), w1 := 0, w2 := 0, data := [] }

/-- TREAD_EXPORT_CHUNK (R514): the chunk at the session's own offset, read in a segmented session; it waits for a PENDING EXPORT slot (R423). -/
def execTreadExportChunk (via : Via) (s : State) : Host.Outcome State Fault Refusal :=
  .next (if !viaOpen s via then dropRequest s via
    else
      match via with
      | .mgmt n =>
        if exportWaits s then holdRequest s n exportMessage
        else
          let r := doOpenRead s via exportMessage
          emit r.2 (.kdp via r.1)
      | .mailbox _ =>
        let r := doOpenRead s via exportMessage
        emit r.2 (.kdp via r.1))

/-- PENDING_KEY_REPLACE (R423): no reference is left; what waited for the slot uses the new key. -/
def execPendingKeyReplace (slot : Nat) (s : State) : Host.Outcome State Fault Refusal :=
  .next (if (keySlot s slot).state ≠ .pending ∨ 0 < slotRefs s slot then s
    else
      let s1 := replacePending s slot
      if exportWaits s1 then s1
      else s1.mgmt.waiting.foldl (fun s x => runMgmt s x.1 x.2) { s1 with mgmt := { s1.mgmt with waiting := [] } })

/-! ### The mailbox (R454, R455) -/

/-- R446: the message that bytes spell. -/
def kdpOf (bs : List Byte) : Kdp := { w0 := wordAt bs 0, w1 := wordAt bs 1, w2 := wordAt bs 2, data := bs.drop 24 }

/-- R455: serve a channel: copy the request, execute it, write the response, then RSP_SEQ. -/
def serveChannel (s : State) (c srcChip : Nat) : State :=
  let a := rget s Reg.mailboxBase + 8192 * c
  let seq := fld (hbmWord s a) 31 0
  let w1 := hbmWord s (a + 8)
  if seq = fld w1 31 0 then s
  else
    let m := kdpOf (mailboxMessage s c)
    let s1 := hbmWrite s (a + 8) (leBytes 8 (at' srcChip 12 52 + fld w1 31 0))
    let r := if messageError m ≠ Code.ok then (respOf m (messageError m), s1) else runKind s1 (.mailbox c) m
    let s2 := hbmWrite (emit r.2 (.kdp (.mailbox c) r.1)) (a + 4096) (respBytes r.1)
    rinc (hbmWrite s2 (a + 8) (leBytes 4 seq)) Reg.mailboxRequests

/-- R455: once bring-up reaches READY, every channel with a request that waits is served, for the chip that last rang it. -/
def serveMailboxes (s : State) : State :=
  if s.reset'.boot = .ready then (List.range 8).foldl (fun s c => serveChannel s c (tget 0 s.mgmt.mailboxChip c)) s else s

/-- MAILBOX_DOORBELL (R455): before READY the doorbell is kept. -/
def execMailboxDoorbell (channel srcChip : Nat) (s : State) : Host.Outcome State Fault Refusal :=
  let s1 := { s with mgmt := { s.mgmt with mailboxChip := tput s.mgmt.mailboxChip channel (srcChip % 4096) } }
  .next (if s.reset'.boot = .off ∨ 8 ≤ channel then s else if viaOpen s (.mailbox channel) then serveChannel s1 channel srcChip else s1)

/-! ### ALERT_N and NOTIFY (R459 to R461) -/

/-- R459: samples of 100 µs: the high line asked before a raise shows, the longest pending period, and the wait before the next. -/
abbrev alertHighSamples : Nat := 10
abbrev alertPendingSamples : Nat := 50
abbrev alertAgainSamples : Nat := 10000

/-- R459: one sample of ALERT_N. -/
def alertSampleOp (s : State) (high : Bool) : State :=
  let g := s.mgmt
  if g.stuck then s
  else if g.linePending then
    let n := g.pendingFor + 1
    if g.alerts = 0 ∨ alertPendingSamples ≤ n then
      emit { s with mgmt := { g with linePending := false, pendingFor := 0, sinceEnd := 0, highRun := 0 } } (.pin 0 true)
    else { s with mgmt := { g with pendingFor := n, highRun := 0 } }
  else
    let run := if high then min alertHighSamples (g.highRun + 1) else 0
    let since := min alertAgainSamples (g.sinceEnd + 1)
    if run = alertHighSamples ∧ g.alerts ≠ 0 ∧ (g.lineWanted = true ∨ since = alertAgainSamples) then
      emit { s with mgmt := { g with linePending := true, lineWanted := false, pendingFor := 0, highRun := run, sinceEnd := since } } (.pin 0 false)
    else { s with mgmt := { g with highRun := run, sinceEnd := since } }

/-- ALERT_SAMPLE (R459). -/
def execAlertSample (high : Bool) (s : State) : Host.Outcome State Fault Refusal := .next (alertSampleOp s high)

/-- ALERT_STUCK (R460): ALERT_N has read low for 10 ms while the package did not drive it. -/
def execAlertStuck (s : State) : Host.Outcome State Fault Refusal :=
  .next (if s.mgmt.stuck ∨ s.mgmt.linePending = true then s
    else rinc (notice { s with mgmt := { s.mgmt with stuck := true, lineWanted := false } } Code.alertStuck 0 0 0) Reg.alertStuckEvents)

/-- R446, R461: a NOTIFY message: header, then its 16 data bytes. -/
def notifyBytes (s : State) : List Byte :=
  bytesOf [word (at' 1 8 56 + at' 9 8 48 + at' 16 12 0), word (at' s.mgmt.notifyId 32 32), 0,
    word (at' s.mgmt.stuck.toNat 1 32 + at' s.mgmt.alerts 32 0), s.clock.beat]

/-- R461: a NOTIFY to one session. -/
def notifyOne (s : State) (n : Nat) : State :=
  { emit s (.notify n (notifyBytes s)) with mgmt := { s.mgmt with notifyId := (s.mgmt.notifyId + 1) % 2 ^ 32 } }

/-- NOTIFY (R461). -/
def execNotify (s : State) : Host.Outcome State Fault Refusal :=
  .next (if s.mgmt.alerts = 0 then s else (s.mgmt.sessions.map (·.1)).foldl notifyOne s)

/-! ### The management port -/

/-- MGMT_LINK_UP (R402). -/
def execMgmtLinkUp (s : State) : Host.Outcome State Fault Refusal :=
  .next (if s.reset'.boot = .off then s else { s with mgmt := { s.mgmt with linkUp := true } })

/-- MGMT_LINK_SYNC_LOST (R453). -/
def execMgmtLinkSyncLost (s : State) : Host.Outcome State Fault Refusal :=
  .next (if s.mgmt.linkUp then endAllDtls (rinc { s with mgmt := { s.mgmt with linkUp := false } } Reg.linkDowns) else s)

/-- R435, R436: whether a client is let in. -/
def clientOk (s : State) (chainOk : Bool) (anchor : Option (List Byte)) : Bool :=
  chainOk &&
    (if s.tenancy.anchors.isEmpty then s.mgmt.sessions.isEmpty
     else decide (s.mgmt.sessions.length < 4) && (match anchor with | some a => s.tenancy.anchors.contains a | none => false))

/-- DTLS_HANDSHAKE (R435, R436, R445). -/
def execDtlsHandshake (chainOk : Bool) (anchor : Option (List Byte)) (s : State) : Host.Outcome State Fault Refusal :=
  .next (if !s.mgmt.linkUp || !fwRuns s then s
    else if !clientOk s chainOk anchor then rinc s Reg.dtlsFailures
    else
      match (List.range 4).find? (fun n => (tget? s.mgmt.sessions n).isNone) with
      | none => rinc s Reg.dtlsFailures
      | some n => { s with mgmt := { s.mgmt with sessions := tput s.mgmt.sessions n { anchor := anchor } } })

/-- DTLS_SESSION_CLOSE (R435, R453). -/
def execDtlsSessionClose (session : Nat) (s : State) : Host.Outcome State Fault Refusal :=
  .next (if (tget? s.mgmt.sessions session).isSome then endDtls s session else s)

/-- R445: the link-local address, from mgmt_mac by the modified EUI-64 rule. -/
def linkLocal : List Byte :=
  let m := beBytes 6 Config.mac
  [0xFE, 0x80, 0, 0, 0, 0, 0, 0] ++ (m.take 1).map (· ^^^ 2) ++ (m.drop 1).take 2 ++ [0xFF, 0xFE] ++ m.drop 3

/-- R445: an address of the port: the link-local one, or the static one where there is one. -/
def ownAddress (s : State) (a : List Byte) : Bool := a == linkLocal || (s.mgmt.ipv6.any (· != 0) && a == padTo 16 s.mgmt.ipv6)

/-- ICMPV6_REQUEST (R445): neighbour discovery for an address of the port, or an echo to one, is answered. -/
def execIcmpv6Request (target : List Byte) (echo : Bool) (s : State) : Host.Outcome State Fault Refusal :=
  .next (if s.mgmt.linkUp && ownAddress s target then emit s (.icmp echo) else s)

/-- COBBLER_TAKEOVER (R380, R453): the standby resumes from the last mirror, and every session ends. -/
def execCobblerTakeover (s : State) : Host.Outcome State Fault Refusal := .next (endEverySession (resumeMirror s))

end Sys2Proof.Machine
end

