-- ==== Sys2Proof/Machine/Bringup.lean ====
section
/-! DEFINITION. The ends of bring-up's states (R468, R470) and what follows a restart boundary. -/

namespace Sys2Proof.Machine

/-- DIES_DONE (R468): MEMORY after POWER or COLD; MAP, and with it the restart boundary, after a warm reset. -/
def execDiesDone (clearOk : List Nat) (ms : Nat) (s : State) : Host.Outcome State Fault Refusal :=
  .next (if s.reset'.boot ≠ .dies ∨ s.reset'.held ∨ s.power.tripped ∨ weltsSettled s = false then s
    else if s.reset'.full then startColdClear (setBoot s .memory)
    else serveMailboxes (restartBoundary (rerunChange s) clearOk ms))

/-- MEMORY_CLEAR_DONE (R470). -/
def execMemoryClearDone (us : Nat) (failedStack : Option Nat) (clearOk : List Nat) (ms : Nat) (s : State) : Host.Outcome State Fault Refusal :=
  .next (if s.reset'.boot = .memory then serveMailboxes (restartBoundary (endColdClear s us failedStack) clearOk ms) else s)

end Sys2Proof.Machine
end

