-- ==== Sys2Proof/Machine/Dispatch.lean ====
section
/-! DEFINITION. One arm per command, each a direct call of its meaning. -/

namespace Sys2Proof.Machine

/-- The effect of a command on everything but the queue. -/
def exec (i : Instr) (s : State) : Host.Outcome State Fault Refusal :=
  match i with
  | .toneDetected tone => Sys2Proof.Machine.execToneDetected tone s
  | .refLockAcquired offsetPpb => Sys2Proof.Machine.execRefLockAcquired offsetPpb s
  | .toneLostInAcquire => Sys2Proof.Machine.execToneLostInAcquire s
  | .refHoldoverEntry => Sys2Proof.Machine.execRefHoldoverEntry s
  | .refHoldoverRecovery tone => Sys2Proof.Machine.execRefHoldoverRecovery tone s
  | .refLost => Sys2Proof.Machine.execRefLost s
  | .refReacquire tone => Sys2Proof.Machine.execRefReacquire tone s
  | .beatTick => Sys2Proof.Machine.execBeatTick s
  | .wallAnchorWrite via ns => Sys2Proof.Machine.execWallAnchorWrite via ns s
  | .readyReceived p => Sys2Proof.Machine.execReadyReceived p s
  | .go eyelet lane slot => Sys2Proof.Machine.execGo eyelet lane slot s
  | .goRelay => Sys2Proof.Machine.execGoRelay s
  | .syncTimeout => Sys2Proof.Machine.execSyncTimeout s
  | .launchBeatReached => Sys2Proof.Machine.execLaunchBeatReached s
  | .idle tile => Sys2Proof.Machine.execIdle tile s
  | .pass tile array entry => Sys2Proof.Machine.execPass tile array entry s
  | .passStreamStart tile array => Sys2Proof.Machine.execPassStreamStart tile array s
  | .passComplete tile array => Sys2Proof.Machine.execPassComplete tile array s
  | .func tile entry => Sys2Proof.Machine.execFunc tile entry s
  | .rowFuncComplete tile => Sys2Proof.Machine.execRowFuncComplete tile s
  | .vectorOpComplete tile => Sys2Proof.Machine.execVectorOpComplete tile s
  | .copyRecord tile stitcher desc => Sys2Proof.Machine.execCopyRecord tile stitcher desc s
  | .window tile slot action image => Sys2Proof.Machine.execWindow tile slot action image s
  | .laceRecord tile entry => Sys2Proof.Machine.execLaceRecord tile entry s
  | .arrive tile group => Sys2Proof.Machine.execArrive tile group s
  | .signalRecord tile sem => Sys2Proof.Machine.execSignalRecord tile sem s
  | .inboundPacketHead tile h => Sys2Proof.Machine.execInboundPacketHead tile h s
  | .tileZeroiseDone phys ok cycles => Sys2Proof.Machine.execTileZeroiseDone phys ok cycles s
  | .queueCopyStart tile stitcher => Sys2Proof.Machine.execQueueCopyStart tile stitcher s
  | .privilegedCopyStart n block => Sys2Proof.Machine.execPrivilegedCopyStart n block s
  | .txBufferPlace ctx => Sys2Proof.Machine.execTxBufferPlace ctx s
  | .copyComplete ctx => Sys2Proof.Machine.execCopyComplete ctx s
  | .copyDeadlineMissed ctx => Sys2Proof.Machine.execCopyDeadlineMissed ctx s
  | .xlateInvalidate via v => Sys2Proof.Machine.execXlateInvalidate via v s
  | .xlateRootWrite via v => Sys2Proof.Machine.execXlateRootWrite via v s
  | .frameStart stack pc sched maint unsched => Sys2Proof.Machine.execFrameStart stack pc sched maint unsched s
  | .patrolScrubRead symbolErrors position newerWrite => Sys2Proof.Machine.execPatrolScrubRead symbolErrors position newerWrite s
  | .hbmScrubDone us failedStack => Sys2Proof.Machine.execHbmScrubDone us failedStack s
  | .regulatorArrival die now r => Sys2Proof.Machine.execRegulatorArrival die now r s
  | .regulatorAdmit die part now => Sys2Proof.Machine.execRegulatorAdmit die part now s
  | .regulatorHoldExpiry die part now => Sys2Proof.Machine.execRegulatorHoldExpiry die part now s
  | .partitionCommit via v => Sys2Proof.Machine.execPartitionCommit via v s
  | .homeSliceWrite addr data enables => Sys2Proof.Machine.execHomeSliceWrite addr data enables s
  | .atomic addr op width value compare => Sys2Proof.Machine.execAtomic addr op width value compare s
  | .accStore addr fmt data enables => Sys2Proof.Machine.execAccStore addr fmt data enables s
  | .packetSend dst => Sys2Proof.Machine.execPacketSend dst s
  | .packetArrival eyelet lane nowUs p => Sys2Proof.Machine.execPacketArrival eyelet lane nowUs p s
  | .reorderHoldExpiry src => Sys2Proof.Machine.execReorderHoldExpiry src s
  | .acknowledgement src => Sys2Proof.Machine.execAcknowledgement src s
  | .ackReceived p => Sys2Proof.Machine.execAckReceived p s
  | .ackTimeout dst => Sys2Proof.Machine.execAckTimeout dst s
  | .schedBlockRelease eyelet lane pos schedBeat data => Sys2Proof.Machine.execSchedBlockRelease eyelet lane pos schedBeat data s
  | .routeHead port vc cls => Sys2Proof.Machine.execRouteHead port vc cls s
  | .routeWaitRetry port vc cls => Sys2Proof.Machine.execRouteWaitRetry port vc cls s
  | .headGrant eyelet lane vc cls => Sys2Proof.Machine.execHeadGrant eyelet lane vc cls s
  | .routeShadowWrite via v => Sys2Proof.Machine.execRouteShadowWrite via v s
  | .routeEntryWrite via v => Sys2Proof.Machine.execRouteEntryWrite via v s
  | .routeCopy via v => Sys2Proof.Machine.execRouteCopy via v s
  | .routeSwapRelease via => Sys2Proof.Machine.execRouteSwapRelease via s
  | .routeSwapHold via => Sys2Proof.Machine.execRouteSwapHold via s
  | .routeSwapExchange => Sys2Proof.Machine.execRouteSwapExchange s
  | .swapDrainTimeout => Sys2Proof.Machine.execSwapDrainTimeout s
  | .routeRelease via v => Sys2Proof.Machine.execRouteRelease via v s
  | .routeHoldExpiry => Sys2Proof.Machine.execRouteHoldExpiry s
  | .laserMeasurement die aCdbm bCdbm depths txCdbm => Sys2Proof.Machine.execLaserMeasurement die aCdbm bCdbm depths txCdbm s
  | .laserInputLost die input => Sys2Proof.Machine.execLaserInputLost die input s
  | .laserSwitchComplete die => Sys2Proof.Machine.execLaserSwitchComplete die s
  | .laserDarkRecovery die => Sys2Proof.Machine.execLaserDarkRecovery die s
  | .laserRevert die => Sys2Proof.Machine.execLaserRevert die s
  | .laserSelectReq via die v => Sys2Proof.Machine.execLaserSelectReq via die v s
  | .fitPassStart eyelet lane => Sys2Proof.Machine.execFitPassStart eyelet lane s
  | .fitSolve eyelet lane mod flt => Sys2Proof.Machine.execFitSolve eyelet lane mod flt s
  | .fitCheckEnd eyelet lane ok phaseStep => Sys2Proof.Machine.execFitCheckEnd eyelet lane ok phaseStep s
  | .fitPassEnd eyelet lane => Sys2Proof.Machine.execFitPassEnd eyelet lane s
  | .tableStale eyelet lane ageMs => Sys2Proof.Machine.execTableStale eyelet lane ageMs s
  | .fullSearch via eyelet v => Sys2Proof.Machine.execFullSearch via eyelet v s
  | .fullSearchDone eyelet found => Sys2Proof.Machine.execFullSearchDone eyelet found s
  | .laneBlockSlot eyelet lane pos => Sys2Proof.Machine.execLaneBlockSlot eyelet lane pos s
  | .laneBlockReceived eyelet lane block => Sys2Proof.Machine.execLaneBlockReceived eyelet lane block s
  | .replayTimeout eyelet lane => Sys2Proof.Machine.execReplayTimeout eyelet lane s
  | .mendExhausted eyelet lane => Sys2Proof.Machine.execMendExhausted eyelet lane s
  | .slackExpiry eyelet lane bsn => Sys2Proof.Machine.execSlackExpiry eyelet lane bsn s
  | .trainStart eyelet lane => Sys2Proof.Machine.execTrainStart eyelet lane s
  | .signalDetected eyelet lane cdbm => Sys2Proof.Machine.execSignalDetected eyelet lane cdbm s
  | .phaseScanDone eyelet lane clean => Sys2Proof.Machine.execPhaseScanDone eyelet lane clean s
  | .alignDone eyelet lane => Sys2Proof.Machine.execAlignDone eyelet lane s
  | .alignTimeout eyelet lane => Sys2Proof.Machine.execAlignTimeout eyelet lane s
  | .echo eyelet lane stamp turnaroundPs => Sys2Proof.Machine.execEcho eyelet lane stamp turnaroundPs s
  | .echoReply eyelet lane stamp roundTripPs turnaroundPs => Sys2Proof.Machine.execEchoReply eyelet lane stamp roundTripPs turnaroundPs s
  | .latencySet eyelet lane => Sys2Proof.Machine.execLatencySet eyelet lane s
  | .echoTimeout eyelet lane => Sys2Proof.Machine.execEchoTimeout eyelet lane s
  | .beaconReceived eyelet lane b => Sys2Proof.Machine.execBeaconReceived eyelet lane b s
  | .linkReady eyelet lane => Sys2Proof.Machine.execLinkReady eyelet lane s
  | .quarantineTimeout eyelet lane => Sys2Proof.Machine.execQuarantineTimeout eyelet lane s
  | .trainRetry eyelet lane => Sys2Proof.Machine.execTrainRetry eyelet lane s
  | .pause eyelet lane dir target => Sys2Proof.Machine.execPause eyelet lane dir target s
  | .resume eyelet lane dir target => Sys2Proof.Machine.execResume eyelet lane dir target s
  | .pauseTimeout eyelet lane => Sys2Proof.Machine.execPauseTimeout eyelet lane s
  | .beaconTimer eyelet lane => Sys2Proof.Machine.execBeaconTimer eyelet lane s
  | .planCommit via v => Sys2Proof.Machine.execPlanCommit via v s
  | .loadLast queue id => Sys2Proof.Machine.execLoadLast queue id s
  | .loadVerify => Sys2Proof.Machine.execLoadVerify s
  | .launch queue id => Sys2Proof.Machine.execLaunch queue id s
  | .lastUnload via slot => Sys2Proof.Machine.execLastUnload via slot s
  | .stepStart => Sys2Proof.Machine.execStepStart s
  | .snapshotComplete => Sys2Proof.Machine.execSnapshotComplete s
  | .pacePoint unsampledMw => Sys2Proof.Machine.execPacePoint unsampledMw s
  | .stretchApply => Sys2Proof.Machine.execStretchApply s
  | .lastEnd => Sys2Proof.Machine.execLastEnd s
  | .endingDone => Sys2Proof.Machine.execEndingDone s
  | .queueDoorbell queue => Sys2Proof.Machine.execQueueDoorbell queue s
  | .queueEnable via queue => Sys2Proof.Machine.execQueueEnable via queue s
  | .queueDisable via queue => Sys2Proof.Machine.execQueueDisable via queue s
  | .queueResume via queue => Sys2Proof.Machine.execQueueResume via queue s
  | .queueDrained queue => Sys2Proof.Machine.execQueueDrained queue s
  | .commandStart engine => Sys2Proof.Machine.execCommandStart engine s
  | .copy queue id => Sys2Proof.Machine.execCopy queue id s
  | .fill queue id => Sys2Proof.Machine.execFill queue id s
  | .fence queue id => Sys2Proof.Machine.execFence queue id s
  | .signal queue id => Sys2Proof.Machine.execSignal queue id s
  | .wait queue id => Sys2Proof.Machine.execWait queue id s
  | .waitTimeout queue id => Sys2Proof.Machine.execWaitTimeout queue id s
  | .barrier queue id => Sys2Proof.Machine.execBarrier queue id s
  | .reduceScalar queue id => Sys2Proof.Machine.execReduceScalar queue id s
  | .timestamp queue id => Sys2Proof.Machine.execTimestamp queue id s
  | .snapshot queue id => Sys2Proof.Machine.execSnapshot queue id s
  | .tryOn queue id => Sys2Proof.Machine.execTryOn queue id s
  | .commandComplete queue id => Sys2Proof.Machine.execCommandComplete queue id s
  | .mgmtCommand via bytes => Sys2Proof.Machine.execMgmtCommand via bytes s
  | .laceMessageReceived eyelet lane pos schedBeat msg => Sys2Proof.Machine.execLaceMessageReceived eyelet lane pos schedBeat msg s
  | .laceDeadlineMissed tile entry => Sys2Proof.Machine.execLaceDeadlineMissed tile entry s
  | .lacePacket p => Sys2Proof.Machine.execLacePacket p s
  | .laceTimeout set => Sys2Proof.Machine.execLaceTimeout set s
  | .laceTakeover => Sys2Proof.Machine.execLaceTakeover s
  | .laceEnable via set v => Sys2Proof.Machine.execLaceEnable via set v s
  | .bulkCopy src remote len dst => Sys2Proof.Machine.execBulkCopy src remote len dst s
  | .bulkDigest src remote len set => Sys2Proof.Machine.execBulkDigest src remote len set s
  | .senseSample x => Sys2Proof.Machine.execSenseSample x s
  | .senseOpen die => Sys2Proof.Machine.execSenseOpen die s
  | .returnCheck => Sys2Proof.Machine.execReturnCheck s
  | .dieDead die => Sys2Proof.Machine.execDieDead die s
  | .modelStep => Sys2Proof.Machine.execModelStep s
  | .coolantWrite via mc => Sys2Proof.Machine.execCoolantWrite via mc s
  | .coolantStale => Sys2Proof.Machine.execCoolantStale s
  | .thermalEval diodesMc => Sys2Proof.Machine.execThermalEval diodesMc s
  | .thermalRelease via v => Sys2Proof.Machine.execThermalRelease via v s
  | .governorBeat measuredMa inputMa reversed => Sys2Proof.Machine.execGovernorBeat measuredMa inputMa reversed s
  | .powerWindow unsampledMw => Sys2Proof.Machine.execPowerWindow unsampledMw s
  | .pwrOkFall => Sys2Proof.Machine.execPwrOkFall s
  | .pwrOkRise straps slotId msSinceStep0 => Sys2Proof.Machine.execPwrOkRise straps slotId msSinceStep0 s
  | .railFault rail high => Sys2Proof.Machine.execRailFault rail high s
  | .weltFlitReceived die port f => Sys2Proof.Machine.execWeltFlitReceived die port f s
  | .weltTrainingDone die port failed oneHalf timedOut commonRev => Sys2Proof.Machine.execWeltTrainingDone die port failed oneHalf timedOut commonRev s
  | .weltRetry die port => Sys2Proof.Machine.execWeltRetry die port s
  | .weltRetrain die port => Sys2Proof.Machine.execWeltRetrain die port s
  | .heartbeat die => Sys2Proof.Machine.execHeartbeat die s
  | .weltSelftest via phys => Sys2Proof.Machine.execWeltSelftest via phys s
  | .selftestDone r => Sys2Proof.Machine.execSelftestDone r s
  | .peerSetWrite via v => Sys2Proof.Machine.execPeerSetWrite via v s
  | .tenantChange via v => Sys2Proof.Machine.execTenantChange via v s
  | .tenantChangeComplete us => Sys2Proof.Machine.execTenantChangeComplete us s
  | .fwImageStage via img => Sys2Proof.Machine.execFwImageStage via img s
  | .fwActivate via v => Sys2Proof.Machine.execFwActivate via v s
  | .fwActivationDone components => Sys2Proof.Machine.execFwActivationDone components s
  | .fwRollbackCommit via v => Sys2Proof.Machine.execFwRollbackCommit via v s
  | .attestNonce via nonce => Sys2Proof.Machine.execAttestNonce via nonce s
  | .keySlotWrite via env => Sys2Proof.Machine.execKeySlotWrite via env s
  | .keySlotErase via slot => Sys2Proof.Machine.execKeySlotErase via slot s
  | .pendingKeyReplace slot => Sys2Proof.Machine.execPendingKeyReplace slot s
  | .sealInstall via v => Sys2Proof.Machine.execSealInstall via v s
  | .installDone => Sys2Proof.Machine.execInstallDone s
  | .sealStart eyelet lane payload => Sys2Proof.Machine.execSealStart eyelet lane payload s
  | .sealTag eyelet lane w0 w1 rest => Sys2Proof.Machine.execSealTag eyelet lane w0 w1 rest s
  | .sealTagTimeout eyelet lane window => Sys2Proof.Machine.execSealTagTimeout eyelet lane window s
  | .mgmtAnchorsWrite via v => Sys2Proof.Machine.execMgmtAnchorsWrite via v s
  | .read via m => Sys2Proof.Machine.execRead via m s
  | .write via m => Sys2Proof.Machine.execWrite via m s
  | .describe via m => Sys2Proof.Machine.execDescribe via m s
  | .openRead via m => Sys2Proof.Machine.execOpenRead via m s
  | .openWrite via m => Sys2Proof.Machine.execOpenWrite via m s
  | .segRead via m => Sys2Proof.Machine.execSegRead via m s
  | .segWrite via m => Sys2Proof.Machine.execSegWrite via m s
  | .close via m => Sys2Proof.Machine.execClose via m s
  | .sessionTimeout session => Sys2Proof.Machine.execSessionTimeout session s
  | .memReadData via m => Sys2Proof.Machine.execMemReadData via m s
  | .mailboxDoorbell channel srcChip => Sys2Proof.Machine.execMailboxDoorbell channel srcChip s
  | .alertAck via v => Sys2Proof.Machine.execAlertAck via v s
  | .alertSample high => Sys2Proof.Machine.execAlertSample high s
  | .alertStuck => Sys2Proof.Machine.execAlertStuck s
  | .alertLineEnable via v tenHigh => Sys2Proof.Machine.execAlertLineEnable via v tenHigh s
  | .notify => Sys2Proof.Machine.execNotify s
  | .rstN => Sys2Proof.Machine.execRstN s
  | .restartRequest via v => Sys2Proof.Machine.execRestartRequest via v s
  | .coldReset => Sys2Proof.Machine.execColdReset s
  | .romBootDone banks components => Sys2Proof.Machine.execRomBootDone banks components s
  | .recoveryImage img components => Sys2Proof.Machine.execRecoveryImage img components s
  | .diesDone clearOk ms => Sys2Proof.Machine.execDiesDone clearOk ms s
  | .memoryClearDone us failedStack clearOk ms => Sys2Proof.Machine.execMemoryClearDone us failedStack clearOk ms s
  | .bringupTimeout => Sys2Proof.Machine.execBringupTimeout s
  | .calibFlashWrite ok => Sys2Proof.Machine.execCalibFlashWrite ok s
  | .tileFenceReq via phys => Sys2Proof.Machine.execTileFenceReq via phys s
  | .exclusionClear via v => Sys2Proof.Machine.execExclusionClear via v s
  | .fault p => Sys2Proof.Machine.execFault p s
  | .coordinatorRollback => Sys2Proof.Machine.execCoordinatorRollback s
  | .rollback p => Sys2Proof.Machine.execRollback p s
  | .rollbackWaitExpiry => Sys2Proof.Machine.execRollbackWaitExpiry s
  | .restoreDone ok => Sys2Proof.Machine.execRestoreDone ok s
  | .treadReplayInput => Sys2Proof.Machine.execTreadReplayInput s
  | .replayEnd => Sys2Proof.Machine.execReplayEnd s
  | .snapshotRestore via v => Sys2Proof.Machine.execSnapshotRestore via v s
  | .faultEpochWrite via v => Sys2Proof.Machine.execFaultEpochWrite via v s
  | .faultAck via chip => Sys2Proof.Machine.execFaultAck via chip s
  | .reportHoldoffExpiry => Sys2Proof.Machine.execReportHoldoffExpiry s
  | .peerLost chip => Sys2Proof.Machine.execPeerLost chip s
  | .tryonTimer => Sys2Proof.Machine.execTryonTimer s
  | .tryonInject => Sys2Proof.Machine.execTryonInject s
  | .tryonRecoveryTimeout => Sys2Proof.Machine.execTryonRecoveryTimeout s
  | .traceBlock => Sys2Proof.Machine.execTraceBlock s
  | .traceLostRecord => Sys2Proof.Machine.execTraceLostRecord s
  | .beatMark => Sys2Proof.Machine.execBeatMark s
  | .digestEmit tile => Sys2Proof.Machine.execDigestEmit tile s
  | .treadFreeze via => Sys2Proof.Machine.execTreadFreeze via s
  | .treadUnfreeze via => Sys2Proof.Machine.execTreadUnfreeze via s
  | .treadExportChunk via => Sys2Proof.Machine.execTreadExportChunk via s
  | .treadReplay via v => Sys2Proof.Machine.execTreadReplay via v s
  | .rstNRelease writebackUs => Sys2Proof.Machine.execRstNRelease writebackUs s
  | .mgmtLinkUp => Sys2Proof.Machine.execMgmtLinkUp s
  | .mgmtLinkSyncLost => Sys2Proof.Machine.execMgmtLinkSyncLost s
  | .dtlsHandshake chainOk anchor => Sys2Proof.Machine.execDtlsHandshake chainOk anchor s
  | .dtlsSessionClose session => Sys2Proof.Machine.execDtlsSessionClose session s
  | .icmpv6Request target echo => Sys2Proof.Machine.execIcmpv6Request target echo s
  | .cobblerTakeover => Sys2Proof.Machine.execCobblerTakeover s
  | .aonPowerLoss => Sys2Proof.Machine.execAonPowerLoss s
  | .snapshotRestoreDone ok => Sys2Proof.Machine.execSnapshotRestoreDone ok s
  | .attestReportReady => Sys2Proof.Machine.execAttestReportReady s

end Sys2Proof.Machine
end

