-- ==== Sys2Proof/WellFormed.lean ====
section
/-! DEFINITION. Well-formed commands: what the outside can present. Every index names a thing that exists, every value that the hardware receives has the
length of its container, and a message of the dictionary protocol carries the kind of its row (a reserved kind may come on any row, R447). The meanings
hold for ill-formed commands too; well-formedness is what a reader may assume of a command that the hardware can meet. -/

namespace Sys2Proof

/-- R435, R454: four management sessions, eight mailbox channels. -/
def Via.ok : Via → Bool
  | .mgmt n => decide (n < 4)
  | .mailbox c => decide (c < 8)

/-- R196, R197: a header of eight words, and whole payload flits, at most 64. -/
def Packet.ok (p : Packet) : Bool := p.hdr.length == 8 && p.payload.length % 64 == 0 && decide (p.payload.length ≤ 4096)

/-- R233: 64 sweep points, or no light. -/
def RingSweep.ok (x : RingSweep) : Bool := x.readings.length == 64 || x.readings.isEmpty

/-- R446, R447: a message of a kind, or of a reserved kind; the bits 55:48 of W0. -/
def Kdp.ok (m : Kdp) (kind : Nat) : Bool :=
  let k := m.w0.toNat / 2 ^ 48 % 256
  (k == kind || k == 0 || decide (9 < k)) && decide (m.data.length < 4096)

/-- Whether a command is well-formed. -/
def Instr.wf : Instr → Bool
  | .toneDetected _ => true
  | .refLockAcquired _ => true
  | .toneLostInAcquire => true
  | .refHoldoverEntry => true
  | .refHoldoverRecovery _ => true
  | .refLost => true
  | .refReacquire _ => true
  | .beatTick => true
  | .wallAnchorWrite via _ => via.ok
  | .readyReceived p => p.ok
  | .go eyelet lane slot => decide (eyelet < 32) && decide (lane < 32) && decide (slot < 16)
  | .goRelay => true
  | .syncTimeout => true
  | .launchBeatReached => true
  | .idle tile => decide (tile < 64)
  | .pass tile array entry => decide (tile < 64) && decide (array < 4) && decide (entry < 4096)
  | .passStreamStart tile array => decide (tile < 64) && decide (array < 4)
  | .passComplete tile array => decide (tile < 64) && decide (array < 4)
  | .func tile entry => decide (tile < 64) && decide (entry < 1024)
  | .rowFuncComplete tile => decide (tile < 64)
  | .vectorOpComplete tile => decide (tile < 64)
  | .copyRecord tile stitcher desc => decide (tile < 64) && decide (stitcher < 4) && decide (desc < 4096)
  | .window tile slot action image => decide (tile < 64) && decide (slot < 16) && decide (action < 2) && decide (image < 256)
  | .laceRecord tile entry => decide (tile < 64) && decide (entry < 1024)
  | .arrive tile group => decide (tile < 64) && decide (group < 4096)
  | .signalRecord tile sem => decide (tile < 64) && decide (sem < 4096)
  | .inboundPacketHead tile _ => decide (tile < 64)
  | .tileZeroiseDone phys _ _ => decide (phys < 72)
  | .queueCopyStart tile stitcher => decide (tile < 64) && decide (stitcher < 4)
  | .privilegedCopyStart n _ => decide (n < 8)
  | .txBufferPlace ctx => decide (ctx < 520)
  | .copyComplete ctx => decide (ctx < 520)
  | .copyDeadlineMissed ctx => decide (ctx < 520)
  | .xlateInvalidate via _ => via.ok
  | .xlateRootWrite via _ => via.ok
  | .frameStart stack pc _ _ unsched => decide (stack < 16) && decide (pc < 64) && unsched.length == 4
  | .patrolScrubRead _ _ _ => true
  | .hbmScrubDone _ _ => true
  | .regulatorArrival die _ _ => decide (die < 4)
  | .regulatorAdmit die part _ => decide (part < 16) && decide (die < 4)
  | .regulatorHoldExpiry die part _ => decide (part < 16) && decide (die < 4)
  | .partitionCommit via _ => via.ok
  | .homeSliceWrite _ data enables => data.length == 64 && decide (enables < 2 ^ 64)
  | .atomic _ _ _ _ _ => true
  | .accStore _ _ data enables => data.length == 64 && decide (enables < 2 ^ 64)
  | .packetSend dst => decide (dst < 4096)
  | .packetArrival eyelet lane _ p => decide (eyelet < 32) && decide (lane < 32) && p.ok
  | .reorderHoldExpiry src => decide (src < 4096)
  | .acknowledgement src => decide (src < 4096)
  | .ackReceived p => p.ok
  | .ackTimeout dst => decide (dst < 4096)
  | .schedBlockRelease eyelet lane pos _ data => decide (eyelet < 32) && decide (lane < 32) && decide (pos < 4) && data.length == 64
  | .routeHead port vc cls => decide (port < 1045) && decide (vc < 4) && decide (cls < 2)
  | .routeWaitRetry port vc cls => decide (port < 1045) && decide (vc < 4) && decide (cls < 2)
  | .headGrant eyelet lane vc cls => decide (eyelet < 32) && decide (lane < 32) && decide (vc < 4) && decide (cls < 2)
  | .routeShadowWrite via v => via.ok && v.length == 32768
  | .routeEntryWrite via _ => via.ok
  | .routeCopy via _ => via.ok
  | .routeSwapRelease via => via.ok
  | .routeSwapHold via => via.ok
  | .routeSwapExchange => true
  | .swapDrainTimeout => true
  | .routeRelease via _ => via.ok
  | .routeHoldExpiry => true
  | .laserMeasurement die _ _ _ tx => decide (die < 8) && decide (tx.length ≤ 128)
  | .laserInputLost die input => decide (input < 2) && decide (die < 8)
  | .laserSwitchComplete die => decide (die < 8)
  | .laserDarkRecovery die => decide (die < 8)
  | .laserRevert die => decide (die < 8)
  | .laserSelectReq via die _ => via.ok && decide (die < 8)
  | .fitPassStart eyelet lane => decide (eyelet < 32) && decide (lane < 32)
  | .fitSolve eyelet lane mod flt => decide (eyelet < 32) && decide (lane < 32) && mod.ok && flt.ok
  | .fitCheckEnd eyelet lane _ _ => decide (eyelet < 32) && decide (lane < 32)
  | .fitPassEnd eyelet lane => decide (eyelet < 32) && decide (lane < 32)
  | .tableStale eyelet lane _ => decide (eyelet < 32) && decide (lane < 32)
  | .fullSearch via eyelet _ => via.ok && decide (eyelet < 32)
  | .fullSearchDone eyelet found => decide (eyelet < 32) && found.length == 64
  | .laneBlockSlot eyelet lane pos => decide (eyelet < 32) && decide (lane < 32) && decide (pos < 4)
  | .laneBlockReceived eyelet lane block => decide (eyelet < 32) && decide (lane < 32) && block.length == 70
  | .replayTimeout eyelet lane => decide (eyelet < 32) && decide (lane < 32)
  | .mendExhausted eyelet lane => decide (eyelet < 32) && decide (lane < 32)
  | .slackExpiry eyelet lane bsn => decide (eyelet < 32) && decide (lane < 32) && decide (bsn < 256)
  | .trainStart eyelet lane => decide (eyelet < 32) && decide (lane < 32)
  | .signalDetected eyelet lane _ => decide (eyelet < 32) && decide (lane < 32)
  | .phaseScanDone eyelet lane clean => decide (eyelet < 32) && decide (lane < 32) && clean.length == 64
  | .alignDone eyelet lane => decide (eyelet < 32) && decide (lane < 32)
  | .alignTimeout eyelet lane => decide (eyelet < 32) && decide (lane < 32)
  | .echo eyelet lane _ _ => decide (eyelet < 32) && decide (lane < 32)
  | .echoReply eyelet lane _ _ _ => decide (eyelet < 32) && decide (lane < 32)
  | .latencySet eyelet lane => decide (eyelet < 32) && decide (lane < 32)
  | .echoTimeout eyelet lane => decide (eyelet < 32) && decide (lane < 32)
  | .beaconReceived eyelet lane b => decide (eyelet < 32) && decide (lane < 32) && b.length == 8
  | .linkReady eyelet lane => decide (eyelet < 32) && decide (lane < 32)
  | .quarantineTimeout eyelet lane => decide (eyelet < 32) && decide (lane < 32)
  | .trainRetry eyelet lane => decide (eyelet < 32) && decide (lane < 32)
  | .pause eyelet lane dir _ => decide (eyelet < 32) && decide (lane < 32) && decide (dir < 2)
  | .resume eyelet lane dir _ => decide (eyelet < 32) && decide (lane < 32) && decide (dir < 2)
  | .pauseTimeout eyelet lane => decide (eyelet < 32) && decide (lane < 32)
  | .beaconTimer eyelet lane => decide (eyelet < 32) && decide (lane < 32)
  | .planCommit via _ => via.ok
  | .loadLast queue _ => decide (queue < 512)
  | .loadVerify => true
  | .launch queue _ => decide (queue < 512)
  | .lastUnload via slot => via.ok && decide (slot < 16)
  | .stepStart => true
  | .snapshotComplete => true
  | .pacePoint _ => true
  | .stretchApply => true
  | .lastEnd => true
  | .endingDone => true
  | .queueDoorbell queue => decide (queue < 512)
  | .queueEnable via queue => via.ok && decide (queue < 512)
  | .queueDisable via queue => via.ok && decide (queue < 512)
  | .queueResume via queue => via.ok && decide (queue < 512)
  | .queueDrained queue => decide (queue < 512)
  | .commandStart engine => decide (engine < 4)
  | .copy queue _ => decide (queue < 512)
  | .fill queue _ => decide (queue < 512)
  | .fence queue _ => decide (queue < 512)
  | .signal queue _ => decide (queue < 512)
  | .wait queue _ => decide (queue < 512)
  | .waitTimeout queue _ => decide (queue < 512)
  | .barrier queue _ => decide (queue < 512)
  | .reduceScalar queue _ => decide (queue < 512)
  | .timestamp queue _ => decide (queue < 512)
  | .snapshot queue _ => decide (queue < 512)
  | .tryOn queue _ => decide (queue < 512)
  | .commandComplete queue _ => decide (queue < 512)
  | .mgmtCommand via bytes => via.ok && bytes.length == 64
  | .laceMessageReceived eyelet lane pos _ msg => decide (eyelet < 32) && decide (lane < 32) && decide (pos < 4) && msg.length == 8
  | .laceDeadlineMissed tile entry => decide (tile < 64) && decide (entry < 1024)
  | .lacePacket p => p.ok
  | .laceTimeout set => decide (set < 64)
  | .laceTakeover => true
  | .laceEnable via set _ => via.ok && decide (set < 64)
  | .bulkCopy _ _ _ _ => true
  | .bulkDigest _ _ _ set => decide (set < 64)
  | .senseSample x => x.taps.length == 101 && x.rails.length == 9
  | .senseOpen die => decide (die < 101)
  | .returnCheck => true
  | .dieDead die => decide (die < 101)
  | .modelStep => true
  | .coolantWrite via _ => via.ok
  | .coolantStale => true
  | .thermalEval _ => true
  | .thermalRelease via _ => via.ok
  | .governorBeat _ _ _ => true
  | .powerWindow _ => true
  | .pwrOkFall => true
  | .pwrOkRise _ _ _ => true
  | .railFault rail _ => decide (rail < 9)
  | .weltFlitReceived die port f => decide (port < 16) && decide (die < 101) && f.words.length == 10
  | .weltTrainingDone die port _ _ _ _ => decide (port < 16) && decide (die < 101)
  | .weltRetry die port => decide (port < 16) && decide (die < 101)
  | .weltRetrain die port => decide (port < 16) && decide (die < 101)
  | .heartbeat die => decide (die < 101)
  | .weltSelftest via phys => via.ok && decide (phys < 72)
  | .selftestDone _ => true
  | .peerSetWrite via _ => via.ok
  | .tenantChange via _ => via.ok
  | .tenantChangeComplete _ => true
  | .fwImageStage via _ => via.ok
  | .fwActivate via _ => via.ok
  | .fwActivationDone _ => true
  | .fwRollbackCommit via _ => via.ok
  | .attestNonce via _ => via.ok
  | .keySlotWrite via _ => via.ok
  | .keySlotErase via slot => via.ok && decide (slot < 64)
  | .pendingKeyReplace slot => decide (slot < 64)
  | .sealInstall via _ => via.ok
  | .installDone => true
  | .sealStart eyelet lane payload => decide (eyelet < 32) && decide (lane < 32) && payload.length == 8
  | .sealTag eyelet lane _ _ rest => decide (eyelet < 32) && decide (lane < 32) && rest.length == 6
  | .sealTagTimeout eyelet lane _ => decide (eyelet < 32) && decide (lane < 32)
  | .mgmtAnchorsWrite via _ => via.ok
  | .read via m => via.ok && m.ok 1
  | .write via m => via.ok && m.ok 2
  | .describe via m => via.ok && m.ok 3
  | .openRead via m => via.ok && m.ok 4
  | .openWrite via m => via.ok && m.ok 5
  | .segRead via m => via.ok && m.ok 6
  | .segWrite via m => via.ok && m.ok 7
  | .close via m => via.ok && m.ok 8
  | .sessionTimeout session => decide (session < 65536)
  | .memReadData via m => via.ok && (m.ok 1 || m.ok 4)
  | .mailboxDoorbell channel srcChip => decide (channel < 8) && decide (srcChip < 4096)
  | .alertAck via _ => via.ok
  | .alertSample _ => true
  | .alertStuck => true
  | .alertLineEnable via _ _ => via.ok
  | .notify => true
  | .rstN => true
  | .restartRequest via _ => via.ok
  | .coldReset => true
  | .romBootDone _ _ => true
  | .recoveryImage _ _ => true
  | .diesDone _ _ => true
  | .memoryClearDone _ _ _ _ => true
  | .bringupTimeout => true
  | .calibFlashWrite _ => true
  | .tileFenceReq via phys => via.ok && decide (phys < 72)
  | .exclusionClear via _ => via.ok
  | .fault p => p.ok
  | .coordinatorRollback => true
  | .rollback p => p.ok
  | .rollbackWaitExpiry => true
  | .restoreDone _ => true
  | .treadReplayInput => true
  | .replayEnd => true
  | .snapshotRestore via _ => via.ok
  | .faultEpochWrite via _ => via.ok
  | .faultAck via chip => via.ok && decide (chip < 4096)
  | .reportHoldoffExpiry => true
  | .peerLost chip => decide (chip < 4096)
  | .tryonTimer => true
  | .tryonInject => true
  | .tryonRecoveryTimeout => true
  | .traceBlock => true
  | .traceLostRecord => true
  | .beatMark => true
  | .digestEmit tile => decide (tile < 64)
  | .treadFreeze via => via.ok
  | .treadUnfreeze via => via.ok
  | .treadExportChunk via => via.ok
  | .treadReplay via _ => via.ok
  | .rstNRelease _ => true
  | .mgmtLinkUp => true
  | .mgmtLinkSyncLost => true
  | .dtlsHandshake _ _ => true
  | .dtlsSessionClose session => decide (session < 4)
  | .icmpv6Request t _ => t.length == 16
  | .cobblerTakeover => true
  | .aonPowerLoss => true
  | .snapshotRestoreDone _ => true
  | .attestReportReady => true

end Sys2Proof
end

