-- ==== Sys2Proof/Safety.lean ====
section
/-! DEFINITION. What counts as a sound state and a sound step, and when a command does its own effect, in the terms that statements use. -/

namespace Sys2Proof.Machine

/-- The forms that every state keeps: HBM in its canonical form (one cell for an address, none equal to what an unlisted byte reads), and the
dictionary registers each under one key. -/
def State.Inv (s : State) : Prop := s.hbm.mem.wf = true ∧ sorted s.regs = true

/-- What a command may not do: touch the queue, take back what has left the package, or give a free value a second time. -/
structure Sound (s t : State) : Prop where
  queue : t.pending = s.pending
  outbox : s.out <+: t.out
  fresh : s.draws ≤ t.draws

/-- A request to write an entry that comes by an open path and that none of R441's ranks 1 to 7, nor an unclaimed package (R436), turns away. -/
structure Writable (s : State) (via : Via) (index sub : Nat) : Prop where
  opened : viaOpen s via = true
  status : entryStatus s via index sub 1 = Code.ok
  claimed : unclaimedRefusal s via index sub = false

/-- What follows a write that has taken effect: a mailbox write is logged (R510), and the response carries the status. -/
def written (t : State) (via : Via) (index sub status : Nat) : State := answer (logMailboxWrite t via) via 2 index sub status

/-- R329 to R331: a command of a queue that has started and whose own effect is due. -/
structure Begins (s : State) (q id op : Nat) (f : Flight) : Prop where
  found : flightOf s q id = some f
  fresh : f.begun = false
  unfinished : f.result = none
  opcode : fld (nth f.words 0) 63 56 = op
  clocked : s.power.clocksOff = false

/-- The state in which that command has begun. -/
def begun (s : State) (q id : Nat) : State := modFlight s q id (fun f => { f with begun := true })

/-- R292, R293, R312: a beat record of a tile that is due in the schedule beat now and that no record before it in the beat holds up: its place
in the stream, and its word. -/
structure Due (s : State) (tile op args : Nat) (r : Run) (x : Nat × Word) : Prop where
  run : s.last.run = some r
  issuing : r.issuing = true
  found : (unissued s r tile).find? (fun x => fld x.2 63 56 == op && fld x.2 47 0 == args) = some x
  first : heldUp s r tile x.2 = false

/-- The state in which that record has issued. -/
def issued (s : State) (tile : Nat) (x : Nat × Word) : State := setRun s (fun y => { y with issued := y.issued ++ [(tile, x.1)] })

/-- R447, R449: a request of a kind that comes by an open path, free of errors of its own, and, where it comes by a management session, under a new
identifier and with no key to wait for (R423). -/
structure Requested (s : State) (via : Via) (m : Kdp) (kind : Nat) : Prop where
  opened : viaOpen s via = true
  sound : messageError m = Code.ok
  kind : m.kind = kind
  fresh : ∀ n, via = .mgmt n → reqSeen (tget {} s.mgmt.sessions n) m.reqId = .run
  ready : ∀ n, via = .mgmt n → waitsExport s m = false

/-- What follows a request that has run: its response leaves, and a management session that is still open remembers it (R449). -/
def responded (via : Via) (m : Kdp) (r : Resp) (t : State) : State :=
  match via with
  | .mailbox c => emit t (.kdp (.mailbox c) r)
  | .mgmt n =>
    let u := emit t (.kdp (.mgmt n) r)
    afterResponse (if (tget? u.mgmt.sessions n).isSome = true
      then { u with mgmt := { u.mgmt with sessions := tmod {} u.mgmt.sessions n (fun d => remember d m.reqId (.kdp (.mgmt n) r)) } } else u)

end Sys2Proof.Machine
end

