-- ==== Sys2Proof/Certificates/Slice0/Obligations.lean ====
section
/-! DEFINITION. The statements about the model. Each docstring says what its statement claims and names the rules of spec/ it rests on. -/

open Sys2Proof
open Sys2Proof.Machine

/-- O1. For every command c and state s with c at the front of its queue, step of s is exec of c on s with the rest of the queue; on an empty queue a step leaves the state as it is (model's choice, log 1). (00_scope.md) -/
def Obligations.StepRunsFrontCommand : Prop :=
  (∀ (s : State) (c : Instr) (cs : List Instr), s.pending = c :: cs → step s = exec c { s with pending := cs })
    ∧ ∀ s : State, s.pending = [] → step s = .next s

/-- O2. No command ends in a fault or a refusal, whatever the state and the operands. That a command whose event cannot happen in a state changes nothing there, and so answers a next state too, is the model's choice (log 10). (00_scope.md) -/
def Obligations.EveryCommandAnswers : Prop :=
  ∀ (c : Instr) (s : State), ∃ t, exec c s = .next t

/-- O3. For every state in which HBM is in canonical form (one cell for an address, none equal to what an unlisted byte reads) and the dictionary registers each stand under one key, every step leads to such a state, whatever the command. (07_memory_system.md, 18_dictionary_management.md) -/
def Obligations.StepKeepsInvariant : Prop :=
  ∀ s t : State, s.Inv → step s = .next t → t.Inv

/-- O4. State.reset meets the invariant that every step keeps. (19_reset_bringup.md) -/
def Obligations.ResetMeetsInvariant : Prop :=
  State.reset.Inv

/-- O5. For every step that runs a command c from the front of the queue: the queue afterwards is its rest, what had left the package before is a prefix of what has left it after, and the counter by which free values are drawn is at least what it was. That the outbox and the counter exist is the model's choice (logs 2 and 3). (00_scope.md, 18_dictionary_management.md) -/
def Obligations.StepIsSound : Prop :=
  ∀ (s t : State) (c : Instr) (cs : List Instr), s.pending = c :: cs → step s = .next t → Sound { s with pending := cs } t

/-- O6. That State.reset is the package without power, and what stands there where the spec gives no value for that state (the empty routing tables, the VACANT tenancy without peers, the DISABLED queues among it), are the model's choice (log 4). At reset the package is unpowered: the always-on rails are down, the reference loop is FREE, the beat counter is 0, the tenancy is VACANT and OPEN with no peers, no Last is running, the routing tables are empty, every queue is DISABLED, the chip number in force is 0xFFFF, and an entry such as reorder_hold_us reads its default. (R33, R29, 19_reset_bringup.md, 17_tenancy_sealing_keys.md) -/
def Obligations.ResetValues : Prop :=
  State.reset.pending = [] ∧ State.reset.reset'.boot = .off ∧ State.reset.clock.refState = .free ∧ State.reset.clock.beat = 0
    ∧ State.reset.tenancy.state = .vacant ∧ State.reset.tenancy.vals.peers = [] ∧ State.reset.last.run = none
    ∧ State.reset.router.active = [] ∧ (∀ q : Nat, (queueOf State.reset q).state = .disabled)
    ∧ rget State.reset Reg.chipNumberActive = 0xFFFF ∧ (∀ r : Reg, rget State.reset r = r.dflt)

/-- O7. Where the registers each stand under one key (the invariant), a register that was written reads the value cut to its width, and every register under another key reads as before. (R438, 18_dictionary_management.md) -/
def Obligations.RegisterReadsBack : Prop :=
  ∀ (s : State) (r r' : Reg) (v : Nat), s.Inv → rget (rset s r v) r = v % 2 ^ r.bits ∧ (r'.key ≠ r.key → rget (rset s r v) r' = rget s r')

/-- O8. After a write of bytes to HBM that meets no poisoned line a byte within the range reads the byte written there; in a poisoned line that the write does not cover whole a byte stays as it was, and in one that it covers whole, and in every line without poison, a byte reads what was written; every byte outside the range reads as before; the canonical form stays, and poison stands only on lines the write did not cover whole. (R155, 07_memory_system.md) -/
def Obligations.HbmReadsBack : Prop :=
  ∀ (s : State) (a : Nat) (bs : List Byte) (x : Nat), s.hbm.mem.wf = true →
    (hbmWrite s a bs).hbm.mem.wf = true
    ∧ (poisoned s a bs.length = false → x < bs.length → (hbmWrite s a bs).hbm.mem.read (a + x) = bs.getD x 0)
    ∧ (x < bs.length → poisoned s (64 * ((a + x) / 64)) 64 = true → (64 * ((a + x) / 64) < a ∨ a + bs.length < 64 * ((a + x) / 64) + 64) →
        (hbmWrite s a bs).hbm.mem.read (a + x) = s.hbm.mem.read (a + x))
    ∧ (x < bs.length → (poisoned s (64 * ((a + x) / 64)) 64 = false ∨ (a ≤ 64 * ((a + x) / 64) ∧ 64 * ((a + x) / 64) + 64 ≤ a + bs.length)) →
        (hbmWrite s a bs).hbm.mem.read (a + x) = bs.getD x 0)
    ∧ ((x < a ∨ a + bs.length ≤ x) → (hbmWrite s a bs).hbm.mem.read x = s.hbm.mem.read x)
    ∧ (∀ p ∈ (hbmWrite s a bs).hbm.poison, p ∈ s.hbm.poison ∧ ¬ (a ≤ 64 * p.1 ∧ 64 * p.1 + 64 ≤ a + bs.length))

/-- O9. A valid tone takes FREE to ACQUIRE and an invalid one leaves FREE; a lost tone takes ACQUIRE to FREE; lock takes ACQUIRE to LOCKED with the selected input as the source and the offset kept; loss in LOCKED that no injection caused enters HOLDOVER and is counted; a valid tone in HOLDOVER from another input than before takes it to LOCKED with that input as the source, counted as a failover. Recovery leaves the beat counter. A write of wall_anchor_ns that is let in keeps that time and the beat counter of that instant, changes no other entry and is answered OK. (R28, R29, R31, R41, R438) -/
def Obligations.ReferenceLoopMoves : Prop :=
  ∀ (s : State) (via : Via) (ns : Nat) (tone : Tone) (ppb : Int) (i : Nat),
    (s.clock.refState = .free → toneValid s tone = true → exec (.toneDetected tone) s = .next { s with clock := { s.clock with refState := .acquire } })
    ∧ (s.clock.refState = .free → toneValid s tone = false → exec (.toneDetected tone) s = .next s)
    ∧ (s.clock.refState = .acquire → exec .toneLostInAcquire s = .next { s with clock := { s.clock with refState := .free } })
    ∧ (s.clock.refState = .acquire → refInput s = some i → s.clock.lastSource = 0 ∨ s.clock.lastSource = i →
        exec (.refLockAcquired ppb) s = .next (rsetI (rset { s with clock := { s.clock with refState := .locked, lastSource := i } } Reg.refSource i) Reg.refOffsetPpb ppb))
    ∧ (s.clock.refState = .locked → refInjected s = false →
        exec .refHoldoverEntry s = .next (rinc { s with clock := { s.clock with refState := .holdover } } Reg.refHoldovers))
    ∧ (s.clock.refState = .holdover → refInput s = some i → toneValid s tone = true → s.clock.lastSource ≠ 0 → s.clock.lastSource ≠ i → refInjected s = false →
        exec (.refHoldoverRecovery tone) s
          = .next (rinc (rset { s with clock := { s.clock with refState := .locked, lastSource := i } } Reg.refSource i) Reg.refFailovers))
    ∧ (∀ t, exec (.refHoldoverRecovery tone) s = .next t → t.clock.beat = s.clock.beat)
    ∧ (Writable s via 0x1100 0xB → exec (.wallAnchorWrite via ns) s
        = .next (written (rset (rset s Reg.wallAnchorNs ns) Reg.wallAnchorBeat s.clock.beat.toNat) via 0x1100 0xB Code.ok))

/-- O10. Entry to LOST from HOLDOVER raises REF_LOST, and with a Last running STEP_FAULT too. In LOST a LAUNCH of a loaded slot with no Last armed or running completes with REF_LOST. A valid tone takes the loop from LOST to ACQUIRE only with no Last running, and every lane that trained or served goes to WAIT to train again. (R32) -/
def Obligations.ReferenceLost : Prop :=
  ∀ (s u : State) (tone : Tone) (r : Run) (q id : Nat) (f : Flight), u = begun s q id →
    (s.clock.refState = .holdover → s.last.run = none → exec .refLost s
        = .next (raise { s with clock := { s.clock with refState := .lost } } { code := Code.refLost, injected := refInjected s }))
    ∧ (s.clock.refState = .holdover → s.last.run = some r → lastRunning s = true → exec .refLost s
        = .next (stepFault (raise { s with clock := { s.clock with refState := .lost } } { code := Code.refLost, injected := refInjected s })
            Code.refLost 0 0 none 0 (refInjected s)))
    ∧ (Begins s q id 2 f → clearing u = false → slotState u (fld (nth f.words 1) 63 60) = .loaded → u.last.run = none → u.clock.refState = .lost →
        exec (.launch q id) s = .next (launchFail u (some (q, id)) Code.refLost 0 0x83 0x3F 0))
    ∧ (s.clock.refState = .lost → lastRunning s = true → exec (.refReacquire tone) s = .next s)
    ∧ (s.clock.refState = .lost → toneValid s tone = true → lastRunning s = false → ∃ t, exec (.refReacquire tone) s = .next t
        ∧ t.clock.refState = .acquire
        ∧ ∀ e k : Nat, k < 32 → (lane s e k).train ≠ .off → (lane s e k).train ≠ .wait → (lane t e k).train = .wait)

/-- O11. With the clocks running, no fitting pass, no copy in progress, no tile unit at work and no Last, a beat tick changes the beat counter alone, by one modulo 2^64; where units work they end the cycles of the beat first, and what holds from the first cycle of the new beat holds before its records issue. With a Last running in an undisturbed schedule beat it also issues the next schedule beat, and a rest beat issues none and is counted. With the clocks outside the always-on domain stopped, no beat passes. The order of what one tick does is the model’s choice (log 13). (R33, R312, R317, R372) -/
def Obligations.BeatTickCounts : Prop :=
  ∀ (s u w : State) (r : Run) (p : Nat) (ps : List Nat),
    (s.power.clocksOff = false → s.optics.fits = [] → s.last.run = none → s.stitch.ctxs = [] →
        (∀ t, t < 64 → tileActs s t ++ (ptile s (physTile s t)).late = []) →
        exec .beatTick s = .next { s with clock := { s.clock with beat := s.clock.beat + 1 } })
    ∧ (s.power.clocksOff = false → u = allUnitsTo s (cycleNow s + 56) → (∀ r, u.last.run = some r → r.cleanupDue = false) →
        w = beginBeat (sweepHeaters { u with clock := { u.clock with beat := u.clock.beat + 1 } }) → w.last.run = none →
        exec .beatTick s = .next (advanceAll w))
    ∧ (s.power.clocksOff = false → u = allUnitsTo s (cycleNow s + 56) → (∀ r, u.last.run = some r → r.cleanupDue = false) →
        w = beginBeat (sweepHeaters { u with clock := { u.clock with beat := u.clock.beat + 1 } }) → w.last.run = some r → runState w = .running →
        r.sched < totalBeats w r → w.power.stalled = false → w.power.tripped = false → (r.rests = [] ∨ ∃ p ps, r.rests = p :: ps ∧ r.sched < p) →
        exec .beatTick s = .next (advanceAll (issueBeat w)))
    ∧ (s.power.clocksOff = false → u = allUnitsTo s (cycleNow s + 56) → (∀ r, u.last.run = some r → r.cleanupDue = false) →
        w = beginBeat (sweepHeaters { u with clock := { u.clock with beat := u.clock.beat + 1 } }) → w.last.run = some r → runState w = .running →
        r.sched < totalBeats w r → w.power.stalled = false → w.power.tripped = false → r.rests = p :: ps → p ≤ r.sched →
        exec .beatTick s = .next (advanceAll (rinc { w with last := { w.last with run := some { r with issuing := false, resting := true, restCount := r.restCount + 1, rests := ps, issued := [], hist := (none :: r.hist).take 32 } } } Reg.restBeats)))
    ∧ (s.power.clocksOff = true → exec .beatTick s = .next s)

/-- O12. A READY that comes before the package has armed is kept for its LAUNCH. An armed leader takes a READY of a participant that it has not had and that equals its own; while another is missing it waits, and with the last it sends GO in the next whole beat on every relay lane, and sets its launch beat start_lead_beats after that beat (model's choice of the beat, log 74); a READY that differs counts as missing: it is not taken, and a leader that waits for it sends no GO. A READY from before the arming is held by the model's choice (log 28). The first GO copy on the armed slot's GO lane sets the launch beat to the beat now plus start_lead_beats less the lane's delay, and a relay two beats later; a relay that is due sends GO on every relay lane in its beat; a handshake with no launch beat that times out ends with SYNC_FAULT. (R35, R36, R267, R308, R309) -/
def Obligations.HandshakeMessages : Prop :=
  ∀ (s u : State) (p : Packet) (r : Run) (e k slot b : Nat) (ws : List Word),
    (p.kind = kControl → p.wellFormed = true → p.len = 1 → fld (nth (wordsOf p.payload 8) 0) 63 56 = 1 → runState s ≠ .armed →
      exec (.readyReceived p) s = .next { s with last := { s.last with early := tput s.last.early p.src (wordsOf p.payload 8) } })
    ∧ (p.kind = kControl → p.wellFormed = true → p.len = 1 → ws = wordsOf p.payload 8 → fld (nth ws 0) 63 56 = 1 → runState s = .armed →
        s.last.run = some r → p.src ∈ participants s r.slot → ws = readyPayload s r → p.src ∉ r.ready →
        u = { s with last := { s.last with run := some { r with ready := r.ready ++ [p.src] } } } →
        (∃ c ∈ participants s r.slot, c ∉ r.ready ∧ c ≠ p.src) →
        exec (.readyReceived p) s = .next u)
    ∧ (p.kind = kControl → p.wellFormed = true → p.len = 1 → ws = wordsOf p.payload 8 → fld (nth ws 0) 63 56 = 1 → runState s = .armed →
        s.last.run = some r → p.src ∈ participants s r.slot → ws = readyPayload s r → p.src ∉ r.ready →
        u = { s with last := { s.last with run := some { r with ready := r.ready ++ [p.src] } } } → r.launchAt = none → leaderOf s r.slot = ownChip s →
        (∀ c ∈ participants s r.slot, c ∈ r.ready ∨ c = p.src) →
        exec (.readyReceived p) s = .next (sendGo { s with last := { s.last with run := some { r with ready := r.ready ++ [p.src], launchAt := some (s.clock.beat.toNat + 1 + r.lead) } } } { r with ready := r.ready ++ [p.src] } (s.clock.beat.toNat + 1)))
    ∧ (p.kind = kControl → p.wellFormed = true → p.len = 1 → fld (nth (wordsOf p.payload 8) 0) 63 56 = 1 → runState s = .armed →
        s.last.run = some r → (r.launchAt.isSome = true ∨ ∃ c ∈ participants s r.slot, c ∉ r.ready) → wordsOf p.payload 8 ≠ readyPayload s r →
        exec (.readyReceived p) s = .next s)
    ∧ (s.last.run = some r → runState s = .armed → r.launchAt = none → leaderOf s r.slot ≠ ownChip s → slot % 16 = r.slot →
        fld (goPath s r.slot r.bucket) 47 43 = logicalEyelet s e → fld (goPath s r.slot r.bucket) 42 38 = k →
        exec (.go e k slot) s = .next { s with last := { s.last with run := some { r with
          launchAt := some (s.clock.beat.toNat + r.lead - fld (goPath s r.slot r.bucket) 63 48), relayAt := some (s.clock.beat.toNat + 2) } } })
    ∧ (s.last.run = some r → r.relayAt = some b → b ≤ s.clock.beat.toNat + 1 →
        exec .goRelay s = .next (sendGo { s with last := { s.last with run := some { r with relayAt := none } } } r b))
    ∧ (s.last.run = some r → r.relayAt = some b → s.clock.beat.toNat + 1 < b → exec .goRelay s = .next s)
    ∧ (s.last.run = some r → runState s = .armed → r.launchAt = none →
        ∃ t, exec .syncTimeout s = .next t ∧ t = handshakeFail s r Code.syncFault ∧ t.last.run = none)

/-- O13. When the beat counter has reached the launch beat of an armed Last, its slot is RUNNING, launch_beat holds that beat, the agreed stretch is 1.0, the local request starts from 1.0 with no sample taken, the presets are open, a BEAT_MARK is made, and schedule beat 0 is issued; a package that stalls or has tripped issues nothing and raises the STEP_FAULT (model's choice of the beat, log 76). (R35, R110, R312, R318, R370, R508) -/
def Obligations.LaunchBeatStartsTheLast : Prop :=
  ∀ (s u : State) (r : Run) (b : Nat), s.last.run = some r → r.launchAt = some b → runState s = .armed → b ≤ s.clock.beat.toNat →
    u = beatMark (setRun (openPresets (replayStart
        (let v := rset (rset (setSlot s r.slot .running) Reg.launchBeat b) Reg.agreedStretch 256;
         { v with
           tiles := v.tiles.map (fun t => (t.1, { t.2 with digest := [] })),
           power := { v.power with localX := 256, paceSum := 0, paceCount := 0 } }) r) r)
        (fun x => { x with rests := [], sched := 0 })) (some 0) →
    (s.power.stalled = false → s.power.tripped = false →
        exec .launchBeatReached s = .next (issueBeat (setRun u (fun x => { x with hist := x.hist.drop 1 }))))
    ∧ (s.power.stalled = true → s.power.tripped = false → exec .launchBeatReached s = .next (stepFault u Code.thermalLimit 0 0 none 0 false))
    ∧ (s.power.tripped = true → exec .launchBeatReached s = .next (stepFault u Code.thermalShutdown 0 0 none 0 false))

/-- O14. A record of a tile that is due in the schedule beat issues once, and beyond that: IDLE does nothing; WINDOW with ACTION 1 loads window-image entry IMAGE into SLOT and opens it; with ACTION 0 it closes SLOT and leaves the rest of it; SIGNAL adds 1 to its semaphore. (R110, R291, R292, R336) -/
def Obligations.SequencerRecordsIssue : Prop :=
  ∀ (s u : State) (tile slot image sem : Nat) (r : Run) (x : Nat × Word), u = issued s tile x →
    (Due s tile 0 0 r x → exec (.idle tile) s = .next u)
    ∧ (Due s tile 4 (at' slot 4 44 + at' 1 1 43 + at' image 8 35) r x → exec (.window tile slot 1 image) s = .next { u with
        tiles := tmod {} u.tiles tile (fun l => { l with windows := tset 0 l.windows slot (nth (runEntry r secWindows tile 1 image) 0 ||| (1 : Word) <<< 63) }) })
    ∧ (Due s tile 4 (at' slot 4 44 + at' 0 1 43 + at' image 8 35) r x → exec (.window tile slot 0 image) s = .next { u with
        tiles := tmod {} u.tiles tile (fun l => { l with windows := tset 0 l.windows slot (tget 0 (ltile u tile).windows slot &&& ~~~((1 : Word) <<< 63)) }) })
    ∧ (Due s tile 7 (at' sem 12 36) r x → exec (.signalRecord tile sem) s = .next (semAdd u sem 1))

/-- O15. Where the semaphore's line is not poisoned and HBM is in canonical form, adding v writes its old value plus v modulo 2^64 into its eight bytes and leaves every other byte of HBM; where it is poisoned nothing changes. (R335, R336) -/
def Obligations.SemaphoreAdds : Prop :=
  ∀ (s : State) (j v a : Nat), a = rget s Reg.semBase + 8 * j →
    (poisoned s a 8 = true → semAdd s j v = s)
    ∧ (poisoned s a 8 = false → s.hbm.mem.wf = true →
        (hbmWord (semAdd s j v) a).toNat = ((hbmWord s a).toNat + v) % 2 ^ 64
        ∧ ∀ b : Nat, (b < a ∨ a + 8 ≤ b) → (semAdd s j v).hbm.mem.read b = s.hbm.mem.read b)

/-- O16. A pass that waits leaves the pending slot once its stream has started. With every area it reads staged in the issue cycle, and the pending slot free, a LOAD_ONLY pass loads the B set it names from its buffer, and any other pass waits for its stream, which starts in the issue cycle or when the stream before it ends, and is counted as an operation of its format; a pass of either kind on an array where one waits, or with an area not staged, raises STEP_FAULT. (R76, R77, R78, R80) -/
def Obligations.PassRecordLoadsAndQueues : Prop :=
  ∀ (s u v : State) (tile array entry k : Nat) (r : Run) (x : Nat × Word) (d : PassRec) (ks : List Nat),
    u = issued s tile x → Due s tile 1 (at' array 2 46 + at' entry 12 34) r x →
    v = setArray u (physTile u tile) array (fun y => y.freePending (cycleNow u)) →
    let p := physTile u tile
    let a := arrayOf v p array
    d = { w0 := nth (runEntry r secPass tile 2 entry) 0, w1 := nth (runEntry r secPass tile 2 entry) 1, issue := cycleNow u, start := max (cycleNow u) a.streamEnd } →
    let set := if d.loadOnly then d.bSet else 1 - d.bSet
    let lacks := unstaged a d (userScaleB v r tile array x.1 set) d.issue
    (lacks = [] → d.loadOnly = true → a.pending = none →
        exec (.pass tile array entry) s = .next (setArray v p array (fun y => y.loadSet d.bSet d.bBuf d.issue)))
    ∧ (lacks = [] → d.loadOnly = false → a.pending = none →
        exec (.pass tile array entry) s = .next (opCount (setArray v p array (fun y => { y with pending := some d, streamEnd := d.streamEnd })) tile 0 d.fmtA 1))
    ∧ (lacks = [] → a.pending.isSome = true → exec (.pass tile array entry) s = .next (arrayFault v tile array 15))
    ∧ (lacks = k :: ks → exec (.pass tile array entry) s = .next (arrayFault v tile array k))

/-- O17. In the beat in which the stream of the waiting pass begins, once the records of the beat have issued, the units of its tile work up to that cycle, and likewise for the cycle in which the oldest pass not yet complete completes; an earlier beat, or an array with no such pass, changes nothing. With nothing else due, the stream start moves the pass to the active slot, a row of sums enters the accumulator bank, a drain row goes to scratchpad through its handle, and a pass that has completed, its drain over, leaves the array. That a tile’s units work their cycles behind the commands is the model’s choice (log 14). (R74, R76, R79, R80, R82) -/
def Obligations.PassStreamsAndCompletes : Prop :=
  ∀ (s v : State) (tile array m c : Nat) (d : PassRec),
    let p := physTile s tile
    let a := arrayOf s p array
    let q := physTile v tile
    (a.pending = some d → unitRecordsLeft s tile = false → d.start < cycleNow s + 56 →
        exec (.passStreamStart tile array) s = .next (unitsTo s tile (d.start + 1)))
    ∧ (a.pending = some d → unitRecordsLeft s tile = false → d.start < cycleNow s + 56 → v = workTo s tile (d.start + 1) →
        dueActs s tile (d.start + 1) = [(d.start, .stream array d.issue)] →
        exec (.passStreamStart tile array) s = .next (setArray v q array (fun y => y.startStream d.issue)))
    ∧ (a.streams.find? (fun d => decide ((ptile s p).unitAt ≤ d.completes)) = some d → unitRecordsLeft s tile = false → d.completes < cycleNow s + 56 →
        exec (.passComplete tile array) s = .next (unitsTo s tile (d.completes + 1)))
    ∧ (a.streams.find? (fun d => decide ((ptile s p).unitAt ≤ d.completes)) = some d → unitRecordsLeft s tile = false → d.completes < cycleNow s + 56 →
        v = workTo s tile (d.completes + 1) → d.drain = false → dueActs s tile (d.completes + 1) = [(d.completes, .passSettled array d.issue)] →
        passOf v tile array d.issue = some d →
        exec (.passComplete tile array) s = .next (setArray v q array (fun y => { y with streams := y.streams.filter (fun e => e.issue != d.issue) })))
    ∧ (a.streams.find? (fun d => decide ((ptile s p).unitAt ≤ d.completes)) = some d → unitRecordsLeft s tile = false → d.completes < cycleNow s + 56 →
        v = workTo s tile (d.completes + 1) → dueActs s tile (d.completes + 1) = [(d.completes, .drainRow array d.issue m)] → array < 4 → bankTwice (d.drainBanks (handleOf v tile) m) = none →
        passOf v tile array d.issue = some d →
        exec (.passComplete tile array) s = .next (modPass
          (schedWriteHandle v tile (handleOf v tile d.drainHandle) (d.drainOff m) d.completes ((arrayOf v q array).drainBytes d m))
          tile array d.issue (fun e => { e with drained := e.drained + 1 })))
    ∧ (passOf v tile array d.issue = some d → perform v tile c (.bankRow array d.issue m) = setArray v q array (fun y => y.addRow d m))
    ∧ (a.pending = none → exec (.passStreamStart tile array) s = .next s)
    ∧ (a.pending = some d → cycleNow s + 56 ≤ d.start → exec (.passStreamStart tile array) s = .next s)
    ∧ (a.streams = [] → exec (.passComplete tile array) s = .next s)

/-- O18. A FUNC record whose unit is free and whose banks are staged is taken, its unit is busy until the cycle the timing gives, and the operation is counted; what the operation draws on besides its table entry is the extended step number, the step beat and the seed of the Last, so a step run again gives it the same values; a record that meets a busy unit, or a bank that is not staged, raises STEP_FAULT. (R84, R86, R94, R96) -/
def Obligations.RowUnitIssues : Prop :=
  ∀ (s u : State) (tile entry : Nat) (r : Run) (x : Nat × Word) (d : FuncRec) (b : Nat × Nat) (bs : List (Nat × Nat)),
    u = issued s tile x → Due s tile 2 (at' entry 10 38) r x →
    d = { words := runEntry r secFunc tile 4 entry, issue := cycleNow u, stepExt := rget u Reg.stepNumberExt, seed := srSeedOf u r.slot, beat := (r.sched - 1) % max 1 (stepBeats u) } →
    let p := physTile u tile
    let free := if d.isVec then (ptile u p).vecFree else (ptile u p).rowFree
    (d.issue < free → exec (.func tile entry) s = .next (tileFault u tile 0 entry))
    ∧ (free ≤ d.issue → unstagedBanks u tile d = b :: bs → exec (.func tile entry) s = .next (arrayFault u tile b.1 (16 + b.2)))
    ∧ (free ≤ d.issue → unstagedBanks u tile d = [] → exec (.func tile entry) s = .next (opCount
        (setPtile u p (fun y => if d.isVec then { y with vecOps := y.vecOps ++ [d], vecFree := d.frees } else { y with rowOps := y.rowOps ++ [d], rowFree := d.frees }))
        tile (if d.isVec then 2 else 1) d.fmtOut 1))

/-- O19. In the beat in which the oldest operation of either unit completes, once the records of the beat have issued, the units of the tile work up to its last cycle; with nothing else due and every row delivered, the unit lets the operation go and what its last row marked is staged. A row whose last part is read is worked out from what was read and, for the row function unit, from the state of the row, which takes its new value. A row that is written counts its conversions and goes to its place in scratchpad when it writes there. Before that beat, and with no operation, nothing happens. That a tile’s units work their cycles behind the commands is the model’s choice (log 14). (R84, R86, R94, R97) -/
def Obligations.RowUnitCompletes : Prop :=
  ∀ (s v : State) (tile r part c : Nat) (d : FuncRec) (ds : List FuncRec) (o : RowOut),
    let p := physTile s tile
    let q := physTile v tile
    ((ptile s p).rowOps = d :: ds → unitRecordsLeft s tile = false → d.completes < cycleNow s + 56 →
        exec (.rowFuncComplete tile) s = .next (unitsTo s tile (d.completes + 1)))
    ∧ ((ptile s p).rowOps = d :: ds → unitRecordsLeft s tile = false → d.completes < cycleNow s + 56 → v = workTo s tile (d.completes + 1) →
        dueActs s tile (d.completes + 1) = [(d.completes, .opComplete false d.issue)] → opOf v tile false d.issue = some d → d.rows ≤ d.done →
        exec (.rowFuncComplete tile) s = .next (completeOp v tile d))
    ∧ ((ptile s p).rowOps = d :: ds → cycleNow s + 56 ≤ d.completes → exec (.rowFuncComplete tile) s = .next s)
    ∧ ((ptile s p).rowOps = [] → exec (.rowFuncComplete tile) s = .next s)
    ∧ ((ptile s p).vecOps = d :: ds → unitRecordsLeft s tile = false → d.completes < cycleNow s + 56 →
        exec (.vectorOpComplete tile) s = .next (unitsTo s tile (d.completes + 1)))
    ∧ ((ptile s p).vecOps = d :: ds → unitRecordsLeft s tile = false → d.completes < cycleNow s + 56 → v = workTo s tile (d.completes + 1) →
        dueActs s tile (d.completes + 1) = [(d.completes, .opComplete true d.issue)] → opOf v tile true d.issue = some d → d.rows ≤ d.done →
        exec (.vectorOpComplete tile) s = .next (completeOp v tile d))
    ∧ ((ptile s p).vecOps = d :: ds → cycleNow s + 56 ≤ d.completes → exec (.vectorOpComplete tile) s = .next s)
    ∧ ((ptile s p).vecOps = [] → exec (.vectorOpComplete tile) s = .next s)
    ∧ (completeOp v tile d = ((if d.refused then [] else d.outAreas) ++ (if d.refusedFactor then [] else d.factorAreas)).foldl
        (fun s k => setArray s q k.1 (fun y => y.stage k.2))
        (setPtile v q (fun y => if d.isVec then { y with vecOps := y.vecOps.filter (fun e => e.issue != d.issue) }
          else { y with rowOps := y.rowOps.filter (fun e => e.issue != d.issue) })))
    ∧ (d.isVec = false → d.parts ≤ part + 1 → 0 < r →
        let xs := d.src ++ ((srcRow v tile d r).drop (part * d.partSize)).take d.partSize
        let ys := d.src2 ++ ((srcRow2 v tile d r).drop (part * d.partSize)).take d.partSize
        let w := activityAdd (activityAdd v q 1 d.fmtOut 1) q 3 0 (d.readBanks (handleOf v tile) r part).length
        let y := runRow d tile r ((ptile w q).rowState (128 * d.stateSet + r)) xs ys
        readRow v tile d r part = modOp (setPtile w q (fun x => x.putRowState (128 * d.stateSet + r) y.2)) tile false d.issue
          (fun e => { e with src := [], src2 := [], outs := e.outs ++ [y.1] }))
    ∧ (d.isVec = true → d.parts ≤ part + 1 →
        let xs := d.src ++ ((srcRow v tile d r).drop (part * d.partSize)).take d.partSize
        let ys := d.src2 ++ ((srcRow2 v tile d r).drop (part * d.partSize)).take d.partSize
        readRow v tile d r part = modOp (activityAdd (activityAdd v q 2 d.fmtIn 1) q 3 0 (d.readBanks (handleOf v tile) r part).length) tile true d.issue
          (fun e => { e with src := [], src2 := [], outs := e.outs ++ [{ vecRow d tile r xs ys with row := r }] }))
    ∧ (d.writesOut = true → d.dst = 0 → d.factorAreas = [] →
        writeRow v tile d o c = putRow (countConv
          (modOp v tile d.isVec d.issue (fun e => { e with outs := e.outs.filter (fun x => x.row != o.row), done := e.done + 1 })) tile o) tile d o c)

/-- O20. A COPY record begins the scheduled copy its descriptor gives, on a Stitcher whose scheduled context is free, and raises STEP_FAULT on one that is busy; a LACE record of a BARRIER enters the scheduled lace operation as this package's part; an ARRIVE record whose group has come in closes the group. (R118, R299, R346) -/
def Obligations.CopyRecordLaunches : Prop :=
  ∀ (s u : State) (tile stitcher desc entry group : Nat) (r : Run) (x : Nat × Word), u = issued s tile x →
    (Due s tile 3 (at' stitcher 2 46 + at' desc 12 34) r x → (ctxOf u (ctxKey false true tile stitcher)).isSome = true →
        exec (.copyRecord tile stitcher desc) s = .next (stepFault u 0 3 (4 * tile + stitcher) none desc false))
    ∧ (Due s tile 3 (at' stitcher 2 46 + at' desc 12 34) r x → ctxOf u (ctxKey false true tile stitcher) = none →
        exec (.copyRecord tile stitcher desc) s = .next (beginCopy u
          { schedCopy (runEntry r secStitch tile 8 desc) (runEntry r secTensor tile 8) (runEntry r secPattern tile 8) (handleOf u tile) with
            tile := tile, stitcher := stitcher, desc := desc, launchBeat := nowSched u, issue := cycleNow u, halfAt := 2 * (cycleNow u + 2), s0 := r.s0, s1 := r.s1 }))
    ∧ (Due s tile 5 (at' entry 10 38) r x → leLop (laceEntry r tile entry) = lopBarrier →
        exec (.laceRecord tile entry) s = .next (schedLaceIssue (opCount u tile 5 (ltFmt (leType (laceEntry r tile entry))) 1) r
          { tile := tile, entry := entry, issued := nowSched u, seq := stepBeat u r % 2 ^ 24, lop := lopBarrier, ltype := leType (laceEntry r tile entry)
            set := leSet (laceEntry r tile entry), held := [(ownChip u, 0)] }))
    ∧ (Due s tile 6 (at' group 12 36) r x →
        (groupKeys u r tile group
          (nowSched u)).all (fun key => (tget? r.rxSeen key).isSome) = true →
        ∃ t, exec (.arrive tile group) s = .next t
          ∧ t = setRun u (fun y => { y with closed := y.closed ++ [(tile, group + 4096 * (nowSched u / max 1 (beatCount u r.slot r.bucket)))] }))

/-- O21. A packet that the window check lets in is admitted; one that it refuses is counted in window_refusals and answered WINDOW_CLOSED, or, if scheduled, raises STEP_FAULT. A zeroisation that ends well clears the tile and records the longest time; the tile is no longer zeroising. (R111, R112, R115) -/
def Obligations.InboundPacketsMeetWindows : Prop :=
  ∀ (s : State) (tile phys cycles : Nat) (h : TileHead),
    (admitted s tile h = true → exec (.inboundPacketHead tile h) s = .next { s with out := s.out ++ [.memReply Code.ok 0 0] })
    ∧ (admitted s tile h = false → h.scheduled = false →
        exec (.inboundPacketHead tile h) s = .next (emit (rinc s (Reg.windowRefusals tile)) (.memReply Code.windowClosed 0 0)))
    ∧ (admitted s tile h = false → h.scheduled = true →
        exec (.inboundPacketHead tile h) s = .next (tileFault (rinc s (Reg.windowRefusals tile)) tile Code.windowClosed 0))
    ∧ ((ptile s phys).zeroising = true → exec (.tileZeroiseDone phys true cycles) s = .next (setPtile
        (clearTile { rset s Reg.lastZeroiseCycles (max (rget s Reg.lastZeroiseCycles) (cycles % 2 ^ 32)) with
          tenancy := { s.tenancy with zeroising := s.tenancy.zeroising.filter (· != phys) } } phys) phys (fun y => { y with zeroising := false })))
    ∧ ((ptile s phys).zeroising = false → exec (.tileZeroiseDone phys true cycles) s = .next s)

/-- O22. A free queue context of a package that does not stall starts the copy that has waited longest for it once its command has begun, and drops one whose command is gone; a privileged Stitcher that is free and takes no snapshot, on a package that neither stalls nor has tripped, starts the copy of an unpoisoned block of HBM on a 256 B boundary. A copy that is not due, or a busy context, changes nothing. (R118, R119, R148, R333, R370) -/
def Obligations.StitchersServeQueues : Prop :=
  ∀ (s u : State) (tile stitcher n block q id : Nat) (rest : List (Nat × Nat)) (f : Flight),
    u = takeWaiting s tile stitcher →
    (ctxOf s (ctxKey false false tile stitcher) = none → s.power.stalled = false →
        tget? s.stitch.waiting (4 * tile + stitcher) = some ((q, id) :: rest) → flightOf s q id = some f → f.begun = true →
        exec (.queueCopyStart tile stitcher) s = .next (startQueueCopy u tile stitcher q id))
    ∧ (ctxOf s (ctxKey false false tile stitcher) = none → s.power.stalled = false →
        tget? s.stitch.waiting (4 * tile + stitcher) = some ((q, id) :: rest) → flightOf s q id = some f → f.begun = false →
        exec (.queueCopyStart tile stitcher) s = .next s)
    ∧ (ctxOf s (ctxKey false false tile stitcher) = none → s.power.stalled = false →
        tget? s.stitch.waiting (4 * tile + stitcher) = some ((q, id) :: rest) → flightOf s q id = none →
        exec (.queueCopyStart tile stitcher) s = .next u)
    ∧ ((ctxOf s (ctxKey false false tile stitcher)).isSome = true → exec (.queueCopyStart tile stitcher) s = .next s)
    ∧ (n < 8 → s.power.stalled = false → s.power.tripped = false → ctxOf s (512 + n) = none → snapOn s n = false → block % 256 = 0 → block + 256 ≤ hbmBytes → poisoned s block 256 = false →
        exec (.privilegedCopyStart n block) s = .next (startBlock s (blockCopy s (hbmRead s block 256) n 0 true) false))
    ∧ ((ctxOf s (512 + n)).isSome = true → exec (.privilegedCopyStart n block) s = .next s)

/-- O23. The oldest granule that waits crosses the welts to its I/O die and enters the transmit buffer of the lane that carries it while it holds fewer than 64, and is counted; where none waits the copy makes the access that is next in its beat first (model's choice of the moment, log 71); a copy of a queue that has finished frees its context, is traced, signals its semaphore if asked and gives its command its result; a scheduled copy within the package completes in its cycle, and one with an end outside it once it has finished and its peak rate allows it. In RUNNING and ENDING a scheduled copy that is not done by its deadline, and in RUNNING a scheduled lace operation whose result is not visible by its deadline, raise STEP_FAULT; before the deadline, and where the result is visible, nothing happens. That a tile’s units work their cycles behind the commands is the model’s choice (log 14). (R136, R138, R297, R387, R347) -/
def Obligations.CopiesPlaceCompleteAndMeetDeadlines : Prop :=
  ∀ (s v : State) (ctx tile entry : Nat) (c d : CopyRec) (r : Run) (m : Move) (ms : List Move) (l : LaneRun) (o : SchedLace),
    (ctxOf s ctx = some c → s.last.run = some r → c.txWait = m :: ms → txRun s r c m.idx = some l → (lane s (physEyelet s l.eyelet) l.lane).txBuf.length < 64 →
        exec (.txBufferPlace ctx) s = .next (opCount (putCtx
          (setLane (crossOut s (physTile s c.tile) (physEyelet s l.eyelet / 4) m.data) (physEyelet s l.eyelet) l.lane (fun y => { y with txBuf := y.txBuf ++ [(ctx, m.idx, m.data)] }))
          ctx { c with txWait := ms, outstanding := c.outstanding + 1 }) c.tile 4 (tdFmt c.dst) 1))
    ∧ (ctxOf s ctx = some c → c.txWait = [] → v = driveCopy 1 s ctx → ctxOf v ctx = some d → d.txWait = [] → exec (.txBufferPlace ctx) s = .next v)
    ∧ (ctxOf s ctx = some c → c.sched = false → c.finished = true → c.signals = false →
        exec (.copyComplete ctx) s = .next (setResult (traceMake (delCtx s ctx) 4 (c.traceW2 c.status) (word (at' c.granules 32 32 + at' c.note 8 24)))
          c.origin { status := c.status, reason := c.reason, note := c.note, detail := c.granules }))
    ∧ (ctxOf s ctx = some c → c.sched = false → c.finished = true → c.signals = true →
        exec (.copyComplete ctx) s = .next (setResult (semAdd (traceMake (delCtx s ctx) 4 (c.traceW2 c.status) (word (at' c.granules 32 32 + at' c.note 8 24))) c.sem 1)
          c.origin { status := c.status, reason := c.reason, note := c.note, detail := c.granules }))
    ∧ (ctxOf s ctx = some c → c.sched = false → c.finished = false → exec (.copyComplete ctx) s = .next s)
    ∧ (ctxOf s ctx = some c → c.sched = true → c.outside = false → unitRecordsLeft s c.tile = false → c.doneCycle < cycleNow s + 56 →
        exec (.copyComplete ctx) s = .next (unitsTo s c.tile (c.doneCycle + 1)))
    ∧ (ctxOf s ctx = some c → c.sched = true → c.outside = false → unitRecordsLeft s c.tile = false → c.doneCycle < cycleNow s + 56 → v = workTo s c.tile (c.doneCycle + 1) →
        dueActs s c.tile (c.doneCycle + 1) = [(c.doneCycle, .copyDone c.stitcher c.issue)] → fixedCopy v c.tile c.stitcher c.issue = some c →
        ctxOf v c.key = some c → c.accesses.length ≤ c.at_ → c.status = 0 → c.finished = true →
        exec (.copyComplete ctx) s = .next (completeCopy v c.key c))
    ∧ (ctxOf s ctx = some c → c.sched = true → c.outside = true → c.soonest < cycleNow s + 56 → c.finished = true → c.accesses.length ≤ c.at_ → c.status = 0 →
        exec (.copyComplete ctx) s = .next (completeCopy s ctx c))
    ∧ (ctxOf s ctx = some c → c.sched = true → c.outside = true → cycleNow s + 56 ≤ c.soonest → exec (.copyComplete ctx) s = .next s)
    ∧ (ctxOf s ctx = some c → c.sched = true → c.deadline ≠ 0 → c.launchBeat + c.deadline ≤ nowSched s → c.status = 0 → (runState s = .running ∨ runState s = .ending) →
        exec (.copyDeadlineMissed ctx) s = .next (stepFault (putCtx s ctx { c with status := Code.stepFault }) 0 3 c.unit none c.desc false))
    ∧ (ctxOf s ctx = some c → nowSched s < c.launchBeat + c.deadline → exec (.copyDeadlineMissed ctx) s = .next s)
    ∧ (s.last.run = some r → runState s = .running →
        r.laceOps.find? (fun o => o.tile == tile && o.entry == entry && decide (o.issued + leDeadline (laceEntry r tile entry) ≤ nowSched s)
          && !laceVisible o (o.issued + leDeadline (laceEntry r tile entry))) = some o →
        exec (.laceDeadlineMissed tile entry) s = .next (stepFault s 0 10 0 none o.seq false))
    ∧ (s.last.run = some r → (∀ o ∈ r.laceOps, o.tile = tile → o.entry = entry → nowSched s < o.issued + leDeadline (laceEntry r tile entry)) →
        exec (.laceDeadlineMissed tile entry) s = .next s)
    ∧ (s.last.run = some r → (∀ o ∈ r.laceOps, o.tile = tile → o.entry = entry → laceVisible o (o.issued + leDeadline (laceEntry r tile entry)) = true) →
        exec (.laceDeadlineMissed tile entry) s = .next s)

/-- O24. A write of 0 to xlate_invalidate drops every translation that no Last has pinned; a write of xlate_root that is 64 KiB aligned and leaves the top table in HBM takes it and drops them too, any other is refused with VALUE_REFUSED and changes nothing; a valid partition_commit puts the staged partition entries in force, and every bucket, refilled to now at its old rate, keeps at most its new burst; an invalid one is refused. (R143, R146, R163) -/
def Obligations.TranslationInvalidates : Prop :=
  ∀ (s : State) (via : Via) (v : Nat),
    (Writable s via 0x3060 9 → exec (.xlateInvalidate via 0) s = .next (written { s with
        stitch := { s.stitch with tlbs := s.stitch.tlbs.map (fun t => (t.1, t.2.filter (·.pinned))), dieCaches := [] } } via 0x3060 9 Code.ok))
    ∧ (Writable s via 0x3060 8 → v % 65536 = 0 → v + 65536 ≤ hbmBytes →
        exec (.xlateRootWrite via v) s = .next (written (invalidateXlate (rset s Reg.xlateRoot v)) via 0x3060 8 Code.ok))
    ∧ (Writable s via 0x3060 8 → v % 65536 ≠ 0 ∨ hbmBytes < v + 65536 → exec (.xlateRootWrite via v) s = .next (answer s via 2 0x3060 8 Code.valueRefused))
    ∧ (Writable s via 0x3100 0xA → commitOk s = true → ∃ t, exec (.partitionCommit via 1) s = .next (written t via 0x3100 0xA Code.ok)
        ∧ t.hbm.partActive = s.regs.filter (fun e => regKey 0x3110 1 0 ≤ e.1 && e.1 < regKey 0x3120 0 0 && e.1 / 65536 % 256 ≤ 0xC)
        ∧ t.hbm.mem = s.hbm.mem ∧ t.regs = s.regs
        ∧ ∀ i : Nat, i < 64 → bucketOf t (i / 16) (i % 16) = { refill s (i % 16) (routerNow s) (bucketOf s (i / 16) (i % 16)) with
            tokens := (refill s (i % 16) (routerNow s) (bucketOf s (i / 16) (i % 16))).tokens.map (fun x => min x (burstUnits t (i % 16))) })
    ∧ (Writable s via 0x3100 0xA → commitOk s = false → exec (.partitionCommit via 1) s = .next (answer s via 2 0x3100 0xA Code.valueRefused))

/-- O25. An atomic on HBM with a valid operation, aligned to its width and on an unpoisoned granule answers OK with the old value and stores the new one in its four or eight bytes, and every other byte of HBM is as before; a misaligned one answers ALIGN_FAULT, one on a poisoned granule MEM_POISON, and neither changes memory; a slice whose clocks stand does none (R372). (R167, R168, R155, R372) -/
def Obligations.AtomicsAtTheHomeSlice : Prop :=
  ∀ (s : State) (addr op wide : Nat) (v cmp : Word),
    let w := if wide = 0 then 32 else 64
    let old := leNat (hbmRead s addr (w / 8))
    (s.power.clocksOff = true → exec (.atomic addr op wide v cmp) s = .next s)
    ∧ (s.power.clocksOff = false → op < 0xA → addr % (w / 8) = 0 → addr < hbmBytes → poisoned s addr (w / 8) = false → s.hbm.mem.wf = true →
        ∃ t, exec (.atomic addr op wide v cmp) s = .next t
          ∧ t = emit (hbmWrite s addr (leBytes (w / 8) (atomicNew op w old (v.toNat % 2 ^ w) (cmp.toNat % 2 ^ w)))) (.memReply Code.ok 0 old)
          ∧ ∀ b : Nat, (b < addr ∨ addr + w / 8 ≤ b) → t.hbm.mem.read b = s.hbm.mem.read b)
    ∧ (s.power.clocksOff = false → op < 0xA → addr % (w / 8) ≠ 0 → exec (.atomic addr op wide v cmp) s = .next (emit s (.memReply Code.alignFault 0 0)))
    ∧ (s.power.clocksOff = false → op < 0xA → addr % (w / 8) = 0 → addr < hbmBytes → poisoned s addr (w / 8) = true →
        exec (.atomic addr op wide v cmp) s = .next (emit s (.memReply Code.memPoison 0 0)))
    ∧ (s.power.clocksOff = false → 0xA < op → exec (.atomic addr op wide v cmp) s = .next (emit s (.memReply Code.reservedSet 0 0)))

/-- O26. A write of a whole granule of HBM stores its 64 bytes and answers OK whether or not the line was poisoned, and leaves every byte outside the granule; a partial write of a poisoned line answers MEM_POISON and stores nothing; an accumulate-store on a poisoned granule, in a format other than the two, or with enables that split an element, is refused and stores nothing, and any other stores its elements in one write; a slice whose clocks stand does nothing (R372). (R155, R166, R169, R372) -/
def Obligations.HomeSliceWrites : Prop :=
  ∀ (s : State) (addr fmt en : Nat) (data : List Byte), addr % 64 = 0 → addr < hbmBytes → data.length = 64 →
    (s.power.clocksOff = true → exec (.homeSliceWrite addr data en) s = .next s ∧ exec (.accStore addr fmt data en) s = .next s)
    ∧ (s.power.clocksOff = false → s.hbm.mem.wf = true → ∃ t, exec (.homeSliceWrite addr data (2 ^ 64 - 1)) s = .next t
        ∧ t.out = s.out ++ [.memReply Code.ok 0 0]
        ∧ (∀ i : Nat, i < 64 → t.hbm.mem.read (addr + i) = data.getD i 0)
        ∧ ∀ b : Nat, (b < addr ∨ addr + 64 ≤ b) → t.hbm.mem.read b = s.hbm.mem.read b)
    ∧ (s.power.clocksOff = false → poisoned s addr 64 = true → (∃ i : Nat, i < 64 ∧ en.testBit i = false) →
        exec (.homeSliceWrite addr data en) s = .next (emit s (.memReply Code.memPoison 0 0)))
    ∧ (s.power.clocksOff = false → fmt = 1 ∨ fmt = 9 → en < 2 ^ 64 → enablesWhole en = true → poisoned s addr 64 = false →
        exec (.accStore addr fmt data en) s = .next (emit (hbmWrite s addr ((List.range 16).flatMap (fun i =>
          if bits en (4 * i + 3) (4 * i) = 15 then leBytes 4 (accElem fmt (leNat (hbmRead s (addr + 4 * i) 4)) (leNat ((data.drop (4 * i)).take 4)))
          else hbmRead s (addr + 4 * i) 4))) (.memReply Code.ok 0 0)))
    ∧ (s.power.clocksOff = false → fmt = 1 ∨ fmt = 9 → en < 2 ^ 64 → enablesWhole en = true → poisoned s addr 64 = true →
        exec (.accStore addr fmt data en) s = .next (emit s (.memReply Code.memPoison 0 0)))
    ∧ (s.power.clocksOff = false → fmt ≠ 1 → fmt ≠ 9 → exec (.accStore addr fmt data en) s = .next (emit s (.memReply Code.formatUnsupported 0 0)))
    ∧ (s.power.clocksOff = false → fmt = 1 ∨ fmt = 9 → en < 2 ^ 64 → enablesWhole en = false → exec (.accStore addr fmt data en) s = .next (emit s (.memReply Code.alignFault 0 0)))

/-- O27. A patrol read moves the position on by one granule, and at the end of HBM back to 0 with a pass counted; one symbol in error is counted for its stack and symbol position; two poison a line that was not, count it for its stack and record its address; while the patrol is suspended or the clocks stand nothing happens. A scrub of HBM that ends well leaves the tenancy to go on. With no Last a frame grants the scheduled and the maintenance class at most what they ask for, and the maintenance class at least what it asks for up to its idle share; a stack whose clocks stand grants no frame (R372). (R154, R155, R156, R157, R159, R372) -/
def Obligations.PatrolScrubAndFrames : Prop :=
  ∀ (s : State) (pos us stack pc sched maint a : Nat) (newer : Bool) (unsched : List Nat),
    (s.hbm.patrolSuspended = false → s.power.clocksOff = false → rget s Reg.patrolPosition + 64 < hbmBytes →
        exec (.patrolScrubRead 0 pos newer) s = .next (rset s Reg.patrolPosition (rget s Reg.patrolPosition + 64)))
    ∧ (s.hbm.patrolSuspended = false → s.power.clocksOff = false → hbmBytes ≤ rget s Reg.patrolPosition + 64 →
        exec (.patrolScrubRead 0 pos newer) s = .next (rinc (rset s Reg.patrolPosition 0) Reg.patrolPasses))
    ∧ (s.hbm.patrolSuspended = false → s.power.clocksOff = false → poisoned s (rget s Reg.patrolPosition) 1 = false → exec (.patrolScrubRead 1 pos newer) s = .next (patrolAdvance { s with hbm := { s.hbm with
        corrected := tmod 0 s.hbm.corrected (64 * stackOf (rget s Reg.patrolPosition) + pos % 64) (· + 1) } }))
    ∧ (s.hbm.patrolSuspended = false → s.power.clocksOff = false → a = rget s Reg.patrolPosition → tget? s.hbm.poison (a / 64) = none →
        exec (.patrolScrubRead 2 pos newer) s = .next (patrolAdvance (rset { s with hbm := { s.hbm with
          poison := tput s.hbm.poison (a / 64) 1, uncorrectable := tmod 0 s.hbm.uncorrectable (stackOf a) (· + 1) } } Reg.lastUeAddress a)))
    ∧ (s.hbm.patrolSuspended = true ∨ s.power.clocksOff = true → exec (.patrolScrubRead 2 pos newer) s = .next s)
    ∧ (s.tenancy.scrubbing = true → ∃ t, exec (.hbmScrubDone us none) s = .next t ∧ t.tenancy = { s.tenancy with scrubbing := false }
        ∧ t.hbm.patrolSuspended = false)
    ∧ (s.power.clocksOff = true → exec (.frameStart stack pc sched maint unsched) s = .next s)
    ∧ (s.power.clocksOff = false → s.last.run = none → ∃ t f, exec (.frameStart stack pc sched maint unsched) s = .next t
        ∧ t = decodeFrame { s with hbm := { s.hbm with frames := tput s.hbm.frames (64 * stack + pc) f } } stack pc f.granted
        ∧ f.sched ≤ sched ∧ f.maint ≤ maint ∧ min maint (rget s Reg.maintIdleShare) ≤ f.maint)

/-- O28. A request that bypasses the regulators, or one of a partition whose rate is 0xFFFFFFFF, is admitted and answered OK and changes nothing else; one that its bucket covers takes its tokens; one that finds every place taken is refused with REFUSED_CAP and counted; one that has waited its limit and that its bucket does not cover is refused; the head of a FIFO that its bucket covers is admitted; a slice whose clocks stand takes none (R372). (R160, R161, R372) -/
def Obligations.RegulatorsMeter : Prop :=
  ∀ (s : State) (die now p : Nat) (q : RegRequest) (h : Held) (hs : List Held), q.id < 2 ^ 32 → p = partitionOf s q.addr →
    (s.power.clocksOff = true → exec (.regulatorArrival die now q) s = .next s ∧ exec (.regulatorAdmit die p now) s = .next s)
    ∧ (s.power.clocksOff = false → bypasses s q = true ∨ pget s (Reg.rateMbps p) = 0xFFFFFFFF → exec (.regulatorArrival die now q) s = .next (emit s (.reply q.id Code.ok 0)))
    ∧ (s.power.clocksOff = false → bypasses s q = false → pget s (Reg.rateMbps p) ≠ 0xFFFFFFFF → (refill s p now (bucketOf s die p)).fifo = [] →
        1250 * q.bytes ≤ (refill s p now (bucketOf s die p)).tokens.getD 0 →
        exec (.regulatorArrival die now q) s = .next (emit (setBucket s die p { refill s p now (bucketOf s die p) with
          tokens := some ((refill s p now (bucketOf s die p)).tokens.getD 0 - 1250 * q.bytes) }) (.reply q.id Code.ok 0)))
    ∧ (s.power.clocksOff = false → bypasses s q = false → pget s (Reg.rateMbps p) ≠ 0xFFFFFFFF → (refill s p now (bucketOf s die p)).fifo ≠ [] →
        rget s Reg.holdPlaces ≤ (refill s p now (bucketOf s die p)).fifo.length →
        exec (.regulatorArrival die now q) s = .next (emit (rinc (setBucket s die p (refill s p now (bucketOf s die p))) (Reg.refusedRequests p))
          (.reply q.id Code.refusedCap (regNote false true die p))))
    ∧ (s.power.clocksOff = false → (refill s p now (bucketOf s die p)).fifo = h :: hs → h.req.id < 2 ^ 32 → now ≤ h.stamp → pget s (Reg.rateMbps p) ≠ 0xFFFFFFFF →
        1250 * h.req.bytes ≤ (refill s p now (bucketOf s die p)).tokens.getD 0 →
        exec (.regulatorAdmit die p now) s = .next (emit (setBucket s die p { refill s p now (bucketOf s die p) with
          fifo := hs, tokens := some ((refill s p now (bucketOf s die p)).tokens.getD 0 - 1250 * h.req.bytes) }) (.reply h.req.id Code.ok 0)))
    ∧ ((bucketOf s die p).fifo = [h] → h.req.id < 2 ^ 32 → h.stamp + 1250 * rget s Reg.holdLimitUs ≤ now → pget s (Reg.rateMbps p) ≠ 0xFFFFFFFF →
        (refill s p now (bucketOf s die p)).tokens.getD 0 < 1250 * h.req.bytes →
        exec (.regulatorHoldExpiry die p now) s = .next (emit (radd (setBucket (setBucket s die p (refill s p now (bucketOf s die p))) die p
          { refill s p now (bucketOf s die p) with fifo := [] }) (Reg.refusedRequests p) 1) (.reply h.req.id Code.refusedCap (regNote false true die p))))

/-- O29. On an open path with a place free the oldest unsent request takes the next sequence number and tag and enters the router; the first one to a peer carries SYNC and the path is syncing until it is acknowledged; a path that is full sends nothing; a request for which the serving router has no route, and any request of a package with no number, completes with NO_ROUTE; while a swap holds heads that question waits; with the clocks standing none leaves (R372). That a request without a route takes no sequence number is the model’s choice (log 16). (R182, R183, R185, R204, R209, R372) -/
def Obligations.PacketsLeaveInOrder : Prop :=
  ∀ (s : State) (dst : Nat) (u : Unsent) (us : List Unsent), (peerOut s dst).unsent = u :: us →
    let d := peerOut s dst
    let p := u.pkt.stamp d.next s.fabric.nextTag (d.next % 256) (d.state == .unsynced)
    (s.power.clocksOff = true → exec (.packetSend dst) s = .next s)
    ∧ (s.power.clocksOff = false → unassigned s = true → exec (.packetSend dst) s = .next (completeOrigin (setOut s dst { d with unsent := us }) u.origin Code.noRoute 0 0 []))
    ∧ (s.power.clocksOff = false → unassigned s = false → dst ≠ ownChip s → s.router.state = .serving → routeOf s p = .none →
        exec (.packetSend dst) s = .next (completeOrigin (setOut s dst { d with unsent := us }) u.origin Code.noRoute 0 0 []))
    ∧ (s.power.clocksOff = false → unassigned s = false → (dst = ownChip s ∨ s.router.state ≠ .serving ∨ routeOf s p ≠ .none) → d.state = .open → d.sent.length < rget s Reg.maxOutstanding →
        exec (.packetSend dst) s = .next (inject (setOut { s with fabric := { s.fabric with nextTag := (s.fabric.nextTag + 1) % 65536 } } dst
          { d with unsent := us, next := (d.next + 1) % 2 ^ 32, sent := d.sent ++ [⟨d.next, s.fabric.nextTag, u.origin, if p.kind = kRead then p.rlen else 0⟩] }) (originDie s u.origin) p))
    ∧ (s.power.clocksOff = false → unassigned s = false → (dst = ownChip s ∨ s.router.state ≠ .serving ∨ routeOf s p ≠ .none) → d.state = .open → rget s Reg.maxOutstanding ≤ d.sent.length →
        exec (.packetSend dst) s = .next s)
    ∧ (s.power.clocksOff = false → unassigned s = false → (dst = ownChip s ∨ s.router.state ≠ .serving ∨ routeOf s p ≠ .none) → d.state = .unsynced →
        exec (.packetSend dst) s = .next (inject (traceFabric (setOut { s with fabric := { s.fabric with nextTag := (s.fabric.nextTag + 1) % 65536 } } dst
          { d with unsent := us, next := (d.next + 1) % 2 ^ 32, sent := d.sent ++ [⟨d.next, s.fabric.nextTag, u.origin, if p.kind = kRead then p.rlen else 0⟩], state := .syncing }) 1 dst 0 0 d.next 0) (originDie s u.origin) p))

/-- O30. A request of no peer is dropped and counted as foreign; on an open path a well-formed privileged request with the expected sequence number and none held is released and the expected number moves on; the hold of a gap that expires closes the path and drops what it held; an acknowledgement of an outstanding request ends it; an acknowledgement timeout with nothing outstanding does nothing, and with one request outstanding ends it, unsyncs the path and is counted; with the clocks standing no packet arrives (R372). (R184, R186, R187, R188, R410, R372) -/
def Obligations.PacketsArriveInOrder : Prop :=
  ∀ (s : State) (e k us src : Nat) (p : Packet) (o : Outst),
    (s.power.clocksOff = true → exec (.packetArrival e k us p) s = .next s)
    ∧ (s.power.clocksOff = false → p.dst = ownChip s → p.isRequest = true → s.tenancy.vals.peers.contains p.src = false → exec (.packetArrival e k us p) s = .next (rinc s Reg.foreignDrops))
    ∧ (p.dst ≠ ownChip s → exec (.packetArrival e k us p) s = .next s)
    ∧ (s.power.clocksOff = false → p.dst = ownChip s → p.isRequest = true → s.tenancy.vals.peers.contains p.src = true → p.wellFormed = true → p.priv = true → p.sync = false →
        (requestGranules p).all (fun a => a < hbmBytes) = true → (peerIn s p.src).isOpen = true → (peerIn s p.src).held = [] → p.seq = (peerIn s p.src).expected →
        p.seq < 2 ^ 32 → rollingBack s = false →
        exec (.packetArrival e k us p) s = .next (logRequest (setIn s p.src { peerIn s p.src with
          released := (peerIn s p.src).released ++ [{ seq := p.seq, pkt := p, stampUs := us, status := Code.ok, reason := 0, phys := requestGranules p }]
          expected := (p.seq + 1) % 2 ^ 32 }) p))
    ∧ ((peerIn s src).held ≠ [] → exec (.reorderHoldExpiry src) s
        = .next (dropHeld (setIn s src { peerIn s src with held := [], isOpen := false }) src (peerIn s src) (peerIn s src).held.length))
    ∧ ((peerIn s src).held = [] → exec (.reorderHoldExpiry src) s = .next s)
    ∧ (p.kind = kResponse → p.wellFormed = true → (peerOut s p.src).sent.find? (fun o => o.tag == fld p.arg0 31 16 && o.seq == fld p.arg0 63 32) = some o →
        o.origin = .other → p.len = (if fld p.arg0 15 8 = Code.ok then o.rlen else 0) → exec (.ackReceived p) s = .next (setOut s p.src { peerOut s p.src with
          sent := (peerOut s p.src).sent.filter (fun q => q.tag != fld p.arg0 31 16)
          state := if (peerOut s p.src).state = .syncing then .open else (peerOut s p.src).state }))
    ∧ ((peerOut s src).sent = [] → (peerOut s src).state ≠ .syncing → exec (.ackTimeout src) s = .next s)
    ∧ ((peerOut s src).sent = [] → (peerOut s src).state = .syncing → exec (.ackTimeout src) s = .next (setOut s src { peerOut s src with state := .unsynced }))
    ∧ ((peerOut s src).sent = [o] → o.origin = .other → exec (.ackTimeout src) s = .next (traceFabric
        (rinc { setOut s src { peerOut s src with sent := [], state := .unsynced } with fabric :=
          { (setOut s src { peerOut s src with sent := [], state := .unsynced }).fabric with
            out := (setOut s src { peerOut s src with sent := [], state := .unsynced }).fabric.out.map (fun x => (x.1, x.2.forget [.other])) } } Reg.fabricTimeouts) 3 src 0 0 (peerOut s src).next 1))

/-- O31. The oldest released request of a source that no regulator meters is performed and answered; a scheduled block of a receive run whose group is open, which has not landed and which the window check admits, is marked as landed and placed at its handle and offset, and one that the windows refuse is treated as they say; one that belongs to no run of the Last is counted as uncorrectable for its lane, and a second copy of one that has landed, or one of a group that is closed, is counted as a duplicate; with the clocks standing no request takes effect (R372). (R111, R189, R191, R298, R299, R372) -/
def Obligations.RequestsTakeEffectAndBlocksRelease : Prop :=
  ∀ (s : State) (src e k pos sb a : Nat) (h : HeldPkt) (hs : List HeldPkt) (data : List Byte) (r : Run) (x : LaneRun × Nat) (w : TileHead) (s0 : State),
    (s.power.clocksOff = true → exec (.acknowledgement src) s = .next s)
    ∧ (s.power.clocksOff = false → (peerIn s src).released = h :: hs → h.waits = false → meteredAs s src h = none → rollingBack s = false →
        ∃ a, a = performRequest (setIn s src { peerIn s src with released := hs }) h
          ∧ exec (.acknowledgement src) s = .next (respond a.2 h a.1 0))
    ∧ ((peerIn s src).released = [] → exec (.acknowledgement src) s = .next s)
    ∧ (s.last.run = none → exec (.schedBlockRelease e k pos sb data) s = .next (rinc s ((Reg.uncorrectableBlocks e).at k)))
    ∧ (s.last.run = some r → rxRun s r e k pos sb = none → exec (.schedBlockRelease e k pos sb data) s = .next (rinc s ((Reg.uncorrectableBlocks e).at k)))
    ∧ (s.last.run = some r → rxRun s r e k pos sb = some x →
        r.closed.contains (fld x.1.w1 63 58, fld x.1.w1 26 15 + 4096 * (sb / max 1 (beatCount s r.slot r.bucket))) = false →
        (tget? r.rxSeen (rxKey e k pos sb)).isSome = false →
        a = resolve (handleOf s (fld x.1.w1 63 58) (fld x.1.w1 57 50)) (64 * (fld x.1.w1 49 30 + x.2)) →
        w = { src := (lanePartner (lane s e k)).getD 0, addr := a, len := 64, write := true, atomic := false, scheduled := true } →
        s0 = crossIn s (physTile s (fld x.1.w1 63 58)) (e / 4) (data.take 64) → admitted s (fld x.1.w1 63 58) w = true →
        exec (.schedBlockRelease e k pos sb data) s = .next (placeBlock (setRun s0 (fun y => { y with rxSeen := tput y.rxSeen (rxKey e k pos sb) 1 })) (fld x.1.w1 63 58) pos a (transferDue s r x.1 k sb + rxSlack x.1) ((arrivedBeat s e k).map (·.2) == some sb) (data.take 64)))
    ∧ (s.last.run = some r → rxRun s r e k pos sb = some x →
        r.closed.contains (fld x.1.w1 63 58, fld x.1.w1 26 15 + 4096 * (sb / max 1 (beatCount s r.slot r.bucket))) = false →
        (tget? r.rxSeen (rxKey e k pos sb)).isSome = false →
        a = resolve (handleOf s (fld x.1.w1 63 58) (fld x.1.w1 57 50)) (64 * (fld x.1.w1 49 30 + x.2)) →
        w = { src := (lanePartner (lane s e k)).getD 0, addr := a, len := 64, write := true, atomic := false, scheduled := true } →
        s0 = crossIn s (physTile s (fld x.1.w1 63 58)) (e / 4) (data.take 64) → admitted s (fld x.1.w1 63 58) w = false →
        exec (.schedBlockRelease e k pos sb data) s = .next (refuseWindow s0 (fld x.1.w1 63 58) true))
    ∧ (s.last.run = some r → rxRun s r e k pos sb = some x → r.closed.contains (fld x.1.w1 63 58, fld x.1.w1 26 15 + 4096 * (sb / max 1 (beatCount s r.slot r.bucket))) = true →
        exec (.schedBlockRelease e k pos sb data) s = .next (rinc s ((Reg.duplicates e).at k)))
    ∧ (s.last.run = some r → rxRun s r e k pos sb = some x → (tget? r.rxSeen (rxKey e k pos sb)).isSome = true →
        exec (.schedBlockRelease e k pos sb data) s = .next (rinc s ((Reg.duplicates e).at k)))

/-- O32. While the router serves, the oldest new head of an input for this package is delivered once its packet is whole; one from elsewhere that has used its hops is dropped and counted once its packet is whole; a new head, and one that waited and tries again, whose choice is a lane of the slice it stands on is chosen for it, and one whose choice lies on another slice crosses to that slice; one that must wait is marked and tried again later. While a swap holds the router no head moves. A chosen head is granted a free lane buffer of a lane in service on which no fitting pass is due, and where another package sent it the flits of its packet are counted for that source. How a head crosses between slices is the model’s choice (log 71). (R195, R203, R204, R205, R209, R216) -/
def Obligations.RouterServesHeads : Prop :=
  ∀ (s u : State) (port vc cls : Nat) (h : Head) (c : Nat) (e k : Nat) (ch : Chosen), headAt s port vc cls = some h →
    (s.router.state = .serving → h.waited = false → h.pkt.dst = ownChip s → unassigned s = false → h.pkt.whole = true → h.pkt.wellFormed = true →
        exec (.routeHead port vc cls) s = .next (emit (takeHead s h) (.deliver h.pkt)))
    ∧ (s.router.state = .serving → h.waited = false → h.pkt.dst ≠ ownChip s → atSource s h.pkt = false → unassigned s = false → h.pkt.hops = rget s Reg.maxHops →
        h.pkt.whole = true → exec (.routeHead port vc cls) s = .next (rinc (takeHead s h) Reg.hopDrops))
    ∧ (s.router.state = .serving → h.waited = true → h.pkt.dst ≠ ownChip s → unassigned s = false → (atSource s h.pkt = true ∨ h.pkt.hops ≠ rget s Reg.maxHops) →
        routeOf s h.pkt = .take c → physEyelet s (chEyelet c) / 8 = portSlice h.port →
        exec (.routeWaitRetry port vc cls) s = .next { s with router := { s.router with
          waiting := s.router.waiting.erase h
          chosen := s.router.chosen ++ [{ eyelet := physEyelet s (chEyelet c), lane := chLane c, hdr := leaveHeader h.pkt c, head := h }] } })
    ∧ (s.router.state = .serving → h.waited = true → h.pkt.dst ≠ ownChip s → unassigned s = false → (atSource s h.pkt = true ∨ h.pkt.hops ≠ rget s Reg.maxHops) →
        routeOf s h.pkt = .take c → physEyelet s (chEyelet c) / 8 ≠ portSlice h.port →
        exec (.routeWaitRetry port vc cls) s = .next (crossHead s h (physEyelet s (chEyelet c) / 8)))
    ∧ (s.router.state = .serving → h.waited = false → h.pkt.dst ≠ ownChip s → unassigned s = false → (atSource s h.pkt = true ∨ h.pkt.hops ≠ rget s Reg.maxHops) →
        routeOf s h.pkt = .take c → physEyelet s (chEyelet c) / 8 = portSlice h.port →
        exec (.routeHead port vc cls) s = .next { s with router := { s.router with
          waiting := s.router.waiting.erase h
          chosen := s.router.chosen ++ [{ eyelet := physEyelet s (chEyelet c), lane := chLane c, hdr := leaveHeader h.pkt c, head := h }] } })
    ∧ (s.router.state = .serving → h.waited = false → h.pkt.dst ≠ ownChip s → unassigned s = false → (atSource s h.pkt = true ∨ h.pkt.hops ≠ rget s Reg.maxHops) →
        routeOf s h.pkt = .take c → physEyelet s (chEyelet c) / 8 ≠ portSlice h.port →
        exec (.routeHead port vc cls) s = .next (crossHead s h (physEyelet s (chEyelet c) / 8)))
    ∧ (s.router.state = .serving → h.waited = false → h.pkt.dst ≠ ownChip s → unassigned s = false → (atSource s h.pkt = true ∨ h.pkt.hops ≠ rget s Reg.maxHops) →
        routeOf s h.pkt = .wait → exec (.routeHead port vc cls) s = .next (replaceHead s h { h with waited := true }))
    ∧ (s.router.state ≠ .serving → exec (.routeHead port vc cls) s = .next s ∧ exec (.routeWaitRetry port vc cls) s = .next s)
    ∧ (s.router.state = .serving → laneStatus s e k = .inService → ((lane s e k).fitDue = false ∨ lastRunning s = true) → tget 0 s.router.used (bufKey e k vc cls) = 0 →
        tget? s.router.granted (bufKey e k vc cls) = none →
        s.router.chosen.find? (fun c => c.eyelet == e && c.lane == k && c.head.pkt.vc == vc && hdrClass c.hdr == cls) = some ch →
        u = { s with router := { s.router with
          chosen := s.router.chosen.erase ch, granted := tput s.router.granted (bufKey e k vc cls) { head := ch.head, hdr := ch.hdr } } } →
        atSource s ch.head.pkt = true → exec (.headGrant e k vc cls) s = .next u)
    ∧ (s.router.state = .serving → laneStatus s e k = .inService → ((lane s e k).fitDue = false ∨ lastRunning s = true) → tget 0 s.router.used (bufKey e k vc cls) = 0 →
        tget? s.router.granted (bufKey e k vc cls) = none →
        s.router.chosen.find? (fun c => c.eyelet == e && c.lane == k && c.head.pkt.vc == vc && hdrClass c.hdr == cls) = some ch →
        u = { s with router := { s.router with
          chosen := s.router.chosen.erase ch, granted := tput s.router.granted (bufKey e k vc cls) { head := ch.head, hdr := ch.hdr } } } →
        atSource s ch.head.pkt = false → exec (.headGrant e k vc cls) s = .next (radd u (Reg.transitBySource.at ch.head.pkt.src) ch.head.pkt.flits))

/-- O33. While the router serves: route_shadow takes 4,096 entries whole, route_entry takes one entry at the selected index, route_copy copies the active bank, and each is a commit to flash; while it does not, each is refused with ROUTE_BUSY and changes nothing. route_release ends HELD. A swap with a newer shadow generation and no faulty entry starts the drain; a stale generation is refused and noted in swap_result; a drained swap exchanges the banks and their generations, extends the active one and leaves the router serving or, for value 2, held; a drain or a hold that times out returns the router to serving and is noted. (R207, R209, R208, R210) -/
def Obligations.RouteTablesAndSwaps : Prop :=
  ∀ (s : State) (via : Via) (v : Nat) (bs : List Byte),
    (Writable s via 0x2300 4 → bs.length = 32768 → s.router.state = .serving →
        exec (.routeShadowWrite via bs) s = .next (written (flashCommit { s with router := { s.router with shadow := bankOf bs } } .banks) via 0x2300 4 Code.ok))
    ∧ (Writable s via 0x2300 8 → s.router.state = .serving → exec (.routeEntryWrite via v) s = .next (written (flashCommit
        { s with router := { s.router with shadow := tset 0 s.router.shadow (rget s Reg.routeEntrySel) (word v) } } .banks) via 0x2300 8 Code.ok))
    ∧ (Writable s via 0x2300 6 → s.router.state = .serving →
        exec (.routeCopy via 1) s = .next (written (flashCommit { s with router := { s.router with shadow := s.router.active } } .banks) via 0x2300 6 Code.ok))
    ∧ (Writable s via 0x2300 4 → bs.length = 32768 → s.router.state ≠ .serving → exec (.routeShadowWrite via bs) s = .next (answer s via 2 0x2300 4 Code.routeBusy))
    ∧ (Writable s via 0x2300 8 → s.router.state ≠ .serving → exec (.routeEntryWrite via v) s = .next (answer s via 2 0x2300 8 Code.routeBusy))
    ∧ (Writable s via 0x2300 6 → s.router.state ≠ .serving → exec (.routeCopy via 1) s = .next (answer s via 2 0x2300 6 Code.routeBusy))
    ∧ (Writable s via 0x2300 0xA → s.router.state = .held →
        exec (.routeRelease via 1) s = .next (written { s with router := { s.router with state := .serving } } via 0x2300 0xA Code.ok))
    ∧ (Writable s via 0x2300 9 → s.router.state = .serving → newer 16 (rget s Reg.shadowGeneration) (rget s Reg.activeGeneration) = true →
        s.router.shadow.find? (fun e => entryFaulty e.1 e.2) = none →
        exec (.routeSwapRelease via) s = .next (written (unchoose { s with router := { s.router with state := .holding, swapValue := 1 } } (fun _ => true)) via 0x2300 9 Code.ok)
        ∧ exec (.routeSwapHold via) s = .next (written (unchoose { s with router := { s.router with state := .holding, swapValue := 2 } } (fun _ => true)) via 0x2300 9 Code.ok))
    ∧ (Writable s via 0x2300 9 → s.router.state = .serving → newer 16 (rget s Reg.shadowGeneration) (rget s Reg.activeGeneration) = false →
        exec (.routeSwapRelease via) s = .next (answer (rset s Reg.swapResult 2) via 2 0x2300 9 Code.valueRefused)
        ∧ exec (.routeSwapHold via) s = .next (answer (rset s Reg.swapResult 2) via 2 0x2300 9 Code.valueRefused))
    ∧ (s.router.state = .holding → drained s = true → ∃ t, exec .routeSwapExchange s = .next (flashCommit (traceFabric
          (traceGeneration (rset (rinc t Reg.swaps) Reg.swapResult 1) 0 (extend 16 s.router.genExt (rget s Reg.shadowGeneration))) 7 0 0 0 0 0) .banks)
        ∧ t = rset (rset { s with router := { s.router with
            active := s.router.shadow, shadow := s.router.active, genExt := extend 16 s.router.genExt (rget s Reg.shadowGeneration)
            state := if s.router.swapValue = 2 then .held else .serving } } Reg.activeGeneration (rget s Reg.shadowGeneration))
          Reg.shadowGeneration (rget s Reg.activeGeneration))
    ∧ (s.router.state = .holding → drained s = false → exec .routeSwapExchange s = .next s)
    ∧ (s.router.state = .holding → exec .swapDrainTimeout s = .next (rset { s with router := { s.router with state := .serving } } Reg.swapResult 4))
    ∧ (s.router.state = .held → exec .routeHoldExpiry s = .next (rinc { s with router := { s.router with state := .serving } } Reg.holdExpiries))

/-- O34. Two readings above the low threshold class both inputs OK, are kept as the powers and tone depths of the eyelet die beside the transmitted powers and give the log its lowest; an input with fewer than ten readings in a row below the threshold is not lost; one that is lost while it is not selected is LOST and nothing is raised; one that is lost while it is selected is counted and raised with LASER_LOST, and the selector is evaluated: it starts a switch to the other input, or goes dark where that is LOST too; a switch to B that no injection refuses ends on B, is counted, and its lanes go on; a DARK die with an input back starts a switch to it, A before B; laser_revert takes a die from B back to A outside a running Last; laser_select with no Last running switches at once, from A to B and from B to A. (R221, R222, R223, R224, R244) -/
def Obligations.LaserInputsAndSelectors : Prop :=
  ∀ (s : State) (via : Via) (die : Nat) (dep : Nat × Nat) (a b : Int) (tx : List Int) (x : EyeDie), x = eyeDie s die →
    (rgetI s Reg.laserLowCdbm ≤ a → rgetI s Reg.laserLowCdbm ≤ b → x.forced = none →
        ∃ t, exec (.laserMeasurement die a b dep tx) s = .next t
          ∧ t = setEye (rset (rset (rsetI (rsetI (logPower (logPower (txPowers s die tx) die x.seenA a) (8 + die) x.seenB b) (Reg.powerACdbm die) a) (Reg.powerBCdbm die) b)
              (Reg.toneDepthA die) dep.1) (Reg.toneDepthB die) dep.2) die
              (fun y => { y with classA := .ok, belowA := 0, classB := .ok, belowB := 0, seenA := true, seenB := true }))
    ∧ (x.belowA < 10 → exec (.laserInputLost die 0) s = .next s)
    ∧ (10 ≤ x.belowB → x.classB ≠ .lost → x.sel = .onA → x.classA = .ok →
        (eyeDie (setEye s die (fun y => { y with classB := .lost })) die) = { x with classB := .lost } →
        exec (.laserInputLost die 1) s = .next (setEye s die (fun y => { y with classB := .lost })))
    ∧ (10 ≤ x.belowA → x.classA ≠ .lost → x.sel = .onA → exec (.laserInputLost die 0) s = .next (evalSelector (raise
          (rinc (setEye s die (fun y => { y with classA := .lost })) (Reg.laserLostEvents die))
          { code := Code.laserLost, unitKind := 5, unit := die, detail := 0, injected := false }) die))
    ∧ (10 ≤ x.belowB → x.classB ≠ .lost → x.sel = .onB → exec (.laserInputLost die 1) s = .next (evalSelector (raise
          (rinc (setEye s die (fun y => { y with classB := .lost })) (Reg.laserLostEvents die))
          { code := Code.laserLost, unitKind := 5, unit := die, detail := 1, injected := false }) die))
    ∧ (x.sel = .onA → x.classA = .lost → x.classB ≠ .lost → evalSelector s die = startSwitch s die .toB)
    ∧ (x.sel = .onB → x.classB = .lost → x.classA ≠ .lost → evalSelector s die = startSwitch s die .toA)
    ∧ (x.sel = .onA ∨ x.sel = .onB → x.classA = .lost → x.classB = .lost → evalSelector s die = goDark s die)
    ∧ (x.sel = .toB → injectionOn s 3 die = false → ∃ u, exec (.laserSwitchComplete die) s = .next (evalSelector u die)
        ∧ u = (dieLanes die).foldl (fun s l => if (lane s l.1 l.2).switching then setLane s l.1 l.2 (fun y => { y with switching := false }) else s)
          (rinc (setEye s die (fun y => { y with sel := .onB })) (Reg.laserFailovers die)))
    ∧ (x.sel = .dark → x.classA ≠ .lost → exec (.laserDarkRecovery die) s = .next (startSwitch s die .toA))
    ∧ (x.sel = .dark → x.classA = .lost → x.classB ≠ .lost → exec (.laserDarkRecovery die) s = .next (startSwitch s die .toB))
    ∧ (rget s Reg.laserRevert = 1 → x.sel = .onB → x.classA = .ok → lastRunning s = false → exec (.laserRevert die) s = .next (startSwitch s die .toA))
    ∧ (Writable s via (0x2010 + die) 2 → x.classB ≠ .lost → lastRunning s = false →
        exec (.laserSelectReq via die 1) s = .next (written (applySelect (rset s (Reg.laserSelectReq die) 1) die 1) via (0x2010 + die) 2 Code.ok))
    ∧ (x.sel = .onA → applySelect s die 1 = startSwitch s die .toB)
    ∧ (x.sel = .onB → applySelect s die 0 = startSwitch s die .toA)

/-- O35. With no Last, a fitting pass starts on the lane that is next in the round of its die where no pass runs on the die, the lane is not paused and carries nothing and the selector rests; where the selector switches or is dark the pass is deferred and counted; a lane that goes first in its die does not move the round on; while the lane carries a packet the pass is due on it and waits; a die that is busy leaves it; in a Last a pass starts in a window of its lane on the same terms. A sweep that finds both codes sets the rings to them, takes the mean of the temperatures they stand for as that of the eyelet and updates both tables; one that finds none leaves both rings at the codes the pass began from; its check is kept with the phase step and both ends are told to resume; a pass that ends well makes the rings FIT, the table fresh and the age 0. A table older than fit_stale_ms is marked once and TABLE_STALE is raised; a younger one is not. That a DOWN lane keeps its place in the order is the model’s choice (log 72), and so is that an UNFIT ring stays so. A write of 1 to full_search with no Last running starts the search; with one running it is refused and changes nothing; the end of a search builds the table of every ring whose resonance it has found, marks a lane with a ring that has none UNFIT and every other lane NEVER_FIT, saves the calibration set and leaves the search over; a report for an eyelet that is not searched changes nothing. (R216, R230, R231, R233, R234, R235, R236, R239, R240, R241) -/
def Obligations.FittingPassesAndSearches : Prop :=
  ∀ (s : State) (via : Via) (e k age i m f : Nat) (mod flt : RingSweep) (p : FitPass) (ok : Bool) (step ts : Int) (r : Run) (found : List (List (Nat × Nat))),
    (s.last.run = none → s.optics.fits.any (fun f => f.1 / 128 == e / 4) = false → nextFit s (e / 4) = some i → roundLane (e / 4) i = (e, k) →
        (eyeDie s (e / 4)).sel = .onA → (∀ b ∈ laneBuffers e k, tget? s.router.granted b = none) → laneState s e k ≠ .paused →
        exec (.fitPassStart e k) s = .next (beginFit (if fitFirst s (e / 4) i then s else setEye s (e / 4) (fun y => { y with fitNext := (i + 1) % 128 })) e k))
    ∧ (s.last.run = none → s.optics.fits.any (fun f => f.1 / 128 == e / 4) = false → nextFit s (e / 4) = some i → roundLane (e / 4) i = (e, k) →
        (eyeDie s (e / 4)).sel = .onA → (laneBuffers e k).any (fun b => (tget? s.router.granted b).isSome) = true →
        exec (.fitPassStart e k) s = .next (setLane s e k (fun l => { l with fitDue := true })))
    ∧ (s.last.run = none → s.optics.fits.any (fun f => f.1 / 128 == e / 4) = false → nextFit s (e / 4) = some i → roundLane (e / 4) i = (e, k) →
        (eyeDie s (e / 4)).sel ≠ .onA → (eyeDie s (e / 4)).sel ≠ .onB → exec (.fitPassStart e k) s = .next (rinc s Reg.fitDeferrals))
    ∧ (s.last.run = some r → lastRunning s = true → windowOpens s r e k = true → (eyeDie s (e / 4)).sel = .onA → (∀ b ∈ laneBuffers e k, tget? s.router.granted b = none) →
        s.optics.fits.any (fun f => f.1 / 128 == e / 4) = false → laneState s e k = .inService → exec (.fitPassStart e k) s = .next (beginFit s e k))
    ∧ (s.last.run = none → s.optics.fits.any (fun f => f.1 / 128 == e / 4) = true → exec (.fitPassStart e k) s = .next s)
    ∧ (tget? s.optics.fits (laneKey e k) = some p → p.solved = false →
        exec (.fitSolve e k ⟨[]⟩ ⟨[]⟩) s = .next (drive (drive { s with optics := { s.optics with fits := tput s.optics.fits (laneKey e k) { p with
          solved := true, modCode := none, fltCode := none, modLight := false, fltLight := false, modContrast := contrast [], fltContrast := contrast []
          tStarMc := none } } } (modRing e k) p.modP) (fltRing e k) p.fltP))
    ∧ (tget? s.optics.fits (laneKey e k) = some p → p.solved = false → foundCode (rget s Reg.fitSpanCodes) p.modP mod.readings = some m →
        foundCode (rget s Reg.fitSpanCodes) p.fltP flt.readings = some f → mod.readings ≠ [] → flt.readings ≠ [] →
        ts = fround (frac (Config.ringTempMc (modRing e k) m + Config.ringTempMc (fltRing e k) f) 2) →
        ∃ u, u = updateRing (updateRing { s with optics := { s.optics with fits := tput s.optics.fits (laneKey e k) { p with
            solved := true, modCode := some m, fltCode := some f, modLight := true, fltLight := true, modContrast := contrast mod.readings
            fltContrast := contrast flt.readings, tStarMc := some ts } } } (modRing e k) ⟨ts, 1⟩ (some m)) (fltRing e k) ⟨ts, 1⟩ (some f)
          ∧ exec (.fitSolve e k mod flt) s = .next (drive (drive
              (rsetI { u with power := { u.power with tStars := tput u.power.tStars (e / 4) ts } } (Reg.eyeletTempMc e) ts) (modRing e k) m) (fltRing e k) f))
    ∧ (tget? s.optics.fits (laneKey e k) = some p → p.solved = true → p.checked = false → ∃ u, exec (.fitCheckEnd e k ok step) s
          = .next (sendLink (sendLink u e k 5 (at' k 5 0) s.clock.beat.toNat) e (reverseLane e k) 5 (32 + at' k 5 0) s.clock.beat.toNat)
        ∧ u = rset { s with optics := { s.optics with fits := tput s.optics.fits (laneKey e k) { p with
              checked := true, checkOk := ok, phaseStep := clampI (-8) 8 step } } } ((Reg.rxPhase e).at k)
            (((rget s ((Reg.rxPhase e).at k) : Int) + clampI (-8) 8 step) % 64).toNat)
    ∧ (tget? s.optics.fits (laneKey e k) = some p → p.checked = true → fitResult p = 1 → ∃ u record, exec (.fitPassEnd e k) s = .next u
        ∧ u = { closeFit s e k record with optics := { (closeFit s e k record).optics with
            rings := if tget .neverFit (closeFit s e k record).optics.rings (laneKey e k) = .unfit then (closeFit s e k record).optics.rings
              else tput (closeFit s e k record).optics.rings (laneKey e k) .fit
            stale := tdel (closeFit s e k record).optics.stale (laneKey e k)
            ages := tput (closeFit s e k record).optics.ages (laneKey e k) 0 } })
    ∧ (rget s Reg.fitStaleMs < age → tget? s.optics.stale (laneKey e k) = none → exec (.tableStale e k age) s
        = .next (notice { s with optics := { s.optics with stale := tput s.optics.stale (laneKey e k) 1, ages := tput s.optics.ages (laneKey e k) (100 * age) } }
            Code.tableStale 4 (laneUnit s e k) 0))
    ∧ (age ≤ rget s Reg.fitStaleMs → exec (.tableStale e k age) s = .next s)
    ∧ (Writable s via (0x2210 + e) 5 → lastRunning s = false → exec (.fullSearch via e 1) s = .next (written (startSearch s e) via (0x2210 + e) 5 Code.ok))
    ∧ (Writable s via (0x2210 + e) 5 → lastRunning s = true → exec (.fullSearch via e 1) s = .next (answer s via 2 (0x2210 + e) 5 Code.valueRefused))
    ∧ (tget? s.optics.searching e = some 1 → s.reset'.boot = .ready → s.reset'.held = false → ∃ u, exec (.fullSearchDone e found) s = .next (calibSave u)
        ∧ u = (List.range 32).foldl (fun s k =>
            if (assigned found (2 * k)).isNone || (assigned found (2 * k + 1)).isNone then
              (if tget .neverFit s.optics.rings (laneKey e k) = .unfit then s else becomeUnfit s e k)
            else { s with optics := { s.optics with rings := tdel s.optics.rings (laneKey e k) } })
          ((List.range 64).foldl (fun s r =>
            match assigned found r with
            | none => s
            | some c => { s with optics := { s.optics with tables := tput s.optics.tables (64 * e + r) (Config.searchTable (64 * e + r) (min 4095 c)) } })
            { s with optics := { s.optics with searching := tdel s.optics.searching e } }))
    ∧ (tget? s.optics.searching e = none → exec (.fullSearchDone e found) s = .next s)

/-- O36. A lane that is OFF and may train goes to SIGNAL, and the sequence of its sent lane starts at a free value (model's choice, log 73); light of at least −16 dBm takes it to PHASE and is kept; an eye wide enough sets the phase to its middle and takes it to ALIGN, a narrower one ends the try; alignment takes it to ECHO with no echo yet; a request for an echo is answered with its stamp; a reply is kept under its stamp; after 64 of them the flight time and the latency are set and BEACON follows; an ALIGN or an ECHO that times out ends the try, a QUARANTINE that times out and a WAIT that ends start again. (R256, R257, R258) -/
def Obligations.LaneTrainingAdvances : Prop :=
  ∀ (s : State) (e k stamp x y n : Nat) (cdbm : Int) (clean : List Bool) (l : Lane), l = lane s e k →
    (l.train = .off → mayTrain s e k = true → exec (.trainStart e k) s = .next (setLane (trainTo { s with draws := s.draws + 1 } e k .signal) e (reverseLane e k) (fun l => { l with scrTx := prbsStart s.draws })))
    ∧ (l.train = .signal → -1600 ≤ cdbm →
        exec (.signalDetected e k cdbm) s = .next (setLane (rsetI s ((Reg.rxPowerCdbm e).at k) cdbm) e k (fun l => { l with train := .phase })))
    ∧ (l.train = .phase → rget s Reg.minEyeSteps ≤ (eye clean).2 → 0 < (eye clean).2 → exec (.phaseScanDone e k clean) s
        = .next (setLane (rset s ((Reg.rxPhase e).at k) (((eye clean).1 + ((eye clean).2 - 1) / 2) % 64)) e k (fun l => { l with train := .align })))
    ∧ (l.train = .phase → (eye clean).2 < rget s Reg.minEyeSteps → exec (.phaseScanDone e k clean) s = .next (trainFail s e k 2))
    ∧ (l.train = .align → exec (.alignDone e k) s = .next (setLane s e k (fun l => { l with train := .echo, echoes := [], echoNext := 0 })))
    ∧ (l.train = .align → exec (.alignTimeout e k) s = .next (trainFail s e k 3))
    ∧ (l.train = .echo → exec (.echo e k stamp x) s
        = .next (setLane s e (reverseLane e k) (fun l => { l with links := addLink l.links ⟨2, stamp % 64, x % 2 ^ 32, max l.sentAt (4 * s.clock.beat.toNat) + 4⟩ })))
    ∧ (l.train = .echo → stamp < 64 → exec (.echoReply e k stamp x y) s = .next (setLane s e k (fun l => { l with echoes := tput l.echoes stamp (x - y) })))
    ∧ (l.train = .echo → l.echoes.length = 64 → n = leastLatency (twiceMedian (l.echoes.map (·.2))) → rget s ((Reg.laneLatencyBeats e).at k) = 0 → n ≤ 16 →
        exec (.latencySet e k) s = .next (setLane (rset (rset s ((Reg.flightPs e).at k) (twiceMedian (l.echoes.map (·.2)) / 4)) ((Reg.trainedLatency e).at k) n) e k
          (fun l => { l with train := .beacon })))
    ∧ (l.train = .echo → exec (.echoTimeout e k) s = .next (trainFail s e k 4))
    ∧ (l.train = .quarantine → exec (.quarantineTimeout e k) s = .next (laneGo s e k .wait 0))
    ∧ (l.train = .wait → exec (.trainRetry e k) s = .next (setLane s e k (fun l => { l with train := .signal })))

/-- O37. A beacon on a lane in BEACON is kept and checked against the plan, and the accepted beacon on a lane in SERVE changes nothing; a lane that has passed and on which READY went both ways enters SERVE; PAUSE and RESUME of the far transmitter take effect at the next beat on the received lane, those of the own one on the lane they name; a pause of 600 beats takes its link to WAIT; the beacon timer marks a beacon due on a lane in SERVE. A valid plan is committed to flash when no valid one is in force and no Last runs; while one runs the commit is refused and noted. That the first commit has no generation to be newer than is the model’s choice (log 22). (R266, R268, R256, R279, R276) -/
def Obligations.BeaconsPausesAndPlans : Prop :=
  ∀ (s : State) (via : Via) (e k target : Nat) (b : List Word) (l : Lane), l = lane s e k → b.length = 8 →
    (l.train = .beacon → (List.range 8).map (nth b) = b → exec (.beaconReceived e k b) s = .next (checkLane (setLane s e k (fun l => { l with peer := b })) e k))
    ∧ (l.train = .serve → (List.range 8).map (nth b) = b → b = l.accepted → exec (.beaconReceived e k b) s = .next s)
    ∧ (l.train = .beacon → l.cable = cablePass → l.readyRecv = true → (lane s e (reverseLane e k)).readySent = true → bcBuild l.peer = runBuild s →
        exec (.linkReady e k) s = .next (enterServe (setLane s e k (fun l => { l with accepted := l.peer })) e k))
    ∧ (l.train = .beacon → l.readyRecv = false → exec (.linkReady e k) s = .next s)
    ∧ (l.train = .serve → exec (.pause e k 0 target) s = .next (setLane s e k (fun l => { l with rxNext := some true }))
        ∧ exec (.pause e k 1 target) s = .next (setLane s e (target % 32) (fun l => { l with txIdle := true })))
    ∧ (exec (.resume e k 0 target) s = .next (setLane s e k (fun l => { l with rxNext := some false }))
        ∧ exec (.resume e k 1 target) s = .next (setLane s e (target % 32) (fun l => { l with txIdle := false })))
    ∧ (l.rxIgnore = true → l.rxNext = none → l.txIdle = false → exec (.pauseTimeout e k) s = .next (laneGo s e k .wait Code.laneUnavailable))
    ∧ (l.rxIgnore = false → l.rxNext = none → l.txIdle = false → exec (.pauseTimeout e k) s = .next s)
    ∧ ((rxOf s e k).train = .serve → rget s Reg.beaconIntervalUs ≠ 0 → exec (.beaconTimer e k) s = .next (setLane s e k (fun l => { l with beaconDue := true })))
    ∧ (Writable s via 0x2400 2 → lastRunning s = false → planValidNow s = false → planValid s.plan.staged = true →
        exec (.planCommit via 1) s = .next (written (flashCommit (rset (installPlan s s.plan.staged) Reg.commitResult 1) .plan) via 0x2400 2 Code.ok))
    ∧ (Writable s via 0x2400 2 → lastRunning s = true →
        exec (.planCommit via 1) s = .next (answer (rset s Reg.commitResult 4) via 2 0x2400 2 Code.valueRefused))

/-- O38. A lane whose link is OFF sends nothing and one in SIGNAL sends 70 zero bytes; every block sent is XORed with the sequence of its lane, which it moves on, and every block received with that of the received lane; a block that fails to decode on a lane in ECHO is counted as a training block and no more; a block on a lane in WAIT changes nothing. A block that decodes in SERVE is counted where it was corrected, moves the position on and has its control word take effect: an acknowledgement removes the blocks it covers from the sent ones, a NACK queues the replay of its block, a MEND brings a missing block or is counted as a duplicate; its data are handed on as a flit, or as scheduled data at a position that carries them. A block not acknowledged in time is queued for replay and counted, and where none is late nothing happens; a block missing for 32 blocks takes its lane to WAIT with MEND_EXHAUSTED counted; a scheduled block missing at the end of its slack raises MEND_EXHAUSTED and STEP_FAULT once and stays missing until it arrives, and earlier nothing. (R250, R251, R253, R254, R260, R261, R263, R264, R265) -/
def Obligations.LaneBlocksAndMending : Prop :=
  ∀ (s : State) (e k pos bsn sb b : Nat) (w : Nat) (block : List Byte) (x : SentBlock) (m : Missing) (r : Run)
    (u v z : State) (data : List Byte) (ctl : Nat) (c : Bool) (f : Nat),
    ((rxOf s e k).train = .off → exec (.laneBlockSlot e k pos) s = .next s)
    ∧ ((rxOf s e k).train = .signal → exec (.laneBlockSlot e k pos) s = .next (putBlock s e k (pos % 4) (zeros 70)))
    ∧ (outputInvalid s e k = false → putBlock s e k pos block = emit (setLane s e k (fun l => { l with scrTx := prbsNext (lane s e k).scrTx, sentAt := 4 * beatNow s + pos + 1 }))
        (.block e k pos (prbsBlock (lane s e k).scrTx block)))
    ∧ ((lane s e k).train = .echo → (lane s e k).injectBlock = false → decodeBlock (descramble s e k block).1 = none →
        exec (.laneBlockReceived e k block) s = .next (trainingBlock (descramble s e k block).2 e k none false))
    ∧ (trainingBlock s e k none false = countBlock (setLane s e k countTraining) e k none false)
    ∧ ((lane s e k).scrRx = some w → (lane s e k).train ≠ .phase → (lane s e k).train ≠ .align →
        (descramble s e k block).1 = prbsBlock w block ∧ (descramble s e k block).2 = setLane s e k (fun l => { l with scrRx := some (prbsNext w) }))
    ∧ ((lane s e k).train = .wait → exec (.laneBlockReceived e k block) s = .next s)
    ∧ ((lane s e k).train = .serve → (lane s e k).rxSkip = 0 → (lane s e k).injectBlock = false → decodeBlock (descramble s e k block).1 = some (data, ctl, c) →
        ctReserved ctl = false → (lane (servedBlock (descramble s e k block).2 e k (some (data, ctl, c)) false) e k).sealTags = [] →
        exec (.laneBlockReceived e k block) s = .next (servedBlock (descramble s e k block).2 e k (some (data, ctl, c)) false))
    ∧ (bsn = (lane s e k).rxBsn → v = setLane s e k (fun l => nextPosition { l with missing := l.missing.filter (fun m => m.bsn != bsn) }) →
        (lane v e k).rxIgnore = false → u = (if c then rinc v ((Reg.correctedBlocks e).at k) else v) → ctType ctl = 0 → ctHasData ctl = false →
        servedBlock s e k (some (data, ctl, c)) false = onAck u e k (ctSeq ctl))
    ∧ (bsn = (lane s e k).rxBsn → v = setLane s e k (fun l => nextPosition { l with missing := l.missing.filter (fun m => m.bsn != bsn) }) →
        (lane v e k).rxIgnore = false → u = (if c then rinc v ((Reg.correctedBlocks e).at k) else v) → ctType ctl = 1 → ctHasData ctl = false →
        servedBlock s e k (some (data, ctl, c)) false = onCredit u e k (bits ctl 11 10) (bits ctl 9 9) (bits ctl 8 0))
    ∧ (bsn = (lane s e k).rxBsn → v = setLane s e k (fun l => nextPosition { l with missing := l.missing.filter (fun m => m.bsn != bsn) }) →
        (lane v e k).rxIgnore = false → u = (if c then rinc v ((Reg.correctedBlocks e).at k) else v) → ctType ctl = 2 → ctHasData ctl = false →
        servedBlock s e k (some (data, ctl, c)) false = onNack u e k (ctSeq ctl))
    ∧ (bsn = (lane s e k).rxBsn → v = setLane s e k (fun l => nextPosition { l with missing := l.missing.filter (fun m => m.bsn != bsn) }) →
        (lane v e k).rxIgnore = false → u = (if c then rinc v ((Reg.correctedBlocks e).at k) else v) → ctType ctl = 4 →
        servedBlock s e k (some (data, ctl, c)) false = onMend u e k (ctEyelet ctl) (ctSeq ctl) none)
    ∧ (bsn = (lane s e k).rxBsn → v = setLane s e k (fun l => nextPosition { l with missing := l.missing.filter (fun m => m.bsn != bsn) }) →
        (lane v e k).rxIgnore = false → u = (if c then rinc v ((Reg.correctedBlocks e).at k) else v) → ctType ctl = 5 →
        servedBlock s e k (some (data, ctl, c)) false = onMend u e k (ctEyelet ctl) (ctSeq ctl) (some data))
    ∧ (bsn = (lane s e k).rxBsn → v = setLane s e k (fun l => nextPosition { l with missing := l.missing.filter (fun m => m.bsn != bsn) }) →
        (lane v e k).rxIgnore = false → u = (if c then rinc v ((Reg.correctedBlocks e).at k) else v) → ctType ctl < 3 → ctHasData ctl = true → z = onControl u e k ctl data → (lane z e k).train = .serve → schedAtPos z e k (bsn % 4) = none →
        servedBlock s e k (some (data, ctl, c)) false = onFlit z e k bsn data)
    ∧ (bsn = (lane s e k).rxBsn → v = setLane s e k (fun l => nextPosition { l with missing := l.missing.filter (fun m => m.bsn != bsn) }) →
        (lane v e k).rxIgnore = false → u = (if c then rinc v ((Reg.correctedBlocks e).at k) else v) → ctType ctl < 3 → ctHasData ctl = true → z = onControl u e k ctl data → (lane z e k).train = .serve → schedAtPos z e k (bsn % 4) = some sb →
        servedBlock s e k (some (data, ctl, c)) false = onSched z e k bsn sb data)
    ∧ ((lane s e (reverseLane e k)).dropAckUntil ≤ beatNow s → (∀ y ∈ (lane s e (reverseLane e k)).sent, y.ctx = none ∧ y.injected = false) →
        onAck s e k b = setLane s e (reverseLane e k) (fun l => { l with sent := l.sent.filter (fun y => !decide ((b + 256 - y.bsn) % 256 < 128)) }))
    ∧ ((lane s e (reverseLane e k)).sent.find? (fun y => y.bsn == b) = some x → x.replayed = none → onNack s e k b
        = queueReplay s e (reverseLane e k) { eyelet := e, bsn := b, withData := x.dataFlag, data := x.data, injected := x.injected })
    ∧ (f = mendLane s e k pos → 31 < rxAge (lane s f k) b ∨ (lane s f k).missing.find? (fun m => m.bsn == b) = none →
        onMend s e k pos b (some data) = rinc s ((Reg.duplicates f).at k))
    ∧ (f = mendLane s e k pos → rxAge (lane s f k) b ≤ 31 → (lane s f k).missing.find? (fun m => m.bsn == b) = some m → m.injected = false → m.sched = none →
        onMend s e k pos b (some data) = onFlit (setLane s f k (fun l => { l with missing := l.missing.filter (fun y => y.bsn != b) })) f k b data)
    ∧ ((lane s e k).sent.find? (fun x => x.dataFlag && decide (x.replayed.getD x.beat + tripBeats s e k + 2 ≤ beatNow s)
          && !(lane s e k).replays.any (fun y => y.bsn == x.bsn)) = some x → x.injected = false →
        exec (.replayTimeout e k) s = .next (rinc (queueReplay s e k { eyelet := e, bsn := x.bsn, withData := true, data := x.data, injected := false })
          ((Reg.ackTimeouts e).at k)))
    ∧ ((lane s e k).sent = [] → exec (.replayTimeout e k) s = .next s)
    ∧ ((lane s e k).missing.find? (fun m => m.sched.isNone && decide (32 ≤ rxAge (lane s e k) m.bsn)) = some m → m.injected = false →
        exec (.mendExhausted e k) s = .next (laneGo (rinc s ((Reg.mendExhausted e).at k)) e k .wait Code.mendExhausted))
    ∧ ((lane s e k).missing = [] → exec (.mendExhausted e k) s = .next s)
    ∧ (s.last.run = some r → (lane s e k).missing.find? (fun m => m.bsn == bsn && !m.expired) = some m → m.sched = some sb → m.injected = false →
        slackEnd s r e k (bsn % 4) sb = some b → b ≤ nowSched s → ∃ u, exec (.slackExpiry e k bsn) s
          = .next (stepFault (raiseMend u e k bsn (lanePartner (lane s e k)) false) Code.mendExhausted 4 (laneUnit s e k) (lanePartner (lane s e k)) bsn false)
        ∧ u = setLane (rinc s ((Reg.mendExhausted e).at k)) e k (fun l => { l with missing := l.missing.map (fun y => if y.bsn = bsn then { y with expired := true } else y) }))
    ∧ (s.last.run = some r → (lane s e k).missing.find? (fun m => m.bsn == bsn && !m.expired) = some m → m.sched = some sb →
        slackEnd s r e k (bsn % 4) sb = some b → nowSched s < b → exec (.slackExpiry e k bsn) s = .next s)

/-- O39. A LOAD_LAST into a slot that is EMPTY or LOADED, from a 64 B aligned address, with no load under way, takes the energy coefficients and the gap limit of its fitting windows, leaves the slot LOADING and copies the image, request by request as its regulators admit them; one that finds a load under way completes with LAST_BUSY. A load that fetched badly leaves its slot EMPTY and completes with its status, and so does one whose image a poisoned line spoils or a check refuses; one whose image passes every check leaves its slot LOADED with its generation and digest, and completes OK. A LAUNCH of a slot that is EMPTY completes with SLOT_EMPTY, one of a LOADED slot whose checks pass and whose pins are found arms it. last_unload empties a LOADED slot and is refused for any other. That the copy is metered as requests of 64 bytes of the engine that runs the command is the model’s choice (log 59). (R287, R300, R302, R303, R304, R305, R307, R318, R320, R155) -/
def Obligations.LastLoadsLaunchesAndUnloads : Prop :=
  ∀ (s u v w : State) (via : Via) (q id slot b : Nat) (f : Flight) (l : Load) (x : Nat × Breach), u = begun s q id →
    (Begins s q id 1 f → slot = fld (nth f.words 2) 31 28 → (nth f.words 1).toNat % 64 = 0 → clearing u = false →
        (slotState u slot = .empty ∨ slotState u slot = .loaded) → u.last.load = none →
        ∃ v l, v = setSlot { u with last := { u.last with slots := tset {} u.last.slots slot { fitAge := rget u Reg.fitMaxAgeMs } } } slot .loading
          ∧ l = { slot := slot, bytes := fld (nth f.words 2) 63 32, origin := some (q, id), src := (nth f.words 1).toNat, coeffs := u.power.coeffs }
          ∧ exec (.loadLast q id) s = .next (loadGo q id l.requests { v with last := { v.last with load := some l } }))
    ∧ (Begins s q id 1 f → (nth f.words 1).toNat % 64 = 0 → clearing u = false → u.last.load = some l →
        exec (.loadLast q id) s = .next (loadEnd u (some (q, id)) Code.lastBusy 0 (loadDetail 1 0x3F 0) 0))
    ∧ (s.last.load = some l → l.status ≠ Code.ok → exec .loadVerify s = .next (loadEnd
        (setSlot { s with last := { s.last with load := none, slots := tdel s.last.slots l.slot } } l.slot .empty) l.origin l.status l.reason (loadDetail 2 0x3F 0) l.note))
    ∧ (s.last.load = some l → l.status = Code.ok → l.copied < l.size → exec .loadVerify s = .next s)
    ∧ (s.last.load = some l → l.status = Code.ok → l.size ≤ l.copied → poisoned s (slotBase s l.slot) l.bytes = false → firstBreach s l.slot l.bytes = none →
        exec .loadVerify s = .next (loadEnd (setSlot { s with last := { s.last with load := none, slots := tput s.last.slots l.slot {
          state := .loading, gen := generationOf s l.slot, digest := setDigestOf s l.slot, bytes := l.bytes, fitAge := (tget {} s.last.slots l.slot).fitAge } } } l.slot .loaded) l.origin Code.ok 0 0 l.note))
    ∧ (s.last.load = some l → l.status = Code.ok → l.size ≤ l.copied → poisoned s (slotBase s l.slot) l.bytes = true → exec .loadVerify s = .next (loadEnd
        (setSlot { s with last := { s.last with load := none, slots := tdel s.last.slots l.slot } } l.slot .empty) l.origin Code.memPoison 0 (loadDetail 3 0x3F 0) l.note))
    ∧ (s.last.load = some l → l.status = Code.ok → l.size ≤ l.copied → poisoned s (slotBase s l.slot) l.bytes = false → firstBreach s l.slot l.bytes = some x →
        exec .loadVerify s = .next (loadEnd (setSlot { s with last := { s.last with load := none, slots := tdel s.last.slots l.slot } } l.slot .empty) l.origin x.2.1 0
          (loadDetail x.1 x.2.2.1 x.2.2.2) l.note))
    ∧ (s.last.load = none → exec .loadVerify s = .next s)
    ∧ (Begins s q id 2 f → clearing u = false → slotState u (fld (nth f.words 1) 63 60) = .empty →
        exec (.launch q id) s = .next (launchFail u (some (q, id)) Code.slotEmpty 0 0x81 0x3F 0))
    ∧ (Begins s q id 2 f → clearing u = false → slot = fld (nth f.words 1) 63 60 → slotState u slot = .loaded → u.last.run = none → u.clock.refState ≠ .lost →
        pickBucket u slot (fld (nth f.words 1) 59 36) (fld (nth f.words 1) 35 12) = some b → launchChecks u slot b (fld (nth f.words 2) 63 32) = none →
        v = (List.range 64).foldl (fun s t => installImage s slot b t) u → pinAll (pinPages v slot b) v = (.ok w, w) → imagePoisoned u slot b = false → exec (.launch q id) s = .next (arm w
          { slot := slot, bucket := b, s0 := fld (nth f.words 1) 59 36, s1 := fld (nth f.words 1) 35 12, stepCount := fld (nth f.words 2) 63 32, firstStep := fld (nth f.words 2) 31 0, tables := tablesOf u slot b, stagger := rget u Reg.staggerBeats, origin := some (q, id), lead := rget u Reg.startLeadBeats, syncUs := rget u Reg.syncTimeoutUs, bench := u.trace.bench.isSome }))
    ∧ (Writable s via 0x4100 0x10 → slot ≤ 15 → slotState s slot = .loaded → exec (.lastUnload via slot) s
        = .next (written (setSlot { s with last := { s.last with slots := tdel s.last.slots slot } } slot .empty) via 0x4100 0x10 Code.ok))
    ∧ (Writable s via 0x4100 0x10 → slotState s slot ≠ .loaded → exec (.lastUnload via slot) s = .next (answer s via 2 0x4100 0x10 Code.valueRefused))

/-- O40. At a step boundary of a running Last the step number and its extension are set, steps_run counts, what the step before left is forgotten and a snapshot is due. A pace point samples the requests from the mean input power since the one before and counts; when its reduction is in, the agreed stretch applies and rest beats are placed; one that is not in by its application raises STEP_FAULT. After the last schedule beat the slot is ENDING; when no scheduled copy is left, digests are emitted, windows, handles and pins are released and the launch completes. A tile emits its digest at its interval. (R310, R314, R315, R318, R373, R517) -/
def Obligations.StepsRunAndEnd : Prop :=
  ∀ (s : State) (r : Run) (p x tile : Nat) (mw : Int), s.last.run = some r →
    (r.stepDue = true → runState s = .running → ∃ k ext low u, k = (r.firstStep + r.stepIdx) % 2 ^ 32 ∧ ext = extend 32 (rget s Reg.stepNumberExt) k
        ∧ low = nowSched s / max 1 (beatCount s r.slot r.bucket) * max 1 (beatCount s r.slot r.bucket) - max 1 (beatCount s r.slot r.bucket)
        ∧ u = rinc (rset (rset (setRun s (fun y => { y with
            stepIdx := y.stepIdx + 1, stepDue := false, rxSeen := y.rxSeen.filter (fun b => low ≤ b.1 / 4096), closed := y.closed.filter (fun g => low / max 1 (beatCount s r.slot r.bucket) ≤ g.2 / 4096), laceOps := y.laceOps.filter (fun o => o.done.isNone || decide (low ≤ o.issued)) })) Reg.stepNumber k) Reg.stepNumberExt ext) Reg.stepsRun
        ∧ exec .stepStart s = .next (treadLog (snapBoundary u k ext) 6 (ownChip u) 0 ext []))
    ∧ (r.stepDue = false → exec .stepStart s = .next s)
    ∧ (runState s = .running → r.issuing = true → r.pacePending ≠ some (nowSched s) → isPacePoint s r (stepBeat s r) = true → s.trace.digestEvery ≠ 0 →
        capExceeded s (paceMean s mw) = false → ∃ q u, q = sampleRequest (paceRestart s) (rget s Reg.agreedStretch) (paceMean s mw)
          ∧ u = traceMake (setRun (rinc q.2 Reg.pacePoints) (fun y => { y with pacePending := some (nowSched s), paceResult := none, capOver := false, capRaised := false }))
            6 (word (at' q.1.1 16 48 + at' q.1.2.1 16 32 + at' q.1.2.2 16 16 + at' (rget s Reg.agreedStretch) 16 0)) (word (at' (unsigned 32 (fround (paceMean s mw))) 32 32 + at' (rget s Reg.tMaxMc) 32 0))
          ∧ exec (.pacePoint mw) s = .next (schedLaceIssue u r { tile := paceTile, entry := 0, issued := nowSched s, seq := stepBeat s r % 2 ^ 24, lop := 2, ltype := ltU64, set := paceLaceSet s r.slot, held := [(ownChip s, q.1.1)] }))
    ∧ (runState s = .running → r.pacePending = some p → p + paceLag s r.slot ≤ r.sched → r.paceResult = some x → exec .stretchApply s
        = .next (rset (setRun s (fun y => { y with pacePending := none, paceResult := none, rests := restPositions (p + paceLag s r.slot) (nextApplication s r p - (p + paceLag s r.slot)) x })) Reg.agreedStretch x))
    ∧ (runState s = .running → r.pacePending = some p → p + paceLag s r.slot ≤ r.sched → r.paceResult = none →
        exec .stretchApply s = .next (stepFault (setRun s (fun y => { y with pacePending := none })) 0 10 0 none p false))
    ∧ (runState s = .running → totalBeats s r ≤ r.sched → exec .lastEnd s = .next (setSlot (setRun s (fun y => { y with issuing := false })) r.slot .ending))
    ∧ (runState s = .running → r.sched < totalBeats s r → exec .lastEnd s = .next s)
    ∧ (runState s = .ending → schedCopies s = false → ∃ t, exec .endingDone s = .next t ∧ t = endRun (endCleanup (emitDigests s r (totalBeats s r) true)) r {}
        ∧ t.last.run = none)
    ∧ (runState s = .ending → schedCopies s = true → exec .endingDone s = .next s)
    ∧ (runState s = .running → s.trace.digestEvery ≠ 0 → 0 < r.sched → nowSched s % s.trace.digestEvery = 0 → hasStream s r tile = true →
        exec (.digestEmit tile) s = .next (emitDigest s r tile (nowSched s) false))

/-- O41. ENABLE of a DISABLED queue with a valid block, once the package is ready, leaves it IDLE; of a queue with an invalid block it is refused. DISABLE takes an idle queue to DISABLED; RESUME takes a stopped queue with nothing waiting to IDLE; the management ring queue cannot be named by the mailbox. A doorbell on a disabled queue changes nothing; on an idle one it starts the queue, or stops it with QUEUE_OVERFLOW where more commands wait than the ring holds. A draining queue becomes DISABLED when no command is left in flight, and not before. (R324, R325, R326, R327, R352) -/
def Obligations.QueuesMoveBetweenStates : Prop :=
  ∀ (s : State) (via : Via) (q c : Nat), q < 512 →
    (Writable s via 0x4000 4 → s.reset'.boot = .ready → (q ≠ 511 ∨ ∃ n, via = .mgmt n) → (queueOf s q).state = .disabled → blockValid s q = true →
        exec (.queueEnable via q) s = .next (written (setQState s q .idle 0) via 0x4000 4 Code.ok))
    ∧ (Writable s via 0x4000 4 → s.reset'.boot = .ready → (queueOf s q).state = .disabled → blockValid s q = false →
        exec (.queueEnable via q) s = .next (answer s via 2 0x4000 4 Code.valueRefused))
    ∧ (Writable s (.mailbox c) 0x4000 4 → exec (.queueEnable (.mailbox c) 511) s = .next (answer s (.mailbox c) 2 0x4000 4 Code.valueRefused))
    ∧ (Writable s via 0x4000 4 → (q ≠ 511 ∨ ∃ n, via = .mgmt n) → (queueOf s q).state = .idle →
        exec (.queueDisable via q) s = .next (written (setQState (disableWaits s q) q .disabled 0) via 0x4000 4 Code.ok))
    ∧ (Writable s via 0x4000 4 → (q ≠ 511 ∨ ∃ n, via = .mgmt n) → (queueOf s q).state = .stopped → qWaiting s q = 0 →
        exec (.queueResume via q) s = .next (written (setQState s q .idle 0) via 0x4000 4 Code.ok))
    ∧ ((queueOf s q).state = .disabled → exec (.queueDoorbell q) s = .next s)
    ∧ ((queueOf s q).state = .idle → 2 ^ qRingLog s q < qWaiting s q → exec (.queueDoorbell q) s = .next (setQState s q .stopped Code.queueOverflow))
    ∧ ((queueOf s q).state = .idle → 0 < qWaiting s q → qWaiting s q ≤ 2 ^ qRingLog s q →
        exec (.queueDoorbell q) s = .next (refreshQueue (setQState s q .running 0) q))
    ∧ ((queueOf s q).state = .draining → (queueOf s q).flights = [] → exec (.queueDrained q) s = .next (setQState s q .disabled 0))
    ∧ ((queueOf s q).state = .draining → (queueOf s q).flights ≠ [] → exec (.queueDrained q) s = .next s)

/-- O42. The engine takes the command at the front of the ring of the queue whose turn it is, from the ring in memory for a queue of a tenant and from the package’s own ring for the management queue: the head moves on, commands_started counts, the input is logged and the command is in flight with the result its first checks give, a WAIT whose condition holds with its value, and a management command that a sealed package may not take with SEALED_DENIED; a queue whose ring does not read stops. An engine that is stalled, has no clock or no queue to serve, or works during a rollback but in ARMED_REPLAY, starts none. A command with a result leaves a completion record when its ring has room, and waits while it has none. A management command enters the ring of queue 511 and rings it. Where the ring of queue 511 stands is the model’s choice (log 23). (R328, R329, R330, R331, R332, R338, R353, R372, R434, R491) -/
def Obligations.CommandsStartAndComplete : Prop :=
  ∀ (s r : State) (via : Via) (e q id : Nat) (f : Flight) (x : Result) (bs : List Byte) (z : Nat × Nat) (ws : List Word),
    (s.power.stalled = false → s.power.tripped = false → s.power.clocksOff = false → (rollingBack s = false ∨ s.faults.rollback = .armedReplay) → pickQueue s e = some q →
        fetchHead s q = (.ok bs, r) →
        ∃ u v w, u = setQWord { r with queues := { r.queues with
              lastStarted := tput r.queues.lastStarted e q, mgmtRing := if q = 511 then r.queues.mgmtRing.drop 1 else r.queues.mgmtRing } } q 2
            (((qHead r q + 1) % 2 ^ 32) * 2 ^ 32 + qCqTail { r with queues := { r.queues with
              lastStarted := tput r.queues.lastStarted e q, mgmtRing := if q = 511 then r.queues.mgmtRing.drop 1 else r.queues.mgmtRing } } q)
          ∧ v = rinc (modQueue u q (fun x => { x with flights := x.flights ++ [{
              id := qHead r q, words := wordsOf bs 8, beat := u.clock.beat.toNat, result := startResult u q (wordsOf bs 8) }] })) Reg.commandsStarted
          ∧ w = (match startResult u q (wordsOf bs 8) with | none => takePlace v q (qHead r q) (wordsOf bs 8) | some y => countDenied v y.status)
          ∧ exec (.commandStart e) s = .next (refreshQueue (treadLog w 3 (ownChip w) q 0 bs) q))
    ∧ (s.power.stalled = false → s.power.tripped = false → s.power.clocksOff = false → (rollingBack s = false ∨ s.faults.rollback = .armedReplay) → pickQueue s e = some q →
        fetchHead s q = (.error z, r) → exec (.commandStart e) s = .next (setQState r q .stopped z.1))
    ∧ (q ≠ 511 → fetchHead s q = engineRead s q ((qWord s q 3).toNat + 64 * (qHead s q % 2 ^ qRingLog s q)) 64)
    ∧ (s.queues.mgmtRing = bs :: (s.queues.mgmtRing.drop 1) → fetchHead s 511 = (.ok bs, s))
    ∧ (startChecks q ws = none → fld (nth ws 0) 63 56 = 7 → (q ≠ 511 ∨ sealedMode s = false) → startResult s q ws = waitResult s ws)
    ∧ (startChecks 511 ws = none → sealedMode s = true → fld (nth ws 0) 63 56 ∉ [0x10, 0x11, 5, 0xA] → startResult s 511 ws = some { status := Code.sealedDenied })
    ∧ (s.power.stalled = true ∨ s.power.tripped = true ∨ s.power.clocksOff = true → exec (.commandStart e) s = .next s)
    ∧ (rollingBack s = true → s.faults.rollback ≠ .armedReplay → exec (.commandStart e) s = .next s)
    ∧ (pickQueue s e = none → exec (.commandStart e) s = .next s)
    ∧ (s.power.clocksOff = false → flightOf s q id = some f → f.result = some x → qRecords s q < 2 ^ qCqLog s q → exec (.commandComplete q id) s = .next (completeFlight s q f x))
    ∧ (flightOf s q id = some f → f.result = some x → 2 ^ qCqLog s q ≤ qRecords s q → exec (.commandComplete q id) s = .next s)
    ∧ (s.power.clocksOff = true → exec (.commandComplete q id) s = .next s)
    ∧ (Writable s via 0x4000 7 → bs.length = 64 → ∃ u, u = { s with queues := { s.queues with mgmtRing := s.queues.mgmtRing ++ [bs] } }
        ∧ exec (.mgmtCommand via bs) s = .next (written (doorbell (setQWord u 511 0 ((qTail u 511 + 1) % 2 ^ 32)) 511) via 0x4000 7 Code.ok))

/-- O43. A command that begins: COPY and FILL with a misaligned block complete with ALIGN_FAULT, and on a free context for which none waits they start; FENCE completes when nothing before it holds it; SIGNAL adds to its semaphore or sets it, as its SOP says, and completes; WAIT completes with the value that meets its condition, waits on otherwise and completes with WAIT_TIMEOUT when its time is up; a misaligned TIMESTAMP completes with ALIGN_FAULT and an admitted one writes the beat it started in; BARRIER on a set that is not enabled completes with LACE_SET_INVALID, and on an enabled one it enters it, as does a REDUCE_SCALAR of a SUM on UINT64 whose read is admitted. (R333, R337, R338, R350) -/
def Obligations.QueueCommandsAct : Prop :=
  ∀ (s u w : State) (q id v : Nat) (f : Flight), u = begun s q id →
    (Begins s q id 3 f → (nth f.words 1).toNat % 256 = 0 → ctxOf u (ctxKey false false (fld (nth f.words 2) 63 58) (fld (nth f.words 2) 57 56)) = none →
        (tget [] u.stitch.waiting (4 * fld (nth f.words 2) 63 58 + fld (nth f.words 2) 57 56)).head? = some (q, id) → u.power.stalled = false →
        exec (.copy q id) s = .next (startQueueCopy (takeWaiting u (fld (nth f.words 2) 63 58) (fld (nth f.words 2) 57 56))
          (fld (nth f.words 2) 63 58) (fld (nth f.words 2) 57 56) q id))
    ∧ (Begins s q id 4 f → (nth f.words 1).toNat % 256 = 0 → ctxOf u (ctxKey false false (fld (nth f.words 2) 63 58) (fld (nth f.words 2) 57 56)) = none →
        (tget [] u.stitch.waiting (4 * fld (nth f.words 2) 63 58 + fld (nth f.words 2) 57 56)).head? = some (q, id) → u.power.stalled = false →
        exec (.fill q id) s = .next (startQueueCopy (takeWaiting u (fld (nth f.words 2) 63 58) (fld (nth f.words 2) 57 56))
          (fld (nth f.words 2) 63 58) (fld (nth f.words 2) 57 56) q id))
    ∧ (Begins s q id 3 f → (nth f.words 1).toNat % 256 ≠ 0 → exec (.copy q id) s = .next (finish' u q id { status := Code.alignFault }))
    ∧ (Begins s q id 4 f → (nth f.words 1).toNat % 256 ≠ 0 → exec (.fill q id) s = .next (finish' u q id { status := Code.alignFault }))
    ∧ (Begins s q id 5 f → fenceMet u q id = true → exec (.fence q id) s = .next (finish' u q id {}))
    ∧ (Begins s q id 5 f → fenceMet u q id = false → exec (.fence q id) s = .next u)
    ∧ (Begins s q id 6 f → poisoned u (rget u Reg.semBase + 8 * fld (nth f.words 1) 63 52) 8 = false → fld (nth f.words 1) 51 48 = 0 →
        exec (.signal q id) s = .next (finish' (semAdd u (fld (nth f.words 1) 63 52) (nth f.words 2).toNat) q id {}))
    ∧ (Begins s q id 6 f → poisoned u (rget u Reg.semBase + 8 * fld (nth f.words 1) 63 52) 8 = false → fld (nth f.words 1) 51 48 ≠ 0 →
        exec (.signal q id) s = .next (finish' (hbmWrite u (rget u Reg.semBase + 8 * fld (nth f.words 1) 63 52) (leBytes 8 (nth f.words 2).toNat)) q id {}))
    ∧ (Begins s q id 7 f → poisoned u (rget u Reg.semBase + 8 * fld (nth f.words 1) 63 52) 8 = false →
        v = (hbmWord u (rget u Reg.semBase + 8 * fld (nth f.words 1) 63 52)).toNat →
        exec (.wait q id) s = .next (if waitMet (fld (nth f.words 1) 51 48) v (nth f.words 2).toNat = true then finish' u q id { value := v } else u))
    ∧ (flightOf s q id = some f → f.begun = true → f.result = none → fld (nth f.words 0) 63 56 = 7 → fld (nth f.words 1) 31 0 ≠ 0 →
        exec (.waitTimeout q id) s = .next (finish' s q id { status := Code.waitTimeout }))
    ∧ (Begins s q id 0xA f → (nth f.words 1).toNat % 8 = 0 → engineMeter u q id (nth f.words 1).toNat 8 true = (.admitted, w) →
        exec (.timestamp q id) s = .next (timestampWrite w q id 0))
    ∧ (Begins s q id 0xA f → (nth f.words 1).toNat % 8 ≠ 0 → exec (.timestamp q id) s = .next (finish' u q id { status := Code.alignFault }))
    ∧ (Begins s q id 8 f → (laceSet u (fld (nth f.words 1) 63 58)).enabled = true → (laceOpOf u (fld (nth f.words 1) 63 58) q id).isSome = true →
        exec (.barrier q id) s = .next (laceSend u (fld (nth f.words 1) 63 58) q id 0))
    ∧ (Begins s q id 8 f → (laceSet u (fld (nth f.words 1) 63 58)).enabled = false → exec (.barrier q id) s = .next (finish' u q id { status := Code.laceSetInvalid }))
    ∧ (Begins s q id 9 f → (nth f.words 2).toNat % 8 = 0 → (nth f.words 3).toNat % 8 = 0 → fld (nth f.words 1) 57 54 = 1 → fld (nth f.words 1) 53 52 = ltU64 →
        (laceSet u (fld (nth f.words 1) 63 58)).enabled = true → (laceOpOf u (fld (nth f.words 1) 63 58) q id).isSome = true →
        engineMeter u q id (nth f.words 2).toNat (ltBytes ltU64) false = (.admitted, w) →
        exec (.reduceScalar q id) s = .next (laceRead w (fld (nth f.words 1) 63 58) q id 0))

/-- O44. A lace packet from a member for an operation in the set enters it and is logged; one for a set that is not enabled is dropped and counted; the oldest operation of a set that times out ends with LACE_TIMEOUT; the standby Lace unit takes over once and is counted. A valid set is enabled, an invalid one is refused, a set with no operation is disabled. A scheduled lace message with no Last, or one that no run of the Last carries, is counted as uncorrectable; one for a reduction that the Last has issued brings it what it does not hold yet, and one for none raises STEP_FAULT. Bulk mode does nothing while a Last is armed or running, and on sound ranges it runs; with the clocks standing it does nothing (R372). (R340, R342, R344, R347, R350, R351, R372) -/
def Obligations.LaceSetsServe : Prop :=
  ∀ (s : State) (via : Via) (p : Packet) (set e k pos sb src len dst : Nat) (o : LaceOp) (os : List LaceOp) (m : List Word) (r : Run) (c : SchedLace),
    m = wordsOf p.payload 8 → set = lmSet m → set < 64 →
    (p.kind = kLace → p.wellFormed = true → (laceSet s set).enabled = false → exec (.lacePacket p) s = .next (rinc s (Reg.laceDrops set)))
    ∧ (p.kind = kLace → p.wellFormed = true → (laceSet s set).enabled = true → (laceMembers (laceSet s set)).contains (lmSrc m) = true → lmSrc m ≠ ownChip s → lmKind m = 0 →
        (laceSet s set).ops.find? (fun o => o.seq == lmSeq m) = some o → o.held.any (fun h => h.1 == lmSrc m) = false →
        exec (.lacePacket p) s = .next (laceTake (logLace s (lmSrc m) m) set o (lmSrc m) (lmLop m) (lmType m) (nth m 1).toNat))
    ∧ ((laceSet s set).ops = o :: os → exec (.laceTimeout set) s = .next (laceEnd s set o.queue o.id { status := Code.laceTimeout }))
    ∧ (s.queues.laceDie = 0 → exec .laceTakeover s = .next (rinc { s with queues := { s.queues with laceDie := 1 } } Reg.laceTakeovers))
    ∧ (s.queues.laceDie ≠ 0 → exec .laceTakeover s = .next s)
    ∧ (Writable s via (0x4040 + set) 1 → laceSetValid s (laceSet s set) = true →
        exec (.laceEnable via set 1) s = .next (written (setLaceSet s set (fun y => { y with enabled := true })) via (0x4040 + set) 1 Code.ok))
    ∧ (Writable s via (0x4040 + set) 1 → laceSetValid s (laceSet s set) = false →
        exec (.laceEnable via set 1) s = .next (answer s via 2 (0x4040 + set) 1 Code.valueRefused))
    ∧ (Writable s via (0x4040 + set) 1 → laceOutstanding s set = false → isPaceSet s set = false →
        exec (.laceEnable via set 0) s = .next (written (setLaceSet s set (fun y => { y with enabled := false })) via (0x4040 + set) 1 Code.ok))
    ∧ (s.last.run = none → exec (.laceMessageReceived e k pos sb m) s = .next (rinc s ((Reg.uncorrectableBlocks e).at k)))
    ∧ (s.last.run = some r → laceRunAt s r e k pos sb = none → exec (.laceMessageReceived e k pos sb m) s = .next (rinc s ((Reg.uncorrectableBlocks e).at k)))
    ∧ (s.last.run = some r → (laceRunAt s r e k pos sb).isSome = true →
        r.laceOps.find? (fun o => o.set == lmSet m && o.seq == lmSeq m && o.lop == lmLop m && o.ltype == lmType m && decide (o.issued < sb)) = some c →
        exec (.laceMessageReceived e k pos sb m) s = .next (schedLaceCheck
          (modSchedLace s c (fun p => { p with held := p.held ++ (laceBrings s (laceSet s c.set) m).filter (fun b => !c.held.any (fun h => h.1 == b.1)) })) r
          { c with held := c.held ++ (laceBrings s (laceSet s c.set) m).filter (fun b => !c.held.any (fun h => h.1 == b.1)) }))
    ∧ (s.last.run = some r → (laceRunAt s r e k pos sb).isSome = true →
        r.laceOps.find? (fun o => o.set == lmSet m && o.seq == lmSeq m && o.lop == lmLop m && o.ltype == lmType m && decide (o.issued < sb)) = none →
        exec (.laceMessageReceived e k pos sb m) s = .next (stepFault s 0 10 0 (lanePartner (lane s e k)) (lmSeq m) false))
    ∧ (s.power.clocksOff = true → exec (.bulkCopy src false len dst) s = .next s ∧ exec (.bulkDigest src false len dst) s = .next s)
    ∧ (s.power.clocksOff = false → lastArmed s = false → s.queues.bulk = none → 0 < len → len % 65536 = 0 → physRange dst len = true → physRange src len = true →
        (src < hbmBytes → poisoned s src len = false) → exec (.bulkCopy src false len dst) s = .next (bulkRun s { src := src, len := len, dst := dst } false))
    ∧ (lastArmed s = true → exec (.bulkCopy src false len dst) s = .next s ∧ exec (.bulkDigest src false len dst) s = .next s)
    ∧ (s.power.clocksOff = false → lastArmed s = false → s.queues.bulk = none → 0 < len → len % 65536 = 0 → physRange src len = true → (src < hbmBytes → poisoned s src len = false) →
        exec (.bulkDigest src false len dst) s = .next (bulkRun s { digest := true, src := src, len := len, dst := dst % 64 } false))

/-- O45. A snapshot whose writes are all acknowledged completes in snapshot_status, one of whose writes failed raises SNAPSHOT_FAIL, one with writes outstanding goes on. SNAPSHOT streams the covered state and is refused with LAST_BUSY while a Last is armed or running. A write of snapshot_restore from a complete local slot starts a restoration; one that ends well restores the covered state, the step number and its extended value and leaves the package armed for replay, one that ends badly reports its status, and one whose reads are still out goes on. TRY_ON arms one injection; the timer arms the next of its kinds; an injection that is due fires and is counted, and one whose recovery never ends raises TRYON_FAILED. The layout of a slot and the end of a snapshot that cannot be written are the model’s choices (log 27), and so is which status a restore reports (log 46). (R39, R486, R490, R493, R495, R499, R500, R502) -/
def Obligations.SnapshotsAndInjections : Prop :=
  ∀ (s u : State) (via : Via) (q id k kind unit b base n : Nat) (f : Flight) (x : Snap) (i : Injection) (v : List Byte) (h : List Word) (ks : List Nat) (ok : Bool), u = begun s q id →
    (s.faults.snap = some x → x.acks = 0 → x.origin = none → x.status = 0 → exec .snapshotComplete s = .next (rset (hbmWrite (snapEnd s)
        (snapSlotBase s (rget s Reg.localArea) x.step) (bytesOf x.header)) (Reg.snapshotStatus.at x.slot) (2 ^ 63 + x.step % 2 ^ 32)))
    ∧ (s.faults.snap = some x → x.acks = 0 → x.origin = none → x.status ≠ 0 →
        exec .snapshotComplete s = .next (notice (snapEnd s) Code.snapshotFail 0 0 0))
    ∧ (s.faults.snap = some x → ∃ w, w = snapTrace s true ∧ snapEnd s = { w with faults := { w.faults with snap := none } })
    ∧ (s.faults.snap = some x → x.acks ≠ 0 → exec .snapshotComplete s = .next s)
    ∧ (Begins s q id 0x10 f → fld (nth f.words 1) 51 0 % 64 = 0 → lastBusy u = true → exec (.snapshot q id) s = .next (finish' u q id { status := Code.lastBusy }))
    ∧ (Begins s q id 0x10 f → fld (nth f.words 1) 51 0 % 64 = 0 → lastBusy u = false → u.faults.snap = none → fld (nth f.words 1) 63 52 = 0xFFF →
        (fabricTarget u true 0xFFF (fld (nth f.words 1) 51 0 : Int)).isOk = true → k = fld (nth f.words 2) 63 32 → h = snapHeader u k k →
        exec (.snapshot q id) s = .next (snapAck (snapStream (pieceReads (snapOpen u { step := k, slot := 0, origin := some (q, id), header := h, acks := 1 }) (snapPieces u k none))
          (fld (nth f.words 1) 51 0) h (snapPieces u k none)) Code.ok 0))
    ∧ (Writable s via 0x7000 0x12 → v.length = 16 → lastArmed s = false → fld (wordAt v 0) 63 52 = ownChip s →
        restoreSlot s (ownChip s) (wordAt v 1).toNat (fld (wordAt v 0) 31 0) = some b → exec (.snapshotRestore via v) s = .next (written
          (restoreBegin (rset s Reg.restoreStatus 0x100) (fld (wordAt v 0) 31 0) (ownChip s) b) via 0x7000 0x12 Code.ok))
    ∧ (Writable s via 0x7000 0x12 → v.length = 16 → lastArmed s = true →
        exec (.snapshotRestore via v) s = .next (answer s via 2 0x7000 0x12 Code.valueRefused))
    ∧ (s.faults.restore = some (k, unit, base) → s.faults.rollback ≠ .restoring → s.faults.restoreOut = 0 → s.faults.restoreBad = 0 →
        exec (.snapshotRestoreDone true) s = .next (restored (rset { s with faults := { s.faults with peers := [], faultBeat := 0 } } Reg.restoreStatus 0x200) k unit base))
    ∧ (∃ w, w = releaseLaunch (rset (rset (rset (restoreCovered s unit base k) Reg.stepNumber k) Reg.stepNumberExt (copyWord s unit base 1).toNat) Reg.rollbackStep k)
        ∧ restored s k unit base = injectionDone { w with faults := { w.faults with
            rollback := .armedReplay, restore := none, restoreGot := []
            relaunch := if copyWord s unit base 2 = 0 ∧ copyWord s unit base 3 = 0 then none else some (fld (copyWord s unit base 0) 54 51)
            replayPos := copyTreadPos s unit base } } 5 0)
    ∧ (s.faults.restore = some (k, unit, base) → s.faults.rollback ≠ .restoring → s.faults.restoreOut ≠ 0 → exec (.snapshotRestoreDone true) s = .next s)
    ∧ (s.faults.restore = some (k, unit, base) → s.faults.rollback ≠ .restoring → s.faults.restoreOut = 0 → s.faults.restoreBad = 0 →
        exec (.snapshotRestoreDone false) s = .next (rset { s with faults := { s.faults with restore := none, restoreGot := [] } } Reg.restoreStatus (0x200 + Code.memPoison)))
    ∧ (s.faults.restore = some (k, unit, base) → s.faults.rollback ≠ .restoring → s.faults.restoreOut = 0 → s.faults.restoreBad ≠ 0 →
        exec (.snapshotRestoreDone ok) s = .next (rset { s with faults := { s.faults with restore := none, restoreGot := [] } } Reg.restoreStatus (0x200 + s.faults.restoreBad)))
    ∧ (Begins s q id 0x11 f → kind = fld (nth f.words 1) 63 56 → unit = fld (nth f.words 1) 55 40 → injectUnits kind = 0 →
        exec (.tryOn q id) s = .next (finish' u q id { status := Code.reservedSet }))
    ∧ (Begins s q id 0x11 f → kind = fld (nth f.words 1) 63 56 → unit = fld (nth f.words 1) 55 40 → unit < injectUnits kind →
        ((nth f.words 2).toNat = 0 ∨ lastRunning u = true) → exec (.tryOn q id) s = .next (finish' (armInjection u kind unit (nth f.words 2).toNat) q id {}))
    ∧ (rget s Reg.tryonIntervalS ≠ 0 → ks = [1, 2, 3, 4, 5].filter (fun n => (rget s Reg.tryonKinds).testBit (n - 1)) → n = s.faults.tryonNext → ks ≠ [] →
        ∃ kind, ks[n % ks.length]? = some kind
          ∧ exec .tryonTimer s = .next (armInjection { s with faults := { s.faults with tryonNext := n + 1 } } kind (n / ks.length % injectUnits kind) 0))
    ∧ (rget s Reg.tryonIntervalS = 0 → exec .tryonTimer s = .next s)
    ∧ (s.faults.rollback = .none → clearing s = false → s.faults.injects.find? (injectDue s) = some i → exec .tryonInject s = .next (fireInjection
        (rinc { s with faults := { s.faults with injects := { i with fired := true } :: s.faults.injects.erase i } } (Reg.tryonCounts.at (3 * (i.kind - 1)))) i))
    ∧ ((s.faults.injects.filter (·.fired)).getLast? = some i → exec .tryonRecoveryTimeout s = .next (notice
        (rinc { s with faults := { s.faults with injects := s.faults.injects.erase i } } (Reg.tryonCounts.at (3 * (i.kind - 1) + 2)))
        Code.tryonFailed (injectUnit i).1 (injectUnit i).2 i.kind))

/-- O46. A sample updates every tap, keeps the last readings, the input power being voltage times signed current, begins a new activity interval and publishes each rail's code. A tap that reads the open-detect code 3 times becomes SENSE_OPEN once. At a return check a single column that explains a residual out of bounds for 10 checks becomes broken and raises RETURN_BROKEN; in bounds for 1,000 checks no column is; a residual that no one column explains raises SENSE_MISMATCH. A die whose welts are all down is declared dead and raised once; a tile becomes FAILED. A model step takes every node forward from the values before, and every age by one step of 10 µs. A coolant temperature in range is taken and one out of range refused; stale coolant is raised once. A die with one UP port sends one heartbeat through it, and one with none sends nothing. That a sensor’s finding is an operand of its command is the model’s choice (log 9). (R356, R358, R360, R361, R364, R365, R391) -/
def Obligations.SensesAndDies : Prop :=
  ∀ (s : State) (via : Via) (x : Sample) (d c p : Nat) (mc : Int),
    ((∃ t, t = setPower (((List.range dieCount).zip x.taps).foldl (fun s (p : Nat × BitVec 16) => sampleTap s p.1 p.2) s) (fun p => { p with
          activity := [], inHist := (x.inputMv * x.inputMa :: p.inHist).take 100, paceSum := p.paceSum + x.inputMv * x.inputMa, paceCount := p.paceCount + 1, curHist := (x.inputMa :: p.curHist).take 100,
          coreHist := (x.coreMa :: p.coreHist).take 100, railHist := (x.rails :: p.railHist).take 100 })
        ∧ exec (.senseSample x) s = .next (((List.range 9).zip x.rails).foldl (fun s (p : Nat × Nat) => rset s (Reg.railStatus.at p.1) (railCode p.1 p.2)) t)))
    ∧ ((tap s d).isOpen = false → 3 ≤ (tap s d).openRun → ∃ t, t = setTap s d (fun t => { t with isOpen := true, validRun := 0 })
        ∧ exec (.senseOpen d) s = .next (rinc (notice t Code.senseOpen 7 d 0) (Reg.senseEvents.at 0)))
    ∧ ((tap s d).isOpen = true → exec (.senseOpen d) s = .next s)
    ∧ ((tap s d).openRun < 3 → exec (.senseOpen d) s = .next s)
    ∧ ((returnsNow s).inBounds = true → s.power.inRun + 1 < 1000 → exec .returnCheck s = .next (setPower (keepAverages (publishPower s) (returnsNow s) true) (fun p => { p with
          outRun := 0, inRun := s.power.inRun + 1,
          columns := p.columns.map (fun c => (c.1, if c.2.broken then { c.2 with offset := (returnsNow s).off c.1 } else c.2)) })))
    ∧ ((returnsNow s).inBounds = true → 999 ≤ s.power.inRun → ∃ t, exec .returnCheck s = .next t ∧ t.power.columns = [] ∧ t.power.outRun = 0)
    ∧ ((returnsNow s).inBounds = false → 9 ≤ s.power.outRun → returnCandidates s (returnsNow s) = [c] → (column s c).broken = false →
        ∃ t, exec .returnCheck s = .next (rinc (notice t Code.returnBroken 7 (8 * c) c) (Reg.senseEvents.at 1))
          ∧ tget {} t.power.columns c = { broken := true, offset := (returnsNow s).off c })
    ∧ ((returnsNow s).inBounds = false → (∀ c, returnCandidates s (returnsNow s) ≠ [c]) →
        ∃ t, exec .returnCheck s = .next (rinc (notice t Code.senseMismatch 0 0 0) (Reg.senseEvents.at 2)))
    ∧ (72 ≤ d → d < dieCount → (tap s d).dead = false → weltsDown s d = true → dieUsed s d = false → ∃ t, t = notice (setTap s d (fun t => { t with dead := true })) Code.dieDead 7 d 0
        ∧ exec (.dieDead d) s = .next (flashCommit { t with reset' := { t.reset' with marks := { t.reset'.marks with dieDead := true } } } .marks))
    ∧ (d < 72 → (tap s d).dead = false → weltsDown s d = true → dieUsed s d = false →
        exec (.dieDead d) s = .next (setHealth (notice (setTap s d (fun t => { t with dead := true })) Code.dieDead 7 d 0) d .failed))
    ∧ ((tap s d).dead = true ∨ weltsDown s d = false → exec (.dieDead d) s = .next s)
    ∧ (∃ t plate, exec .modelStep s = .next t ∧ t.power.coolantSteps = s.power.coolantSteps + 1
        ∧ plate = fadd (fadd (Frac.ofInt (coolantNow s)) s.power.plateBias) (frac (s.power.inHist.headD 0 * rget s Reg.plateRiseUkPerW) 1000000000)
        ∧ t = { s with optics := { s.optics with ages := s.optics.ages.map (fun a => (a.1, a.2 + 1)) }, power := { s.power with coolantSteps := s.power.coolantSteps + 1, temps := (List.range dieCount).map (fun i => (i, stepNode s plate i)) } })
    ∧ (Writable s via 0x1300 1 → 0 ≤ mc → mc ≤ 70000 → exec (.coolantWrite via mc) s
        = .next (written (setPower (rsetI s Reg.coolantInletTemp mc) (fun p => { p with coolantSteps := 0, coolantStale := false })) via 0x1300 1 Code.ok))
    ∧ (Writable s via 0x1300 1 → (mc < 0 ∨ 70000 < mc) → exec (.coolantWrite via mc) s = .next (answer s via 2 0x1300 1 Code.valueRefused))
    ∧ (s.power.coolantStale = false → exec .coolantStale s
        = .next (rinc (notice (setPower s (fun p => { p with coolantStale := true })) Code.coolantStale 0 0 0) Reg.coolantStaleEvents))
    ∧ (s.power.coolantStale = true → exec .coolantStale s = .next s)
    ∧ (p ∈ weltPorts d → (∀ y ∈ weltPorts d, y ≠ p → (welt s d y).state ≠ .up) → (welt s d p).state = .up →
        exec (.heartbeat d) s = .next (weltSend s d p { vc := 7, head := true, tail := true, valid := true }))
    ∧ ((∀ y ∈ weltPorts d, (welt s d y).state ≠ .up) → exec (.heartbeat d) s = .next s)

/-- O47. A thermal evaluation corrects the model, publishes the temperatures, moves the thermal state to the next one for t_max, sets the period and drives the heaters. thermal_release releases the latch of a package that has cooled in SHUTDOWN for 60 s and restarts it where it has power, and is refused in any other state. Each governor beat sets the ballast for the last measured current and the current the model gives the beat, within its bound, keeps the measured current, and once a tripped package needs no ballast stops its clocks; until 28 beats are kept, a current within the limits raises nothing and one that flows back by more than 5 A raises REVERSE_CURRENT. Outside a Last the stretch request is computed and applied locally. A rail that its last sample finds out of tolerance raises RAIL_FAULT, in a running Last with STEP_FAULT; one within it nothing. (R368, R369, R372, R374, R375, R377, R378, R397) -/
def Obligations.HeatPowerAndCurrent : Prop :=
  ∀ (s u v w : State) (via : Via) (ds : List (Nat × Int)) (js : List Int) (t mw : Int) (m ina rail : Nat) (rev high : Bool) (want b : Frac),
    (u = ds.foldl (fun s x => correctDiode s x.1 x.2) (setPower (s.power.tStars.foldl (fun s x => correctRing s x.1 x.2) s) (fun p => { p with tStars := [] })) →
        js = junctions u → t = (hottest js).2 → v = publishTemps u js →
        w = setPower v (fun p => { p with clearUs := if t < 100000 then (if rgetI s Reg.tMaxMc < 100000 then p.clearUs + rget s Reg.evalPeriodUs else 0) else 0 }) →
        nextThermal s.power.thermal t = s.power.thermal →
        exec (.thermalEval ds) s = .next (driveHeaters (mirrorModel (rset w Reg.evalPeriodUs (evalPeriod t)))))
    ∧ (u = ds.foldl (fun s x => correctDiode s x.1 x.2) (setPower (s.power.tStars.foldl (fun s x => correctRing s x.1 x.2) s) (fun p => { p with tStars := [] })) →
        js = junctions u → t = (hottest js).2 → v = publishTemps u js →
        w = setPower v (fun p => { p with clearUs := if t < 100000 then (if rgetI s Reg.tMaxMc < 100000 then p.clearUs + rget s Reg.evalPeriodUs else 0) else 0 }) →
        nextThermal s.power.thermal t ≠ s.power.thermal →
        exec (.thermalEval ds) s = .next (driveHeaters (mirrorModel (rset (enterThermal w (nextThermal s.power.thermal t)) Reg.evalPeriodUs (evalPeriod t)))))
    ∧ (Writable s via 0x1300 0xE → s.power.thermal = .shutdown → 60000000 ≤ s.power.clearUs →
        u = enterThermal (emit (setPower s (fun p => { p with tripped := false, clocksOff := false, clearUs := 0 })) (.pin 1 true)) (fallState .limit (rgetI s Reg.tMaxMc)) →
        exec (.thermalRelease via 1) s = .next (written (if s.reset'.pwrOk && poweredUp s then warmReset u 4 else u) via 0x1300 0xE Code.ok))
    ∧ (Writable s via 0x1300 0xE → s.power.thermal ≠ .shutdown → exec (.thermalRelease via 1) s = .next (answer s via 2 0x1300 0xE Code.valueRefused))
    ∧ (want = ballast (Frac.ofInt (s.power.measured.headD 0)) (modelCurrent s) →
        b = (if fle want (Frac.ofInt (72 * 1000 * rget s Reg.ballastMaxA)) then want else Frac.ofInt (72 * 1000 * rget s Reg.ballastMaxA)) → s.power.measured.length < 28 →
        rget s Reg.storedBaseMj * 2 * 10 ^ 12 + rget s Reg.storeLNh * m * m ≤ 6 * 10 ^ 15 → (rev = false ∨ ina ≤ 5000) →
        exec (.governorBeat m ina rev) s = .next (setPower s (fun p => { p with ballastMa := b, measured := (m :: p.measured).take 28, clocksOff := p.clocksOff || (p.tripped && b.num == 0) })))
    ∧ (want = ballast (Frac.ofInt (s.power.measured.headD 0)) (modelCurrent s) →
        b = (if fle want (Frac.ofInt (72 * 1000 * rget s Reg.ballastMaxA)) then want else Frac.ofInt (72 * 1000 * rget s Reg.ballastMaxA)) → s.power.measured.length < 28 → lastRunning s = false →
        rget s Reg.storedBaseMj * 2 * 10 ^ 12 + rget s Reg.storeLNh * m * m ≤ 6 * 10 ^ 15 → rev = true → 5000 < ina →
        exec (.governorBeat m ina rev) s = .next (rinc (notice (setPower s (fun p => { p with ballastMa := b, measured := (m :: p.measured).take 28, clocksOff := p.clocksOff || (p.tripped && b.num == 0) }))
          Code.reverseCurrent 0 0 s.clock.beat.toNat) (Reg.governorViolations.at 2)))
    ∧ (lastRunning s = false → capExceeded s (windowMean s mw) = false → exec (.powerWindow mw) s = .next (setPower (sampleRequest s s.power.localX (windowMean s mw)).2
        (fun y => { y with localX := (sampleRequest s s.power.localX (windowMean s mw)).1.1, capOver := false, capRaised := false })))
    ∧ (lastRunning s = false → capExceeded s (windowMean s mw) = true → s.power.capOver = true → s.power.capRaised = false → exec (.powerWindow mw) s = .next (raiseCap
        (setPower (sampleRequest s s.power.localX (windowMean s mw)).2 (fun y => { y with localX := (sampleRequest s s.power.localX (windowMean s mw)).1.1, capOver := true, capRaised := true }))))
    ∧ (lastRunning s = true → exec (.powerWindow mw) s = .next s)
    ∧ (s.reset'.pwrOk = true → rail < 9 → rget s (Reg.railStatus.at rail) = (if high then 2 else 1) → lastRunning s = false → exec (.railFault rail high) s = .next (rinc (notice
        (flashCommit { s with reset' := { s.reset' with marks := { s.reset'.marks with railFault := true } } } .marks) Code.railFault 9 rail 0) (Reg.railFaults.at rail)))
    ∧ (s.reset'.pwrOk = true → rail < 9 → rget s (Reg.railStatus.at rail) = (if high then 2 else 1) → lastRunning s = true → exec (.railFault rail high) s = .next (stepFaultIfRunning (rinc (notice
        (flashCommit { s with reset' := { s.reset' with marks := { s.reset'.marks with railFault := true } } } .marks) Code.railFault 9 rail 0)
          (Reg.railFaults.at rail)) Code.railFault 9 rail 0))
    ∧ (rget s (Reg.railStatus.at rail) ≠ (if high then 2 else 1) → exec (.railFault rail high) s = .next s)

/-- O48. On a welt in service a flit with a good CRC and the next WSEQ is taken, one with a bad CRC is counted and answered with a NAK in an idle flit, one received before is discarded; on a welt out of service every flit is. A NAK makes the sender replay from the flit it names. Training ends UP when at most 4 lanes failed, DEGRADED when at most 32 failed in one half, else DOWN, where a welt whose ends share no revision stays; any other DOWN welt of dies that run retries, one in service on which 16 replays of one flit have failed in a row retrains, with STEP_FAULT while a Last runs. A field test is refused of a tile a Last uses, else the tile is fenced and its welts loop back; when it ends, a passing tile is healthy and its welts retrain, and a failing one is FAILED; in the test of every die the next die’s test follows (log 87). A fence closes the tile's windows. (R388, R389, R392, R393, R394, R407, R478) -/
def Obligations.WeltsTrainAndTest : Prop :=
  ∀ (s : State) (via : Via) (d p failed tile : Nat) (oneHalf : Bool) (f : WeltFlit) (r : SelfTest) (ts : List Nat),
    ((welt s d p).state = .up ∨ (welt s d p).state = .degraded → crc32c (wfBody f.words) = wfCrc f → wfSeq f = (welt s d p).rxSeq →
        exec (.weltFlitReceived d p f) s = .next (weltTake (onWeltAck (setWelt s d p (fun w => { w with rxSeq := ((welt s d p).rxSeq + 1) % 256, naking := false })) d p f) d p f))
    ∧ ((welt s d p).state = .up ∨ (welt s d p).state = .degraded → crc32c (wfBody f.words) ≠ wfCrc f → exec (.weltFlitReceived d p f) s
        = .next (weltSend (setWelt (rinc s (Reg.weltCrcErrors.at (16 * d + p))) d p (fun w => { w with naking := true })) d p {}))
    ∧ (wfNak f = true → wfCrCount f = 0 → (welt s d p).acked = (wfAck f + 1) % 256 → (welt s d p).sent.any (fun y => wfSeq y == (wfAck f + 1) % 256) = true →
        ∃ t, onWeltAck s d p f = weltReplay t d p ((wfAck f + 1) % 256) ∧ (welt t d p).sent = (welt s d p).sent ∧ t.out = s.out)
    ∧ ((welt s d p).state = .up → crc32c (wfBody f.words) = wfCrc f → wfSeq f ≠ (welt s d p).rxSeq → exec (.weltFlitReceived d p f) s = .next s)
    ∧ ((welt s d p).state = .training → exec (.weltFlitReceived d p f) s = .next s)
    ∧ ((welt s d p).state = .training → failed ≤ 4 → exec (.weltTrainingDone d p failed oneHalf false true) s
        = .next (let t := setWeltPair s d p (fun w => { w with state := .up, repaired := failed, replayed := none, failedReplays := 0, fails := 0, noRev := false })
            match weltPartner d p with | some q => weltResume (weltResume t d p) q.1 q.2 | none => t))
    ∧ ((welt s d p).state = .training → 4 < failed → failed ≤ 32 → exec (.weltTrainingDone d p failed true false true) s
        = .next (let t := setWeltPair s d p (fun w => { w with state := .degraded, repaired := 0, replayed := none, failedReplays := 0, fails := 0, noRev := false })
            match weltPartner d p with | some q => weltResume (weltResume t d p) q.1 q.2 | none => t))
    ∧ ((welt s d p).state = .training → (32 < failed ∨ (4 < failed ∧ oneHalf = false)) → exec (.weltTrainingDone d p failed oneHalf false true) s
        = .next (setWeltPair s d p (fun w => { w with state := .down, repaired := 0, replayed := none, failedReplays := 0, fails := w.fails + 1, noRev := false })))
    ∧ ((welt s d p).state = .training → exec (.weltTrainingDone d p failed oneHalf true true) s = .next (setWeltPair s d p (fun w => { w with state := .down, repaired := 0, replayed := none, failedReplays := 0, fails := w.fails + 1, noRev := false })))
    ∧ ((welt s d p).state = .training → exec (.weltTrainingDone d p failed oneHalf false false) s = .next (setWeltPair s d p (fun w => { w with
        state := .down, repaired := 0, replayed := none, failedReplays := 0, fails := w.fails + 1, noRev := true })))
    ∧ ((welt s d p).state = .down → (welt s d p).noRev = true ∨ diesRun s = false → exec (.weltRetry d p) s = .next s)
    ∧ ((welt s d p).state = .down → (welt s d p).noRev = false → diesRun s = true → exec (.weltRetry d p) s = .next (setWeltPair s d p (fun w => { w with state := .training })))
    ∧ ((welt s d p).state ≠ .down → exec (.weltRetry d p) s = .next s)
    ∧ ((welt s d p).state = .up → 16 ≤ (welt s d p).failedReplays → lastRunning s = false → exec (.weltRetrain d p) s = .next (setWeltPair s d p (fun w => { w with state := .training, naking := false })))
    ∧ ((welt s d p).state = .up → 16 ≤ (welt s d p).failedReplays → lastRunning s = true →
        exec (.weltRetrain d p) s = .next (stepFault (setWeltPair s d p (fun w => { w with state := .training, naking := false })) 0 6 (16 * d + p) none 0 false))
    ∧ (Writable s via 0x3020 5 → tile ≤ 71 → s.pkg.testing = none → tileServes s tile = false →
        exec (.weltSelftest via tile) s = .next (written (startSelftest s tile) via 0x3020 5 Code.ok))
    ∧ (Writable s via 0x3020 5 → tileServes s tile = true → exec (.weltSelftest via tile) s = .next (answer s via 2 0x3020 5 Code.valueRefused))
    ∧ (s.pkg.testing = some tile → s.pkg.testNext = [] → s.reset'.boot = .ready → r = ⟨0, false, false, false, false⟩ → ∃ t, exec (.selftestDone r) s = .next (fenceInjectionDone (nextSelftest t))
        ∧ t = (List.range 4).foldl (fun s q => retrainTested s tile q)
            (rset (aliveAgain (testedTile { s with pkg := { s.pkg with testing := none } } tile true .healthy) (· == tile)) Reg.selftestResult (selftestWord tile 1 r)))
    ∧ (s.pkg.testing = some tile → s.reset'.boot = .ready → r.zero = true → ∃ t, exec (.selftestDone r) s = .next (fenceInjectionDone (nextSelftest t))
        ∧ t = (List.range 4).foldl (fun s q => setWeltPair s tile q (fun w => { w with state := .down, naking := false, replayed := none, failedReplays := 0 }))
            (rset (testedTile { s with pkg := { s.pkg with testing := none } } tile false .failed) Reg.selftestResult (selftestWord tile 2 r)))
    ∧ (s.pkg.testNext = [] → s.reset'.boot = .ready → nextSelftest s = s)
    ∧ (s.pkg.testNext = tile :: ts → s.reset'.boot = .dies → nextSelftest s = { s with pkg := { s.pkg with testing := some tile, testNext := ts } })
    ∧ (s.pkg.testing = none → exec (.selftestDone r) s = .next s)
    ∧ (Writable s via 0x3000 8 → tile ≤ 71 → tileServes s tile = false → exec (.tileFenceReq via tile) s = .next (written (fenceTile s tile) via 0x3000 8 Code.ok))
    ∧ (Writable s via 0x3000 8 → (71 < tile ∨ tileServes s tile = true) → exec (.tileFenceReq via tile) s = .next (answer s via 2 0x3000 8 Code.valueRefused))

/-- O49. RST_N on a powered package starts a warm reset that is held until RST_N is released, when the dies start; restart_request does the same by management. A rise of PWR_OK samples the straps, where CARRIER_CAP sets the default of power_cap_w and reserved straps raise STRAP_INVALID, a fall stops the package and marks the next rise POWER; loss of the always-on rails ends in OFF, from which a cold reset leads to ROM. The ROM boots the best accepted image of its two banks, and where neither passes an accepted recovery image that the straps allow, or halts; an accepted image leaves FW_HALT and a rejected one does not (log 52). What manufacture puts in the banks is no value of the spec’s (log 88). DIES leads to the restart boundary after a warm reset and to MEMORY after POWER or COLD; the cleared memory leads to the restart boundary. An overdue bring-up is raised and goes on. exclusion_clear forgets the marks. A flash write that fails is raised. (R464, R396, R399, R400, R416, R467, R468, R469, R474, R476) -/
def Obligations.ResetsAndBringUp : Prop :=
  ∀ (s u : State) (via : Via) (us ms straps slot : Nat) (ok : List Nat) (cs : List (List Byte)) (banks : List FwImage) (img : FwImage) (st : Option Nat),
    (s.reset'.pwrOk = true → poweredUp s = true → s.reset'.held = false → exec .rstN s = .next (warmReset s 2))
    ∧ (s.reset'.held = true → exec .rstN s = .next s)
    ∧ (s.reset'.held = true → exec (.rstNRelease us) s = .next (startDies (rset s Reg.resetWritebackUs us)))
    ∧ (s.reset'.held = false → exec (.rstNRelease us) s = .next s)
    ∧ (Writable s via 0x3000 9 → s.reset'.boot = .ready ∨ s.reset'.boot = .excluded → s.reset'.held = false → exec (.restartRequest via 1) s = .next (written (warmReset s 3) via 0x3000 9 Code.ok))
    ∧ (s.reset'.boot = .waitPower → s.reset'.pwrOk = false → straps < 16 → slot < 64 → ∃ u v, u = keptInstall s (powerState s)
        ∧ v = rset (rset (rset (rset { u with reset' := { u.reset' with
            pwrOk := true, cause := if s.reset'.fell then 1 else s.reset'.cause, full := true, strapBad := straps % 4 == 3 || straps.testBit 3, straps := straps, slotId := slot } }
          Reg.strapValue straps) Reg.slotId slot) Reg.powerUpMs ms) Reg.resetCause (if s.reset'.fell then 1 else s.reset'.cause)
        ∧ exec (.pwrOkRise straps slot ms) s = .next (enterWaitPower (let w := if straps.testBit 2 then rset v Reg.powerCapW 1800 else v
            let x := if straps % 4 = 3 ∨ straps.testBit 3 = true then notice w Code.strapInvalid 0 0 0 else w
            if s.mgmt.linePending = true then emit x (.pin 0 true) else x)))
    ∧ (s.reset'.pwrOk = true → poweredUp s = true → ∃ t, exec .pwrOkFall s = .next t ∧ t.reset'.boot = .waitPower ∧ t.reset'.pwrOk = false ∧ t.reset'.fell = true
        ∧ t = { setPower (clearSwitched s) (fun p => { p with taper := true, discharge := true }) with
            reset' := { (clearSwitched s).reset' with boot := .waitPower, pwrOk := false, held := false, full := true, fell := true, strapBad := false } })
    ∧ (s.reset'.boot ≠ .off → ∃ t, exec .aonPowerLoss s = .next t ∧ t.reset'.boot = .off ∧ t.reset'.pwrOk = false ∧ t.mgmt.linkUp = false ∧ t.mgmt.sessions = [])
    ∧ (s.reset'.boot = .off → exec .coldReset s = .next (rset (freePins s (keptInstall s (coldState s))) Reg.resetCause 0))
    ∧ (s.reset'.boot ≠ .off → exec .coldReset s = .next s)
    ∧ (s.reset'.boot = .rom → u = { s with reset' := { s.reset' with flash := { s.reset'.flash with images := bankImages s (banks.take 2) } } } →
        bootImage s ((bankImages s (banks.take 2)).map (·.2)) = some img → exec (.romBootDone banks cs) s = .next (enterWaitPower (runImage u img cs)))
    ∧ (s.reset'.boot = .rom → u = { s with reset' := { s.reset' with flash := { s.reset'.flash with images := bankImages s (banks.take 2) } } } →
        bootImage s ((bankImages s (banks.take 2)).map (·.2)) = none → recoveryAllowed s = true → bootImage s (banks.drop 2) = some img →
        exec (.romBootDone banks cs) s = .next (enterWaitPower (runImage u img cs)))
    ∧ (s.reset'.boot = .rom → u = { s with reset' := { s.reset' with flash := { s.reset'.flash with images := bankImages s (banks.take 2) } } } →
        bootImage s ((bankImages s (banks.take 2)).map (·.2)) = none → recoveryAllowed s = false ∨ bootImage s (banks.drop 2) = none →
        exec (.romBootDone banks cs) s = .next (setBoot (notice u Code.fwAuthFail 0 0 0) .fwHalt))
    ∧ (s.reset'.boot = .fwHalt → imageOk s img = true → exec (.recoveryImage img cs) s = .next (enterWaitPower (runImage s img cs)))
    ∧ (s.reset'.boot = .fwHalt → imageOk s img = false → exec (.recoveryImage img cs) s = .next s)
    ∧ (s.reset'.boot = .dies → s.reset'.held = false → s.power.tripped = false → weltsSettled s = true → s.reset'.full = false →
        exec (.diesDone ok ms) s = .next (serveMailboxes (restartBoundary (rerunChange s) ok ms)))
    ∧ (s.reset'.boot = .dies → s.reset'.held = false → s.power.tripped = false → weltsSettled s = true → s.reset'.full = true →
        exec (.diesDone ok ms) s = .next (startColdClear (setBoot s .memory)))
    ∧ (s.reset'.boot = .memory → exec (.memoryClearDone us st ok ms) s = .next (serveMailboxes (restartBoundary (endColdClear s us st) ok ms)))
    ∧ (s.reset'.boot = .dies ∨ s.reset'.boot = .memory ∨ s.reset'.boot = .map ∨ ((s.reset'.boot = .rom ∨ s.reset'.boot = .fwHalt ∨ s.reset'.boot = .waitPower) ∧ s.reset'.pwrOk = true) → exec .bringupTimeout s = .next (notice s Code.bringupTimeout 0 0 0))
    ∧ (s.reset'.boot = .ready ∨ s.reset'.boot = .excluded ∨ s.reset'.boot = .off → exec .bringupTimeout s = .next s)
    ∧ (Writable s via 0x3000 0xB → s.reset'.boot = .excluded → exec (.exclusionClear via 1) s = .next (written (flashCommit (aliveAgain { s with
        reset' := { s.reset' with marks := {}, exclusion := 0 } } (fun d => decide (72 ≤ d))) .marks) via 0x3000 0xB Code.ok))
    ∧ (s.reset'.boot ≠ .off → calibNow s ≠ s.reset'.flash.calib → exec (.calibFlashWrite true) s = .next (flashStore s .calib) ∧ exec (.calibFlashWrite false) s = .next (notice s Code.flashFail 0 0 0))

/-- O50. A peer set of an ACTIVE tenancy with no Last armed takes the place of the old one, and sealed lanes whose partner is gone go to WAIT; in any other tenancy it is refused. A change of tenancy starts when its values are valid and no Last is armed, or with FORCE, and completes once the tiles are zeroised and HBM is scrubbed, after a bring-up that has met it, and not before. An accepted image is staged and written to the standby bank, another is REJECTED; activation starts only with a staged image, and its end runs the image, resumes the thermal model from its mirror and ends every session. fw_rollback_commit raises the fused counter to the running SVN. A nonce of 32 bytes is kept and the report for it is built and signed. (R410, R411, R413, R414, R417, R418, R421) -/
def Obligations.TenancyAndFirmware : Prop :=
  ∀ (s : State) (via : Via) (v : List Byte) (c : TenVals) (img : FwImage) (cs : List (List Byte)) (us : Nat),
    (Writable s via 0x5000 5 → v.length = 512 → s.tenancy.state = .active → lastArmed s = false → peersValid s (peersOf v) = true →
        exec (.peerSetWrite via v) s = .next (written (((sealedLanes s).filter (fun l => !(match lanePartner (tget {} s.lanes l) with | some c => (peersOf v).contains c | none => false))).foldl
          (fun s l => laneGo s (l / 32) (l % 32) .wait 0) { s with tenancy := { s.tenancy with vals := { s.tenancy.vals with peers := peersOf v } } }) via 0x5000 5 Code.ok))
    ∧ (Writable s via 0x5000 5 → v.length = 512 → s.tenancy.state ≠ .active → exec (.peerSetWrite via v) s = .next (answer s via 2 0x5000 5 Code.valueRefused))
    ∧ (Writable s via 0x5000 4 → v.length = 520 → clearing s = false → s.tenancy.state ≠ .failed → changeVals s v = some c → lastBusy s = false → lastRunning s = false →
        exec (.tenantChange via v) s = .next (written (flashCommit (runChange s c) .tenancy) via 0x5000 4 Code.ok))
    ∧ (Writable s via 0x5000 4 → v.length = 520 → clearing s = false → s.tenancy.state ≠ .failed → changeVals s v = some c → lastBusy s = true → bit (wordAt v 0) 29 = false →
        exec (.tenantChange via v) s = .next (answer s via 2 0x5000 4 Code.valueRefused))
    ∧ (Writable s via 0x5000 4 → v.length = 520 → clearing s = false → s.tenancy.state ≠ .failed → changeVals s v = some c → lastRunning s = true → bit (wordAt v 0) 29 = true →
        exec (.tenantChange via v) s = .next (written (flashCommit (runChange (stepFault s 0 0 0 none 0 false) c) .tenancy) via 0x5000 4 Code.ok))
    ∧ (s.tenancy.change = some c → clearing s = true → s.tenancy.zeroising = [] → s.tenancy.scrubbing = false →
        (s.reset'.boot = .ready ∨ s.reset'.boot = .excluded) → s.reset'.held = false → ∃ t, exec (.tenantChangeComplete us) s = .next t
        ∧ t = finishChange s c us ∧ t.tenancy.change = none ∧ t.tenancy.vals = c ∧ t.tenancy.state = (if c.id = 0 then .vacant else .active))
    ∧ (s.tenancy.change = none → exec (.tenantChangeComplete us) s = .next s)
    ∧ (s.tenancy.change = some c → s.reset'.held = true ∨ s.tenancy.scrubbing = true ∨ s.tenancy.zeroising ≠ [] → exec (.tenantChangeComplete us) s = .next s)
    ∧ (Writable s via 0x5000 0x1A → s.tenancy.fw ≠ .activating → imageOk s img = true → prefers (runSvn s) (runBuild s) img = true →
        exec (.fwImageStage via img) s = .next (written { s with
          tenancy := { s.tenancy with fw := .staged, stagedImg := some img }
          reset' := { s.reset' with flash := { s.reset'.flash with images := tput s.reset'.flash.images (standbyBank s) img } } } via 0x5000 0x1A Code.ok))
    ∧ (Writable s via 0x5000 0x1A → s.tenancy.fw ≠ .activating → imageOk s img = false →
        exec (.fwImageStage via img) s = .next (answer { s with tenancy := { s.tenancy with fw := .rejected } } via 2 0x5000 0x1A Code.valueRefused))
    ∧ (Writable s via 0x5000 0x1C → lastArmed s = false → clearing s = false → s.tenancy.stagedImg = some img → s.tenancy.fw = .staged →
        exec (.fwActivate via 1) s = .next (written { s with tenancy := { s.tenancy with fw := .activating } } via 0x5000 0x1C Code.ok))
    ∧ (Writable s via 0x5000 0x1C → s.tenancy.stagedImg = none → exec (.fwActivate via 1) s = .next (answer s via 2 0x5000 0x1C Code.valueRefused))
    ∧ (s.tenancy.fw = .activating → s.tenancy.stagedImg = some img → ∃ t, exec (.fwActivationDone cs) s = .next t ∧ t = runImage (endEverySession (resumeMirror s)) img cs
        ∧ t.tenancy.running = some img ∧ t.tenancy.stagedImg = none ∧ t.mgmt.sessions = [])
    ∧ (Writable s via 0x5000 0xA → s.tenancy.fw ≠ .staged → s.tenancy.fw ≠ .activating →
        exec (.fwRollbackCommit via 1) s = .next (written { s with tenancy := { s.tenancy with blown := some (max (fusedNow s) (runSvn s)) } } via 0x5000 0xA Code.ok))
    ∧ (Writable s via 0x5000 0xC → v.length = 32 → exec (.attestNonce via v) s = .next (written { s with tenancy := { s.tenancy with nonce := some v } } via 0x5000 0xC Code.ok))
    ∧ (Writable s via 0x5000 0xC → v.length ≠ 32 → exec (.attestNonce via v) s = .next (answer s via 2 0x5000 0xC Code.lengthMismatch))
    ∧ (s.tenancy.nonce = some v → exec .attestReportReady s = .next { s with tenancy := { s.tenancy with
        nonce := none, report := reportBody s v ++ padTo 96 (Config.sign (sha384 (reportBody s v))) } })
    ∧ (s.tenancy.nonce = none → exec .attestReportReady s = .next s)

/-- O51. An envelope of an image key for this part that unwraps loads its slot, or is deferred where the slot is in use or pending; one for another serial, or that does not unwrap, is KEY_UNWRAP_FAIL; an erased slot is EMPTY; a pending key replaces the old one once the slot has no references, and the requests that waited for it are served. An install into an image slot starts, from an empty slot it ends with KEY_REVOKED, and when its chunks are done it ends, unless a request waits at a regulator. SEAL_START on a sealed link in SERVE takes the session key of the key it names and its salt; a tag is kept for its window; once a window is in whole its tag, if it is the one computed, passes the flits of the window on in order, and a bad one and one that is overdue end the sealing of the lane. Up to four certificates become the anchors, and anything else is refused; clearing them is refused of a session that no anchor vouches for. That a SEAL_START discards the flits whose tag has not come is the model’s choice (log 41). (R422, R423, R425, R426, R428, R431, R433, R436) -/
def Obligations.KeysInstallsAndSeals : Prop :=
  ∀ (s t : State) (via : Via) (v : List Byte) (slot e k w : Nat) (n : Nat × List Byte) (tag : Nat × List Byte) (w0 w1 : Word) (pl : List Word) (i j : Install) (as : List (List Byte)),
    (Writable s via 0x5000 0x11 → v.length = 176 → fld (wordAt v 0) 63 58 = slot → fld (wordAt v 0) 57 56 = 0 → fld (wordAt v 0) 55 0 = 0 → (v.drop 129).take 7 = zeros 7 →
        exec (.keySlotWrite via v) s = .next (match (if (wordAt v 1).toNat = Config.serial then unwrapKey v else none) with
          | none => answer s via 2 0x5000 0x11 Code.keyUnwrapFail
          | some key => if (keySlot s slot).state = .pending ∨ 0 < slotRefs s slot
              then written (setKey s slot (fun k => { k with state := .pending, newPurpose := 0, newKey := padTo 32 key })) via 0x5000 0x11 Code.keyBusyDeferred
              else written (loadKey s slot 0 (padTo 32 key)) via 0x5000 0x11 Code.ok))
    ∧ (Writable s via 0x5000 0x12 → slot ≤ 63 → s.tenancy.install = none → (keySlot s slot).state ≠ .empty → (keySlot s slot).purpose = purposeImage →
        exec (.keySlotErase via slot) s = .next (written { s with tenancy := { s.tenancy with keys := tdel s.tenancy.keys slot } } via 0x5000 0x12 Code.ok))
    ∧ (Writable s via 0x5000 0x12 → 63 < slot → exec (.keySlotErase via slot) s = .next (answer s via 2 0x5000 0x12 Code.valueRefused))
    ∧ ((keySlot s slot).state = .pending → slotRefs s slot = 0 → (keySlot s slot).newPurpose = purposeImage → s.tenancy.install = none → s.mgmt.waiting = [] →
        exec (.pendingKeyReplace slot) s = .next (loadKey s slot purposeImage (keySlot s slot).newKey))
    ∧ ((keySlot s slot).state = .pending → slotRefs s slot = 0 → t = replacePending s slot → exportWaits t = false → exec (.pendingKeyReplace slot) s
        = .next (t.mgmt.waiting.foldl (fun s x => runMgmt s x.1 x.2) { t with mgmt := { t.mgmt with waiting := [] } }))
    ∧ (0 < slotRefs s slot → exec (.pendingKeyReplace slot) s = .next s)
    ∧ (Writable s via 0x5000 0x14 → v.length = 40 → s.tenancy.install = none → fld (wordAt v 0) 57 0 = 0 → (keySlot s (fld (wordAt v 0) 63 58)).state = .loaded →
        (keySlot s (fld (wordAt v 0) 63 58)).purpose = purposeImage → (wordAt v 2).toNat % 64 = 0 → (wordAt v 3).toNat % 64 = 0 → exec (.sealInstall via v) s = .next (written
          (startInstall s { slot := fld (wordAt v 0) 63 58, imageId := (wordAt v 1).toNat, src := (wordAt v 2).toNat, dst := (wordAt v 3).toNat, plain := (wordAt v 4).toNat }) via 0x5000 0x14 Code.ok))
    ∧ (Writable s via 0x5000 0x14 → v.length = 40 → s.tenancy.install = none → fld (wordAt v 0) 57 0 = 0 → (keySlot s (fld (wordAt v 0) 63 58)).state = .empty →
        exec (.sealInstall via v) s = .next (written (rset s Reg.installStatus (installWord 2 Code.keyRevoked 0)) via 0x5000 0x14 Code.ok))
    ∧ (s.tenancy.install = some i → i.waiting = false → i.held = false → t = installGo (chunkCount i.plain) i.requests s →
        t.tenancy.install = some j → j.held = false →
        exec .installDone s = .next (endInstall t j))
    ∧ (s.tenancy.install = some i → i.waiting = false → i.held = false → t = installGo (chunkCount i.plain) i.requests s →
        t.tenancy.install = some j → j.held = true →
        exec .installDone s = .next t)
    ∧ (s.tenancy.install = some i → (i.waiting = true ∨ i.held = true) → exec .installDone s = .next s)
    ∧ (s.tenancy.install = none → exec .installDone s = .next s)
    ∧ (fld (nth pl 0) 63 56 = 2 → (lane s e k).train = .serve → laneSealed s (lane s e k) = true →
        exec (.sealStart e k pl) s = .next (takeSeal
          (setLane s e k (fun l => { l with sealPos := 0, sealIn := 0, sealHeld := [], sealRxWin := [], sealTags := [], sealRaw := [] })) e k
          (wordAt (bytesOf pl) 1).toNat (((bytesOf pl).drop 16).take 16)))
    ∧ ((lane s e k).train ≠ .serve → exec (.sealStart e k pl) s = .next s)
    ∧ (fld w0 63 56 = 3 → (lane s e k).sealRx = some n → w = w1.toNat → (lane s e k).sealPos ≤ w →
        exec (.sealTag e k w0 w1 pl) s = .next (sealCheck sealFuel (setLane s e k (fun l => { l with sealTags := l.sealTags ++ [(w, (bytesOf pl).take 16)] })) e k))
    ∧ ((lane s e k).sealRx = none → exec (.sealTag e k w0 w1 pl) s = .next s)
    ∧ ((lane s e k).sealRx = some n → (lane s e k).sealTags.find? (fun x => x.1 == (lane s e k).sealPos) = some tag → 256 * ((lane s e k).sealPos + 1) ≤ (lane s e k).sealIn →
        (lane s e k).missing = [] →
        sealCheck sealFuel s e k =
          if windowTag n.2 (lane s e k).sealPos (((lane s e k).sealRxWin.filter (fun y => y.1 / 256 == (lane s e k).sealPos)).map (fun y => (y.1 % 256, y.2.1))) = tag.2
          then sealCheck (sealFuel - 1) (passWindow s e k (lane s e k).sealPos) e k else sealFail s e k (lane s e k).sealPos)
    ∧ ((lane s e k).sealRx = some n → (lane s e k).sealIn < 256 * ((lane s e k).sealPos + 1) → sealCheck sealFuel s e k = s)
    ∧ ((lane s e k).sealRx.isSome = true → w = (lane s e k).sealPos → 256 * (w + 3) ≤ (lane s e k).sealIn → exec (.sealTagTimeout e k w) s = .next (sealFail s e k w))
    ∧ ((lane s e k).sealIn < 256 * (w + 3) ∨ w ≠ (lane s e k).sealPos → exec (.sealTagTimeout e k w) s = .next s)
    ∧ (Writable s via 0x5000 0x16 → as.length ≤ 4 → as ≠ [] →
        exec (.mgmtAnchorsWrite via as) s = .next (if as.all Config.isCertificate = true
          then written (flashCommit { s with tenancy := { s.tenancy with anchors := as } } .anchors) via 0x5000 0x16 Code.ok else answer s via 2 0x5000 0x16 Code.valueRefused))
    ∧ (Writable s via 0x5000 0x16 → anchoredVia s via = false → exec (.mgmtAnchorsWrite via []) s = .next (answer s via 2 0x5000 0x16 Code.valueRefused))

/-- O52. A request with an error of its own is answered with it; one whose identifier was answered before gets that response again, and a stale one STALE_REQUEST. READ answers the value and clears an RC entry, VALUE_TOO_LARGE above 1,024 bytes; WRITE writes the value and answers its status; DESCRIBE answers the descriptor and the name; OPEN_READ opens a session on a copy of the value and OPEN_WRITE one with an empty buffer; a source at its limit of sessions gets SESSION_BUSY. A READ or OPEN_READ of mem_read_data is served alike. A read of tread_export_chunk that waits for its key is held, and what else its session asks goes on (model’s choice, log 92). (R423, R440, R447, R448, R449, R450, R451, R452, R457) -/
def Obligations.RequestsAreServed : Prop :=
  ∀ (s : State) (via : Via) (m : Kdp) (e : Entry) (bs : List Byte) (n : Nat) (o : Out), findEntry m.index m.sub = some e →
    (Requested s via m kindRead → entryStatus s via m.index m.sub 0 = Code.ok → readValue s via e m.index = (Code.ok, bs) → askedBytes s via e (Code.ok, bs) ≤ 1024 →
        exec (.read via m) s = .next (responded via m { respOf m Code.ok with pending := isPending s e m.index, value := bs } (clearRead s e m.index)))
    ∧ (Requested s via m kindRead → entryStatus s via m.index m.sub 0 = Code.ok → 1024 < askedBytes s via e (readValue s via e m.index) →
        exec (.read via m) s = .next (responded via m (respOf m Code.valueTooLarge) s))
    ∧ (Requested s via m kindRead → entryStatus s via m.index m.sub 0 ≠ Code.ok →
        exec (.read via m) s = .next (responded via m (respOf m (entryStatus s via m.index m.sub 0)) (countDenied s (entryStatus s via m.index m.sub 0))))
    ∧ (Requested s via m kindWrite → entryStatus s via m.index m.sub 1 = Code.ok → lengthOk e m.data.length = true → unclaimedRefusal s via m.index m.sub = false →
        (writeEntry via e m.index m.data s).1 = Code.ok →
        exec (.write via m) s = .next (responded via m (respOf m Code.ok) (logMailboxWrite (writeEntry via e m.index m.data s).2 via)))
    ∧ (Requested s via m kindWrite → entryStatus s via m.index m.sub 1 = Code.ok → lengthOk e m.data.length = false →
        exec (.write via m) s = .next (responded via m (respOf m Code.lengthMismatch) s))
    ∧ (Requested s via m kindDescribe → entryStatus s via m.index m.sub 4 = Code.ok → exec (.describe via m) s
        = .next (responded via m { respOf m Code.ok with value := bytesOf [descriptor e m.index] ++ ascii e.name } s))
    ∧ (Requested s via m kindOpenRead → entryStatus s via m.index m.sub 2 = Code.ok → openCount s via < openLimit via → readValue s via e m.index = (Code.ok, bs) →
        ∃ u, u = openSeg (clearRead s e m.index) (fun id => { id := id, via := via, key := entryKey m.index m.sub, write := false, count := bs.length, data := bs })
          ∧ exec (.openRead via m) s = .next (responded via m { respOf m Code.ok with pending := isPending s e m.index, session := u.1, count := bs.length, crc := crc32c bs } u.2))
    ∧ (Requested s via m kindOpenWrite → entryStatus s via m.index m.sub 3 = Code.ok → openCount s via < openLimit via → lengthOk e m.count = true →
        unclaimedRefusal s via m.index m.sub = false → ∃ u, u = openSeg s (fun id => { id := id, via := via, key := entryKey m.index m.sub, write := true, count := m.count })
          ∧ exec (.openWrite via m) s = .next (responded via m { respOf m Code.ok with session := u.1 } u.2))
    ∧ (Requested s via m kindOpenWrite → entryStatus s via m.index m.sub 3 = Code.ok → openLimit via ≤ openCount s via →
        exec (.openWrite via m) s = .next (responded via m (respOf m Code.sessionBusy) s))
    ∧ (Requested s via m kindRead → m.index = 0x7180 → m.sub = 3 → entryStatus s via m.index m.sub 0 = Code.ok → readValue s via e m.index = (Code.ok, bs) →
        askedBytes s via e (Code.ok, bs) ≤ 1024 → exec (.memReadData via m) s
          = .next (responded via m { respOf m Code.ok with pending := isPending s e m.index, value := bs } (clearRead s e m.index)))
    ∧ (Requested s via m kindOpenRead → m.index = 0x7180 → m.sub = 3 → entryStatus s via m.index m.sub 2 = Code.ok → openCount s via < openLimit via →
        readValue s via e m.index = (Code.ok, bs) →
        ∃ u, u = openSeg (clearRead s e m.index) (fun id => { id := id, via := via, key := entryKey m.index m.sub, write := false, count := bs.length, data := bs })
          ∧ exec (.memReadData via m) s = .next (responded via m { respOf m Code.ok with pending := isPending s e m.index, session := u.1, count := bs.length, crc := crc32c bs } u.2))
    ∧ (viaOpen s (.mgmt n) = true → m.kind = kindRead → messageError m = Code.ok → reqSeen (tget {} s.mgmt.sessions n) m.reqId = .run → waitsExport s m = true →
        exec (.read (.mgmt n) m) s = .next { s with mgmt := { s.mgmt with waiting := s.mgmt.waiting ++ [(n, m)] } })
    ∧ (viaOpen s via = true → m.kind = kindRead → m.rev ≠ 1 → exec (.read via m) s = .next (emit s (.kdp via (respOf m Code.versionUnsupported))))
    ∧ (viaOpen s (.mgmt n) = true → m.kind = kindRead → messageError m = Code.ok → reqSeen (tget {} s.mgmt.sessions n) m.reqId = .again o → exec (.read (.mgmt n) m) s = .next (emit s o))
    ∧ (viaOpen s (.mgmt n) = true → m.kind = kindWrite → messageError m = Code.ok → reqSeen (tget {} s.mgmt.sessions n) m.reqId = .stale →
        exec (.write (.mgmt n) m) s = .next (emit s (.kdp (.mgmt n) (respOf m Code.staleRequest))))
    ∧ (viaOpen s (.mgmt n) = false → m.kind = kindWrite → exec (.write (.mgmt n) m) s = .next (rinc s Reg.dtlsFailures))

/-- O53. SEG_READ answers the segment of the copy it names; SEG_WRITE places a segment, answers how many are missing and, when all are there and FINAL has come with the right CRC, writes the entry and answers COMMITTED; a wrong CRC or a malformed segment aborts the session. CLOSE and a timeout abandon a session; a request that names no open session is SESSION_ABORTED. A doorbell serves a channel whose request sequence differs from its response sequence: the request runs, its response stands in the channel, and it is counted; with none waiting, or before READY, only the ringing chip is recorded. (R450, R451, R452, R453, R454, R455) -/
def Obligations.SessionsMoveSegments : Prop :=
  ∀ (s u : State) (via : Via) (m q : Kdp) (g h : Seg) (c chip a n : Nat), s.reset'.held = false → clearing s = false →
    (Requested s via m kindSegRead → s.mgmt.segs.find? (fun g => g.id == m.session && g.via == via) = some g → g.write = false → m.segment < segCount g.count →
        exec (.segRead via m) s = .next (responded via m { segResp m Code.ok with value := (g.data.drop (1024 * m.segment)).take 1024 } s))
    ∧ (Requested s via m kindSegRead → s.mgmt.segs.any (fun g => g.id == m.session) = false →
        exec (.segRead via m) s = .next (responded via m (abortedResp m (tget 0 s.mgmt.aborted m.session)) s))
    ∧ (Requested s via m kindSegWrite → s.mgmt.segs.find? (fun g => g.id == m.session && g.via == via) = some g → g.write = true → m.segment < segCount g.count →
        m.data.length = segBytes g.count m.segment → m.final = false → g.crc = none → exec (.segWrite via m) s = .next (responded via m
          { segResp m Code.ok with count := segCount g.count - (tput g.segs m.segment m.data).length } { s with mgmt := { s.mgmt with
            segs := s.mgmt.segs.map (fun x => if x.id = g.id then { g with segs := tput g.segs m.segment m.data } else x) } }))
    ∧ (Requested s via m kindSegWrite → s.mgmt.segs.find? (fun g => g.id == m.session && g.via == via) = some g → g.write = true → m.segment + 1 = segCount g.count →
        m.data.length = segBytes g.count m.segment → m.final = true → segCount g.count = (tput g.segs m.segment m.data).length →
        h = { g with segs := tput g.segs m.segment m.data, crc := some m.crc } →
        u = { s with mgmt := { s.mgmt with segs := s.mgmt.segs.map (fun x => if x.id = g.id then h else x) } } →
        crc32c h.buffer = m.crc → exec (.segWrite via m) s = .next (responded via m
          { segResp m (writeValue (dropSeg u g.id) via (g.key / 256) (g.key % 256) h.buffer true).1 with committed := true }
          (writeValue (dropSeg u g.id) via (g.key / 256) (g.key % 256) h.buffer true).2))
    ∧ (Requested s via m kindSegWrite → s.mgmt.segs.find? (fun g => g.id == m.session && g.via == via) = some g → g.write = true → m.segment + 1 = segCount g.count →
        m.data.length = segBytes g.count m.segment → m.final = true → segCount g.count = (tput g.segs m.segment m.data).length →
        h = { g with segs := tput g.segs m.segment m.data, crc := some m.crc } →
        u = { s with mgmt := { s.mgmt with segs := s.mgmt.segs.map (fun x => if x.id = g.id then h else x) } } →
        crc32c h.buffer ≠ m.crc → exec (.segWrite via m) s = .next (responded via m (abortedResp m reasonCrc) (abandonSeg u g.id reasonCrc)))
    ∧ (Requested s via m kindSegWrite → s.mgmt.segs.find? (fun g => g.id == m.session && g.via == via) = some g → g.write = true → segCount g.count ≤ m.segment →
        exec (.segWrite via m) s = .next (responded via m (abortedResp m reasonMalformedSeg) (abandonSeg s g.id reasonMalformedSeg)))
    ∧ (Requested s via m kindClose → s.mgmt.segs.find? (fun g => g.id == m.session && g.via == via) = some g →
        exec (.close via m) s = .next (responded via m (segResp m Code.ok) (abandonSeg s g.id reasonClosed)))
    ∧ (s.mgmt.segs.any (fun g => g.id == n) = true → exec (.sessionTimeout n) s = .next (abandonSeg s n reasonTimeout))
    ∧ (s.mgmt.segs.any (fun g => g.id == n) = false → exec (.sessionTimeout n) s = .next s)
    ∧ (c < 8 → s.reset'.boot ≠ .off → s.reset'.boot ≠ .ready →
        exec (.mailboxDoorbell c chip) s = .next { s with mgmt := { s.mgmt with mailboxChip := tput s.mgmt.mailboxChip c (chip % 4096) } })
    ∧ (viaOpen s (.mailbox c) = true → a = rget s Reg.mailboxBase + 8192 * c → fld (hbmWord s a) 31 0 = fld (hbmWord s (a + 8)) 31 0 →
        exec (.mailboxDoorbell c chip) s = .next { s with mgmt := { s.mgmt with mailboxChip := tput s.mgmt.mailboxChip c (chip % 4096) } })
    ∧ (viaOpen s (.mailbox c) = true → a = rget s Reg.mailboxBase + 8192 * c → fld (hbmWord s a) 31 0 ≠ fld (hbmWord s (a + 8)) 31 0 → q = kdpOf (mailboxMessage s c) → messageError q = Code.ok →
        ∃ u r, u = hbmWrite { s with mgmt := { s.mgmt with mailboxChip := tput s.mgmt.mailboxChip c (chip % 4096) } } (a + 8) (leBytes 8 (at' chip 12 52 + fld (hbmWord s (a + 8)) 51 0))
          ∧ r = runKind u (.mailbox c) q ∧ exec (.mailboxDoorbell c chip) s = .next (rinc (hbmWrite (hbmWrite (emit r.2 (.kdp (.mailbox c) r.1)) (a + 4096) (respBytes r.1))
            (a + 8) (leBytes 4 (fld (hbmWord s a) 31 0))) Reg.mailboxRequests))

/-- O54. alert_ack clears the bits it names and, when none is left, ends the period on the line; a value with a reserved bit is refused. A sample of a line that has been high long enough starts a pending period when one is wanted; a period with no bit left, or at its longest, ends. A stuck line is raised once and disables the line until it is enabled again. NOTIFY goes to every open session while a bit is set, with its header and its 16 data bytes. The link comes up, a client that is let in gets the lowest free session, loss of synchronisation ends every session and is counted, a session that closes ends, a request to an address of the port is answered and one to another is not, and a takeover resumes the mirror and ends every session. (R435, R436, R445, R453, R458, R459, R460, R461) -/
def Obligations.AlertsAndTheManagementPort : Prop :=
  ∀ (s : State) (via : Via) (v n : Nat) (anchor : Option (List Byte)) (g : Mgmt) (high echo : Bool) (target : List Byte), g = s.mgmt →
    (Writable s via 0x7100 0xB → v &&& 0xFFFFFF00 = 0 → g.linePending = false → exec (.alertAck via v) s = .next (written { s with mgmt := { g with
        alerts := g.alerts &&& (0xFFFFFFFF - v % 2 ^ 32), lineWanted := g.lineWanted && (g.alerts &&& (0xFFFFFFFF - v % 2 ^ 32)) != 0 } } via 0x7100 0xB Code.ok))
    ∧ (Writable s via 0x7100 0xB → v &&& 0xFFFFFF00 = 0 → g.linePending = true → g.alerts &&& (0xFFFFFFFF - v % 2 ^ 32) = 0 → exec (.alertAck via v) s = .next (written
        (emit { s with mgmt := { g with alerts := 0, lineWanted := false, linePending := false, pendingFor := 0, sinceEnd := 0 } } (.pin 0 true)) via 0x7100 0xB Code.ok))
    ∧ (Writable s via 0x7100 0xB → v &&& 0xFFFFFF00 ≠ 0 → exec (.alertAck via v) s = .next (answer s via 2 0x7100 0xB Code.reservedSet))
    ∧ (g.stuck = false → g.linePending = false → 9 ≤ g.highRun → g.alerts ≠ 0 → g.lineWanted = true → exec (.alertSample true) s = .next (emit { s with mgmt := { g with
        linePending := true, lineWanted := false, pendingFor := 0, highRun := 10, sinceEnd := min alertAgainSamples (g.sinceEnd + 1) } } (.pin 0 false)))
    ∧ (g.stuck = false → g.linePending = true → (g.alerts = 0 ∨ 49 ≤ g.pendingFor) → exec (.alertSample high) s
        = .next (emit { s with mgmt := { g with linePending := false, pendingFor := 0, sinceEnd := 0, highRun := 0 } } (.pin 0 true)))
    ∧ (g.stuck = false → g.linePending = true → g.alerts ≠ 0 → g.pendingFor < 49 →
        exec (.alertSample high) s = .next { s with mgmt := { g with pendingFor := g.pendingFor + 1, highRun := 0 } })
    ∧ (g.stuck = true → exec (.alertSample high) s = .next s)
    ∧ (g.stuck = false → g.linePending = false →
        exec .alertStuck s = .next (rinc (notice { s with mgmt := { g with stuck := true, lineWanted := false } } Code.alertStuck 0 0 0) Reg.alertStuckEvents))
    ∧ (g.stuck = true → exec .alertStuck s = .next s)
    ∧ (Writable s via 0x7100 0xD → exec (.alertLineEnable via 1 true) s = .next (written { s with mgmt := { g with stuck := false } } via 0x7100 0xD Code.ok)
        ∧ exec (.alertLineEnable via 1 false) s = .next (answer s via 2 0x7100 0xD Code.valueRefused))
    ∧ (g.alerts ≠ 0 → g.sessions.map (·.1) = [n] → exec .notify s = .next { emit s (.notify n (bytesOf [word (at' 1 8 56 + at' 9 8 48 + at' 16 12 0), word (at' g.notifyId 32 32), 0,
        word (at' g.stuck.toNat 1 32 + at' g.alerts 32 0), s.clock.beat])) with
        mgmt := { g with notifyId := (g.notifyId + 1) % 2 ^ 32 } })
    ∧ (g.alerts = 0 → exec .notify s = .next s)
    ∧ (s.reset'.boot ≠ .off → exec .mgmtLinkUp s = .next { s with mgmt := { g with linkUp := true } })
    ∧ (g.linkUp = true → exec .mgmtLinkSyncLost s = .next (endAllDtls (rinc { s with mgmt := { g with linkUp := false } } Reg.linkDowns)))
    ∧ (g.linkUp = false → exec .mgmtLinkSyncLost s = .next s)
    ∧ (g.linkUp = true → fwRuns s = true → clientOk s true anchor = true → (List.range 4).find? (fun n => (tget? g.sessions n).isNone) = some n →
        exec (.dtlsHandshake true anchor) s = .next { s with mgmt := { g with sessions := tput g.sessions n { anchor := anchor } } })
    ∧ (g.linkUp = true → fwRuns s = true → exec (.dtlsHandshake false anchor) s = .next (rinc s Reg.dtlsFailures))
    ∧ ((tget? g.sessions n).isSome = true → exec (.dtlsSessionClose n) s = .next (endDtls s n))
    ∧ ((tget? g.sessions n) = none → exec (.dtlsSessionClose n) s = .next s)
    ∧ (g.linkUp = true → ownAddress s target = true → exec (.icmpv6Request target echo) s = .next (emit s (.icmp echo)))
    ∧ (g.linkUp = false ∨ ownAddress s target = false → exec (.icmpv6Request target echo) s = .next s)
    ∧ ownAddress s linkLocal = true
    ∧ (g.ipv6.length = 16 → g.ipv6.any (· != 0) = true → ownAddress s g.ipv6 = true)
    ∧ (exec .cobblerTakeover s = .next (endEverySession (resumeMirror s)))

/-- O55. A FAULT packet that names the launch stops it and its sender's snapshots are kept; one of another launch is counted. With every participant's FAULT, the coordinator sends ROLLBACK for the newest step that all hold, and abandons when there is none; a participant that gets it acts on it. A wait that expires abandons. A good restoration restores the covered state and leaves the package armed for replay, a bad one abandons, and one whose reads of the buddy copy are out goes on; replay runs the records that are due, and ends past the fault's beat. A newer fault epoch drops held reports, an older one is refused. An acknowledgement drops the reports held for its chip, an expired holdoff reports the earliest. PEER_LOST is raised when every lane of the chip is DOWN. (R480, R483, R484, R492, R493, R494, R497, R498) -/
def Obligations.FaultsRollBack : Prop :=
  ∀ (s : State) (via : Via) (p : Packet) (r : Run) (k chip base v ext : Nat) (x : TreadRec) (h : HeldReport),
    (isControl p 4 = true → faultMatches s p = true → faultable s = true →
        exec (.fault p) s = .next (keepPeerFault (stepFault s Code.stepFault 0 0 (some (fld (p.pay 0) 43 32)) 0 false) (peerFaultOf p)))
    ∧ (isControl p 4 = true → faultMatches s p = false → s.faults.rollback = .none → exec (.fault p) s = .next (rinc s (Reg.faultCounts.at Code.stepFault)))
    ∧ (s.last.run = some r → s.faults.rollback = .faulted → coordinator s r = some (ownChip s) → allFaults s r = true → restartStep s r = some k → s.faults.lastS ≠ some k →
        exec .coordinatorRollback s = .next (actRollback (sendRollback s r k false) r k (rget s Reg.stepNumber) (greatestBeat s)))
    ∧ (s.last.run = some r → s.faults.rollback = .faulted → coordinator s r = some (ownChip s) → allFaults s r = true → restartStep s r = none →
        exec .coordinatorRollback s = .next (abandonRollback (sendRollback s r 0 true)))
    ∧ (s.last.run = some r → allFaults s r = false → exec .coordinatorRollback s = .next s)
    ∧ (isControl p 5 = true → s.last.run = some r → s.faults.rollback = .faulted → coordinator s r = some p.src → bit (p.pay 4) 61 = false →
        exec (.rollback p) s = .next (actRollback s r (fld (p.pay 3) 63 32) (fld (p.pay 1) 31 0) (p.pay 5).toNat))
    ∧ (isControl p 5 = true → s.last.run = some r → s.faults.rollback = .faulted → coordinator s r = some p.src → bit (p.pay 4) 61 = true →
        exec (.rollback p) s = .next (abandonRollback s))
    ∧ (s.last.run = some r → s.faults.rollback = .faulted → coordinator s r ≠ some (ownChip s) → exec .rollbackWaitExpiry s = .next (abandonRollback s))
    ∧ (s.faults.rollback ≠ .faulted → exec .rollbackWaitExpiry s = .next s)
    ∧ (s.faults.rollback = .restoring → s.faults.restore = some (k, chip, base) → s.faults.restoreOut = 0 → s.faults.restoreBad = 0 →
        exec (.restoreDone true) s = .next (restored s k chip base))
    ∧ (s.faults.rollback = .restoring → s.faults.restore = some (k, chip, base) → s.faults.restoreOut = 0 → s.faults.restoreBad ≠ 0 →
        exec (.restoreDone true) s = .next (abandonRollback s))
    ∧ (s.faults.rollback = .restoring → s.faults.restore = some (k, chip, base) → s.faults.restoreOut = 0 → exec (.restoreDone false) s = .next (abandonRollback s))
    ∧ (s.faults.rollback = .restoring → s.faults.restore = some (k, chip, base) → s.faults.restoreOut ≠ 0 → exec (.restoreDone true) s = .next s)
    ∧ (s.last.run = some r → s.faults.rollback = .replaying → replayNext s r = some x → replayDue s r x = true → replayBlocked s x = false →
        exec .treadReplayInput s = .next (replayRecord { s with trace := { s.trace with replayAt := x.pos + treadSize x } } r x))
    ∧ (s.last.run = some r → s.faults.rollback = .replaying → replayNext s r = some x → replayDue s r x = false → exec .treadReplayInput s = .next s)
    ∧ (s.last.run = some r → s.faults.rollback = .replaying → r.bench = false → s.faults.faultBeat < nowSched s →
        exec .replayEnd s = .next (rollbackInjectionDone (restartFlights { s with faults := { s.faults with rollback := .none } })))
    ∧ (s.last.run = some r → s.faults.rollback = .replaying → nowSched s ≤ s.faults.faultBeat → exec .replayEnd s = .next s)
    ∧ (Writable s via 0x7000 1 → newer 32 v (rget s Reg.faultEpoch) = true → ext = extend 32 s.faults.epochExt v →
        ∃ u, u = traceGeneration (rset { s with faults := { s.faults with epochExt := ext, held := [], reported := [], acked := [] } } Reg.faultEpoch v) 2 ext
          ∧ exec (.faultEpochWrite via v) s = .next (written (treadLog u 7 (ownChip u) 0 ext []) via 0x7000 1 Code.ok))
    ∧ (Writable s via 0x7000 1 → newer 32 v (rget s Reg.faultEpoch) = false → exec (.faultEpochWrite via v) s = .next (answer s via 2 0x7000 1 Code.valueRefused))
    ∧ (Writable s via 0x7000 2 → chip ≤ 0xF7F → exec (.faultAck via chip) s = .next (written { s with faults := { s.faults with
        held := s.faults.held.filter (fun h => h.chip != chip), acked := if s.faults.acked.contains chip then s.faults.acked else s.faults.acked ++ [chip] } } via 0x7000 2 Code.ok))
    ∧ (s.faults.held = [h] → exec .reportHoldoffExpiry s = .next (report { s with faults := { s.faults with held := [] } } h.code))
    ∧ (s.faults.held = [] → exec .reportHoldoffExpiry s = .next s)
    ∧ (lanesNaming s chip ≠ [] → (∀ l ∈ lanesNaming s chip, laneStatus s (l / 32) (reverseLane (l / 32) (l % 32)) = .down) →
        exec (.peerLost chip) s = .next (raise s { code := Code.peerLost, failed := some chip }))
    ∧ (lanesNaming s chip = [] → exec (.peerLost chip) s = .next s)

/-- O56. While the port sends, a block takes two records from the queue, zeros where there are none, and counts them; it goes to the lane its number gives, coded with its number as control word and XORed with that lane's sequence, which moves on; else the port sends nothing. Lost records are told in one record once 16 places are free. A beat mark, in a beat whose number trace_mark_beats divides (log 86) and once in it, carries the schedule beat, the stretch, the bucket and the rest count. A write of tread_freeze freezes the log once and a clear empties it, unless an export is open; the freeze sets the span. A chunk of the frozen span is read in a session, or waits for its key. tread_replay arms a bench run of a log when no Last is armed. (R250, R423, R506, R507, R508, R509, R513, R514, R518) -/
def Obligations.TraceAndTreadLog : Prop :=
  ∀ (s : State) (via : Via) (r : Run) (e : Entry) (v bs : List Byte) (x : Nat) (a b : List Word) (rs : List (List Word)),
    (traceSending s = true → s.trace.queue = a :: b :: rs → exec .traceBlock s = .next (radd
        (traceSend { s with trace := { s.trace with queue := rs } } [a, b]) Reg.traceRecords 2))
    ∧ (traceSending s = true → s.trace.queue = [] → exec .traceBlock s = .next (radd (traceSend { s with trace := { s.trace with queue := [] } } []) Reg.traceRecords 0))
    ∧ (tget? s.trace.scramblers (s.trace.portBlock % 4) = some x → a.length = 4 → b.length = 4 → (traceSend s [a, b]).out = s.out ++ [.trace (s.trace.portBlock % 4)
          (prbsBlock x (encodeBlock (bytesOf (a ++ b)) s.trace.portBlock))]
        ∧ (traceSend s [a, b]).trace = { s.trace with
          portBlock := (s.trace.portBlock + 1) % 65536, scramblers := tput s.trace.scramblers (s.trace.portBlock % 4) (prbsNext x) }
        ∧ (traceSend s []).out = s.out ++ [.trace (s.trace.portBlock % 4) (prbsBlock x (encodeBlock (bytesOf (List.replicate 8 0)) s.trace.portBlock))])
    ∧ (traceSending s = false → exec .traceBlock s = .next s)
    ∧ (s.trace.lostPending ≠ 0 → s.trace.queue.length + 16 ≤ 7680 → exec .traceLostRecord s = .next { s with trace := { s.trace with
        queue := s.trace.queue ++ [traceWords s 0xA (word s.trace.lostPending) 0], lostPending := 0 } })
    ∧ (s.trace.lostPending = 0 → exec .traceLostRecord s = .next s)
    ∧ (s.clock.beat.toNat % rget s Reg.traceMarkBeats = 0 → s.trace.markAt ≠ some s.clock.beat.toNat → s.last.run = some r → schedBeat s = some (nowSched s) →
        (rget s Reg.traceEnable).testBit 1 = true → s.trace.queue.length < 7680 → exec .beatMark s = .next { s with
          trace := { s.trace with
            markAt := some s.clock.beat.toNat
            queue := s.trace.queue ++ [traceWords s 1 (word (nowSched s)) (word (at' (rget s Reg.agreedStretch) 16 48 + at' r.bucket 8 40 + at' r.restCount 40 0))] } })
    ∧ (s.clock.beat.toNat % rget s Reg.traceMarkBeats = 0 → s.trace.markAt ≠ some s.clock.beat.toNat → (rget s Reg.traceEnable).testBit 1 = false →
        exec .beatMark s = .next { s with trace := { s.trace with markAt := some s.clock.beat.toNat } })
    ∧ (s.clock.beat.toNat % rget s Reg.traceMarkBeats ≠ 0 ∨ s.trace.markAt = some s.clock.beat.toNat → exec .beatMark s = .next s)
    ∧ (Writable s via 0x6200 8 → s.trace.frozen = false → ∃ u, u = rinc { s with trace := { s.trace with frozen := true } } Reg.freezeCount
        ∧ exec (.treadFreeze via) s = .next (written (rset (rset u Reg.treadSpanBytes
            (s.trace.treadTotal - (match s.trace.tread with | q :: _ => q.pos | [] => s.trace.treadTotal))) Reg.treadFreeze 1) via 0x6200 8 Code.ok))
    ∧ (Writable s via 0x6200 8 → s.trace.frozen = true → exec (.treadFreeze via) s = .next (written s via 0x6200 8 Code.ok))
    ∧ (Writable s via 0x6200 8 → exportOpen s = false → exec (.treadUnfreeze via) s = .next (written (treadEmpty s) via 0x6200 8 Code.ok))
    ∧ (Writable s via 0x6200 8 → exportOpen s = true → exec (.treadUnfreeze via) s = .next (answer s via 2 0x6200 8 Code.sessionBusy))
    ∧ (viaOpen s (.mgmt x) = true → exportWaits s = true →
        exec (.treadExportChunk (.mgmt x)) s = .next { s with mgmt := { s.mgmt with waiting := s.mgmt.waiting ++ [(x, exportMessage)] } })
    ∧ (viaOpen s via = true → exportWaits s = false → findEntry 0x6200 0xE = some e → entryStatus s via 0x6200 0xE 2 = Code.ok → openCount s via < openLimit via → exportChunk s (dtlsOf s via).exportOff = (Code.ok, bs) →
        ∃ u, u = openSeg (clearRead s e 0x6200) (fun id => { id := id, via := via, key := entryKey 0x6200 0xE, write := false, count := bs.length, data := bs })
          ∧ exec (.treadExportChunk via) s = .next (emit u.2 (.kdp via
              { kind := kindOpenRead, status := Code.ok, index := 0x6200, sub := 0xE, session := u.1, count := bs.length, crc := crc32c bs })))
    ∧ (Writable s via 0x6200 0xF → v.length = 16 → lastArmed s = false → exec (.treadReplay via v) s = .next (written { s with
        trace := { s.trace with bench := if v = zeros 16 then none else some ((wordAt v 0).toNat, (wordAt v 1).toNat) } } via 0x6200 0xF Code.ok))
    ∧ (Writable s via 0x6200 0xF → v.length = 16 → lastArmed s = true → exec (.treadReplay via v) s = .next (answer s via 2 0x6200 0xF Code.valueRefused))

/-- O57. For n-bit values, a is newer than b exactly if d = (a - b) mod 2^n is neither 0 nor at least 2^(n-1); so the order is never both ways, and a value half the range apart is older. The extended value of v after prev is prev + d for d = (v - prev) mod 2^n below 2^(n-1), else prev - (2^n - d), wherever that lies in 64 bits, in the first lap and at n = 64 too; and it has v as its low n bits. An update of the fault epoch, of the routing tables or of the plan that carries a value half the range apart is refused, and the epoch, the tables and the plan in force stay. (R40) -/
def Obligations.CountersCompareAndExtend : Prop :=
  (∀ n a b prev v : Nat, 0 < n → n ≤ 64 →
      (newer n a b = true ↔ ((a : Int) - b) % 2 ^ n ≠ 0 ∧ ((a : Int) - b) % 2 ^ n < 2 ^ (n - 1))
      ∧ (newer n a b = true → newer n b a = false)
      ∧ newer n (b + 2 ^ (n - 1)) b = false
      ∧ (∀ d x : Int, d = ((v : Int) - prev) % 2 ^ n → x = (if d < 2 ^ (n - 1) then (prev : Int) + d else prev - (2 ^ n - d)) → 0 ≤ x → x < 2 ^ 64 →
          (extend n prev v : Int) = x)
      ∧ extend n prev v % 2 ^ n = v % 2 ^ n)
    ∧ newer 16 0x0003 0xFFFE = true ∧ extend 16 0x0001FFFE 0x0003 = 0x00020003
    ∧ (∀ (s : State) (via : Via),
        (∀ v : Nat, Writable s via 0x7000 1 → v = (rget s Reg.faultEpoch + 2 ^ 31) % 2 ^ 32 →
          exec (.faultEpochWrite via v) s = .next (answer s via 2 0x7000 1 Code.valueRefused))
        ∧ (Writable s via 0x2300 9 → s.router.state = .serving → rget s Reg.shadowGeneration = (rget s Reg.activeGeneration + 2 ^ 15) % 2 ^ 16 →
          exec (.routeSwapRelease via) s = .next (answer (rset s Reg.swapResult 2) via 2 0x2300 9 Code.valueRefused))
        ∧ (Writable s via 0x2400 2 → lastRunning s = false → planValidNow s = true → planGen s.plan.staged = (rget s Reg.planGeneration + 2 ^ 15) % 2 ^ 16 →
          exec (.planCommit via 1) s = .next (answer (rset s Reg.commitResult 2) via 2 0x2400 2 Code.valueRefused)))

/-- O58. A write of xlate_root that is not 64 KiB aligned, or whose top table would not lie in the 24-stack HBM range, is refused with VALUE_REFUSED and the package is as before but for the response; a non-zero write of xlate_invalidate is refused in the same way, and no translation is dropped. (R150) -/
def Obligations.TranslationWritesAreRefused : Prop :=
  ∀ (s : State) (via : Via) (v : Nat),
    (Writable s via 0x3060 8 → (v % 65536 ≠ 0 ∨ hbmBytes < v + 65536) →
        exec (.xlateRootWrite via v) s = .next (answer s via 2 0x3060 8 Code.valueRefused)
        ∧ rget (answer s via 2 0x3060 8 Code.valueRefused) Reg.xlateRoot = rget s Reg.xlateRoot)
    ∧ (Writable s via 0x3060 9 → v ≠ 0 →
        exec (.xlateInvalidate via v) s = .next (answer s via 2 0x3060 9 Code.valueRefused)
        ∧ (answer s via 2 0x3060 9 Code.valueRefused).stitch = s.stitch)

/-- O59. A WRITE request that meets no error of its own and would leave ack_timeout_us less than 100 us above reorder_hold_us, whichever of the two it writes, is refused with VALUE_REFUSED; both entries are as before. (R188) -/
def Obligations.TimeoutsKeepTheirOrder : Prop :=
  ∀ (s : State) (via : Via) (m : Kdp), Requested s via m kindWrite → m.index = 0x2380 → m.data.length = 4 →
    entryStatus s via 0x2380 m.sub 1 = Code.ok → unclaimedRefusal s via 0x2380 m.sub = false →
    (m.sub = 5 → leNat m.data < rget s Reg.reorderHoldUs + 100 → exec (.write via m) s = .next (responded via m (respOf m Code.valueRefused) s))
    ∧ (m.sub = 6 → rget s Reg.ackTimeoutUs < leNat m.data + 100 → exec (.write via m) s = .next (responded via m (respOf m Code.valueRefused) s))
    ∧ (∀ r : Resp, rget (responded via m r s) Reg.ackTimeoutUs = rget s Reg.ackTimeoutUs ∧ rget (responded via m r s) Reg.reorderHoldUs = rget s Reg.reorderHoldUs)

/-- O60. A SIGNAL that begins, on a semaphore whose line is not poisoned and with HBM in canonical form, leaves the old value plus VALUE modulo 2^64 in the semaphore with SOP ADD, and VALUE with SOP SET; every byte outside the semaphore is as before, and the command in flight has its result, with status OK. (R337) -/
def Obligations.SignalAddsOrSets : Prop :=
  ∀ (s : State) (q id a : Nat) (f : Flight), Begins s q id 6 f → s.hbm.mem.wf = true →
    a = rget s Reg.semBase + 8 * fld (nth f.words 1) 63 52 → poisoned s a 8 = false →
    ∃ t, exec (.signal q id) s = .next t
      ∧ (fld (nth f.words 1) 51 48 = 0 → (hbmWord t a).toNat = ((hbmWord s a).toNat + (nth f.words 2).toNat) % 2 ^ 64)
      ∧ (fld (nth f.words 1) 51 48 ≠ 0 → hbmWord t a = nth f.words 2)
      ∧ (∀ b : Nat, (b < a ∨ a + 8 ≤ b) → t.hbm.mem.read b = s.hbm.mem.read b)
      ∧ flightOf t q id = some { f with begun := true, result := some {} }
      ∧ t.regs = s.regs
end

