-- ==== Sys2Proof/Laws/Commands.lean ====
section
/-! SUPPORT. What the shared forms of a command do: a write of an entry, a request, a command of a queue, a beat record. -/

namespace Sys2Proof.Machine

/-- A write that is let in and takes effect: the state that its action leaves, the log of a mailbox write, and the answer. -/
theorem doWrite_effect {s : State} {via : Via} {index sub : Nat} {act : State → Nat × State} (h : Writable s via index sub)
    (ha : tookEffect (act s).1 = true) : doWrite s via index sub act = written (act s).2 via index sub (act s).1 := by
  simp [doWrite, applyWrite, written, h.opened, h.status, h.claimed, ha]

/-- A write that is let in and that its action refuses: the answer, and what the action leaves. -/
theorem doWrite_refusal {s : State} {via : Via} {index sub : Nat} {act : State → Nat × State} (h : Writable s via index sub)
    (ha : tookEffect (act s).1 = false) : doWrite s via index sub act = answer (act s).2 via 2 index sub (act s).1 := by
  simp [doWrite, applyWrite, h.opened, h.status, h.claimed, ha]

/-- Both at once. -/
theorem doWrite_writable {s : State} {via : Via} {index sub : Nat} {act : State → Nat × State} (h : Writable s via index sub) :
    doWrite s via index sub act = if tookEffect (act s).1 = true then written (act s).2 via index sub (act s).1
      else answer (act s).2 via 2 index sub (act s).1 := by
  cases ha : tookEffect (act s).1
  · simpa using doWrite_refusal h ha
  · simpa using doWrite_effect h ha

/-- A write by a path that is not open is counted, and nothing more. -/
theorem doWrite_closed {s : State} {via : Via} {index sub : Nat} {act : State → Nat × State} (h : viaOpen s via = false) :
    doWrite s via index sub act = dropRequest s via := by
  simp [doWrite, h]

/-- A command of a queue whose own effect is due. -/
theorem runCommand_begins {s : State} {q id op : Nat} {f : Flight} {act : State → Flight → State} (h : Begins s q id op f) :
    runCommand s q id op act = act (begun s q id) f := by
  simp [runCommand, begun, h.found, h.fresh, h.unfinished, h.opcode, h.clocked]

/-- A command that is not in flight has no effect. -/
theorem runCommand_absent {s : State} {q id op : Nat} {act : State → Flight → State} (h : flightOf s q id = none) :
    runCommand s q id op act = s := by
  simp [runCommand, h]

/-- A beat record that is due. -/
theorem issue_due {s : State} {t op args : Nat} {r : Run} {x : Nat × Word} {act : State → Run → Nat → State} (h : Due s t op args r x) :
    issue s t op args act = act (issued s t x) r x.1 := by
  simp [issue, issued, h.run, h.issuing, h.found, h.first]

/-- With no Last a beat record has no effect. -/
theorem issue_absent {s : State} {t op args : Nat} {act : State → Run → Nat → State} (h : s.last.run = none) : issue s t op args act = s := by
  simp [issue, h]

/-- A request that runs. -/
theorem serve_requested {s : State} {via : Via} {m : Kdp} {kind : Nat} (h : Requested s via m kind) :
    serve s via m kind = responded via m (runKind s via m).1 (runKind s via m).2 := by
  cases via with
  | mgmt n => simp [serve, h.opened, h.kind, serveMessage, h.sound, serveMgmt, h.fresh n rfl, h.ready n rfl, runMgmt, responded]
  | mailbox c => simp [serve, h.opened, h.kind, serveMessage, h.sound, responded]

/-- A request by a path that is not open is counted, and nothing more. -/
theorem serve_closed {s : State} {via : Via} {m : Kdp} {kind : Nat} (h : viaOpen s via = false) (hk : m.kind = kind) :
    serve s via m kind = dropRequest s via := by
  simp [serve, h, hk]

end Sys2Proof.Machine
end

