-- ==== Sys2Proof/Laws/Tables.lean ====
section
/-! SUPPORT. Sparse tables: what a key reads after a write, and that every operation keeps keys rising. -/

namespace Sys2Proof.Machine

@[simp] theorem tget?_nil {α : Type} (i : Nat) : tget? ([] : Tab α) i = none := rfl

theorem tget?_cons {α : Type} (k : Nat) (v : α) (t : Tab α) (i : Nat) : tget? ((k, v) :: t) i = if i = k then some v else tget? t i := rfl

/-- A key below every key of a table is not listed. -/
theorem tget?_below {α : Type} (t : Tab α) (i : Nat) (h : ∀ x ∈ t, i < x.1) : tget? t i = none := by
  induction t with
  | nil => rfl
  | cons x t ih =>
    obtain ⟨k, v⟩ := x
    have hk : i < k := h (k, v) (by simp)
    rw [tget?_cons, if_neg (by omega)]
    exact ih (fun y hy => h y (by simp [hy]))

/-- Rising keys: the head lies below every other key, and the rest rises. -/
theorem sorted_cons {α : Type} (k : Nat) (v : α) (t : Tab α) : sorted ((k, v) :: t) = true ↔ (∀ x ∈ t, k < x.1) ∧ sorted t = true := by
  induction t generalizing k v with
  | nil => simp [sorted]
  | cons x t ih =>
    obtain ⟨j, w⟩ := x
    simp only [sorted, Bool.and_eq_true, decide_eq_true_eq, List.mem_cons, forall_eq_or_imp]
    constructor
    · rintro ⟨h1, h2⟩
      exact ⟨⟨h1, fun y hy => Nat.lt_trans h1 (((ih j w).1 h2).1 y hy)⟩, h2⟩
    · rintro ⟨⟨h1, -⟩, h2⟩
      exact ⟨h1, h2⟩

theorem tput_keys {α : Type} (t : Tab α) (i : Nat) (v : α) (x : Nat × α) (h : x ∈ tput t i v) : x.1 = i ∨ x ∈ t := by
  induction t with
  | nil => simp_all [tput]
  | cons y t ih =>
    obtain ⟨k, u⟩ := y
    simp only [tput] at h
    split at h
    · simp only [List.mem_cons] at h ⊢
      rcases h with rfl | h
      · simp
      · exact .inr h
    · split at h <;> simp only [List.mem_cons] at h ⊢
      · rcases h with rfl | h
        · simp
        · exact .inr (.inr h)
      · rcases h with rfl | h
        · exact .inr (.inl rfl)
        · rcases ih h with h | h
          · exact .inl h
          · exact .inr (.inr h)

theorem tdel_keys {α : Type} (t : Tab α) (i : Nat) (x : Nat × α) (h : x ∈ tdel t i) : x ∈ t := by
  induction t with
  | nil => simp_all [tdel]
  | cons y t ih =>
    obtain ⟨k, u⟩ := y
    simp only [tdel] at h
    split at h
    · simp [h]
    · simp only [List.mem_cons] at h ⊢
      exact h.imp id ih

/-- Writing a key keeps keys rising. -/
theorem sorted_tput {α : Type} (t : Tab α) (i : Nat) (v : α) (h : sorted t = true) : sorted (tput t i v) = true := by
  induction t with
  | nil => rfl
  | cons y t ih =>
    obtain ⟨k, u⟩ := y
    obtain ⟨h1, h2⟩ := (sorted_cons k u t).1 h
    simp only [tput]
    split
    · rename_i hi
      refine (sorted_cons _ _ _).2 ⟨fun x hx => ?_, h⟩
      simp only [List.mem_cons] at hx
      rcases hx with rfl | hx
      · exact hi
      · exact Nat.lt_trans hi (h1 x hx)
    · split
      · rename_i hi
        exact (sorted_cons _ _ _).2 ⟨fun x hx => hi ▸ h1 x hx, h2⟩
      · rename_i h3 h4
        refine (sorted_cons _ _ _).2 ⟨fun x hx => ?_, ih h2⟩
        rcases tput_keys t i v x hx with h | h
        · omega
        · exact h1 x h

/-- Removing a key keeps keys rising. -/
theorem sorted_tdel {α : Type} (t : Tab α) (i : Nat) (h : sorted t = true) : sorted (tdel t i) = true := by
  induction t with
  | nil => rfl
  | cons y t ih =>
    obtain ⟨k, u⟩ := y
    obtain ⟨h1, h2⟩ := (sorted_cons k u t).1 h
    simp only [tdel]
    split
    · exact h2
    · exact (sorted_cons _ _ _).2 ⟨fun x hx => h1 x (tdel_keys t i x hx), ih h2⟩

theorem sorted_tset {α : Type} [DecidableEq α] (d : α) (t : Tab α) (i : Nat) (v : α) (h : sorted t = true) : sorted (tset d t i v) = true := by
  simp only [tset]
  split
  · exact sorted_tdel t i h
  · exact sorted_tput t i v h

/-- Entries put one by one into a table that rises leave it rising. -/
theorem sorted_foldl_tput {α : Type} (l : List (Nat × α)) : ∀ t : Tab α, sorted t = true → sorted (l.foldl (fun t r => tput t r.1 r.2) t) = true := by
  induction l with
  | nil => exact fun _ h => h
  | cons x l ih => exact fun t h => ih _ (sorted_tput t _ _ h)

/-- A part of a table that rises, rises. -/
theorem sorted_filter {α : Type} (t : Tab α) (p : Nat × α → Bool) (h : sorted t = true) : sorted (t.filter p) = true := by
  induction t with
  | nil => rfl
  | cons y t ih =>
    obtain ⟨k, u⟩ := y
    obtain ⟨h1, h2⟩ := (sorted_cons k u t).1 h
    simp only [List.filter_cons]
    split
    · exact (sorted_cons _ _ _).2 ⟨fun x hx => h1 x (List.mem_filter.1 hx).1, ih h2⟩
    · exact ih h2

theorem tget?_tput {α : Type} (t : Tab α) (i j : Nat) (v : α) : tget? (tput t i v) j = if j = i then some v else tget? t j := by
  induction t with
  | nil => simp [tput, tget?_cons]
  | cons y t ih =>
    obtain ⟨k, u⟩ := y
    simp only [tput]
    split
    · simp [tget?_cons]
    · split
      · rename_i hi
        subst hi
        simp only [tget?_cons]
        split <;> rfl
      · rename_i h1 h2
        simp only [tget?_cons, ih]
        split
        · rename_i hj
          rw [if_neg (by omega)]
        · rfl

theorem tget?_tdel {α : Type} (t : Tab α) (i j : Nat) (h : sorted t = true) : tget? (tdel t i) j = if j = i then none else tget? t j := by
  induction t with
  | nil => simp [tdel]
  | cons y t ih =>
    obtain ⟨k, u⟩ := y
    obtain ⟨h1, h2⟩ := (sorted_cons k u t).1 h
    simp only [tdel]
    split
    · rename_i hi
      subst hi
      simp only [tget?_cons]
      split
      · rename_i hj
        subst hj
        exact tget?_below t j h1
      · rfl
    · rename_i hi
      simp only [tget?_cons, ih h2]
      split
      · rename_i hj
        rw [if_neg (by omega)]
      · rfl

/-- What a table whose keys rise reads after a write. -/
theorem tget_tset {α : Type} [DecidableEq α] (d : α) (t : Tab α) (i j : Nat) (v : α) (h : sorted t = true) :
    tget d (tset d t i v) j = if j = i then v else tget d t j := by
  simp only [tget, tset]
  split
  · rename_i hv
    rw [tget?_tdel t i j h]
    split <;> simp_all
  · rw [tget?_tput]
    split <;> simp_all

theorem tget_tput {α : Type} (d : α) (t : Tab α) (i j : Nat) (v : α) : tget d (tput t i v) j = if j = i then v else tget d t j := by
  simp only [tget, tget?_tput]
  split <;> rfl

end Sys2Proof.Machine
end

