-- ==== Sys2Proof/Laws/Memory.lean ====
section
/-! SUPPORT. HBM as a memory: what a byte reads after a write, and that every operation keeps the canonical form. -/

namespace Sys2Proof.Machine

/-- What an unlisted byte reads as. -/
theorem Mem.read_eq (m : Mem) (a : Nat) : m.read a = (tget? m.cells a).getD (match m.free with | none => 0 | some n => Config.freeByte n a) := by
  obtain ⟨cells, fr⟩ := m
  simp only [Mem.read]
  cases tget? cells a <;> rfl

/-- What a byte reads after a byte was written. -/
theorem Mem.read_write (m : Mem) (a b : Nat) (v : Byte) (h : m.wf = true) : (m.write a v).read b = if b = a then v else m.read b := by
  obtain ⟨cells, fr⟩ := m
  have hs : sorted cells = true := by
    simp only [Mem.wf, Bool.and_eq_true] at h
    exact h.1
  cases fr with
  | none =>
    simp only [Mem.read_eq, Mem.write]
    exact tget_tset 0 cells a b v hs
  | some n =>
    simp only [Mem.read_eq, Mem.write, tget?_tput]
    split <;> rfl

theorem mem_tput {α : Type} (t : Tab α) (i : Nat) (v : α) (x : Nat × α) (h : x ∈ tput t i v) : x = (i, v) ∨ x ∈ t := by
  induction t with
  | nil => simp_all [tput]
  | cons y t ih =>
    obtain ⟨k, u⟩ := y
    simp only [tput] at h
    split at h
    · simp only [List.mem_cons] at h ⊢
      exact h.imp id id
    · split at h <;> simp only [List.mem_cons] at h ⊢
      · exact h.imp id .inr
      · rcases h with h | h
        · exact .inr (.inl h)
        · exact (ih h).imp id .inr

/-- A write keeps the canonical form. -/
theorem Mem.wf_write (m : Mem) (a : Nat) (v : Byte) (h : m.wf = true) : (m.write a v).wf = true := by
  obtain ⟨cells, fr⟩ := m
  have hs : sorted cells = true := by
    simp only [Mem.wf, Bool.and_eq_true] at h
    exact h.1
  cases fr with
  | some n => simp [Mem.wf, Mem.write, sorted_tput _ _ _ hs]
  | none =>
    simp only [Mem.wf, Option.isSome_none, Bool.false_or, Bool.and_eq_true, List.all_eq_true, bne_iff_ne] at h
    simp only [Mem.wf, Mem.write, Option.isSome_none, Bool.false_or, Bool.and_eq_true, List.all_eq_true, bne_iff_ne, sorted_tset _ _ _ _ hs, true_and]
    intro x hx
    simp only [tset] at hx
    split at hx
    · exact h.2 x (tdel_keys _ _ _ hx)
    · rename_i hv
      rcases mem_tput _ _ _ _ hx with rfl | hx
      · exact hv
      · exact h.2 x hx

theorem Mem.wf_writeN (m : Mem) (a : Nat) (bs : List Byte) (h : m.wf = true) : (m.writeN a bs).wf = true := by
  induction bs generalizing m a with
  | nil => exact h
  | cons b bs ih => exact ih _ _ (Mem.wf_write m a b h)

theorem Mem.wf_writeEn (m : Mem) (a en : Nat) (bs : List Byte) (h : m.wf = true) : (m.writeEn a en bs).wf = true := by
  induction bs generalizing m a en with
  | nil => exact h
  | cons b bs ih =>
    refine ih _ _ _ ?_
    split
    · exact Mem.wf_write m a b h
    · exact h

/-- What a byte reads after bytes were written from an address upward. -/
theorem Mem.read_writeN (m : Mem) (a x : Nat) (bs : List Byte) (h : m.wf = true) :
    (m.writeN a bs).read x = if a ≤ x ∧ x < a + bs.length then bs.getD (x - a) 0 else m.read x := by
  induction bs generalizing m a with
  | nil =>
    rw [if_neg (by simp only [List.length_nil]; omega)]
    rfl
  | cons b bs ih =>
    simp only [Mem.writeN, List.length_cons]
    rw [ih _ _ (Mem.wf_write m a b h), Mem.read_write m a x b h]
    by_cases h1 : x = a
    · subst h1
      rw [if_neg (by omega), if_pos rfl, if_pos (by omega)]
      simp
    · by_cases h2 : a + 1 ≤ x ∧ x < a + 1 + bs.length
      · rw [if_pos h2, if_pos (by omega)]
        obtain ⟨k, rfl⟩ : ∃ k, x = a + 1 + k := ⟨x - (a + 1), by omega⟩
        have e1 : a + 1 + k - (a + 1) = k := by omega
        have e2 : a + 1 + k - a = k + 1 := by omega
        rw [e1, e2]
        simp
      · rw [if_neg h2, if_neg h1, if_neg (by omega)]

theorem Mem.writeN_free (m : Mem) (a : Nat) (bs : List Byte) : (m.writeN a bs).free = m.free := by
  induction bs generalizing m a with
  | nil => rfl
  | cons b bs ih =>
    refine (ih _ _).trans ?_
    simp only [Mem.write]
    split <;> simp_all

/-- Bytes read in two parts. -/
theorem Mem.readN_add (m : Mem) (n k : Nat) : ∀ a, m.readN a (n + k) = m.readN a n ++ m.readN (a + n) k := by
  induction n with
  | zero => intro a; rw [Nat.zero_add]; rfl
  | succ n ih =>
    intro a
    rw [Nat.add_right_comm n 1 k]
    exact congrArg (m.read a :: ·) ((ih (a + 1)).trans (by rw [Nat.add_assoc, Nat.add_comm 1 n]; rfl))

/-- A read of `n` bytes has `n` bytes. -/
@[simp] theorem Mem.readN_length (m : Mem) (a n : Nat) : (m.readN a n).length = n := by
  induction n generalizing a with
  | zero => rfl
  | succ n ih => simp [Mem.readN, ih]

end Sys2Proof.Machine
end

