-- ==== Sys2Proof/Laws/Keeps.lean ====
section
/-! SUPPORT. What no operation of the machine does: disturb the queue, take back what has left, give a free value again, or break a canonical
form. -/

namespace Sys2Proof.Machine

/-- From s to t no operation has done any of these. -/
structure Keeps (s t : State) : Prop where
  sound : Sound s t
  inv : s.Inv → t.Inv

theorem keeps_refl (s : State) : Keeps s s := ⟨⟨rfl, List.prefix_refl _, Nat.le_refl _⟩, id⟩

theorem keeps_trans {s t u : State} (h : Keeps s t) (k : Keeps t u) : Keeps s u :=
  ⟨⟨k.sound.queue.trans h.sound.queue, h.sound.outbox.trans k.sound.outbox, Nat.le_trans h.sound.fresh k.sound.fresh⟩, fun i => k.inv (h.inv i)⟩

/-- A record update that leaves the queue, the outbox, the registers and the contents of HBM, and draws no value again. -/
theorem keeps_update {s t : State} (h : Keeps s t) {d : Nat} {cl : Clock} {ph : Tab PhysTile} {ti : Tab LogTile} {st : Stitch} {hb : Hbm} {fa : Fabric}
    {ro : Router} {op : Optics} {la : Tab Lane} {pl : Plan} {ls : Last} {qu : Queues} {po : Power} {pk : Pkg} {te : Tenancy} {mg : Mgmt} {re : Reset}
    {fu : Faults} {tr : Trace} (hd : t.draws ≤ d) (hm : hb.mem = t.hbm.mem) :
    Keeps s (State.mk t.pending t.out t.regs d cl ph ti st hb fa ro op la pl ls qu po pk te mg re fu tr) := by
  refine keeps_trans h ⟨⟨rfl, List.prefix_refl _, hd⟩, fun i => ⟨?_, i.2⟩⟩
  rw [hm]
  exact i.1

/-- The same where bytes are written to HBM. -/
theorem keeps_mem {s t : State} (h : Keeps s t) {d : Nat} {cl : Clock} {ph : Tab PhysTile} {ti : Tab LogTile} {st : Stitch} {hb : Hbm} {fa : Fabric}
    {ro : Router} {op : Optics} {la : Tab Lane} {pl : Plan} {ls : Last} {qu : Queues} {po : Power} {pk : Pkg} {te : Tenancy} {mg : Mgmt} {re : Reset}
    {fu : Faults} {tr : Trace} (hd : t.draws ≤ d) (hm : t.hbm.mem.wf = true → hb.mem.wf = true) :
    Keeps s (State.mk t.pending t.out t.regs d cl ph ti st hb fa ro op la pl ls qu po pk te mg re fu tr) :=
  keeps_trans h ⟨⟨rfl, List.prefix_refl _, hd⟩, fun i => ⟨hm i.1, i.2⟩⟩

/-- One of two states is kept to; the first stands for the state before a record update, the second for the state after it. -/
def KeepsVia (s t u : State) : Prop := Keeps s t ∨ Keeps s u

theorem keepsVia_left {s t u : State} (h : Keeps s t) : KeepsVia s t u := .inl h

theorem keeps_mk_iff {s t : State} {cl : Clock} {ph : Tab PhysTile} {ti : Tab LogTile} {st : Stitch} {hb : Hbm} {fa : Fabric}
    {ro : Router} {op : Optics} {la : Tab Lane} {pl : Plan} {ls : Last} {qu : Queues} {po : Power} {pk : Pkg} {te : Tenancy} {mg : Mgmt} {re : Reset}
    {fu : Faults} {tr : Trace} (hm : hb.mem = t.hbm.mem) :
    Keeps s (State.mk t.pending t.out t.regs t.draws cl ph ti st hb fa ro op la pl ls qu po pk te mg re fu tr)
      ↔ KeepsVia s t (State.mk t.pending t.out t.regs t.draws cl ph ti st hb fa ro op la pl ls qu po pk te mg re fu tr) :=
  ⟨.inr, fun h => h.elim (fun h => keeps_update h (Nat.le_refl _) hm) id⟩

theorem keeps_mk_draw_iff {s t : State} {n : Nat} {cl : Clock} {ph : Tab PhysTile} {ti : Tab LogTile} {st : Stitch} {hb : Hbm} {fa : Fabric}
    {ro : Router} {op : Optics} {la : Tab Lane} {pl : Plan} {ls : Last} {qu : Queues} {po : Power} {pk : Pkg} {te : Tenancy} {mg : Mgmt} {re : Reset}
    {fu : Faults} {tr : Trace} (hm : hb.mem = t.hbm.mem) :
    Keeps s (State.mk t.pending t.out t.regs (t.draws + n) cl ph ti st hb fa ro op la pl ls qu po pk te mg re fu tr)
      ↔ KeepsVia s t (State.mk t.pending t.out t.regs (t.draws + n) cl ph ti st hb fa ro op la pl ls qu po pk te mg re fu tr) :=
  ⟨.inr, fun h => h.elim (fun h => keeps_update h (Nat.le_add_right _ _) hm) id⟩

/-- The state after an outcome; a stop leaves the state. -/
def outState (s : State) (o : Host.Outcome State Fault Refusal) : State :=
  match o with
  | .next t => t
  | .fault _ => s
  | .refused _ => s

@[simp] theorem outState_next (s t : State) : outState s (.next t) = t := rfl

theorem keeps_ite {s0 a b : State} {c : Prop} [Decidable c] (ha : c → Keeps s0 a) (hb : ¬c → Keeps s0 b) : Keeps s0 (if c then a else b) := by
  split
  · exact ha ‹_›
  · exact hb ‹_›

theorem keeps_foldl {α : Type} {s0 : State} {f : State → α → State} (hf : ∀ t x, Keeps s0 t → Keeps s0 (f t x)) (l : List α) :
    ∀ s, Keeps s0 s → Keeps s0 (l.foldl f s) := by
  induction l with
  | nil => exact fun s h => h
  | cons x l ih => exact fun s h => ih _ (hf s x h)

theorem keeps_foldl_snd {α β : Type} {s0 : State} {f : β × State → α → β × State} (hf : ∀ t x, Keeps s0 t.2 → Keeps s0 (f t x).2) (l : List α) :
    ∀ s, Keeps s0 s.2 → Keeps s0 (l.foldl f s).2 := by
  induction l with
  | nil => exact fun s h => h
  | cons x l ih => exact fun s h => ih _ (hf s x h)

theorem keeps_pair {α : Type} {s0 : State} {p : α × State} {a : α} {t : State} (e : p = (a, t)) (h : Keeps s0 p.2) : Keeps s0 t := by
  subst e
  exact h

theorem keeps_rset {s0 s : State} (h : Keeps s0 s) (r : Reg) (v : Nat) : Keeps s0 (rset s r v) :=
  keeps_trans h ⟨⟨rfl, List.prefix_refl _, Nat.le_refl _⟩, fun i => ⟨i.1, sorted_tset _ _ _ _ i.2⟩⟩

theorem keeps_emit {s0 s : State} (h : Keeps s0 s) (o : Out) : Keeps s0 (emit s o) :=
  keeps_trans h ⟨⟨rfl, List.prefix_append _ _, Nat.le_refl _⟩, id⟩

end Sys2Proof.Machine
end

