-- ==== Sys2Proof/Laws/KeepsTiles.lean ====
section
/-! SUPPORT. The operations of tiles, arrays, row units and memory keep what every operation keeps: the queue, the outbox, the free values given, and the canonical forms. -/

namespace Sys2Proof.Machine

theorem keeps_clocked {b0 s t : State} (h : Keeps b0 s) (k : Keeps b0 t) : Keeps b0 (clocked s t) := by
  unfold clocked
  exact keeps_ite (fun _ => h) (fun _ => k)

theorem keeps_radd {b0 s : State} (h : Keeps b0 s) (r : Reg) (n : Nat) : Keeps b0 (radd s r n) := by
  unfold radd
  repeat' first | with_reducible assumption | with_reducible apply keeps_rset

theorem keeps_rinc {b0 s : State} (h : Keeps b0 s) (r : Reg) : Keeps b0 (rinc s r) := by
  unfold rinc
  repeat' first | with_reducible assumption | with_reducible apply keeps_radd

theorem keeps_rsetI {b0 s : State} (h : Keeps b0 s) (r : Reg) (v : Int) : Keeps b0 (rsetI s r v) := by
  unfold rsetI
  repeat' first | with_reducible assumption | with_reducible apply keeps_rset

theorem keeps_dropLines {b0 s : State} (h : Keeps b0 s) (a : Nat) (n : Nat) : Keeps b0 (dropLines s a n) := by
  unfold dropLines
  repeat' first | with_reducible assumption | (simp only [keeps_mk_iff]; with_reducible apply keepsVia_left)

theorem keeps_wakeWaits {b0 s : State} (h : Keeps b0 s) (a : Nat) (n : Nat) : Keeps b0 (wakeWaits s a n) := by
  unfold wakeWaits
  repeat' first | with_reducible assumption | (simp only [keeps_mk_iff]; with_reducible apply keepsVia_left)

theorem keeps_hbmWrite {b0 s : State} (h : Keeps b0 s) (a : Nat) (bs : List Byte) : Keeps b0 (hbmWrite s a bs) := by
  unfold hbmWrite
  apply keeps_wakeWaits
  exact keeps_mem (keeps_dropLines h a bs.length) (Nat.le_refl _) (Mem.wf_writeN _ _ _)

theorem keeps_semAdd {b0 s : State} (h : Keeps b0 s) (j : Nat) (v : Nat) : Keeps b0 (semAdd s j v) := by
  unfold semAdd
  repeat' first | with_reducible assumption | with_reducible apply keeps_hbmWrite | with_reducible apply keeps_ite | intro _

theorem keeps_draw {b0 s : State} (h : Keeps b0 s) : Keeps b0 (draw s).2 := by
  unfold draw
  repeat' first | with_reducible assumption | (simp only [keeps_mk_draw_iff]; with_reducible apply keepsVia_left)

theorem keeps_traceQueue {b0 s : State} (h : Keeps b0 s) (r : List Word) : Keeps b0 (traceQueue s r) := by
  unfold traceQueue
  repeat' first | with_reducible assumption | with_reducible apply keeps_rinc | with_reducible apply keeps_ite | (simp only [keeps_mk_iff]; with_reducible apply keepsVia_left) | intro _

theorem keeps_traceMake {b0 s : State} (h : Keeps b0 s) (rtype : Nat) (w2 : Word) (w3 : Word) : Keeps b0 (traceMake s rtype w2 w3) := by
  unfold traceMake
  repeat' first | with_reducible assumption | with_reducible apply keeps_traceQueue | with_reducible apply keeps_ite | intro _

theorem keeps_traceFabric {b0 s : State} (h : Keeps b0 s) (event : Nat) (peer : Nat) (eyelet : Nat) (lane : Nat) (seq : Nat) (count : Nat) : Keeps b0 (traceFabric s event peer eyelet lane seq count) := by
  unfold traceFabric
  repeat' first | with_reducible assumption | with_reducible apply keeps_traceMake

theorem keeps_traceGeneration {b0 s : State} (h : Keeps b0 s) (what : Nat) (ext : Nat) : Keeps b0 (traceGeneration s what ext) := by
  unfold traceGeneration
  repeat' first | with_reducible assumption | with_reducible apply keeps_traceMake

theorem keeps_treadLose {b0 s : State} (h : Keeps b0 s) : Keeps b0 (treadLose s) := by
  unfold treadLose
  repeat' first | with_reducible assumption | with_reducible apply keeps_rinc | (simp only [keeps_mk_iff]; with_reducible apply keepsVia_left)

theorem keeps_treadPut {b0 s : State} (h : Keeps b0 s) (r : TreadRec) : Keeps b0 (treadPut s r) := by
  unfold treadPut
  repeat' first | with_reducible assumption | with_reducible apply keeps_hbmWrite | with_reducible apply keeps_rset | (simp only [keeps_mk_iff]; with_reducible apply keepsVia_left)

theorem keeps_treadLog {b0 s : State} (h : Keeps b0 s) (kind : Nat) (src : Nat) (queue : Nat) (arg : Nat) (payload : List Byte) : Keeps b0 (treadLog s kind src queue arg payload) := by
  unfold treadLog
  repeat' first | with_reducible assumption | with_reducible apply keeps_treadLose | with_reducible apply keeps_treadPut | with_reducible apply keeps_ite | intro _

theorem keeps_treadFreezeOp {b0 s : State} (h : Keeps b0 s) : Keeps b0 (treadFreezeOp s) := by
  unfold treadFreezeOp
  repeat' first | with_reducible assumption | with_reducible apply keeps_rset | with_reducible apply keeps_rinc | with_reducible apply keeps_ite | (simp only [keeps_mk_iff]; with_reducible apply keepsVia_left) | intro _

theorem keeps_treadEmpty {b0 s : State} (h : Keeps b0 s) : Keeps b0 (treadEmpty s) := by
  unfold treadEmpty
  repeat' first | with_reducible assumption | with_reducible apply keeps_rset | (simp only [keeps_mk_iff]; with_reducible apply keepsVia_left)

theorem keeps_report {b0 s : State} (h : Keeps b0 s) (code : Nat) : Keeps b0 (report s code) := by
  unfold report
  repeat' first | with_reducible assumption | (simp only [keeps_mk_iff]; with_reducible apply keepsVia_left) | split

theorem keeps_tileError {b0 s : State} (h : Keeps b0 s) (p : Nat) (cls : Nat) : Keeps b0 (tileError s p cls) := by
  unfold tileError
  repeat' first | with_reducible assumption | with_reducible apply keeps_rinc

theorem keeps_keepRecord {b0 s : State} (h : Keeps b0 s) (r : FaultRec) : Keeps b0 (keepRecord s r) := by
  unfold keepRecord
  repeat' first | with_reducible assumption | with_reducible apply keeps_radd | with_reducible apply keeps_ite | (simp only [keeps_mk_iff]; with_reducible apply keepsVia_left) | intro _

theorem keeps_raise {b0 s : State} (h : Keeps b0 s) (e : Event) : Keeps b0 (raise s e) := by
  unfold raise
  dsimp only
  repeat' first | with_reducible assumption | with_reducible apply keeps_keepRecord | with_reducible apply keeps_rinc | with_reducible apply keeps_tileError | with_reducible apply keeps_report | (simp only [keeps_mk_iff]; with_reducible apply keepsVia_left) | intro _ | split

theorem keeps_notice {b0 s : State} (h : Keeps b0 s) (code : Nat) (unitKind : Nat) (unit : Nat) (detail : Nat) : Keeps b0 (notice s code unitKind unit detail) := by
  unfold notice
  repeat' first | with_reducible assumption | with_reducible apply keeps_raise

theorem keeps_flashStore {b0 s : State} (h : Keeps b0 s) (p : FlashPart) : Keeps b0 (flashStore s p) := by
  unfold flashStore
  repeat' first | with_reducible assumption | with_reducible apply keeps_rinc | (simp only [keeps_mk_iff]; with_reducible apply keepsVia_left)

theorem keeps_flashCommit {b0 s : State} (h : Keeps b0 s) (p : FlashPart) : Keeps b0 (flashCommit s p) := by
  unfold flashCommit
  repeat' first | with_reducible assumption | with_reducible apply keeps_notice | with_reducible apply keeps_flashStore | with_reducible apply keeps_ite | (simp only [keeps_mk_draw_iff]; with_reducible apply keepsVia_left) | intro _

theorem keeps_setLane {b0 s : State} (h : Keeps b0 s) (e : Nat) (k : Nat) (f : Lane → Lane) : Keeps b0 (setLane s e k f) := by
  unfold setLane
  repeat' first | with_reducible assumption | (simp only [keeps_mk_iff]; with_reducible apply keepsVia_left)

theorem keeps_setLtile {b0 s : State} (h : Keeps b0 s) (t : Nat) (f : LogTile → LogTile) : Keeps b0 (setLtile s t f) := by
  unfold setLtile
  repeat' first | with_reducible assumption | (simp only [keeps_mk_iff]; with_reducible apply keepsVia_left)

theorem keeps_setPtile {b0 s : State} (h : Keeps b0 s) (p : Nat) (f : PhysTile → PhysTile) : Keeps b0 (setPtile s p f) := by
  unfold setPtile
  repeat' first | with_reducible assumption | (simp only [keeps_mk_iff]; with_reducible apply keepsVia_left)

theorem keeps_markDirty {b0 s : State} (h : Keeps b0 s) (t : Nat) (a : Nat) : Keeps b0 (markDirty s t a) := by
  unfold markDirty
  repeat' first | with_reducible assumption | with_reducible apply keeps_setLtile

theorem keeps_activityAdd {b0 s : State} (h : Keeps b0 s) (p : Nat) (kind : Nat) (fmt : Nat) (n : Nat) : Keeps b0 (activityAdd s p kind fmt n) := by
  unfold activityAdd
  repeat' first | with_reducible assumption | (simp only [keeps_mk_iff]; with_reducible apply keepsVia_left)

theorem keeps_scratchWrite {b0 s : State} (h : Keeps b0 s) (t : Nat) (a : Nat) (bs : List Byte) : Keeps b0 (scratchWrite s t a bs) := by
  unfold scratchWrite
  repeat' first | with_reducible assumption | with_reducible apply keeps_activityAdd | with_reducible apply keeps_markDirty | with_reducible apply keeps_setPtile | with_reducible apply keeps_ite | intro _

theorem keeps_digestAdd {b0 s : State} (h : Keeps b0 s) (t : Nat) (b : Nat) (target : Nat) (g : List Byte) : Keeps b0 (digestAdd s t b target g) := by
  unfold digestAdd
  repeat' first | with_reducible assumption | with_reducible apply keeps_setLtile | split

theorem keeps_schedWrite {b0 s : State} (h : Keeps b0 s) (t : Nat) (b : Nat) (a : Nat) (bs : List Byte) : Keeps b0 (schedWrite s t b a bs) := by
  unfold schedWrite
  repeat' first | with_reducible assumption | with_reducible apply keeps_scratchWrite | with_reducible apply keeps_digestAdd | with_reducible apply keeps_ite | intro _

theorem keeps_schedWriteHandle {b0 s : State} (h : Keeps b0 s) (t : Nat) (w : Word) (off : Nat) (c : Nat) (bs : List Byte) : Keeps b0 (schedWriteHandle s t w off c bs) := by
  unfold schedWriteHandle
  repeat' first | with_reducible assumption | with_reducible apply keeps_schedWrite | with_reducible apply keeps_ite | with_reducible apply keeps_foldl | intro _

theorem keeps_convCount {b0 s : State} (h : Keeps b0 s) (t : Nat) (kind : Nat) (n : Nat) : Keeps b0 (convCount s t kind n) := by
  unfold convCount
  repeat' first | with_reducible assumption | with_reducible apply keeps_radd

theorem keeps_opCount {b0 s : State} (h : Keeps b0 s) (t : Nat) (type : Nat) (fmt : Nat) (n : Nat) : Keeps b0 (opCount s t type fmt n) := by
  unfold opCount
  repeat' first | with_reducible assumption | with_reducible apply keeps_radd

theorem keeps_inject {b0 s : State} (h : Keeps b0 s) (slice : Nat) (p : Packet) : Keeps b0 (inject s slice p) := by
  unfold inject
  repeat' first | with_reducible assumption | (simp only [keeps_mk_iff]; with_reducible apply keepsVia_left)

theorem keeps_sendOther {b0 s : State} (h : Keeps b0 s) (slice : Nat) (p : Packet) (seq : Nat) (tag : Nat) : Keeps b0 (sendOther s slice p seq tag) := by
  unfold sendOther
  repeat' first | with_reducible assumption | with_reducible apply keeps_inject | with_reducible apply keeps_ite | (simp only [keeps_mk_iff]; with_reducible apply keepsVia_left) | intro _

theorem keeps_sendControl {b0 s : State} (h : Keeps b0 s) (dst : Nat) (payload : List Word) : Keeps b0 (sendControl s dst payload) := by
  unfold sendControl
  repeat' first | with_reducible assumption | with_reducible apply keeps_sendOther

theorem keeps_queueRequest {b0 s : State} (h : Keeps b0 s) (dst : Nat) (p : Packet) (o : Origin) : Keeps b0 (queueRequest s dst p o) := by
  unfold queueRequest
  repeat' first | with_reducible assumption | (simp only [keeps_mk_iff]; with_reducible apply keepsVia_left)

theorem keeps_setResult {b0 s : State} (h : Keeps b0 s) (o : Option (Nat × Nat)) (r : Result) : Keeps b0 (setResult s o r) := by
  unfold setResult
  repeat' first | with_reducible assumption | (simp only [keeps_mk_iff]; with_reducible apply keepsVia_left) | split

theorem keeps_traceLast {b0 s : State} (h : Keeps b0 s) (slot : Nat) (st : SlotState) : Keeps b0 (traceLast s slot st) := by
  unfold traceLast
  repeat' first | with_reducible assumption | with_reducible apply keeps_traceMake | intro _ | split

theorem keeps_setSlot {b0 s : State} (h : Keeps b0 s) (slot : Nat) (st : SlotState) : Keeps b0 (setSlot s slot st) := by
  unfold setSlot
  repeat' first | with_reducible assumption | with_reducible apply keeps_traceLast | (simp only [keeps_mk_iff]; with_reducible apply keepsVia_left)

theorem keeps_setRun {b0 s : State} (h : Keeps b0 s) (f : Run → Run) : Keeps b0 (setRun s f) := by
  unfold setRun
  repeat' first | with_reducible assumption | (simp only [keeps_mk_iff]; with_reducible apply keepsVia_left)

theorem keeps_closeWindows {b0 s : State} (h : Keeps b0 s) : Keeps b0 (closeWindows s) := by
  unfold closeWindows
  repeat' first | with_reducible assumption | (simp only [keeps_mk_iff]; with_reducible apply keepsVia_left)

theorem keeps_clearHandles {b0 s : State} (h : Keeps b0 s) : Keeps b0 (clearHandles s) := by
  unfold clearHandles
  repeat' first | with_reducible assumption | (simp only [keeps_mk_iff]; with_reducible apply keepsVia_left)

theorem keeps_releasePins {b0 s : State} (h : Keeps b0 s) : Keeps b0 (releasePins s) := by
  unfold releasePins
  repeat' first | with_reducible assumption | (simp only [keeps_mk_iff]; with_reducible apply keepsVia_left)

theorem keeps_endCleanup {b0 s : State} (h : Keeps b0 s) : Keeps b0 (endCleanup s) := by
  unfold endCleanup
  repeat' first | with_reducible assumption | with_reducible apply keeps_releasePins | with_reducible apply keeps_clearHandles | with_reducible apply keeps_closeWindows

theorem keeps_dropScheduled {b0 s : State} (h : Keeps b0 s) : Keeps b0 (dropScheduled s) := by
  unfold dropScheduled
  repeat' first | with_reducible assumption | (simp only [keeps_mk_iff]; with_reducible apply keepsVia_left)

theorem keeps_sendFaults {b0 s : State} (h : Keeps b0 s) (r : Run) (cause : Nat) (failed : Nat) (faultBeat : Nat) : Keeps b0 (sendFaults s r cause failed faultBeat) := by
  unfold sendFaults
  repeat' first | with_reducible assumption | with_reducible apply keeps_sendControl | with_reducible apply keeps_foldl | intro _

theorem keeps_faultCleanup {b0 s : State} (h : Keeps b0 s) : Keeps b0 (faultCleanup s) := by
  unfold faultCleanup
  repeat' first | with_reducible assumption | with_reducible apply keeps_setRun | with_reducible apply keeps_endCleanup | with_reducible apply keeps_dropScheduled | intro _ | split

theorem keeps_stepFault {b0 s : State} (h : Keeps b0 s) (cause : Nat) (unitKind : Nat) (unit : Nat) (failed : Option Nat) (detail : Nat) (injected : Bool) : Keeps b0 (stepFault s cause unitKind unit failed detail injected) := by
  unfold stepFault
  repeat' first | with_reducible assumption | with_reducible apply keeps_raise | with_reducible apply keeps_treadFreezeOp | with_reducible apply keeps_sendFaults | with_reducible apply keeps_setRun | with_reducible apply keeps_setSlot | (simp only [keeps_mk_iff]; with_reducible apply keepsVia_left) | intro _ | split

theorem keeps_stepFaultIfRunning {b0 s : State} (h : Keeps b0 s) (cause : Nat) (unitKind : Nat) (unit : Nat) (detail : Nat) : Keeps b0 (stepFaultIfRunning s cause unitKind unit detail) := by
  unfold stepFaultIfRunning
  repeat' first | with_reducible assumption | with_reducible apply keeps_stepFault | with_reducible apply keeps_ite | intro _

theorem keeps_tileFault {b0 s : State} (h : Keeps b0 s) (t : Nat) (cause : Nat) (detail : Nat) : Keeps b0 (tileFault s t cause detail) := by
  unfold tileFault
  repeat' first | with_reducible assumption | with_reducible apply keeps_stepFault

theorem keeps_injectionDone {b0 s : State} (h : Keeps b0 s) (kind : Nat) (unit : Nat) : Keeps b0 (injectionDone s kind unit) := by
  unfold injectionDone
  repeat' first | with_reducible assumption | with_reducible apply keeps_rinc | (simp only [keeps_mk_iff]; with_reducible apply keepsVia_left) | split

theorem keeps_fenceInjectionDone {b0 s : State} (h : Keeps b0 s) : Keeps b0 (fenceInjectionDone s) := by
  unfold fenceInjectionDone
  repeat' first | with_reducible assumption | with_reducible apply keeps_injectionDone | with_reducible apply keeps_ite | with_reducible apply keeps_foldl | intro _

theorem keeps_rollbackInjectionDone {b0 s : State} (h : Keeps b0 s) : Keeps b0 (rollbackInjectionDone s) := by
  unfold rollbackInjectionDone
  repeat' first | with_reducible assumption | with_reducible apply keeps_fenceInjectionDone | with_reducible apply keeps_injectionDone

theorem keeps_issue {b0 s : State} (h : Keeps b0 s) (t : Nat) (op : Nat) (args : Nat) (act : State → Run → Nat → State) (hact : ∀ t y1 y2, Keeps b0 t → Keeps b0 (act t y1 y2)) : Keeps b0 (issue s t op args act) := by
  unfold issue
  repeat' first | with_reducible assumption | with_reducible apply hact | with_reducible apply keeps_setRun | intro _ | split

theorem keeps_execIdle {b0 s : State} (h : Keeps b0 s) (tile : Nat) : Keeps b0 (outState s (execIdle tile s)) := by
  unfold execIdle
  repeat' first | with_reducible assumption | rw [outState_next] | with_reducible apply keeps_issue | intro _

theorem keeps_setWindow {b0 s : State} (h : Keeps b0 s) (t : Nat) (slot : Nat) (w : Word) : Keeps b0 (setWindow s t slot w) := by
  unfold setWindow
  repeat' first | with_reducible assumption | with_reducible apply keeps_setLtile

theorem keeps_execWindow {b0 s : State} (h : Keeps b0 s) (tile : Nat) (slot : Nat) (action : Nat) (image : Nat) : Keeps b0 (outState s (execWindow tile slot action image s)) := by
  unfold execWindow
  repeat' first | with_reducible assumption | rw [outState_next] | with_reducible apply keeps_issue | with_reducible apply keeps_setWindow | with_reducible apply keeps_ite | intro _

theorem keeps_setArray {b0 s : State} (h : Keeps b0 s) (p : Nat) (a : Nat) (f : ArrayState → ArrayState) : Keeps b0 (setArray s p a f) := by
  unfold setArray
  repeat' first | with_reducible assumption | with_reducible apply keeps_setPtile

theorem keeps_arrayFault {b0 s : State} (h : Keeps b0 s) (t : Nat) (a : Nat) (detail : Nat) : Keeps b0 (arrayFault s t a detail) := by
  unfold arrayFault
  repeat' first | with_reducible assumption | with_reducible apply keeps_stepFault

theorem keeps_execPass {b0 s : State} (h : Keeps b0 s) (tile : Nat) (array : Nat) (entry : Nat) : Keeps b0 (outState s (execPass tile array entry s)) := by
  unfold execPass
  dsimp only
  repeat' first | with_reducible assumption | rw [outState_next] | with_reducible apply keeps_issue | with_reducible apply keeps_setArray | with_reducible apply keeps_arrayFault | with_reducible apply keeps_opCount | intro _ | split

theorem keeps_execFunc {b0 s : State} (h : Keeps b0 s) (tile : Nat) (entry : Nat) : Keeps b0 (outState s (execFunc tile entry s)) := by
  unfold execFunc
  dsimp only
  repeat' first | with_reducible assumption | rw [outState_next] | with_reducible apply keeps_issue | with_reducible apply keeps_tileFault | with_reducible apply keeps_arrayFault | with_reducible apply keeps_setPtile | with_reducible apply keeps_opCount | intro _ | split

theorem keeps_countConv {b0 s : State} (h : Keeps b0 s) (t : Nat) (e : RowOut) : Keeps b0 (countConv s t e) := by
  unfold countConv
  repeat' first | with_reducible assumption | with_reducible apply keeps_convCount

theorem keeps_setLaceSet {b0 s : State} (h : Keeps b0 s) (i : Nat) (f : LaceSet → LaceSet) : Keeps b0 (setLaceSet s i f) := by
  unfold setLaceSet
  repeat' first | with_reducible assumption | (simp only [keeps_mk_iff]; with_reducible apply keepsVia_left)

theorem keeps_answer {b0 s : State} (h : Keeps b0 s) (via : Via) (kind : Nat) (index : Nat) (sub : Nat) (status : Nat) : Keeps b0 (answer s via kind index sub status) := by
  unfold answer
  repeat' first | with_reducible assumption | with_reducible apply keeps_emit

theorem keeps_countDenied {b0 s : State} (h : Keeps b0 s) (status : Nat) : Keeps b0 (countDenied s status) := by
  unfold countDenied
  repeat' first | with_reducible assumption | with_reducible apply keeps_rinc | with_reducible apply keeps_ite | intro _

theorem keeps_dropRequest {b0 s : State} (h : Keeps b0 s) (via : Via) : Keeps b0 (dropRequest s via) := by
  unfold dropRequest
  repeat' first | with_reducible assumption | with_reducible apply keeps_rinc | split

theorem keeps_logMailboxWrite {b0 s : State} (h : Keeps b0 s) (via : Via) : Keeps b0 (logMailboxWrite s via) := by
  unfold logMailboxWrite
  repeat' first | with_reducible assumption | with_reducible apply keeps_treadLog | split

theorem keeps_applyWrite {b0 s : State} (h : Keeps b0 s) (via : Via) (index : Nat) (sub : Nat) (act : State → Nat × State) (hact : ∀ t, Keeps b0 t → Keeps b0 (act t).2) : Keeps b0 (applyWrite s via index sub act).2 := by
  unfold applyWrite
  dsimp only
  repeat' first | with_reducible assumption | with_reducible apply hact | with_reducible apply keeps_countDenied | with_reducible apply keeps_logMailboxWrite | intro _ | split

theorem keeps_doWrite {b0 s : State} (h : Keeps b0 s) (via : Via) (index : Nat) (sub : Nat) (act : State → Nat × State) (hact : ∀ t, Keeps b0 t → Keeps b0 (act t).2) : Keeps b0 (doWrite s via index sub act) := by
  unfold doWrite
  repeat' first | with_reducible assumption | with_reducible apply keeps_dropRequest | with_reducible apply keeps_applyWrite | with_reducible apply keeps_answer | with_reducible apply keeps_ite | intro _

theorem keeps_refuse {b0 s : State} (h : Keeps b0 s) (code : Nat) : Keeps b0 (refuse s code).2 := by
  unfold refuse
  repeat' with_reducible assumption

theorem keeps_accept {b0 s : State} (h : Keeps b0 s) : Keeps b0 (accept s).2 := by
  unfold accept
  repeat' with_reducible assumption

theorem keeps_refuseWindow {b0 s : State} (h : Keeps b0 s) (t : Nat) (scheduled : Bool) : Keeps b0 (refuseWindow s t scheduled) := by
  unfold refuseWindow
  repeat' first | with_reducible assumption | with_reducible apply keeps_rinc | with_reducible apply keeps_tileFault | with_reducible apply keeps_ite | intro _

theorem keeps_execInboundPacketHead {b0 s : State} (h : Keeps b0 s) (tile : Nat) (h : TileHead) : Keeps b0 (outState s (execInboundPacketHead tile h s)) := by
  unfold execInboundPacketHead
  repeat' first | with_reducible assumption | rw [outState_next] | with_reducible apply keeps_emit | with_reducible apply keeps_refuseWindow | with_reducible apply keeps_ite | intro _

theorem keeps_startZeroise {b0 s : State} (h : Keeps b0 s) (p : Nat) : Keeps b0 (startZeroise s p) := by
  unfold startZeroise
  repeat' first | with_reducible assumption | with_reducible apply keeps_setPtile

theorem keeps_setHealth {b0 s : State} (h : Keeps b0 s) (p : Nat) (h : Health) : Keeps b0 (setHealth s p h) := by
  unfold setHealth
  repeat' first | with_reducible assumption | with_reducible apply keeps_flashCommit | with_reducible apply keeps_setPtile | with_reducible apply keeps_ite | intro _

theorem keeps_clearTile {b0 s : State} (h : Keeps b0 s) (p : Nat) : Keeps b0 (clearTile s p) := by
  unfold clearTile
  repeat' first | with_reducible assumption | with_reducible apply keeps_setPtile

theorem keeps_zeroiseFailed {b0 s : State} (h : Keeps b0 s) (p : Nat) : Keeps b0 (zeroiseFailed s p) := by
  unfold zeroiseFailed
  have k : Keeps b0 { setPtile (clearTile s p) p (fun x => { x with scratch := { cells := [], free := some s.draws } }) with draws := s.draws + 1 } :=
    keeps_update (keeps_setPtile (keeps_clearTile h p) p _) (Nat.le_succ _) rfl
  have k2 := keeps_notice (keeps_setHealth k p .failed) Code.zeroiseFail 7 p p
  dsimp only
  split
  · exact keeps_flashCommit (keeps_flashCommit (keeps_update k2 (Nat.le_refl _) rfl) _) _
  · exact k2

theorem keeps_execTileZeroiseDone {b0 s : State} (h : Keeps b0 s) (phys : Nat) (ok : Bool) (cycles : Nat) : Keeps b0 (outState s (execTileZeroiseDone phys ok cycles s)) := by
  unfold execTileZeroiseDone
  repeat' first | with_reducible assumption | rw [outState_next] | with_reducible apply keeps_rset | with_reducible apply keeps_clearTile | with_reducible apply keeps_zeroiseFailed | with_reducible apply keeps_setPtile | (simp only [keeps_mk_iff]; with_reducible apply keepsVia_left) | intro _ | split

theorem keeps_bankReads {b0 s : State} (h : Keeps b0 s) (n : Nat) (xs : List Loc) : Keeps b0 (bankReads s n xs) := by
  unfold bankReads
  repeat' first | with_reducible assumption | with_reducible apply keeps_activityAdd | with_reducible apply keeps_foldl | intro _ | split

theorem keeps_translate {b0 s : State} (h : Keeps b0 s) (key : Nat) (v : Nat) (pinnedOnly : Bool) (q : Ask) : Keeps b0 (translate s key v pinnedOnly q).2 := by
  unfold translate
  dsimp only
  repeat' first | with_reducible assumption | (simp only [keeps_mk_iff]; with_reducible apply keepsVia_left) | split

theorem keeps_translateInbound {b0 s : State} (h : Keeps b0 s) (die : Nat) (v : Nat) (q : Ask) : Keeps b0 (translateInbound s die v q).2 := by
  unfold translateInbound
  repeat' first | with_reducible assumption | (simp only [keeps_mk_iff]; with_reducible apply keepsVia_left) | split

theorem keeps_invalidateXlate {b0 s : State} (h : Keeps b0 s) : Keeps b0 (invalidateXlate s) := by
  unfold invalidateXlate
  repeat' first | with_reducible assumption | (simp only [keeps_mk_iff]; with_reducible apply keepsVia_left)

theorem keeps_wXlateInvalidate {b0 s : State} (h : Keeps b0 s) (v : Nat) : Keeps b0 (wXlateInvalidate v s).2 := by
  unfold wXlateInvalidate
  repeat' first | with_reducible assumption | with_reducible apply keeps_refuse | with_reducible apply keeps_accept | with_reducible apply keeps_invalidateXlate | split

theorem keeps_wXlateRoot {b0 s : State} (h : Keeps b0 s) (v : Nat) : Keeps b0 (wXlateRoot v s).2 := by
  unfold wXlateRoot
  repeat' first | with_reducible assumption | with_reducible apply keeps_refuse | with_reducible apply keeps_accept | with_reducible apply keeps_invalidateXlate | with_reducible apply keeps_rset | split

theorem keeps_execXlateInvalidate {b0 s : State} (h : Keeps b0 s) (via : Via) (v : Nat) : Keeps b0 (outState s (execXlateInvalidate via v s)) := by
  unfold execXlateInvalidate
  repeat' first | with_reducible assumption | rw [outState_next] | with_reducible apply keeps_doWrite | with_reducible apply keeps_wXlateInvalidate | intro _

theorem keeps_execXlateRootWrite {b0 s : State} (h : Keeps b0 s) (via : Via) (v : Nat) : Keeps b0 (outState s (execXlateRootWrite via v s)) := by
  unfold execXlateRootWrite
  repeat' first | with_reducible assumption | rw [outState_next] | with_reducible apply keeps_doWrite | with_reducible apply keeps_wXlateRoot | intro _

theorem keeps_lineFill {b0 s : State} (h : Keeps b0 s) (p : Nat) (a : Nat) : Keeps b0 (lineFill s p a) := by
  unfold lineFill
  repeat' first | with_reducible assumption | with_reducible apply keeps_setPtile

theorem keeps_atomicAt {b0 s : State} (h : Keeps b0 s) (x : Option Loc) (addr : Nat) (op : Nat) (wide : Nat) (v : Word) (cmp : Word) : Keeps b0 (atomicAt s x addr op wide v cmp).2 := by
  unfold atomicAt
  dsimp only
  repeat' first | with_reducible assumption | with_reducible apply keeps_hbmWrite | split

theorem keeps_accStoreAt {b0 s : State} (h : Keeps b0 s) (x : Option Loc) (fmt : Nat) (en : Nat) (data : List Byte) : Keeps b0 (accStoreAt s x fmt en data).2 := by
  unfold accStoreAt
  repeat' first | with_reducible assumption | with_reducible apply keeps_hbmWrite | split

theorem keeps_lineWrite {b0 s : State} (h : Keeps b0 s) (line : Nat) (ws : List (Nat × Nat × Nat)) : Keeps b0 (lineWrite s line ws).2 := by
  unfold lineWrite
  dsimp only
  repeat' first | with_reducible assumption | with_reducible apply keeps_hbmWrite | split

theorem keeps_execHomeSliceWrite {b0 s : State} (h : Keeps b0 s) (addr : Nat) (data : List Byte) (enables : Nat) : Keeps b0 (outState s (execHomeSliceWrite addr data enables s)) := by
  unfold execHomeSliceWrite
  repeat' first | with_reducible assumption | rw [outState_next] | with_reducible apply keeps_clocked | with_reducible apply keeps_lineWrite | with_reducible apply keeps_emit | split

theorem keeps_execAtomic {b0 s : State} (h : Keeps b0 s) (addr : Nat) (op : Nat) (width : Nat) (value : Word) (compare : Word) : Keeps b0 (outState s (execAtomic addr op width value compare s)) := by
  unfold execAtomic
  repeat' first | with_reducible assumption | rw [outState_next] | with_reducible apply keeps_atomicAt | with_reducible apply keeps_clocked | with_reducible apply keeps_emit

theorem keeps_execAccStore {b0 s : State} (h : Keeps b0 s) (addr : Nat) (fmt : Nat) (data : List Byte) (enables : Nat) : Keeps b0 (outState s (execAccStore addr fmt data enables s)) := by
  unfold execAccStore
  repeat' first | with_reducible assumption | rw [outState_next] | with_reducible apply keeps_accStoreAt | with_reducible apply keeps_clocked | with_reducible apply keeps_emit

theorem keeps_detect {b0 s : State} (h : Keeps b0 s) (a : Nat) : Keeps b0 (detect s a) := by
  unfold detect
  repeat' first | with_reducible assumption | with_reducible apply keeps_rset | with_reducible apply keeps_ite | (simp only [keeps_mk_iff]; with_reducible apply keepsVia_left) | intro _

theorem keeps_decodeRead {b0 s : State} (h : Keeps b0 s) (a n position : Nat) (miscorrected : Option (List Byte)) :
    Keeps b0 (decodeRead s a n position miscorrected) := by
  unfold decodeRead
  dsimp only
  split
  · exact h
  · split
    · exact keeps_update h (Nat.le_refl _) rfl
    · split
      · split
        · exact keeps_detect h a
        · split
          · exact keeps_update h (Nat.le_refl _) rfl
          · exact keeps_mem h (Nat.le_refl _) (Mem.wf_writeN _ _ _)
      · exact keeps_detect h a

theorem keeps_patrolAdvance {b0 s : State} (h : Keeps b0 s) : Keeps b0 (patrolAdvance s) := by
  unfold patrolAdvance
  repeat' first | with_reducible assumption | with_reducible apply keeps_rinc | with_reducible apply keeps_rset | with_reducible apply keeps_ite | intro _

theorem keeps_execPatrolScrubRead {b0 s : State} (h : Keeps b0 s) (symbolErrors : Nat) (position : Nat) (_newerWrite : Bool) : Keeps b0 (outState s (execPatrolScrubRead symbolErrors position _newerWrite s)) := by
  unfold execPatrolScrubRead
  repeat' first | with_reducible assumption | rw [outState_next] | with_reducible apply keeps_patrolAdvance | with_reducible apply keeps_decodeRead | (simp only [keeps_mk_draw_iff]; with_reducible apply keepsVia_left) | intro _ | split

theorem keeps_scrubHbm {b0 s : State} (h : Keeps b0 s) : Keeps b0 (scrubHbm s) := keeps_mem h (Nat.le_refl _) (fun _ => rfl)

theorem keeps_scrubEnd {b0 s : State} (h : Keeps b0 s) (us : Nat) (failedStack : Option Nat) : Keeps b0 (scrubEnd s us failedStack) := by
  unfold scrubEnd
  repeat' first | with_reducible assumption | with_reducible apply keeps_scrubHbm | with_reducible apply keeps_rset | with_reducible apply keeps_notice | with_reducible apply keeps_flashCommit | (simp only [keeps_mk_iff]; with_reducible apply keepsVia_left) | intro _ | split

theorem keeps_execHbmScrubDone {b0 s : State} (h : Keeps b0 s) (us : Nat) (failedStack : Option Nat) : Keeps b0 (outState s (execHbmScrubDone us failedStack s)) := by
  unfold execHbmScrubDone
  repeat' first | with_reducible assumption | rw [outState_next] | with_reducible apply keeps_scrubEnd

theorem keeps_decodeFrame {b0 s : State} (h : Keeps b0 s) (stack : Nat) (pc : Nat) (granted : Nat) : Keeps b0 (decodeFrame s stack pc granted) := by
  unfold decodeFrame
  repeat' first | with_reducible assumption | with_reducible apply keeps_decodeRead | with_reducible apply keeps_foldl | (simp only [keeps_mk_draw_iff]; with_reducible apply keepsVia_left) | intro _

theorem keeps_execFrameStart {b0 s : State} (h : Keeps b0 s) (stack : Nat) (pc : Nat) (sched : Nat) (maint : Nat) (unsched : List Nat) : Keeps b0 (outState s (execFrameStart stack pc sched maint unsched s)) := by
  unfold execFrameStart
  repeat' first | with_reducible assumption | rw [outState_next] | with_reducible apply keeps_clocked | with_reducible apply keeps_decodeFrame | (simp only [keeps_mk_iff]; with_reducible apply keepsVia_left)

theorem keeps_setBucket {b0 s : State} (h : Keeps b0 s) (die : Nat) (p : Nat) (b : Bucket) : Keeps b0 (setBucket s die p b) := by
  unfold setBucket
  repeat' first | with_reducible assumption | (simp only [keeps_mk_iff]; with_reducible apply keepsVia_left)

theorem keeps_wPartitionCommit {b0 s : State} (h : Keeps b0 s) (v : Nat) : Keeps b0 (wPartitionCommit v s).2 := by
  unfold wPartitionCommit
  repeat' first | with_reducible assumption | with_reducible apply keeps_refuse | with_reducible apply keeps_accept | with_reducible apply keeps_setBucket | with_reducible apply keeps_foldl | (simp only [keeps_mk_iff]; with_reducible apply keepsVia_left) | intro _ | split

theorem keeps_execPartitionCommit {b0 s : State} (h : Keeps b0 s) (via : Via) (v : Nat) : Keeps b0 (outState s (execPartitionCommit via v s)) := by
  unfold execPartitionCommit
  repeat' first | with_reducible assumption | rw [outState_next] | with_reducible apply keeps_doWrite | with_reducible apply keeps_wPartitionCommit | intro _

theorem keeps_regulate {b0 s : State} (h : Keeps b0 s) (die : Nat) (now : Nat) (r : RegRequest) : Keeps b0 (regulate s die now r).2 := by
  unfold regulate
  dsimp only
  repeat' first | with_reducible assumption | with_reducible apply keeps_setBucket | with_reducible apply keeps_rinc | split

theorem keeps_forgetRequest {b0 s : State} (h : Keeps b0 s) (id : Nat) : Keeps b0 (forgetRequest s id) := by
  unfold forgetRequest
  repeat' first | with_reducible assumption | (simp only [keeps_mk_iff]; with_reducible apply keepsVia_left)

theorem keeps_regAdmit {b0 s : State} (h : Keeps b0 s) (die : Nat) (p : Nat) (now : Nat) : Keeps b0 (regAdmit s die p now).2 := by
  unfold regAdmit
  dsimp only
  repeat' first | with_reducible assumption | with_reducible apply keeps_setBucket | with_reducible apply keeps_rinc | intro _ | split

theorem keeps_regAdmitAll {b0 : State} (die p now : Nat) (n : Nat) : ∀ {s : State}, Keeps b0 s → Keeps b0 (regAdmitAll die p now n s).2 := by
  induction n with
  | zero => exact fun h => h
  | succ n ih =>
    intro s h
    unfold regAdmitAll
    have k := keeps_regAdmit h die p now
    split
    · rename_i e
      rw [e] at k
      exact ih k
    · rename_i e
      rw [e] at k
      exact k

theorem keeps_regExpire {b0 s : State} (h : Keeps b0 s) (die : Nat) (p : Nat) (now : Nat) : Keeps b0 (regExpire s die p now).2.2 := by
  unfold regExpire
  repeat' first | with_reducible assumption | with_reducible apply keeps_regAdmitAll | with_reducible apply keeps_radd | with_reducible apply keeps_setBucket

end Sys2Proof.Machine
end

