-- ==== Sys2Proof/Laws/KeepsCopies.lean ====
section
/-! SUPPORT. Copies, the commands of queues and snapshots keep what every operation keeps: the queue, the outbox, the free values given, and the canonical forms. -/

namespace Sys2Proof.Machine

theorem keeps_putCtx {b0 s : State} (h : Keeps b0 s) (k : Nat) (c : CopyRec) : Keeps b0 (putCtx s k c) := by
  unfold putCtx
  repeat' first | with_reducible assumption | (simp only [keeps_mk_iff]; with_reducible apply keepsVia_left)

theorem keeps_delCtx {b0 s : State} (h : Keeps b0 s) (k : Nat) : Keeps b0 (delCtx s k) := by
  unfold delCtx
  repeat' first | with_reducible assumption | (simp only [keeps_mk_iff]; with_reducible apply keepsVia_left)

theorem keeps_modCtx {b0 s : State} (h : Keeps b0 s) (k : Nat) (f : CopyRec → CopyRec) : Keeps b0 (modCtx s k f) := by
  unfold modCtx
  repeat' first | with_reducible assumption | with_reducible apply keeps_putCtx | split

theorem keeps_failCopy {b0 s : State} (h : Keeps b0 s) (k : Nat) (c : CopyRec) (i : Nat) (st : Nat) (reason : Nat) (va : Nat) : Keeps b0 (failCopy s k c i st reason va) := by
  unfold failCopy
  repeat' first | with_reducible assumption | with_reducible apply keeps_stepFault | with_reducible apply keeps_putCtx | with_reducible apply keeps_ite | intro _

theorem keeps_granulePlace {b0 s : State} (h : Keeps b0 s) (c : CopyRec) (t : List Word) (h : Word) (g : Int) (q : Ask) : Keeps b0 (granulePlace s c t h g q).2 := by
  unfold granulePlace
  dsimp only
  repeat' first | with_reducible assumption | with_reducible apply keeps_translate | split

theorem keeps_granulePlaces {b0 : State} (c : CopyRec) (t : List Word) (hd : Word) (q : Ask) (gs : List Int) :
    ∀ {s : State}, Keeps b0 s → Keeps b0 (granulePlaces c t hd q gs s).2 := by
  induction gs with
  | nil => exact fun h => h
  | cons g gs ih =>
    intro s h
    unfold granulePlaces
    have k := keeps_granulePlace h c t hd g q
    split
    · rename_i e
      rw [e] at k
      exact k
    · rename_i e
      rw [e] at k
      have k2 := ih k
      split
      · rename_i e2
        rw [e2] at k2
        exact k2
      · exact k2

theorem keeps_chooseOverlap {b0 s : State} (h : Keeps b0 s) (c : CopyRec) (x : Loc) (ws : List (Nat × Nat × Nat)) : Keeps b0 (chooseOverlap s c x ws).2 := by
  unfold chooseOverlap
  repeat' first | with_reducible assumption | (simp only [keeps_mk_draw_iff]; with_reducible apply keepsVia_left) | split

theorem keeps_countHbm {b0 s : State} (h : Keeps b0 s) (c : CopyRec) (i : Nat) (n : Nat) : Keeps b0 (countHbm s c i n) := by
  unfold countHbm
  repeat' first | with_reducible assumption | with_reducible apply keeps_radd | with_reducible apply keeps_ite | intro _

theorem keeps_writePlace {b0 s0 : State} (h : Keeps b0 s0) (c : CopyRec) (fmt : Nat) (cyc : Nat) (x : Loc) (ws0 : List (Nat × Nat × Nat)) : Keeps b0 (writePlace s0 c fmt cyc x ws0).2 := by
  unfold writePlace
  dsimp only
  repeat' first | with_reducible assumption | with_reducible apply keeps_chooseOverlap | with_reducible apply keeps_accStoreAt | with_reducible apply keeps_lineWrite | with_reducible apply keeps_countHbm | with_reducible apply keeps_digestAdd | with_reducible apply keeps_scratchWrite | with_reducible apply keeps_setArray | intro _ | split

theorem keeps_sendGranule {b0 s : State} (h : Keeps b0 s) (k : Nat) (c : CopyRec) (x : Target) (ws : List (Nat × Nat × Nat)) : Keeps b0 (sendGranule s k c x ws) := by
  unfold sendGranule
  repeat' first | with_reducible assumption | with_reducible apply keeps_queueRequest | with_reducible apply keeps_putCtx | with_reducible apply keeps_opCount | intro _ | split

theorem keeps_granuleDone {b0 s : State} (h : Keeps b0 s) (k : Nat) (c : CopyRec) (g : Int) (fmt : Nat) : Keeps b0 (granuleDone s k c g fmt) := by
  unfold granuleDone
  repeat' first | with_reducible assumption | with_reducible apply keeps_modCtx | with_reducible apply keeps_activityAdd | with_reducible apply keeps_opCount | with_reducible apply keeps_ite | intro _

theorem keeps_writeGranules {b0 : State} (k i cyc : Nat) (scale : Bool) (ws : List (Int × Nat × Nat)) (l : List (Int × Option Loc)) :
    ∀ {s : State}, Keeps b0 s → Keeps b0 (writeGranules k i cyc scale ws l s) := by
  induction l with
  | nil => exact fun h => h
  | cons x l ih =>
    intro s h
    unfold writeGranules
    dsimp only
    repeat' first | with_reducible assumption | with_reducible apply ih | with_reducible apply keeps_writePlace | with_reducible apply keeps_granuleDone | with_reducible apply keeps_arrayFault | with_reducible apply keeps_modCtx | with_reducible apply keeps_failCopy | with_reducible apply keeps_putCtx | with_reducible apply keeps_sendGranule | intro _ | split

theorem keeps_meter {b0 : State} (k i : Nat) (l : List (Nat × Bool)) : ∀ {s : State}, Keeps b0 s → Keeps b0 (meter k i l s).2 := by
  induction l with
  | nil => exact fun h => h
  | cons x l ih =>
    intro s h
    unfold meter
    repeat' first | with_reducible assumption | with_reducible apply ih | with_reducible apply keeps_modCtx | with_reducible apply keeps_failCopy | with_reducible apply keeps_regulate | (with_reducible apply keeps_pair; with_reducible assumption) | split

theorem keeps_srcPlaces {b0 s : State} (h : Keeps b0 s) (c : CopyRec) (a : Access) : Keeps b0 (srcPlaces s c a).2 := by
  unfold srcPlaces
  dsimp only
  repeat' first | with_reducible assumption | with_reducible apply keeps_granulePlaces | split

theorem keeps_srcPlacesAll {b0 : State} (c : CopyRec) (l : List Access) : ∀ {s : State}, Keeps b0 s → Keeps b0 (srcPlacesAll c l s).2 := by
  induction l with
  | nil => exact fun h => h
  | cons a as ih =>
    intro s h
    unfold srcPlacesAll
    have k := keeps_srcPlaces h c a
    split
    · rename_i e
      rw [e] at k
      exact k
    · rename_i e
      rw [e] at k
      have k2 := ih k
      split
      · rename_i e2
        rw [e2] at k2
        exact k2
      · exact k2

theorem keeps_dstPlaces {b0 s : State} (h : Keeps b0 s) (c : CopyRec) (a : Access) : Keeps b0 (dstPlaces s c a).2 := by
  unfold dstPlaces
  dsimp only
  repeat' first | with_reducible assumption | with_reducible apply keeps_granulePlaces | (with_reducible apply keeps_pair; with_reducible assumption) | split

theorem keeps_takeRead {b0 s : State} (h : Keeps b0 s) (k : Nat) (i : Nat) (a : Access) (xs : List (Int × Loc)) : Keeps b0 (takeRead s k i a xs) := by
  unfold takeRead
  repeat' first | with_reducible assumption | with_reducible apply keeps_putCtx | with_reducible apply keeps_bankReads | with_reducible apply keeps_countHbm | with_reducible apply keeps_radd | intro _ | split

theorem keeps_markWalk {b0 s : State} (h : Keeps b0 s) (c : CopyRec) (scale : Bool) : Keeps b0 (markWalk s c scale) := by
  unfold markWalk
  repeat' first | with_reducible assumption | with_reducible apply keeps_setArray | with_reducible apply keeps_ite | intro _

theorem keeps_putWrite {b0 s : State} (h : Keeps b0 s) (k : Nat) (i : Nat) (cyc : Nat) (a : Access) (ys : List (Int × Option Loc)) : Keeps b0 (putWrite s k i cyc a ys) := by
  unfold putWrite
  repeat' first | with_reducible assumption | with_reducible apply keeps_radd | with_reducible apply keeps_modCtx | with_reducible apply keeps_writeGranules | intro _ | split

theorem keeps_keepInUse {b0 s : State} (h : Keeps b0 s) (k : Nat) (block : List Access) (a : Access) : Keeps b0 (keepInUse s k block a) := by
  unfold keepInUse
  repeat' first | with_reducible assumption | with_reducible apply keeps_modCtx

theorem keeps_runAccess {b0 s : State} (h : Keeps b0 s) (k : Nat) (cyc : Nat) (c : CopyRec) (a : Access) (as : List Access) : Keeps b0 (runAccess s k cyc c a as).2 := by
  unfold runAccess
  dsimp only
  repeat' first | with_reducible assumption | with_reducible apply keeps_srcPlacesAll | with_reducible apply keeps_failCopy | with_reducible apply keeps_dstPlaces | with_reducible apply keeps_meter | with_reducible apply keeps_keepInUse | with_reducible apply keeps_takeRead | with_reducible apply keeps_putWrite | with_reducible apply keeps_markWalk | with_reducible apply keeps_foldl | (with_reducible apply keeps_pair; with_reducible assumption) | intro _ | split

theorem keeps_runAll {b0 : State} (k : Nat) (l : List Access) : ∀ {s : State}, Keeps b0 s → Keeps b0 (runAll k l s) := by
  induction l with
  | nil => exact fun h => h
  | cons x l ih =>
    intro s h
    unfold runAll
    repeat' first | with_reducible assumption | with_reducible apply ih | with_reducible apply keeps_runAccess | (with_reducible apply keeps_pair; with_reducible assumption) | intro _ | split

theorem keeps_advance {b0 s : State} (h : Keeps b0 s) (k : Nat) : Keeps b0 (advance s k) := by
  unfold advance
  repeat' first | with_reducible assumption | with_reducible apply keeps_runAll | intro _ | split

theorem keeps_stepCopy {b0 s : State} (h : Keeps b0 s) (k : Nat) (cyc : Nat) : Keeps b0 (stepCopy s k cyc) := by
  unfold stepCopy
  repeat' first | with_reducible assumption | with_reducible apply keeps_modCtx | with_reducible apply keeps_runAccess | intro _ | split

theorem keeps_advanceNow {b0 s : State} (h : Keeps b0 s) (k : Nat) : Keeps b0 (advanceNow s k) := by
  unfold advanceNow
  repeat' first | with_reducible assumption | with_reducible apply keeps_advance | intro _ | split

theorem keeps_advanceAll {b0 s : State} (h : Keeps b0 s) : Keeps b0 (advanceAll s) := by
  unfold advanceAll
  repeat' first | with_reducible assumption | with_reducible apply keeps_advanceNow | with_reducible apply keeps_foldl | intro _

theorem keeps_sendReads {b0 : State} (k : Nat) (l : List (Bool × Int)) : ∀ {s : State}, Keeps b0 s → Keeps b0 (sendReads k l s) := by
  induction l with
  | nil => exact fun h => h
  | cons x l ih =>
    intro s h
    unfold sendReads
    dsimp only
    repeat' first | with_reducible assumption | with_reducible apply ih | with_reducible apply keeps_putCtx | with_reducible apply keeps_queueRequest | intro _ | split

theorem keeps_beginCopy {b0 s : State} (h : Keeps b0 s) (c0 : CopyRec) : Keeps b0 (beginCopy s c0) := by
  unfold beginCopy
  repeat' first | with_reducible assumption | with_reducible apply keeps_traceMake | with_reducible apply keeps_putCtx | with_reducible apply keeps_failCopy | with_reducible apply keeps_advanceNow | with_reducible apply keeps_sendReads | with_reducible apply keeps_ite | intro _

theorem keeps_execCopyRecord {b0 s : State} (h : Keeps b0 s) (tile : Nat) (stitcher : Nat) (desc : Nat) : Keeps b0 (outState s (execCopyRecord tile stitcher desc s)) := by
  unfold execCopyRecord
  repeat' first | with_reducible assumption | rw [outState_next] | with_reducible apply keeps_issue | with_reducible apply keeps_stepFault | with_reducible apply keeps_beginCopy | with_reducible apply keeps_ite | intro _

theorem keeps_startBlock {b0 s : State} (h : Keeps b0 s) (c : CopyRec) (badKind : Bool) : Keeps b0 (startBlock s c badKind) := by
  unfold startBlock
  repeat' first | with_reducible assumption | with_reducible apply keeps_setResult | with_reducible apply keeps_semAdd | with_reducible apply keeps_beginCopy | with_reducible apply keeps_ite | intro _

theorem keeps_startQueueCopy {b0 s : State} (h : Keeps b0 s) (t : Nat) (st : Nat) (q : Nat) (id : Nat) : Keeps b0 (startQueueCopy s t st q id) := by
  unfold startQueueCopy
  dsimp only
  repeat' first | with_reducible assumption | with_reducible apply keeps_translate | with_reducible apply keeps_setResult | with_reducible apply keeps_lineFill | with_reducible apply keeps_bankReads | with_reducible apply keeps_startBlock | with_reducible apply keeps_foldl | (with_reducible apply keeps_pair; with_reducible assumption) | intro _ | split

theorem keeps_takeWaiting {b0 s : State} (h : Keeps b0 s) (t : Nat) (st : Nat) : Keeps b0 (takeWaiting s t st) := by
  unfold takeWaiting
  repeat' first | with_reducible assumption | (simp only [keeps_mk_iff]; with_reducible apply keepsVia_left)

theorem keeps_execQueueCopyStart {b0 s : State} (h : Keeps b0 s) (tile : Nat) (stitcher : Nat) : Keeps b0 (outState s (execQueueCopyStart tile stitcher s)) := by
  unfold execQueueCopyStart
  repeat' first | with_reducible assumption | rw [outState_next] | with_reducible apply keeps_startQueueCopy | with_reducible apply keeps_takeWaiting | intro _ | split

theorem keeps_execPrivilegedCopyStart {b0 s : State} (h : Keeps b0 s) (n : Nat) (block : Nat) : Keeps b0 (outState s (execPrivilegedCopyStart n block s)) := by
  unfold execPrivilegedCopyStart
  repeat' first | with_reducible assumption | rw [outState_next] | with_reducible apply keeps_startBlock | with_reducible apply keeps_ite | intro _

theorem keeps_copyWriteAck {b0 s : State} (h : Keeps b0 s) (k : Nat) (g : Nat) (status : Nat) (reason : Nat) (note : Nat) : Keeps b0 (copyWriteAck s k g status reason note) := by
  unfold copyWriteAck
  repeat' first | with_reducible assumption | with_reducible apply keeps_putCtx | with_reducible apply keeps_granuleDone | with_reducible apply keeps_failCopy | intro _ | split

theorem keeps_copyReadAck {b0 s : State} (h : Keeps b0 s) (k : Nat) (g : Nat) (status : Nat) (reason : Nat) (note : Nat) (data : List Byte) : Keeps b0 (copyReadAck s k g status reason note data) := by
  unfold copyReadAck
  repeat' first | with_reducible assumption | with_reducible apply keeps_advanceNow | with_reducible apply keeps_putCtx | split

theorem keeps_copyTimeout {b0 s : State} (h : Keeps b0 s) (k : Nat) : Keeps b0 (copyTimeout s k) := by
  unfold copyTimeout
  repeat' first | with_reducible assumption | with_reducible apply keeps_failCopy | with_reducible apply keeps_forgetRequest | with_reducible apply keeps_putCtx | intro _ | split

theorem keeps_copyAdmitted {b0 s : State} (h : Keeps b0 s) (k : Nat) (note : Nat) : Keeps b0 (copyAdmitted s k note) := by
  unfold copyAdmitted
  repeat' first | with_reducible assumption | with_reducible apply keeps_advanceNow | with_reducible apply keeps_putCtx | split

theorem keeps_copyRefused {b0 s : State} (h : Keeps b0 s) (k : Nat) (note : Nat) : Keeps b0 (copyRefused s k note) := by
  unfold copyRefused
  repeat' first | with_reducible assumption | with_reducible apply keeps_failCopy | with_reducible apply keeps_putCtx | split

theorem keeps_completeCopy {b0 s : State} (h : Keeps b0 s) (k : Nat) (c : CopyRec) : Keeps b0 (completeCopy s k c) := by
  unfold completeCopy
  repeat' first | with_reducible assumption | with_reducible apply keeps_traceMake | with_reducible apply keeps_delCtx | with_reducible apply keeps_semAdd | with_reducible apply keeps_setResult | with_reducible apply keeps_ite | intro _

theorem keeps_tryComplete {b0 s : State} (h : Keeps b0 s) (k : Nat) : Keeps b0 (tryComplete s k) := by
  unfold tryComplete
  repeat' first | with_reducible assumption | with_reducible apply keeps_completeCopy | intro _ | split

theorem keeps_execCopyDeadlineMissed {b0 s : State} (h : Keeps b0 s) (ctx : Nat) : Keeps b0 (outState s (execCopyDeadlineMissed ctx s)) := by
  unfold execCopyDeadlineMissed
  repeat' first | with_reducible assumption | rw [outState_next] | with_reducible apply keeps_stepFault | with_reducible apply keeps_putCtx | intro _ | split

theorem keeps_modQueue {b0 s : State} (h : Keeps b0 s) (q : Nat) (f : Queue → Queue) : Keeps b0 (modQueue s q f) := by
  unfold modQueue
  repeat' first | with_reducible assumption | (simp only [keeps_mk_iff]; with_reducible apply keepsVia_left)

theorem keeps_modFlight {b0 s : State} (h : Keeps b0 s) (q : Nat) (id : Nat) (f : Flight → Flight) : Keeps b0 (modFlight s q id f) := by
  unfold modFlight
  repeat' first | with_reducible assumption | with_reducible apply keeps_modQueue

theorem keeps_engineTranslate {b0 s : State} (h : Keeps b0 s) (q : Nat) (va : Nat) (write : Bool) : Keeps b0 (engineTranslate s q va write).2 := by
  unfold engineTranslate
  repeat' first | with_reducible assumption | with_reducible apply keeps_translateInbound

theorem keeps_engineRead {b0 s : State} (h : Keeps b0 s) (q : Nat) (va : Nat) (n : Nat) : Keeps b0 (engineRead s q va n).2 := by
  unfold engineRead
  repeat' first | with_reducible assumption | with_reducible apply keeps_engineTranslate | with_reducible apply keeps_bankReads | (with_reducible apply keeps_pair; with_reducible assumption) | split

theorem keeps_engineWrite {b0 s : State} (h : Keeps b0 s) (q : Nat) (va : Nat) (bs : List Byte) : Keeps b0 (engineWrite s q va bs).2 := by
  unfold engineWrite
  dsimp only
  repeat' first | with_reducible assumption | with_reducible apply keeps_engineTranslate | with_reducible apply keeps_lineWrite | with_reducible apply keeps_scratchWrite | (with_reducible apply keeps_pair; with_reducible assumption) | split

theorem keeps_meterAs {b0 s : State} (h : Keeps b0 s) (q : Nat) (reqId : Nat) (va : Nat) (n : Nat) (write : Bool) : Keeps b0 (meterAs s q reqId va n write).2 := by
  unfold meterAs
  repeat' first | with_reducible assumption | with_reducible apply keeps_engineTranslate | with_reducible apply keeps_regulate | (with_reducible apply keeps_pair; with_reducible assumption) | split

theorem keeps_engineMeter {b0 s : State} (h : Keeps b0 s) (q : Nat) (id : Nat) (va : Nat) (n : Nat) (write : Bool) : Keeps b0 (engineMeter s q id va n write).2 := by
  unfold engineMeter
  repeat' first | with_reducible assumption | with_reducible apply keeps_meterAs

theorem keeps_finish_p {b0 s : State} (h : Keeps b0 s) (q : Nat) (id : Nat) (r : Result) : Keeps b0 (finish' s q id r) := by
  unfold finish'
  repeat' first | with_reducible assumption | with_reducible apply keeps_setResult

theorem keeps_setQWord {b0 s : State} (h : Keeps b0 s) (q : Nat) (i : Nat) (v : Nat) : Keeps b0 (setQWord s q i v) := by
  unfold setQWord
  repeat' first | with_reducible assumption | with_reducible apply keeps_hbmWrite

theorem keeps_setQState {b0 s : State} (h : Keeps b0 s) (q : Nat) (x : QState) (stop : Nat) : Keeps b0 (setQState s q x stop) := by
  unfold setQState
  repeat' first | with_reducible assumption | with_reducible apply keeps_modQueue | with_reducible apply keeps_setQWord

theorem keeps_fetchHead {b0 s : State} (h : Keeps b0 s) (q : Nat) : Keeps b0 (fetchHead s q).2 := by
  unfold fetchHead
  repeat' first | with_reducible assumption | with_reducible apply keeps_engineRead | split

theorem keeps_refreshQueue {b0 s : State} (h : Keeps b0 s) (q : Nat) : Keeps b0 (refreshQueue s q) := by
  unfold refreshQueue
  repeat' first | with_reducible assumption | with_reducible apply keeps_setQState | with_reducible apply keeps_ite | intro _

theorem keeps_refreshAll {b0 s : State} (h : Keeps b0 s) : Keeps b0 (refreshAll s) := by
  unfold refreshAll
  repeat' first | with_reducible assumption | with_reducible apply keeps_refreshQueue | with_reducible apply keeps_foldl | intro _

theorem keeps_timestampWrite {b0 s : State} (h : Keeps b0 s) (q : Nat) (id : Nat) (note : Nat) : Keeps b0 (timestampWrite s q id note) := by
  unfold timestampWrite
  repeat' first | with_reducible assumption | with_reducible apply keeps_engineWrite | with_reducible apply keeps_finish_p | (with_reducible apply keeps_pair; with_reducible assumption) | split

theorem keeps_modLaceOp {b0 s : State} (h : Keeps b0 s) (set : Nat) (q : Nat) (id : Nat) (f : LaceOp → LaceOp) : Keeps b0 (modLaceOp s set q id f) := by
  unfold modLaceOp
  repeat' first | with_reducible assumption | with_reducible apply keeps_setLaceSet

theorem keeps_laceEnd {b0 s : State} (h : Keeps b0 s) (set : Nat) (q : Nat) (id : Nat) (r : Result) : Keeps b0 (laceEnd s set q id r) := by
  unfold laceEnd
  dsimp only
  repeat' first | with_reducible assumption | with_reducible apply keeps_refreshAll | with_reducible apply keeps_setLaceSet | with_reducible apply keeps_rinc | with_reducible apply keeps_finish_p | with_reducible apply keeps_rset | (simp only [keeps_mk_iff]; with_reducible apply keepsVia_left) | intro _ | split

theorem keeps_laceWrite {b0 s : State} (h : Keeps b0 s) (set : Nat) (q : Nat) (id : Nat) (note : Nat) : Keeps b0 (laceWrite s set q id note) := by
  unfold laceWrite
  dsimp only
  repeat' first | with_reducible assumption | with_reducible apply keeps_engineWrite | with_reducible apply keeps_laceEnd | (with_reducible apply keeps_pair; with_reducible assumption) | split

theorem keeps_laceCheck {b0 s : State} (h : Keeps b0 s) (set : Nat) (q : Nat) (id : Nat) : Keeps b0 (laceCheck s set q id) := by
  unfold laceCheck
  dsimp only
  repeat' first | with_reducible assumption | with_reducible apply keeps_laceEnd | with_reducible apply keeps_modLaceOp | with_reducible apply keeps_engineMeter | with_reducible apply keeps_laceWrite | (with_reducible apply keeps_pair; with_reducible assumption) | intro _ | split

theorem keeps_logLace {b0 s : State} (h : Keeps b0 s) (chip : Nat) (m : List Word) : Keeps b0 (logLace s chip m) := by
  unfold logLace
  repeat' first | with_reducible assumption | with_reducible apply keeps_treadLog

theorem keeps_laceTake {b0 s : State} (h : Keeps b0 s) (set : Nat) (o : LaceOp) (chip : Nat) (lop : Nat) (lt : Nat) (v : Nat) : Keeps b0 (laceTake s set o chip lop lt v) := by
  unfold laceTake
  repeat' first | with_reducible assumption | with_reducible apply keeps_laceEnd | with_reducible apply keeps_laceCheck | with_reducible apply keeps_modLaceOp | with_reducible apply keeps_ite | intro _

theorem keeps_laceTell {b0 s : State} (h : Keeps b0 s) (set : Nat) (o : LaceOp) (v : Nat) : Keeps b0 (laceTell s set o v) := by
  unfold laceTell
  repeat' first | with_reducible assumption | with_reducible apply keeps_sendOther | with_reducible apply keeps_foldl | intro _

theorem keeps_laceSend {b0 s : State} (h : Keeps b0 s) (set : Nat) (q : Nat) (id : Nat) (v : Nat) : Keeps b0 (laceSend s set q id v) := by
  unfold laceSend
  repeat' first | with_reducible assumption | with_reducible apply keeps_laceEnd | with_reducible apply keeps_laceCheck | with_reducible apply keeps_laceTell | with_reducible apply keeps_modLaceOp | intro _ | split

theorem keeps_laceOpen {b0 s : State} (h : Keeps b0 s) (set : Nat) (q : Nat) (id : Nat) (lop : Nat) (lt : Nat) : Keeps b0 (laceOpen s set q id lop lt) := by
  unfold laceOpen
  repeat' first | with_reducible assumption | with_reducible apply keeps_setLaceSet | with_reducible apply keeps_laceTake | with_reducible apply keeps_logLace | with_reducible apply keeps_foldl | intro _ | split

theorem keeps_laceRead {b0 s : State} (h : Keeps b0 s) (set : Nat) (q : Nat) (id : Nat) (note : Nat) : Keeps b0 (laceRead s set q id note) := by
  unfold laceRead
  repeat' first | with_reducible assumption | with_reducible apply keeps_engineRead | with_reducible apply keeps_laceSend | with_reducible apply keeps_modLaceOp | with_reducible apply keeps_laceEnd | (with_reducible apply keeps_pair; with_reducible assumption) | split

theorem keeps_cmdOutcome {b0 s : State} (h : Keeps b0 s) (q : Nat) (id : Nat) (admitted : Bool) (note : Nat) : Keeps b0 (cmdOutcome s q id admitted note) := by
  unfold cmdOutcome
  dsimp only
  repeat' first | with_reducible assumption | with_reducible apply keeps_timestampWrite | with_reducible apply keeps_finish_p | with_reducible apply keeps_laceEnd | with_reducible apply keeps_laceWrite | with_reducible apply keeps_laceRead | intro _ | split

theorem keeps_physWrite {b0 s : State} (h : Keeps b0 s) (a : Nat) (bs : List Byte) : Keeps b0 (physWrite s a bs) := by
  unfold physWrite
  repeat' first | with_reducible assumption | with_reducible apply keeps_hbmWrite | with_reducible apply keeps_scratchWrite | with_reducible apply keeps_foldl | intro _ | split

theorem keeps_stageChunk {b0 s : State} (h : Keeps b0 s) (b : Bulk) (remote : Bool) (n : Nat) : Keeps b0 (stageChunk s b remote n) := by
  unfold stageChunk
  repeat' first | with_reducible assumption | with_reducible apply keeps_bankReads | with_reducible apply keeps_scratchWrite | with_reducible apply keeps_ite | with_reducible apply keeps_foldl | intro _

theorem keeps_bulkMove {b0 s : State} (h : Keeps b0 s) (b : Bulk) (remote : Bool) : Keeps b0 (bulkMove s b remote).2 := by
  unfold bulkMove
  repeat' first | with_reducible assumption | with_reducible apply keeps_stageChunk | with_reducible apply keeps_bankReads | with_reducible apply keeps_physWrite | with_reducible apply keeps_foldl_snd | intro _ | split

theorem keeps_bulkEnd {b0 s : State} (h : Keeps b0 s) (st : Nat) : Keeps b0 (bulkEnd s st) := by
  unfold bulkEnd
  repeat' first | with_reducible assumption | with_reducible apply keeps_rset | (simp only [keeps_mk_iff]; with_reducible apply keepsVia_left)

theorem keeps_bulkRun {b0 s : State} (h : Keeps b0 s) (b : Bulk) (remote : Bool) : Keeps b0 (bulkRun s b remote) := by
  unfold bulkRun
  repeat' first | with_reducible assumption | with_reducible apply keeps_bulkMove | with_reducible apply keeps_bulkEnd | with_reducible apply keeps_rset | with_reducible apply keeps_laceSend | with_reducible apply keeps_refreshAll | with_reducible apply keeps_laceOpen | with_reducible apply keeps_ite | (simp only [keeps_mk_iff]; with_reducible apply keepsVia_left) | intro _

theorem keeps_bulkRead {b0 s : State} (h : Keeps b0 s) (req : Nat) (off : Nat) (status : Nat) (data : List Byte) : Keeps b0 (bulkRead s req off status data) := by
  unfold bulkRead
  dsimp only
  repeat' first | with_reducible assumption | with_reducible apply keeps_bulkEnd | with_reducible apply keeps_bulkRun | (simp only [keeps_mk_iff]; with_reducible apply keepsVia_left) | intro _ | split

theorem keeps_bulkReads {b0 s : State} (h : Keeps b0 s) (b : Bulk) : Keeps b0 (bulkReads s b) := by
  unfold bulkReads
  repeat' first | with_reducible assumption | with_reducible apply keeps_bulkEnd | with_reducible apply keeps_bulkRead | with_reducible apply keeps_queueRequest | with_reducible apply keeps_foldl | (simp only [keeps_mk_iff]; with_reducible apply keepsVia_left) | intro _ | split

theorem keeps_setLoad {b0 s : State} (h : Keeps b0 s) (f : Load → Load) : Keeps b0 (setLoad s f) := by
  unfold setLoad
  repeat' first | with_reducible assumption | (simp only [keeps_mk_iff]; with_reducible apply keepsVia_left)

theorem keeps_loadMeter {b0 s : State} (h : Keeps b0 s) (q : Nat) (id : Nat) (l : Load) : Keeps b0 (loadMeter s q id l).2 := by
  unfold loadMeter
  repeat' first | with_reducible assumption | with_reducible apply keeps_engineMeter | with_reducible apply keeps_regulate | split

theorem keeps_loadMove {b0 s : State} (h : Keeps b0 s) (q : Nat) (l : Load) : Keeps b0 (loadMove s q l) := by
  unfold loadMove
  repeat' first | with_reducible assumption | with_reducible apply keeps_engineRead | with_reducible apply keeps_setLoad | with_reducible apply keeps_hbmWrite | (with_reducible apply keeps_pair; with_reducible assumption) | split

theorem keeps_loadGo {b0 : State} (q id : Nat) (n : Nat) : ∀ {s : State}, Keeps b0 s → Keeps b0 (loadGo q id n s) := by
  induction n with
  | zero => exact fun h => h
  | succ n ih =>
    intro s h
    unfold loadGo
    repeat' first | with_reducible assumption | with_reducible apply ih | with_reducible apply keeps_loadMeter | with_reducible apply keeps_loadMove | with_reducible apply keeps_setLoad | (with_reducible apply keeps_pair; with_reducible assumption) | intro _ | split

theorem keeps_loadOutcome {b0 s : State} (h : Keeps b0 s) (q : Nat) (id : Nat) (admitted : Bool) (note : Nat) : Keeps b0 (loadOutcome s q id admitted note) := by
  unfold loadOutcome
  repeat' first | with_reducible assumption | with_reducible apply keeps_setLoad | with_reducible apply keeps_loadGo | with_reducible apply keeps_loadMove | intro _ | split

theorem keeps_setKey {b0 s : State} (h : Keeps b0 s) (i : Nat) (f : KeySlot → KeySlot) : Keeps b0 (setKey s i f) := by
  unfold setKey
  repeat' first | with_reducible assumption | (simp only [keeps_mk_iff]; with_reducible apply keepsVia_left)

theorem keeps_setInstall {b0 s : State} (h : Keeps b0 s) (f : Install → Install) : Keeps b0 (setInstall s f) := by
  unfold setInstall
  repeat' first | with_reducible assumption | (simp only [keeps_mk_iff]; with_reducible apply keepsVia_left)

theorem keeps_installRead {b0 : State} (g : Nat) : ∀ {s : State} (va n : Nat), Keeps b0 s → Keeps b0 (installRead s va g n).2 := by
  induction g with
  | zero => exact fun _ _ h => h
  | succ g ih =>
    intro s va n h
    cases n with
    | zero => exact h
    | succ n =>
      rw [installRead]
      repeat' first | with_reducible assumption | with_reducible apply ih | with_reducible apply keeps_engineRead | with_reducible apply keeps_ite | with_reducible apply keeps_foldl | (simp only [keeps_mk_iff]; with_reducible apply keepsVia_left) | (simp only [keeps_mk_draw_iff]; with_reducible apply keepsVia_left) | (with_reducible apply keeps_pair; with_reducible assumption) | intro _ | split
      omega

theorem keeps_installTarget {b0 s : State} (h : Keeps b0 s) (va : Nat) : Keeps b0 (installTarget s va).2 := by
  unfold installTarget
  repeat' first | with_reducible assumption | with_reducible apply keeps_engineTranslate | (with_reducible apply keeps_pair; with_reducible assumption) | split

theorem keeps_installWrite {b0 s : State} (h : Keeps b0 s) (va : Nat) (bs : List Byte) : Keeps b0 (installWrite s va bs).2 := by
  unfold installWrite
  repeat' first | with_reducible assumption | with_reducible apply keeps_installTarget | with_reducible apply keeps_setInstall | with_reducible apply keeps_hbmWrite | with_reducible apply keeps_scratchWrite | (with_reducible apply keeps_pair; with_reducible assumption) | split

theorem keeps_installMeter {b0 s : State} (h : Keeps b0 s) (i : Install) : Keeps b0 (installMeter s i).2 := by
  unfold installMeter
  repeat' first | with_reducible assumption | with_reducible apply keeps_meterAs | split

theorem keeps_installMove {b0 s : State} (h : Keeps b0 s) (i : Install) : Keeps b0 (installMove s i) := by
  unfold installMove
  dsimp only
  repeat' first | with_reducible assumption | with_reducible apply keeps_setInstall | with_reducible apply keeps_installRead | with_reducible apply keeps_installWrite | (with_reducible apply keeps_pair; with_reducible assumption) | intro _ | split

theorem keeps_installGo {b0 : State} (stop : Nat) (n : Nat) : ∀ {s : State}, Keeps b0 s → Keeps b0 (installGo stop n s) := by
  induction n with
  | zero => exact fun h => h
  | succ n ih =>
    intro s h
    unfold installGo
    repeat' first | with_reducible assumption | with_reducible apply ih | with_reducible apply keeps_installMeter | with_reducible apply keeps_installMove | with_reducible apply keeps_setInstall | (with_reducible apply keeps_pair; with_reducible assumption) | intro _ | split

theorem keeps_installOutcome {b0 s : State} (h : Keeps b0 s) (admitted : Bool) : Keeps b0 (installOutcome s admitted) := by
  unfold installOutcome
  repeat' first | with_reducible assumption | with_reducible apply keeps_installMove | with_reducible apply keeps_setInstall | intro _ | split

theorem keeps_pieceReads {b0 s : State} (h : Keeps b0 s) (ps : List Piece) : Keeps b0 (pieceReads s ps) := by
  unfold pieceReads
  repeat' first | with_reducible assumption | with_reducible apply keeps_activityAdd | with_reducible apply keeps_foldl | intro _ | split

theorem keeps_setSnap {b0 s : State} (h : Keeps b0 s) (f : Snap → Snap) : Keeps b0 (setSnap s f) := by
  unfold setSnap
  repeat' first | with_reducible assumption | (simp only [keeps_mk_iff]; with_reducible apply keepsVia_left)

theorem keeps_snapTrace {b0 s : State} (h : Keeps b0 s) (done : Bool) : Keeps b0 (snapTrace s done) := by
  unfold snapTrace
  repeat' first | with_reducible assumption | with_reducible apply keeps_traceMake | intro _ | split

theorem keeps_snapOpen {b0 s : State} (h : Keeps b0 s) (x : Snap) : Keeps b0 (snapOpen s x) := by
  unfold snapOpen
  repeat' first | with_reducible assumption | with_reducible apply keeps_snapTrace | (simp only [keeps_mk_iff]; with_reducible apply keepsVia_left)

theorem keeps_snapEnd {b0 s : State} (h : Keeps b0 s) : Keeps b0 (snapEnd s) := by
  unfold snapEnd
  repeat' first | with_reducible assumption | with_reducible apply keeps_snapTrace | (simp only [keeps_mk_iff]; with_reducible apply keepsVia_left)

theorem keeps_snapSend {b0 s : State} (h : Keeps b0 s) (a : Nat) (bs : List Byte) : Keeps b0 (snapSend s a bs) := by
  unfold snapSend
  repeat' first | with_reducible assumption | with_reducible apply keeps_hbmWrite | with_reducible apply keeps_setSnap | with_reducible apply keeps_queueRequest | intro _ | split

theorem keeps_snapPoison {b0 s : State} (h : Keeps b0 s) (pieces : List Piece) : Keeps b0 (snapPoison s pieces) := by
  unfold snapPoison
  repeat' first | with_reducible assumption | with_reducible apply keeps_setSnap | with_reducible apply keeps_ite | intro _

theorem keeps_snapStream {b0 s : State} (h : Keeps b0 s) (base : Nat) (header : List Word) (pieces : List Piece) : Keeps b0 (snapStream s base header pieces) := by
  unfold snapStream
  repeat' first | with_reducible assumption | with_reducible apply keeps_snapSend | with_reducible apply keeps_snapPoison | with_reducible apply keeps_foldl | intro _

theorem keeps_cleanSlot {b0 s : State} (h : Keeps b0 s) (i : Nat) : Keeps b0 (cleanSlot s i) := by
  unfold cleanSlot
  repeat' first | with_reducible assumption | (simp only [keeps_mk_iff]; with_reducible apply keepsVia_left)

theorem keeps_snapStart {b0 s : State} (h : Keeps b0 s) (k : Nat) (ext : Nat) : Keeps b0 (snapStart s k ext) := by
  unfold snapStart
  repeat' first | with_reducible assumption | with_reducible apply keeps_pieceReads | with_reducible apply keeps_snapOpen | with_reducible apply keeps_rset | with_reducible apply keeps_hbmWrite | with_reducible apply keeps_setSnap | with_reducible apply keeps_cleanSlot | with_reducible apply keeps_snapStream | with_reducible apply keeps_foldl | (simp only [keeps_mk_iff]; with_reducible apply keepsVia_left) | intro _

theorem keeps_snapBoundary {b0 s : State} (h : Keeps b0 s) (k : Nat) (ext : Nat) : Keeps b0 (snapBoundary s k ext) := by
  unfold snapBoundary
  repeat' first | with_reducible assumption | with_reducible apply keeps_setRun | with_reducible apply keeps_notice | with_reducible apply keeps_snapStart | intro _ | split

theorem keeps_snapAck {b0 s : State} (h : Keeps b0 s) (status : Nat) (reason : Nat) : Keeps b0 (snapAck s status reason) := by
  unfold snapAck
  dsimp only
  repeat' first | with_reducible assumption | with_reducible apply keeps_setResult | with_reducible apply keeps_snapEnd | (simp only [keeps_mk_iff]; with_reducible apply keepsVia_left) | intro _ | split

theorem keeps_snapTimeout {b0 s : State} (h : Keeps b0 s) : Keeps b0 (snapTimeout s) := by
  unfold snapTimeout
  repeat' first | with_reducible assumption | with_reducible apply keeps_snapAck | (simp only [keeps_mk_iff]; with_reducible apply keepsVia_left)

theorem keeps_execSnapshotComplete {b0 s : State} (h : Keeps b0 s) : Keeps b0 (outState s (execSnapshotComplete s)) := by
  unfold execSnapshotComplete
  repeat' first | with_reducible assumption | rw [outState_next] | with_reducible apply keeps_snapEnd | with_reducible apply keeps_notice | with_reducible apply keeps_rset | with_reducible apply keeps_hbmWrite | intro _ | split

theorem keeps_restoreFail {b0 s : State} (h : Keeps b0 s) (st : Nat) : Keeps b0 (restoreFail s st) := by
  unfold restoreFail
  repeat' first | with_reducible assumption | with_reducible apply keeps_ite | (simp only [keeps_mk_iff]; with_reducible apply keepsVia_left) | intro _

theorem keeps_restoreRead {b0 s : State} (h : Keeps b0 s) (place : Nat) (g : Nat) : Keeps b0 (restoreRead place g s) := by
  unfold restoreRead
  repeat' first | with_reducible assumption | with_reducible apply keeps_queueRequest | with_reducible apply keeps_restoreFail | (simp only [keeps_mk_iff]; with_reducible apply keepsVia_left) | intro _ | split

theorem keeps_restoreAsk {b0 s : State} (h : Keeps b0 s) (k : Nat) (chip : Nat) (base : Nat) (gs : List Nat) : Keeps b0 (restoreAsk s k chip base gs) := by
  unfold restoreAsk
  repeat' first | with_reducible assumption | with_reducible apply keeps_restoreRead | with_reducible apply keeps_restoreFail | with_reducible apply keeps_ite | with_reducible apply keeps_foldl | intro _

theorem keeps_restoreNext {b0 s : State} (h : Keeps b0 s) : Keeps b0 (restoreNext s) := by
  unfold restoreNext
  repeat' first | with_reducible assumption | with_reducible apply keeps_restoreFail | with_reducible apply keeps_restoreAsk | (simp only [keeps_mk_iff]; with_reducible apply keepsVia_left) | intro _ | split

theorem keeps_restoreBegin {b0 s : State} (h : Keeps b0 s) (k : Nat) (chip : Nat) (base : Nat) : Keeps b0 (restoreBegin s k chip base) := by
  unfold restoreBegin
  repeat' first | with_reducible assumption | with_reducible apply keeps_restoreNext | with_reducible apply keeps_restoreAsk | (simp only [keeps_mk_iff]; with_reducible apply keepsVia_left)

theorem keeps_restoreAck {b0 s : State} (h : Keeps b0 s) (g : Nat) (status : Nat) (data : List Byte) : Keeps b0 (restoreAck s g status data) := by
  unfold restoreAck
  repeat' first | with_reducible assumption | with_reducible apply keeps_restoreNext | with_reducible apply keeps_restoreFail | (simp only [keeps_mk_iff]; with_reducible apply keepsVia_left) | intro _ | split

theorem keeps_restoreTimeout {b0 s : State} (h : Keeps b0 s) : Keeps b0 (restoreTimeout s) := by
  unfold restoreTimeout
  repeat' first | with_reducible assumption | with_reducible apply keeps_restoreFail | (simp only [keeps_mk_iff]; with_reducible apply keepsVia_left)

end Sys2Proof.Machine
end

