-- ==== Sys2Proof/Laws/KeepsLinks.lean ====
section
/-! SUPPORT. Packets, welts, routing, lanes, cabling and the optics keep what every operation keeps: the queue, the outbox, the free values given, and the canonical forms. -/

namespace Sys2Proof.Machine

theorem keeps_setWelt {b0 s : State} (h : Keeps b0 s) (die : Nat) (port : Nat) (f : Welt → Welt) : Keeps b0 (setWelt s die port f) := by
  unfold setWelt
  repeat' first | with_reducible assumption | (simp only [keeps_mk_iff]; with_reducible apply keepsVia_left)

theorem keeps_setWeltPair {b0 s : State} (h : Keeps b0 s) (die : Nat) (port : Nat) (f : Welt → Welt) : Keeps b0 (setWeltPair s die port f) := by
  unfold setWeltPair
  repeat' first | with_reducible assumption | with_reducible apply keeps_setWelt | split

theorem keeps_weltSend {b0 s : State} (h : Keeps b0 s) (die : Nat) (port : Nat) (x : WeltLoad) : Keeps b0 (weltSend s die port x) := by
  unfold weltSend
  repeat' first | with_reducible assumption | with_reducible apply keeps_emit | with_reducible apply keeps_setWelt

theorem keeps_crossScheduled {b0 s : State} (h : Keeps b0 s) (path : List Nat) (src : Nat) (dst : Nat) (bs : List Byte) : Keeps b0 (crossScheduled s path src dst bs) := by
  unfold crossScheduled
  repeat' first | with_reducible assumption | with_reducible apply keeps_weltSend | with_reducible apply keeps_ite | with_reducible apply keeps_foldl | intro _

theorem keeps_crossOut {b0 s : State} (h : Keeps b0 s) (p : Nat) (die : Nat) (bs : List Byte) : Keeps b0 (crossOut s p die bs) := by
  unfold crossOut
  repeat' first | with_reducible assumption | with_reducible apply keeps_crossScheduled

theorem keeps_crossIn {b0 s : State} (h : Keeps b0 s) (p : Nat) (die : Nat) (bs : List Byte) : Keeps b0 (crossIn s p die bs) := by
  unfold crossIn
  repeat' first | with_reducible assumption | with_reducible apply keeps_crossScheduled

theorem keeps_weltCredits {b0 : State} (n : Nat) : ∀ {s : State}, Keeps b0 s → ∀ die port, Keeps b0 (weltCredits n s die port) := by
  induction n with
  | zero => exact fun h _ _ => h
  | succ n ih =>
    intro s h die port
    unfold weltCredits
    dsimp only
    repeat' first | with_reducible assumption | with_reducible apply ih | with_reducible apply keeps_weltSend | with_reducible apply keeps_ite | intro _

theorem keeps_weltReplay {b0 s : State} (h : Keeps b0 s) (die : Nat) (port : Nat) (seq : Nat) : Keeps b0 (weltReplay s die port seq) := by
  unfold weltReplay
  repeat' first | with_reducible assumption | with_reducible apply keeps_rinc | with_reducible apply keeps_emit | with_reducible apply keeps_ite | with_reducible apply keeps_foldl | intro _

theorem keeps_weltFree {b0 s : State} (h : Keeps b0 s) (die : Nat) (port : Nat) (vc : Nat) (n : Nat) : Keeps b0 (weltFree s die port vc n) := by
  unfold weltFree
  repeat' first | with_reducible assumption | with_reducible apply keeps_weltCredits | with_reducible apply keeps_setWelt

theorem keeps_onWeltAck {b0 s : State} (h : Keeps b0 s) (die : Nat) (port : Nat) (f : WeltFlit) : Keeps b0 (onWeltAck s die port f) := by
  unfold onWeltAck
  repeat' first | with_reducible assumption | with_reducible apply keeps_setWelt | with_reducible apply keeps_weltReplay | with_reducible apply keeps_ite | intro _

theorem keeps_completeOrigin {b0 s : State} (h : Keeps b0 s) (o : Origin) (status : Nat) (reason : Nat) (note : Nat) (data : List Byte) : Keeps b0 (completeOrigin s o status reason note data) := by
  unfold completeOrigin
  repeat' first | with_reducible assumption | with_reducible apply keeps_copyWriteAck | with_reducible apply keeps_copyReadAck | with_reducible apply keeps_bulkRead | with_reducible apply keeps_snapAck | with_reducible apply keeps_restoreAck | split

theorem keeps_noRouteLace {b0 s : State} (h : Keeps b0 s) (m : List Word) : Keeps b0 (noRouteLace s m) := by
  unfold noRouteLace
  repeat' first | with_reducible assumption | with_reducible apply keeps_laceEnd | split

theorem keeps_noRoute {b0 s : State} (h : Keeps b0 s) (p : Packet) : Keeps b0 (noRoute s p) := by
  unfold noRoute
  dsimp only
  repeat' first | with_reducible assumption | with_reducible apply keeps_noRouteLace | with_reducible apply keeps_completeOrigin | (simp only [keeps_mk_iff]; with_reducible apply keepsVia_left) | intro _ | split

theorem keeps_freeInput {b0 s : State} (h : Keeps b0 s) (port : Nat) (vc : Nat) (cls : Nat) (n : Nat) : Keeps b0 (freeInput s port vc cls n) := by
  unfold freeInput
  repeat' first | with_reducible assumption | with_reducible apply keeps_setLane | with_reducible apply keeps_weltFree | with_reducible apply keeps_ite | (simp only [keeps_mk_iff]; with_reducible apply keepsVia_left) | intro _

theorem keeps_takeHead {b0 s : State} (h : Keeps b0 s) (h : Head) : Keeps b0 (takeHead s h) := by
  unfold takeHead
  repeat' first | with_reducible assumption | with_reducible apply keeps_freeInput | (simp only [keeps_mk_iff]; with_reducible apply keepsVia_left)

theorem keeps_giveUp {b0 s : State} (h : Keeps b0 s) (h : Head) (n : Nat) : Keeps b0 (giveUp s h n) := by
  unfold giveUp
  repeat' first | with_reducible assumption | with_reducible apply keeps_freeInput | with_reducible apply keeps_ite | (simp only [keeps_mk_iff]; with_reducible apply keepsVia_left) | intro _

theorem keeps_cutCrossing {b0 : State} (n : Nat) : ∀ {s : State}, Keeps b0 s → ∀ x, Keeps b0 (cutCrossing n s x) := by
  induction n with
  | zero => exact fun h _ => h
  | succ n ih =>
    intro s h x
    unfold cutCrossing
    split
    · exact h
    · have h1 : ∀ r : Router, Keeps b0 { s with router := r } := fun _ => keeps_update h (Nat.le_refl _) rfl
      dsimp only
      split
      · exact keeps_ite (fun _ => h1 _) (fun _ => h1 _)
      · exact keeps_giveUp (keeps_update (ih (h1 _) _) (Nat.le_refl _) rfl) _ _

theorem keeps_replaceHead {b0 s : State} (h : Keeps b0 s) (h : Head) (h' : Head) : Keeps b0 (replaceHead s h h') := by
  unfold replaceHead
  repeat' first | with_reducible assumption | (simp only [keeps_mk_iff]; with_reducible apply keepsVia_left)

theorem keeps_sentFlit {b0 s : State} (h : Keeps b0 s) (key : Nat) (g : Grant) : Keeps b0 (sentFlit s key g) := by
  unfold sentFlit
  repeat' first | with_reducible assumption | with_reducible apply keeps_freeInput | (simp only [keeps_mk_iff]; with_reducible apply keepsVia_left)

theorem keeps_crossFlits {b0 : State} (n : Nat) : ∀ {s : State}, Keeps b0 s → ∀ i j, Keeps b0 (crossFlits n s i j) := by
  induction n with
  | zero => exact fun h _ _ => h
  | succ n ih =>
    intro s h i j
    unfold crossFlits
    dsimp only
    repeat' first | with_reducible assumption | with_reducible apply ih | with_reducible apply keeps_sentFlit | with_reducible apply keeps_setWelt | with_reducible apply keeps_weltSend | (simp only [keeps_mk_iff]; with_reducible apply keepsVia_left) | intro _ | split

theorem keeps_crossHead {b0 s : State} (h : Keeps b0 s) (h : Head) (j : Nat) : Keeps b0 (crossHead s h j) := by
  unfold crossHead
  repeat' first | with_reducible assumption | with_reducible apply keeps_crossFlits | with_reducible apply keeps_replaceHead | with_reducible apply keeps_ite | (simp only [keeps_mk_iff]; with_reducible apply keepsVia_left) | intro _

theorem keeps_afterFlit {b0 s : State} (h : Keeps b0 s) (h : Head) : Keeps b0 (afterFlit s h) := by
  unfold afterFlit
  repeat' first | with_reducible assumption | with_reducible apply keeps_freeInput | with_reducible apply keeps_crossFlits | (simp only [keeps_mk_iff]; with_reducible apply keepsVia_left) | intro _ | split

theorem keeps_arriveHead {b0 s : State} (h : Keeps b0 s) (port : Nat) (h : Head) : Keeps b0 (arriveHead s port h) := by
  unfold arriveHead
  repeat' first | with_reducible assumption | with_reducible apply keeps_giveUp | with_reducible apply keeps_ite | (simp only [keeps_mk_iff]; with_reducible apply keepsVia_left) | intro _

theorem keeps_arrive {b0 s : State} (h : Keeps b0 s) (port : Nat) (dest : Option (Nat × Nat)) (flit : List Byte) : Keeps b0 (arrive s port dest flit) := by
  unfold arrive
  repeat' first | with_reducible assumption | with_reducible apply keeps_arriveHead | with_reducible apply keeps_afterFlit | (simp only [keeps_mk_iff]; with_reducible apply keepsVia_left) | split

theorem keeps_routeOne {b0 s : State} (h : Keeps b0 s) (h : Head) : Keeps b0 (routeOne s h) := by
  unfold routeOne
  dsimp only
  repeat' first | with_reducible assumption | with_reducible apply keeps_takeHead | with_reducible apply keeps_emit | with_reducible apply keeps_rinc | with_reducible apply keeps_noRoute | with_reducible apply keeps_replaceHead | with_reducible apply keeps_crossHead | (simp only [keeps_mk_iff]; with_reducible apply keepsVia_left) | intro _ | split

theorem keeps_execRouteHead {b0 s : State} (h : Keeps b0 s) (port : Nat) (vc : Nat) (cls : Nat) : Keeps b0 (outState s (execRouteHead port vc cls s)) := by
  unfold execRouteHead
  repeat' first | with_reducible assumption | rw [outState_next] | with_reducible apply keeps_routeOne | intro _ | split

theorem keeps_execRouteWaitRetry {b0 s : State} (h : Keeps b0 s) (port : Nat) (vc : Nat) (cls : Nat) : Keeps b0 (outState s (execRouteWaitRetry port vc cls s)) := by
  unfold execRouteWaitRetry
  repeat' first | with_reducible assumption | rw [outState_next] | with_reducible apply keeps_routeOne | intro _ | split

theorem keeps_execHeadGrant {b0 s : State} (h : Keeps b0 s) (eyelet : Nat) (lane : Nat) (vc : Nat) (cls : Nat) : Keeps b0 (outState s (execHeadGrant eyelet lane vc cls s)) := by
  unfold execHeadGrant
  repeat' first | with_reducible assumption | rw [outState_next] | with_reducible apply keeps_radd | (simp only [keeps_mk_iff]; with_reducible apply keepsVia_left) | intro _ | split

theorem keeps_unchoose {b0 s : State} (h : Keeps b0 s) (which : Chosen → Bool) : Keeps b0 (unchoose s which) := by
  unfold unchoose
  repeat' first | with_reducible assumption | (simp only [keeps_mk_iff]; with_reducible apply keepsVia_left)

theorem keeps_wRouteShadow {b0 s : State} (h : Keeps b0 s) (v : List Byte) : Keeps b0 (wRouteShadow v s).2 := by
  unfold wRouteShadow
  repeat' first | with_reducible assumption | with_reducible apply keeps_refuse | with_reducible apply keeps_accept | with_reducible apply keeps_flashCommit | (simp only [keeps_mk_iff]; with_reducible apply keepsVia_left) | split

theorem keeps_wRouteEntry {b0 s : State} (h : Keeps b0 s) (v : Nat) : Keeps b0 (wRouteEntry v s).2 := by
  unfold wRouteEntry
  repeat' first | with_reducible assumption | with_reducible apply keeps_refuse | with_reducible apply keeps_accept | with_reducible apply keeps_flashCommit | (simp only [keeps_mk_iff]; with_reducible apply keepsVia_left) | split

theorem keeps_wRouteCopy {b0 s : State} (h : Keeps b0 s) (v : Nat) : Keeps b0 (wRouteCopy v s).2 := by
  unfold wRouteCopy
  repeat' first | with_reducible assumption | with_reducible apply keeps_refuse | with_reducible apply keeps_accept | with_reducible apply keeps_flashCommit | (simp only [keeps_mk_iff]; with_reducible apply keepsVia_left) | split

theorem keeps_wRouteSwap {b0 s : State} (h : Keeps b0 s) (v : Nat) : Keeps b0 (wRouteSwap v s).2 := by
  unfold wRouteSwap
  repeat' first | with_reducible assumption | with_reducible apply keeps_refuse | with_reducible apply keeps_rset | with_reducible apply keeps_accept | with_reducible apply keeps_unchoose | (simp only [keeps_mk_iff]; with_reducible apply keepsVia_left) | split

theorem keeps_wRouteRelease {b0 s : State} (h : Keeps b0 s) (v : Nat) : Keeps b0 (wRouteRelease v s).2 := by
  unfold wRouteRelease
  repeat' first | with_reducible assumption | with_reducible apply keeps_refuse | with_reducible apply keeps_accept | (simp only [keeps_mk_iff]; with_reducible apply keepsVia_left) | split

theorem keeps_execRouteShadowWrite {b0 s : State} (h : Keeps b0 s) (via : Via) (v : List Byte) : Keeps b0 (outState s (execRouteShadowWrite via v s)) := by
  unfold execRouteShadowWrite
  repeat' first | with_reducible assumption | rw [outState_next] | with_reducible apply keeps_doWrite | with_reducible apply keeps_wRouteShadow | intro _

theorem keeps_execRouteEntryWrite {b0 s : State} (h : Keeps b0 s) (via : Via) (v : Nat) : Keeps b0 (outState s (execRouteEntryWrite via v s)) := by
  unfold execRouteEntryWrite
  repeat' first | with_reducible assumption | rw [outState_next] | with_reducible apply keeps_doWrite | with_reducible apply keeps_wRouteEntry | intro _

theorem keeps_execRouteCopy {b0 s : State} (h : Keeps b0 s) (via : Via) (v : Nat) : Keeps b0 (outState s (execRouteCopy via v s)) := by
  unfold execRouteCopy
  repeat' first | with_reducible assumption | rw [outState_next] | with_reducible apply keeps_doWrite | with_reducible apply keeps_wRouteCopy | intro _

theorem keeps_execRouteSwapRelease {b0 s : State} (h : Keeps b0 s) (via : Via) : Keeps b0 (outState s (execRouteSwapRelease via s)) := by
  unfold execRouteSwapRelease
  repeat' first | with_reducible assumption | rw [outState_next] | with_reducible apply keeps_doWrite | with_reducible apply keeps_wRouteSwap | intro _

theorem keeps_execRouteSwapHold {b0 s : State} (h : Keeps b0 s) (via : Via) : Keeps b0 (outState s (execRouteSwapHold via s)) := by
  unfold execRouteSwapHold
  repeat' first | with_reducible assumption | rw [outState_next] | with_reducible apply keeps_doWrite | with_reducible apply keeps_wRouteSwap | intro _

theorem keeps_execRouteRelease {b0 s : State} (h : Keeps b0 s) (via : Via) (v : Nat) : Keeps b0 (outState s (execRouteRelease via v s)) := by
  unfold execRouteRelease
  repeat' first | with_reducible assumption | rw [outState_next] | with_reducible apply keeps_doWrite | with_reducible apply keeps_wRouteRelease | intro _

theorem keeps_execRouteSwapExchange {b0 s : State} (h : Keeps b0 s) : Keeps b0 (outState s (execRouteSwapExchange s)) := by
  unfold execRouteSwapExchange
  repeat' first | with_reducible assumption | rw [outState_next] | with_reducible apply keeps_rset | with_reducible apply keeps_rinc | with_reducible apply keeps_flashCommit | with_reducible apply keeps_traceFabric | with_reducible apply keeps_traceGeneration | with_reducible apply keeps_ite | (simp only [keeps_mk_iff]; with_reducible apply keepsVia_left) | intro _

theorem keeps_execSwapDrainTimeout {b0 s : State} (h : Keeps b0 s) : Keeps b0 (outState s (execSwapDrainTimeout s)) := by
  unfold execSwapDrainTimeout
  repeat' first | with_reducible assumption | rw [outState_next] | with_reducible apply keeps_rset | with_reducible apply keeps_ite | (simp only [keeps_mk_iff]; with_reducible apply keepsVia_left) | intro _

theorem keeps_execRouteHoldExpiry {b0 s : State} (h : Keeps b0 s) : Keeps b0 (outState s (execRouteHoldExpiry s)) := by
  unfold execRouteHoldExpiry
  repeat' first | with_reducible assumption | rw [outState_next] | with_reducible apply keeps_rinc | with_reducible apply keeps_ite | (simp only [keeps_mk_iff]; with_reducible apply keepsVia_left) | intro _

theorem keeps_dropSeg {b0 s : State} (h : Keeps b0 s) (id : Nat) : Keeps b0 (dropSeg s id) := by
  unfold dropSeg
  repeat' first | with_reducible assumption | (simp only [keeps_mk_iff]; with_reducible apply keepsVia_left)

theorem keeps_abandonSeg {b0 s : State} (h : Keeps b0 s) (id : Nat) (reason : Nat) : Keeps b0 (abandonSeg s id reason) := by
  unfold abandonSeg
  repeat' first | with_reducible assumption | with_reducible apply keeps_dropSeg | with_reducible apply keeps_rinc | (simp only [keeps_mk_iff]; with_reducible apply keepsVia_left)

theorem keeps_abandonAll {b0 s : State} (h : Keeps b0 s) (which : Seg → Bool) (reason : Nat) : Keeps b0 (abandonAll s which reason) := by
  unfold abandonAll
  repeat' first | with_reducible assumption | with_reducible apply keeps_abandonSeg | with_reducible apply keeps_foldl | intro _

theorem keeps_endDtls {b0 s : State} (h : Keeps b0 s) (n : Nat) : Keeps b0 (endDtls s n) := by
  unfold endDtls
  repeat' first | with_reducible assumption | with_reducible apply keeps_abandonAll | (simp only [keeps_mk_iff]; with_reducible apply keepsVia_left)

theorem keeps_endAllDtls {b0 s : State} (h : Keeps b0 s) : Keeps b0 (endAllDtls s) := by
  unfold endAllDtls
  repeat' first | with_reducible assumption | with_reducible apply keeps_endDtls | with_reducible apply keeps_foldl | intro _

theorem keeps_endEverySession {b0 s : State} (h : Keeps b0 s) : Keeps b0 (endEverySession s) := by
  unfold endEverySession
  repeat' first | with_reducible assumption | with_reducible apply keeps_abandonAll | with_reducible apply keeps_endAllDtls

theorem keeps_hostReset {b0 s : State} (h : Keeps b0 s) (chip : Nat) : Keeps b0 (hostReset s chip) := by
  unfold hostReset
  repeat' first | with_reducible assumption | with_reducible apply keeps_abandonAll

theorem keeps_zeroExports {b0 s : State} (h : Keeps b0 s) : Keeps b0 (zeroExports s) := by
  unfold zeroExports
  repeat' first | with_reducible assumption | with_reducible apply keeps_ite | (simp only [keeps_mk_iff]; with_reducible apply keepsVia_left) | intro _

theorem keeps_refuseExports {b0 s : State} (h : Keeps b0 s) : Keeps b0 (refuseExports s) := by
  unfold refuseExports
  repeat' first | with_reducible assumption | with_reducible apply keeps_rinc | with_reducible apply keeps_emit | with_reducible apply keeps_foldl | (simp only [keeps_mk_iff]; with_reducible apply keepsVia_left) | intro _

theorem keeps_setOut {b0 s : State} (h : Keeps b0 s) (c : Nat) (d : PeerOut) : Keeps b0 (setOut s c d) := by
  unfold setOut
  repeat' first | with_reducible assumption | (simp only [keeps_mk_iff]; with_reducible apply keepsVia_left)

theorem keeps_setIn {b0 s : State} (h : Keeps b0 s) (c : Nat) (d : PeerIn) : Keeps b0 (setIn s c d) := by
  unfold setIn
  repeat' first | with_reducible assumption | (simp only [keeps_mk_iff]; with_reducible apply keepsVia_left)

theorem keeps_execPacketSend {b0 s : State} (h : Keeps b0 s) (dst : Nat) : Keeps b0 (outState s (execPacketSend dst s)) := by
  unfold execPacketSend
  dsimp only
  repeat' first | with_reducible assumption | rw [outState_next] | with_reducible apply keeps_clocked | with_reducible apply keeps_completeOrigin | with_reducible apply keeps_setOut | with_reducible apply keeps_traceFabric | with_reducible apply keeps_inject | (simp only [keeps_mk_iff]; with_reducible apply keepsVia_left) | intro _ | split

theorem keeps_execAckReceived {b0 s : State} (h : Keeps b0 s) (p : Packet) : Keeps b0 (outState s (execAckReceived p s)) := by
  unfold execAckReceived
  dsimp only
  repeat' first | with_reducible assumption | rw [outState_next] | with_reducible apply keeps_rinc | with_reducible apply keeps_setOut | with_reducible apply keeps_completeOrigin | intro _ | split

theorem keeps_execAckTimeout {b0 s : State} (h : Keeps b0 s) (dst : Nat) : Keeps b0 (outState s (execAckTimeout dst s)) := by
  unfold execAckTimeout
  repeat' first | with_reducible assumption | rw [outState_next] | with_reducible apply keeps_setOut | with_reducible apply keeps_traceFabric | with_reducible apply keeps_rinc | with_reducible apply keeps_copyTimeout | with_reducible apply keeps_snapTimeout | with_reducible apply keeps_restoreTimeout | with_reducible apply keeps_bulkRead | with_reducible apply keeps_foldl | (simp only [keeps_mk_iff]; with_reducible apply keepsVia_left) | intro _ | split

theorem keeps_translateGranules {b0 s : State} (h : Keeps b0 s) (die : Nat) (p : Packet) : Keeps b0 (translateGranules s die p).2 := by
  unfold translateGranules
  repeat' first | with_reducible assumption | with_reducible apply keeps_translateInbound | with_reducible apply keeps_foldl_snd | (with_reducible apply keeps_pair; with_reducible assumption) | intro _ | split

theorem keeps_translateRequest {b0 s : State} (h : Keeps b0 s) (die : Nat) (p : Packet) : Keeps b0 (translateRequest s die p).2 := by
  unfold translateRequest
  repeat' first | with_reducible assumption | with_reducible apply keeps_translateInbound | with_reducible apply keeps_translateGranules | (with_reducible apply keeps_pair; with_reducible assumption) | split

theorem keeps_dropHeld {b0 s : State} (h : Keeps b0 s) (src : Nat) (d : PeerIn) (n : Nat) : Keeps b0 (dropHeld s src d n) := by
  unfold dropHeld
  repeat' first | with_reducible assumption | with_reducible apply keeps_traceFabric | with_reducible apply keeps_radd | with_reducible apply keeps_ite | intro _

theorem keeps_logRequest {b0 s : State} (h : Keeps b0 s) (p : Packet) : Keeps b0 (logRequest s p) := by
  unfold logRequest
  repeat' first | with_reducible assumption | with_reducible apply keeps_treadLog

theorem keeps_logReleased {b0 s : State} (h : Keeps b0 s) (hs : List HeldPkt) : Keeps b0 (logReleased s hs) := by
  unfold logReleased
  repeat' first | with_reducible assumption | with_reducible apply keeps_logRequest | with_reducible apply keeps_foldl | intro _

theorem keeps_sequenced {b0 s : State} (h : Keeps b0 s) (src : Nat) (d : PeerIn) (h : HeldPkt) : Keeps b0 (sequenced s src d h) := by
  unfold sequenced
  repeat' first | with_reducible assumption | with_reducible apply keeps_dropHeld | with_reducible apply keeps_setIn | with_reducible apply keeps_logReleased | with_reducible apply keeps_ite | intro _

theorem keeps_execPacketArrival {b0 s : State} (h : Keeps b0 s) (eyelet : Nat) (_lane : Nat) (nowUs : Nat) (p : Packet) : Keeps b0 (outState s (execPacketArrival eyelet _lane nowUs p s)) := by
  unfold execPacketArrival
  repeat' first | with_reducible assumption | rw [outState_next] | with_reducible apply keeps_clocked | with_reducible apply keeps_rinc | with_reducible apply keeps_translateRequest | with_reducible apply keeps_dropHeld | with_reducible apply keeps_hostReset | with_reducible apply keeps_traceFabric | with_reducible apply keeps_sequenced | intro _ | split

theorem keeps_execReorderHoldExpiry {b0 s : State} (h : Keeps b0 s) (src : Nat) : Keeps b0 (outState s (execReorderHoldExpiry src s)) := by
  unfold execReorderHoldExpiry
  repeat' first | with_reducible assumption | rw [outState_next] | with_reducible apply keeps_dropHeld | with_reducible apply keeps_setIn | with_reducible apply keeps_ite | intro _

theorem keeps_countRefusal {b0 s : State} (h : Keeps b0 s) (phys : List Nat) : Keeps b0 (countRefusal s phys) := by
  unfold countRefusal
  repeat' first | with_reducible assumption | with_reducible apply keeps_refuseWindow | split

theorem keeps_performRequest {b0 s : State} (h : Keeps b0 s) (h : HeldPkt) : Keeps b0 (performRequest s h).2 := by
  unfold performRequest
  dsimp only
  repeat' first | with_reducible assumption | with_reducible apply keeps_atomicAt | with_reducible apply keeps_accStoreAt | with_reducible apply keeps_countRefusal | with_reducible apply keeps_bankReads | with_reducible apply keeps_hbmWrite | with_reducible apply keeps_scratchWrite | with_reducible apply keeps_foldl | intro _ | split

theorem keeps_respond {b0 s : State} (h : Keeps b0 s) (h : HeldPkt) (a : Answer) (note : Nat) : Keeps b0 (respond s h a note) := by
  unfold respond
  repeat' first | with_reducible assumption | with_reducible apply keeps_sendOther

theorem keeps_takeEffect {b0 s : State} (h : Keeps b0 s) (src : Nat) (note : Nat) : Keeps b0 (takeEffect s src note) := by
  unfold takeEffect
  dsimp only
  repeat' first | with_reducible assumption | with_reducible apply keeps_setIn | with_reducible apply keeps_respond | with_reducible apply keeps_performRequest | intro _ | split

theorem keeps_execAcknowledgement {b0 s : State} (h : Keeps b0 s) (src : Nat) : Keeps b0 (outState s (execAcknowledgement src s)) := by
  unfold execAcknowledgement
  repeat' first | with_reducible assumption | rw [outState_next] | with_reducible apply keeps_clocked | with_reducible apply keeps_takeEffect | with_reducible apply keeps_regulate | with_reducible apply keeps_setIn | with_reducible apply keeps_respond | (with_reducible apply keeps_pair; with_reducible assumption) | intro _ | split

theorem keeps_regOutcome {b0 s : State} (h : Keeps b0 s) (die : Nat) (p : Nat) (h : Held) (admitted : Bool) (delayed : Bool) : Keeps b0 (regOutcome s die p h admitted delayed) := by
  unfold regOutcome
  dsimp only
  repeat' first | with_reducible assumption | with_reducible apply keeps_installOutcome | with_reducible apply keeps_loadOutcome | with_reducible apply keeps_cmdOutcome | with_reducible apply keeps_takeEffect | with_reducible apply keeps_setIn | with_reducible apply keeps_respond | with_reducible apply keeps_copyAdmitted | with_reducible apply keeps_copyRefused | with_reducible apply keeps_emit | intro _ | split

theorem keeps_execRegulatorArrival {b0 s : State} (h : Keeps b0 s) (die : Nat) (now : Nat) (r : RegRequest) : Keeps b0 (outState s (execRegulatorArrival die now r s)) := by
  unfold execRegulatorArrival
  repeat' first | with_reducible assumption | rw [outState_next] | with_reducible apply keeps_clocked | with_reducible apply keeps_regulate | with_reducible apply keeps_emit | (with_reducible apply keeps_pair; with_reducible assumption) | split

theorem keeps_execRegulatorAdmit {b0 s : State} (h : Keeps b0 s) (die : Nat) (part : Nat) (now : Nat) : Keeps b0 (outState s (execRegulatorAdmit die part now s)) := by
  unfold execRegulatorAdmit
  repeat' first | with_reducible assumption | rw [outState_next] | with_reducible apply keeps_clocked | with_reducible apply keeps_regAdmit | with_reducible apply keeps_regOutcome | (with_reducible apply keeps_pair; with_reducible assumption) | split

theorem keeps_execRegulatorHoldExpiry {b0 s : State} (h : Keeps b0 s) (die : Nat) (part : Nat) (now : Nat) : Keeps b0 (outState s (execRegulatorHoldExpiry die part now s)) := by
  unfold execRegulatorHoldExpiry
  repeat' first | with_reducible assumption | rw [outState_next] | with_reducible apply keeps_regExpire | with_reducible apply keeps_regOutcome | with_reducible apply keeps_foldl | intro _

theorem keeps_placeBlock {b0 s : State} (h : Keeps b0 s) (t : Nat) (pos : Nat) (a : Nat) (beat : Nat) (due : Bool) (bs : List Byte) : Keeps b0 (placeBlock s t pos a beat due bs) := by
  unfold placeBlock
  repeat' first | with_reducible assumption | with_reducible apply keeps_setPtile | with_reducible apply keeps_schedWrite | with_reducible apply keeps_ite | intro _

theorem keeps_schedBlock {b0 s : State} (h : Keeps b0 s) (e : Nat) (k : Nat) (pos : Nat) (sb : Nat) (data : List Byte) : Keeps b0 (schedBlock s e k pos sb data) := by
  unfold schedBlock
  dsimp only
  repeat' first | with_reducible assumption | with_reducible apply keeps_rinc | with_reducible apply keeps_crossIn | with_reducible apply keeps_refuseWindow | with_reducible apply keeps_setRun | with_reducible apply keeps_placeBlock | intro _ | split

theorem keeps_execSchedBlockRelease {b0 s : State} (h : Keeps b0 s) (eyelet : Nat) (lane : Nat) (pos : Nat) (schedBeat : Nat) (data : List Byte) : Keeps b0 (outState s (execSchedBlockRelease eyelet lane pos schedBeat data s)) := by
  unfold execSchedBlockRelease
  repeat' first | with_reducible assumption | rw [outState_next] | with_reducible apply keeps_schedBlock

theorem keeps_dropGranted {b0 s : State} (h : Keeps b0 s) (e : Nat) (k : Nat) : Keeps b0 (dropGranted s e k) := by
  unfold dropGranted
  repeat' first | with_reducible assumption | with_reducible apply keeps_giveUp | with_reducible apply keeps_foldl | (simp only [keeps_mk_iff]; with_reducible apply keepsVia_left) | intro _

theorem keeps_truncateLane {b0 s : State} (h : Keeps b0 s) (e : Nat) (k : Nat) (more : Nat) : Keeps b0 (truncateLane s e k more) := by
  unfold truncateLane
  repeat' first | with_reducible assumption | with_reducible apply keeps_cutCrossing | with_reducible apply keeps_dropGranted | with_reducible apply keeps_radd | with_reducible apply keeps_unchoose | with_reducible apply keeps_foldl | (simp only [keeps_mk_iff]; with_reducible apply keepsVia_left) | intro _

theorem keeps_laneGoBy {b0 s : State} (h : Keeps b0 s) (e : Nat) (k : Nat) (dest : Train) (cause : Nat) (injected : Bool) : Keeps b0 (laneGoBy s e k dest cause injected) := by
  unfold laneGoBy
  repeat' first | with_reducible assumption | with_reducible apply keeps_setLane | with_reducible apply keeps_traceFabric | with_reducible apply keeps_truncateLane | with_reducible apply keeps_stepFault | with_reducible apply keeps_ite | intro _

theorem keeps_laneGo {b0 s : State} (h : Keeps b0 s) (e : Nat) (k : Nat) (dest : Train) (cause : Nat) : Keeps b0 (laneGo s e k dest cause) := by
  unfold laneGo
  repeat' first | with_reducible assumption | with_reducible apply keeps_laneGoBy

theorem keeps_trainFail {b0 s : State} (h : Keeps b0 s) (e : Nat) (k : Nat) (code : Nat) : Keeps b0 (trainFail s e k code) := by
  unfold trainFail
  repeat' first | with_reducible assumption | with_reducible apply keeps_laneGo | with_reducible apply keeps_rset

theorem keeps_queueSeal {b0 s : State} (h : Keeps b0 s) (e : Nat) (k : Nat) (dst : Nat) (kind : Nat) (v : Nat) (bs : List Byte) (begins : Option (Nat × List Byte)) : Keeps b0 (queueSeal s e k dst kind v bs begins) := by
  unfold queueSeal
  repeat' first | with_reducible assumption | with_reducible apply keeps_setLane | (simp only [keeps_mk_iff]; with_reducible apply keepsVia_left)

theorem keeps_sealLane {b0 s : State} (h : Keeps b0 s) (e : Nat) (k : Nat) (id : Option Nat) : Keeps b0 (sealLane s e k id) := by
  unfold sealLane
  dsimp only
  repeat' first | with_reducible assumption | with_reducible apply keeps_queueSeal | (simp only [keeps_mk_draw_iff]; with_reducible apply keepsVia_left) | intro _ | split

theorem keeps_sealAll {b0 s : State} (h : Keeps b0 s) (id : Nat) : Keeps b0 (sealAll s id) := by
  unfold sealAll
  repeat' first | with_reducible assumption | with_reducible apply keeps_sealLane | with_reducible apply keeps_foldl | intro _

theorem keeps_sendLink {b0 s : State} (h : Keeps b0 s) (e : Nat) (k : Nat) (msg : Nat) (marg : Nat) (beat : Nat) : Keeps b0 (sendLink s e k msg marg beat) := by
  unfold sendLink
  repeat' first | with_reducible assumption | with_reducible apply keeps_setLane

theorem keeps_enterServe {b0 s : State} (h : Keeps b0 s) (e : Nat) (k : Nat) : Keeps b0 (enterServe s e k) := by
  unfold enterServe
  repeat' first | with_reducible assumption | with_reducible apply keeps_setLane | with_reducible apply keeps_rset | with_reducible apply keeps_rinc | with_reducible apply keeps_traceFabric | with_reducible apply keeps_sealLane | (simp only [keeps_mk_iff]; with_reducible apply keepsVia_left)

theorem keeps_setEye {b0 s : State} (h : Keeps b0 s) (d : Nat) (f : EyeDie → EyeDie) : Keeps b0 (setEye s d f) := by
  unfold setEye
  repeat' first | with_reducible assumption | (simp only [keeps_mk_iff]; with_reducible apply keepsVia_left)

theorem keeps_drive {b0 s : State} (h : Keeps b0 s) (ring : Nat) (code : Nat) : Keeps b0 (drive s ring code) := by
  unfold drive
  repeat' first | with_reducible assumption | (simp only [keeps_mk_iff]; with_reducible apply keepsVia_left)

theorem keeps_driveHeaters {b0 s : State} (h : Keeps b0 s) : Keeps b0 (driveHeaters s) := by
  unfold driveHeaters
  repeat' first | with_reducible assumption | (simp only [keeps_mk_iff]; with_reducible apply keepsVia_left)

theorem keeps_logPower {b0 s : State} (h : Keeps b0 s) (i : Nat) (seen : Bool) (x : Int) : Keeps b0 (logPower s i seen x) := by
  unfold logPower
  repeat' first | with_reducible assumption | with_reducible apply keeps_rsetI

theorem keeps_laserLow {b0 s : State} (h : Keeps b0 s) (d : Nat) (i : Nat) : Keeps b0 (laserLow s d i) := by
  unfold laserLow
  repeat' first | with_reducible assumption | with_reducible apply keeps_notice | with_reducible apply keeps_rinc

theorem keeps_txPowers {b0 s : State} (h : Keeps b0 s) (die : Nat) (xs : List Int) : Keeps b0 (txPowers s die xs) := by
  unfold txPowers
  repeat' first | with_reducible assumption | with_reducible apply keeps_rsetI | with_reducible apply keeps_foldl | intro _

theorem keeps_execLaserMeasurement {b0 s : State} (h : Keeps b0 s) (die : Nat) (aCdbm : Int) (bCdbm : Int) (depths : Nat × Nat) (txCdbm : List Int) : Keeps b0 (outState s (execLaserMeasurement die aCdbm bCdbm depths txCdbm s)) := by
  unfold execLaserMeasurement
  repeat' first | with_reducible assumption | rw [outState_next] | with_reducible apply keeps_logPower | with_reducible apply keeps_txPowers | with_reducible apply keeps_rset | with_reducible apply keeps_rsetI | with_reducible apply keeps_setEye | with_reducible apply keeps_laserLow | with_reducible apply keeps_ite | intro _

theorem keeps_closeFit {b0 s : State} (h : Keeps b0 s) (e : Nat) (k : Nat) (record : Nat) : Keeps b0 (closeFit s e k record) := by
  unfold closeFit
  repeat' first | with_reducible assumption | with_reducible apply keeps_rinc | with_reducible apply keeps_rset | with_reducible apply keeps_drive | with_reducible apply keeps_setLane | (simp only [keeps_mk_iff]; with_reducible apply keepsVia_left)

theorem keeps_abortFit {b0 s : State} (h : Keeps b0 s) (e : Nat) (k : Nat) : Keeps b0 (abortFit s e k) := by
  unfold abortFit
  repeat' first | with_reducible assumption | with_reducible apply keeps_closeFit | split

theorem keeps_startSwitch {b0 s : State} (h : Keeps b0 s) (d : Nat) (x : Selector) : Keeps b0 (startSwitch s d x) := by
  unfold startSwitch
  repeat' first | with_reducible assumption | with_reducible apply keeps_abortFit | with_reducible apply keeps_setEye | with_reducible apply keeps_setLane | with_reducible apply keeps_ite | with_reducible apply keeps_foldl | intro _

theorem keeps_goDark {b0 s : State} (h : Keeps b0 s) (d : Nat) : Keeps b0 (goDark s d) := by
  unfold goDark
  repeat' first | with_reducible assumption | with_reducible apply keeps_abortFit | with_reducible apply keeps_setEye | with_reducible apply keeps_setLane | with_reducible apply keeps_laneGoBy | with_reducible apply keeps_ite | with_reducible apply keeps_foldl | intro _

theorem keeps_evalSelector {b0 s : State} (h : Keeps b0 s) (d : Nat) : Keeps b0 (evalSelector s d) := by
  unfold evalSelector
  dsimp only
  repeat' first | with_reducible assumption | with_reducible apply keeps_goDark | with_reducible apply keeps_startSwitch | intro _ | split

theorem keeps_loseInput {b0 s : State} (h : Keeps b0 s) (d : Nat) (input : Nat) (injected : Bool) : Keeps b0 (loseInput s d input injected) := by
  unfold loseInput
  repeat' first | with_reducible assumption | with_reducible apply keeps_setEye | with_reducible apply keeps_raise | with_reducible apply keeps_rinc | with_reducible apply keeps_evalSelector | with_reducible apply keeps_ite | intro _

theorem keeps_execLaserInputLost {b0 s : State} (h : Keeps b0 s) (die : Nat) (input : Nat) : Keeps b0 (outState s (execLaserInputLost die input s)) := by
  unfold execLaserInputLost
  dsimp only
  repeat' first | with_reducible assumption | rw [outState_next] | with_reducible apply keeps_loseInput | split

theorem keeps_execLaserSwitchComplete {b0 s : State} (h : Keeps b0 s) (die : Nat) : Keeps b0 (outState s (execLaserSwitchComplete die s)) := by
  unfold execLaserSwitchComplete
  repeat' first | with_reducible assumption | rw [outState_next] | with_reducible apply keeps_setEye | with_reducible apply keeps_injectionDone | with_reducible apply keeps_rinc | with_reducible apply keeps_setLane | with_reducible apply keeps_evalSelector | with_reducible apply keeps_foldl | intro _ | split

theorem keeps_execLaserDarkRecovery {b0 s : State} (h : Keeps b0 s) (die : Nat) : Keeps b0 (outState s (execLaserDarkRecovery die s)) := by
  unfold execLaserDarkRecovery
  repeat' first | with_reducible assumption | rw [outState_next] | with_reducible apply keeps_startSwitch | with_reducible apply keeps_ite | intro _

theorem keeps_execLaserRevert {b0 s : State} (h : Keeps b0 s) (die : Nat) : Keeps b0 (outState s (execLaserRevert die s)) := by
  unfold execLaserRevert
  repeat' first | with_reducible assumption | rw [outState_next] | with_reducible apply keeps_startSwitch | with_reducible apply keeps_ite | intro _

theorem keeps_applySelect {b0 s : State} (h : Keeps b0 s) (d : Nat) (v : Nat) : Keeps b0 (applySelect s d v) := by
  unfold applySelect
  repeat' first | with_reducible assumption | with_reducible apply keeps_startSwitch | split

theorem keeps_applyPendingSelects {b0 s : State} (h : Keeps b0 s) : Keeps b0 (applyPendingSelects s) := by
  unfold applyPendingSelects
  repeat' first | with_reducible assumption | with_reducible apply keeps_applySelect | with_reducible apply keeps_setEye | with_reducible apply keeps_foldl | intro _ | split

theorem keeps_dueSelects {b0 s : State} (h : Keeps b0 s) : Keeps b0 (dueSelects s) := by
  unfold dueSelects
  repeat' first | with_reducible assumption | with_reducible apply keeps_applyPendingSelects | (simp only [keeps_mk_iff]; with_reducible apply keepsVia_left)

theorem keeps_wLaserSelect {b0 s : State} (h : Keeps b0 s) (die : Nat) (v : Nat) : Keeps b0 (wLaserSelect die v s).2 := by
  unfold wLaserSelect
  dsimp only
  repeat' first | with_reducible assumption | with_reducible apply keeps_refuse | with_reducible apply keeps_rset | with_reducible apply keeps_accept | with_reducible apply keeps_setEye | with_reducible apply keeps_applySelect | intro _ | split

theorem keeps_execLaserSelectReq {b0 s : State} (h : Keeps b0 s) (via : Via) (die : Nat) (v : Nat) : Keeps b0 (outState s (execLaserSelectReq via die v s)) := by
  unfold execLaserSelectReq
  repeat' first | with_reducible assumption | rw [outState_next] | with_reducible apply keeps_doWrite | with_reducible apply keeps_wLaserSelect | intro _

theorem keeps_beginFit {b0 s : State} (h : Keeps b0 s) (e : Nat) (k : Nat) : Keeps b0 (beginFit s e k) := by
  unfold beginFit
  repeat' first | with_reducible assumption | with_reducible apply keeps_drive | with_reducible apply keeps_setLane | with_reducible apply keeps_sendLink | with_reducible apply keeps_ite | (simp only [keeps_mk_iff]; with_reducible apply keepsVia_left) | intro _

theorem keeps_idleFit {b0 s : State} (h : Keeps b0 s) (e : Nat) (k : Nat) (busy : Bool) (switching : Bool) (carrying : Bool) : Keeps b0 (idleFit s e k busy switching carrying) := by
  unfold idleFit
  dsimp only
  repeat' first | with_reducible assumption | with_reducible apply keeps_rinc | with_reducible apply keeps_setLane | with_reducible apply keeps_beginFit | with_reducible apply keeps_setEye | intro _ | split

theorem keeps_execFitPassStart {b0 s : State} (h : Keeps b0 s) (eyelet : Nat) (lane : Nat) : Keeps b0 (outState s (execFitPassStart eyelet lane s)) := by
  unfold execFitPassStart
  repeat' first | with_reducible assumption | rw [outState_next] | with_reducible apply keeps_rinc | with_reducible apply keeps_beginFit | with_reducible apply keeps_idleFit | intro _ | split

theorem keeps_sweepHeaters {b0 s : State} (h : Keeps b0 s) : Keeps b0 (sweepHeaters s) := by
  unfold sweepHeaters
  repeat' first | with_reducible assumption | with_reducible apply keeps_drive | with_reducible apply keeps_ite | with_reducible apply keeps_foldl | intro _

theorem keeps_updateRing {b0 s : State} (h : Keeps b0 s) (ring : Nat) (t : Frac) (found : Option Nat) : Keeps b0 (updateRing s ring t found) := by
  unfold updateRing
  repeat' first | with_reducible assumption | (simp only [keeps_mk_iff]; with_reducible apply keepsVia_left) | split

theorem keeps_execFitSolve {b0 s : State} (h : Keeps b0 s) (eyelet : Nat) (lane : Nat) (mod : RingSweep) (flt : RingSweep) : Keeps b0 (outState s (execFitSolve eyelet lane mod flt s)) := by
  unfold execFitSolve
  repeat' first | with_reducible assumption | rw [outState_next] | with_reducible apply keeps_updateRing | with_reducible apply keeps_rsetI | with_reducible apply keeps_drive | (simp only [keeps_mk_iff]; with_reducible apply keepsVia_left) | split

theorem keeps_execFitCheckEnd {b0 s : State} (h : Keeps b0 s) (eyelet : Nat) (lane : Nat) (ok : Bool) (phaseStep : Int) : Keeps b0 (outState s (execFitCheckEnd eyelet lane ok phaseStep s)) := by
  unfold execFitCheckEnd
  repeat' first | with_reducible assumption | rw [outState_next] | with_reducible apply keeps_rset | with_reducible apply keeps_sendLink | (simp only [keeps_mk_iff]; with_reducible apply keepsVia_left) | intro _ | split

theorem keeps_calibSave {b0 s : State} (h : Keeps b0 s) : Keeps b0 (calibSave s) := by
  unfold calibSave
  repeat' first | with_reducible assumption | with_reducible apply keeps_flashCommit

theorem keeps_lanesGo {b0 s : State} (h : Keeps b0 s) (e : Nat) (k : Nat) (dest : Train) (cause : Nat) : Keeps b0 (lanesGo s e k dest cause) := by
  unfold lanesGo
  repeat' first | with_reducible assumption | with_reducible apply keeps_laneGo | with_reducible apply keeps_ite | intro _

theorem keeps_becomeUnfit {b0 s : State} (h : Keeps b0 s) (e : Nat) (k : Nat) : Keeps b0 (becomeUnfit s e k) := by
  unfold becomeUnfit
  repeat' first | with_reducible assumption | with_reducible apply keeps_calibSave | with_reducible apply keeps_lanesGo | with_reducible apply keeps_notice | with_reducible apply keeps_stepFault | with_reducible apply keeps_ite | (simp only [keeps_mk_iff]; with_reducible apply keepsVia_left) | intro _

theorem keeps_ringAfter {b0 s : State} (h : Keeps b0 s) (e : Nat) (k : Nat) (res : Nat) (failed : Bool) : Keeps b0 (ringAfter s e k res failed) := by
  unfold ringAfter
  repeat' first | with_reducible assumption | with_reducible apply keeps_ite | (simp only [keeps_mk_iff]; with_reducible apply keepsVia_left) | intro _

theorem keeps_execFitPassEnd {b0 s : State} (h : Keeps b0 s) (eyelet : Nat) (lane : Nat) : Keeps b0 (outState s (execFitPassEnd eyelet lane s)) := by
  unfold execFitPassEnd
  repeat' first | with_reducible assumption | rw [outState_next] | with_reducible apply keeps_closeFit | with_reducible apply keeps_rinc | with_reducible apply keeps_ringAfter | with_reducible apply keeps_becomeUnfit | with_reducible apply keeps_lanesGo | intro _ | split

theorem keeps_execTableStale {b0 s : State} (h : Keeps b0 s) (eyelet : Nat) (lane : Nat) (ageMs : Nat) : Keeps b0 (outState s (execTableStale eyelet lane ageMs s)) := by
  unfold execTableStale
  repeat' first | with_reducible assumption | rw [outState_next] | with_reducible apply keeps_notice | with_reducible apply keeps_ite | (simp only [keeps_mk_iff]; with_reducible apply keepsVia_left) | intro _

theorem keeps_startSearch {b0 s : State} (h : Keeps b0 s) (e : Nat) : Keeps b0 (startSearch s e) := by
  unfold startSearch
  repeat' first | with_reducible assumption | with_reducible apply keeps_abortFit | with_reducible apply keeps_laneGo | with_reducible apply keeps_ite | with_reducible apply keeps_foldl | (simp only [keeps_mk_iff]; with_reducible apply keepsVia_left) | intro _

theorem keeps_wFullSearch {b0 s : State} (h : Keeps b0 s) (e : Nat) (v : Nat) : Keeps b0 (wFullSearch e v s).2 := by
  unfold wFullSearch
  repeat' first | with_reducible assumption | with_reducible apply keeps_refuse | with_reducible apply keeps_accept | with_reducible apply keeps_startSearch | split

theorem keeps_execFullSearch {b0 s : State} (h : Keeps b0 s) (via : Via) (eyelet : Nat) (v : Nat) : Keeps b0 (outState s (execFullSearch via eyelet v s)) := by
  unfold execFullSearch
  repeat' first | with_reducible assumption | rw [outState_next] | with_reducible apply keeps_doWrite | with_reducible apply keeps_wFullSearch | intro _

theorem keeps_execFullSearchDone {b0 s : State} (h : Keeps b0 s) (eyelet : Nat) (found : List (List (Nat × Nat))) : Keeps b0 (outState s (execFullSearchDone eyelet found s)) := by
  unfold execFullSearchDone
  repeat' first | with_reducible assumption | rw [outState_next] | with_reducible apply keeps_calibSave | with_reducible apply keeps_becomeUnfit | with_reducible apply keeps_foldl | (simp only [keeps_mk_iff]; with_reducible apply keepsVia_left) | intro _ | split

theorem keeps_trainTo {b0 s : State} (h : Keeps b0 s) (e : Nat) (k : Nat) (dest : Train) : Keeps b0 (trainTo s e k dest) := by
  unfold trainTo
  repeat' first | with_reducible assumption | with_reducible apply keeps_setLane

theorem keeps_execTrainStart {b0 s : State} (h : Keeps b0 s) (eyelet : Nat) (lane : Nat) : Keeps b0 (outState s (execTrainStart eyelet lane s)) := by
  unfold execTrainStart
  repeat' first | with_reducible assumption | rw [outState_next] | with_reducible apply keeps_setLane | with_reducible apply keeps_trainTo | with_reducible apply keeps_ite | (simp only [keeps_mk_draw_iff]; with_reducible apply keepsVia_left) | intro _

theorem keeps_execSignalDetected {b0 s : State} (h : Keeps b0 s) (eyelet : Nat) (lane : Nat) (cdbm : Int) : Keeps b0 (outState s (execSignalDetected eyelet lane cdbm s)) := by
  unfold execSignalDetected
  repeat' first | with_reducible assumption | rw [outState_next] | with_reducible apply keeps_rsetI | with_reducible apply keeps_trainTo | with_reducible apply keeps_ite | intro _

theorem keeps_execPhaseScanDone {b0 s : State} (h : Keeps b0 s) (eyelet : Nat) (lane : Nat) (clean : List Bool) : Keeps b0 (outState s (execPhaseScanDone eyelet lane clean s)) := by
  unfold execPhaseScanDone
  repeat' first | with_reducible assumption | rw [outState_next] | with_reducible apply keeps_trainTo | with_reducible apply keeps_rset | with_reducible apply keeps_trainFail | with_reducible apply keeps_ite | intro _

theorem keeps_execAlignDone {b0 s : State} (h : Keeps b0 s) (eyelet : Nat) (lane : Nat) : Keeps b0 (outState s (execAlignDone eyelet lane s)) := by
  unfold execAlignDone
  repeat' first | with_reducible assumption | rw [outState_next] | with_reducible apply keeps_setLane | with_reducible apply keeps_ite | intro _

theorem keeps_execAlignTimeout {b0 s : State} (h : Keeps b0 s) (eyelet : Nat) (lane : Nat) : Keeps b0 (outState s (execAlignTimeout eyelet lane s)) := by
  unfold execAlignTimeout
  repeat' first | with_reducible assumption | rw [outState_next] | with_reducible apply keeps_trainFail | with_reducible apply keeps_ite | intro _

theorem keeps_execEcho {b0 s : State} (h : Keeps b0 s) (eyelet : Nat) (lane : Nat) (stamp : Nat) (turnaroundPs : Nat) : Keeps b0 (outState s (execEcho eyelet lane stamp turnaroundPs s)) := by
  unfold execEcho
  repeat' first | with_reducible assumption | rw [outState_next] | with_reducible apply keeps_setLane | with_reducible apply keeps_ite | intro _

theorem keeps_execEchoReply {b0 s : State} (h : Keeps b0 s) (eyelet : Nat) (lane : Nat) (stamp : Nat) (roundTripPs : Nat) (turnaroundPs : Nat) : Keeps b0 (outState s (execEchoReply eyelet lane stamp roundTripPs turnaroundPs s)) := by
  unfold execEchoReply
  repeat' first | with_reducible assumption | rw [outState_next] | with_reducible apply keeps_setLane | with_reducible apply keeps_ite | intro _

theorem keeps_execLatencySet {b0 s : State} (h : Keeps b0 s) (eyelet : Nat) (lane : Nat) : Keeps b0 (outState s (execLatencySet eyelet lane s)) := by
  unfold execLatencySet
  repeat' first | with_reducible assumption | rw [outState_next] | with_reducible apply keeps_rset | with_reducible apply keeps_trainFail | with_reducible apply keeps_trainTo | with_reducible apply keeps_ite | intro _

theorem keeps_execEchoTimeout {b0 s : State} (h : Keeps b0 s) (eyelet : Nat) (lane : Nat) : Keeps b0 (outState s (execEchoTimeout eyelet lane s)) := by
  unfold execEchoTimeout
  repeat' first | with_reducible assumption | rw [outState_next] | with_reducible apply keeps_trainFail | with_reducible apply keeps_ite | intro _

theorem keeps_execQuarantineTimeout {b0 s : State} (h : Keeps b0 s) (eyelet : Nat) (lane : Nat) : Keeps b0 (outState s (execQuarantineTimeout eyelet lane s)) := by
  unfold execQuarantineTimeout
  repeat' first | with_reducible assumption | rw [outState_next] | with_reducible apply keeps_laneGo | with_reducible apply keeps_ite | intro _

theorem keeps_execTrainRetry {b0 s : State} (h : Keeps b0 s) (eyelet : Nat) (lane : Nat) : Keeps b0 (outState s (execTrainRetry eyelet lane s)) := by
  unfold execTrainRetry
  repeat' first | with_reducible assumption | rw [outState_next] | with_reducible apply keeps_trainTo | with_reducible apply keeps_ite | intro _

theorem keeps_onPause {b0 s : State} (h : Keeps b0 s) (e : Nat) (k : Nat) (dir : Nat) (target : Nat) : Keeps b0 (onPause s e k dir target) := by
  unfold onPause
  repeat' first | with_reducible assumption | with_reducible apply keeps_setLane | with_reducible apply keeps_ite | intro _

theorem keeps_onResume {b0 s : State} (h : Keeps b0 s) (e : Nat) (k : Nat) (dir : Nat) (target : Nat) : Keeps b0 (onResume s e k dir target) := by
  unfold onResume
  repeat' first | with_reducible assumption | with_reducible apply keeps_setLane | with_reducible apply keeps_ite | intro _

theorem keeps_execPause {b0 s : State} (h : Keeps b0 s) (eyelet : Nat) (lane : Nat) (dir : Nat) (target : Nat) : Keeps b0 (outState s (execPause eyelet lane dir target s)) := by
  unfold execPause
  repeat' first | with_reducible assumption | rw [outState_next] | with_reducible apply keeps_onPause

theorem keeps_execResume {b0 s : State} (h : Keeps b0 s) (eyelet : Nat) (lane : Nat) (dir : Nat) (target : Nat) : Keeps b0 (outState s (execResume eyelet lane dir target s)) := by
  unfold execResume
  repeat' first | with_reducible assumption | rw [outState_next] | with_reducible apply keeps_onResume

theorem keeps_execPauseTimeout {b0 s : State} (h : Keeps b0 s) (eyelet : Nat) (lane : Nat) : Keeps b0 (outState s (execPauseTimeout eyelet lane s)) := by
  unfold execPauseTimeout
  repeat' first | with_reducible assumption | rw [outState_next] | with_reducible apply keeps_laneGo | with_reducible apply keeps_ite | intro _

theorem keeps_execBeaconTimer {b0 s : State} (h : Keeps b0 s) (eyelet : Nat) (lane : Nat) : Keeps b0 (outState s (execBeaconTimer eyelet lane s)) := by
  unfold execBeaconTimer
  repeat' first | with_reducible assumption | rw [outState_next] | with_reducible apply keeps_setLane | with_reducible apply keeps_ite | intro _

theorem keeps_adopt {b0 s : State} (h : Keeps b0 s) (e : Nat) (x : Nat) : Keeps b0 (adopt s e x) := by
  unfold adopt
  repeat' first | with_reducible assumption | (simp only [keeps_mk_iff]; with_reducible apply keepsVia_left)

theorem keeps_cableCheck {b0 s : State} (h : Keeps b0 s) (e : Nat) (k : Nat) (b : List Word) : Keeps b0 (cableCheck s e k b).2.1 := by
  unfold cableCheck
  dsimp only
  repeat' first | with_reducible assumption | with_reducible apply keeps_adopt | split

theorem keeps_quarantine {b0 s : State} (h : Keeps b0 s) (e : Nat) (k : Nat) (r : Nat) : Keeps b0 (quarantine s e k r) := by
  unfold quarantine
  repeat' first | with_reducible assumption | with_reducible apply keeps_setLane | with_reducible apply keeps_raise | with_reducible apply keeps_ite | (simp only [keeps_mk_iff]; with_reducible apply keepsVia_left) | intro _

theorem keeps_applyResult {b0 s : State} (h : Keeps b0 s) (e : Nat) (k : Nat) (r : Nat) : Keeps b0 (applyResult s e k r) := by
  unfold applyResult
  repeat' first | with_reducible assumption | with_reducible apply keeps_rinc | with_reducible apply keeps_setLane | with_reducible apply keeps_laneGo | with_reducible apply keeps_quarantine | with_reducible apply keeps_ite | (simp only [keeps_mk_iff]; with_reducible apply keepsVia_left) | intro _

theorem keeps_applyRotation {b0 s : State} (h : Keeps b0 s) (e : Nat) : Keeps b0 (applyRotation s e) := by
  unfold applyRotation
  dsimp only
  repeat' first | with_reducible assumption | with_reducible apply keeps_rset | with_reducible apply keeps_applyResult | with_reducible apply keeps_rinc | with_reducible apply keeps_setLane | with_reducible apply keeps_foldl | intro _ | split

theorem keeps_checkLane {b0 s : State} (h : Keeps b0 s) (e : Nat) (k : Nat) : Keeps b0 (checkLane s e k) := by
  unfold checkLane
  repeat' first | with_reducible assumption | with_reducible apply keeps_cableCheck | with_reducible apply keeps_applyResult | with_reducible apply keeps_applyRotation | with_reducible apply keeps_ite | with_reducible apply keeps_foldl | intro _

theorem keeps_onBeacon {b0 s : State} (h : Keeps b0 s) (e : Nat) (k : Nat) (b : List Word) : Keeps b0 (onBeacon s e k b) := by
  unfold onBeacon
  repeat' first | with_reducible assumption | with_reducible apply keeps_checkLane | with_reducible apply keeps_setLane | with_reducible apply keeps_ite | intro _

theorem keeps_execBeaconReceived {b0 s : State} (h : Keeps b0 s) (eyelet : Nat) (lane : Nat) (b : List Word) : Keeps b0 (outState s (execBeaconReceived eyelet lane b s)) := by
  unfold execBeaconReceived
  repeat' first | with_reducible assumption | rw [outState_next] | with_reducible apply keeps_onBeacon

theorem keeps_execLinkReady {b0 s : State} (h : Keeps b0 s) (eyelet : Nat) (lane : Nat) : Keeps b0 (outState s (execLinkReady eyelet lane s)) := by
  unfold execLinkReady
  repeat' first | with_reducible assumption | rw [outState_next] | with_reducible apply keeps_enterServe | with_reducible apply keeps_setLane | with_reducible apply keeps_rinc | with_reducible apply keeps_ite | intro _

theorem keeps_installPlan {b0 s : State} (h : Keeps b0 s) (p : List Byte) : Keeps b0 (installPlan s p) := by
  unfold installPlan
  repeat' first | with_reducible assumption | with_reducible apply keeps_rset | with_reducible apply keeps_traceGeneration | with_reducible apply keeps_checkLane | with_reducible apply keeps_ite | with_reducible apply keeps_foldl | (simp only [keeps_mk_iff]; with_reducible apply keepsVia_left) | intro _

theorem keeps_wPlanCommit {b0 s : State} (h : Keeps b0 s) (v : Nat) : Keeps b0 (wPlanCommit v s).2 := by
  unfold wPlanCommit
  repeat' first | with_reducible assumption | with_reducible apply keeps_refuse | with_reducible apply keeps_rset | with_reducible apply keeps_accept | with_reducible apply keeps_flashCommit | with_reducible apply keeps_installPlan | (simp only [keeps_mk_iff]; with_reducible apply keepsVia_left) | split

theorem keeps_execPlanCommit {b0 s : State} (h : Keeps b0 s) (via : Via) (v : Nat) : Keeps b0 (outState s (execPlanCommit via v s)) := by
  unfold execPlanCommit
  repeat' first | with_reducible assumption | rw [outState_next] | with_reducible apply keeps_doWrite | with_reducible apply keeps_wPlanCommit | intro _

end Sys2Proof.Machine
end

