-- ==== Sys2Proof/Laws/KeepsLast.lean ====
section
/-! SUPPORT. Queues, lace operations, the units of tiles and a running Last keep what every operation keeps: the queue, the outbox, the free values given, and the canonical forms. -/

namespace Sys2Proof.Machine

theorem keeps_stopQueue {b0 s : State} (h : Keeps b0 s) (q : Nat) (code : Nat) : Keeps b0 (stopQueue s q code) := by
  unfold stopQueue
  repeat' first | with_reducible assumption | with_reducible apply keeps_setQState

theorem keeps_doorbell {b0 s : State} (h : Keeps b0 s) (q : Nat) : Keeps b0 (doorbell s q) := by
  unfold doorbell
  repeat' first | with_reducible assumption | with_reducible apply keeps_stopQueue | with_reducible apply keeps_refreshQueue | with_reducible apply keeps_setQState | with_reducible apply keeps_ite | intro _

theorem keeps_execQueueDoorbell {b0 s : State} (h : Keeps b0 s) (queue : Nat) : Keeps b0 (outState s (execQueueDoorbell queue s)) := by
  unfold execQueueDoorbell
  repeat' first | with_reducible assumption | rw [outState_next] | with_reducible apply keeps_doorbell | with_reducible apply keeps_ite | intro _

theorem keeps_disableWaits {b0 s : State} (h : Keeps b0 s) (q : Nat) : Keeps b0 (disableWaits s q) := by
  unfold disableWaits
  repeat' first | with_reducible assumption | with_reducible apply keeps_modQueue

theorem keeps_queueAction {b0 s : State} (h : Keeps b0 s) (action : Nat) (q : Nat) : Keeps b0 (queueAction s action q).2 := by
  unfold queueAction
  dsimp only
  repeat' first | with_reducible assumption | with_reducible apply keeps_refuse | with_reducible apply keeps_accept | with_reducible apply keeps_setQState | with_reducible apply keeps_disableWaits | with_reducible apply keeps_refreshQueue | intro _ | split

theorem keeps_wQueueCtl {b0 s : State} (h : Keeps b0 s) (via : Via) (v : Nat) : Keeps b0 (wQueueCtl via v s).2 := by
  unfold wQueueCtl
  dsimp only
  repeat' first | with_reducible assumption | with_reducible apply keeps_refuse | with_reducible apply keeps_queueAction | split

theorem keeps_execQueueEnable {b0 s : State} (h : Keeps b0 s) (via : Via) (queue : Nat) : Keeps b0 (outState s (execQueueEnable via queue s)) := by
  unfold execQueueEnable
  repeat' first | with_reducible assumption | rw [outState_next] | with_reducible apply keeps_doWrite | with_reducible apply keeps_wQueueCtl | intro _

theorem keeps_execQueueDisable {b0 s : State} (h : Keeps b0 s) (via : Via) (queue : Nat) : Keeps b0 (outState s (execQueueDisable via queue s)) := by
  unfold execQueueDisable
  repeat' first | with_reducible assumption | rw [outState_next] | with_reducible apply keeps_doWrite | with_reducible apply keeps_wQueueCtl | intro _

theorem keeps_execQueueResume {b0 s : State} (h : Keeps b0 s) (via : Via) (queue : Nat) : Keeps b0 (outState s (execQueueResume via queue s)) := by
  unfold execQueueResume
  repeat' first | with_reducible assumption | rw [outState_next] | with_reducible apply keeps_doWrite | with_reducible apply keeps_wQueueCtl | intro _

theorem keeps_execQueueDrained {b0 s : State} (h : Keeps b0 s) (queue : Nat) : Keeps b0 (outState s (execQueueDrained queue s)) := by
  unfold execQueueDrained
  repeat' first | with_reducible assumption | rw [outState_next] | with_reducible apply keeps_setQState | with_reducible apply keeps_ite | intro _

theorem keeps_takePlace {b0 s : State} (h : Keeps b0 s) (q : Nat) (id : Nat) (ws : List Word) : Keeps b0 (takePlace s q id ws) := by
  unfold takePlace
  dsimp only
  repeat' first | with_reducible assumption | with_reducible apply keeps_refreshAll | with_reducible apply keeps_laceOpen | (simp only [keeps_mk_iff]; with_reducible apply keepsVia_left) | intro _ | split

theorem keeps_execCommandStart {b0 s : State} (h : Keeps b0 s) (engine : Nat) : Keeps b0 (outState s (execCommandStart engine s)) := by
  unfold execCommandStart
  repeat' first | with_reducible assumption | rw [outState_next] | with_reducible apply keeps_fetchHead | with_reducible apply keeps_stopQueue | with_reducible apply keeps_setQWord | with_reducible apply keeps_rinc | with_reducible apply keeps_modQueue | with_reducible apply keeps_takePlace | with_reducible apply keeps_countDenied | with_reducible apply keeps_refreshQueue | with_reducible apply keeps_treadLog | (simp only [keeps_mk_iff]; with_reducible apply keepsVia_left) | (with_reducible apply keeps_pair; with_reducible assumption) | intro _ | split

theorem keeps_runCommand {b0 s : State} (h : Keeps b0 s) (q : Nat) (id : Nat) (op : Nat) (act : State → Flight → State) (hact : ∀ t y1, Keeps b0 t → Keeps b0 (act t y1)) : Keeps b0 (runCommand s q id op act) := by
  unfold runCommand
  repeat' first | with_reducible assumption | with_reducible apply hact | with_reducible apply keeps_modFlight | intro _ | split

theorem keeps_copyCommand {b0 s : State} (h : Keeps b0 s) (q : Nat) (id : Nat) (f : Flight) : Keeps b0 (copyCommand s q id f) := by
  unfold copyCommand
  repeat' first | with_reducible assumption | with_reducible apply keeps_finish_p | with_reducible apply keeps_startQueueCopy | with_reducible apply keeps_takeWaiting | with_reducible apply keeps_ite | intro _

theorem keeps_execCopy {b0 s : State} (h : Keeps b0 s) (queue : Nat) (id : Nat) : Keeps b0 (outState s (execCopy queue id s)) := by
  unfold execCopy
  repeat' first | with_reducible assumption | rw [outState_next] | with_reducible apply keeps_runCommand | with_reducible apply keeps_copyCommand | intro _

theorem keeps_execFill {b0 s : State} (h : Keeps b0 s) (queue : Nat) (id : Nat) : Keeps b0 (outState s (execFill queue id s)) := by
  unfold execFill
  repeat' first | with_reducible assumption | rw [outState_next] | with_reducible apply keeps_runCommand | with_reducible apply keeps_copyCommand | intro _

theorem keeps_execFence {b0 s : State} (h : Keeps b0 s) (queue : Nat) (id : Nat) : Keeps b0 (outState s (execFence queue id s)) := by
  unfold execFence
  repeat' first | with_reducible assumption | rw [outState_next] | with_reducible apply keeps_runCommand | with_reducible apply keeps_finish_p | with_reducible apply keeps_ite | intro _

theorem keeps_signalWrite {b0 s : State} (h : Keeps b0 s) (ws : List Word) : Keeps b0 (signalWrite s ws) := by
  unfold signalWrite
  repeat' first | with_reducible assumption | with_reducible apply keeps_semAdd | with_reducible apply keeps_hbmWrite | with_reducible apply keeps_ite | intro _

theorem keeps_execSignal {b0 s : State} (h : Keeps b0 s) (queue : Nat) (id : Nat) : Keeps b0 (outState s (execSignal queue id s)) := by
  unfold execSignal
  repeat' first | with_reducible assumption | rw [outState_next] | with_reducible apply keeps_runCommand | with_reducible apply keeps_finish_p | with_reducible apply keeps_signalWrite | with_reducible apply keeps_ite | intro _

theorem keeps_execWait {b0 s : State} (h : Keeps b0 s) (queue : Nat) (id : Nat) : Keeps b0 (outState s (execWait queue id s)) := by
  unfold execWait
  repeat' first | with_reducible assumption | rw [outState_next] | with_reducible apply keeps_runCommand | with_reducible apply keeps_finish_p | intro _ | split

theorem keeps_execWaitTimeout {b0 s : State} (h : Keeps b0 s) (queue : Nat) (id : Nat) : Keeps b0 (outState s (execWaitTimeout queue id s)) := by
  unfold execWaitTimeout
  repeat' first | with_reducible assumption | rw [outState_next] | with_reducible apply keeps_finish_p | intro _ | split

theorem keeps_laceCommand {b0 s : State} (h : Keeps b0 s) (q : Nat) (id : Nat) (f : Flight) (act : State → Nat → State) (hact : ∀ t y1, Keeps b0 t → Keeps b0 (act t y1)) : Keeps b0 (laceCommand s q id f act) := by
  unfold laceCommand
  dsimp only
  repeat' first | with_reducible assumption | with_reducible apply hact | with_reducible apply keeps_finish_p | split

theorem keeps_execBarrier {b0 s : State} (h : Keeps b0 s) (queue : Nat) (id : Nat) : Keeps b0 (outState s (execBarrier queue id s)) := by
  unfold execBarrier
  repeat' first | with_reducible assumption | rw [outState_next] | with_reducible apply keeps_runCommand | with_reducible apply keeps_laceCommand | with_reducible apply keeps_laceSend | intro _

theorem keeps_execReduceScalar {b0 s : State} (h : Keeps b0 s) (queue : Nat) (id : Nat) : Keeps b0 (outState s (execReduceScalar queue id s)) := by
  unfold execReduceScalar
  repeat' first | with_reducible assumption | rw [outState_next] | with_reducible apply keeps_runCommand | with_reducible apply keeps_laceCommand | with_reducible apply keeps_engineMeter | with_reducible apply keeps_laceRead | with_reducible apply keeps_laceEnd | (with_reducible apply keeps_pair; with_reducible assumption) | intro _ | split

theorem keeps_execTimestamp {b0 s : State} (h : Keeps b0 s) (queue : Nat) (id : Nat) : Keeps b0 (outState s (execTimestamp queue id s)) := by
  unfold execTimestamp
  dsimp only
  repeat' first | with_reducible assumption | rw [outState_next] | with_reducible apply keeps_runCommand | with_reducible apply keeps_finish_p | with_reducible apply keeps_engineMeter | with_reducible apply keeps_timestampWrite | (with_reducible apply keeps_pair; with_reducible assumption) | intro _ | split

theorem keeps_completeFlight {b0 s : State} (h : Keeps b0 s) (q : Nat) (f : Flight) (r : Result) : Keeps b0 (completeFlight s q f r) := by
  unfold completeFlight
  dsimp only
  repeat' first | with_reducible assumption | with_reducible apply keeps_modQueue | with_reducible apply keeps_setQWord | with_reducible apply keeps_treadLog | with_reducible apply keeps_semAdd | with_reducible apply keeps_refreshQueue | with_reducible apply keeps_engineWrite | with_reducible apply keeps_stopQueue | (simp only [keeps_mk_iff]; with_reducible apply keepsVia_left) | (with_reducible apply keeps_pair; with_reducible assumption) | intro _ | split

theorem keeps_execCommandComplete {b0 s : State} (h : Keeps b0 s) (queue : Nat) (id : Nat) : Keeps b0 (outState s (execCommandComplete queue id s)) := by
  unfold execCommandComplete
  repeat' first | with_reducible assumption | rw [outState_next] | with_reducible apply keeps_clocked | with_reducible apply keeps_completeFlight | intro _ | split

theorem keeps_wMgmtCommand {b0 s : State} (h : Keeps b0 s) (v : List Byte) : Keeps b0 (wMgmtCommand v s).2 := by
  unfold wMgmtCommand
  repeat' first | with_reducible assumption | with_reducible apply keeps_refuse | with_reducible apply keeps_accept | with_reducible apply keeps_doorbell | with_reducible apply keeps_setQWord | (simp only [keeps_mk_iff]; with_reducible apply keepsVia_left) | split

theorem keeps_execMgmtCommand {b0 s : State} (h : Keeps b0 s) (via : Via) (bytes : List Byte) : Keeps b0 (outState s (execMgmtCommand via bytes s)) := by
  unfold execMgmtCommand
  repeat' first | with_reducible assumption | rw [outState_next] | with_reducible apply keeps_doWrite | with_reducible apply keeps_wMgmtCommand | intro _

theorem keeps_laceReceive {b0 s t : State} (h : Keeps b0 s) (k : Keeps b0 t) (m : List Word) (log : Bool) :
    Keeps b0 ((laceReceive s m log).getD t) := by
  unfold laceReceive
  dsimp only
  repeat' first | with_reducible assumption | rw [Option.getD_none] | rw [Option.getD_some] | with_reducible apply keeps_laceTake | with_reducible apply keeps_logLace | with_reducible apply keeps_setLaceSet | intro _ | split

theorem keeps_execLacePacket {b0 s : State} (h : Keeps b0 s) (p : Packet) : Keeps b0 (outState s (execLacePacket p s)) := by
  unfold execLacePacket
  repeat' first | with_reducible assumption | rw [outState_next] | with_reducible apply keeps_rinc | with_reducible apply keeps_laceReceive | with_reducible apply keeps_ite | intro _

theorem keeps_execLaceTimeout {b0 s : State} (h : Keeps b0 s) (set : Nat) : Keeps b0 (outState s (execLaceTimeout set s)) := by
  unfold execLaceTimeout
  repeat' first | with_reducible assumption | rw [outState_next] | with_reducible apply keeps_laceEnd | split

theorem keeps_execLaceTakeover {b0 s : State} (h : Keeps b0 s) : Keeps b0 (outState s (execLaceTakeover s)) := by
  unfold execLaceTakeover
  repeat' first | with_reducible assumption | rw [outState_next] | with_reducible apply keeps_rinc | with_reducible apply keeps_ite | (simp only [keeps_mk_iff]; with_reducible apply keepsVia_left) | intro _

theorem keeps_wLaceEnable {b0 s : State} (h : Keeps b0 s) (set : Nat) (v : Nat) : Keeps b0 (wLaceEnable set v s).2 := by
  unfold wLaceEnable
  dsimp only
  repeat' first | with_reducible assumption | with_reducible apply keeps_refuse | with_reducible apply keeps_accept | with_reducible apply keeps_setLaceSet | split

theorem keeps_execLaceEnable {b0 s : State} (h : Keeps b0 s) (via : Via) (set : Nat) (v : Nat) : Keeps b0 (outState s (execLaceEnable via set v s)) := by
  unfold execLaceEnable
  repeat' first | with_reducible assumption | rw [outState_next] | with_reducible apply keeps_doWrite | with_reducible apply keeps_wLaceEnable | intro _

theorem keeps_startBulk {b0 s : State} (h : Keeps b0 s) (b : Bulk) (remote : Bool) : Keeps b0 (startBulk s b remote) := by
  unfold startBulk
  repeat' first | with_reducible assumption | with_reducible apply keeps_bulkEnd | with_reducible apply keeps_bulkReads | with_reducible apply keeps_bulkRun | with_reducible apply keeps_ite | intro _

theorem keeps_execBulkCopy {b0 s : State} (h : Keeps b0 s) (src : Nat) (remote : Bool) (len : Nat) (dst : Nat) : Keeps b0 (outState s (execBulkCopy src remote len dst s)) := by
  unfold execBulkCopy
  repeat' first | with_reducible assumption | rw [outState_next] | with_reducible apply keeps_clocked | with_reducible apply keeps_startBulk

theorem keeps_execBulkDigest {b0 s : State} (h : Keeps b0 s) (src : Nat) (remote : Bool) (len : Nat) (set : Nat) : Keeps b0 (outState s (execBulkDigest src remote len set s)) := by
  unfold execBulkDigest
  repeat' first | with_reducible assumption | rw [outState_next] | with_reducible apply keeps_clocked | with_reducible apply keeps_startBulk

theorem keeps_modSchedLace {b0 s : State} (h : Keeps b0 s) (o : SchedLace) (f : SchedLace → SchedLace) : Keeps b0 (modSchedLace s o f) := by
  unfold modSchedLace
  repeat' first | with_reducible assumption | with_reducible apply keeps_setRun

theorem keeps_schedLaceCheck {b0 s : State} (h : Keeps b0 s) (r : Run) (o : SchedLace) : Keeps b0 (schedLaceCheck s r o) := by
  unfold schedLaceCheck
  repeat' first | with_reducible assumption | with_reducible apply keeps_rinc | with_reducible apply keeps_modSchedLace | with_reducible apply keeps_setRun | with_reducible apply keeps_setPtile | with_reducible apply keeps_schedWrite | with_reducible apply keeps_semAdd | with_reducible apply keeps_ite | intro _

theorem keeps_schedLaceIssue {b0 s : State} (h : Keeps b0 s) (r : Run) (o : SchedLace) : Keeps b0 (schedLaceIssue s r o) := by
  unfold schedLaceIssue
  repeat' first | with_reducible assumption | with_reducible apply keeps_schedLaceCheck | with_reducible apply keeps_setRun

theorem keeps_execLaceRecord {b0 s : State} (h : Keeps b0 s) (tile : Nat) (entry : Nat) : Keeps b0 (outState s (execLaceRecord tile entry s)) := by
  unfold execLaceRecord
  repeat' first | with_reducible assumption | rw [outState_next] | with_reducible apply keeps_issue | with_reducible apply keeps_activityAdd | with_reducible apply keeps_schedLaceIssue | with_reducible apply keeps_opCount | with_reducible apply keeps_ite | intro _

theorem keeps_onLaceMessage {b0 s : State} (h : Keeps b0 s) (e : Nat) (k : Nat) (pos : Nat) (sb : Nat) (m : List Word) : Keeps b0 (onLaceMessage s e k pos sb m) := by
  unfold onLaceMessage
  repeat' first | with_reducible assumption | with_reducible apply keeps_rinc | with_reducible apply keeps_stepFault | with_reducible apply keeps_schedLaceCheck | with_reducible apply keeps_modSchedLace | intro _ | split

theorem keeps_execLaceMessageReceived {b0 s : State} (h : Keeps b0 s) (eyelet : Nat) (lane : Nat) (pos : Nat) (schedBeat : Nat) (msg : List Word) : Keeps b0 (outState s (execLaceMessageReceived eyelet lane pos schedBeat msg s)) := by
  unfold execLaceMessageReceived
  repeat' first | with_reducible assumption | rw [outState_next] | with_reducible apply keeps_onLaceMessage

theorem keeps_execLaceDeadlineMissed {b0 s : State} (h : Keeps b0 s) (tile : Nat) (entry : Nat) : Keeps b0 (outState s (execLaceDeadlineMissed tile entry s)) := by
  unfold execLaceDeadlineMissed
  dsimp only
  repeat' first | with_reducible assumption | rw [outState_next] | with_reducible apply keeps_stepFault | intro _ | split

theorem keeps_execArrive {b0 s : State} (h : Keeps b0 s) (tile : Nat) (group : Nat) : Keeps b0 (outState s (execArrive tile group s)) := by
  unfold execArrive
  repeat' first | with_reducible assumption | rw [outState_next] | with_reducible apply keeps_issue | with_reducible apply keeps_setRun | with_reducible apply keeps_tileFault | with_reducible apply keeps_notice | with_reducible apply keeps_ite | intro _

theorem keeps_execSignalRecord {b0 s : State} (h : Keeps b0 s) (tile : Nat) (sem : Nat) : Keeps b0 (outState s (execSignalRecord tile sem s)) := by
  unfold execSignalRecord
  repeat' first | with_reducible assumption | rw [outState_next] | with_reducible apply keeps_issue | with_reducible apply keeps_semAdd | intro _

theorem keeps_modPass {b0 s : State} (h : Keeps b0 s) (t : Nat) (a : Nat) (issue : Nat) (f : PassRec → PassRec) : Keeps b0 (modPass s t a issue f) := by
  unfold modPass
  repeat' first | with_reducible assumption | with_reducible apply keeps_setArray

theorem keeps_modOp {b0 s : State} (h : Keeps b0 s) (t : Nat) (vec : Bool) (issue : Nat) (f : FuncRec → FuncRec) : Keeps b0 (modOp s t vec issue f) := by
  unfold modOp
  repeat' first | with_reducible assumption | with_reducible apply keeps_setPtile

theorem keeps_readRow {b0 s : State} (h : Keeps b0 s) (t : Nat) (d : FuncRec) (r : Nat) (i : Nat) : Keeps b0 (readRow s t d r i) := by
  unfold readRow
  repeat' first | with_reducible assumption | with_reducible apply keeps_activityAdd | with_reducible apply keeps_modOp | with_reducible apply keeps_setPtile | with_reducible apply keeps_ite | intro _

theorem keeps_putRow {b0 s : State} (h : Keeps b0 s) (t : Nat) (d : FuncRec) (e : RowOut) (cyc : Nat) : Keeps b0 (putRow s t d e cyc) := by
  unfold putRow
  repeat' first | with_reducible assumption | with_reducible apply keeps_schedWriteHandle

theorem keeps_putBuffer {b0 s : State} (h : Keeps b0 s) (t : Nat) (d : FuncRec) (e : RowOut) (cyc : Nat) : Keeps b0 (putBuffer s t d e cyc) := by
  unfold putBuffer
  dsimp only
  repeat' first | with_reducible assumption | with_reducible apply keeps_modOp | with_reducible apply keeps_arrayFault | with_reducible apply keeps_setArray | split

theorem keeps_putFactor {b0 s : State} (h : Keeps b0 s) (t : Nat) (d : FuncRec) (e : RowOut) (cyc : Nat) : Keeps b0 (putFactor s t d e cyc) := by
  unfold putFactor
  dsimp only
  repeat' first | with_reducible assumption | with_reducible apply keeps_modOp | with_reducible apply keeps_arrayFault | with_reducible apply keeps_setArray | intro _ | split

theorem keeps_writeRow {b0 s : State} (h : Keeps b0 s) (t : Nat) (d : FuncRec) (e : RowOut) (cyc : Nat) : Keeps b0 (writeRow s t d e cyc) := by
  unfold writeRow
  repeat' first | with_reducible assumption | with_reducible apply keeps_modOp | with_reducible apply keeps_countConv | with_reducible apply keeps_putRow | with_reducible apply keeps_putBuffer | with_reducible apply keeps_putFactor | with_reducible apply keeps_ite | intro _

theorem keeps_completeOp {b0 s : State} (h : Keeps b0 s) (t : Nat) (d : FuncRec) : Keeps b0 (completeOp s t d) := by
  unfold completeOp
  repeat' first | with_reducible assumption | with_reducible apply keeps_setPtile | with_reducible apply keeps_setArray | with_reducible apply keeps_foldl | intro _

theorem keeps_fixedRead {b0 s : State} (h : Keeps b0 s) (k : Nat) (i : Nat) (c : CopyRec) : Keeps b0 (fixedRead s k i c) := by
  unfold fixedRead
  repeat' first | with_reducible assumption | with_reducible apply keeps_srcPlaces | with_reducible apply keeps_takeRead | with_reducible apply keeps_failCopy | (with_reducible apply keeps_pair; with_reducible assumption) | split

theorem keeps_fixedWrite {b0 s : State} (h : Keeps b0 s) (k : Nat) (i : Nat) (cyc : Nat) (c : CopyRec) : Keeps b0 (fixedWrite s k i cyc c) := by
  unfold fixedWrite
  repeat' first | with_reducible assumption | with_reducible apply keeps_dstPlaces | with_reducible apply keeps_putWrite | with_reducible apply keeps_failCopy | (with_reducible apply keeps_pair; with_reducible assumption) | split

theorem keeps_perform {b0 s : State} (h : Keeps b0 s) (t : Nat) (cyc : Nat) (u : UnitAct) : Keeps b0 (perform s t cyc u) := by
  unfold perform
  repeat' first | with_reducible assumption | with_reducible apply keeps_setArray | with_reducible apply keeps_modPass | with_reducible apply keeps_schedWriteHandle | with_reducible apply keeps_readRow | with_reducible apply keeps_writeRow | with_reducible apply keeps_completeOp | with_reducible apply keeps_fixedRead | with_reducible apply keeps_fixedWrite | with_reducible apply keeps_modCtx | with_reducible apply keeps_markWalk | with_reducible apply keeps_tryComplete | with_reducible apply keeps_stepCopy | with_reducible apply keeps_schedWrite | intro _ | split

theorem keeps_bankFault {b0 s : State} (h : Keeps b0 s) (t : Nat) (bank : Nat) : Keeps b0 (bankFault s t bank) := by
  unfold bankFault
  repeat' first | with_reducible assumption | with_reducible apply keeps_tileFault

theorem keeps_keepLate {b0 s : State} (h : Keeps b0 s) (t : Nat) (xs : List (Nat × UnitAct)) : Keeps b0 (keepLate s t xs) := by
  unfold keepLate
  repeat' first | with_reducible assumption | with_reducible apply keeps_setPtile | with_reducible apply keeps_ite | intro _

theorem keeps_runActs {b0 : State} (t hi : Nat) (n : Nat) : ∀ (xs : List (Nat × UnitAct)) (now : Nat) (taken : List Nat) {s : State},
    Keeps b0 s → Keeps b0 (runActs t hi n xs now taken s) := by
  induction n with
  | zero => exact fun _ _ _ _ h => keeps_keepLate h _ _
  | succ n ih =>
    intro xs now taken s h
    cases xs with
    | nil => exact h
    | cons x xs =>
      obtain ⟨key, u⟩ := x
      rw [runActs]
      dsimp only
      repeat' first | with_reducible assumption | with_reducible apply ih | with_reducible apply keeps_keepLate | with_reducible apply keeps_perform | with_reducible apply keeps_bankFault | intro _ | split

theorem keeps_countArrays {b0 s : State} (h : Keeps b0 s) (p : Nat) (lo : Nat) (hi : Nat) : Keeps b0 (countArrays s p lo hi) := by
  unfold countArrays
  repeat' first | with_reducible assumption | with_reducible apply keeps_activityAdd | with_reducible apply keeps_radd | with_reducible apply keeps_ite | with_reducible apply keeps_foldl | intro _

theorem keeps_workTo {b0 s : State} (h : Keeps b0 s) (t : Nat) (hi : Nat) : Keeps b0 (workTo s t hi) := by
  unfold workTo
  repeat' first | with_reducible assumption | with_reducible apply keeps_setPtile | with_reducible apply keeps_countArrays

theorem keeps_unitsTo {b0 s : State} (h : Keeps b0 s) (t : Nat) (hi : Nat) : Keeps b0 (unitsTo s t hi) := by
  unfold unitsTo
  repeat' first | with_reducible assumption | with_reducible apply keeps_runActs | with_reducible apply keeps_workTo | with_reducible apply keeps_ite | intro _

theorem keeps_allUnitsTo {b0 s : State} (h : Keeps b0 s) (hi : Nat) : Keeps b0 (allUnitsTo s hi) := by
  unfold allUnitsTo
  repeat' first | with_reducible assumption | with_reducible apply keeps_unitsTo | with_reducible apply keeps_foldl | intro _

theorem keeps_beginCycle {b0 s : State} (h : Keeps b0 s) (t : Nat) (c : Nat) : Keeps b0 (beginCycle s t c) := by
  unfold beginCycle
  repeat' first | with_reducible assumption | with_reducible apply keeps_perform | with_reducible apply keeps_ite | with_reducible apply keeps_foldl | intro _

theorem keeps_beginBeat {b0 s : State} (h : Keeps b0 s) : Keeps b0 (beginBeat s) := by
  unfold beginBeat
  repeat' first | with_reducible assumption | with_reducible apply keeps_beginCycle | with_reducible apply keeps_foldl | intro _

theorem keeps_unitEvent {b0 s : State} (h : Keeps b0 s) (t : Nat) (c : Nat) : Keeps b0 (unitEvent s t c) := by
  unfold unitEvent
  repeat' first | with_reducible assumption | with_reducible apply keeps_unitsTo | with_reducible apply keeps_ite | intro _

theorem keeps_execPassStreamStart {b0 s : State} (h : Keeps b0 s) (tile : Nat) (array : Nat) : Keeps b0 (outState s (execPassStreamStart tile array s)) := by
  unfold execPassStreamStart
  repeat' first | with_reducible assumption | rw [outState_next] | with_reducible apply keeps_unitEvent | split

theorem keeps_execPassComplete {b0 s : State} (h : Keeps b0 s) (tile : Nat) (array : Nat) : Keeps b0 (outState s (execPassComplete tile array s)) := by
  unfold execPassComplete
  repeat' first | with_reducible assumption | rw [outState_next] | with_reducible apply keeps_unitEvent | split

theorem keeps_execRowFuncComplete {b0 s : State} (h : Keeps b0 s) (tile : Nat) : Keeps b0 (outState s (execRowFuncComplete tile s)) := by
  unfold execRowFuncComplete
  repeat' first | with_reducible assumption | rw [outState_next] | with_reducible apply keeps_unitEvent | split

theorem keeps_execVectorOpComplete {b0 s : State} (h : Keeps b0 s) (tile : Nat) : Keeps b0 (outState s (execVectorOpComplete tile s)) := by
  unfold execVectorOpComplete
  repeat' first | with_reducible assumption | rw [outState_next] | with_reducible apply keeps_unitEvent | split

theorem keeps_driveCopy {b0 : State} (n : Nat) : ∀ {s : State}, Keeps b0 s → ∀ k, Keeps b0 (driveCopy n s k) := by
  induction n with
  | zero => exact fun h _ => h
  | succ n ih =>
    intro s h k
    unfold driveCopy
    repeat' first | with_reducible assumption | with_reducible apply ih | with_reducible apply keeps_unitEvent | intro _ | split

theorem keeps_execTxBufferPlace {b0 s : State} (h : Keeps b0 s) (ctx : Nat) : Keeps b0 (outState s (execTxBufferPlace ctx s)) := by
  unfold execTxBufferPlace
  dsimp only
  repeat' first | with_reducible assumption | rw [outState_next] | with_reducible apply keeps_driveCopy | with_reducible apply keeps_setLane | with_reducible apply keeps_crossOut | with_reducible apply keeps_opCount | with_reducible apply keeps_putCtx | intro _ | split

theorem keeps_execCopyComplete {b0 s : State} (h : Keeps b0 s) (ctx : Nat) : Keeps b0 (outState s (execCopyComplete ctx s)) := by
  unfold execCopyComplete
  repeat' first | with_reducible assumption | rw [outState_next] | with_reducible apply keeps_unitEvent | with_reducible apply keeps_tryComplete | with_reducible apply keeps_driveCopy | intro _ | split

theorem keeps_loadEnd {b0 s : State} (h : Keeps b0 s) (origin : Option (Nat × Nat)) (status : Nat) (reason : Nat) (detail : Nat) (note : Nat) : Keeps b0 (loadEnd s origin status reason detail note) := by
  unfold loadEnd
  repeat' first | with_reducible assumption | with_reducible apply keeps_setResult | with_reducible apply keeps_rset

theorem keeps_execLoadLast {b0 s : State} (h : Keeps b0 s) (queue : Nat) (id : Nat) : Keeps b0 (outState s (execLoadLast queue id s)) := by
  unfold execLoadLast
  repeat' first | with_reducible assumption | rw [outState_next] | with_reducible apply keeps_runCommand | with_reducible apply keeps_finish_p | with_reducible apply keeps_loadEnd | with_reducible apply keeps_setSlot | with_reducible apply keeps_loadGo | with_reducible apply keeps_ite | (simp only [keeps_mk_iff]; with_reducible apply keepsVia_left) | intro _

theorem keeps_wLastUnload {b0 s : State} (h : Keeps b0 s) (v : Nat) : Keeps b0 (wLastUnload v s).2 := by
  unfold wLastUnload
  repeat' first | with_reducible assumption | with_reducible apply keeps_refuse | with_reducible apply keeps_accept | with_reducible apply keeps_setSlot | (simp only [keeps_mk_iff]; with_reducible apply keepsVia_left) | split

theorem keeps_execLastUnload {b0 s : State} (h : Keeps b0 s) (via : Via) (slot : Nat) : Keeps b0 (outState s (execLastUnload via slot s)) := by
  unfold execLastUnload
  repeat' first | with_reducible assumption | rw [outState_next] | with_reducible apply keeps_doWrite | with_reducible apply keeps_wLastUnload | intro _

theorem keeps_installImage {b0 s : State} (h : Keeps b0 s) (slot : Nat) (b : Nat) (t : Nat) : Keeps b0 (installImage s slot b t) := by
  unfold installImage
  repeat' first | with_reducible assumption | with_reducible apply keeps_setLtile

theorem keeps_pinPage {b0 s t : State} (h : Keeps b0 s) (key va : Nat) (e : pinPage s key va = .ok t) : Keeps b0 t := by
  unfold pinPage at e
  split at e
  · simp at e
  · split at e
    · simp at e
    · simp only [Except.ok.injEq] at e
      subst e
      exact keeps_update h (Nat.le_refl _) rfl

theorem keeps_pinAll {b0 : State} (l : List (Nat × Nat × Nat × Nat)) : ∀ {s : State}, Keeps b0 s → Keeps b0 (pinAll l s).2 := by
  induction l with
  | nil => exact fun h => h
  | cons x l ih =>
    intro s h
    unfold pinAll
    split
    · exact h
    · exact ih (keeps_pinPage h _ _ ‹_›)

theorem keeps_emitDigest {b0 s : State} (h : Keeps b0 s) (r : Run) (t : Nat) (stop : Nat) (final : Bool) : Keeps b0 (emitDigest s r t stop final) := by
  unfold emitDigest
  repeat' first | with_reducible assumption | with_reducible apply keeps_setLtile | with_reducible apply keeps_traceMake | with_reducible apply keeps_rset

theorem keeps_emitDigests {b0 s : State} (h : Keeps b0 s) (r : Run) (stop : Nat) (final : Bool) : Keeps b0 (emitDigests s r stop final) := by
  unfold emitDigests
  repeat' first | with_reducible assumption | with_reducible apply keeps_emitDigest | with_reducible apply keeps_ite | with_reducible apply keeps_foldl | intro _

theorem keeps_execDigestEmit {b0 s : State} (h : Keeps b0 s) (tile : Nat) : Keeps b0 (outState s (execDigestEmit tile s)) := by
  unfold execDigestEmit
  repeat' first | with_reducible assumption | rw [outState_next] | with_reducible apply keeps_emitDigest | intro _ | split

theorem keeps_endRun {b0 s : State} (h : Keeps b0 s) (r : Run) (x : Result) : Keeps b0 (endRun s r x) := by
  unfold endRun
  repeat' first | with_reducible assumption | with_reducible apply keeps_setResult | with_reducible apply keeps_setSlot | with_reducible apply keeps_dueSelects | (simp only [keeps_mk_iff]; with_reducible apply keepsVia_left)

theorem keeps_disarmBench {b0 s : State} (h : Keeps b0 s) : Keeps b0 (disarmBench s) := by
  unfold disarmBench
  repeat' first | with_reducible assumption | with_reducible apply keeps_ite | (simp only [keeps_mk_iff]; with_reducible apply keepsVia_left) | intro _

theorem keeps_launchFail {b0 s : State} (h : Keeps b0 s) (origin : Option (Nat × Nat)) (status : Nat) (reason : Nat) (check : Nat) (tile : Nat) (low : Nat) : Keeps b0 (launchFail s origin status reason check tile low) := by
  unfold launchFail
  repeat' first | with_reducible assumption | with_reducible apply keeps_setResult | with_reducible apply keeps_rset | with_reducible apply keeps_disarmBench

theorem keeps_handshakeFail {b0 s : State} (h : Keeps b0 s) (r : Run) (status : Nat) : Keeps b0 (handshakeFail s r status) := by
  unfold handshakeFail
  repeat' first | with_reducible assumption | with_reducible apply keeps_endRun | with_reducible apply keeps_endCleanup | with_reducible apply keeps_rset

theorem keeps_sendGo {b0 s : State} (h : Keeps b0 s) (r : Run) (beat : Nat) : Keeps b0 (sendGo s r beat) := by
  unfold sendGo
  repeat' first | with_reducible assumption | with_reducible apply keeps_sendLink | with_reducible apply keeps_foldl | intro _

theorem keeps_leaderGo {b0 s : State} (h : Keeps b0 s) : Keeps b0 (leaderGo s) := by
  unfold leaderGo
  repeat' first | with_reducible assumption | with_reducible apply keeps_sendGo | with_reducible apply keeps_setRun | intro _ | split

theorem keeps_takeReady {b0 s : State} (h : Keeps b0 s) (chip : Nat) (ws : List Word) : Keeps b0 (takeReady s chip ws) := by
  unfold takeReady
  repeat' first | with_reducible assumption | with_reducible apply keeps_setRun | intro _ | split

theorem keeps_execReadyReceived {b0 s : State} (h : Keeps b0 s) (p : Packet) : Keeps b0 (outState s (execReadyReceived p s)) := by
  unfold execReadyReceived
  repeat' first | with_reducible assumption | rw [outState_next] | with_reducible apply keeps_rinc | with_reducible apply keeps_leaderGo | with_reducible apply keeps_takeReady | with_reducible apply keeps_ite | (simp only [keeps_mk_iff]; with_reducible apply keepsVia_left) | intro _

theorem keeps_onGo {b0 s : State} (h : Keeps b0 s) (e : Nat) (k : Nat) (slot : Nat) : Keeps b0 (onGo s e k slot) := by
  unfold onGo
  dsimp only
  repeat' first | with_reducible assumption | with_reducible apply keeps_setRun | intro _ | split

theorem keeps_execGo {b0 s : State} (h : Keeps b0 s) (eyelet : Nat) (lane : Nat) (slot : Nat) : Keeps b0 (outState s (execGo eyelet lane slot s)) := by
  unfold execGo
  repeat' first | with_reducible assumption | rw [outState_next] | with_reducible apply keeps_onGo

theorem keeps_execGoRelay {b0 s : State} (h : Keeps b0 s) : Keeps b0 (outState s (execGoRelay s)) := by
  unfold execGoRelay
  repeat' first | with_reducible assumption | rw [outState_next] | with_reducible apply keeps_sendGo | with_reducible apply keeps_setRun | intro _ | split

theorem keeps_execSyncTimeout {b0 s : State} (h : Keeps b0 s) : Keeps b0 (outState s (execSyncTimeout s)) := by
  unfold execSyncTimeout
  repeat' first | with_reducible assumption | rw [outState_next] | with_reducible apply keeps_handshakeFail | intro _ | split

theorem keeps_arm {b0 s : State} (h : Keeps b0 s) (r : Run) : Keeps b0 (arm s r) := by
  unfold arm
  repeat' first | with_reducible assumption | with_reducible apply keeps_setSlot | with_reducible apply keeps_sendControl | with_reducible apply keeps_setRun | with_reducible apply keeps_leaderGo | with_reducible apply keeps_takeReady | with_reducible apply keeps_ite | with_reducible apply keeps_foldl | (simp only [keeps_mk_iff]; with_reducible apply keepsVia_left) | intro _

theorem keeps_execLaunch {b0 s : State} (h : Keeps b0 s) (queue : Nat) (id : Nat) : Keeps b0 (outState s (execLaunch queue id s)) := by
  unfold execLaunch
  dsimp only
  repeat' first | with_reducible assumption | rw [outState_next] | with_reducible apply keeps_runCommand | with_reducible apply keeps_finish_p | with_reducible apply keeps_disarmBench | with_reducible apply keeps_launchFail | with_reducible apply keeps_installImage | with_reducible apply keeps_pinAll | with_reducible apply keeps_endCleanup | with_reducible apply keeps_arm | with_reducible apply keeps_foldl | (with_reducible apply keeps_pair; with_reducible assumption) | intro _ | split

theorem keeps_countBusy {b0 s : State} (h : Keeps b0 s) : Keeps b0 (countBusy s) := by
  unfold countBusy
  repeat' first | with_reducible assumption | with_reducible apply keeps_rinc | with_reducible apply keeps_foldl | intro _ | split

theorem keeps_readRecord {b0 s : State} (h : Keeps b0 s) (r : Run) (t : Nat) (i : Nat) : Keeps b0 (readRecord s r t i) := by
  unfold readRecord
  dsimp only
  repeat' first | with_reducible assumption | with_reducible apply keeps_tileFault | with_reducible apply keeps_setRun | with_reducible apply keeps_lineFill | intro _ | split

theorem keeps_readRecords {b0 s : State} (h : Keeps b0 s) : Keeps b0 (readRecords s) := by
  unfold readRecords
  repeat' first | with_reducible assumption | with_reducible apply keeps_readRecord | with_reducible apply keeps_foldl | intro _ | split

theorem keeps_issueBeat {b0 s : State} (h : Keeps b0 s) : Keeps b0 (issueBeat s) := by
  unfold issueBeat
  repeat' first | with_reducible assumption | with_reducible apply keeps_readRecords | with_reducible apply keeps_countBusy | with_reducible apply keeps_setRun

theorem keeps_beatRun {b0 s : State} (h : Keeps b0 s) (r : Run) : Keeps b0 (beatRun s r) := by
  unfold beatRun
  repeat' first | with_reducible assumption | with_reducible apply keeps_setRun | with_reducible apply keeps_rinc | with_reducible apply keeps_issueBeat | intro _ | split

theorem keeps_execBeatTick {b0 s : State} (h : Keeps b0 s) : Keeps b0 (outState s (execBeatTick s)) := by
  unfold execBeatTick
  repeat' first | with_reducible assumption | rw [outState_next] | with_reducible apply keeps_allUnitsTo | with_reducible apply keeps_dueSelects | with_reducible apply keeps_faultCleanup | with_reducible apply keeps_beginBeat | with_reducible apply keeps_sweepHeaters | with_reducible apply keeps_advanceAll | with_reducible apply keeps_beatRun | (simp only [keeps_mk_iff]; with_reducible apply keepsVia_left) | intro _ | split

theorem keeps_replayStart {b0 s : State} (h : Keeps b0 s) (r : Run) : Keeps b0 (replayStart s r) := by
  unfold replayStart
  repeat' first | with_reducible assumption | with_reducible apply keeps_ite | (simp only [keeps_mk_iff]; with_reducible apply keepsVia_left) | intro _

theorem keeps_openPresets {b0 s : State} (h : Keeps b0 s) (r : Run) : Keeps b0 (openPresets s r) := by
  unfold openPresets
  dsimp only
  repeat' first | with_reducible assumption | with_reducible apply keeps_setWindow | with_reducible apply keeps_foldl | intro _ | split

theorem keeps_beatMark {b0 s : State} (h : Keeps b0 s) (sb : Option Nat) : Keeps b0 (beatMark s sb) := by
  unfold beatMark
  repeat' first | with_reducible assumption | with_reducible apply keeps_traceMake | (simp only [keeps_mk_iff]; with_reducible apply keepsVia_left)

theorem keeps_execLaunchBeatReached {b0 s : State} (h : Keeps b0 s) : Keeps b0 (outState s (execLaunchBeatReached s)) := by
  unfold execLaunchBeatReached
  repeat' first | with_reducible assumption | rw [outState_next] | with_reducible apply keeps_rset | with_reducible apply keeps_setSlot | with_reducible apply keeps_beatMark | with_reducible apply keeps_setRun | with_reducible apply keeps_openPresets | with_reducible apply keeps_replayStart | with_reducible apply keeps_stepFault | with_reducible apply keeps_issueBeat | (simp only [keeps_mk_iff]; with_reducible apply keepsVia_left) | intro _ | split

theorem keeps_execStepStart {b0 s : State} (h : Keeps b0 s) : Keeps b0 (outState s (execStepStart s)) := by
  unfold execStepStart
  repeat' first | with_reducible assumption | rw [outState_next] | with_reducible apply keeps_setRun | with_reducible apply keeps_rinc | with_reducible apply keeps_rset | with_reducible apply keeps_treadLog | with_reducible apply keeps_snapBoundary | intro _ | split

theorem keeps_raiseCap {b0 s : State} (h : Keeps b0 s) : Keeps b0 (raiseCap s) := by
  unfold raiseCap
  repeat' first | with_reducible assumption | with_reducible apply keeps_rinc | with_reducible apply keeps_notice

theorem keeps_sampleRequest {b0 s : State} (h : Keeps b0 s) (xPrev : Nat) (pAvg : Frac) : Keeps b0 (sampleRequest s xPrev pAvg).2 := by
  unfold sampleRequest
  repeat' first | with_reducible assumption | with_reducible apply keeps_rset

theorem keeps_paceRestart {b0 s : State} (h : Keeps b0 s) : Keeps b0 (paceRestart s) := by
  unfold paceRestart
  repeat' first | with_reducible assumption | (simp only [keeps_mk_iff]; with_reducible apply keepsVia_left)

theorem keeps_execPacePoint {b0 s : State} (h : Keeps b0 s) (unsampledMw : Int) : Keeps b0 (outState s (execPacePoint unsampledMw s)) := by
  unfold execPacePoint
  repeat' first | with_reducible assumption | rw [outState_next] | with_reducible apply keeps_sampleRequest | with_reducible apply keeps_paceRestart | with_reducible apply keeps_raiseCap | with_reducible apply keeps_setRun | with_reducible apply keeps_rinc | with_reducible apply keeps_traceMake | with_reducible apply keeps_schedLaceIssue | with_reducible apply keeps_emitDigests | intro _ | split

theorem keeps_execStretchApply {b0 s : State} (h : Keeps b0 s) : Keeps b0 (outState s (execStretchApply s)) := by
  unfold execStretchApply
  dsimp only
  repeat' first | with_reducible assumption | rw [outState_next] | with_reducible apply keeps_stepFault | with_reducible apply keeps_setRun | with_reducible apply keeps_rset | intro _ | split

theorem keeps_execLastEnd {b0 s : State} (h : Keeps b0 s) : Keeps b0 (outState s (execLastEnd s)) := by
  unfold execLastEnd
  repeat' first | with_reducible assumption | rw [outState_next] | with_reducible apply keeps_setSlot | with_reducible apply keeps_setRun | intro _ | split

theorem keeps_execEndingDone {b0 s : State} (h : Keeps b0 s) : Keeps b0 (outState s (execEndingDone s)) := by
  unfold execEndingDone
  repeat' first | with_reducible assumption | rw [outState_next] | with_reducible apply keeps_endRun | with_reducible apply keeps_endCleanup | with_reducible apply keeps_emitDigests | intro _ | split

theorem keeps_execSnapshot {b0 s : State} (h : Keeps b0 s) (queue : Nat) (id : Nat) : Keeps b0 (outState s (execSnapshot queue id s)) := by
  unfold execSnapshot
  dsimp only
  repeat' first | with_reducible assumption | rw [outState_next] | with_reducible apply keeps_runCommand | with_reducible apply keeps_finish_p | with_reducible apply keeps_pieceReads | with_reducible apply keeps_snapOpen | with_reducible apply keeps_snapAck | with_reducible apply keeps_snapStream | intro _ | split

end Sys2Proof.Machine
end

