-- ==== Sys2Proof/Laws/KeepsPlatform.lean ====
section
/-! SUPPORT. The clock, the package, faults, tenancy, power and reset keep what every operation keeps: the queue, the outbox, the free values given, and the canonical forms. -/

namespace Sys2Proof.Machine

theorem keeps_setPower {b0 s : State} (h : Keeps b0 s) (f : Power → Power) : Keeps b0 (setPower s f) := by
  unfold setPower
  repeat' first | with_reducible assumption | (simp only [keeps_mk_iff]; with_reducible apply keepsVia_left)

theorem keeps_setTap {b0 s : State} (h : Keeps b0 s) (i : Nat) (f : Tap → Tap) : Keeps b0 (setTap s i f) := by
  unfold setTap
  repeat' first | with_reducible assumption | with_reducible apply keeps_setPower

theorem keeps_sampleTap {b0 s : State} (h : Keeps b0 s) (i : Nat) (c : BitVec 16) : Keeps b0 (sampleTap s i c) := by
  unfold sampleTap
  repeat' first | with_reducible assumption | with_reducible apply keeps_setTap | with_reducible apply keeps_ite | (simp only [keeps_mk_draw_iff]; with_reducible apply keepsVia_left) | intro _

theorem keeps_execSenseSample {b0 s : State} (h : Keeps b0 s) (x : Sample) : Keeps b0 (outState s (execSenseSample x s)) := by
  unfold execSenseSample
  repeat' first | with_reducible assumption | rw [outState_next] | with_reducible apply keeps_sampleTap | with_reducible apply keeps_setPower | with_reducible apply keeps_rset | with_reducible apply keeps_foldl | intro _

theorem keeps_execSenseOpen {b0 s : State} (h : Keeps b0 s) (die : Nat) : Keeps b0 (outState s (execSenseOpen die s)) := by
  unfold execSenseOpen
  repeat' first | with_reducible assumption | rw [outState_next] | with_reducible apply keeps_rinc | with_reducible apply keeps_notice | with_reducible apply keeps_setTap | with_reducible apply keeps_ite | intro _

theorem keeps_publishPower {b0 s : State} (h : Keeps b0 s) : Keeps b0 (publishPower s) := by
  unfold publishPower
  repeat' first | with_reducible assumption | with_reducible apply keeps_rsetI | with_reducible apply keeps_foldl | intro _

theorem keeps_keepAverages {b0 s : State} (h : Keeps b0 s) (x : Returns) (good : Bool) : Keeps b0 (keepAverages s x good) := by
  unfold keepAverages
  repeat' first | with_reducible assumption | with_reducible apply keeps_setTap | with_reducible apply keeps_foldl | intro _

theorem keeps_execReturnCheck {b0 s : State} (h : Keeps b0 s) : Keeps b0 (outState s (execReturnCheck s)) := by
  unfold execReturnCheck
  repeat' first | with_reducible assumption | rw [outState_next] | with_reducible apply keeps_keepAverages | with_reducible apply keeps_publishPower | with_reducible apply keeps_setPower | with_reducible apply keeps_rinc | with_reducible apply keeps_notice | intro _ | split

theorem keeps_execDieDead {b0 s : State} (h : Keeps b0 s) (die : Nat) : Keeps b0 (outState s (execDieDead die s)) := by
  unfold execDieDead
  repeat' first | with_reducible assumption | rw [outState_next] | with_reducible apply keeps_setTap | with_reducible apply keeps_notice | with_reducible apply keeps_setHealth | with_reducible apply keeps_flashCommit | with_reducible apply keeps_stepFault | with_reducible apply keeps_ite | (simp only [keeps_mk_iff]; with_reducible apply keepsVia_left) | intro _

theorem keeps_execModelStep {b0 s : State} (h : Keeps b0 s) : Keeps b0 (outState s (execModelStep s)) := by
  unfold execModelStep
  repeat' first | with_reducible assumption | rw [outState_next] | with_reducible apply keeps_setPower | (simp only [keeps_mk_iff]; with_reducible apply keepsVia_left)

theorem keeps_wCoolant {b0 s : State} (h : Keeps b0 s) (v : Int) : Keeps b0 (wCoolant v s).2 := by
  unfold wCoolant
  repeat' first | with_reducible assumption | with_reducible apply keeps_refuse | with_reducible apply keeps_accept | with_reducible apply keeps_setPower | with_reducible apply keeps_rsetI | split

theorem keeps_execCoolantWrite {b0 s : State} (h : Keeps b0 s) (via : Via) (mc : Int) : Keeps b0 (outState s (execCoolantWrite via mc s)) := by
  unfold execCoolantWrite
  repeat' first | with_reducible assumption | rw [outState_next] | with_reducible apply keeps_doWrite | with_reducible apply keeps_wCoolant | intro _

theorem keeps_execCoolantStale {b0 s : State} (h : Keeps b0 s) : Keeps b0 (outState s (execCoolantStale s)) := by
  unfold execCoolantStale
  repeat' first | with_reducible assumption | rw [outState_next] | with_reducible apply keeps_rinc | with_reducible apply keeps_notice | with_reducible apply keeps_setPower | with_reducible apply keeps_ite | intro _

theorem keeps_correctRing {b0 s : State} (h : Keeps b0 s) (d : Nat) (t : Int) : Keeps b0 (correctRing s d t) := by
  unfold correctRing
  repeat' first | with_reducible assumption | with_reducible apply keeps_setPower

theorem keeps_correctDiode {b0 s : State} (h : Keeps b0 s) (i : Nat) (t : Int) : Keeps b0 (correctDiode s i t) := by
  unfold correctDiode
  repeat' first | with_reducible assumption | with_reducible apply keeps_setPower | with_reducible apply keeps_ite | intro _

theorem keeps_enterStall {b0 s : State} (h : Keeps b0 s) (code : Nat) : Keeps b0 (enterStall s code) := by
  unfold enterStall
  repeat' first | with_reducible assumption | with_reducible apply keeps_stepFaultIfRunning | with_reducible apply keeps_setPower

theorem keeps_enterThermal {b0 s : State} (h : Keeps b0 s) (x : Thermal) : Keeps b0 (enterThermal s x) := by
  unfold enterThermal
  repeat' first | with_reducible assumption | with_reducible apply keeps_rset | with_reducible apply keeps_setPower | with_reducible apply keeps_rinc | with_reducible apply keeps_notice | with_reducible apply keeps_enterStall | with_reducible apply keeps_emit | split

theorem keeps_publishTemps {b0 s : State} (h : Keeps b0 s) (js : List Int) : Keeps b0 (publishTemps s js) := by
  unfold publishTemps
  repeat' first | with_reducible assumption | with_reducible apply keeps_rsetI | with_reducible apply keeps_rset | with_reducible apply keeps_foldl | intro _

theorem keeps_aliveAgain {b0 s : State} (h : Keeps b0 s) (which : Nat → Bool) : Keeps b0 (aliveAgain s which) := by
  unfold aliveAgain
  repeat' first | with_reducible assumption | with_reducible apply keeps_setPower

theorem keeps_mirrorModel {b0 s : State} (h : Keeps b0 s) : Keeps b0 (mirrorModel s) := by
  unfold mirrorModel
  repeat' first | with_reducible assumption | with_reducible apply keeps_setPower

theorem keeps_resumeMirror {b0 s : State} (h : Keeps b0 s) : Keeps b0 (resumeMirror s) := by
  unfold resumeMirror
  repeat' first | with_reducible assumption | with_reducible apply keeps_setPower | split

theorem keeps_execThermalEval {b0 s : State} (h : Keeps b0 s) (diodesMc : List (Nat × Int)) : Keeps b0 (outState s (execThermalEval diodesMc s)) := by
  unfold execThermalEval
  repeat' first | with_reducible assumption | rw [outState_next] | with_reducible apply keeps_correctRing | with_reducible apply keeps_correctDiode | with_reducible apply keeps_setPower | with_reducible apply keeps_publishTemps | with_reducible apply keeps_enterThermal | with_reducible apply keeps_driveHeaters | with_reducible apply keeps_mirrorModel | with_reducible apply keeps_rset | with_reducible apply keeps_ite | with_reducible apply keeps_foldl | intro _

theorem keeps_violation {b0 s : State} (h : Keeps b0 s) (i : Nat) (code : Nat) (bad : Bool) : Keeps b0 (violation s i code bad) := by
  unfold violation
  repeat' first | with_reducible assumption | with_reducible apply keeps_stepFaultIfRunning | with_reducible apply keeps_rinc | with_reducible apply keeps_notice | with_reducible apply keeps_ite | intro _

theorem keeps_execGovernorBeat {b0 s : State} (h : Keeps b0 s) (measuredMa : Nat) (inputMa : Nat) (reversed : Bool) : Keeps b0 (outState s (execGovernorBeat measuredMa inputMa reversed s)) := by
  unfold execGovernorBeat
  repeat' first | with_reducible assumption | rw [outState_next] | with_reducible apply keeps_setPower | with_reducible apply keeps_violation

theorem keeps_execPowerWindow {b0 s : State} (h : Keeps b0 s) (unsampledMw : Int) : Keeps b0 (outState s (execPowerWindow unsampledMw s)) := by
  unfold execPowerWindow
  repeat' first | with_reducible assumption | rw [outState_next] | with_reducible apply keeps_sampleRequest | with_reducible apply keeps_setPower | with_reducible apply keeps_raiseCap | with_reducible apply keeps_ite | intro _

theorem keeps_allWelts {b0 s : State} (h : Keeps b0 s) (st : WeltState) : Keeps b0 (allWelts s st) := by
  unfold allWelts
  repeat' first | with_reducible assumption | with_reducible apply keeps_setWelt | with_reducible apply keeps_foldl | intro _

theorem keeps_weltTake {b0 s : State} (h : Keeps b0 s) (die : Nat) (port : Nat) (f : WeltFlit) : Keeps b0 (weltTake s die port f) := by
  unfold weltTake
  repeat' first | with_reducible assumption | with_reducible apply keeps_arrive | with_reducible apply keeps_crossFlits | with_reducible apply keeps_ite | intro _

theorem keeps_execWeltFlitReceived {b0 s : State} (h : Keeps b0 s) (die : Nat) (port : Nat) (f : WeltFlit) : Keeps b0 (outState s (execWeltFlitReceived die port f s)) := by
  unfold execWeltFlitReceived
  repeat' first | with_reducible assumption | rw [outState_next] | with_reducible apply keeps_weltSend | with_reducible apply keeps_setWelt | with_reducible apply keeps_rinc | with_reducible apply keeps_weltTake | with_reducible apply keeps_onWeltAck | with_reducible apply keeps_ite | intro _

theorem keeps_execHeartbeat {b0 s : State} (h : Keeps b0 s) (die : Nat) : Keeps b0 (outState s (execHeartbeat die s)) := by
  unfold execHeartbeat
  repeat' first | with_reducible assumption | rw [outState_next] | with_reducible apply keeps_weltSend | with_reducible apply keeps_ite | with_reducible apply keeps_foldl | intro _

theorem keeps_weltResume {b0 s : State} (h : Keeps b0 s) (die : Nat) (port : Nat) : Keeps b0 (weltResume s die port) := by
  unfold weltResume
  repeat' first | with_reducible assumption | with_reducible apply keeps_weltCredits | with_reducible apply keeps_weltReplay | with_reducible apply keeps_crossFlits | with_reducible apply keeps_ite | intro _

theorem keeps_execWeltTrainingDone {b0 s : State} (h : Keeps b0 s) (die : Nat) (port : Nat) (failed : Nat) (oneHalf : Bool) (timedOut : Bool) (commonRev : Bool) : Keeps b0 (outState s (execWeltTrainingDone die port failed oneHalf timedOut commonRev s)) := by
  unfold execWeltTrainingDone
  repeat' first | with_reducible assumption | rw [outState_next] | with_reducible apply keeps_setWeltPair | with_reducible apply keeps_weltResume | intro _ | split

theorem keeps_execWeltRetry {b0 s : State} (h : Keeps b0 s) (die : Nat) (port : Nat) : Keeps b0 (outState s (execWeltRetry die port s)) := by
  unfold execWeltRetry
  repeat' first | with_reducible assumption | rw [outState_next] | with_reducible apply keeps_setWeltPair | with_reducible apply keeps_ite | intro _

theorem keeps_execWeltRetrain {b0 s : State} (h : Keeps b0 s) (die : Nat) (port : Nat) : Keeps b0 (outState s (execWeltRetrain die port s)) := by
  unfold execWeltRetrain
  repeat' first | with_reducible assumption | rw [outState_next] | with_reducible apply keeps_stepFaultIfRunning | with_reducible apply keeps_setWeltPair | with_reducible apply keeps_ite | intro _

theorem keeps_fenceTile {b0 s : State} (h : Keeps b0 s) (p : Nat) : Keeps b0 (fenceTile s p) := by
  unfold fenceTile
  repeat' first | with_reducible assumption | with_reducible apply keeps_setHealth | with_reducible apply keeps_setLtile | intro _ | split

theorem keeps_startSelftest {b0 s : State} (h : Keeps b0 s) (p : Nat) : Keeps b0 (startSelftest s p) := by
  unfold startSelftest
  repeat' first | with_reducible assumption | with_reducible apply keeps_fenceTile | with_reducible apply keeps_setWeltPair | with_reducible apply keeps_setLtile | with_reducible apply keeps_foldl | (simp only [keeps_mk_iff]; with_reducible apply keepsVia_left) | intro _ | split

theorem keeps_wWeltSelftest {b0 s : State} (h : Keeps b0 s) (p : Nat) : Keeps b0 (wWeltSelftest p s).2 := by
  unfold wWeltSelftest
  repeat' first | with_reducible assumption | with_reducible apply keeps_refuse | with_reducible apply keeps_accept | with_reducible apply keeps_startSelftest | split

theorem keeps_execWeltSelftest {b0 s : State} (h : Keeps b0 s) (via : Via) (phys : Nat) : Keeps b0 (outState s (execWeltSelftest via phys s)) := by
  unfold execWeltSelftest
  repeat' first | with_reducible assumption | rw [outState_next] | with_reducible apply keeps_doWrite | with_reducible apply keeps_wWeltSelftest | intro _

theorem keeps_testedTile {b0 s : State} (h : Keeps b0 s) (p : Nat) (zeroOk : Bool) (h : Health) : Keeps b0 (testedTile s p zeroOk h) := by
  unfold testedTile
  repeat' first | with_reducible assumption | with_reducible apply keeps_setPtile | with_reducible apply keeps_setHealth | (simp only [keeps_mk_draw_iff]; with_reducible apply keepsVia_left)

theorem keeps_retrainTested {b0 s : State} (h : Keeps b0 s) (p : Nat) (q : Nat) : Keeps b0 (retrainTested s p q) := by
  unfold retrainTested
  repeat' first | with_reducible assumption | with_reducible apply keeps_setWeltPair | with_reducible apply keeps_stepFault | with_reducible apply keeps_ite | intro _

theorem keeps_endSelftest {b0 s : State} (h : Keeps b0 s) (p : Nat) (r : SelfTest) : Keeps b0 (endSelftest s p r) := by
  unfold endSelftest
  repeat' first | with_reducible assumption | with_reducible apply keeps_testedTile | with_reducible apply keeps_rset | with_reducible apply keeps_aliveAgain | with_reducible apply keeps_retrainTested | with_reducible apply keeps_setWeltPair | with_reducible apply keeps_ite | with_reducible apply keeps_foldl | (simp only [keeps_mk_iff]; with_reducible apply keepsVia_left) | intro _

theorem keeps_nextSelftest {b0 s : State} (h : Keeps b0 s) : Keeps b0 (nextSelftest s) := by
  unfold nextSelftest
  repeat' first | with_reducible assumption | with_reducible apply keeps_startSelftest | (simp only [keeps_mk_iff]; with_reducible apply keepsVia_left) | intro _ | split

theorem keeps_execSelftestDone {b0 s : State} (h : Keeps b0 s) (r : SelfTest) : Keeps b0 (outState s (execSelftestDone r s)) := by
  unfold execSelftestDone
  repeat' first | with_reducible assumption | rw [outState_next] | with_reducible apply keeps_fenceInjectionDone | with_reducible apply keeps_nextSelftest | with_reducible apply keeps_endSelftest | split

theorem keeps_abortSelftest {b0 s : State} (h : Keeps b0 s) : Keeps b0 (abortSelftest s) := by
  unfold abortSelftest
  repeat' first | with_reducible assumption | with_reducible apply keeps_rset | (simp only [keeps_mk_iff]; with_reducible apply keepsVia_left) | split

theorem keeps_execRailFault {b0 s : State} (h : Keeps b0 s) (rail : Nat) (high : Bool) : Keeps b0 (outState s (execRailFault rail high s)) := by
  unfold execRailFault
  repeat' first | with_reducible assumption | rw [outState_next] | with_reducible apply keeps_flashCommit | with_reducible apply keeps_rinc | with_reducible apply keeps_notice | with_reducible apply keeps_stepFaultIfRunning | with_reducible apply keeps_ite | (simp only [keeps_mk_iff]; with_reducible apply keepsVia_left) | intro _

theorem keeps_keepPeerFault {b0 s : State} (h : Keeps b0 s) (x : PeerFault) : Keeps b0 (keepPeerFault s x) := by
  unfold keepPeerFault
  repeat' first | with_reducible assumption | (simp only [keeps_mk_iff]; with_reducible apply keepsVia_left)

theorem keeps_execFault {b0 s : State} (h : Keeps b0 s) (p : Packet) : Keeps b0 (outState s (execFault p s)) := by
  unfold execFault
  repeat' first | with_reducible assumption | rw [outState_next] | with_reducible apply keeps_rinc | with_reducible apply keeps_stepFault | with_reducible apply keeps_keepPeerFault | with_reducible apply keeps_ite | intro _

theorem keeps_releaseLaunch {b0 s : State} (h : Keeps b0 s) : Keeps b0 (releaseLaunch s) := by
  unfold releaseLaunch
  repeat' first | with_reducible assumption | with_reducible apply keeps_endRun | with_reducible apply keeps_faultCleanup | intro _ | split

theorem keeps_abandonRollback {b0 s : State} (h : Keeps b0 s) : Keeps b0 (abandonRollback s) := by
  unfold abandonRollback
  repeat' first | with_reducible assumption | with_reducible apply keeps_treadFreezeOp | with_reducible apply keeps_releaseLaunch | with_reducible apply keeps_rollbackInjectionDone | with_reducible apply keeps_ite | (simp only [keeps_mk_iff]; with_reducible apply keepsVia_left) | intro _

theorem keeps_sendRollback {b0 s : State} (h : Keeps b0 s) (r : Run) (step : Nat) (abandon : Bool) : Keeps b0 (sendRollback s r step abandon) := by
  unfold sendRollback
  repeat' first | with_reducible assumption | with_reducible apply keeps_sendControl | with_reducible apply keeps_foldl | intro _

theorem keeps_actRollback {b0 s : State} (h : Keeps b0 s) (r : Run) (step : Nat) (faultStep : Nat) (faultBeat : Nat) : Keeps b0 (actRollback s r step faultStep faultBeat) := by
  unfold actRollback
  repeat' first | with_reducible assumption | with_reducible apply keeps_restoreBegin | with_reducible apply keeps_radd | with_reducible apply keeps_rinc | with_reducible apply keeps_ite | (simp only [keeps_mk_iff]; with_reducible apply keepsVia_left) | intro _

theorem keeps_execCoordinatorRollback {b0 s : State} (h : Keeps b0 s) : Keeps b0 (outState s (execCoordinatorRollback s)) := by
  unfold execCoordinatorRollback
  repeat' first | with_reducible assumption | rw [outState_next] | with_reducible apply keeps_abandonRollback | with_reducible apply keeps_sendRollback | with_reducible apply keeps_actRollback | intro _ | split

theorem keeps_execRollback {b0 s : State} (h : Keeps b0 s) (p : Packet) : Keeps b0 (outState s (execRollback p s)) := by
  unfold execRollback
  repeat' first | with_reducible assumption | rw [outState_next] | with_reducible apply keeps_rinc | with_reducible apply keeps_abandonRollback | with_reducible apply keeps_actRollback | intro _ | split

theorem keeps_execRollbackWaitExpiry {b0 s : State} (h : Keeps b0 s) : Keeps b0 (outState s (execRollbackWaitExpiry s)) := by
  unfold execRollbackWaitExpiry
  repeat' first | with_reducible assumption | rw [outState_next] | with_reducible apply keeps_abandonRollback | with_reducible apply keeps_sendRollback | intro _ | split

theorem keeps_restoreCovered {b0 s0 : State} (h : Keeps b0 s0) (chip : Nat) (base : Nat) (k : Nat) : Keeps b0 (restoreCovered s0 chip base k) := by
  unfold restoreCovered
  repeat' first | with_reducible assumption | with_reducible apply keeps_setLtile | with_reducible apply keeps_scratchWrite | with_reducible apply keeps_hbmWrite | with_reducible apply keeps_foldl | intro _

theorem keeps_restored {b0 s : State} (h : Keeps b0 s) (k : Nat) (chip : Nat) (base : Nat) : Keeps b0 (restored s k chip base) := by
  unfold restored
  repeat' first | with_reducible assumption | with_reducible apply keeps_rset | with_reducible apply keeps_restoreCovered | with_reducible apply keeps_releaseLaunch | with_reducible apply keeps_injectionDone | (simp only [keeps_mk_iff]; with_reducible apply keepsVia_left)

theorem keeps_execRestoreDone {b0 s : State} (h : Keeps b0 s) (ok : Bool) : Keeps b0 (outState s (execRestoreDone ok s)) := by
  unfold execRestoreDone
  repeat' first | with_reducible assumption | rw [outState_next] | with_reducible apply keeps_abandonRollback | with_reducible apply keeps_restored | intro _ | split

theorem keeps_wSnapshotRestore {b0 s : State} (h : Keeps b0 s) (v : List Byte) : Keeps b0 (wSnapshotRestore v s).2 := by
  unfold wSnapshotRestore
  dsimp only
  repeat' first | with_reducible assumption | with_reducible apply keeps_refuse | with_reducible apply keeps_accept | with_reducible apply keeps_restoreBegin | with_reducible apply keeps_rset | (simp only [keeps_mk_draw_iff]; with_reducible apply keepsVia_left) | intro _ | split

theorem keeps_execSnapshotRestore {b0 s : State} (h : Keeps b0 s) (via : Via) (v : List Byte) : Keeps b0 (outState s (execSnapshotRestore via v s)) := by
  unfold execSnapshotRestore
  repeat' first | with_reducible assumption | rw [outState_next] | with_reducible apply keeps_doWrite | with_reducible apply keeps_wSnapshotRestore | intro _

theorem keeps_execSnapshotRestoreDone {b0 s : State} (h : Keeps b0 s) (ok : Bool) : Keeps b0 (outState s (execSnapshotRestoreDone ok s)) := by
  unfold execSnapshotRestoreDone
  repeat' first | with_reducible assumption | rw [outState_next] | with_reducible apply keeps_rset | with_reducible apply keeps_restored | (simp only [keeps_mk_iff]; with_reducible apply keepsVia_left) | intro _ | split

theorem keeps_replayRequest {b0 s : State} (h : Keeps b0 s) (x : TreadRec) : Keeps b0 (replayRequest s x) := by
  unfold replayRequest
  repeat' first | with_reducible assumption | with_reducible apply keeps_translateRequest | with_reducible apply keeps_performRequest | split

theorem keeps_replayCopy {b0 s : State} (h : Keeps b0 s) (ws : List Word) : Keeps b0 (replayCopy s ws) := by
  unfold replayCopy
  dsimp only
  repeat' first | with_reducible assumption | with_reducible apply keeps_translate | with_reducible apply keeps_startBlock | with_reducible apply keeps_bankReads | (with_reducible apply keeps_pair; with_reducible assumption) | intro _ | split

theorem keeps_replayDone {b0 s : State} (h : Keeps b0 s) (r : Run) (x : TreadRec) : Keeps b0 (replayDone s r x) := by
  unfold replayDone
  dsimp only
  repeat' first | with_reducible assumption | with_reducible apply keeps_engineWrite | intro _ | split

theorem keeps_replayRecord {b0 s : State} (h : Keeps b0 s) (r : Run) (x : TreadRec) : Keeps b0 (replayRecord s r x) := by
  unfold replayRecord
  dsimp only
  repeat' first | with_reducible assumption | with_reducible apply keeps_replayRequest | with_reducible apply keeps_laceReceive | with_reducible apply keeps_replayCopy | with_reducible apply keeps_signalWrite | with_reducible apply keeps_replayDone | intro _ | split

theorem keeps_execTreadReplayInput {b0 s : State} (h : Keeps b0 s) : Keeps b0 (outState s (execTreadReplayInput s)) := by
  unfold execTreadReplayInput
  repeat' first | with_reducible assumption | rw [outState_next] | with_reducible apply keeps_replayRecord | (simp only [keeps_mk_iff]; with_reducible apply keepsVia_left) | intro _ | split

theorem keeps_laceAgain {b0 s : State} (h : Keeps b0 s) (q : Nat) (f : Flight) : Keeps b0 (laceAgain s q f) := by
  unfold laceAgain
  dsimp only
  repeat' first | with_reducible assumption | with_reducible apply keeps_laceTell | with_reducible apply keeps_engineWrite | intro _ | split

theorem keeps_startAgain {b0 s : State} (h : Keeps b0 s) (q : Nat) (f : Flight) : Keeps b0 (startAgain s q f) := by
  unfold startAgain
  repeat' first | with_reducible assumption | with_reducible apply keeps_laceAgain | with_reducible apply keeps_modFlight | with_reducible apply keeps_takePlace | with_reducible apply keeps_ite | (simp only [keeps_mk_iff]; with_reducible apply keepsVia_left) | intro _

theorem keeps_restartFlights {b0 s : State} (h : Keeps b0 s) : Keeps b0 (restartFlights s) := by
  unfold restartFlights
  repeat' first | with_reducible assumption | with_reducible apply keeps_startAgain | with_reducible apply keeps_foldl | intro _

theorem keeps_execReplayEnd {b0 s : State} (h : Keeps b0 s) : Keeps b0 (outState s (execReplayEnd s)) := by
  unfold execReplayEnd
  repeat' first | with_reducible assumption | rw [outState_next] | with_reducible apply keeps_rollbackInjectionDone | with_reducible apply keeps_restartFlights | with_reducible apply keeps_ite | (simp only [keeps_mk_iff]; with_reducible apply keepsVia_left) | intro _

theorem keeps_wFaultEpoch {b0 s : State} (h : Keeps b0 s) (v : Nat) : Keeps b0 (wFaultEpoch v s).2 := by
  unfold wFaultEpoch
  repeat' first | with_reducible assumption | with_reducible apply keeps_refuse | with_reducible apply keeps_rset | with_reducible apply keeps_traceGeneration | with_reducible apply keeps_accept | with_reducible apply keeps_treadLog | (simp only [keeps_mk_iff]; with_reducible apply keepsVia_left) | split

theorem keeps_execFaultEpochWrite {b0 s : State} (h : Keeps b0 s) (via : Via) (v : Nat) : Keeps b0 (outState s (execFaultEpochWrite via v s)) := by
  unfold execFaultEpochWrite
  repeat' first | with_reducible assumption | rw [outState_next] | with_reducible apply keeps_doWrite | with_reducible apply keeps_wFaultEpoch | intro _

theorem keeps_wFaultAck {b0 s : State} (h : Keeps b0 s) (chip : Nat) : Keeps b0 (wFaultAck chip s).2 := by
  unfold wFaultAck
  repeat' first | with_reducible assumption | with_reducible apply keeps_refuse | with_reducible apply keeps_accept | (simp only [keeps_mk_iff]; with_reducible apply keepsVia_left) | split

theorem keeps_execFaultAck {b0 s : State} (h : Keeps b0 s) (via : Via) (chip : Nat) : Keeps b0 (outState s (execFaultAck via chip s)) := by
  unfold execFaultAck
  repeat' first | with_reducible assumption | rw [outState_next] | with_reducible apply keeps_doWrite | with_reducible apply keeps_wFaultAck | intro _

theorem keeps_execReportHoldoffExpiry {b0 s : State} (h : Keeps b0 s) : Keeps b0 (outState s (execReportHoldoffExpiry s)) := by
  unfold execReportHoldoffExpiry
  repeat' first | with_reducible assumption | rw [outState_next] | with_reducible apply keeps_report | (simp only [keeps_mk_iff]; with_reducible apply keepsVia_left) | split

theorem keeps_execPeerLost {b0 s : State} (h : Keeps b0 s) (chip : Nat) : Keeps b0 (outState s (execPeerLost chip s)) := by
  unfold execPeerLost
  repeat' first | with_reducible assumption | rw [outState_next] | with_reducible apply keeps_raise | with_reducible apply keeps_ite | intro _

theorem keeps_armInjection {b0 s : State} (h : Keeps b0 s) (kind : Nat) (unit : Nat) (atBeat : Nat) : Keeps b0 (armInjection s kind unit atBeat) := by
  unfold armInjection
  repeat' first | with_reducible assumption | (simp only [keeps_mk_iff]; with_reducible apply keepsVia_left)

theorem keeps_execTryOn {b0 s : State} (h : Keeps b0 s) (queue : Nat) (id : Nat) : Keeps b0 (outState s (execTryOn queue id s)) := by
  unfold execTryOn
  repeat' first | with_reducible assumption | rw [outState_next] | with_reducible apply keeps_runCommand | with_reducible apply keeps_finish_p | with_reducible apply keeps_armInjection | with_reducible apply keeps_ite | intro _

theorem keeps_execTryonTimer {b0 s : State} (h : Keeps b0 s) : Keeps b0 (outState s (execTryonTimer s)) := by
  unfold execTryonTimer
  repeat' first | with_reducible assumption | rw [outState_next] | with_reducible apply keeps_armInjection | (simp only [keeps_mk_iff]; with_reducible apply keepsVia_left) | intro _ | split

theorem keeps_fireInjection {b0 s : State} (h : Keeps b0 s) (i : Injection) : Keeps b0 (fireInjection s i) := by
  unfold fireInjection
  dsimp only
  repeat' first | with_reducible assumption | with_reducible apply keeps_setLane | with_reducible apply keeps_loseInput | with_reducible apply keeps_setEye | with_reducible apply keeps_fenceTile | with_reducible apply keeps_startSelftest | with_reducible apply keeps_stepFault | with_reducible apply keeps_injectionDone | (simp only [keeps_mk_iff]; with_reducible apply keepsVia_left) | intro _ | split

theorem keeps_execTryonInject {b0 s : State} (h : Keeps b0 s) : Keeps b0 (outState s (execTryonInject s)) := by
  unfold execTryonInject
  repeat' first | with_reducible assumption | rw [outState_next] | with_reducible apply keeps_fireInjection | with_reducible apply keeps_rinc | (simp only [keeps_mk_iff]; with_reducible apply keepsVia_left) | intro _ | split

theorem keeps_execTryonRecoveryTimeout {b0 s : State} (h : Keeps b0 s) : Keeps b0 (outState s (execTryonRecoveryTimeout s)) := by
  unfold execTryonRecoveryTimeout
  repeat' first | with_reducible assumption | rw [outState_next] | with_reducible apply keeps_notice | with_reducible apply keeps_rinc | (simp only [keeps_mk_iff]; with_reducible apply keepsVia_left) | split

theorem keeps_execLoadVerify {b0 s : State} (h : Keeps b0 s) : Keeps b0 (outState s (execLoadVerify s)) := by
  unfold execLoadVerify
  repeat' first | with_reducible assumption | rw [outState_next] | with_reducible apply keeps_loadEnd | with_reducible apply keeps_setSlot | (simp only [keeps_mk_iff]; with_reducible apply keepsVia_left) | intro _ | split

theorem keeps_setRef {b0 s : State} (h : Keeps b0 s) (x : RefState) : Keeps b0 (setRef s x) := by
  unfold setRef
  repeat' first | with_reducible assumption | (simp only [keeps_mk_iff]; with_reducible apply keepsVia_left)

theorem keeps_lockRef {b0 s : State} (h : Keeps b0 s) : Keeps b0 (lockRef s) := by
  unfold lockRef
  repeat' first | with_reducible assumption | with_reducible apply keeps_rset | with_reducible apply keeps_rinc | with_reducible apply keeps_ite | (simp only [keeps_mk_iff]; with_reducible apply keepsVia_left) | intro _

theorem keeps_execToneDetected {b0 s : State} (h : Keeps b0 s) (tone : Tone) : Keeps b0 (outState s (execToneDetected tone s)) := by
  unfold execToneDetected
  repeat' first | with_reducible assumption | rw [outState_next] | with_reducible apply keeps_setRef | with_reducible apply keeps_ite | intro _

theorem keeps_execRefLockAcquired {b0 s : State} (h : Keeps b0 s) (offsetPpb : Int) : Keeps b0 (outState s (execRefLockAcquired offsetPpb s)) := by
  unfold execRefLockAcquired
  repeat' first | with_reducible assumption | rw [outState_next] | with_reducible apply keeps_rsetI | with_reducible apply keeps_lockRef | with_reducible apply keeps_ite | intro _

theorem keeps_execToneLostInAcquire {b0 s : State} (h : Keeps b0 s) : Keeps b0 (outState s (execToneLostInAcquire s)) := by
  unfold execToneLostInAcquire
  repeat' first | with_reducible assumption | rw [outState_next] | with_reducible apply keeps_setRef | with_reducible apply keeps_ite | intro _

theorem keeps_execRefHoldoverEntry {b0 s : State} (h : Keeps b0 s) : Keeps b0 (outState s (execRefHoldoverEntry s)) := by
  unfold execRefHoldoverEntry
  repeat' first | with_reducible assumption | rw [outState_next] | with_reducible apply keeps_setRef | with_reducible apply keeps_rinc | with_reducible apply keeps_ite | intro _

theorem keeps_execRefHoldoverRecovery {b0 s : State} (h : Keeps b0 s) (tone : Tone) : Keeps b0 (outState s (execRefHoldoverRecovery tone s)) := by
  unfold execRefHoldoverRecovery
  repeat' first | with_reducible assumption | rw [outState_next] | with_reducible apply keeps_lockRef | with_reducible apply keeps_ite | intro _

theorem keeps_execRefLost {b0 s : State} (h : Keeps b0 s) : Keeps b0 (outState s (execRefLost s)) := by
  unfold execRefLost
  dsimp only
  repeat' first | with_reducible assumption | rw [outState_next] | with_reducible apply keeps_raise | with_reducible apply keeps_setRef | with_reducible apply keeps_stepFault | with_reducible apply keeps_handshakeFail | intro _ | split

theorem keeps_retrainAll {b0 s : State} (h : Keeps b0 s) : Keeps b0 (retrainAll s) := by
  unfold retrainAll
  repeat' first | with_reducible assumption | with_reducible apply keeps_laneGo | with_reducible apply keeps_ite | with_reducible apply keeps_foldl | intro _

theorem keeps_execRefReacquire {b0 s : State} (h : Keeps b0 s) (tone : Tone) : Keeps b0 (outState s (execRefReacquire tone s)) := by
  unfold execRefReacquire
  repeat' first | with_reducible assumption | rw [outState_next] | with_reducible apply keeps_rset | with_reducible apply keeps_setRef | with_reducible apply keeps_retrainAll | with_reducible apply keeps_ite | intro _

theorem keeps_wWallAnchor {b0 s : State} (h : Keeps b0 s) (v : Nat) : Keeps b0 (wWallAnchor v s).2 := by
  unfold wWallAnchor
  repeat' first | with_reducible assumption | with_reducible apply keeps_accept | with_reducible apply keeps_rset

theorem keeps_execWallAnchorWrite {b0 s : State} (h : Keeps b0 s) (via : Via) (ns : Nat) : Keeps b0 (outState s (execWallAnchorWrite via ns s)) := by
  unfold execWallAnchorWrite
  repeat' first | with_reducible assumption | rw [outState_next] | with_reducible apply keeps_doWrite | with_reducible apply keeps_wWallAnchor | intro _

theorem keeps_emptyLast {b0 s : State} (h : Keeps b0 s) : Keeps b0 (emptyLast s) := by
  unfold emptyLast
  repeat' first | with_reducible assumption | with_reducible apply keeps_setSlot | with_reducible apply keeps_rset | with_reducible apply keeps_foldl | (simp only [keeps_mk_iff]; with_reducible apply keepsVia_left) | intro _

theorem keeps_abandonInstall {b0 s : State} (h : Keeps b0 s) : Keeps b0 (abandonInstall s) := by
  unfold abandonInstall
  repeat' first | with_reducible assumption | with_reducible apply keeps_rset | (simp only [keeps_mk_iff]; with_reducible apply keepsVia_left) | split

theorem keeps_abandonWork {b0 s : State} (h : Keeps b0 s) : Keeps b0 (abandonWork s) := by
  unfold abandonWork
  repeat' first | with_reducible assumption | with_reducible apply keeps_abandonInstall | (simp only [keeps_mk_iff]; with_reducible apply keepsVia_left)

theorem keeps_wPeerSet {b0 s : State} (h : Keeps b0 s) (v : List Byte) : Keeps b0 (wPeerSet v s).2 := by
  unfold wPeerSet
  dsimp only
  repeat' first | with_reducible assumption | with_reducible apply keeps_refuse | with_reducible apply keeps_accept | with_reducible apply keeps_laneGo | with_reducible apply keeps_foldl | (simp only [keeps_mk_iff]; with_reducible apply keepsVia_left) | intro _ | split

theorem keeps_execPeerSetWrite {b0 s : State} (h : Keeps b0 s) (via : Via) (v : List Byte) : Keeps b0 (outState s (execPeerSetWrite via v s)) := by
  unfold execPeerSetWrite
  repeat' first | with_reducible assumption | rw [outState_next] | with_reducible apply keeps_doWrite | with_reducible apply keeps_wPeerSet | intro _

theorem keeps_runChange {b0 s : State} (h : Keeps b0 s) (c : TenVals) : Keeps b0 (runChange s c) := by
  unfold runChange
  repeat' first | with_reducible assumption | with_reducible apply keeps_abandonAll | with_reducible apply keeps_setQState | with_reducible apply keeps_emptyLast | with_reducible apply keeps_abandonWork | with_reducible apply keeps_laneGo | with_reducible apply keeps_refuseExports | with_reducible apply keeps_zeroExports | with_reducible apply keeps_rset | with_reducible apply keeps_startZeroise | with_reducible apply keeps_foldl | (simp only [keeps_mk_iff]; with_reducible apply keepsVia_left) | (simp only [keeps_mk_draw_iff]; with_reducible apply keepsVia_left) | intro _

theorem keeps_wTenantChange {b0 s : State} (h : Keeps b0 s) (v : List Byte) : Keeps b0 (wTenantChange v s).2 := by
  unfold wTenantChange
  dsimp only
  repeat' first | with_reducible assumption | with_reducible apply keeps_refuse | with_reducible apply keeps_stepFault | with_reducible apply keeps_accept | with_reducible apply keeps_flashCommit | with_reducible apply keeps_runChange | intro _ | split

theorem keeps_execTenantChange {b0 s : State} (h : Keeps b0 s) (via : Via) (v : List Byte) : Keeps b0 (outState s (execTenantChange via v s)) := by
  unfold execTenantChange
  repeat' first | with_reducible assumption | rw [outState_next] | with_reducible apply keeps_doWrite | with_reducible apply keeps_wTenantChange | intro _

theorem keeps_defaultRegs {b0 s : State} (h : Keeps b0 s) (which : Entry → Bool) : Keeps b0 (defaultRegs s which) :=
  keeps_trans h ⟨⟨rfl, List.prefix_refl _, Nat.le_refl _⟩, fun i => ⟨i.1, sorted_filter _ _ i.2⟩⟩

theorem keeps_finishChange {b0 s : State} (h : Keeps b0 s) (c : TenVals) (us : Nat) : Keeps b0 (finishChange s c us) := by
  unfold finishChange
  repeat' first | with_reducible assumption | with_reducible apply keeps_invalidateXlate | with_reducible apply keeps_emptyLast | with_reducible apply keeps_treadEmpty | with_reducible apply keeps_defaultRegs | with_reducible apply keeps_rset | with_reducible apply keeps_flashCommit | with_reducible apply keeps_rinc | (simp only [keeps_mk_iff]; with_reducible apply keepsVia_left)

theorem keeps_execTenantChangeComplete {b0 s : State} (h : Keeps b0 s) (us : Nat) : Keeps b0 (outState s (execTenantChangeComplete us s)) := by
  unfold execTenantChangeComplete
  repeat' first | with_reducible assumption | rw [outState_next] | with_reducible apply keeps_finishChange | intro _ | split

theorem keeps_rerunChange {b0 s : State} (h : Keeps b0 s) : Keeps b0 (rerunChange s) := by
  unfold rerunChange
  repeat' first | with_reducible assumption | with_reducible apply keeps_runChange | intro _ | split

theorem keeps_wAnchors {b0 s : State} (h : Keeps b0 s) (via : Via) (v : List (List Byte)) : Keeps b0 (wAnchors via v s).2 := by
  unfold wAnchors
  repeat' first | with_reducible assumption | with_reducible apply keeps_refuse | with_reducible apply keeps_accept | with_reducible apply keeps_flashCommit | (simp only [keeps_mk_iff]; with_reducible apply keepsVia_left) | split

theorem keeps_execMgmtAnchorsWrite {b0 s : State} (h : Keeps b0 s) (via : Via) (v : List (List Byte)) : Keeps b0 (outState s (execMgmtAnchorsWrite via v s)) := by
  unfold execMgmtAnchorsWrite
  repeat' first | with_reducible assumption | rw [outState_next] | with_reducible apply keeps_doWrite | with_reducible apply keeps_wAnchors | intro _

theorem keeps_wImageStage {b0 s : State} (h : Keeps b0 s) (i : FwImage) : Keeps b0 (wImageStage i s).2 := by
  unfold wImageStage
  repeat' first | with_reducible assumption | with_reducible apply keeps_refuse | with_reducible apply keeps_accept | (simp only [keeps_mk_iff]; with_reducible apply keepsVia_left) | split

theorem keeps_execFwImageStage {b0 s : State} (h : Keeps b0 s) (via : Via) (img : FwImage) : Keeps b0 (outState s (execFwImageStage via img s)) := by
  unfold execFwImageStage
  repeat' first | with_reducible assumption | rw [outState_next] | with_reducible apply keeps_doWrite | with_reducible apply keeps_wImageStage | intro _

theorem keeps_wActivate {b0 s : State} (h : Keeps b0 s) (v : Nat) : Keeps b0 (wActivate v s).2 := by
  unfold wActivate
  repeat' first | with_reducible assumption | with_reducible apply keeps_refuse | with_reducible apply keeps_accept | (simp only [keeps_mk_iff]; with_reducible apply keepsVia_left) | split

theorem keeps_execFwActivate {b0 s : State} (h : Keeps b0 s) (via : Via) (v : Nat) : Keeps b0 (outState s (execFwActivate via v s)) := by
  unfold execFwActivate
  repeat' first | with_reducible assumption | rw [outState_next] | with_reducible apply keeps_doWrite | with_reducible apply keeps_wActivate | intro _

theorem keeps_runImage {b0 s : State} (h : Keeps b0 s) (i : FwImage) (cs : List (List Byte)) : Keeps b0 (runImage s i cs) := by
  unfold runImage
  repeat' first | with_reducible assumption | (simp only [keeps_mk_iff]; with_reducible apply keepsVia_left)

theorem keeps_execFwActivationDone {b0 s : State} (h : Keeps b0 s) (components : List (List Byte)) : Keeps b0 (outState s (execFwActivationDone components s)) := by
  unfold execFwActivationDone
  repeat' first | with_reducible assumption | rw [outState_next] | with_reducible apply keeps_runImage | with_reducible apply keeps_endEverySession | with_reducible apply keeps_resumeMirror | split

theorem keeps_wRollbackCommit {b0 s : State} (h : Keeps b0 s) (v : Nat) : Keeps b0 (wRollbackCommit v s).2 := by
  unfold wRollbackCommit
  repeat' first | with_reducible assumption | with_reducible apply keeps_refuse | with_reducible apply keeps_accept | (simp only [keeps_mk_iff]; with_reducible apply keepsVia_left) | split

theorem keeps_execFwRollbackCommit {b0 s : State} (h : Keeps b0 s) (via : Via) (v : Nat) : Keeps b0 (outState s (execFwRollbackCommit via v s)) := by
  unfold execFwRollbackCommit
  repeat' first | with_reducible assumption | rw [outState_next] | with_reducible apply keeps_doWrite | with_reducible apply keeps_wRollbackCommit | intro _

theorem keeps_wNonce {b0 s : State} (h : Keeps b0 s) (v : List Byte) : Keeps b0 (wNonce v s).2 := by
  unfold wNonce
  repeat' first | with_reducible assumption | with_reducible apply keeps_refuse | with_reducible apply keeps_accept | (simp only [keeps_mk_iff]; with_reducible apply keepsVia_left) | split

theorem keeps_execAttestNonce {b0 s : State} (h : Keeps b0 s) (via : Via) (nonce : List Byte) : Keeps b0 (outState s (execAttestNonce via nonce s)) := by
  unfold execAttestNonce
  repeat' first | with_reducible assumption | rw [outState_next] | with_reducible apply keeps_doWrite | with_reducible apply keeps_wNonce | intro _

theorem keeps_execAttestReportReady {b0 s : State} (h : Keeps b0 s) : Keeps b0 (outState s (execAttestReportReady s)) := by
  unfold execAttestReportReady
  repeat' first | with_reducible assumption | rw [outState_next] | (simp only [keeps_mk_iff]; with_reducible apply keepsVia_left) | split

theorem keeps_setBoot {b0 s : State} (h : Keeps b0 s) (b : Boot) : Keeps b0 (setBoot s b) := by
  unfold setBoot
  repeat' first | with_reducible assumption | (simp only [keeps_mk_iff]; with_reducible apply keepsVia_left)

theorem keeps_looseTiles {b0 s : State} (h : Keeps b0 s) : Keeps b0 (looseTiles s) := by
  unfold looseTiles
  repeat' first | with_reducible assumption | (simp only [keeps_mk_draw_iff]; with_reducible apply keepsVia_left)

theorem keeps_resetRouter {b0 s : State} (h : Keeps b0 s) : Keeps b0 (resetRouter s) := by
  unfold resetRouter
  repeat' first | with_reducible assumption | with_reducible apply keeps_rset | with_reducible apply keeps_ite | (simp only [keeps_mk_iff]; with_reducible apply keepsVia_left) | intro _

theorem keeps_resetOptics {b0 s : State} (h : Keeps b0 s) : Keeps b0 (resetOptics s) := by
  unfold resetOptics
  repeat' first | with_reducible assumption | with_reducible apply keeps_driveHeaters | with_reducible apply keeps_ite | (simp only [keeps_mk_iff]; with_reducible apply keepsVia_left) | intro _

theorem keeps_resetTrace {b0 s : State} (h : Keeps b0 s) : Keeps b0 (resetTrace s) := by
  unfold resetTrace
  repeat' first | with_reducible assumption | with_reducible apply keeps_radd | (simp only [keeps_mk_iff]; with_reducible apply keepsVia_left)

theorem keeps_resetPace {b0 s : State} (h : Keeps b0 s) : Keeps b0 (resetPace s) := by
  unfold resetPace
  repeat' first | with_reducible assumption | with_reducible apply keeps_rset | with_reducible apply keeps_setPower

theorem keeps_clearSwitched {b0 s : State} (h : Keeps b0 s) : Keeps b0 (clearSwitched s) := by
  unfold clearSwitched
  repeat' first | with_reducible assumption | with_reducible apply keeps_resetTrace | with_reducible apply keeps_resetPace | with_reducible apply keeps_resetOptics | with_reducible apply keeps_resetRouter | with_reducible apply keeps_abortSelftest | with_reducible apply keeps_emptyLast | with_reducible apply keeps_abandonWork | with_reducible apply keeps_abandonAll | with_reducible apply keeps_looseTiles | with_reducible apply keeps_allWelts | (simp only [keeps_mk_iff]; with_reducible apply keepsVia_left)

theorem keeps_warmReset {b0 s : State} (h : Keeps b0 s) (cause : Nat) : Keeps b0 (warmReset s cause) := by
  unfold warmReset
  repeat' first | with_reducible assumption | with_reducible apply keeps_clearSwitched | with_reducible apply keeps_rset | with_reducible apply keeps_rinc | (simp only [keeps_mk_iff]; with_reducible apply keepsVia_left)

theorem keeps_execRstN {b0 s : State} (h : Keeps b0 s) : Keeps b0 (outState s (execRstN s)) := by
  unfold execRstN
  repeat' first | with_reducible assumption | rw [outState_next] | with_reducible apply keeps_warmReset | with_reducible apply keeps_ite | intro _

theorem keeps_startDies {b0 s : State} (h : Keeps b0 s) : Keeps b0 (startDies s) := by
  unfold startDies
  repeat' first | with_reducible assumption | with_reducible apply keeps_rset | with_reducible apply keeps_setRef | with_reducible apply keeps_setPower | with_reducible apply keeps_aliveAgain | with_reducible apply keeps_allWelts | with_reducible apply keeps_ite | (simp only [keeps_mk_iff]; with_reducible apply keepsVia_left) | intro _

theorem keeps_execRstNRelease {b0 s : State} (h : Keeps b0 s) (writebackUs : Nat) : Keeps b0 (outState s (execRstNRelease writebackUs s)) := by
  unfold execRstNRelease
  repeat' first | with_reducible assumption | rw [outState_next] | with_reducible apply keeps_startDies | with_reducible apply keeps_rset | with_reducible apply keeps_ite | intro _

theorem keeps_wRestart {b0 s : State} (h : Keeps b0 s) (v : Nat) : Keeps b0 (wRestart v s).2 := by
  unfold wRestart
  repeat' first | with_reducible assumption | with_reducible apply keeps_refuse | with_reducible apply keeps_accept | with_reducible apply keeps_warmReset | split

theorem keeps_execRestartRequest {b0 s : State} (h : Keeps b0 s) (via : Via) (v : Nat) : Keeps b0 (outState s (execRestartRequest via v s)) := by
  unfold execRestartRequest
  repeat' first | with_reducible assumption | rw [outState_next] | with_reducible apply keeps_doWrite | with_reducible apply keeps_wRestart | intro _

theorem keeps_wThermalRelease {b0 s : State} (h : Keeps b0 s) (v : Nat) : Keeps b0 (wThermalRelease v s).2 := by
  unfold wThermalRelease
  repeat' first | with_reducible assumption | with_reducible apply keeps_refuse | with_reducible apply keeps_emit | with_reducible apply keeps_setPower | with_reducible apply keeps_enterThermal | with_reducible apply keeps_accept | with_reducible apply keeps_warmReset | intro _ | split

theorem keeps_execThermalRelease {b0 s : State} (h : Keeps b0 s) (via : Via) (v : Nat) : Keeps b0 (outState s (execThermalRelease via v s)) := by
  unfold execThermalRelease
  repeat' first | with_reducible assumption | rw [outState_next] | with_reducible apply keeps_doWrite | with_reducible apply keeps_wThermalRelease | intro _

theorem keeps_applyRwx {b0 s : State} (h : Keeps b0 s) (x : Nat × Nat) : Keeps b0 (applyRwx s x) := by
  unfold applyRwx
  repeat' first | with_reducible assumption | with_reducible apply keeps_rset | split

theorem keeps_applyPending {b0 s : State} (h : Keeps b0 s) : Keeps b0 (applyPending s) := by
  unfold applyPending
  repeat' first | with_reducible assumption | with_reducible apply keeps_applyRwx | with_reducible apply keeps_flashCommit | with_reducible apply keeps_treadEmpty | with_reducible apply keeps_calibSave | with_reducible apply keeps_rset | with_reducible apply keeps_ite | with_reducible apply keeps_foldl | (simp only [keeps_mk_iff]; with_reducible apply keepsVia_left) | intro _

theorem keeps_failByWelts {b0 s : State} (h : Keeps b0 s) : Keeps b0 (failByWelts s) := by
  unfold failByWelts
  repeat' first | with_reducible assumption | with_reducible apply keeps_setHealth | with_reducible apply keeps_ite | with_reducible apply keeps_foldl | intro _

theorem keeps_clearSpare {b0 s : State} (h : Keeps b0 s) (clearOk : List Nat) (t : Nat) (p : Nat) : Keeps b0 (clearSpare clearOk s t p) := by
  unfold clearSpare
  repeat' first | with_reducible assumption | with_reducible apply keeps_setLtile | with_reducible apply keeps_clearTile | with_reducible apply keeps_notice | with_reducible apply keeps_setHealth | with_reducible apply keeps_ite | intro _

theorem keeps_installMap {b0 s : State} (h : Keeps b0 s) (clearOk : List Nat) (fresh : List (Nat × Nat)) : Keeps b0 (installMap clearOk s fresh) := by
  unfold installMap
  repeat' first | with_reducible assumption | with_reducible apply keeps_clearSpare | with_reducible apply keeps_flashCommit | with_reducible apply keeps_foldl | (simp only [keeps_mk_iff]; with_reducible apply keepsVia_left) | intro _

theorem keeps_rebuildRound {b0 : State} {x : Option Bool × State} (h : Keeps b0 x.2) (clearOk : List Nat) : Keeps b0 (rebuildRound clearOk x).2 := by
  unfold rebuildRound
  repeat' first | with_reducible assumption | with_reducible apply keeps_installMap | split

theorem keeps_rebuild {b0 s : State} (h : Keeps b0 s) (clearOk : List Nat) (n : Nat) : Keeps b0 (rebuild clearOk n s).2 :=
  keeps_foldl_snd (fun _ _ k => keeps_rebuildRound k clearOk) (List.range n) _ h

theorem keeps_restartBoundary {b0 s : State} (h : Keeps b0 s) (clearOk : List Nat) (ms : Nat) : Keeps b0 (restartBoundary s clearOk ms) := by
  unfold restartBoundary
  repeat' first | with_reducible assumption | with_reducible apply keeps_rebuild | with_reducible apply keeps_failByWelts | with_reducible apply keeps_applyPending | with_reducible apply keeps_notice | with_reducible apply keeps_rset | with_reducible apply keeps_flashCommit | with_reducible apply keeps_setBoot | with_reducible apply keeps_startSearch | with_reducible apply keeps_dueSelects | with_reducible apply keeps_ite | with_reducible apply keeps_foldl | (simp only [keeps_mk_iff]; with_reducible apply keepsVia_left) | intro _

theorem keeps_startColdClear {b0 s : State} (h : Keeps b0 s) : Keeps b0 (startColdClear s) := by
  unfold startColdClear
  repeat' first | with_reducible assumption | with_reducible apply keeps_runChange | (simp only [keeps_mk_iff]; with_reducible apply keepsVia_left) | split

theorem keeps_endColdClear {b0 s : State} (h : Keeps b0 s) (us : Nat) (failedStack : Option Nat) : Keeps b0 (endColdClear s us failedStack) := by
  unfold endColdClear
  dsimp only
  repeat' first | with_reducible assumption | with_reducible apply keeps_setPtile | with_reducible apply keeps_clearTile | with_reducible apply keeps_scrubEnd | with_reducible apply keeps_finishChange | with_reducible apply keeps_foldl | (simp only [keeps_mk_iff]; with_reducible apply keepsVia_left) | intro _ | split

theorem keeps_execBringupTimeout {b0 s : State} (h : Keeps b0 s) : Keeps b0 (outState s (execBringupTimeout s)) := by
  unfold execBringupTimeout
  repeat' first | with_reducible assumption | rw [outState_next] | with_reducible apply keeps_notice | with_reducible apply keeps_ite | intro _

theorem keeps_enterWaitPower {b0 s : State} (h : Keeps b0 s) : Keeps b0 (enterWaitPower s) := by
  unfold enterWaitPower
  repeat' first | with_reducible assumption | with_reducible apply keeps_startDies | with_reducible apply keeps_setBoot | with_reducible apply keeps_ite | intro _

theorem keeps_execPwrOkFall {b0 s : State} (h : Keeps b0 s) : Keeps b0 (outState s (execPwrOkFall s)) := by
  unfold execPwrOkFall
  repeat' first | with_reducible assumption | rw [outState_next] | with_reducible apply keeps_clearSwitched | with_reducible apply keeps_setPower | with_reducible apply keeps_ite | (simp only [keeps_mk_iff]; with_reducible apply keepsVia_left) | intro _

theorem keeps_keptInstall {b0 s t : State} (k : Keeps b0 t) : Keeps b0 (keptInstall s t) := by
  unfold keptInstall
  exact keeps_ite (fun _ => k) (fun _ => keeps_rset k _ _)

theorem keeps_powerState {b0 s : State} (h : Keeps b0 s) : Keeps b0 (powerState s) := by
  unfold powerState
  apply keeps_looseTiles
  exact keeps_trans h ⟨⟨rfl, List.prefix_refl _, Nat.le_succ _⟩, fun i => ⟨rfl, sorted_filter _ _ i.2⟩⟩

theorem keeps_execPwrOkRise {b0 s : State} (h : Keeps b0 s) (straps : Nat) (slotId : Nat) (msSinceStep0 : Nat) : Keeps b0 (outState s (execPwrOkRise straps slotId msSinceStep0 s)) := by
  unfold execPwrOkRise
  repeat' first | with_reducible assumption | rw [outState_next] | with_reducible apply keeps_keptInstall | with_reducible apply keeps_powerState | with_reducible apply keeps_rset | with_reducible apply keeps_notice | with_reducible apply keeps_emit | with_reducible apply keeps_enterWaitPower | with_reducible apply keeps_ite | (simp only [keeps_mk_iff]; with_reducible apply keepsVia_left) | intro _

theorem keeps_execAonPowerLoss {b0 s : State} (h : Keeps b0 s) : Keeps b0 (outState s (execAonPowerLoss s)) := by
  unfold execAonPowerLoss
  repeat' first | with_reducible assumption | rw [outState_next] | with_reducible apply keeps_endEverySession | with_reducible apply keeps_clearSwitched | with_reducible apply keeps_ite | (simp only [keeps_mk_iff]; with_reducible apply keepsVia_left) | intro _

theorem keeps_coldState {b0 s : State} (h : Keeps b0 s) : Keeps b0 (coldState s) :=
  keeps_trans h ⟨⟨rfl, List.prefix_refl _, Nat.le_succ _⟩, fun _ => ⟨rfl, sorted_foldl_tput _ [] rfl⟩⟩

theorem keeps_freePins {b0 s t : State} (k : Keeps b0 t) : Keeps b0 (freePins s t) := by
  unfold freePins
  have k1 : Keeps b0 (if s.mgmt.linePending then emit t (.pin 0 true) else t) := keeps_ite (fun _ => keeps_emit k _) (fun _ => k)
  exact keeps_ite (fun _ => keeps_emit k1 _) (fun _ => k1)

theorem keeps_execColdReset {b0 s : State} (h : Keeps b0 s) : Keeps b0 (outState s (execColdReset s)) := by
  unfold execColdReset
  repeat' first | with_reducible assumption | rw [outState_next] | with_reducible apply keeps_rset | with_reducible apply keeps_freePins | with_reducible apply keeps_keptInstall | with_reducible apply keeps_coldState | with_reducible apply keeps_ite | intro _

theorem keeps_execRomBootDone {b0 s : State} (h : Keeps b0 s) (images : List FwImage) (components : List (List Byte)) : Keeps b0 (outState s (execRomBootDone images components s)) := by
  unfold execRomBootDone
  dsimp only
  repeat' first | with_reducible assumption | rw [outState_next] | with_reducible apply keeps_enterWaitPower | with_reducible apply keeps_runImage | with_reducible apply keeps_setBoot | with_reducible apply keeps_notice | (simp only [keeps_mk_iff]; with_reducible apply keepsVia_left) | intro _ | split

theorem keeps_execRecoveryImage {b0 s : State} (h : Keeps b0 s) (img : FwImage) (components : List (List Byte)) : Keeps b0 (outState s (execRecoveryImage img components s)) := by
  unfold execRecoveryImage
  repeat' first | with_reducible assumption | rw [outState_next] | with_reducible apply keeps_enterWaitPower | with_reducible apply keeps_runImage | with_reducible apply keeps_ite | intro _

theorem keeps_execCalibFlashWrite {b0 s : State} (h : Keeps b0 s) (ok : Bool) : Keeps b0 (outState s (execCalibFlashWrite ok s)) := by
  unfold execCalibFlashWrite
  repeat' first | with_reducible assumption | rw [outState_next] | with_reducible apply keeps_flashStore | with_reducible apply keeps_notice | with_reducible apply keeps_ite | intro _

theorem keeps_wTileFence {b0 s : State} (h : Keeps b0 s) (p : Nat) : Keeps b0 (wTileFence p s).2 := by
  unfold wTileFence
  repeat' first | with_reducible assumption | with_reducible apply keeps_refuse | with_reducible apply keeps_accept | with_reducible apply keeps_fenceTile | split

theorem keeps_execTileFenceReq {b0 s : State} (h : Keeps b0 s) (via : Via) (phys : Nat) : Keeps b0 (outState s (execTileFenceReq via phys s)) := by
  unfold execTileFenceReq
  repeat' first | with_reducible assumption | rw [outState_next] | with_reducible apply keeps_doWrite | with_reducible apply keeps_wTileFence | intro _

theorem keeps_wExclusionClear {b0 s : State} (h : Keeps b0 s) (v : Nat) : Keeps b0 (wExclusionClear v s).2 := by
  unfold wExclusionClear
  repeat' first | with_reducible assumption | with_reducible apply keeps_refuse | with_reducible apply keeps_accept | with_reducible apply keeps_flashCommit | with_reducible apply keeps_aliveAgain | (simp only [keeps_mk_iff]; with_reducible apply keepsVia_left) | split

theorem keeps_execExclusionClear {b0 s : State} (h : Keeps b0 s) (via : Via) (v : Nat) : Keeps b0 (outState s (execExclusionClear via v s)) := by
  unfold execExclusionClear
  repeat' first | with_reducible assumption | rw [outState_next] | with_reducible apply keeps_doWrite | with_reducible apply keeps_wExclusionClear | intro _

end Sys2Proof.Machine
end

