-- ==== Sys2Proof/Laws/KeepsService.lean ====
section
/-! SUPPORT. Sealing, the lane wire, keys, trace and the dictionary keep what every operation keeps: the queue, the outbox, the free values given, and the canonical forms. -/

namespace Sys2Proof.Machine

theorem keeps_sealData {b0 s : State} (h : Keeps b0 s) (e : Nat) (k : Nat) (data : List Byte) : Keeps b0 (sealData s e k data).2 := by
  unfold sealData
  dsimp only
  repeat' first | with_reducible assumption | with_reducible apply keeps_setLane | split

theorem keeps_sealStep {b0 s : State} (h : Keeps b0 s) (e : Nat) (k : Nat) : Keeps b0 (sealStep s e k) := by
  unfold sealStep
  dsimp only
  repeat' first | with_reducible assumption | with_reducible apply keeps_setLane | with_reducible apply keeps_queueSeal | intro _ | split

theorem keeps_takeSealOut {b0 s : State} (h : Keeps b0 s) (e : Nat) (k : Nat) (f : SealFlit) : Keeps b0 (takeSealOut s e k f) := by
  unfold takeSealOut
  repeat' first | with_reducible assumption | with_reducible apply keeps_setLane

theorem keeps_sealFail {b0 s : State} (h : Keeps b0 s) (e : Nat) (k : Nat) (w : Nat) : Keeps b0 (sealFail s e k w) := by
  unfold sealFail
  repeat' first | with_reducible assumption | with_reducible apply keeps_raise | with_reducible apply keeps_rinc | with_reducible apply keeps_laneGo | with_reducible apply keeps_stepFault | with_reducible apply keeps_ite | intro _

theorem keeps_passWindow {b0 s : State} (h : Keeps b0 s) (e : Nat) (k : Nat) (w : Nat) : Keeps b0 (passWindow s e k w) := by
  unfold passWindow
  repeat' first | with_reducible assumption | with_reducible apply keeps_setLane | with_reducible apply keeps_arrive | with_reducible apply keeps_foldl | intro _

theorem keeps_sealCheck {b0 : State} (n : Nat) : ∀ {s : State}, Keeps b0 s → ∀ e k, Keeps b0 (sealCheck n s e k) := by
  induction n with
  | zero => exact fun h _ _ => h
  | succ n ih =>
    intro s h e k
    unfold sealCheck
    dsimp only
    repeat' first | with_reducible assumption | with_reducible apply ih | with_reducible apply keeps_passWindow | with_reducible apply keeps_sealFail | intro _ | split

theorem keeps_takeSeal {b0 s : State} (h : Keeps b0 s) (e : Nat) (k : Nat) (id : Nat) (salt : List Byte) : Keeps b0 (takeSeal s e k id salt) := by
  unfold takeSeal
  dsimp only
  repeat' first | with_reducible assumption | with_reducible apply keeps_setLane | with_reducible apply keeps_raise | with_reducible apply keeps_rinc | with_reducible apply keeps_laneGo | intro _ | split

theorem keeps_onSealStart {b0 s : State} (h : Keeps b0 s) (e : Nat) (k : Nat) (n : Nat) (payload : List Byte) : Keeps b0 (onSealStart s e k n payload) := by
  unfold onSealStart
  repeat' first | with_reducible assumption | with_reducible apply keeps_takeSeal | with_reducible apply keeps_setLane | with_reducible apply keeps_ite | intro _

theorem keeps_onSealTag {b0 s : State} (h : Keeps b0 s) (e : Nat) (k : Nat) (w : Nat) (tag : List Byte) : Keeps b0 (onSealTag s e k w tag) := by
  unfold onSealTag
  repeat' first | with_reducible assumption | with_reducible apply keeps_sealCheck | with_reducible apply keeps_setLane | with_reducible apply keeps_ite | intro _

theorem keeps_onSealPayload {b0 s : State} (h : Keeps b0 s) (e : Nat) (k : Nat) (n : Nat) (payload : List Byte) : Keeps b0 (onSealPayload s e k n payload) := by
  unfold onSealPayload
  repeat' first | with_reducible assumption | with_reducible apply keeps_onSealStart | with_reducible apply keeps_onSealTag | with_reducible apply keeps_ite | intro _

theorem keeps_raiseMend {b0 s : State} (h : Keeps b0 s) (e : Nat) (k : Nat) (bsn : Nat) (partner : Option Nat) (inj : Bool) : Keeps b0 (raiseMend s e k bsn partner inj) := by
  unfold raiseMend
  repeat' first | with_reducible assumption | with_reducible apply keeps_raise

theorem keeps_laneInjectionDone {b0 s : State} (h : Keeps b0 s) (kind : Nat) (e : Nat) (k : Nat) : Keeps b0 (laneInjectionDone s kind e k) := by
  unfold laneInjectionDone
  repeat' first | with_reducible assumption | with_reducible apply keeps_injectionDone

theorem keeps_takeReplay {b0 s : State} (h : Keeps b0 s) (k : Nat) (x : Replay) : Keeps b0 (takeReplay s k x) := by
  unfold takeReplay
  repeat' first | with_reducible assumption | with_reducible apply keeps_setLane | with_reducible apply keeps_rinc | with_reducible apply keeps_ite | intro _

theorem keeps_queueReplay {b0 s : State} (h : Keeps b0 s) (e : Nat) (k : Nat) (x : Replay) : Keeps b0 (queueReplay s e k x) := by
  unfold queueReplay
  repeat' first | with_reducible assumption | with_reducible apply keeps_setLane

theorem keeps_takeFlitOut {b0 s : State} (h : Keeps b0 s) (key : Nat) (g : Grant) : Keeps b0 (takeFlitOut s key g) := by
  unfold takeFlitOut
  repeat' first | with_reducible assumption | with_reducible apply keeps_sentFlit | (simp only [keeps_mk_iff]; with_reducible apply keepsVia_left)

theorem keeps_carryFlit {b0 s : State} (h : Keeps b0 s) (e : Nat) (k : Nat) : Keeps b0 (carryFlit s e k).2 := by
  unfold carryFlit
  repeat' first | with_reducible assumption | with_reducible apply keeps_takeSealOut | with_reducible apply keeps_takeFlitOut | split

theorem keeps_carryTx {b0 s : State} (h : Keeps b0 s) (e : Nat) (k : Nat) (sb : Nat) (x : LaneRun) (i : Nat) : Keeps b0 (carryTx s e k sb x i).2 := by
  unfold carryTx
  dsimp only
  repeat' first | with_reducible assumption | with_reducible apply keeps_setLane | with_reducible apply keeps_stepFault | split

theorem keeps_carry {b0 s : State} (h : Keeps b0 s) (e : Nat) (k : Nat) (pos : Nat) (mend : Bool) : Keeps b0 (carry s e k pos mend).2 := by
  unfold carry
  repeat' first | with_reducible assumption | with_reducible apply keeps_carryTx | with_reducible apply keeps_carryFlit | split

theorem keeps_agedOut {b0 s : State} (h : Keeps b0 s) (e : Nat) (k : Nat) (x : SentBlock) : Keeps b0 (agedOut s e k x) := by
  unfold agedOut
  repeat' first | with_reducible assumption | with_reducible apply keeps_rinc | with_reducible apply keeps_raiseMend | with_reducible apply keeps_laneGoBy | with_reducible apply keeps_ite | intro _

theorem keeps_recordSent {b0 s : State} (h : Keeps b0 s) (e : Nat) (k : Nat) (x : SentBlock) : Keeps b0 (recordSent s e k x) := by
  unfold recordSent
  repeat' first | with_reducible assumption | with_reducible apply keeps_setLane | with_reducible apply keeps_agedOut | with_reducible apply keeps_ite | with_reducible apply keeps_foldl | intro _

theorem keeps_countGlobal {b0 s : State} (h : Keeps b0 s) (e : Nat) (k : Nat) (ctl : Nat) : Keeps b0 (countGlobal s e k ctl) := by
  unfold countGlobal
  repeat' first | with_reducible assumption | with_reducible apply keeps_rinc | with_reducible apply keeps_ite | intro _

theorem keeps_putBlock {b0 s : State} (h : Keeps b0 s) (e : Nat) (k : Nat) (pos : Nat) (block : List Byte) : Keeps b0 (putBlock s e k pos block) := by
  unfold putBlock
  repeat' first | with_reducible assumption | with_reducible apply keeps_setLane | with_reducible apply keeps_emit | with_reducible apply keeps_ite | (simp only [keeps_mk_draw_iff]; with_reducible apply keepsVia_left) | intro _

theorem keeps_sendBlock {b0 s : State} (h : Keeps b0 s) (e : Nat) (k : Nat) (pos : Nat) (ctl : Nat) (data : List Byte) (x : SentBlock) : Keeps b0 (sendBlock s e k pos ctl data x) := by
  unfold sendBlock
  repeat' first | with_reducible assumption | with_reducible apply keeps_sealData | with_reducible apply keeps_recordSent | with_reducible apply keeps_sealStep | with_reducible apply keeps_putBlock | with_reducible apply keeps_countGlobal | split

theorem keeps_sendTraining {b0 s : State} (h : Keeps b0 s) (e : Nat) (k : Nat) (pos : Nat) (x : LinkMsg) (data : List Byte) : Keeps b0 (sendTraining s e k pos x data) := by
  unfold sendTraining
  repeat' first | with_reducible assumption | with_reducible apply keeps_sendBlock

theorem keeps_sendTrain {b0 s : State} (h : Keeps b0 s) (e : Nat) (k : Nat) (pos : Nat) : Keeps b0 (sendTrain s e k pos) := by
  unfold sendTrain
  repeat' first | with_reducible assumption | with_reducible apply keeps_sendTraining

theorem keeps_echoReply {b0 s t : State} (h : Keeps b0 s) (e k pos : Nat) (x : LinkMsg) (i : echoReply s e k pos = some (x, t)) : Keeps b0 t := by
  unfold echoReply at i
  split at i
  · simp only [Option.some.injEq, Prod.mk.injEq] at i
    obtain ⟨-, rfl⟩ := i
    exact keeps_setLane h _ _ _
  · simp at i

theorem keeps_slotEcho {b0 s : State} (h : Keeps b0 s) (e k pos : Nat) : Keeps b0 (slotEcho s e k pos) := by
  unfold slotEcho
  split
  · exact keeps_sendTraining (keeps_echoReply h _ _ _ _ ‹_›) _ _ _ _ _
  · dsimp only
    repeat' first | with_reducible assumption | with_reducible apply keeps_sendTraining | with_reducible apply keeps_setLane | with_reducible apply keeps_sendTrain | with_reducible apply keeps_ite | intro _

theorem keeps_pickLink {b0 s : State} (h : Keeps b0 s) (e : Nat) (k : Nat) (pos : Nat) (which : LinkMsg → Bool) : Keeps b0 (pickLink s e k pos which) := by
  unfold pickLink
  dsimp only
  repeat' first | with_reducible assumption | with_reducible apply keeps_setLane | intro _ | split

theorem keeps_endLink {b0 s : State} (h : Keeps b0 s) (e : Nat) (k : Nat) (pos : Nat) : Keeps b0 (endLink s e k pos) := by
  unfold endLink
  repeat' first | with_reducible assumption | with_reducible apply keeps_setLane | with_reducible apply keeps_ite | intro _

theorem keeps_linkWord {b0 s : State} (h : Keeps b0 s) (e : Nat) (k : Nat) (pos : Nat) (x : LinkMsg) : Keeps b0 (linkWord s e k pos x).2 := by
  unfold linkWord
  repeat' first | with_reducible assumption | with_reducible apply keeps_setLane

theorem keeps_slotBeacon {b0 s : State} (h : Keeps b0 s) (e k pos : Nat) : Keeps b0 (slotBeacon s e k pos) := by
  unfold slotBeacon
  have h0 := keeps_pickLink h e k pos (fun x => x.msg == 7 && (rxOf s e k).train == .beacon)
  dsimp only
  split
  · repeat' first | with_reducible assumption | with_reducible apply keeps_sendTraining | with_reducible apply keeps_setLane | with_reducible apply h0 | with_reducible apply keeps_ite | with_reducible apply keeps_foldl | (simp only [keeps_mk_iff]; with_reducible apply keepsVia_left) | (simp only [keeps_mk_draw_iff]; with_reducible apply keepsVia_left) | (with_reducible apply keeps_pair; with_reducible assumption) | intro _ | split
  · split
    · exact keeps_sendTraining h0 _ _ _ _ _
    · split
      · exact keeps_sendTraining (keeps_echoReply h0 _ _ _ _ ‹_›) _ _ _ _ _
      · exact keeps_sendTrain h0 _ _ _

theorem keeps_ackOrCredit {b0 s : State} (h : Keeps b0 s) (e : Nat) (k : Nat) (pos : Nat) : Keeps b0 (ackOrCredit s e k pos).2 := by
  unfold ackOrCredit
  dsimp only
  repeat' first | with_reducible assumption | with_reducible apply keeps_setLane | split

theorem keeps_slotOpen {b0 s : State} (h : Keeps b0 s) (e : Nat) (k : Nat) (pos : Nat) (mend : Bool) : Keeps b0 (slotOpen s e k pos mend) := by
  unfold slotOpen
  dsimp only
  repeat' first | with_reducible assumption | with_reducible apply keeps_carry | with_reducible apply keeps_linkWord | with_reducible apply keeps_ackOrCredit | with_reducible apply keeps_sendBlock | with_reducible apply keeps_setLane | intro _ | split

theorem keeps_slotServe {b0 s : State} (h : Keeps b0 s) (e : Nat) (k : Nat) (pos : Nat) : Keeps b0 (slotServe s e k pos) := by
  unfold slotServe
  repeat' first | with_reducible assumption | with_reducible apply keeps_pickLink | with_reducible apply keeps_sendBlock | with_reducible apply keeps_takeReplay | with_reducible apply keeps_slotOpen | with_reducible apply keeps_endLink | split

theorem keeps_execLaneBlockSlot {b0 s : State} (h : Keeps b0 s) (eyelet : Nat) (lane : Nat) (pos : Nat) : Keeps b0 (outState s (execLaneBlockSlot eyelet lane pos s)) := by
  unfold execLaneBlockSlot
  repeat' first | with_reducible assumption | rw [outState_next] | with_reducible apply keeps_putBlock | with_reducible apply keeps_sendTrain | with_reducible apply keeps_slotEcho | with_reducible apply keeps_slotBeacon | with_reducible apply keeps_slotServe | split

theorem keeps_handOn {b0 s : State} (h : Keeps b0 s) (e : Nat) (k : Nat) (w : Option Nat) (dest : Option (Nat × Nat)) (flit : List Byte) : Keeps b0 (handOn s e k w dest flit) := by
  unfold handOn
  repeat' first | with_reducible assumption | with_reducible apply keeps_setLane | with_reducible apply keeps_arrive | split

theorem keeps_flitRole {b0 s : State} (h : Keeps b0 s) (l : Lane) (flit : List Byte) : Keeps b0 (flitRole s l flit).2 := by
  unfold flitRole
  dsimp only
  repeat' first | with_reducible assumption | (simp only [keeps_mk_draw_iff]; with_reducible apply keepsVia_left) | split

theorem keeps_takeFlit {b0 s : State} (h : Keeps b0 s) (e : Nat) (k : Nat) (w : Option Nat) (n : Nat) (flit : List Byte) : Keeps b0 (takeFlit s e k w n flit) := by
  unfold takeFlit
  dsimp only
  repeat' first | with_reducible assumption | with_reducible apply keeps_flitRole | with_reducible apply keeps_setLane | with_reducible apply keeps_handOn | with_reducible apply keeps_onSealPayload | intro _ | split

theorem keeps_openData {b0 s : State} (h : Keeps b0 s) (e : Nat) (k : Nat) (bsn : Nat) (sched : Bool) (data : List Byte) : Keeps b0 (openData s e k bsn sched data).2.2 := by
  unfold openData
  dsimp only
  repeat' first | with_reducible assumption | with_reducible apply keeps_setLane | split

theorem keeps_passFlit {b0 s : State} (h : Keeps b0 s) (e : Nat) (k : Nat) (bsn : Nat) (flit : List Byte) : Keeps b0 (passFlit s e k bsn flit) := by
  unfold passFlit
  dsimp only
  repeat' first | with_reducible assumption | with_reducible apply keeps_setLane | with_reducible apply keeps_openData | with_reducible apply keeps_takeFlit | split

theorem keeps_passRaw {b0 s : State} (h : Keeps b0 s) (e : Nat) (k : Nat) : Keeps b0 (passRaw s e k) := by
  unfold passRaw
  dsimp only
  repeat' first | with_reducible assumption | with_reducible apply keeps_takeFlit | with_reducible apply keeps_setLane | with_reducible apply keeps_foldl | intro _ | split

theorem keeps_drainHeld {b0 s : State} (h : Keeps b0 s) (e : Nat) (k : Nat) : Keeps b0 (drainHeld s e k) := by
  unfold drainHeld
  repeat' first | with_reducible assumption | with_reducible apply keeps_passFlit | with_reducible apply keeps_setLane | with_reducible apply keeps_foldl | intro _

theorem keeps_onFlit {b0 s : State} (h : Keeps b0 s) (e : Nat) (k : Nat) (bsn : Nat) (flit : List Byte) : Keeps b0 (onFlit s e k bsn flit) := by
  unfold onFlit
  repeat' first | with_reducible assumption | with_reducible apply keeps_drainHeld | with_reducible apply keeps_setLane

theorem keeps_onSched {b0 s : State} (h : Keeps b0 s) (e : Nat) (k : Nat) (bsn : Nat) (sb : Nat) (bytes : List Byte) : Keeps b0 (onSched s e k bsn sb bytes) := by
  unfold onSched
  dsimp only
  repeat' first | with_reducible assumption | with_reducible apply keeps_openData | with_reducible apply keeps_onLaceMessage | with_reducible apply keeps_schedBlock | intro _ | split

theorem keeps_onAck {b0 s : State} (h : Keeps b0 s) (e : Nat) (k : Nat) (seq : Nat) : Keeps b0 (onAck s e k seq) := by
  unfold onAck
  dsimp only
  repeat' first | with_reducible assumption | with_reducible apply keeps_setLane | with_reducible apply keeps_copyWriteAck | with_reducible apply keeps_laneInjectionDone | with_reducible apply keeps_foldl | intro _ | split

theorem keeps_onCredit {b0 s : State} (h : Keeps b0 s) (e : Nat) (k : Nat) (vc : Nat) (cls : Nat) (freed : Nat) : Keeps b0 (onCredit s e k vc cls freed) := by
  unfold onCredit
  repeat' first | with_reducible assumption | with_reducible apply keeps_setLane | (simp only [keeps_mk_iff]; with_reducible apply keepsVia_left)

theorem keeps_onNack {b0 s : State} (h : Keeps b0 s) (e : Nat) (k : Nat) (seq : Nat) : Keeps b0 (onNack s e k seq) := by
  unfold onNack
  dsimp only
  repeat' first | with_reducible assumption | with_reducible apply keeps_queueReplay | intro _ | split

theorem keeps_onMend {b0 s : State} (h : Keeps b0 s) (e : Nat) (k : Nat) (x : Nat) (seq : Nat) (data : Option (List Byte)) : Keeps b0 (onMend s e k x seq data) := by
  unfold onMend
  dsimp only
  repeat' first | with_reducible assumption | with_reducible apply keeps_rinc | with_reducible apply keeps_setLane | with_reducible apply keeps_laneInjectionDone | with_reducible apply keeps_drainHeld | with_reducible apply keeps_onSched | with_reducible apply keeps_onFlit | intro _ | split

theorem keeps_onControl {b0 s : State} (h : Keeps b0 s) (e : Nat) (k : Nat) (ctl : Nat) (data : List Byte) : Keeps b0 (onControl s e k ctl data) := by
  unfold onControl
  repeat' first | with_reducible assumption | with_reducible apply keeps_onAck | with_reducible apply keeps_onCredit | with_reducible apply keeps_onNack | with_reducible apply keeps_onBeacon | with_reducible apply keeps_onPause | with_reducible apply keeps_onResume | with_reducible apply keeps_onGo | with_reducible apply keeps_onMend | split

theorem keeps_countBlock {b0 s : State} (h : Keeps b0 s) (e : Nat) (k : Nat) (d : Option (List Byte × Nat × Bool)) (injected : Bool) : Keeps b0 (countBlock s e k d injected) := by
  unfold countBlock
  repeat' first | with_reducible assumption | with_reducible apply keeps_rinc | intro _ | split

theorem keeps_missBlock {b0 s : State} (h : Keeps b0 s) (e : Nat) (k : Nat) (bsn : Nat) (injected : Bool) : Keeps b0 (missBlock s e k bsn injected) := by
  unfold missBlock
  repeat' first | with_reducible assumption | with_reducible apply keeps_setLane

theorem keeps_servedBlock {b0 s : State} (h : Keeps b0 s) (e : Nat) (k : Nat) (d : Option (List Byte × Nat × Bool)) (injected : Bool) : Keeps b0 (servedBlock s e k d injected) := by
  unfold servedBlock
  dsimp only
  repeat' first | with_reducible assumption | with_reducible apply keeps_setLane | with_reducible apply keeps_onControl | with_reducible apply keeps_countBlock | with_reducible apply keeps_missBlock | with_reducible apply keeps_onSched | with_reducible apply keeps_onFlit | intro _ | split

theorem keeps_serveBlock {b0 s : State} (h : Keeps b0 s) (e : Nat) (k : Nat) (d : Option (List Byte × Nat × Bool)) (injected : Bool) : Keeps b0 (serveBlock s e k d injected) := by
  unfold serveBlock
  repeat' first | with_reducible assumption | with_reducible apply keeps_servedBlock | with_reducible apply keeps_sealCheck | with_reducible apply keeps_ite | intro _

theorem keeps_trainingBlock {b0 s : State} (h : Keeps b0 s) (e : Nat) (k : Nat) (d : Option (List Byte × Nat × Bool)) (injected : Bool) : Keeps b0 (trainingBlock s e k d injected) := by
  unfold trainingBlock
  dsimp only
  repeat' first | with_reducible assumption | with_reducible apply keeps_countBlock | with_reducible apply keeps_setLane | with_reducible apply keeps_onBeacon | intro _ | split

theorem keeps_descramble {b0 s : State} (h : Keeps b0 s) (e : Nat) (k : Nat) (block : List Byte) : Keeps b0 (descramble s e k block).2 := by
  unfold descramble
  repeat' first | with_reducible assumption | with_reducible apply keeps_setLane

theorem keeps_readyBlock {b0 s : State} (h : Keeps b0 s) (e : Nat) (k : Nat) (d : Option (List Byte × Nat × Bool)) (injected : Bool) : Keeps b0 (readyBlock s e k d injected) := by
  unfold readyBlock
  repeat' first | with_reducible assumption | with_reducible apply keeps_countBlock | with_reducible apply keeps_setLane

theorem keeps_execLaneBlockReceived {b0 s : State} (h : Keeps b0 s) (eyelet : Nat) (lane : Nat) (block : List Byte) : Keeps b0 (outState s (execLaneBlockReceived eyelet lane block s)) := by
  unfold execLaneBlockReceived
  repeat' first | with_reducible assumption | rw [outState_next] | with_reducible apply keeps_descramble | with_reducible apply keeps_setLane | with_reducible apply keeps_readyBlock | with_reducible apply keeps_serveBlock | with_reducible apply keeps_trainingBlock | intro _ | split

theorem keeps_execReplayTimeout {b0 s : State} (h : Keeps b0 s) (eyelet : Nat) (lane : Nat) : Keeps b0 (outState s (execReplayTimeout eyelet lane s)) := by
  unfold execReplayTimeout
  repeat' first | with_reducible assumption | rw [outState_next] | with_reducible apply keeps_queueReplay | with_reducible apply keeps_rinc | intro _ | split

theorem keeps_execMendExhausted {b0 s : State} (h : Keeps b0 s) (eyelet : Nat) (lane : Nat) : Keeps b0 (outState s (execMendExhausted eyelet lane s)) := by
  unfold execMendExhausted
  repeat' first | with_reducible assumption | rw [outState_next] | with_reducible apply keeps_rinc | with_reducible apply keeps_laneGoBy | intro _ | split

theorem keeps_execSlackExpiry {b0 s : State} (h : Keeps b0 s) (eyelet : Nat) (lane : Nat) (bsn : Nat) : Keeps b0 (outState s (execSlackExpiry eyelet lane bsn s)) := by
  unfold execSlackExpiry
  repeat' first | with_reducible assumption | rw [outState_next] | with_reducible apply keeps_rinc | with_reducible apply keeps_setLane | with_reducible apply keeps_raiseMend | with_reducible apply keeps_stepFault | intro _ | split

theorem keeps_execSealStart {b0 s : State} (h : Keeps b0 s) (eyelet : Nat) (lane : Nat) (payload : List Word) : Keeps b0 (outState s (execSealStart eyelet lane payload s)) := by
  unfold execSealStart
  repeat' first | with_reducible assumption | rw [outState_next] | with_reducible apply keeps_onSealStart | with_reducible apply keeps_ite | intro _

theorem keeps_execSealTag {b0 s : State} (h : Keeps b0 s) (eyelet : Nat) (lane : Nat) (w0 : Word) (w1 : Word) (rest : List Word) : Keeps b0 (outState s (execSealTag eyelet lane w0 w1 rest s)) := by
  unfold execSealTag
  repeat' first | with_reducible assumption | rw [outState_next] | with_reducible apply keeps_onSealTag | with_reducible apply keeps_ite | intro _

theorem keeps_execSealTagTimeout {b0 s : State} (h : Keeps b0 s) (eyelet : Nat) (lane : Nat) (window : Nat) : Keeps b0 (outState s (execSealTagTimeout eyelet lane window s)) := by
  unfold execSealTagTimeout
  repeat' first | with_reducible assumption | rw [outState_next] | with_reducible apply keeps_sealFail | with_reducible apply keeps_ite | intro _

theorem keeps_fabricLoaded {b0 s : State} (h : Keeps b0 s) (id : Nat) : Keeps b0 (fabricLoaded s id) := by
  unfold fabricLoaded
  repeat' first | with_reducible assumption | with_reducible apply keeps_sealAll | with_reducible apply keeps_passRaw | with_reducible apply keeps_takeSeal | with_reducible apply keeps_foldl | intro _ | split

theorem keeps_revokeLanes {b0 s : State} (h : Keeps b0 s) (id : Nat) : Keeps b0 (revokeLanes s id) := by
  unfold revokeLanes
  repeat' first | with_reducible assumption | with_reducible apply keeps_laneGo | with_reducible apply keeps_ite | with_reducible apply keeps_foldl | intro _

theorem keeps_zeroInstalled {b0 s : State} (h : Keeps b0 s) (i : Install) : Keeps b0 (zeroInstalled s i) := by
  unfold zeroInstalled
  repeat' first | with_reducible assumption | with_reducible apply keeps_hbmWrite | with_reducible apply keeps_scratchWrite | with_reducible apply keeps_foldl | intro _ | split

theorem keeps_startInstall {b0 s : State} (h : Keeps b0 s) (i : Install) : Keeps b0 (startInstall s i) := by
  unfold startInstall
  repeat' first | with_reducible assumption | with_reducible apply keeps_setKey | with_reducible apply keeps_installGo | with_reducible apply keeps_rset | (simp only [keeps_mk_iff]; with_reducible apply keepsVia_left) | (simp only [keeps_mk_draw_iff]; with_reducible apply keepsVia_left)

theorem keeps_endInstall {b0 s : State} (h : Keeps b0 s) (i : Install) : Keeps b0 (endInstall s i) := by
  unfold endInstall
  repeat' first | with_reducible assumption | with_reducible apply keeps_zeroInstalled | with_reducible apply keeps_setKey | with_reducible apply keeps_rset | with_reducible apply keeps_ite | (simp only [keeps_mk_iff]; with_reducible apply keepsVia_left) | intro _

theorem keeps_wInstall {b0 s : State} (h : Keeps b0 s) (v : List Byte) : Keeps b0 (wInstall v s).2 := by
  unfold wInstall
  dsimp only
  repeat' first | with_reducible assumption | with_reducible apply keeps_accept | with_reducible apply keeps_rset | with_reducible apply keeps_refuse | with_reducible apply keeps_startInstall | (simp only [keeps_mk_iff]; with_reducible apply keepsVia_left) | split

theorem keeps_execSealInstall {b0 s : State} (h : Keeps b0 s) (via : Via) (v : List Byte) : Keeps b0 (outState s (execSealInstall via v s)) := by
  unfold execSealInstall
  repeat' first | with_reducible assumption | rw [outState_next] | with_reducible apply keeps_doWrite | with_reducible apply keeps_wInstall | intro _

theorem keeps_execInstallDone {b0 s : State} (h : Keeps b0 s) : Keeps b0 (outState s (execInstallDone s)) := by
  unfold execInstallDone
  dsimp only
  repeat' first | with_reducible assumption | rw [outState_next] | with_reducible apply keeps_installGo | with_reducible apply keeps_endInstall | intro _ | split

theorem keeps_loadKey {b0 s : State} (h : Keeps b0 s) (slot : Nat) (purpose : Nat) (key : List Byte) : Keeps b0 (loadKey s slot purpose key) := by
  unfold loadKey
  repeat' first | with_reducible assumption | with_reducible apply keeps_setKey | with_reducible apply keeps_fabricLoaded | with_reducible apply keeps_ite | intro _

theorem keeps_wKeySlot {b0 s : State} (h : Keeps b0 s) (env : List Byte) : Keeps b0 (wKeySlot env s).2 := by
  unfold wKeySlot
  dsimp only
  repeat' first | with_reducible assumption | with_reducible apply keeps_refuse | with_reducible apply keeps_setKey | with_reducible apply keeps_accept | with_reducible apply keeps_loadKey | split

theorem keeps_execKeySlotWrite {b0 s : State} (h : Keeps b0 s) (via : Via) (env : List Byte) : Keeps b0 (outState s (execKeySlotWrite via env s)) := by
  unfold execKeySlotWrite
  repeat' first | with_reducible assumption | rw [outState_next] | with_reducible apply keeps_doWrite | with_reducible apply keeps_wKeySlot | intro _

theorem keeps_replacePending {b0 s : State} (h : Keeps b0 s) (slot : Nat) : Keeps b0 (replacePending s slot) := by
  unfold replacePending
  dsimp only
  repeat' first | with_reducible assumption | with_reducible apply keeps_loadKey | with_reducible apply keeps_startInstall | intro _ | split

theorem keeps_wKeyErase {b0 s : State} (h : Keeps b0 s) (slot : Nat) : Keeps b0 (wKeyErase slot s).2 := by
  unfold wKeyErase
  repeat' first | with_reducible assumption | with_reducible apply keeps_refuse | with_reducible apply keeps_endInstall | with_reducible apply keeps_refuseExports | with_reducible apply keeps_zeroExports | with_reducible apply keeps_accept | with_reducible apply keeps_revokeLanes | (simp only [keeps_mk_iff]; with_reducible apply keepsVia_left) | intro _ | split

theorem keeps_execKeySlotErase {b0 s : State} (h : Keeps b0 s) (via : Via) (slot : Nat) : Keeps b0 (outState s (execKeySlotErase via slot s)) := by
  unfold execKeySlotErase
  repeat' first | with_reducible assumption | rw [outState_next] | with_reducible apply keeps_doWrite | with_reducible apply keeps_wKeyErase | intro _

theorem keeps_traceSend {b0 s : State} (h : Keeps b0 s) (rs : List (List Word)) : Keeps b0 (traceSend s rs) := by
  unfold traceSend
  repeat' first | with_reducible assumption | with_reducible apply keeps_emit | (simp only [keeps_mk_iff]; with_reducible apply keepsVia_left) | (simp only [keeps_mk_draw_iff]; with_reducible apply keepsVia_left) | split

theorem keeps_execTraceBlock {b0 s : State} (h : Keeps b0 s) : Keeps b0 (outState s (execTraceBlock s)) := by
  unfold execTraceBlock
  repeat' first | with_reducible assumption | rw [outState_next] | with_reducible apply keeps_radd | with_reducible apply keeps_traceSend | with_reducible apply keeps_ite | (simp only [keeps_mk_iff]; with_reducible apply keepsVia_left) | intro _

theorem keeps_execTraceLostRecord {b0 s : State} (h : Keeps b0 s) : Keeps b0 (outState s (execTraceLostRecord s)) := by
  unfold execTraceLostRecord
  repeat' first | with_reducible assumption | rw [outState_next] | with_reducible apply keeps_ite | (simp only [keeps_mk_iff]; with_reducible apply keepsVia_left) | intro _

theorem keeps_execBeatMark {b0 s : State} (h : Keeps b0 s) : Keeps b0 (outState s (execBeatMark s)) := by
  unfold execBeatMark
  repeat' first | with_reducible assumption | rw [outState_next] | with_reducible apply keeps_beatMark | with_reducible apply keeps_ite | intro _

theorem keeps_wTreadFreeze {b0 s : State} (h : Keeps b0 s) (v : Nat) : Keeps b0 (wTreadFreeze v s).2 := by
  unfold wTreadFreeze
  repeat' first | with_reducible assumption | with_reducible apply keeps_refuse | with_reducible apply keeps_accept | with_reducible apply keeps_treadFreezeOp | with_reducible apply keeps_treadEmpty | split

theorem keeps_execTreadFreeze {b0 s : State} (h : Keeps b0 s) (via : Via) : Keeps b0 (outState s (execTreadFreeze via s)) := by
  unfold execTreadFreeze
  repeat' first | with_reducible assumption | rw [outState_next] | with_reducible apply keeps_doWrite | with_reducible apply keeps_wTreadFreeze | intro _

theorem keeps_execTreadUnfreeze {b0 s : State} (h : Keeps b0 s) (via : Via) : Keeps b0 (outState s (execTreadUnfreeze via s)) := by
  unfold execTreadUnfreeze
  repeat' first | with_reducible assumption | rw [outState_next] | with_reducible apply keeps_doWrite | with_reducible apply keeps_wTreadFreeze | intro _

theorem keeps_wTreadReplay {b0 s : State} (h : Keeps b0 s) (v : List Byte) : Keeps b0 (wTreadReplay v s).2 := by
  unfold wTreadReplay
  repeat' first | with_reducible assumption | with_reducible apply keeps_refuse | with_reducible apply keeps_accept | (simp only [keeps_mk_iff]; with_reducible apply keepsVia_left) | split

theorem keeps_execTreadReplay {b0 s : State} (h : Keeps b0 s) (via : Via) (v : List Byte) : Keeps b0 (outState s (execTreadReplay via v s)) := by
  unfold execTreadReplay
  repeat' first | with_reducible assumption | rw [outState_next] | with_reducible apply keeps_doWrite | with_reducible apply keeps_wTreadReplay | intro _

theorem keeps_clearRead {b0 s : State} (h : Keeps b0 s) (e : Entry) (index : Nat) : Keeps b0 (clearRead s e index) := by
  unfold clearRead
  repeat' first | with_reducible assumption | with_reducible apply keeps_rset | with_reducible apply keeps_ite | with_reducible apply keeps_foldl | (simp only [keeps_mk_iff]; with_reducible apply keepsVia_left) | intro _

theorem keeps_guarded {b0 s : State} (h : Keeps b0 s) (ok : Bool) : Keeps b0 (guarded ok s).2 := by
  unfold guarded
  repeat' first | with_reducible assumption | with_reducible apply keeps_accept | with_reducible apply keeps_refuse | split

theorem keeps_wPlain {b0 s : State} (h : Keeps b0 s) (e : Entry) (index : Nat) (v : Nat) : Keeps b0 (wPlain e index v s).2 := by
  unfold wPlain
  repeat' first | with_reducible assumption | with_reducible apply keeps_guarded | with_reducible apply keeps_rset | with_reducible apply keeps_ite | intro _

theorem keeps_wPlainIf {b0 s : State} (h : Keeps b0 s) (ok : Bool) (e : Entry) (index : Nat) (v : Nat) : Keeps b0 (wPlainIf ok e index v s).2 := by
  unfold wPlainIf
  repeat' first | with_reducible assumption | with_reducible apply keeps_wPlain | with_reducible apply keeps_refuse | split

theorem keeps_wBits {b0 s : State} (h : Keeps b0 s) (valid : Nat) (e : Entry) (index : Nat) (v : Nat) : Keeps b0 (wBits valid e index v s).2 := by
  unfold wBits
  repeat' first | with_reducible assumption | with_reducible apply keeps_refuse | with_reducible apply keeps_wPlain | split

theorem keeps_wPending {b0 s : State} (h : Keeps b0 s) (ok : Bool) (e : Entry) (index : Nat) (v : Nat) : Keeps b0 (wPending ok e index v s).2 := by
  unfold wPending
  repeat' first | with_reducible assumption | with_reducible apply keeps_accept | with_reducible apply keeps_refuse | (simp only [keeps_mk_iff]; with_reducible apply keepsVia_left) | split

theorem keeps_wCoeffs {b0 s : State} (h : Keeps b0 s) (bs : List Byte) : Keeps b0 (wCoeffs bs s).2 := by
  unfold wCoeffs
  dsimp only
  repeat' first | with_reducible assumption | with_reducible apply keeps_refuse | with_reducible apply keeps_accept | with_reducible apply keeps_setPower | split

theorem keeps_wLatency {b0 s : State} (h : Keeps b0 s) (e : Entry) (index : Nat) (bs : List Byte) : Keeps b0 (wLatency e index bs s).2 := by
  unfold wLatency
  repeat' first | with_reducible assumption | with_reducible apply keeps_refuse | with_reducible apply keeps_accept | with_reducible apply keeps_rset | with_reducible apply keeps_foldl | intro _ | split

theorem keeps_wRingTables {b0 s : State} (h : Keeps b0 s) (u : Nat) (bs : List Byte) : Keeps b0 (wRingTables u bs s).2 := by
  unfold wRingTables
  repeat' first | with_reducible assumption | with_reducible apply keeps_accept | (simp only [keeps_mk_iff]; with_reducible apply keepsVia_left)

theorem keeps_flashed {b0 : State} {r : Nat × State} (h : Keeps b0 r.2) (p : FlashPart) : Keeps b0 (flashed r p).2 := by
  unfold flashed
  split
  · exact keeps_flashCommit h p
  · exact h

theorem keeps_wChipNumber {b0 s : State} (h : Keeps b0 s) (e : Entry) (index : Nat) (v : Nat) : Keeps b0 (wChipNumber e index v s).2 := by
  unfold wChipNumber
  repeat' first | with_reducible assumption | with_reducible apply keeps_flashed | with_reducible apply keeps_wPending

theorem keeps_wShadowGen {b0 s : State} (h : Keeps b0 s) (e : Entry) (index : Nat) (v : Nat) : Keeps b0 (wShadowGen e index v s).2 := by
  unfold wShadowGen
  repeat' first | with_reducible assumption | with_reducible apply keeps_flashed | with_reducible apply keeps_wPlain

theorem keeps_wPlanStaged {b0 s : State} (h : Keeps b0 s) (bs : List Byte) : Keeps b0 (wPlanStaged bs s).2 := by
  unfold wPlanStaged
  repeat' first | with_reducible assumption | with_reducible apply keeps_accept | (simp only [keeps_mk_iff]; with_reducible apply keepsVia_left)

theorem keeps_wPartition {b0 s : State} (h : Keeps b0 s) (e : Entry) (index : Nat) (v : Nat) : Keeps b0 (wPartition e index v s).2 := by
  unfold wPartition
  repeat' first | with_reducible assumption | with_reducible apply keeps_refuse | with_reducible apply keeps_wPlainIf | with_reducible apply keeps_wPlain | split

theorem keeps_wLaceShape {b0 s : State} (h : Keeps b0 s) (set : Nat) (v : Nat) : Keeps b0 (wLaceShape set v s).2 := by
  unfold wLaceShape
  repeat' first | with_reducible assumption | with_reducible apply keeps_refuse | with_reducible apply keeps_accept | with_reducible apply keeps_setLaceSet | split

theorem keeps_wLaceMembers {b0 s : State} (h : Keeps b0 s) (set : Nat) (bs : List Byte) : Keeps b0 (wLaceMembers set bs s).2 := by
  unfold wLaceMembers
  repeat' first | with_reducible assumption | with_reducible apply keeps_refuse | with_reducible apply keeps_accept | with_reducible apply keeps_setLaceSet | split

theorem keeps_wRanges {b0 s : State} (h : Keeps b0 s) (bs : List Byte) : Keeps b0 (wRanges bs s).2 := by
  unfold wRanges
  dsimp only
  repeat' first | with_reducible assumption | with_reducible apply keeps_refuse | with_reducible apply keeps_accept | (simp only [keeps_mk_iff]; with_reducible apply keepsVia_left) | split

theorem keeps_wAlertAck {b0 s : State} (h : Keeps b0 s) (v : Nat) : Keeps b0 (wAlertAck v s).2 := by
  unfold wAlertAck
  repeat' first | with_reducible assumption | with_reducible apply keeps_refuse | with_reducible apply keeps_accept | with_reducible apply keeps_emit | (simp only [keeps_mk_iff]; with_reducible apply keepsVia_left) | intro _ | split

theorem keeps_wLineEnable {b0 s : State} (h : Keeps b0 s) (v : Nat) (tenHigh : Bool) : Keeps b0 (wLineEnable v tenHigh s).2 := by
  unfold wLineEnable
  repeat' first | with_reducible assumption | with_reducible apply keeps_refuse | with_reducible apply keeps_accept | (simp only [keeps_mk_iff]; with_reducible apply keepsVia_left) | split

theorem keeps_portWrite {b0 s : State} (h : Keeps b0 s) : Keeps b0 (portWrite s) := by
  unfold portWrite
  repeat' first | with_reducible assumption | (simp only [keeps_mk_iff]; with_reducible apply keepsVia_left)

theorem keeps_wOwn {b0 s : State} (h : Keeps b0 s) (via : Via) (f : Dtls → Dtls) : Keeps b0 (wOwn via f s).2 := by
  unfold wOwn
  repeat' first | with_reducible assumption | with_reducible apply keeps_accept | with_reducible apply keeps_refuse | (simp only [keeps_mk_iff]; with_reducible apply keepsVia_left) | split

theorem keeps_wAnchorBytes {b0 s : State} (h : Keeps b0 s) (via : Via) (bs : List Byte) : Keeps b0 (wAnchorBytes via bs s).2 := by
  unfold wAnchorBytes
  repeat' first | with_reducible assumption | with_reducible apply keeps_wAnchors | with_reducible apply keeps_refuse | split

theorem keeps_writePackage {b0 s : State} (h : Keeps b0 s) (e : Entry) (index : Nat) (v : Nat) (bs : List Byte) : Keeps b0 (writePackage e index v bs s).2 := by
  unfold writePackage
  repeat' first | with_reducible assumption | with_reducible apply keeps_wWallAnchor | with_reducible apply keeps_wPlainIf | with_reducible apply keeps_wCoeffs | with_reducible apply keeps_wCoolant | with_reducible apply keeps_wThermalRelease | with_reducible apply keeps_wPlain | split

theorem keeps_writeLinks {b0 s : State} (h : Keeps b0 s) (e : Entry) (index : Nat) (v : Nat) (bs : List Byte) : Keeps b0 (writeLinks e index v bs s).2 := by
  unfold writeLinks
  repeat' first | with_reducible assumption | with_reducible apply keeps_wPlainIf | with_reducible apply keeps_wLaserSelect | with_reducible apply keeps_wLatency | with_reducible apply keeps_wRingTables | with_reducible apply keeps_wFullSearch | with_reducible apply keeps_wShadowGen | with_reducible apply keeps_wRouteShadow | with_reducible apply keeps_wRouteCopy | with_reducible apply keeps_wRouteEntry | with_reducible apply keeps_wRouteSwap | with_reducible apply keeps_wRouteRelease | with_reducible apply keeps_wChipNumber | with_reducible apply keeps_wPlanStaged | with_reducible apply keeps_wPlanCommit | with_reducible apply keeps_wPlain | split

theorem keeps_writePlatform {b0 s : State} (h : Keeps b0 s) (via : Via) (e : Entry) (index : Nat) (v : Nat) (bs : List Byte) : Keeps b0 (writePlatform via e index v bs s).2 := by
  unfold writePlatform
  repeat' first | with_reducible assumption | with_reducible apply keeps_wTileFence | with_reducible apply keeps_wRestart | with_reducible apply keeps_wExclusionClear | with_reducible apply keeps_wWeltSelftest | with_reducible apply keeps_wXlateRoot | with_reducible apply keeps_wXlateInvalidate | with_reducible apply keeps_wPlainIf | with_reducible apply keeps_wPartitionCommit | with_reducible apply keeps_wPartition | with_reducible apply keeps_wPending | with_reducible apply keeps_wQueueCtl | with_reducible apply keeps_wMgmtCommand | with_reducible apply keeps_wLaceEnable | with_reducible apply keeps_wLaceShape | with_reducible apply keeps_wLaceMembers | with_reducible apply keeps_wLastUnload | with_reducible apply keeps_wPlain | split

theorem keeps_writeSecurity {b0 s : State} (h : Keeps b0 s) (via : Via) (e : Entry) (index : Nat) (v : Nat) (bs : List Byte) : Keeps b0 (writeSecurity via e index v bs s).2 := by
  unfold writeSecurity
  repeat' first | with_reducible assumption | with_reducible apply keeps_wTenantChange | with_reducible apply keeps_wPeerSet | with_reducible apply keeps_wRollbackCommit | with_reducible apply keeps_wNonce | with_reducible apply keeps_wKeySlot | with_reducible apply keeps_wKeyErase | with_reducible apply keeps_wInstall | with_reducible apply keeps_wAnchorBytes | with_reducible apply keeps_wImageStage | with_reducible apply keeps_wActivate | with_reducible apply keeps_wBits | with_reducible apply keeps_wPending | with_reducible apply keeps_wTreadFreeze | with_reducible apply keeps_wOwn | with_reducible apply keeps_refuse | with_reducible apply keeps_wTreadReplay | with_reducible apply keeps_wPlainIf | with_reducible apply keeps_wPlain | split

theorem keeps_writeService {b0 s : State} (h : Keeps b0 s) (via : Via) (e : Entry) (index : Nat) (v : Nat) (bs : List Byte) : Keeps b0 (writeService via e index v bs s).2 := by
  unfold writeService
  dsimp only
  repeat' first | with_reducible assumption | with_reducible apply keeps_wFaultEpoch | with_reducible apply keeps_wFaultAck | with_reducible apply keeps_wPlainIf | with_reducible apply keeps_wRanges | with_reducible apply keeps_wSnapshotRestore | with_reducible apply keeps_wBits | with_reducible apply keeps_accept | with_reducible apply keeps_portWrite | with_reducible apply keeps_wPlain | with_reducible apply keeps_wAlertAck | with_reducible apply keeps_wLineEnable | with_reducible apply keeps_wPending | with_reducible apply keeps_wOwn | with_reducible apply keeps_refuse | (simp only [keeps_mk_iff]; with_reducible apply keepsVia_left) | (simp only [keeps_mk_draw_iff]; with_reducible apply keepsVia_left) | intro _ | split

theorem keeps_writeEntry {b0 s : State} (h : Keeps b0 s) (via : Via) (e : Entry) (index : Nat) (bs : List Byte) : Keeps b0 (writeEntry via e index bs s).2 := by
  unfold writeEntry
  repeat' first | with_reducible assumption | with_reducible apply keeps_writePackage | with_reducible apply keeps_writeLinks | with_reducible apply keeps_writePlatform | with_reducible apply keeps_writeSecurity | with_reducible apply keeps_writeService | split

theorem keeps_writeValue {b0 s : State} (h : Keeps b0 s) (via : Via) (index : Nat) (sub : Nat) (bs : List Byte) (checked : Bool) : Keeps b0 (writeValue s via index sub bs checked).2 := by
  unfold writeValue
  dsimp only
  repeat' first | with_reducible assumption | with_reducible apply keeps_countDenied | with_reducible apply keeps_writeEntry | with_reducible apply keeps_logMailboxWrite | intro _ | split

theorem keeps_execAlertAck {b0 s : State} (h : Keeps b0 s) (via : Via) (v : Nat) : Keeps b0 (outState s (execAlertAck via v s)) := by
  unfold execAlertAck
  repeat' first | with_reducible assumption | rw [outState_next] | with_reducible apply keeps_doWrite | with_reducible apply keeps_wAlertAck | intro _

theorem keeps_execAlertLineEnable {b0 s : State} (h : Keeps b0 s) (via : Via) (v : Nat) (tenHigh : Bool) : Keeps b0 (outState s (execAlertLineEnable via v tenHigh s)) := by
  unfold execAlertLineEnable
  repeat' first | with_reducible assumption | rw [outState_next] | with_reducible apply keeps_doWrite | with_reducible apply keeps_wLineEnable | intro _

theorem keeps_doRead {b0 s : State} (h : Keeps b0 s) (via : Via) (m : Kdp) : Keeps b0 (doRead s via m).2 := by
  unfold doRead
  dsimp only
  repeat' first | with_reducible assumption | with_reducible apply keeps_countDenied | with_reducible apply keeps_clearRead | split

theorem keeps_doWriteMsg {b0 s : State} (h : Keeps b0 s) (via : Via) (m : Kdp) : Keeps b0 (doWriteMsg s via m).2 := by
  unfold doWriteMsg
  repeat' first | with_reducible assumption | with_reducible apply keeps_writeValue

theorem keeps_doDescribe {b0 s : State} (h : Keeps b0 s) (via : Via) (m : Kdp) : Keeps b0 (doDescribe s via m).2 := by
  unfold doDescribe
  dsimp only
  repeat' first | with_reducible assumption | with_reducible apply keeps_countDenied | split

theorem keeps_openSeg {b0 s : State} (h : Keeps b0 s) (mk : Nat → Seg) : Keeps b0 (openSeg s mk).2 := by
  unfold openSeg
  repeat' first | with_reducible assumption | (simp only [keeps_mk_iff]; with_reducible apply keepsVia_left)

theorem keeps_openReadOf {b0 s : State} (h : Keeps b0 s) (via : Via) (index : Nat) (sub : Nat) (r : Nat → Resp) : Keeps b0 (openReadOf s via index sub r).2 := by
  unfold openReadOf
  dsimp only
  repeat' first | with_reducible assumption | with_reducible apply keeps_countDenied | with_reducible apply keeps_openSeg | with_reducible apply keeps_clearRead | split

theorem keeps_doOpenRead {b0 s : State} (h : Keeps b0 s) (via : Via) (m : Kdp) : Keeps b0 (doOpenRead s via m).2 := by
  unfold doOpenRead
  repeat' first | with_reducible assumption | with_reducible apply keeps_openReadOf

theorem keeps_doOpenWrite {b0 s : State} (h : Keeps b0 s) (via : Via) (m : Kdp) : Keeps b0 (doOpenWrite s via m).2 := by
  unfold doOpenWrite
  dsimp only
  repeat' first | with_reducible assumption | with_reducible apply keeps_countDenied | with_reducible apply keeps_openSeg | split

theorem keeps_withSeg {b0 s : State} (h : Keeps b0 s) (via : Via) (m : Kdp) (f : Seg → Resp × State) (hf : ∀ y0, Keeps b0 (f y0).2) : Keeps b0 (withSeg s via m f).2 := by
  unfold withSeg
  dsimp only
  repeat' first | with_reducible assumption | with_reducible apply hf | split

theorem keeps_doSegRead {b0 s : State} (h : Keeps b0 s) (via : Via) (m : Kdp) : Keeps b0 (doSegRead s via m).2 := by
  unfold doSegRead
  repeat' first | with_reducible assumption | with_reducible apply keeps_withSeg | intro _ | split

theorem keeps_commitSeg {b0 s : State} (h : Keeps b0 s) (via : Via) (m : Kdp) (g : Seg) (crc : Nat) : Keeps b0 (commitSeg s via m g crc).2 := by
  unfold commitSeg
  repeat' first | with_reducible assumption | with_reducible apply keeps_abandonSeg | with_reducible apply keeps_writeValue | with_reducible apply keeps_dropSeg | split

theorem keeps_doSegWrite {b0 s : State} (h : Keeps b0 s) (via : Via) (m : Kdp) : Keeps b0 (doSegWrite s via m).2 := by
  unfold doSegWrite
  dsimp only
  repeat' first | with_reducible assumption | with_reducible apply keeps_withSeg | with_reducible apply keeps_abandonSeg | with_reducible apply keeps_commitSeg | (simp only [keeps_mk_iff]; with_reducible apply keepsVia_left) | intro _ | split

theorem keeps_doClose {b0 s : State} (h : Keeps b0 s) (via : Via) (m : Kdp) : Keeps b0 (doClose s via m).2 := by
  unfold doClose
  repeat' first | with_reducible assumption | with_reducible apply keeps_withSeg | with_reducible apply keeps_abandonSeg | intro _

theorem keeps_runKind {b0 s : State} (h : Keeps b0 s) (via : Via) (m : Kdp) : Keeps b0 (runKind s via m).2 := by
  unfold runKind
  repeat' first | with_reducible assumption | with_reducible apply keeps_doRead | with_reducible apply keeps_doWriteMsg | with_reducible apply keeps_doDescribe | with_reducible apply keeps_doOpenRead | with_reducible apply keeps_doOpenWrite | with_reducible apply keeps_doSegRead | with_reducible apply keeps_doSegWrite | with_reducible apply keeps_doClose | split

theorem keeps_afterResponse {b0 s : State} (h : Keeps b0 s) : Keeps b0 (afterResponse s) := by
  unfold afterResponse
  repeat' first | with_reducible assumption | with_reducible apply keeps_endAllDtls | with_reducible apply keeps_ite | (simp only [keeps_mk_iff]; with_reducible apply keepsVia_left) | intro _

theorem keeps_runMgmt {b0 s : State} (h : Keeps b0 s) (n : Nat) (m : Kdp) : Keeps b0 (runMgmt s n m) := by
  unfold runMgmt
  repeat' first | with_reducible assumption | with_reducible apply keeps_runKind | with_reducible apply keeps_emit | with_reducible apply keeps_afterResponse | with_reducible apply keeps_ite | (simp only [keeps_mk_iff]; with_reducible apply keepsVia_left) | intro _

theorem keeps_holdRequest {b0 s : State} (h : Keeps b0 s) (n : Nat) (m : Kdp) : Keeps b0 (holdRequest s n m) := by
  unfold holdRequest
  repeat' first | with_reducible assumption | (simp only [keeps_mk_iff]; with_reducible apply keepsVia_left)

theorem keeps_serveMgmt {b0 s : State} (h : Keeps b0 s) (n : Nat) (m : Kdp) : Keeps b0 (serveMgmt s n m) := by
  unfold serveMgmt
  repeat' first | with_reducible assumption | with_reducible apply keeps_emit | with_reducible apply keeps_holdRequest | with_reducible apply keeps_runMgmt | intro _ | split

theorem keeps_serveMessage {b0 s : State} (h : Keeps b0 s) (via : Via) (m : Kdp) : Keeps b0 (serveMessage s via m) := by
  unfold serveMessage
  repeat' first | with_reducible assumption | with_reducible apply keeps_emit | with_reducible apply keeps_serveMgmt | with_reducible apply keeps_runKind | intro _ | split

theorem keeps_serve {b0 s : State} (h : Keeps b0 s) (via : Via) (m : Kdp) (kind : Nat) : Keeps b0 (serve s via m kind) := by
  unfold serve
  repeat' first | with_reducible assumption | with_reducible apply keeps_dropRequest | with_reducible apply keeps_serveMessage | with_reducible apply keeps_ite | intro _

theorem keeps_execRead {b0 s : State} (h : Keeps b0 s) (via : Via) (m : Kdp) : Keeps b0 (outState s (execRead via m s)) := by
  unfold execRead
  repeat' first | with_reducible assumption | rw [outState_next] | with_reducible apply keeps_serve

theorem keeps_execWrite {b0 s : State} (h : Keeps b0 s) (via : Via) (m : Kdp) : Keeps b0 (outState s (execWrite via m s)) := by
  unfold execWrite
  repeat' first | with_reducible assumption | rw [outState_next] | with_reducible apply keeps_serve

theorem keeps_execDescribe {b0 s : State} (h : Keeps b0 s) (via : Via) (m : Kdp) : Keeps b0 (outState s (execDescribe via m s)) := by
  unfold execDescribe
  repeat' first | with_reducible assumption | rw [outState_next] | with_reducible apply keeps_serve

theorem keeps_execOpenRead {b0 s : State} (h : Keeps b0 s) (via : Via) (m : Kdp) : Keeps b0 (outState s (execOpenRead via m s)) := by
  unfold execOpenRead
  repeat' first | with_reducible assumption | rw [outState_next] | with_reducible apply keeps_serve

theorem keeps_execOpenWrite {b0 s : State} (h : Keeps b0 s) (via : Via) (m : Kdp) : Keeps b0 (outState s (execOpenWrite via m s)) := by
  unfold execOpenWrite
  repeat' first | with_reducible assumption | rw [outState_next] | with_reducible apply keeps_serve

theorem keeps_execSegRead {b0 s : State} (h : Keeps b0 s) (via : Via) (m : Kdp) : Keeps b0 (outState s (execSegRead via m s)) := by
  unfold execSegRead
  repeat' first | with_reducible assumption | rw [outState_next] | with_reducible apply keeps_serve

theorem keeps_execSegWrite {b0 s : State} (h : Keeps b0 s) (via : Via) (m : Kdp) : Keeps b0 (outState s (execSegWrite via m s)) := by
  unfold execSegWrite
  repeat' first | with_reducible assumption | rw [outState_next] | with_reducible apply keeps_serve

theorem keeps_execClose {b0 s : State} (h : Keeps b0 s) (via : Via) (m : Kdp) : Keeps b0 (outState s (execClose via m s)) := by
  unfold execClose
  repeat' first | with_reducible assumption | rw [outState_next] | with_reducible apply keeps_serve

theorem keeps_execSessionTimeout {b0 s : State} (h : Keeps b0 s) (session : Nat) : Keeps b0 (outState s (execSessionTimeout session s)) := by
  unfold execSessionTimeout
  repeat' first | with_reducible assumption | rw [outState_next] | with_reducible apply keeps_abandonSeg | with_reducible apply keeps_ite | intro _

theorem keeps_execMemReadData {b0 s : State} (h : Keeps b0 s) (via : Via) (m : Kdp) : Keeps b0 (outState s (execMemReadData via m s)) := by
  unfold execMemReadData
  repeat' first | with_reducible assumption | rw [outState_next] | with_reducible apply keeps_serve | with_reducible apply keeps_ite | intro _

theorem keeps_execTreadExportChunk {b0 s : State} (h : Keeps b0 s) (via : Via) : Keeps b0 (outState s (execTreadExportChunk via s)) := by
  unfold execTreadExportChunk
  repeat' first | with_reducible assumption | rw [outState_next] | with_reducible apply keeps_dropRequest | with_reducible apply keeps_holdRequest | with_reducible apply keeps_doOpenRead | with_reducible apply keeps_emit | intro _ | split

theorem keeps_execPendingKeyReplace {b0 s : State} (h : Keeps b0 s) (slot : Nat) : Keeps b0 (outState s (execPendingKeyReplace slot s)) := by
  unfold execPendingKeyReplace
  repeat' first | with_reducible assumption | rw [outState_next] | with_reducible apply keeps_replacePending | with_reducible apply keeps_runMgmt | with_reducible apply keeps_ite | with_reducible apply keeps_foldl | (simp only [keeps_mk_iff]; with_reducible apply keepsVia_left) | intro _

theorem keeps_serveChannel {b0 s : State} (h : Keeps b0 s) (c : Nat) (srcChip : Nat) : Keeps b0 (serveChannel s c srcChip) := by
  unfold serveChannel
  dsimp only
  repeat' first | with_reducible assumption | with_reducible apply keeps_hbmWrite | with_reducible apply keeps_runKind | with_reducible apply keeps_emit | with_reducible apply keeps_rinc | intro _ | split

theorem keeps_serveMailboxes {b0 s : State} (h : Keeps b0 s) : Keeps b0 (serveMailboxes s) := by
  unfold serveMailboxes
  repeat' first | with_reducible assumption | with_reducible apply keeps_serveChannel | with_reducible apply keeps_ite | with_reducible apply keeps_foldl | intro _

theorem keeps_execMailboxDoorbell {b0 s : State} (h : Keeps b0 s) (channel : Nat) (srcChip : Nat) : Keeps b0 (outState s (execMailboxDoorbell channel srcChip s)) := by
  unfold execMailboxDoorbell
  repeat' first | with_reducible assumption | rw [outState_next] | with_reducible apply keeps_serveChannel | with_reducible apply keeps_ite | (simp only [keeps_mk_iff]; with_reducible apply keepsVia_left) | intro _

theorem keeps_alertSampleOp {b0 s : State} (h : Keeps b0 s) (high : Bool) : Keeps b0 (alertSampleOp s high) := by
  unfold alertSampleOp
  repeat' first | with_reducible assumption | with_reducible apply keeps_emit | with_reducible apply keeps_ite | (simp only [keeps_mk_iff]; with_reducible apply keepsVia_left) | intro _

theorem keeps_execAlertSample {b0 s : State} (h : Keeps b0 s) (high : Bool) : Keeps b0 (outState s (execAlertSample high s)) := by
  unfold execAlertSample
  repeat' first | with_reducible assumption | rw [outState_next] | with_reducible apply keeps_alertSampleOp

theorem keeps_execAlertStuck {b0 s : State} (h : Keeps b0 s) : Keeps b0 (outState s (execAlertStuck s)) := by
  unfold execAlertStuck
  repeat' first | with_reducible assumption | rw [outState_next] | with_reducible apply keeps_rinc | with_reducible apply keeps_notice | with_reducible apply keeps_ite | (simp only [keeps_mk_iff]; with_reducible apply keepsVia_left) | intro _

theorem keeps_notifyOne {b0 s : State} (h : Keeps b0 s) (n : Nat) : Keeps b0 (notifyOne s n) := by
  unfold notifyOne
  repeat' first | with_reducible assumption | with_reducible apply keeps_emit | (simp only [keeps_mk_iff]; with_reducible apply keepsVia_left)

theorem keeps_execNotify {b0 s : State} (h : Keeps b0 s) : Keeps b0 (outState s (execNotify s)) := by
  unfold execNotify
  repeat' first | with_reducible assumption | rw [outState_next] | with_reducible apply keeps_notifyOne | with_reducible apply keeps_ite | with_reducible apply keeps_foldl | intro _

theorem keeps_execMgmtLinkUp {b0 s : State} (h : Keeps b0 s) : Keeps b0 (outState s (execMgmtLinkUp s)) := by
  unfold execMgmtLinkUp
  repeat' first | with_reducible assumption | rw [outState_next] | with_reducible apply keeps_ite | (simp only [keeps_mk_iff]; with_reducible apply keepsVia_left) | intro _

theorem keeps_execMgmtLinkSyncLost {b0 s : State} (h : Keeps b0 s) : Keeps b0 (outState s (execMgmtLinkSyncLost s)) := by
  unfold execMgmtLinkSyncLost
  repeat' first | with_reducible assumption | rw [outState_next] | with_reducible apply keeps_endAllDtls | with_reducible apply keeps_rinc | with_reducible apply keeps_ite | (simp only [keeps_mk_iff]; with_reducible apply keepsVia_left) | intro _

theorem keeps_execDtlsHandshake {b0 s : State} (h : Keeps b0 s) (chainOk : Bool) (anchor : Option (List Byte)) : Keeps b0 (outState s (execDtlsHandshake chainOk anchor s)) := by
  unfold execDtlsHandshake
  repeat' first | with_reducible assumption | rw [outState_next] | with_reducible apply keeps_rinc | (simp only [keeps_mk_iff]; with_reducible apply keepsVia_left) | intro _ | split

theorem keeps_execDtlsSessionClose {b0 s : State} (h : Keeps b0 s) (session : Nat) : Keeps b0 (outState s (execDtlsSessionClose session s)) := by
  unfold execDtlsSessionClose
  repeat' first | with_reducible assumption | rw [outState_next] | with_reducible apply keeps_endDtls | with_reducible apply keeps_ite | intro _

theorem keeps_execIcmpv6Request {b0 s : State} (h : Keeps b0 s) (target : List Byte) (echo : Bool) : Keeps b0 (outState s (execIcmpv6Request target echo s)) := by
  unfold execIcmpv6Request
  repeat' first | with_reducible assumption | rw [outState_next] | with_reducible apply keeps_emit | with_reducible apply keeps_ite | intro _

theorem keeps_execCobblerTakeover {b0 s : State} (h : Keeps b0 s) : Keeps b0 (outState s (execCobblerTakeover s)) := by
  unfold execCobblerTakeover
  repeat' first | with_reducible assumption | rw [outState_next] | with_reducible apply keeps_endEverySession | with_reducible apply keeps_resumeMirror

theorem keeps_execDiesDone {b0 s : State} (h : Keeps b0 s) (clearOk : List Nat) (ms : Nat) : Keeps b0 (outState s (execDiesDone clearOk ms s)) := by
  unfold execDiesDone
  repeat' first | with_reducible assumption | rw [outState_next] | with_reducible apply keeps_startColdClear | with_reducible apply keeps_setBoot | with_reducible apply keeps_serveMailboxes | with_reducible apply keeps_restartBoundary | with_reducible apply keeps_rerunChange | with_reducible apply keeps_ite | intro _

theorem keeps_execMemoryClearDone {b0 s : State} (h : Keeps b0 s) (us : Nat) (failedStack : Option Nat) (clearOk : List Nat) (ms : Nat) : Keeps b0 (outState s (execMemoryClearDone us failedStack clearOk ms s)) := by
  unfold execMemoryClearDone
  repeat' first | with_reducible assumption | rw [outState_next] | with_reducible apply keeps_serveMailboxes | with_reducible apply keeps_restartBoundary | with_reducible apply keeps_endColdClear | with_reducible apply keeps_ite | intro _

end Sys2Proof.Machine
end

