-- ==== Sys2Proof/Laws/KeepsExec.lean ====
section
/-! SUPPORT. Every command keeps what every operation keeps: the queue, the outbox, the free values given, and the canonical forms. -/

namespace Sys2Proof.Machine

theorem keeps_exec {b0 s : State} (hk : Keeps b0 s) (i : Instr) : Keeps b0 (outState s (exec i s)) :=
  match i with
  | .toneDetected tone => keeps_execToneDetected hk tone
  | .refLockAcquired offsetPpb => keeps_execRefLockAcquired hk offsetPpb
  | .toneLostInAcquire => keeps_execToneLostInAcquire hk
  | .refHoldoverEntry => keeps_execRefHoldoverEntry hk
  | .refHoldoverRecovery tone => keeps_execRefHoldoverRecovery hk tone
  | .refLost => keeps_execRefLost hk
  | .refReacquire tone => keeps_execRefReacquire hk tone
  | .beatTick => keeps_execBeatTick hk
  | .wallAnchorWrite via ns => keeps_execWallAnchorWrite hk via ns
  | .readyReceived p => keeps_execReadyReceived hk p
  | .go eyelet lane slot => keeps_execGo hk eyelet lane slot
  | .goRelay => keeps_execGoRelay hk
  | .syncTimeout => keeps_execSyncTimeout hk
  | .launchBeatReached => keeps_execLaunchBeatReached hk
  | .idle tile => keeps_execIdle hk tile
  | .pass tile array entry => keeps_execPass hk tile array entry
  | .passStreamStart tile array => keeps_execPassStreamStart hk tile array
  | .passComplete tile array => keeps_execPassComplete hk tile array
  | .func tile entry => keeps_execFunc hk tile entry
  | .rowFuncComplete tile => keeps_execRowFuncComplete hk tile
  | .vectorOpComplete tile => keeps_execVectorOpComplete hk tile
  | .copyRecord tile stitcher desc => keeps_execCopyRecord hk tile stitcher desc
  | .window tile slot action image => keeps_execWindow hk tile slot action image
  | .laceRecord tile entry => keeps_execLaceRecord hk tile entry
  | .arrive tile group => keeps_execArrive hk tile group
  | .signalRecord tile sem => keeps_execSignalRecord hk tile sem
  | .inboundPacketHead tile h => keeps_execInboundPacketHead hk tile h
  | .tileZeroiseDone phys ok cycles => keeps_execTileZeroiseDone hk phys ok cycles
  | .queueCopyStart tile stitcher => keeps_execQueueCopyStart hk tile stitcher
  | .privilegedCopyStart n block => keeps_execPrivilegedCopyStart hk n block
  | .txBufferPlace ctx => keeps_execTxBufferPlace hk ctx
  | .copyComplete ctx => keeps_execCopyComplete hk ctx
  | .copyDeadlineMissed ctx => keeps_execCopyDeadlineMissed hk ctx
  | .xlateInvalidate via v => keeps_execXlateInvalidate hk via v
  | .xlateRootWrite via v => keeps_execXlateRootWrite hk via v
  | .frameStart stack pc sched maint unsched => keeps_execFrameStart hk stack pc sched maint unsched
  | .patrolScrubRead symbolErrors position newerWrite => keeps_execPatrolScrubRead hk symbolErrors position newerWrite
  | .hbmScrubDone us failedStack => keeps_execHbmScrubDone hk us failedStack
  | .regulatorArrival die now r => keeps_execRegulatorArrival hk die now r
  | .regulatorAdmit die part now => keeps_execRegulatorAdmit hk die part now
  | .regulatorHoldExpiry die part now => keeps_execRegulatorHoldExpiry hk die part now
  | .partitionCommit via v => keeps_execPartitionCommit hk via v
  | .homeSliceWrite addr data enables => keeps_execHomeSliceWrite hk addr data enables
  | .atomic addr op width value compare => keeps_execAtomic hk addr op width value compare
  | .accStore addr fmt data enables => keeps_execAccStore hk addr fmt data enables
  | .packetSend dst => keeps_execPacketSend hk dst
  | .packetArrival eyelet lane nowUs p => keeps_execPacketArrival hk eyelet lane nowUs p
  | .reorderHoldExpiry src => keeps_execReorderHoldExpiry hk src
  | .acknowledgement src => keeps_execAcknowledgement hk src
  | .ackReceived p => keeps_execAckReceived hk p
  | .ackTimeout dst => keeps_execAckTimeout hk dst
  | .schedBlockRelease eyelet lane pos schedBeat data => keeps_execSchedBlockRelease hk eyelet lane pos schedBeat data
  | .routeHead port vc cls => keeps_execRouteHead hk port vc cls
  | .routeWaitRetry port vc cls => keeps_execRouteWaitRetry hk port vc cls
  | .headGrant eyelet lane vc cls => keeps_execHeadGrant hk eyelet lane vc cls
  | .routeShadowWrite via v => keeps_execRouteShadowWrite hk via v
  | .routeEntryWrite via v => keeps_execRouteEntryWrite hk via v
  | .routeCopy via v => keeps_execRouteCopy hk via v
  | .routeSwapRelease via => keeps_execRouteSwapRelease hk via
  | .routeSwapHold via => keeps_execRouteSwapHold hk via
  | .routeSwapExchange => keeps_execRouteSwapExchange hk
  | .swapDrainTimeout => keeps_execSwapDrainTimeout hk
  | .routeRelease via v => keeps_execRouteRelease hk via v
  | .routeHoldExpiry => keeps_execRouteHoldExpiry hk
  | .laserMeasurement die aCdbm bCdbm depths txCdbm => keeps_execLaserMeasurement hk die aCdbm bCdbm depths txCdbm
  | .laserInputLost die input => keeps_execLaserInputLost hk die input
  | .laserSwitchComplete die => keeps_execLaserSwitchComplete hk die
  | .laserDarkRecovery die => keeps_execLaserDarkRecovery hk die
  | .laserRevert die => keeps_execLaserRevert hk die
  | .laserSelectReq via die v => keeps_execLaserSelectReq hk via die v
  | .fitPassStart eyelet lane => keeps_execFitPassStart hk eyelet lane
  | .fitSolve eyelet lane mod flt => keeps_execFitSolve hk eyelet lane mod flt
  | .fitCheckEnd eyelet lane ok phaseStep => keeps_execFitCheckEnd hk eyelet lane ok phaseStep
  | .fitPassEnd eyelet lane => keeps_execFitPassEnd hk eyelet lane
  | .tableStale eyelet lane ageMs => keeps_execTableStale hk eyelet lane ageMs
  | .fullSearch via eyelet v => keeps_execFullSearch hk via eyelet v
  | .fullSearchDone eyelet found => keeps_execFullSearchDone hk eyelet found
  | .laneBlockSlot eyelet lane pos => keeps_execLaneBlockSlot hk eyelet lane pos
  | .laneBlockReceived eyelet lane block => keeps_execLaneBlockReceived hk eyelet lane block
  | .replayTimeout eyelet lane => keeps_execReplayTimeout hk eyelet lane
  | .mendExhausted eyelet lane => keeps_execMendExhausted hk eyelet lane
  | .slackExpiry eyelet lane bsn => keeps_execSlackExpiry hk eyelet lane bsn
  | .trainStart eyelet lane => keeps_execTrainStart hk eyelet lane
  | .signalDetected eyelet lane cdbm => keeps_execSignalDetected hk eyelet lane cdbm
  | .phaseScanDone eyelet lane clean => keeps_execPhaseScanDone hk eyelet lane clean
  | .alignDone eyelet lane => keeps_execAlignDone hk eyelet lane
  | .alignTimeout eyelet lane => keeps_execAlignTimeout hk eyelet lane
  | .echo eyelet lane stamp turnaroundPs => keeps_execEcho hk eyelet lane stamp turnaroundPs
  | .echoReply eyelet lane stamp roundTripPs turnaroundPs => keeps_execEchoReply hk eyelet lane stamp roundTripPs turnaroundPs
  | .latencySet eyelet lane => keeps_execLatencySet hk eyelet lane
  | .echoTimeout eyelet lane => keeps_execEchoTimeout hk eyelet lane
  | .beaconReceived eyelet lane b => keeps_execBeaconReceived hk eyelet lane b
  | .linkReady eyelet lane => keeps_execLinkReady hk eyelet lane
  | .quarantineTimeout eyelet lane => keeps_execQuarantineTimeout hk eyelet lane
  | .trainRetry eyelet lane => keeps_execTrainRetry hk eyelet lane
  | .pause eyelet lane dir target => keeps_execPause hk eyelet lane dir target
  | .resume eyelet lane dir target => keeps_execResume hk eyelet lane dir target
  | .pauseTimeout eyelet lane => keeps_execPauseTimeout hk eyelet lane
  | .beaconTimer eyelet lane => keeps_execBeaconTimer hk eyelet lane
  | .planCommit via v => keeps_execPlanCommit hk via v
  | .loadLast queue id => keeps_execLoadLast hk queue id
  | .loadVerify => keeps_execLoadVerify hk
  | .launch queue id => keeps_execLaunch hk queue id
  | .lastUnload via slot => keeps_execLastUnload hk via slot
  | .stepStart => keeps_execStepStart hk
  | .snapshotComplete => keeps_execSnapshotComplete hk
  | .pacePoint unsampledMw => keeps_execPacePoint hk unsampledMw
  | .stretchApply => keeps_execStretchApply hk
  | .lastEnd => keeps_execLastEnd hk
  | .endingDone => keeps_execEndingDone hk
  | .queueDoorbell queue => keeps_execQueueDoorbell hk queue
  | .queueEnable via queue => keeps_execQueueEnable hk via queue
  | .queueDisable via queue => keeps_execQueueDisable hk via queue
  | .queueResume via queue => keeps_execQueueResume hk via queue
  | .queueDrained queue => keeps_execQueueDrained hk queue
  | .commandStart engine => keeps_execCommandStart hk engine
  | .copy queue id => keeps_execCopy hk queue id
  | .fill queue id => keeps_execFill hk queue id
  | .fence queue id => keeps_execFence hk queue id
  | .signal queue id => keeps_execSignal hk queue id
  | .wait queue id => keeps_execWait hk queue id
  | .waitTimeout queue id => keeps_execWaitTimeout hk queue id
  | .barrier queue id => keeps_execBarrier hk queue id
  | .reduceScalar queue id => keeps_execReduceScalar hk queue id
  | .timestamp queue id => keeps_execTimestamp hk queue id
  | .snapshot queue id => keeps_execSnapshot hk queue id
  | .tryOn queue id => keeps_execTryOn hk queue id
  | .commandComplete queue id => keeps_execCommandComplete hk queue id
  | .mgmtCommand via bytes => keeps_execMgmtCommand hk via bytes
  | .laceMessageReceived eyelet lane pos schedBeat msg => keeps_execLaceMessageReceived hk eyelet lane pos schedBeat msg
  | .laceDeadlineMissed tile entry => keeps_execLaceDeadlineMissed hk tile entry
  | .lacePacket p => keeps_execLacePacket hk p
  | .laceTimeout set => keeps_execLaceTimeout hk set
  | .laceTakeover => keeps_execLaceTakeover hk
  | .laceEnable via set v => keeps_execLaceEnable hk via set v
  | .bulkCopy src remote len dst => keeps_execBulkCopy hk src remote len dst
  | .bulkDigest src remote len set => keeps_execBulkDigest hk src remote len set
  | .senseSample x => keeps_execSenseSample hk x
  | .senseOpen die => keeps_execSenseOpen hk die
  | .returnCheck => keeps_execReturnCheck hk
  | .dieDead die => keeps_execDieDead hk die
  | .modelStep => keeps_execModelStep hk
  | .coolantWrite via mc => keeps_execCoolantWrite hk via mc
  | .coolantStale => keeps_execCoolantStale hk
  | .thermalEval diodesMc => keeps_execThermalEval hk diodesMc
  | .thermalRelease via v => keeps_execThermalRelease hk via v
  | .governorBeat measuredMa inputMa reversed => keeps_execGovernorBeat hk measuredMa inputMa reversed
  | .powerWindow unsampledMw => keeps_execPowerWindow hk unsampledMw
  | .pwrOkFall => keeps_execPwrOkFall hk
  | .pwrOkRise straps slotId msSinceStep0 => keeps_execPwrOkRise hk straps slotId msSinceStep0
  | .railFault rail high => keeps_execRailFault hk rail high
  | .weltFlitReceived die port f => keeps_execWeltFlitReceived hk die port f
  | .weltTrainingDone die port failed oneHalf timedOut commonRev => keeps_execWeltTrainingDone hk die port failed oneHalf timedOut commonRev
  | .weltRetry die port => keeps_execWeltRetry hk die port
  | .weltRetrain die port => keeps_execWeltRetrain hk die port
  | .heartbeat die => keeps_execHeartbeat hk die
  | .weltSelftest via phys => keeps_execWeltSelftest hk via phys
  | .selftestDone r => keeps_execSelftestDone hk r
  | .peerSetWrite via v => keeps_execPeerSetWrite hk via v
  | .tenantChange via v => keeps_execTenantChange hk via v
  | .tenantChangeComplete us => keeps_execTenantChangeComplete hk us
  | .fwImageStage via img => keeps_execFwImageStage hk via img
  | .fwActivate via v => keeps_execFwActivate hk via v
  | .fwActivationDone components => keeps_execFwActivationDone hk components
  | .fwRollbackCommit via v => keeps_execFwRollbackCommit hk via v
  | .attestNonce via nonce => keeps_execAttestNonce hk via nonce
  | .keySlotWrite via env => keeps_execKeySlotWrite hk via env
  | .keySlotErase via slot => keeps_execKeySlotErase hk via slot
  | .pendingKeyReplace slot => keeps_execPendingKeyReplace hk slot
  | .sealInstall via v => keeps_execSealInstall hk via v
  | .installDone => keeps_execInstallDone hk
  | .sealStart eyelet lane payload => keeps_execSealStart hk eyelet lane payload
  | .sealTag eyelet lane w0 w1 rest => keeps_execSealTag hk eyelet lane w0 w1 rest
  | .sealTagTimeout eyelet lane window => keeps_execSealTagTimeout hk eyelet lane window
  | .mgmtAnchorsWrite via v => keeps_execMgmtAnchorsWrite hk via v
  | .read via m => keeps_execRead hk via m
  | .write via m => keeps_execWrite hk via m
  | .describe via m => keeps_execDescribe hk via m
  | .openRead via m => keeps_execOpenRead hk via m
  | .openWrite via m => keeps_execOpenWrite hk via m
  | .segRead via m => keeps_execSegRead hk via m
  | .segWrite via m => keeps_execSegWrite hk via m
  | .close via m => keeps_execClose hk via m
  | .sessionTimeout session => keeps_execSessionTimeout hk session
  | .memReadData via m => keeps_execMemReadData hk via m
  | .mailboxDoorbell channel srcChip => keeps_execMailboxDoorbell hk channel srcChip
  | .alertAck via v => keeps_execAlertAck hk via v
  | .alertSample high => keeps_execAlertSample hk high
  | .alertStuck => keeps_execAlertStuck hk
  | .alertLineEnable via v tenHigh => keeps_execAlertLineEnable hk via v tenHigh
  | .notify => keeps_execNotify hk
  | .rstN => keeps_execRstN hk
  | .restartRequest via v => keeps_execRestartRequest hk via v
  | .coldReset => keeps_execColdReset hk
  | .romBootDone banks components => keeps_execRomBootDone hk banks components
  | .recoveryImage img components => keeps_execRecoveryImage hk img components
  | .diesDone clearOk ms => keeps_execDiesDone hk clearOk ms
  | .memoryClearDone us failedStack clearOk ms => keeps_execMemoryClearDone hk us failedStack clearOk ms
  | .bringupTimeout => keeps_execBringupTimeout hk
  | .calibFlashWrite ok => keeps_execCalibFlashWrite hk ok
  | .tileFenceReq via phys => keeps_execTileFenceReq hk via phys
  | .exclusionClear via v => keeps_execExclusionClear hk via v
  | .fault p => keeps_execFault hk p
  | .coordinatorRollback => keeps_execCoordinatorRollback hk
  | .rollback p => keeps_execRollback hk p
  | .rollbackWaitExpiry => keeps_execRollbackWaitExpiry hk
  | .restoreDone ok => keeps_execRestoreDone hk ok
  | .treadReplayInput => keeps_execTreadReplayInput hk
  | .replayEnd => keeps_execReplayEnd hk
  | .snapshotRestore via v => keeps_execSnapshotRestore hk via v
  | .faultEpochWrite via v => keeps_execFaultEpochWrite hk via v
  | .faultAck via chip => keeps_execFaultAck hk via chip
  | .reportHoldoffExpiry => keeps_execReportHoldoffExpiry hk
  | .peerLost chip => keeps_execPeerLost hk chip
  | .tryonTimer => keeps_execTryonTimer hk
  | .tryonInject => keeps_execTryonInject hk
  | .tryonRecoveryTimeout => keeps_execTryonRecoveryTimeout hk
  | .traceBlock => keeps_execTraceBlock hk
  | .traceLostRecord => keeps_execTraceLostRecord hk
  | .beatMark => keeps_execBeatMark hk
  | .digestEmit tile => keeps_execDigestEmit hk tile
  | .treadFreeze via => keeps_execTreadFreeze hk via
  | .treadUnfreeze via => keeps_execTreadUnfreeze hk via
  | .treadExportChunk via => keeps_execTreadExportChunk hk via
  | .treadReplay via v => keeps_execTreadReplay hk via v
  | .rstNRelease writebackUs => keeps_execRstNRelease hk writebackUs
  | .mgmtLinkUp => keeps_execMgmtLinkUp hk
  | .mgmtLinkSyncLost => keeps_execMgmtLinkSyncLost hk
  | .dtlsHandshake chainOk anchor => keeps_execDtlsHandshake hk chainOk anchor
  | .dtlsSessionClose session => keeps_execDtlsSessionClose hk session
  | .icmpv6Request target echo => keeps_execIcmpv6Request hk target echo
  | .cobblerTakeover => keeps_execCobblerTakeover hk
  | .aonPowerLoss => keeps_execAonPowerLoss hk
  | .snapshotRestoreDone ok => keeps_execSnapshotRestoreDone hk ok
  | .attestReportReady => keeps_execAttestReportReady hk

/-- Whatever a command does, it does none of what no operation does. -/
theorem keeps_of_exec {s t : State} {c : Instr} (e : exec c s = .next t) : Keeps s t := by
  have h := keeps_exec (keeps_refl s) c
  rw [e] at h
  exact h

end Sys2Proof.Machine
end

