-- ==== Sys2Proof/Laws/State.lean ====
section
/-! SUPPORT. What each named update of State leaves as it was, and what it writes: one lemma for each field of each update, so that no proof unfolds
a record update. -/

namespace Sys2Proof.Machine

/-! ### rset -/

@[simp] theorem rset_pending (s : State) (r : Reg) (v : Nat) : (rset s r v).pending = s.pending := rfl
@[simp] theorem rset_out (s : State) (r : Reg) (v : Nat) : (rset s r v).out = s.out := rfl
@[simp] theorem rset_draws (s : State) (r : Reg) (v : Nat) : (rset s r v).draws = s.draws := rfl
@[simp] theorem rset_clock (s : State) (r : Reg) (v : Nat) : (rset s r v).clock = s.clock := rfl
@[simp] theorem rset_phys (s : State) (r : Reg) (v : Nat) : (rset s r v).phys = s.phys := rfl
@[simp] theorem rset_tiles (s : State) (r : Reg) (v : Nat) : (rset s r v).tiles = s.tiles := rfl
@[simp] theorem rset_stitch (s : State) (r : Reg) (v : Nat) : (rset s r v).stitch = s.stitch := rfl
@[simp] theorem rset_hbm (s : State) (r : Reg) (v : Nat) : (rset s r v).hbm = s.hbm := rfl
@[simp] theorem rset_fabric (s : State) (r : Reg) (v : Nat) : (rset s r v).fabric = s.fabric := rfl
@[simp] theorem rset_router (s : State) (r : Reg) (v : Nat) : (rset s r v).router = s.router := rfl
@[simp] theorem rset_optics (s : State) (r : Reg) (v : Nat) : (rset s r v).optics = s.optics := rfl
@[simp] theorem rset_lanes (s : State) (r : Reg) (v : Nat) : (rset s r v).lanes = s.lanes := rfl
@[simp] theorem rset_plan (s : State) (r : Reg) (v : Nat) : (rset s r v).plan = s.plan := rfl
@[simp] theorem rset_last (s : State) (r : Reg) (v : Nat) : (rset s r v).last = s.last := rfl
@[simp] theorem rset_queues (s : State) (r : Reg) (v : Nat) : (rset s r v).queues = s.queues := rfl
@[simp] theorem rset_power (s : State) (r : Reg) (v : Nat) : (rset s r v).power = s.power := rfl
@[simp] theorem rset_pkg (s : State) (r : Reg) (v : Nat) : (rset s r v).pkg = s.pkg := rfl
@[simp] theorem rset_tenancy (s : State) (r : Reg) (v : Nat) : (rset s r v).tenancy = s.tenancy := rfl
@[simp] theorem rset_mgmt (s : State) (r : Reg) (v : Nat) : (rset s r v).mgmt = s.mgmt := rfl
@[simp] theorem rset_reset' (s : State) (r : Reg) (v : Nat) : (rset s r v).reset' = s.reset' := rfl
@[simp] theorem rset_faults (s : State) (r : Reg) (v : Nat) : (rset s r v).faults = s.faults := rfl
@[simp] theorem rset_trace (s : State) (r : Reg) (v : Nat) : (rset s r v).trace = s.trace := rfl

/-! ### radd -/

@[simp] theorem radd_pending (s : State) (r : Reg) (n : Nat) : (radd s r n).pending = s.pending := rfl
@[simp] theorem radd_out (s : State) (r : Reg) (n : Nat) : (radd s r n).out = s.out := rfl
@[simp] theorem radd_draws (s : State) (r : Reg) (n : Nat) : (radd s r n).draws = s.draws := rfl
@[simp] theorem radd_clock (s : State) (r : Reg) (n : Nat) : (radd s r n).clock = s.clock := rfl
@[simp] theorem radd_phys (s : State) (r : Reg) (n : Nat) : (radd s r n).phys = s.phys := rfl
@[simp] theorem radd_tiles (s : State) (r : Reg) (n : Nat) : (radd s r n).tiles = s.tiles := rfl
@[simp] theorem radd_stitch (s : State) (r : Reg) (n : Nat) : (radd s r n).stitch = s.stitch := rfl
@[simp] theorem radd_hbm (s : State) (r : Reg) (n : Nat) : (radd s r n).hbm = s.hbm := rfl
@[simp] theorem radd_fabric (s : State) (r : Reg) (n : Nat) : (radd s r n).fabric = s.fabric := rfl
@[simp] theorem radd_router (s : State) (r : Reg) (n : Nat) : (radd s r n).router = s.router := rfl
@[simp] theorem radd_optics (s : State) (r : Reg) (n : Nat) : (radd s r n).optics = s.optics := rfl
@[simp] theorem radd_lanes (s : State) (r : Reg) (n : Nat) : (radd s r n).lanes = s.lanes := rfl
@[simp] theorem radd_plan (s : State) (r : Reg) (n : Nat) : (radd s r n).plan = s.plan := rfl
@[simp] theorem radd_last (s : State) (r : Reg) (n : Nat) : (radd s r n).last = s.last := rfl
@[simp] theorem radd_queues (s : State) (r : Reg) (n : Nat) : (radd s r n).queues = s.queues := rfl
@[simp] theorem radd_power (s : State) (r : Reg) (n : Nat) : (radd s r n).power = s.power := rfl
@[simp] theorem radd_pkg (s : State) (r : Reg) (n : Nat) : (radd s r n).pkg = s.pkg := rfl
@[simp] theorem radd_tenancy (s : State) (r : Reg) (n : Nat) : (radd s r n).tenancy = s.tenancy := rfl
@[simp] theorem radd_mgmt (s : State) (r : Reg) (n : Nat) : (radd s r n).mgmt = s.mgmt := rfl
@[simp] theorem radd_reset' (s : State) (r : Reg) (n : Nat) : (radd s r n).reset' = s.reset' := rfl
@[simp] theorem radd_faults (s : State) (r : Reg) (n : Nat) : (radd s r n).faults = s.faults := rfl
@[simp] theorem radd_trace (s : State) (r : Reg) (n : Nat) : (radd s r n).trace = s.trace := rfl

/-! ### rinc -/

@[simp] theorem rinc_pending (s : State) (r : Reg) : (rinc s r).pending = s.pending := rfl
@[simp] theorem rinc_out (s : State) (r : Reg) : (rinc s r).out = s.out := rfl
@[simp] theorem rinc_draws (s : State) (r : Reg) : (rinc s r).draws = s.draws := rfl
@[simp] theorem rinc_clock (s : State) (r : Reg) : (rinc s r).clock = s.clock := rfl
@[simp] theorem rinc_phys (s : State) (r : Reg) : (rinc s r).phys = s.phys := rfl
@[simp] theorem rinc_tiles (s : State) (r : Reg) : (rinc s r).tiles = s.tiles := rfl
@[simp] theorem rinc_stitch (s : State) (r : Reg) : (rinc s r).stitch = s.stitch := rfl
@[simp] theorem rinc_hbm (s : State) (r : Reg) : (rinc s r).hbm = s.hbm := rfl
@[simp] theorem rinc_fabric (s : State) (r : Reg) : (rinc s r).fabric = s.fabric := rfl
@[simp] theorem rinc_router (s : State) (r : Reg) : (rinc s r).router = s.router := rfl
@[simp] theorem rinc_optics (s : State) (r : Reg) : (rinc s r).optics = s.optics := rfl
@[simp] theorem rinc_lanes (s : State) (r : Reg) : (rinc s r).lanes = s.lanes := rfl
@[simp] theorem rinc_plan (s : State) (r : Reg) : (rinc s r).plan = s.plan := rfl
@[simp] theorem rinc_last (s : State) (r : Reg) : (rinc s r).last = s.last := rfl
@[simp] theorem rinc_queues (s : State) (r : Reg) : (rinc s r).queues = s.queues := rfl
@[simp] theorem rinc_power (s : State) (r : Reg) : (rinc s r).power = s.power := rfl
@[simp] theorem rinc_pkg (s : State) (r : Reg) : (rinc s r).pkg = s.pkg := rfl
@[simp] theorem rinc_tenancy (s : State) (r : Reg) : (rinc s r).tenancy = s.tenancy := rfl
@[simp] theorem rinc_mgmt (s : State) (r : Reg) : (rinc s r).mgmt = s.mgmt := rfl
@[simp] theorem rinc_reset' (s : State) (r : Reg) : (rinc s r).reset' = s.reset' := rfl
@[simp] theorem rinc_faults (s : State) (r : Reg) : (rinc s r).faults = s.faults := rfl
@[simp] theorem rinc_trace (s : State) (r : Reg) : (rinc s r).trace = s.trace := rfl

/-! ### rsetI -/

@[simp] theorem rsetI_pending (s : State) (r : Reg) (v : Int) : (rsetI s r v).pending = s.pending := rfl
@[simp] theorem rsetI_out (s : State) (r : Reg) (v : Int) : (rsetI s r v).out = s.out := rfl
@[simp] theorem rsetI_draws (s : State) (r : Reg) (v : Int) : (rsetI s r v).draws = s.draws := rfl
@[simp] theorem rsetI_clock (s : State) (r : Reg) (v : Int) : (rsetI s r v).clock = s.clock := rfl
@[simp] theorem rsetI_phys (s : State) (r : Reg) (v : Int) : (rsetI s r v).phys = s.phys := rfl
@[simp] theorem rsetI_tiles (s : State) (r : Reg) (v : Int) : (rsetI s r v).tiles = s.tiles := rfl
@[simp] theorem rsetI_stitch (s : State) (r : Reg) (v : Int) : (rsetI s r v).stitch = s.stitch := rfl
@[simp] theorem rsetI_hbm (s : State) (r : Reg) (v : Int) : (rsetI s r v).hbm = s.hbm := rfl
@[simp] theorem rsetI_fabric (s : State) (r : Reg) (v : Int) : (rsetI s r v).fabric = s.fabric := rfl
@[simp] theorem rsetI_router (s : State) (r : Reg) (v : Int) : (rsetI s r v).router = s.router := rfl
@[simp] theorem rsetI_optics (s : State) (r : Reg) (v : Int) : (rsetI s r v).optics = s.optics := rfl
@[simp] theorem rsetI_lanes (s : State) (r : Reg) (v : Int) : (rsetI s r v).lanes = s.lanes := rfl
@[simp] theorem rsetI_plan (s : State) (r : Reg) (v : Int) : (rsetI s r v).plan = s.plan := rfl
@[simp] theorem rsetI_last (s : State) (r : Reg) (v : Int) : (rsetI s r v).last = s.last := rfl
@[simp] theorem rsetI_queues (s : State) (r : Reg) (v : Int) : (rsetI s r v).queues = s.queues := rfl
@[simp] theorem rsetI_power (s : State) (r : Reg) (v : Int) : (rsetI s r v).power = s.power := rfl
@[simp] theorem rsetI_pkg (s : State) (r : Reg) (v : Int) : (rsetI s r v).pkg = s.pkg := rfl
@[simp] theorem rsetI_tenancy (s : State) (r : Reg) (v : Int) : (rsetI s r v).tenancy = s.tenancy := rfl
@[simp] theorem rsetI_mgmt (s : State) (r : Reg) (v : Int) : (rsetI s r v).mgmt = s.mgmt := rfl
@[simp] theorem rsetI_reset' (s : State) (r : Reg) (v : Int) : (rsetI s r v).reset' = s.reset' := rfl
@[simp] theorem rsetI_faults (s : State) (r : Reg) (v : Int) : (rsetI s r v).faults = s.faults := rfl
@[simp] theorem rsetI_trace (s : State) (r : Reg) (v : Int) : (rsetI s r v).trace = s.trace := rfl

/-! ### emit -/

@[simp] theorem emit_pending (s : State) (o : Out) : (emit s o).pending = s.pending := rfl
@[simp] theorem emit_regs (s : State) (o : Out) : (emit s o).regs = s.regs := rfl
@[simp] theorem emit_draws (s : State) (o : Out) : (emit s o).draws = s.draws := rfl
@[simp] theorem emit_clock (s : State) (o : Out) : (emit s o).clock = s.clock := rfl
@[simp] theorem emit_phys (s : State) (o : Out) : (emit s o).phys = s.phys := rfl
@[simp] theorem emit_tiles (s : State) (o : Out) : (emit s o).tiles = s.tiles := rfl
@[simp] theorem emit_stitch (s : State) (o : Out) : (emit s o).stitch = s.stitch := rfl
@[simp] theorem emit_hbm (s : State) (o : Out) : (emit s o).hbm = s.hbm := rfl
@[simp] theorem emit_fabric (s : State) (o : Out) : (emit s o).fabric = s.fabric := rfl
@[simp] theorem emit_router (s : State) (o : Out) : (emit s o).router = s.router := rfl
@[simp] theorem emit_optics (s : State) (o : Out) : (emit s o).optics = s.optics := rfl
@[simp] theorem emit_lanes (s : State) (o : Out) : (emit s o).lanes = s.lanes := rfl
@[simp] theorem emit_plan (s : State) (o : Out) : (emit s o).plan = s.plan := rfl
@[simp] theorem emit_last (s : State) (o : Out) : (emit s o).last = s.last := rfl
@[simp] theorem emit_queues (s : State) (o : Out) : (emit s o).queues = s.queues := rfl
@[simp] theorem emit_power (s : State) (o : Out) : (emit s o).power = s.power := rfl
@[simp] theorem emit_pkg (s : State) (o : Out) : (emit s o).pkg = s.pkg := rfl
@[simp] theorem emit_tenancy (s : State) (o : Out) : (emit s o).tenancy = s.tenancy := rfl
@[simp] theorem emit_mgmt (s : State) (o : Out) : (emit s o).mgmt = s.mgmt := rfl
@[simp] theorem emit_reset' (s : State) (o : Out) : (emit s o).reset' = s.reset' := rfl
@[simp] theorem emit_faults (s : State) (o : Out) : (emit s o).faults = s.faults := rfl
@[simp] theorem emit_trace (s : State) (o : Out) : (emit s o).trace = s.trace := rfl
@[simp] theorem rget_emit (s : State) (o : Out) (r' : Reg) : rget (emit s o) r' = rget s r' := rfl

/-! ### setRun -/

@[simp] theorem setRun_pending (s : State) (f : Run → Run) : (setRun s f).pending = s.pending := rfl
@[simp] theorem setRun_out (s : State) (f : Run → Run) : (setRun s f).out = s.out := rfl
@[simp] theorem setRun_regs (s : State) (f : Run → Run) : (setRun s f).regs = s.regs := rfl
@[simp] theorem setRun_draws (s : State) (f : Run → Run) : (setRun s f).draws = s.draws := rfl
@[simp] theorem setRun_clock (s : State) (f : Run → Run) : (setRun s f).clock = s.clock := rfl
@[simp] theorem setRun_phys (s : State) (f : Run → Run) : (setRun s f).phys = s.phys := rfl
@[simp] theorem setRun_tiles (s : State) (f : Run → Run) : (setRun s f).tiles = s.tiles := rfl
@[simp] theorem setRun_stitch (s : State) (f : Run → Run) : (setRun s f).stitch = s.stitch := rfl
@[simp] theorem setRun_hbm (s : State) (f : Run → Run) : (setRun s f).hbm = s.hbm := rfl
@[simp] theorem setRun_fabric (s : State) (f : Run → Run) : (setRun s f).fabric = s.fabric := rfl
@[simp] theorem setRun_router (s : State) (f : Run → Run) : (setRun s f).router = s.router := rfl
@[simp] theorem setRun_optics (s : State) (f : Run → Run) : (setRun s f).optics = s.optics := rfl
@[simp] theorem setRun_lanes (s : State) (f : Run → Run) : (setRun s f).lanes = s.lanes := rfl
@[simp] theorem setRun_plan (s : State) (f : Run → Run) : (setRun s f).plan = s.plan := rfl
@[simp] theorem setRun_queues (s : State) (f : Run → Run) : (setRun s f).queues = s.queues := rfl
@[simp] theorem setRun_power (s : State) (f : Run → Run) : (setRun s f).power = s.power := rfl
@[simp] theorem setRun_pkg (s : State) (f : Run → Run) : (setRun s f).pkg = s.pkg := rfl
@[simp] theorem setRun_tenancy (s : State) (f : Run → Run) : (setRun s f).tenancy = s.tenancy := rfl
@[simp] theorem setRun_mgmt (s : State) (f : Run → Run) : (setRun s f).mgmt = s.mgmt := rfl
@[simp] theorem setRun_reset' (s : State) (f : Run → Run) : (setRun s f).reset' = s.reset' := rfl
@[simp] theorem setRun_faults (s : State) (f : Run → Run) : (setRun s f).faults = s.faults := rfl
@[simp] theorem setRun_trace (s : State) (f : Run → Run) : (setRun s f).trace = s.trace := rfl
@[simp] theorem rget_setRun (s : State) (f : Run → Run) (r' : Reg) : rget (setRun s f) r' = rget s r' := rfl

/-! ### setLane -/

@[simp] theorem setLane_pending (s : State) (e k : Nat) (f : Lane → Lane) : (setLane s e k f).pending = s.pending := rfl
@[simp] theorem setLane_out (s : State) (e k : Nat) (f : Lane → Lane) : (setLane s e k f).out = s.out := rfl
@[simp] theorem setLane_regs (s : State) (e k : Nat) (f : Lane → Lane) : (setLane s e k f).regs = s.regs := rfl
@[simp] theorem setLane_draws (s : State) (e k : Nat) (f : Lane → Lane) : (setLane s e k f).draws = s.draws := rfl
@[simp] theorem setLane_clock (s : State) (e k : Nat) (f : Lane → Lane) : (setLane s e k f).clock = s.clock := rfl
@[simp] theorem setLane_phys (s : State) (e k : Nat) (f : Lane → Lane) : (setLane s e k f).phys = s.phys := rfl
@[simp] theorem setLane_tiles (s : State) (e k : Nat) (f : Lane → Lane) : (setLane s e k f).tiles = s.tiles := rfl
@[simp] theorem setLane_stitch (s : State) (e k : Nat) (f : Lane → Lane) : (setLane s e k f).stitch = s.stitch := rfl
@[simp] theorem setLane_hbm (s : State) (e k : Nat) (f : Lane → Lane) : (setLane s e k f).hbm = s.hbm := rfl
@[simp] theorem setLane_fabric (s : State) (e k : Nat) (f : Lane → Lane) : (setLane s e k f).fabric = s.fabric := rfl
@[simp] theorem setLane_router (s : State) (e k : Nat) (f : Lane → Lane) : (setLane s e k f).router = s.router := rfl
@[simp] theorem setLane_optics (s : State) (e k : Nat) (f : Lane → Lane) : (setLane s e k f).optics = s.optics := rfl
@[simp] theorem setLane_plan (s : State) (e k : Nat) (f : Lane → Lane) : (setLane s e k f).plan = s.plan := rfl
@[simp] theorem setLane_last (s : State) (e k : Nat) (f : Lane → Lane) : (setLane s e k f).last = s.last := rfl
@[simp] theorem setLane_queues (s : State) (e k : Nat) (f : Lane → Lane) : (setLane s e k f).queues = s.queues := rfl
@[simp] theorem setLane_power (s : State) (e k : Nat) (f : Lane → Lane) : (setLane s e k f).power = s.power := rfl
@[simp] theorem setLane_pkg (s : State) (e k : Nat) (f : Lane → Lane) : (setLane s e k f).pkg = s.pkg := rfl
@[simp] theorem setLane_tenancy (s : State) (e k : Nat) (f : Lane → Lane) : (setLane s e k f).tenancy = s.tenancy := rfl
@[simp] theorem setLane_mgmt (s : State) (e k : Nat) (f : Lane → Lane) : (setLane s e k f).mgmt = s.mgmt := rfl
@[simp] theorem setLane_reset' (s : State) (e k : Nat) (f : Lane → Lane) : (setLane s e k f).reset' = s.reset' := rfl
@[simp] theorem setLane_faults (s : State) (e k : Nat) (f : Lane → Lane) : (setLane s e k f).faults = s.faults := rfl
@[simp] theorem setLane_trace (s : State) (e k : Nat) (f : Lane → Lane) : (setLane s e k f).trace = s.trace := rfl
@[simp] theorem rget_setLane (s : State) (e k : Nat) (f : Lane → Lane) (r' : Reg) : rget (setLane s e k f) r' = rget s r' := rfl

/-! ### setPtile -/

@[simp] theorem setPtile_pending (s : State) (p : Nat) (f : PhysTile → PhysTile) : (setPtile s p f).pending = s.pending := rfl
@[simp] theorem setPtile_out (s : State) (p : Nat) (f : PhysTile → PhysTile) : (setPtile s p f).out = s.out := rfl
@[simp] theorem setPtile_regs (s : State) (p : Nat) (f : PhysTile → PhysTile) : (setPtile s p f).regs = s.regs := rfl
@[simp] theorem setPtile_draws (s : State) (p : Nat) (f : PhysTile → PhysTile) : (setPtile s p f).draws = s.draws := rfl
@[simp] theorem setPtile_clock (s : State) (p : Nat) (f : PhysTile → PhysTile) : (setPtile s p f).clock = s.clock := rfl
@[simp] theorem setPtile_tiles (s : State) (p : Nat) (f : PhysTile → PhysTile) : (setPtile s p f).tiles = s.tiles := rfl
@[simp] theorem setPtile_stitch (s : State) (p : Nat) (f : PhysTile → PhysTile) : (setPtile s p f).stitch = s.stitch := rfl
@[simp] theorem setPtile_hbm (s : State) (p : Nat) (f : PhysTile → PhysTile) : (setPtile s p f).hbm = s.hbm := rfl
@[simp] theorem setPtile_fabric (s : State) (p : Nat) (f : PhysTile → PhysTile) : (setPtile s p f).fabric = s.fabric := rfl
@[simp] theorem setPtile_router (s : State) (p : Nat) (f : PhysTile → PhysTile) : (setPtile s p f).router = s.router := rfl
@[simp] theorem setPtile_optics (s : State) (p : Nat) (f : PhysTile → PhysTile) : (setPtile s p f).optics = s.optics := rfl
@[simp] theorem setPtile_lanes (s : State) (p : Nat) (f : PhysTile → PhysTile) : (setPtile s p f).lanes = s.lanes := rfl
@[simp] theorem setPtile_plan (s : State) (p : Nat) (f : PhysTile → PhysTile) : (setPtile s p f).plan = s.plan := rfl
@[simp] theorem setPtile_last (s : State) (p : Nat) (f : PhysTile → PhysTile) : (setPtile s p f).last = s.last := rfl
@[simp] theorem setPtile_queues (s : State) (p : Nat) (f : PhysTile → PhysTile) : (setPtile s p f).queues = s.queues := rfl
@[simp] theorem setPtile_power (s : State) (p : Nat) (f : PhysTile → PhysTile) : (setPtile s p f).power = s.power := rfl
@[simp] theorem setPtile_pkg (s : State) (p : Nat) (f : PhysTile → PhysTile) : (setPtile s p f).pkg = s.pkg := rfl
@[simp] theorem setPtile_tenancy (s : State) (p : Nat) (f : PhysTile → PhysTile) : (setPtile s p f).tenancy = s.tenancy := rfl
@[simp] theorem setPtile_mgmt (s : State) (p : Nat) (f : PhysTile → PhysTile) : (setPtile s p f).mgmt = s.mgmt := rfl
@[simp] theorem setPtile_reset' (s : State) (p : Nat) (f : PhysTile → PhysTile) : (setPtile s p f).reset' = s.reset' := rfl
@[simp] theorem setPtile_faults (s : State) (p : Nat) (f : PhysTile → PhysTile) : (setPtile s p f).faults = s.faults := rfl
@[simp] theorem setPtile_trace (s : State) (p : Nat) (f : PhysTile → PhysTile) : (setPtile s p f).trace = s.trace := rfl
@[simp] theorem rget_setPtile (s : State) (p : Nat) (f : PhysTile → PhysTile) (r' : Reg) : rget (setPtile s p f) r' = rget s r' := rfl

/-! ### setArray -/

@[simp] theorem setArray_pending (s : State) (p a : Nat) (f : ArrayState → ArrayState) : (setArray s p a f).pending = s.pending := rfl
@[simp] theorem setArray_out (s : State) (p a : Nat) (f : ArrayState → ArrayState) : (setArray s p a f).out = s.out := rfl
@[simp] theorem setArray_regs (s : State) (p a : Nat) (f : ArrayState → ArrayState) : (setArray s p a f).regs = s.regs := rfl
@[simp] theorem setArray_draws (s : State) (p a : Nat) (f : ArrayState → ArrayState) : (setArray s p a f).draws = s.draws := rfl
@[simp] theorem setArray_clock (s : State) (p a : Nat) (f : ArrayState → ArrayState) : (setArray s p a f).clock = s.clock := rfl
@[simp] theorem setArray_tiles (s : State) (p a : Nat) (f : ArrayState → ArrayState) : (setArray s p a f).tiles = s.tiles := rfl
@[simp] theorem setArray_stitch (s : State) (p a : Nat) (f : ArrayState → ArrayState) : (setArray s p a f).stitch = s.stitch := rfl
@[simp] theorem setArray_hbm (s : State) (p a : Nat) (f : ArrayState → ArrayState) : (setArray s p a f).hbm = s.hbm := rfl
@[simp] theorem setArray_fabric (s : State) (p a : Nat) (f : ArrayState → ArrayState) : (setArray s p a f).fabric = s.fabric := rfl
@[simp] theorem setArray_router (s : State) (p a : Nat) (f : ArrayState → ArrayState) : (setArray s p a f).router = s.router := rfl
@[simp] theorem setArray_optics (s : State) (p a : Nat) (f : ArrayState → ArrayState) : (setArray s p a f).optics = s.optics := rfl
@[simp] theorem setArray_lanes (s : State) (p a : Nat) (f : ArrayState → ArrayState) : (setArray s p a f).lanes = s.lanes := rfl
@[simp] theorem setArray_plan (s : State) (p a : Nat) (f : ArrayState → ArrayState) : (setArray s p a f).plan = s.plan := rfl
@[simp] theorem setArray_last (s : State) (p a : Nat) (f : ArrayState → ArrayState) : (setArray s p a f).last = s.last := rfl
@[simp] theorem setArray_queues (s : State) (p a : Nat) (f : ArrayState → ArrayState) : (setArray s p a f).queues = s.queues := rfl
@[simp] theorem setArray_power (s : State) (p a : Nat) (f : ArrayState → ArrayState) : (setArray s p a f).power = s.power := rfl
@[simp] theorem setArray_pkg (s : State) (p a : Nat) (f : ArrayState → ArrayState) : (setArray s p a f).pkg = s.pkg := rfl
@[simp] theorem setArray_tenancy (s : State) (p a : Nat) (f : ArrayState → ArrayState) : (setArray s p a f).tenancy = s.tenancy := rfl
@[simp] theorem setArray_mgmt (s : State) (p a : Nat) (f : ArrayState → ArrayState) : (setArray s p a f).mgmt = s.mgmt := rfl
@[simp] theorem setArray_reset' (s : State) (p a : Nat) (f : ArrayState → ArrayState) : (setArray s p a f).reset' = s.reset' := rfl
@[simp] theorem setArray_faults (s : State) (p a : Nat) (f : ArrayState → ArrayState) : (setArray s p a f).faults = s.faults := rfl
@[simp] theorem setArray_trace (s : State) (p a : Nat) (f : ArrayState → ArrayState) : (setArray s p a f).trace = s.trace := rfl
@[simp] theorem rget_setArray (s : State) (p a : Nat) (f : ArrayState → ArrayState) (r' : Reg) : rget (setArray s p a f) r' = rget s r' := rfl

/-! ### setLtile -/

@[simp] theorem setLtile_pending (s : State) (t : Nat) (f : LogTile → LogTile) : (setLtile s t f).pending = s.pending := rfl
@[simp] theorem setLtile_out (s : State) (t : Nat) (f : LogTile → LogTile) : (setLtile s t f).out = s.out := rfl
@[simp] theorem setLtile_regs (s : State) (t : Nat) (f : LogTile → LogTile) : (setLtile s t f).regs = s.regs := rfl
@[simp] theorem setLtile_draws (s : State) (t : Nat) (f : LogTile → LogTile) : (setLtile s t f).draws = s.draws := rfl
@[simp] theorem setLtile_clock (s : State) (t : Nat) (f : LogTile → LogTile) : (setLtile s t f).clock = s.clock := rfl
@[simp] theorem setLtile_phys (s : State) (t : Nat) (f : LogTile → LogTile) : (setLtile s t f).phys = s.phys := rfl
@[simp] theorem setLtile_stitch (s : State) (t : Nat) (f : LogTile → LogTile) : (setLtile s t f).stitch = s.stitch := rfl
@[simp] theorem setLtile_hbm (s : State) (t : Nat) (f : LogTile → LogTile) : (setLtile s t f).hbm = s.hbm := rfl
@[simp] theorem setLtile_fabric (s : State) (t : Nat) (f : LogTile → LogTile) : (setLtile s t f).fabric = s.fabric := rfl
@[simp] theorem setLtile_router (s : State) (t : Nat) (f : LogTile → LogTile) : (setLtile s t f).router = s.router := rfl
@[simp] theorem setLtile_optics (s : State) (t : Nat) (f : LogTile → LogTile) : (setLtile s t f).optics = s.optics := rfl
@[simp] theorem setLtile_lanes (s : State) (t : Nat) (f : LogTile → LogTile) : (setLtile s t f).lanes = s.lanes := rfl
@[simp] theorem setLtile_plan (s : State) (t : Nat) (f : LogTile → LogTile) : (setLtile s t f).plan = s.plan := rfl
@[simp] theorem setLtile_last (s : State) (t : Nat) (f : LogTile → LogTile) : (setLtile s t f).last = s.last := rfl
@[simp] theorem setLtile_queues (s : State) (t : Nat) (f : LogTile → LogTile) : (setLtile s t f).queues = s.queues := rfl
@[simp] theorem setLtile_power (s : State) (t : Nat) (f : LogTile → LogTile) : (setLtile s t f).power = s.power := rfl
@[simp] theorem setLtile_pkg (s : State) (t : Nat) (f : LogTile → LogTile) : (setLtile s t f).pkg = s.pkg := rfl
@[simp] theorem setLtile_tenancy (s : State) (t : Nat) (f : LogTile → LogTile) : (setLtile s t f).tenancy = s.tenancy := rfl
@[simp] theorem setLtile_mgmt (s : State) (t : Nat) (f : LogTile → LogTile) : (setLtile s t f).mgmt = s.mgmt := rfl
@[simp] theorem setLtile_reset' (s : State) (t : Nat) (f : LogTile → LogTile) : (setLtile s t f).reset' = s.reset' := rfl
@[simp] theorem setLtile_faults (s : State) (t : Nat) (f : LogTile → LogTile) : (setLtile s t f).faults = s.faults := rfl
@[simp] theorem setLtile_trace (s : State) (t : Nat) (f : LogTile → LogTile) : (setLtile s t f).trace = s.trace := rfl
@[simp] theorem rget_setLtile (s : State) (t : Nat) (f : LogTile → LogTile) (r' : Reg) : rget (setLtile s t f) r' = rget s r' := rfl

/-! ### setPower -/

@[simp] theorem setPower_pending (s : State) (f : Power → Power) : (setPower s f).pending = s.pending := rfl
@[simp] theorem setPower_out (s : State) (f : Power → Power) : (setPower s f).out = s.out := rfl
@[simp] theorem setPower_regs (s : State) (f : Power → Power) : (setPower s f).regs = s.regs := rfl
@[simp] theorem setPower_draws (s : State) (f : Power → Power) : (setPower s f).draws = s.draws := rfl
@[simp] theorem setPower_clock (s : State) (f : Power → Power) : (setPower s f).clock = s.clock := rfl
@[simp] theorem setPower_phys (s : State) (f : Power → Power) : (setPower s f).phys = s.phys := rfl
@[simp] theorem setPower_tiles (s : State) (f : Power → Power) : (setPower s f).tiles = s.tiles := rfl
@[simp] theorem setPower_stitch (s : State) (f : Power → Power) : (setPower s f).stitch = s.stitch := rfl
@[simp] theorem setPower_hbm (s : State) (f : Power → Power) : (setPower s f).hbm = s.hbm := rfl
@[simp] theorem setPower_fabric (s : State) (f : Power → Power) : (setPower s f).fabric = s.fabric := rfl
@[simp] theorem setPower_router (s : State) (f : Power → Power) : (setPower s f).router = s.router := rfl
@[simp] theorem setPower_optics (s : State) (f : Power → Power) : (setPower s f).optics = s.optics := rfl
@[simp] theorem setPower_lanes (s : State) (f : Power → Power) : (setPower s f).lanes = s.lanes := rfl
@[simp] theorem setPower_plan (s : State) (f : Power → Power) : (setPower s f).plan = s.plan := rfl
@[simp] theorem setPower_last (s : State) (f : Power → Power) : (setPower s f).last = s.last := rfl
@[simp] theorem setPower_queues (s : State) (f : Power → Power) : (setPower s f).queues = s.queues := rfl
@[simp] theorem setPower_pkg (s : State) (f : Power → Power) : (setPower s f).pkg = s.pkg := rfl
@[simp] theorem setPower_tenancy (s : State) (f : Power → Power) : (setPower s f).tenancy = s.tenancy := rfl
@[simp] theorem setPower_mgmt (s : State) (f : Power → Power) : (setPower s f).mgmt = s.mgmt := rfl
@[simp] theorem setPower_reset' (s : State) (f : Power → Power) : (setPower s f).reset' = s.reset' := rfl
@[simp] theorem setPower_faults (s : State) (f : Power → Power) : (setPower s f).faults = s.faults := rfl
@[simp] theorem setPower_trace (s : State) (f : Power → Power) : (setPower s f).trace = s.trace := rfl
@[simp] theorem rget_setPower (s : State) (f : Power → Power) (r' : Reg) : rget (setPower s f) r' = rget s r' := rfl

/-! ### setTap -/

@[simp] theorem setTap_pending (s : State) (i : Nat) (f : Tap → Tap) : (setTap s i f).pending = s.pending := rfl
@[simp] theorem setTap_out (s : State) (i : Nat) (f : Tap → Tap) : (setTap s i f).out = s.out := rfl
@[simp] theorem setTap_regs (s : State) (i : Nat) (f : Tap → Tap) : (setTap s i f).regs = s.regs := rfl
@[simp] theorem setTap_draws (s : State) (i : Nat) (f : Tap → Tap) : (setTap s i f).draws = s.draws := rfl
@[simp] theorem setTap_clock (s : State) (i : Nat) (f : Tap → Tap) : (setTap s i f).clock = s.clock := rfl
@[simp] theorem setTap_phys (s : State) (i : Nat) (f : Tap → Tap) : (setTap s i f).phys = s.phys := rfl
@[simp] theorem setTap_tiles (s : State) (i : Nat) (f : Tap → Tap) : (setTap s i f).tiles = s.tiles := rfl
@[simp] theorem setTap_stitch (s : State) (i : Nat) (f : Tap → Tap) : (setTap s i f).stitch = s.stitch := rfl
@[simp] theorem setTap_hbm (s : State) (i : Nat) (f : Tap → Tap) : (setTap s i f).hbm = s.hbm := rfl
@[simp] theorem setTap_fabric (s : State) (i : Nat) (f : Tap → Tap) : (setTap s i f).fabric = s.fabric := rfl
@[simp] theorem setTap_router (s : State) (i : Nat) (f : Tap → Tap) : (setTap s i f).router = s.router := rfl
@[simp] theorem setTap_optics (s : State) (i : Nat) (f : Tap → Tap) : (setTap s i f).optics = s.optics := rfl
@[simp] theorem setTap_lanes (s : State) (i : Nat) (f : Tap → Tap) : (setTap s i f).lanes = s.lanes := rfl
@[simp] theorem setTap_plan (s : State) (i : Nat) (f : Tap → Tap) : (setTap s i f).plan = s.plan := rfl
@[simp] theorem setTap_last (s : State) (i : Nat) (f : Tap → Tap) : (setTap s i f).last = s.last := rfl
@[simp] theorem setTap_queues (s : State) (i : Nat) (f : Tap → Tap) : (setTap s i f).queues = s.queues := rfl
@[simp] theorem setTap_pkg (s : State) (i : Nat) (f : Tap → Tap) : (setTap s i f).pkg = s.pkg := rfl
@[simp] theorem setTap_tenancy (s : State) (i : Nat) (f : Tap → Tap) : (setTap s i f).tenancy = s.tenancy := rfl
@[simp] theorem setTap_mgmt (s : State) (i : Nat) (f : Tap → Tap) : (setTap s i f).mgmt = s.mgmt := rfl
@[simp] theorem setTap_reset' (s : State) (i : Nat) (f : Tap → Tap) : (setTap s i f).reset' = s.reset' := rfl
@[simp] theorem setTap_faults (s : State) (i : Nat) (f : Tap → Tap) : (setTap s i f).faults = s.faults := rfl
@[simp] theorem setTap_trace (s : State) (i : Nat) (f : Tap → Tap) : (setTap s i f).trace = s.trace := rfl
@[simp] theorem rget_setTap (s : State) (i : Nat) (f : Tap → Tap) (r' : Reg) : rget (setTap s i f) r' = rget s r' := rfl

/-! ### setWelt -/

@[simp] theorem setWelt_pending (s : State) (d p : Nat) (f : Welt → Welt) : (setWelt s d p f).pending = s.pending := rfl
@[simp] theorem setWelt_out (s : State) (d p : Nat) (f : Welt → Welt) : (setWelt s d p f).out = s.out := rfl
@[simp] theorem setWelt_regs (s : State) (d p : Nat) (f : Welt → Welt) : (setWelt s d p f).regs = s.regs := rfl
@[simp] theorem setWelt_draws (s : State) (d p : Nat) (f : Welt → Welt) : (setWelt s d p f).draws = s.draws := rfl
@[simp] theorem setWelt_clock (s : State) (d p : Nat) (f : Welt → Welt) : (setWelt s d p f).clock = s.clock := rfl
@[simp] theorem setWelt_phys (s : State) (d p : Nat) (f : Welt → Welt) : (setWelt s d p f).phys = s.phys := rfl
@[simp] theorem setWelt_tiles (s : State) (d p : Nat) (f : Welt → Welt) : (setWelt s d p f).tiles = s.tiles := rfl
@[simp] theorem setWelt_stitch (s : State) (d p : Nat) (f : Welt → Welt) : (setWelt s d p f).stitch = s.stitch := rfl
@[simp] theorem setWelt_hbm (s : State) (d p : Nat) (f : Welt → Welt) : (setWelt s d p f).hbm = s.hbm := rfl
@[simp] theorem setWelt_fabric (s : State) (d p : Nat) (f : Welt → Welt) : (setWelt s d p f).fabric = s.fabric := rfl
@[simp] theorem setWelt_router (s : State) (d p : Nat) (f : Welt → Welt) : (setWelt s d p f).router = s.router := rfl
@[simp] theorem setWelt_optics (s : State) (d p : Nat) (f : Welt → Welt) : (setWelt s d p f).optics = s.optics := rfl
@[simp] theorem setWelt_lanes (s : State) (d p : Nat) (f : Welt → Welt) : (setWelt s d p f).lanes = s.lanes := rfl
@[simp] theorem setWelt_plan (s : State) (d p : Nat) (f : Welt → Welt) : (setWelt s d p f).plan = s.plan := rfl
@[simp] theorem setWelt_last (s : State) (d p : Nat) (f : Welt → Welt) : (setWelt s d p f).last = s.last := rfl
@[simp] theorem setWelt_queues (s : State) (d p : Nat) (f : Welt → Welt) : (setWelt s d p f).queues = s.queues := rfl
@[simp] theorem setWelt_power (s : State) (d p : Nat) (f : Welt → Welt) : (setWelt s d p f).power = s.power := rfl
@[simp] theorem setWelt_tenancy (s : State) (d p : Nat) (f : Welt → Welt) : (setWelt s d p f).tenancy = s.tenancy := rfl
@[simp] theorem setWelt_mgmt (s : State) (d p : Nat) (f : Welt → Welt) : (setWelt s d p f).mgmt = s.mgmt := rfl
@[simp] theorem setWelt_reset' (s : State) (d p : Nat) (f : Welt → Welt) : (setWelt s d p f).reset' = s.reset' := rfl
@[simp] theorem setWelt_faults (s : State) (d p : Nat) (f : Welt → Welt) : (setWelt s d p f).faults = s.faults := rfl
@[simp] theorem setWelt_trace (s : State) (d p : Nat) (f : Welt → Welt) : (setWelt s d p f).trace = s.trace := rfl
@[simp] theorem rget_setWelt (s : State) (d p : Nat) (f : Welt → Welt) (r' : Reg) : rget (setWelt s d p f) r' = rget s r' := rfl

/-! ### setEye -/

@[simp] theorem setEye_pending (s : State) (d : Nat) (f : EyeDie → EyeDie) : (setEye s d f).pending = s.pending := rfl
@[simp] theorem setEye_out (s : State) (d : Nat) (f : EyeDie → EyeDie) : (setEye s d f).out = s.out := rfl
@[simp] theorem setEye_regs (s : State) (d : Nat) (f : EyeDie → EyeDie) : (setEye s d f).regs = s.regs := rfl
@[simp] theorem setEye_draws (s : State) (d : Nat) (f : EyeDie → EyeDie) : (setEye s d f).draws = s.draws := rfl
@[simp] theorem setEye_clock (s : State) (d : Nat) (f : EyeDie → EyeDie) : (setEye s d f).clock = s.clock := rfl
@[simp] theorem setEye_phys (s : State) (d : Nat) (f : EyeDie → EyeDie) : (setEye s d f).phys = s.phys := rfl
@[simp] theorem setEye_tiles (s : State) (d : Nat) (f : EyeDie → EyeDie) : (setEye s d f).tiles = s.tiles := rfl
@[simp] theorem setEye_stitch (s : State) (d : Nat) (f : EyeDie → EyeDie) : (setEye s d f).stitch = s.stitch := rfl
@[simp] theorem setEye_hbm (s : State) (d : Nat) (f : EyeDie → EyeDie) : (setEye s d f).hbm = s.hbm := rfl
@[simp] theorem setEye_fabric (s : State) (d : Nat) (f : EyeDie → EyeDie) : (setEye s d f).fabric = s.fabric := rfl
@[simp] theorem setEye_router (s : State) (d : Nat) (f : EyeDie → EyeDie) : (setEye s d f).router = s.router := rfl
@[simp] theorem setEye_lanes (s : State) (d : Nat) (f : EyeDie → EyeDie) : (setEye s d f).lanes = s.lanes := rfl
@[simp] theorem setEye_plan (s : State) (d : Nat) (f : EyeDie → EyeDie) : (setEye s d f).plan = s.plan := rfl
@[simp] theorem setEye_last (s : State) (d : Nat) (f : EyeDie → EyeDie) : (setEye s d f).last = s.last := rfl
@[simp] theorem setEye_queues (s : State) (d : Nat) (f : EyeDie → EyeDie) : (setEye s d f).queues = s.queues := rfl
@[simp] theorem setEye_power (s : State) (d : Nat) (f : EyeDie → EyeDie) : (setEye s d f).power = s.power := rfl
@[simp] theorem setEye_pkg (s : State) (d : Nat) (f : EyeDie → EyeDie) : (setEye s d f).pkg = s.pkg := rfl
@[simp] theorem setEye_tenancy (s : State) (d : Nat) (f : EyeDie → EyeDie) : (setEye s d f).tenancy = s.tenancy := rfl
@[simp] theorem setEye_mgmt (s : State) (d : Nat) (f : EyeDie → EyeDie) : (setEye s d f).mgmt = s.mgmt := rfl
@[simp] theorem setEye_reset' (s : State) (d : Nat) (f : EyeDie → EyeDie) : (setEye s d f).reset' = s.reset' := rfl
@[simp] theorem setEye_faults (s : State) (d : Nat) (f : EyeDie → EyeDie) : (setEye s d f).faults = s.faults := rfl
@[simp] theorem setEye_trace (s : State) (d : Nat) (f : EyeDie → EyeDie) : (setEye s d f).trace = s.trace := rfl
@[simp] theorem rget_setEye (s : State) (d : Nat) (f : EyeDie → EyeDie) (r' : Reg) : rget (setEye s d f) r' = rget s r' := rfl

/-! ### setKey -/

@[simp] theorem setKey_pending (s : State) (i : Nat) (f : KeySlot → KeySlot) : (setKey s i f).pending = s.pending := rfl
@[simp] theorem setKey_out (s : State) (i : Nat) (f : KeySlot → KeySlot) : (setKey s i f).out = s.out := rfl
@[simp] theorem setKey_regs (s : State) (i : Nat) (f : KeySlot → KeySlot) : (setKey s i f).regs = s.regs := rfl
@[simp] theorem setKey_draws (s : State) (i : Nat) (f : KeySlot → KeySlot) : (setKey s i f).draws = s.draws := rfl
@[simp] theorem setKey_clock (s : State) (i : Nat) (f : KeySlot → KeySlot) : (setKey s i f).clock = s.clock := rfl
@[simp] theorem setKey_phys (s : State) (i : Nat) (f : KeySlot → KeySlot) : (setKey s i f).phys = s.phys := rfl
@[simp] theorem setKey_tiles (s : State) (i : Nat) (f : KeySlot → KeySlot) : (setKey s i f).tiles = s.tiles := rfl
@[simp] theorem setKey_stitch (s : State) (i : Nat) (f : KeySlot → KeySlot) : (setKey s i f).stitch = s.stitch := rfl
@[simp] theorem setKey_hbm (s : State) (i : Nat) (f : KeySlot → KeySlot) : (setKey s i f).hbm = s.hbm := rfl
@[simp] theorem setKey_fabric (s : State) (i : Nat) (f : KeySlot → KeySlot) : (setKey s i f).fabric = s.fabric := rfl
@[simp] theorem setKey_router (s : State) (i : Nat) (f : KeySlot → KeySlot) : (setKey s i f).router = s.router := rfl
@[simp] theorem setKey_optics (s : State) (i : Nat) (f : KeySlot → KeySlot) : (setKey s i f).optics = s.optics := rfl
@[simp] theorem setKey_lanes (s : State) (i : Nat) (f : KeySlot → KeySlot) : (setKey s i f).lanes = s.lanes := rfl
@[simp] theorem setKey_plan (s : State) (i : Nat) (f : KeySlot → KeySlot) : (setKey s i f).plan = s.plan := rfl
@[simp] theorem setKey_last (s : State) (i : Nat) (f : KeySlot → KeySlot) : (setKey s i f).last = s.last := rfl
@[simp] theorem setKey_queues (s : State) (i : Nat) (f : KeySlot → KeySlot) : (setKey s i f).queues = s.queues := rfl
@[simp] theorem setKey_power (s : State) (i : Nat) (f : KeySlot → KeySlot) : (setKey s i f).power = s.power := rfl
@[simp] theorem setKey_pkg (s : State) (i : Nat) (f : KeySlot → KeySlot) : (setKey s i f).pkg = s.pkg := rfl
@[simp] theorem setKey_mgmt (s : State) (i : Nat) (f : KeySlot → KeySlot) : (setKey s i f).mgmt = s.mgmt := rfl
@[simp] theorem setKey_reset' (s : State) (i : Nat) (f : KeySlot → KeySlot) : (setKey s i f).reset' = s.reset' := rfl
@[simp] theorem setKey_faults (s : State) (i : Nat) (f : KeySlot → KeySlot) : (setKey s i f).faults = s.faults := rfl
@[simp] theorem setKey_trace (s : State) (i : Nat) (f : KeySlot → KeySlot) : (setKey s i f).trace = s.trace := rfl
@[simp] theorem rget_setKey (s : State) (i : Nat) (f : KeySlot → KeySlot) (r' : Reg) : rget (setKey s i f) r' = rget s r' := rfl

/-! ### setOut -/

@[simp] theorem setOut_pending (s : State) (c : Nat) (d : PeerOut) : (setOut s c d).pending = s.pending := rfl
@[simp] theorem setOut_out (s : State) (c : Nat) (d : PeerOut) : (setOut s c d).out = s.out := rfl
@[simp] theorem setOut_regs (s : State) (c : Nat) (d : PeerOut) : (setOut s c d).regs = s.regs := rfl
@[simp] theorem setOut_draws (s : State) (c : Nat) (d : PeerOut) : (setOut s c d).draws = s.draws := rfl
@[simp] theorem setOut_clock (s : State) (c : Nat) (d : PeerOut) : (setOut s c d).clock = s.clock := rfl
@[simp] theorem setOut_phys (s : State) (c : Nat) (d : PeerOut) : (setOut s c d).phys = s.phys := rfl
@[simp] theorem setOut_tiles (s : State) (c : Nat) (d : PeerOut) : (setOut s c d).tiles = s.tiles := rfl
@[simp] theorem setOut_stitch (s : State) (c : Nat) (d : PeerOut) : (setOut s c d).stitch = s.stitch := rfl
@[simp] theorem setOut_hbm (s : State) (c : Nat) (d : PeerOut) : (setOut s c d).hbm = s.hbm := rfl
@[simp] theorem setOut_router (s : State) (c : Nat) (d : PeerOut) : (setOut s c d).router = s.router := rfl
@[simp] theorem setOut_optics (s : State) (c : Nat) (d : PeerOut) : (setOut s c d).optics = s.optics := rfl
@[simp] theorem setOut_lanes (s : State) (c : Nat) (d : PeerOut) : (setOut s c d).lanes = s.lanes := rfl
@[simp] theorem setOut_plan (s : State) (c : Nat) (d : PeerOut) : (setOut s c d).plan = s.plan := rfl
@[simp] theorem setOut_last (s : State) (c : Nat) (d : PeerOut) : (setOut s c d).last = s.last := rfl
@[simp] theorem setOut_queues (s : State) (c : Nat) (d : PeerOut) : (setOut s c d).queues = s.queues := rfl
@[simp] theorem setOut_power (s : State) (c : Nat) (d : PeerOut) : (setOut s c d).power = s.power := rfl
@[simp] theorem setOut_pkg (s : State) (c : Nat) (d : PeerOut) : (setOut s c d).pkg = s.pkg := rfl
@[simp] theorem setOut_tenancy (s : State) (c : Nat) (d : PeerOut) : (setOut s c d).tenancy = s.tenancy := rfl
@[simp] theorem setOut_mgmt (s : State) (c : Nat) (d : PeerOut) : (setOut s c d).mgmt = s.mgmt := rfl
@[simp] theorem setOut_reset' (s : State) (c : Nat) (d : PeerOut) : (setOut s c d).reset' = s.reset' := rfl
@[simp] theorem setOut_faults (s : State) (c : Nat) (d : PeerOut) : (setOut s c d).faults = s.faults := rfl
@[simp] theorem setOut_trace (s : State) (c : Nat) (d : PeerOut) : (setOut s c d).trace = s.trace := rfl
@[simp] theorem rget_setOut (s : State) (c : Nat) (d : PeerOut) (r' : Reg) : rget (setOut s c d) r' = rget s r' := rfl

/-! ### setIn -/

@[simp] theorem setIn_pending (s : State) (c : Nat) (d : PeerIn) : (setIn s c d).pending = s.pending := rfl
@[simp] theorem setIn_out (s : State) (c : Nat) (d : PeerIn) : (setIn s c d).out = s.out := rfl
@[simp] theorem setIn_regs (s : State) (c : Nat) (d : PeerIn) : (setIn s c d).regs = s.regs := rfl
@[simp] theorem setIn_draws (s : State) (c : Nat) (d : PeerIn) : (setIn s c d).draws = s.draws := rfl
@[simp] theorem setIn_clock (s : State) (c : Nat) (d : PeerIn) : (setIn s c d).clock = s.clock := rfl
@[simp] theorem setIn_phys (s : State) (c : Nat) (d : PeerIn) : (setIn s c d).phys = s.phys := rfl
@[simp] theorem setIn_tiles (s : State) (c : Nat) (d : PeerIn) : (setIn s c d).tiles = s.tiles := rfl
@[simp] theorem setIn_stitch (s : State) (c : Nat) (d : PeerIn) : (setIn s c d).stitch = s.stitch := rfl
@[simp] theorem setIn_hbm (s : State) (c : Nat) (d : PeerIn) : (setIn s c d).hbm = s.hbm := rfl
@[simp] theorem setIn_router (s : State) (c : Nat) (d : PeerIn) : (setIn s c d).router = s.router := rfl
@[simp] theorem setIn_optics (s : State) (c : Nat) (d : PeerIn) : (setIn s c d).optics = s.optics := rfl
@[simp] theorem setIn_lanes (s : State) (c : Nat) (d : PeerIn) : (setIn s c d).lanes = s.lanes := rfl
@[simp] theorem setIn_plan (s : State) (c : Nat) (d : PeerIn) : (setIn s c d).plan = s.plan := rfl
@[simp] theorem setIn_last (s : State) (c : Nat) (d : PeerIn) : (setIn s c d).last = s.last := rfl
@[simp] theorem setIn_queues (s : State) (c : Nat) (d : PeerIn) : (setIn s c d).queues = s.queues := rfl
@[simp] theorem setIn_power (s : State) (c : Nat) (d : PeerIn) : (setIn s c d).power = s.power := rfl
@[simp] theorem setIn_pkg (s : State) (c : Nat) (d : PeerIn) : (setIn s c d).pkg = s.pkg := rfl
@[simp] theorem setIn_tenancy (s : State) (c : Nat) (d : PeerIn) : (setIn s c d).tenancy = s.tenancy := rfl
@[simp] theorem setIn_mgmt (s : State) (c : Nat) (d : PeerIn) : (setIn s c d).mgmt = s.mgmt := rfl
@[simp] theorem setIn_reset' (s : State) (c : Nat) (d : PeerIn) : (setIn s c d).reset' = s.reset' := rfl
@[simp] theorem setIn_faults (s : State) (c : Nat) (d : PeerIn) : (setIn s c d).faults = s.faults := rfl
@[simp] theorem setIn_trace (s : State) (c : Nat) (d : PeerIn) : (setIn s c d).trace = s.trace := rfl
@[simp] theorem rget_setIn (s : State) (c : Nat) (d : PeerIn) (r' : Reg) : rget (setIn s c d) r' = rget s r' := rfl

/-! ### modQueue -/

@[simp] theorem modQueue_pending (s : State) (q : Nat) (f : Queue → Queue) : (modQueue s q f).pending = s.pending := rfl
@[simp] theorem modQueue_out (s : State) (q : Nat) (f : Queue → Queue) : (modQueue s q f).out = s.out := rfl
@[simp] theorem modQueue_regs (s : State) (q : Nat) (f : Queue → Queue) : (modQueue s q f).regs = s.regs := rfl
@[simp] theorem modQueue_draws (s : State) (q : Nat) (f : Queue → Queue) : (modQueue s q f).draws = s.draws := rfl
@[simp] theorem modQueue_clock (s : State) (q : Nat) (f : Queue → Queue) : (modQueue s q f).clock = s.clock := rfl
@[simp] theorem modQueue_phys (s : State) (q : Nat) (f : Queue → Queue) : (modQueue s q f).phys = s.phys := rfl
@[simp] theorem modQueue_tiles (s : State) (q : Nat) (f : Queue → Queue) : (modQueue s q f).tiles = s.tiles := rfl
@[simp] theorem modQueue_stitch (s : State) (q : Nat) (f : Queue → Queue) : (modQueue s q f).stitch = s.stitch := rfl
@[simp] theorem modQueue_hbm (s : State) (q : Nat) (f : Queue → Queue) : (modQueue s q f).hbm = s.hbm := rfl
@[simp] theorem modQueue_fabric (s : State) (q : Nat) (f : Queue → Queue) : (modQueue s q f).fabric = s.fabric := rfl
@[simp] theorem modQueue_router (s : State) (q : Nat) (f : Queue → Queue) : (modQueue s q f).router = s.router := rfl
@[simp] theorem modQueue_optics (s : State) (q : Nat) (f : Queue → Queue) : (modQueue s q f).optics = s.optics := rfl
@[simp] theorem modQueue_lanes (s : State) (q : Nat) (f : Queue → Queue) : (modQueue s q f).lanes = s.lanes := rfl
@[simp] theorem modQueue_plan (s : State) (q : Nat) (f : Queue → Queue) : (modQueue s q f).plan = s.plan := rfl
@[simp] theorem modQueue_last (s : State) (q : Nat) (f : Queue → Queue) : (modQueue s q f).last = s.last := rfl
@[simp] theorem modQueue_power (s : State) (q : Nat) (f : Queue → Queue) : (modQueue s q f).power = s.power := rfl
@[simp] theorem modQueue_pkg (s : State) (q : Nat) (f : Queue → Queue) : (modQueue s q f).pkg = s.pkg := rfl
@[simp] theorem modQueue_tenancy (s : State) (q : Nat) (f : Queue → Queue) : (modQueue s q f).tenancy = s.tenancy := rfl
@[simp] theorem modQueue_mgmt (s : State) (q : Nat) (f : Queue → Queue) : (modQueue s q f).mgmt = s.mgmt := rfl
@[simp] theorem modQueue_reset' (s : State) (q : Nat) (f : Queue → Queue) : (modQueue s q f).reset' = s.reset' := rfl
@[simp] theorem modQueue_faults (s : State) (q : Nat) (f : Queue → Queue) : (modQueue s q f).faults = s.faults := rfl
@[simp] theorem modQueue_trace (s : State) (q : Nat) (f : Queue → Queue) : (modQueue s q f).trace = s.trace := rfl
@[simp] theorem rget_modQueue (s : State) (q : Nat) (f : Queue → Queue) (r' : Reg) : rget (modQueue s q f) r' = rget s r' := rfl

/-! ### modFlight -/

@[simp] theorem modFlight_pending (s : State) (q id : Nat) (f : Flight → Flight) : (modFlight s q id f).pending = s.pending := rfl
@[simp] theorem modFlight_out (s : State) (q id : Nat) (f : Flight → Flight) : (modFlight s q id f).out = s.out := rfl
@[simp] theorem modFlight_regs (s : State) (q id : Nat) (f : Flight → Flight) : (modFlight s q id f).regs = s.regs := rfl
@[simp] theorem modFlight_draws (s : State) (q id : Nat) (f : Flight → Flight) : (modFlight s q id f).draws = s.draws := rfl
@[simp] theorem modFlight_clock (s : State) (q id : Nat) (f : Flight → Flight) : (modFlight s q id f).clock = s.clock := rfl
@[simp] theorem modFlight_phys (s : State) (q id : Nat) (f : Flight → Flight) : (modFlight s q id f).phys = s.phys := rfl
@[simp] theorem modFlight_tiles (s : State) (q id : Nat) (f : Flight → Flight) : (modFlight s q id f).tiles = s.tiles := rfl
@[simp] theorem modFlight_stitch (s : State) (q id : Nat) (f : Flight → Flight) : (modFlight s q id f).stitch = s.stitch := rfl
@[simp] theorem modFlight_hbm (s : State) (q id : Nat) (f : Flight → Flight) : (modFlight s q id f).hbm = s.hbm := rfl
@[simp] theorem modFlight_fabric (s : State) (q id : Nat) (f : Flight → Flight) : (modFlight s q id f).fabric = s.fabric := rfl
@[simp] theorem modFlight_router (s : State) (q id : Nat) (f : Flight → Flight) : (modFlight s q id f).router = s.router := rfl
@[simp] theorem modFlight_optics (s : State) (q id : Nat) (f : Flight → Flight) : (modFlight s q id f).optics = s.optics := rfl
@[simp] theorem modFlight_lanes (s : State) (q id : Nat) (f : Flight → Flight) : (modFlight s q id f).lanes = s.lanes := rfl
@[simp] theorem modFlight_plan (s : State) (q id : Nat) (f : Flight → Flight) : (modFlight s q id f).plan = s.plan := rfl
@[simp] theorem modFlight_last (s : State) (q id : Nat) (f : Flight → Flight) : (modFlight s q id f).last = s.last := rfl
@[simp] theorem modFlight_power (s : State) (q id : Nat) (f : Flight → Flight) : (modFlight s q id f).power = s.power := rfl
@[simp] theorem modFlight_pkg (s : State) (q id : Nat) (f : Flight → Flight) : (modFlight s q id f).pkg = s.pkg := rfl
@[simp] theorem modFlight_tenancy (s : State) (q id : Nat) (f : Flight → Flight) : (modFlight s q id f).tenancy = s.tenancy := rfl
@[simp] theorem modFlight_mgmt (s : State) (q id : Nat) (f : Flight → Flight) : (modFlight s q id f).mgmt = s.mgmt := rfl
@[simp] theorem modFlight_reset' (s : State) (q id : Nat) (f : Flight → Flight) : (modFlight s q id f).reset' = s.reset' := rfl
@[simp] theorem modFlight_faults (s : State) (q id : Nat) (f : Flight → Flight) : (modFlight s q id f).faults = s.faults := rfl
@[simp] theorem modFlight_trace (s : State) (q id : Nat) (f : Flight → Flight) : (modFlight s q id f).trace = s.trace := rfl
@[simp] theorem rget_modFlight (s : State) (q id : Nat) (f : Flight → Flight) (r' : Reg) : rget (modFlight s q id f) r' = rget s r' := rfl

/-! ### setLaceSet -/

@[simp] theorem setLaceSet_pending (s : State) (i : Nat) (f : LaceSet → LaceSet) : (setLaceSet s i f).pending = s.pending := rfl
@[simp] theorem setLaceSet_out (s : State) (i : Nat) (f : LaceSet → LaceSet) : (setLaceSet s i f).out = s.out := rfl
@[simp] theorem setLaceSet_regs (s : State) (i : Nat) (f : LaceSet → LaceSet) : (setLaceSet s i f).regs = s.regs := rfl
@[simp] theorem setLaceSet_draws (s : State) (i : Nat) (f : LaceSet → LaceSet) : (setLaceSet s i f).draws = s.draws := rfl
@[simp] theorem setLaceSet_clock (s : State) (i : Nat) (f : LaceSet → LaceSet) : (setLaceSet s i f).clock = s.clock := rfl
@[simp] theorem setLaceSet_phys (s : State) (i : Nat) (f : LaceSet → LaceSet) : (setLaceSet s i f).phys = s.phys := rfl
@[simp] theorem setLaceSet_tiles (s : State) (i : Nat) (f : LaceSet → LaceSet) : (setLaceSet s i f).tiles = s.tiles := rfl
@[simp] theorem setLaceSet_stitch (s : State) (i : Nat) (f : LaceSet → LaceSet) : (setLaceSet s i f).stitch = s.stitch := rfl
@[simp] theorem setLaceSet_hbm (s : State) (i : Nat) (f : LaceSet → LaceSet) : (setLaceSet s i f).hbm = s.hbm := rfl
@[simp] theorem setLaceSet_fabric (s : State) (i : Nat) (f : LaceSet → LaceSet) : (setLaceSet s i f).fabric = s.fabric := rfl
@[simp] theorem setLaceSet_router (s : State) (i : Nat) (f : LaceSet → LaceSet) : (setLaceSet s i f).router = s.router := rfl
@[simp] theorem setLaceSet_optics (s : State) (i : Nat) (f : LaceSet → LaceSet) : (setLaceSet s i f).optics = s.optics := rfl
@[simp] theorem setLaceSet_lanes (s : State) (i : Nat) (f : LaceSet → LaceSet) : (setLaceSet s i f).lanes = s.lanes := rfl
@[simp] theorem setLaceSet_plan (s : State) (i : Nat) (f : LaceSet → LaceSet) : (setLaceSet s i f).plan = s.plan := rfl
@[simp] theorem setLaceSet_last (s : State) (i : Nat) (f : LaceSet → LaceSet) : (setLaceSet s i f).last = s.last := rfl
@[simp] theorem setLaceSet_power (s : State) (i : Nat) (f : LaceSet → LaceSet) : (setLaceSet s i f).power = s.power := rfl
@[simp] theorem setLaceSet_pkg (s : State) (i : Nat) (f : LaceSet → LaceSet) : (setLaceSet s i f).pkg = s.pkg := rfl
@[simp] theorem setLaceSet_tenancy (s : State) (i : Nat) (f : LaceSet → LaceSet) : (setLaceSet s i f).tenancy = s.tenancy := rfl
@[simp] theorem setLaceSet_mgmt (s : State) (i : Nat) (f : LaceSet → LaceSet) : (setLaceSet s i f).mgmt = s.mgmt := rfl
@[simp] theorem setLaceSet_reset' (s : State) (i : Nat) (f : LaceSet → LaceSet) : (setLaceSet s i f).reset' = s.reset' := rfl
@[simp] theorem setLaceSet_faults (s : State) (i : Nat) (f : LaceSet → LaceSet) : (setLaceSet s i f).faults = s.faults := rfl
@[simp] theorem setLaceSet_trace (s : State) (i : Nat) (f : LaceSet → LaceSet) : (setLaceSet s i f).trace = s.trace := rfl
@[simp] theorem rget_setLaceSet (s : State) (i : Nat) (f : LaceSet → LaceSet) (r' : Reg) : rget (setLaceSet s i f) r' = rget s r' := rfl

/-! ### putCtx -/

@[simp] theorem putCtx_pending (s : State) (k : Nat) (c : CopyRec) : (putCtx s k c).pending = s.pending := rfl
@[simp] theorem putCtx_out (s : State) (k : Nat) (c : CopyRec) : (putCtx s k c).out = s.out := rfl
@[simp] theorem putCtx_regs (s : State) (k : Nat) (c : CopyRec) : (putCtx s k c).regs = s.regs := rfl
@[simp] theorem putCtx_draws (s : State) (k : Nat) (c : CopyRec) : (putCtx s k c).draws = s.draws := rfl
@[simp] theorem putCtx_clock (s : State) (k : Nat) (c : CopyRec) : (putCtx s k c).clock = s.clock := rfl
@[simp] theorem putCtx_phys (s : State) (k : Nat) (c : CopyRec) : (putCtx s k c).phys = s.phys := rfl
@[simp] theorem putCtx_tiles (s : State) (k : Nat) (c : CopyRec) : (putCtx s k c).tiles = s.tiles := rfl
@[simp] theorem putCtx_hbm (s : State) (k : Nat) (c : CopyRec) : (putCtx s k c).hbm = s.hbm := rfl
@[simp] theorem putCtx_fabric (s : State) (k : Nat) (c : CopyRec) : (putCtx s k c).fabric = s.fabric := rfl
@[simp] theorem putCtx_router (s : State) (k : Nat) (c : CopyRec) : (putCtx s k c).router = s.router := rfl
@[simp] theorem putCtx_optics (s : State) (k : Nat) (c : CopyRec) : (putCtx s k c).optics = s.optics := rfl
@[simp] theorem putCtx_lanes (s : State) (k : Nat) (c : CopyRec) : (putCtx s k c).lanes = s.lanes := rfl
@[simp] theorem putCtx_plan (s : State) (k : Nat) (c : CopyRec) : (putCtx s k c).plan = s.plan := rfl
@[simp] theorem putCtx_last (s : State) (k : Nat) (c : CopyRec) : (putCtx s k c).last = s.last := rfl
@[simp] theorem putCtx_queues (s : State) (k : Nat) (c : CopyRec) : (putCtx s k c).queues = s.queues := rfl
@[simp] theorem putCtx_power (s : State) (k : Nat) (c : CopyRec) : (putCtx s k c).power = s.power := rfl
@[simp] theorem putCtx_pkg (s : State) (k : Nat) (c : CopyRec) : (putCtx s k c).pkg = s.pkg := rfl
@[simp] theorem putCtx_tenancy (s : State) (k : Nat) (c : CopyRec) : (putCtx s k c).tenancy = s.tenancy := rfl
@[simp] theorem putCtx_mgmt (s : State) (k : Nat) (c : CopyRec) : (putCtx s k c).mgmt = s.mgmt := rfl
@[simp] theorem putCtx_reset' (s : State) (k : Nat) (c : CopyRec) : (putCtx s k c).reset' = s.reset' := rfl
@[simp] theorem putCtx_faults (s : State) (k : Nat) (c : CopyRec) : (putCtx s k c).faults = s.faults := rfl
@[simp] theorem putCtx_trace (s : State) (k : Nat) (c : CopyRec) : (putCtx s k c).trace = s.trace := rfl
@[simp] theorem rget_putCtx (s : State) (k : Nat) (c : CopyRec) (r' : Reg) : rget (putCtx s k c) r' = rget s r' := rfl

/-! ### delCtx -/

@[simp] theorem delCtx_pending (s : State) (k : Nat) : (delCtx s k).pending = s.pending := rfl
@[simp] theorem delCtx_out (s : State) (k : Nat) : (delCtx s k).out = s.out := rfl
@[simp] theorem delCtx_regs (s : State) (k : Nat) : (delCtx s k).regs = s.regs := rfl
@[simp] theorem delCtx_draws (s : State) (k : Nat) : (delCtx s k).draws = s.draws := rfl
@[simp] theorem delCtx_clock (s : State) (k : Nat) : (delCtx s k).clock = s.clock := rfl
@[simp] theorem delCtx_phys (s : State) (k : Nat) : (delCtx s k).phys = s.phys := rfl
@[simp] theorem delCtx_tiles (s : State) (k : Nat) : (delCtx s k).tiles = s.tiles := rfl
@[simp] theorem delCtx_hbm (s : State) (k : Nat) : (delCtx s k).hbm = s.hbm := rfl
@[simp] theorem delCtx_fabric (s : State) (k : Nat) : (delCtx s k).fabric = s.fabric := rfl
@[simp] theorem delCtx_router (s : State) (k : Nat) : (delCtx s k).router = s.router := rfl
@[simp] theorem delCtx_optics (s : State) (k : Nat) : (delCtx s k).optics = s.optics := rfl
@[simp] theorem delCtx_lanes (s : State) (k : Nat) : (delCtx s k).lanes = s.lanes := rfl
@[simp] theorem delCtx_plan (s : State) (k : Nat) : (delCtx s k).plan = s.plan := rfl
@[simp] theorem delCtx_last (s : State) (k : Nat) : (delCtx s k).last = s.last := rfl
@[simp] theorem delCtx_queues (s : State) (k : Nat) : (delCtx s k).queues = s.queues := rfl
@[simp] theorem delCtx_power (s : State) (k : Nat) : (delCtx s k).power = s.power := rfl
@[simp] theorem delCtx_pkg (s : State) (k : Nat) : (delCtx s k).pkg = s.pkg := rfl
@[simp] theorem delCtx_tenancy (s : State) (k : Nat) : (delCtx s k).tenancy = s.tenancy := rfl
@[simp] theorem delCtx_mgmt (s : State) (k : Nat) : (delCtx s k).mgmt = s.mgmt := rfl
@[simp] theorem delCtx_reset' (s : State) (k : Nat) : (delCtx s k).reset' = s.reset' := rfl
@[simp] theorem delCtx_faults (s : State) (k : Nat) : (delCtx s k).faults = s.faults := rfl
@[simp] theorem delCtx_trace (s : State) (k : Nat) : (delCtx s k).trace = s.trace := rfl
@[simp] theorem rget_delCtx (s : State) (k : Nat) (r' : Reg) : rget (delCtx s k) r' = rget s r' := rfl

/-! ### setBoot -/

@[simp] theorem setBoot_pending (s : State) (b : Boot) : (setBoot s b).pending = s.pending := rfl
@[simp] theorem setBoot_out (s : State) (b : Boot) : (setBoot s b).out = s.out := rfl
@[simp] theorem setBoot_regs (s : State) (b : Boot) : (setBoot s b).regs = s.regs := rfl
@[simp] theorem setBoot_draws (s : State) (b : Boot) : (setBoot s b).draws = s.draws := rfl
@[simp] theorem setBoot_clock (s : State) (b : Boot) : (setBoot s b).clock = s.clock := rfl
@[simp] theorem setBoot_phys (s : State) (b : Boot) : (setBoot s b).phys = s.phys := rfl
@[simp] theorem setBoot_tiles (s : State) (b : Boot) : (setBoot s b).tiles = s.tiles := rfl
@[simp] theorem setBoot_stitch (s : State) (b : Boot) : (setBoot s b).stitch = s.stitch := rfl
@[simp] theorem setBoot_hbm (s : State) (b : Boot) : (setBoot s b).hbm = s.hbm := rfl
@[simp] theorem setBoot_fabric (s : State) (b : Boot) : (setBoot s b).fabric = s.fabric := rfl
@[simp] theorem setBoot_router (s : State) (b : Boot) : (setBoot s b).router = s.router := rfl
@[simp] theorem setBoot_optics (s : State) (b : Boot) : (setBoot s b).optics = s.optics := rfl
@[simp] theorem setBoot_lanes (s : State) (b : Boot) : (setBoot s b).lanes = s.lanes := rfl
@[simp] theorem setBoot_plan (s : State) (b : Boot) : (setBoot s b).plan = s.plan := rfl
@[simp] theorem setBoot_last (s : State) (b : Boot) : (setBoot s b).last = s.last := rfl
@[simp] theorem setBoot_queues (s : State) (b : Boot) : (setBoot s b).queues = s.queues := rfl
@[simp] theorem setBoot_power (s : State) (b : Boot) : (setBoot s b).power = s.power := rfl
@[simp] theorem setBoot_pkg (s : State) (b : Boot) : (setBoot s b).pkg = s.pkg := rfl
@[simp] theorem setBoot_tenancy (s : State) (b : Boot) : (setBoot s b).tenancy = s.tenancy := rfl
@[simp] theorem setBoot_mgmt (s : State) (b : Boot) : (setBoot s b).mgmt = s.mgmt := rfl
@[simp] theorem setBoot_faults (s : State) (b : Boot) : (setBoot s b).faults = s.faults := rfl
@[simp] theorem setBoot_trace (s : State) (b : Boot) : (setBoot s b).trace = s.trace := rfl
@[simp] theorem rget_setBoot (s : State) (b : Boot) (r' : Reg) : rget (setBoot s b) r' = rget s r' := rfl

/-! ### setRef -/

@[simp] theorem setRef_pending (s : State) (x : RefState) : (setRef s x).pending = s.pending := rfl
@[simp] theorem setRef_out (s : State) (x : RefState) : (setRef s x).out = s.out := rfl
@[simp] theorem setRef_regs (s : State) (x : RefState) : (setRef s x).regs = s.regs := rfl
@[simp] theorem setRef_draws (s : State) (x : RefState) : (setRef s x).draws = s.draws := rfl
@[simp] theorem setRef_phys (s : State) (x : RefState) : (setRef s x).phys = s.phys := rfl
@[simp] theorem setRef_tiles (s : State) (x : RefState) : (setRef s x).tiles = s.tiles := rfl
@[simp] theorem setRef_stitch (s : State) (x : RefState) : (setRef s x).stitch = s.stitch := rfl
@[simp] theorem setRef_hbm (s : State) (x : RefState) : (setRef s x).hbm = s.hbm := rfl
@[simp] theorem setRef_fabric (s : State) (x : RefState) : (setRef s x).fabric = s.fabric := rfl
@[simp] theorem setRef_router (s : State) (x : RefState) : (setRef s x).router = s.router := rfl
@[simp] theorem setRef_optics (s : State) (x : RefState) : (setRef s x).optics = s.optics := rfl
@[simp] theorem setRef_lanes (s : State) (x : RefState) : (setRef s x).lanes = s.lanes := rfl
@[simp] theorem setRef_plan (s : State) (x : RefState) : (setRef s x).plan = s.plan := rfl
@[simp] theorem setRef_last (s : State) (x : RefState) : (setRef s x).last = s.last := rfl
@[simp] theorem setRef_queues (s : State) (x : RefState) : (setRef s x).queues = s.queues := rfl
@[simp] theorem setRef_power (s : State) (x : RefState) : (setRef s x).power = s.power := rfl
@[simp] theorem setRef_pkg (s : State) (x : RefState) : (setRef s x).pkg = s.pkg := rfl
@[simp] theorem setRef_tenancy (s : State) (x : RefState) : (setRef s x).tenancy = s.tenancy := rfl
@[simp] theorem setRef_mgmt (s : State) (x : RefState) : (setRef s x).mgmt = s.mgmt := rfl
@[simp] theorem setRef_reset' (s : State) (x : RefState) : (setRef s x).reset' = s.reset' := rfl
@[simp] theorem setRef_faults (s : State) (x : RefState) : (setRef s x).faults = s.faults := rfl
@[simp] theorem setRef_trace (s : State) (x : RefState) : (setRef s x).trace = s.trace := rfl
@[simp] theorem rget_setRef (s : State) (x : RefState) (r' : Reg) : rget (setRef s x) r' = rget s r' := rfl

/-! ### setBucket -/

@[simp] theorem setBucket_pending (s : State) (die p : Nat) (b : Bucket) : (setBucket s die p b).pending = s.pending := rfl
@[simp] theorem setBucket_out (s : State) (die p : Nat) (b : Bucket) : (setBucket s die p b).out = s.out := rfl
@[simp] theorem setBucket_regs (s : State) (die p : Nat) (b : Bucket) : (setBucket s die p b).regs = s.regs := rfl
@[simp] theorem setBucket_draws (s : State) (die p : Nat) (b : Bucket) : (setBucket s die p b).draws = s.draws := rfl
@[simp] theorem setBucket_clock (s : State) (die p : Nat) (b : Bucket) : (setBucket s die p b).clock = s.clock := rfl
@[simp] theorem setBucket_phys (s : State) (die p : Nat) (b : Bucket) : (setBucket s die p b).phys = s.phys := rfl
@[simp] theorem setBucket_tiles (s : State) (die p : Nat) (b : Bucket) : (setBucket s die p b).tiles = s.tiles := rfl
@[simp] theorem setBucket_stitch (s : State) (die p : Nat) (b : Bucket) : (setBucket s die p b).stitch = s.stitch := rfl
@[simp] theorem setBucket_fabric (s : State) (die p : Nat) (b : Bucket) : (setBucket s die p b).fabric = s.fabric := rfl
@[simp] theorem setBucket_router (s : State) (die p : Nat) (b : Bucket) : (setBucket s die p b).router = s.router := rfl
@[simp] theorem setBucket_optics (s : State) (die p : Nat) (b : Bucket) : (setBucket s die p b).optics = s.optics := rfl
@[simp] theorem setBucket_lanes (s : State) (die p : Nat) (b : Bucket) : (setBucket s die p b).lanes = s.lanes := rfl
@[simp] theorem setBucket_plan (s : State) (die p : Nat) (b : Bucket) : (setBucket s die p b).plan = s.plan := rfl
@[simp] theorem setBucket_last (s : State) (die p : Nat) (b : Bucket) : (setBucket s die p b).last = s.last := rfl
@[simp] theorem setBucket_queues (s : State) (die p : Nat) (b : Bucket) : (setBucket s die p b).queues = s.queues := rfl
@[simp] theorem setBucket_power (s : State) (die p : Nat) (b : Bucket) : (setBucket s die p b).power = s.power := rfl
@[simp] theorem setBucket_pkg (s : State) (die p : Nat) (b : Bucket) : (setBucket s die p b).pkg = s.pkg := rfl
@[simp] theorem setBucket_tenancy (s : State) (die p : Nat) (b : Bucket) : (setBucket s die p b).tenancy = s.tenancy := rfl
@[simp] theorem setBucket_mgmt (s : State) (die p : Nat) (b : Bucket) : (setBucket s die p b).mgmt = s.mgmt := rfl
@[simp] theorem setBucket_reset' (s : State) (die p : Nat) (b : Bucket) : (setBucket s die p b).reset' = s.reset' := rfl
@[simp] theorem setBucket_faults (s : State) (die p : Nat) (b : Bucket) : (setBucket s die p b).faults = s.faults := rfl
@[simp] theorem setBucket_trace (s : State) (die p : Nat) (b : Bucket) : (setBucket s die p b).trace = s.trace := rfl
@[simp] theorem rget_setBucket (s : State) (die p : Nat) (b : Bucket) (r' : Reg) : rget (setBucket s die p b) r' = rget s r' := rfl

/-! ### hbmWrite -/

@[simp] theorem hbmWrite_pending (s : State) (a : Nat) (bs : List Byte) : (hbmWrite s a bs).pending = s.pending := rfl
@[simp] theorem hbmWrite_out (s : State) (a : Nat) (bs : List Byte) : (hbmWrite s a bs).out = s.out := rfl
@[simp] theorem hbmWrite_regs (s : State) (a : Nat) (bs : List Byte) : (hbmWrite s a bs).regs = s.regs := rfl
@[simp] theorem hbmWrite_draws (s : State) (a : Nat) (bs : List Byte) : (hbmWrite s a bs).draws = s.draws := rfl
@[simp] theorem hbmWrite_clock (s : State) (a : Nat) (bs : List Byte) : (hbmWrite s a bs).clock = s.clock := rfl
@[simp] theorem hbmWrite_tiles (s : State) (a : Nat) (bs : List Byte) : (hbmWrite s a bs).tiles = s.tiles := rfl
@[simp] theorem hbmWrite_stitch (s : State) (a : Nat) (bs : List Byte) : (hbmWrite s a bs).stitch = s.stitch := rfl
@[simp] theorem hbmWrite_fabric (s : State) (a : Nat) (bs : List Byte) : (hbmWrite s a bs).fabric = s.fabric := rfl
@[simp] theorem hbmWrite_router (s : State) (a : Nat) (bs : List Byte) : (hbmWrite s a bs).router = s.router := rfl
@[simp] theorem hbmWrite_optics (s : State) (a : Nat) (bs : List Byte) : (hbmWrite s a bs).optics = s.optics := rfl
@[simp] theorem hbmWrite_lanes (s : State) (a : Nat) (bs : List Byte) : (hbmWrite s a bs).lanes = s.lanes := rfl
@[simp] theorem hbmWrite_plan (s : State) (a : Nat) (bs : List Byte) : (hbmWrite s a bs).plan = s.plan := rfl
@[simp] theorem hbmWrite_last (s : State) (a : Nat) (bs : List Byte) : (hbmWrite s a bs).last = s.last := rfl
@[simp] theorem hbmWrite_power (s : State) (a : Nat) (bs : List Byte) : (hbmWrite s a bs).power = s.power := rfl
@[simp] theorem hbmWrite_pkg (s : State) (a : Nat) (bs : List Byte) : (hbmWrite s a bs).pkg = s.pkg := rfl
@[simp] theorem hbmWrite_tenancy (s : State) (a : Nat) (bs : List Byte) : (hbmWrite s a bs).tenancy = s.tenancy := rfl
@[simp] theorem hbmWrite_mgmt (s : State) (a : Nat) (bs : List Byte) : (hbmWrite s a bs).mgmt = s.mgmt := rfl
@[simp] theorem hbmWrite_reset' (s : State) (a : Nat) (bs : List Byte) : (hbmWrite s a bs).reset' = s.reset' := rfl
@[simp] theorem hbmWrite_faults (s : State) (a : Nat) (bs : List Byte) : (hbmWrite s a bs).faults = s.faults := rfl
@[simp] theorem hbmWrite_trace (s : State) (a : Nat) (bs : List Byte) : (hbmWrite s a bs).trace = s.trace := rfl
@[simp] theorem rget_hbmWrite (s : State) (a : Nat) (bs : List Byte) (r' : Reg) : rget (hbmWrite s a bs) r' = rget s r' := rfl

/-! ### answer -/

@[simp] theorem answer_pending (s : State) (via : Via) (k i u t : Nat) : (answer s via k i u t).pending = s.pending := rfl
@[simp] theorem answer_regs (s : State) (via : Via) (k i u t : Nat) : (answer s via k i u t).regs = s.regs := rfl
@[simp] theorem answer_draws (s : State) (via : Via) (k i u t : Nat) : (answer s via k i u t).draws = s.draws := rfl
@[simp] theorem answer_clock (s : State) (via : Via) (k i u t : Nat) : (answer s via k i u t).clock = s.clock := rfl
@[simp] theorem answer_phys (s : State) (via : Via) (k i u t : Nat) : (answer s via k i u t).phys = s.phys := rfl
@[simp] theorem answer_tiles (s : State) (via : Via) (k i u t : Nat) : (answer s via k i u t).tiles = s.tiles := rfl
@[simp] theorem answer_stitch (s : State) (via : Via) (k i u t : Nat) : (answer s via k i u t).stitch = s.stitch := rfl
@[simp] theorem answer_hbm (s : State) (via : Via) (k i u t : Nat) : (answer s via k i u t).hbm = s.hbm := rfl
@[simp] theorem answer_fabric (s : State) (via : Via) (k i u t : Nat) : (answer s via k i u t).fabric = s.fabric := rfl
@[simp] theorem answer_router (s : State) (via : Via) (k i u t : Nat) : (answer s via k i u t).router = s.router := rfl
@[simp] theorem answer_optics (s : State) (via : Via) (k i u t : Nat) : (answer s via k i u t).optics = s.optics := rfl
@[simp] theorem answer_lanes (s : State) (via : Via) (k i u t : Nat) : (answer s via k i u t).lanes = s.lanes := rfl
@[simp] theorem answer_plan (s : State) (via : Via) (k i u t : Nat) : (answer s via k i u t).plan = s.plan := rfl
@[simp] theorem answer_last (s : State) (via : Via) (k i u t : Nat) : (answer s via k i u t).last = s.last := rfl
@[simp] theorem answer_queues (s : State) (via : Via) (k i u t : Nat) : (answer s via k i u t).queues = s.queues := rfl
@[simp] theorem answer_power (s : State) (via : Via) (k i u t : Nat) : (answer s via k i u t).power = s.power := rfl
@[simp] theorem answer_pkg (s : State) (via : Via) (k i u t : Nat) : (answer s via k i u t).pkg = s.pkg := rfl
@[simp] theorem answer_tenancy (s : State) (via : Via) (k i u t : Nat) : (answer s via k i u t).tenancy = s.tenancy := rfl
@[simp] theorem answer_mgmt (s : State) (via : Via) (k i u t : Nat) : (answer s via k i u t).mgmt = s.mgmt := rfl
@[simp] theorem answer_reset' (s : State) (via : Via) (k i u t : Nat) : (answer s via k i u t).reset' = s.reset' := rfl
@[simp] theorem answer_faults (s : State) (via : Via) (k i u t : Nat) : (answer s via k i u t).faults = s.faults := rfl
@[simp] theorem answer_trace (s : State) (via : Via) (k i u t : Nat) : (answer s via k i u t).trace = s.trace := rfl
@[simp] theorem rget_answer (s : State) (via : Via) (k i u t : Nat) (r' : Reg) : rget (answer s via k i u t) r' = rget s r' := rfl

/-! ### report -/

@[simp] theorem report_pending (s : State) (c : Nat) : (report s c).pending = s.pending := by unfold report; split <;> rfl
@[simp] theorem report_out (s : State) (c : Nat) : (report s c).out = s.out := by unfold report; split <;> rfl
@[simp] theorem report_regs (s : State) (c : Nat) : (report s c).regs = s.regs := by unfold report; split <;> rfl
@[simp] theorem report_draws (s : State) (c : Nat) : (report s c).draws = s.draws := by unfold report; split <;> rfl
@[simp] theorem report_clock (s : State) (c : Nat) : (report s c).clock = s.clock := by unfold report; split <;> rfl
@[simp] theorem report_phys (s : State) (c : Nat) : (report s c).phys = s.phys := by unfold report; split <;> rfl
@[simp] theorem report_tiles (s : State) (c : Nat) : (report s c).tiles = s.tiles := by unfold report; split <;> rfl
@[simp] theorem report_stitch (s : State) (c : Nat) : (report s c).stitch = s.stitch := by unfold report; split <;> rfl
@[simp] theorem report_hbm (s : State) (c : Nat) : (report s c).hbm = s.hbm := by unfold report; split <;> rfl
@[simp] theorem report_fabric (s : State) (c : Nat) : (report s c).fabric = s.fabric := by unfold report; split <;> rfl
@[simp] theorem report_router (s : State) (c : Nat) : (report s c).router = s.router := by unfold report; split <;> rfl
@[simp] theorem report_optics (s : State) (c : Nat) : (report s c).optics = s.optics := by unfold report; split <;> rfl
@[simp] theorem report_lanes (s : State) (c : Nat) : (report s c).lanes = s.lanes := by unfold report; split <;> rfl
@[simp] theorem report_plan (s : State) (c : Nat) : (report s c).plan = s.plan := by unfold report; split <;> rfl
@[simp] theorem report_last (s : State) (c : Nat) : (report s c).last = s.last := by unfold report; split <;> rfl
@[simp] theorem report_queues (s : State) (c : Nat) : (report s c).queues = s.queues := by unfold report; split <;> rfl
@[simp] theorem report_power (s : State) (c : Nat) : (report s c).power = s.power := by unfold report; split <;> rfl
@[simp] theorem report_pkg (s : State) (c : Nat) : (report s c).pkg = s.pkg := by unfold report; split <;> rfl
@[simp] theorem report_tenancy (s : State) (c : Nat) : (report s c).tenancy = s.tenancy := by unfold report; split <;> rfl
@[simp] theorem report_reset' (s : State) (c : Nat) : (report s c).reset' = s.reset' := by unfold report; split <;> rfl
@[simp] theorem report_faults (s : State) (c : Nat) : (report s c).faults = s.faults := by unfold report; split <;> rfl
@[simp] theorem report_trace (s : State) (c : Nat) : (report s c).trace = s.trace := by unfold report; split <;> rfl

/-! ### traceQueue -/

@[simp] theorem traceQueue_pending (s : State) (r : List Word) : (traceQueue s r).pending = s.pending := by unfold traceQueue; split <;> rfl
@[simp] theorem traceQueue_out (s : State) (r : List Word) : (traceQueue s r).out = s.out := by unfold traceQueue; split <;> rfl
@[simp] theorem traceQueue_draws (s : State) (r : List Word) : (traceQueue s r).draws = s.draws := by unfold traceQueue; split <;> rfl
@[simp] theorem traceQueue_clock (s : State) (r : List Word) : (traceQueue s r).clock = s.clock := by unfold traceQueue; split <;> rfl
@[simp] theorem traceQueue_phys (s : State) (r : List Word) : (traceQueue s r).phys = s.phys := by unfold traceQueue; split <;> rfl
@[simp] theorem traceQueue_tiles (s : State) (r : List Word) : (traceQueue s r).tiles = s.tiles := by unfold traceQueue; split <;> rfl
@[simp] theorem traceQueue_stitch (s : State) (r : List Word) : (traceQueue s r).stitch = s.stitch := by unfold traceQueue; split <;> rfl
@[simp] theorem traceQueue_hbm (s : State) (r : List Word) : (traceQueue s r).hbm = s.hbm := by unfold traceQueue; split <;> rfl
@[simp] theorem traceQueue_fabric (s : State) (r : List Word) : (traceQueue s r).fabric = s.fabric := by unfold traceQueue; split <;> rfl
@[simp] theorem traceQueue_router (s : State) (r : List Word) : (traceQueue s r).router = s.router := by unfold traceQueue; split <;> rfl
@[simp] theorem traceQueue_optics (s : State) (r : List Word) : (traceQueue s r).optics = s.optics := by unfold traceQueue; split <;> rfl
@[simp] theorem traceQueue_lanes (s : State) (r : List Word) : (traceQueue s r).lanes = s.lanes := by unfold traceQueue; split <;> rfl
@[simp] theorem traceQueue_plan (s : State) (r : List Word) : (traceQueue s r).plan = s.plan := by unfold traceQueue; split <;> rfl
@[simp] theorem traceQueue_last (s : State) (r : List Word) : (traceQueue s r).last = s.last := by unfold traceQueue; split <;> rfl
@[simp] theorem traceQueue_queues (s : State) (r : List Word) : (traceQueue s r).queues = s.queues := by unfold traceQueue; split <;> rfl
@[simp] theorem traceQueue_power (s : State) (r : List Word) : (traceQueue s r).power = s.power := by unfold traceQueue; split <;> rfl
@[simp] theorem traceQueue_pkg (s : State) (r : List Word) : (traceQueue s r).pkg = s.pkg := by unfold traceQueue; split <;> rfl
@[simp] theorem traceQueue_tenancy (s : State) (r : List Word) : (traceQueue s r).tenancy = s.tenancy := by unfold traceQueue; split <;> rfl
@[simp] theorem traceQueue_mgmt (s : State) (r : List Word) : (traceQueue s r).mgmt = s.mgmt := by unfold traceQueue; split <;> rfl
@[simp] theorem traceQueue_reset' (s : State) (r : List Word) : (traceQueue s r).reset' = s.reset' := by unfold traceQueue; split <;> rfl
@[simp] theorem traceQueue_faults (s : State) (r : List Word) : (traceQueue s r).faults = s.faults := by unfold traceQueue; split <;> rfl

/-! ### traceMake -/

@[simp] theorem traceMake_pending (s : State) (t : Nat) (a b : Word) : (traceMake s t a b).pending = s.pending := by unfold traceMake; split <;> simp
@[simp] theorem traceMake_out (s : State) (t : Nat) (a b : Word) : (traceMake s t a b).out = s.out := by unfold traceMake; split <;> simp
@[simp] theorem traceMake_draws (s : State) (t : Nat) (a b : Word) : (traceMake s t a b).draws = s.draws := by unfold traceMake; split <;> simp
@[simp] theorem traceMake_clock (s : State) (t : Nat) (a b : Word) : (traceMake s t a b).clock = s.clock := by unfold traceMake; split <;> simp
@[simp] theorem traceMake_phys (s : State) (t : Nat) (a b : Word) : (traceMake s t a b).phys = s.phys := by unfold traceMake; split <;> simp
@[simp] theorem traceMake_tiles (s : State) (t : Nat) (a b : Word) : (traceMake s t a b).tiles = s.tiles := by unfold traceMake; split <;> simp
@[simp] theorem traceMake_stitch (s : State) (t : Nat) (a b : Word) : (traceMake s t a b).stitch = s.stitch := by unfold traceMake; split <;> simp
@[simp] theorem traceMake_hbm (s : State) (t : Nat) (a b : Word) : (traceMake s t a b).hbm = s.hbm := by unfold traceMake; split <;> simp
@[simp] theorem traceMake_fabric (s : State) (t : Nat) (a b : Word) : (traceMake s t a b).fabric = s.fabric := by unfold traceMake; split <;> simp
@[simp] theorem traceMake_router (s : State) (t : Nat) (a b : Word) : (traceMake s t a b).router = s.router := by unfold traceMake; split <;> simp
@[simp] theorem traceMake_optics (s : State) (t : Nat) (a b : Word) : (traceMake s t a b).optics = s.optics := by unfold traceMake; split <;> simp
@[simp] theorem traceMake_lanes (s : State) (t : Nat) (a b : Word) : (traceMake s t a b).lanes = s.lanes := by unfold traceMake; split <;> simp
@[simp] theorem traceMake_plan (s : State) (t : Nat) (a b : Word) : (traceMake s t a b).plan = s.plan := by unfold traceMake; split <;> simp
@[simp] theorem traceMake_last (s : State) (t : Nat) (a b : Word) : (traceMake s t a b).last = s.last := by unfold traceMake; split <;> simp
@[simp] theorem traceMake_queues (s : State) (t : Nat) (a b : Word) : (traceMake s t a b).queues = s.queues := by unfold traceMake; split <;> simp
@[simp] theorem traceMake_power (s : State) (t : Nat) (a b : Word) : (traceMake s t a b).power = s.power := by unfold traceMake; split <;> simp
@[simp] theorem traceMake_pkg (s : State) (t : Nat) (a b : Word) : (traceMake s t a b).pkg = s.pkg := by unfold traceMake; split <;> simp
@[simp] theorem traceMake_tenancy (s : State) (t : Nat) (a b : Word) : (traceMake s t a b).tenancy = s.tenancy := by unfold traceMake; split <;> simp
@[simp] theorem traceMake_mgmt (s : State) (t : Nat) (a b : Word) : (traceMake s t a b).mgmt = s.mgmt := by unfold traceMake; split <;> simp
@[simp] theorem traceMake_reset' (s : State) (t : Nat) (a b : Word) : (traceMake s t a b).reset' = s.reset' := by unfold traceMake; split <;> simp
@[simp] theorem traceMake_faults (s : State) (t : Nat) (a b : Word) : (traceMake s t a b).faults = s.faults := by unfold traceMake; split <;> simp

/-! ### keepRecord -/

@[simp] theorem keepRecord_pending (s : State) (r : FaultRec) : (keepRecord s r).pending = s.pending := by unfold keepRecord; dsimp only; split <;> rfl
@[simp] theorem keepRecord_out (s : State) (r : FaultRec) : (keepRecord s r).out = s.out := by unfold keepRecord; dsimp only; split <;> rfl
@[simp] theorem keepRecord_draws (s : State) (r : FaultRec) : (keepRecord s r).draws = s.draws := by unfold keepRecord; dsimp only; split <;> rfl
@[simp] theorem keepRecord_clock (s : State) (r : FaultRec) : (keepRecord s r).clock = s.clock := by unfold keepRecord; dsimp only; split <;> rfl
@[simp] theorem keepRecord_phys (s : State) (r : FaultRec) : (keepRecord s r).phys = s.phys := by unfold keepRecord; dsimp only; split <;> rfl
@[simp] theorem keepRecord_tiles (s : State) (r : FaultRec) : (keepRecord s r).tiles = s.tiles := by unfold keepRecord; dsimp only; split <;> rfl
@[simp] theorem keepRecord_stitch (s : State) (r : FaultRec) : (keepRecord s r).stitch = s.stitch := by unfold keepRecord; dsimp only; split <;> rfl
@[simp] theorem keepRecord_hbm (s : State) (r : FaultRec) : (keepRecord s r).hbm = s.hbm := by unfold keepRecord; dsimp only; split <;> rfl
@[simp] theorem keepRecord_fabric (s : State) (r : FaultRec) : (keepRecord s r).fabric = s.fabric := by unfold keepRecord; dsimp only; split <;> rfl
@[simp] theorem keepRecord_router (s : State) (r : FaultRec) : (keepRecord s r).router = s.router := by unfold keepRecord; dsimp only; split <;> rfl
@[simp] theorem keepRecord_optics (s : State) (r : FaultRec) : (keepRecord s r).optics = s.optics := by unfold keepRecord; dsimp only; split <;> rfl
@[simp] theorem keepRecord_lanes (s : State) (r : FaultRec) : (keepRecord s r).lanes = s.lanes := by unfold keepRecord; dsimp only; split <;> rfl
@[simp] theorem keepRecord_plan (s : State) (r : FaultRec) : (keepRecord s r).plan = s.plan := by unfold keepRecord; dsimp only; split <;> rfl
@[simp] theorem keepRecord_last (s : State) (r : FaultRec) : (keepRecord s r).last = s.last := by unfold keepRecord; dsimp only; split <;> rfl
@[simp] theorem keepRecord_queues (s : State) (r : FaultRec) : (keepRecord s r).queues = s.queues := by unfold keepRecord; dsimp only; split <;> rfl
@[simp] theorem keepRecord_power (s : State) (r : FaultRec) : (keepRecord s r).power = s.power := by unfold keepRecord; dsimp only; split <;> rfl
@[simp] theorem keepRecord_pkg (s : State) (r : FaultRec) : (keepRecord s r).pkg = s.pkg := by unfold keepRecord; dsimp only; split <;> rfl
@[simp] theorem keepRecord_tenancy (s : State) (r : FaultRec) : (keepRecord s r).tenancy = s.tenancy := by unfold keepRecord; dsimp only; split <;> rfl
@[simp] theorem keepRecord_mgmt (s : State) (r : FaultRec) : (keepRecord s r).mgmt = s.mgmt := by unfold keepRecord; dsimp only; split <;> rfl
@[simp] theorem keepRecord_reset' (s : State) (r : FaultRec) : (keepRecord s r).reset' = s.reset' := by unfold keepRecord; dsimp only; split <;> rfl

/-! ### tileError -/

@[simp] theorem tileError_pending (s : State) (p c : Nat) : (tileError s p c).pending = s.pending := rfl
@[simp] theorem tileError_out (s : State) (p c : Nat) : (tileError s p c).out = s.out := rfl
@[simp] theorem tileError_draws (s : State) (p c : Nat) : (tileError s p c).draws = s.draws := rfl
@[simp] theorem tileError_clock (s : State) (p c : Nat) : (tileError s p c).clock = s.clock := rfl
@[simp] theorem tileError_phys (s : State) (p c : Nat) : (tileError s p c).phys = s.phys := rfl
@[simp] theorem tileError_tiles (s : State) (p c : Nat) : (tileError s p c).tiles = s.tiles := rfl
@[simp] theorem tileError_stitch (s : State) (p c : Nat) : (tileError s p c).stitch = s.stitch := rfl
@[simp] theorem tileError_hbm (s : State) (p c : Nat) : (tileError s p c).hbm = s.hbm := rfl
@[simp] theorem tileError_fabric (s : State) (p c : Nat) : (tileError s p c).fabric = s.fabric := rfl
@[simp] theorem tileError_router (s : State) (p c : Nat) : (tileError s p c).router = s.router := rfl
@[simp] theorem tileError_optics (s : State) (p c : Nat) : (tileError s p c).optics = s.optics := rfl
@[simp] theorem tileError_lanes (s : State) (p c : Nat) : (tileError s p c).lanes = s.lanes := rfl
@[simp] theorem tileError_plan (s : State) (p c : Nat) : (tileError s p c).plan = s.plan := rfl
@[simp] theorem tileError_last (s : State) (p c : Nat) : (tileError s p c).last = s.last := rfl
@[simp] theorem tileError_queues (s : State) (p c : Nat) : (tileError s p c).queues = s.queues := rfl
@[simp] theorem tileError_power (s : State) (p c : Nat) : (tileError s p c).power = s.power := rfl
@[simp] theorem tileError_pkg (s : State) (p c : Nat) : (tileError s p c).pkg = s.pkg := rfl
@[simp] theorem tileError_tenancy (s : State) (p c : Nat) : (tileError s p c).tenancy = s.tenancy := rfl
@[simp] theorem tileError_mgmt (s : State) (p c : Nat) : (tileError s p c).mgmt = s.mgmt := rfl
@[simp] theorem tileError_reset' (s : State) (p c : Nat) : (tileError s p c).reset' = s.reset' := rfl
@[simp] theorem tileError_faults (s : State) (p c : Nat) : (tileError s p c).faults = s.faults := rfl
@[simp] theorem tileError_trace (s : State) (p c : Nat) : (tileError s p c).trace = s.trace := rfl

/-! ### raise -/

@[simp] theorem raise_pending (s : State) (e : Event) : (raise s e).pending = s.pending := by unfold raise; dsimp only; repeat' (split <;> try simp)
@[simp] theorem raise_out (s : State) (e : Event) : (raise s e).out = s.out := by unfold raise; dsimp only; repeat' (split <;> try simp)
@[simp] theorem raise_draws (s : State) (e : Event) : (raise s e).draws = s.draws := by unfold raise; dsimp only; repeat' (split <;> try simp)
@[simp] theorem raise_clock (s : State) (e : Event) : (raise s e).clock = s.clock := by unfold raise; dsimp only; repeat' (split <;> try simp)
@[simp] theorem raise_phys (s : State) (e : Event) : (raise s e).phys = s.phys := by unfold raise; dsimp only; repeat' (split <;> try simp)
@[simp] theorem raise_tiles (s : State) (e : Event) : (raise s e).tiles = s.tiles := by unfold raise; dsimp only; repeat' (split <;> try simp)
@[simp] theorem raise_stitch (s : State) (e : Event) : (raise s e).stitch = s.stitch := by unfold raise; dsimp only; repeat' (split <;> try simp)
@[simp] theorem raise_hbm (s : State) (e : Event) : (raise s e).hbm = s.hbm := by unfold raise; dsimp only; repeat' (split <;> try simp)
@[simp] theorem raise_fabric (s : State) (e : Event) : (raise s e).fabric = s.fabric := by unfold raise; dsimp only; repeat' (split <;> try simp)
@[simp] theorem raise_router (s : State) (e : Event) : (raise s e).router = s.router := by unfold raise; dsimp only; repeat' (split <;> try simp)
@[simp] theorem raise_optics (s : State) (e : Event) : (raise s e).optics = s.optics := by unfold raise; dsimp only; repeat' (split <;> try simp)
@[simp] theorem raise_lanes (s : State) (e : Event) : (raise s e).lanes = s.lanes := by unfold raise; dsimp only; repeat' (split <;> try simp)
@[simp] theorem raise_plan (s : State) (e : Event) : (raise s e).plan = s.plan := by unfold raise; dsimp only; repeat' (split <;> try simp)
@[simp] theorem raise_last (s : State) (e : Event) : (raise s e).last = s.last := by unfold raise; dsimp only; repeat' (split <;> try simp)
@[simp] theorem raise_queues (s : State) (e : Event) : (raise s e).queues = s.queues := by unfold raise; dsimp only; repeat' (split <;> try simp)
@[simp] theorem raise_power (s : State) (e : Event) : (raise s e).power = s.power := by unfold raise; dsimp only; repeat' (split <;> try simp)
@[simp] theorem raise_pkg (s : State) (e : Event) : (raise s e).pkg = s.pkg := by unfold raise; dsimp only; repeat' (split <;> try simp)
@[simp] theorem raise_tenancy (s : State) (e : Event) : (raise s e).tenancy = s.tenancy := by unfold raise; dsimp only; repeat' (split <;> try simp)
@[simp] theorem raise_reset' (s : State) (e : Event) : (raise s e).reset' = s.reset' := by unfold raise; dsimp only; repeat' (split <;> try simp)

/-! ### notice -/

@[simp] theorem notice_pending (s : State) (c k u d : Nat) : (notice s c k u d).pending = s.pending := by unfold notice; simp
@[simp] theorem notice_out (s : State) (c k u d : Nat) : (notice s c k u d).out = s.out := by unfold notice; simp
@[simp] theorem notice_draws (s : State) (c k u d : Nat) : (notice s c k u d).draws = s.draws := by unfold notice; simp
@[simp] theorem notice_clock (s : State) (c k u d : Nat) : (notice s c k u d).clock = s.clock := by unfold notice; simp
@[simp] theorem notice_phys (s : State) (c k u d : Nat) : (notice s c k u d).phys = s.phys := by unfold notice; simp
@[simp] theorem notice_tiles (s : State) (c k u d : Nat) : (notice s c k u d).tiles = s.tiles := by unfold notice; simp
@[simp] theorem notice_stitch (s : State) (c k u d : Nat) : (notice s c k u d).stitch = s.stitch := by unfold notice; simp
@[simp] theorem notice_hbm (s : State) (c k u d : Nat) : (notice s c k u d).hbm = s.hbm := by unfold notice; simp
@[simp] theorem notice_fabric (s : State) (c k u d : Nat) : (notice s c k u d).fabric = s.fabric := by unfold notice; simp
@[simp] theorem notice_router (s : State) (c k u d : Nat) : (notice s c k u d).router = s.router := by unfold notice; simp
@[simp] theorem notice_optics (s : State) (c k u d : Nat) : (notice s c k u d).optics = s.optics := by unfold notice; simp
@[simp] theorem notice_lanes (s : State) (c k u d : Nat) : (notice s c k u d).lanes = s.lanes := by unfold notice; simp
@[simp] theorem notice_plan (s : State) (c k u d : Nat) : (notice s c k u d).plan = s.plan := by unfold notice; simp
@[simp] theorem notice_last (s : State) (c k u d : Nat) : (notice s c k u d).last = s.last := by unfold notice; simp
@[simp] theorem notice_queues (s : State) (c k u d : Nat) : (notice s c k u d).queues = s.queues := by unfold notice; simp
@[simp] theorem notice_power (s : State) (c k u d : Nat) : (notice s c k u d).power = s.power := by unfold notice; simp
@[simp] theorem notice_pkg (s : State) (c k u d : Nat) : (notice s c k u d).pkg = s.pkg := by unfold notice; simp
@[simp] theorem notice_tenancy (s : State) (c k u d : Nat) : (notice s c k u d).tenancy = s.tenancy := by unfold notice; simp
@[simp] theorem notice_reset' (s : State) (c k u d : Nat) : (notice s c k u d).reset' = s.reset' := by unfold notice; simp

/-! ### semAdd -/

@[simp] theorem semAdd_pending (s : State) (j v : Nat) : (semAdd s j v).pending = s.pending := by unfold semAdd; dsimp only; split <;> simp
@[simp] theorem semAdd_out (s : State) (j v : Nat) : (semAdd s j v).out = s.out := by unfold semAdd; dsimp only; split <;> simp
@[simp] theorem semAdd_regs (s : State) (j v : Nat) : (semAdd s j v).regs = s.regs := by unfold semAdd; dsimp only; split <;> simp
@[simp] theorem semAdd_draws (s : State) (j v : Nat) : (semAdd s j v).draws = s.draws := by unfold semAdd; dsimp only; split <;> simp
@[simp] theorem semAdd_clock (s : State) (j v : Nat) : (semAdd s j v).clock = s.clock := by unfold semAdd; dsimp only; split <;> simp
@[simp] theorem semAdd_tiles (s : State) (j v : Nat) : (semAdd s j v).tiles = s.tiles := by unfold semAdd; dsimp only; split <;> simp
@[simp] theorem semAdd_stitch (s : State) (j v : Nat) : (semAdd s j v).stitch = s.stitch := by unfold semAdd; dsimp only; split <;> simp
@[simp] theorem semAdd_fabric (s : State) (j v : Nat) : (semAdd s j v).fabric = s.fabric := by unfold semAdd; dsimp only; split <;> simp
@[simp] theorem semAdd_router (s : State) (j v : Nat) : (semAdd s j v).router = s.router := by unfold semAdd; dsimp only; split <;> simp
@[simp] theorem semAdd_optics (s : State) (j v : Nat) : (semAdd s j v).optics = s.optics := by unfold semAdd; dsimp only; split <;> simp
@[simp] theorem semAdd_lanes (s : State) (j v : Nat) : (semAdd s j v).lanes = s.lanes := by unfold semAdd; dsimp only; split <;> simp
@[simp] theorem semAdd_plan (s : State) (j v : Nat) : (semAdd s j v).plan = s.plan := by unfold semAdd; dsimp only; split <;> simp
@[simp] theorem semAdd_last (s : State) (j v : Nat) : (semAdd s j v).last = s.last := by unfold semAdd; dsimp only; split <;> simp
@[simp] theorem semAdd_power (s : State) (j v : Nat) : (semAdd s j v).power = s.power := by unfold semAdd; dsimp only; split <;> simp
@[simp] theorem semAdd_pkg (s : State) (j v : Nat) : (semAdd s j v).pkg = s.pkg := by unfold semAdd; dsimp only; split <;> simp
@[simp] theorem semAdd_tenancy (s : State) (j v : Nat) : (semAdd s j v).tenancy = s.tenancy := by unfold semAdd; dsimp only; split <;> simp
@[simp] theorem semAdd_mgmt (s : State) (j v : Nat) : (semAdd s j v).mgmt = s.mgmt := by unfold semAdd; dsimp only; split <;> simp
@[simp] theorem semAdd_reset' (s : State) (j v : Nat) : (semAdd s j v).reset' = s.reset' := by unfold semAdd; dsimp only; split <;> simp
@[simp] theorem semAdd_faults (s : State) (j v : Nat) : (semAdd s j v).faults = s.faults := by unfold semAdd; dsimp only; split <;> simp
@[simp] theorem semAdd_trace (s : State) (j v : Nat) : (semAdd s j v).trace = s.trace := by unfold semAdd; dsimp only; split <;> simp

/-! ### activityAdd -/

@[simp] theorem activityAdd_pending (s : State) (p k f n : Nat) : (activityAdd s p k f n).pending = s.pending := rfl
@[simp] theorem activityAdd_out (s : State) (p k f n : Nat) : (activityAdd s p k f n).out = s.out := rfl
@[simp] theorem activityAdd_regs (s : State) (p k f n : Nat) : (activityAdd s p k f n).regs = s.regs := rfl
@[simp] theorem activityAdd_draws (s : State) (p k f n : Nat) : (activityAdd s p k f n).draws = s.draws := rfl
@[simp] theorem activityAdd_clock (s : State) (p k f n : Nat) : (activityAdd s p k f n).clock = s.clock := rfl
@[simp] theorem activityAdd_phys (s : State) (p k f n : Nat) : (activityAdd s p k f n).phys = s.phys := rfl
@[simp] theorem activityAdd_tiles (s : State) (p k f n : Nat) : (activityAdd s p k f n).tiles = s.tiles := rfl
@[simp] theorem activityAdd_stitch (s : State) (p k f n : Nat) : (activityAdd s p k f n).stitch = s.stitch := rfl
@[simp] theorem activityAdd_hbm (s : State) (p k f n : Nat) : (activityAdd s p k f n).hbm = s.hbm := rfl
@[simp] theorem activityAdd_fabric (s : State) (p k f n : Nat) : (activityAdd s p k f n).fabric = s.fabric := rfl
@[simp] theorem activityAdd_router (s : State) (p k f n : Nat) : (activityAdd s p k f n).router = s.router := rfl
@[simp] theorem activityAdd_optics (s : State) (p k f n : Nat) : (activityAdd s p k f n).optics = s.optics := rfl
@[simp] theorem activityAdd_lanes (s : State) (p k f n : Nat) : (activityAdd s p k f n).lanes = s.lanes := rfl
@[simp] theorem activityAdd_plan (s : State) (p k f n : Nat) : (activityAdd s p k f n).plan = s.plan := rfl
@[simp] theorem activityAdd_last (s : State) (p k f n : Nat) : (activityAdd s p k f n).last = s.last := rfl
@[simp] theorem activityAdd_queues (s : State) (p k f n : Nat) : (activityAdd s p k f n).queues = s.queues := rfl
@[simp] theorem activityAdd_pkg (s : State) (p k f n : Nat) : (activityAdd s p k f n).pkg = s.pkg := rfl
@[simp] theorem activityAdd_tenancy (s : State) (p k f n : Nat) : (activityAdd s p k f n).tenancy = s.tenancy := rfl
@[simp] theorem activityAdd_mgmt (s : State) (p k f n : Nat) : (activityAdd s p k f n).mgmt = s.mgmt := rfl
@[simp] theorem activityAdd_reset' (s : State) (p k f n : Nat) : (activityAdd s p k f n).reset' = s.reset' := rfl
@[simp] theorem activityAdd_faults (s : State) (p k f n : Nat) : (activityAdd s p k f n).faults = s.faults := rfl
@[simp] theorem activityAdd_trace (s : State) (p k f n : Nat) : (activityAdd s p k f n).trace = s.trace := rfl

/-! ### opCount -/

@[simp] theorem opCount_pending (s : State) (t k f n : Nat) : (opCount s t k f n).pending = s.pending := rfl
@[simp] theorem opCount_out (s : State) (t k f n : Nat) : (opCount s t k f n).out = s.out := rfl
@[simp] theorem opCount_draws (s : State) (t k f n : Nat) : (opCount s t k f n).draws = s.draws := rfl
@[simp] theorem opCount_clock (s : State) (t k f n : Nat) : (opCount s t k f n).clock = s.clock := rfl
@[simp] theorem opCount_phys (s : State) (t k f n : Nat) : (opCount s t k f n).phys = s.phys := rfl
@[simp] theorem opCount_tiles (s : State) (t k f n : Nat) : (opCount s t k f n).tiles = s.tiles := rfl
@[simp] theorem opCount_stitch (s : State) (t k f n : Nat) : (opCount s t k f n).stitch = s.stitch := rfl
@[simp] theorem opCount_hbm (s : State) (t k f n : Nat) : (opCount s t k f n).hbm = s.hbm := rfl
@[simp] theorem opCount_fabric (s : State) (t k f n : Nat) : (opCount s t k f n).fabric = s.fabric := rfl
@[simp] theorem opCount_router (s : State) (t k f n : Nat) : (opCount s t k f n).router = s.router := rfl
@[simp] theorem opCount_optics (s : State) (t k f n : Nat) : (opCount s t k f n).optics = s.optics := rfl
@[simp] theorem opCount_lanes (s : State) (t k f n : Nat) : (opCount s t k f n).lanes = s.lanes := rfl
@[simp] theorem opCount_plan (s : State) (t k f n : Nat) : (opCount s t k f n).plan = s.plan := rfl
@[simp] theorem opCount_last (s : State) (t k f n : Nat) : (opCount s t k f n).last = s.last := rfl
@[simp] theorem opCount_queues (s : State) (t k f n : Nat) : (opCount s t k f n).queues = s.queues := rfl
@[simp] theorem opCount_power (s : State) (t k f n : Nat) : (opCount s t k f n).power = s.power := rfl
@[simp] theorem opCount_pkg (s : State) (t k f n : Nat) : (opCount s t k f n).pkg = s.pkg := rfl
@[simp] theorem opCount_tenancy (s : State) (t k f n : Nat) : (opCount s t k f n).tenancy = s.tenancy := rfl
@[simp] theorem opCount_mgmt (s : State) (t k f n : Nat) : (opCount s t k f n).mgmt = s.mgmt := rfl
@[simp] theorem opCount_reset' (s : State) (t k f n : Nat) : (opCount s t k f n).reset' = s.reset' := rfl
@[simp] theorem opCount_faults (s : State) (t k f n : Nat) : (opCount s t k f n).faults = s.faults := rfl
@[simp] theorem opCount_trace (s : State) (t k f n : Nat) : (opCount s t k f n).trace = s.trace := rfl

/-! ### setResult -/

@[simp] theorem setResult_pending (s : State) (o : Option (Nat × Nat)) (r : Result) : (setResult s o r).pending = s.pending := by unfold setResult; split <;> rfl
@[simp] theorem setResult_out (s : State) (o : Option (Nat × Nat)) (r : Result) : (setResult s o r).out = s.out := by unfold setResult; split <;> rfl
@[simp] theorem setResult_regs (s : State) (o : Option (Nat × Nat)) (r : Result) : (setResult s o r).regs = s.regs := by unfold setResult; split <;> rfl
@[simp] theorem setResult_draws (s : State) (o : Option (Nat × Nat)) (r : Result) : (setResult s o r).draws = s.draws := by unfold setResult; split <;> rfl
@[simp] theorem setResult_clock (s : State) (o : Option (Nat × Nat)) (r : Result) : (setResult s o r).clock = s.clock := by unfold setResult; split <;> rfl
@[simp] theorem setResult_phys (s : State) (o : Option (Nat × Nat)) (r : Result) : (setResult s o r).phys = s.phys := by unfold setResult; split <;> rfl
@[simp] theorem setResult_tiles (s : State) (o : Option (Nat × Nat)) (r : Result) : (setResult s o r).tiles = s.tiles := by unfold setResult; split <;> rfl
@[simp] theorem setResult_stitch (s : State) (o : Option (Nat × Nat)) (r : Result) : (setResult s o r).stitch = s.stitch := by unfold setResult; split <;> rfl
@[simp] theorem setResult_hbm (s : State) (o : Option (Nat × Nat)) (r : Result) : (setResult s o r).hbm = s.hbm := by unfold setResult; split <;> rfl
@[simp] theorem setResult_fabric (s : State) (o : Option (Nat × Nat)) (r : Result) : (setResult s o r).fabric = s.fabric := by unfold setResult; split <;> rfl
@[simp] theorem setResult_router (s : State) (o : Option (Nat × Nat)) (r : Result) : (setResult s o r).router = s.router := by unfold setResult; split <;> rfl
@[simp] theorem setResult_optics (s : State) (o : Option (Nat × Nat)) (r : Result) : (setResult s o r).optics = s.optics := by unfold setResult; split <;> rfl
@[simp] theorem setResult_lanes (s : State) (o : Option (Nat × Nat)) (r : Result) : (setResult s o r).lanes = s.lanes := by unfold setResult; split <;> rfl
@[simp] theorem setResult_plan (s : State) (o : Option (Nat × Nat)) (r : Result) : (setResult s o r).plan = s.plan := by unfold setResult; split <;> rfl
@[simp] theorem setResult_last (s : State) (o : Option (Nat × Nat)) (r : Result) : (setResult s o r).last = s.last := by unfold setResult; split <;> rfl
@[simp] theorem setResult_power (s : State) (o : Option (Nat × Nat)) (r : Result) : (setResult s o r).power = s.power := by unfold setResult; split <;> rfl
@[simp] theorem setResult_pkg (s : State) (o : Option (Nat × Nat)) (r : Result) : (setResult s o r).pkg = s.pkg := by unfold setResult; split <;> rfl
@[simp] theorem setResult_tenancy (s : State) (o : Option (Nat × Nat)) (r : Result) : (setResult s o r).tenancy = s.tenancy := by unfold setResult; split <;> rfl
@[simp] theorem setResult_mgmt (s : State) (o : Option (Nat × Nat)) (r : Result) : (setResult s o r).mgmt = s.mgmt := by unfold setResult; split <;> rfl
@[simp] theorem setResult_reset' (s : State) (o : Option (Nat × Nat)) (r : Result) : (setResult s o r).reset' = s.reset' := by unfold setResult; split <;> rfl
@[simp] theorem setResult_faults (s : State) (o : Option (Nat × Nat)) (r : Result) : (setResult s o r).faults = s.faults := by unfold setResult; split <;> rfl
@[simp] theorem setResult_trace (s : State) (o : Option (Nat × Nat)) (r : Result) : (setResult s o r).trace = s.trace := by unfold setResult; split <;> rfl

/-! ### What the updates write -/

@[simp] theorem emit_out (s : State) (o : Out) : (emit s o).out = s.out ++ [o] := rfl
@[simp] theorem setPower_power (s : State) (f : Power → Power) : (setPower s f).power = f s.power := rfl
@[simp] theorem setRun_run (s : State) (f : Run → Run) : (setRun s f).last.run = s.last.run.map f := rfl
@[simp] theorem setRun_slots (s : State) (f : Run → Run) : (setRun s f).last.slots = s.last.slots := rfl
@[simp] theorem setRun_load (s : State) (f : Run → Run) : (setRun s f).last.load = s.last.load := rfl
@[simp] theorem setBoot_boot (s : State) (b : Boot) : (setBoot s b).reset'.boot = b := rfl
@[simp] theorem setRef_refState (s : State) (x : RefState) : (setRef s x).clock.refState = x := rfl
@[simp] theorem setRef_beat (s : State) (x : RefState) : (setRef s x).clock.beat = s.clock.beat := rfl
@[simp] theorem setKey_install (s : State) (i : Nat) (f : KeySlot → KeySlot) : (setKey s i f).tenancy.install = s.tenancy.install := rfl
@[simp] theorem modQueue_sets (s : State) (q : Nat) (f : Queue → Queue) : (modQueue s q f).queues.sets = s.queues.sets := rfl
@[simp] theorem setLaceSet_queues (s : State) (i : Nat) (f : LaceSet → LaceSet) : (setLaceSet s i f).queues.queues = s.queues.queues := rfl
@[simp] theorem setOut_inn (s : State) (c : Nat) (d : PeerOut) : (setOut s c d).fabric.inn = s.fabric.inn := rfl
@[simp] theorem setIn_out' (s : State) (c : Nat) (d : PeerIn) : (setIn s c d).fabric.out = s.fabric.out := rfl
@[simp] theorem hbmWrite_mem (s : State) (a : Nat) (bs : List Byte) : (hbmWrite s a bs).hbm.mem = s.hbm.mem.writeN a (landing s a bs) := rfl

/-- A register that was written reads the value cut to its width. -/
@[simp] theorem rget_rset (s : State) (r : Reg) (v : Nat) (h : sorted s.regs = true) : rget (rset s r v) r = v % 2 ^ r.bits := by
  simp [rget, rset, tget_tset _ _ _ _ _ h]

/-- A register under another key reads as before. -/
theorem rget_rset_other (s : State) (r r' : Reg) (v : Nat) (h : sorted s.regs = true) (hk : r'.key ≠ r.key) : rget (rset s r v) r' = rget s r' := by
  unfold rget rset
  simp only [tset]
  split
  · rename_i heq
    simp only [tget, tget?_tdel _ _ _ h, if_neg hk]
  · simp only [tget, tget?_tput, if_neg hk]

end Sys2Proof.Machine
end

