-- ==== Sys2Proof/Laws/Selectors.lean ====
section
/-! SUPPORT. Applying laser selections (R224) leaves the launch in progress and the beat counter as they were. -/

namespace Sys2Proof.Machine

/-- What every step of a fold leaves alone, the fold leaves alone. -/
theorem foldl_keeps {α β γ : Type} (f : β → α → β) (g : β → γ) (h : ∀ b a, g (f b a) = g b) (l : List α) (b : β) : g (l.foldl f b) = g b := by
  induction l generalizing b with
  | nil => rfl
  | cons a l ih => exact (ih _).trans (h b a)

@[simp] theorem drive_last (s : State) (i v : Nat) : (drive s i v).last = s.last := rfl
@[simp] theorem drive_clock (s : State) (i v : Nat) : (drive s i v).clock = s.clock := rfl

theorem closeFit_last (s : State) (e k r : Nat) : (closeFit s e k r).last = s.last := by
  unfold closeFit
  dsimp only
  rw [setLane_last, drive_last, drive_last, rinc_last, rset_last]

theorem abortFit_last (s : State) (e k : Nat) : (abortFit s e k).last = s.last := by
  unfold abortFit
  split
  · rfl
  · exact closeFit_last _ _ _ _

theorem closeFit_clock (s : State) (e k r : Nat) : (closeFit s e k r).clock = s.clock := by
  unfold closeFit
  dsimp only
  rw [setLane_clock, drive_clock, drive_clock, rinc_clock, rset_clock]

theorem abortFit_clock (s : State) (e k : Nat) : (abortFit s e k).clock = s.clock := by
  unfold abortFit
  split
  · rfl
  · exact closeFit_clock _ _ _ _

@[simp] theorem startSwitch_last (s : State) (d : Nat) (x : Selector) : (startSwitch s d x).last = s.last := by
  unfold startSwitch
  dsimp only
  generalize dieLanes d = L
  refine (foldl_keeps _ State.last (fun b a => ?_) _ _).trans ((foldl_keeps _ State.last (fun b (a : Nat × Nat) => abortFit_last b a.1 a.2) _ _).trans (setEye_last _ _ _))
  split
  · exact setLane_last _ _ _ _
  · rfl

@[simp] theorem startSwitch_clock (s : State) (d : Nat) (x : Selector) : (startSwitch s d x).clock = s.clock := by
  unfold startSwitch
  dsimp only
  generalize dieLanes d = L
  refine (foldl_keeps _ State.clock (fun b a => ?_) _ _).trans ((foldl_keeps _ State.clock (fun b (a : Nat × Nat) => abortFit_clock b a.1 a.2) _ _).trans (setEye_clock _ _ _))
  split
  · exact setLane_clock _ _ _ _
  · rfl

/-- R224: a selection touches neither the launch in progress nor the beat counter. -/
@[simp] theorem dueSelects_last (s : State) : (dueSelects s).last = s.last := by
  unfold dueSelects applyPendingSelects
  refine (foldl_keeps _ State.last (fun b a => ?_) _ _).trans rfl
  split
  · unfold applySelect
    split
    · exact (startSwitch_last _ _ _).trans (setEye_last _ _ _)
    · exact (startSwitch_last _ _ _).trans (setEye_last _ _ _)
    · exact setEye_last _ _ _
  · rfl

@[simp] theorem dueSelects_clock (s : State) : (dueSelects s).clock = s.clock := by
  unfold dueSelects applyPendingSelects
  refine (foldl_keeps _ State.clock (fun b a => ?_) _ _).trans rfl
  split
  · unfold applySelect
    split
    · exact (startSwitch_clock _ _ _).trans (setEye_clock _ _ _)
    · exact (startSwitch_clock _ _ _).trans (setEye_clock _ _ _)
    · exact setEye_clock _ _ _
  · rfl

end Sys2Proof.Machine
end

