-- ==== Sys2Proof/Laws/Units.lean ====
section
/-! SUPPORT. What the units of a tile can do: an event with one due act performs that act. -/

namespace Sys2Proof.Machine
/-- An act with an order below 256 keeps its cycle in its key. -/
theorem actKey_cycle {x : Nat × UnitAct} (h : x.2.order < 256) : actKey x / 256 = x.1 := by
  unfold actKey; omega

/-- A due act lies before the cycle that the tile works up to. -/
theorem dueActs_lt {s : State} {t hi : Nat} {x : Nat × UnitAct} (h : x ∈ dueActs s t hi) : x.1 < hi := by
  simp only [dueActs, List.mem_append, List.mem_filter, Bool.and_eq_true, decide_eq_true_eq] at h
  omega

/-- A tile with one due act that no other follows, whose need is met and which asks for no bank twice, does that act and nothing else. -/
theorem unitsTo_single {s : State} {t hi c : Nat} {u : UnitAct} (h : dueActs s t hi = [(c, u)]) (ho : u.order < 256)
    (hr : actReady (workTo s t hi) t u = true) (hs : ∀ st i, u ≠ .copyStep st i)
    (hq : bankTwice (if u.requester.isSome then actBanks (workTo s t hi) t u else []) = none) : unitsTo s t hi = perform (workTo s t hi) t c u := by
  have hc : c < hi := dueActs_lt (s := s) (t := t) (x := (c, u)) (by rw [h]; exact List.mem_singleton.mpr rfl)
  have hk : actKey (c, u) / 256 = c := actKey_cycle ho
  have hb : ((tileActs s t).isEmpty && (ptile s (physTile s t)).late.isEmpty) = false := by
    apply Bool.eq_false_iff.mpr
    intro e
    simp only [Bool.and_eq_true, List.isEmpty_iff] at e
    simp [dueActs, e.1, e.2] at h
  have hn : ¬ hi ≤ c := by omega
  have hw : ∀ v, followUp v t hi c u [] = [] := fun v => by cases u <;> first | rfl | exact absurd rfl (hs _ _)
  have hf : ∀ l : List Nat, l.find? (fun b => ([] : List Nat).contains b) = none := fun l => by induction l <;> simp_all
  have hl : ∃ k, (1 + ((outsideCopies s t).map (fun c => c.accesses.length - c.at_)).sum + 2) * (1 + ((outsideCopies s t).map (fun c => c.accesses.length - c.at_)).sum + 2) = k + 2 := by
    generalize ((outsideCopies s t).map (fun c => c.accesses.length - c.at_)).sum = x
    exact ⟨(1 + x + 2) * (1 + x + 2) - 2, by have : 3 * 3 ≤ (1 + x + 2) * (1 + x + 2) := Nat.mul_le_mul (by omega) (by omega); omega⟩
  obtain ⟨k, hl⟩ := hl
  unfold unitsTo
  simp only [hb, h, Bool.false_eq_true, if_false, List.length_cons, List.length_nil, List.map, sortKeys, List.foldl, insertKey, Nat.zero_add, hl]
  simp only [runActs, hk, hn, hr, if_false, Bool.not_true, Bool.false_eq_true, ite_self, hf, hq, hw]

/-- A unit's event in a cycle of the beat now, as the one due act of its tile. -/
theorem unitEvent_single {s : State} {t c : Nat} {u : UnitAct} (hl : unitRecordsLeft s t = false) (hc : c < cycleNow s + 56)
    (h : dueActs s t (c + 1) = [(c, u)]) (ho : u.order < 256) (hr : actReady (workTo s t (c + 1)) t u = true) (hs : ∀ st i, u ≠ .copyStep st i)
    (hq : bankTwice (if u.requester.isSome then actBanks (workTo s t (c + 1)) t u else []) = none) :
    unitEvent s t c = perform (workTo s t (c + 1)) t c u := by
  have hn : ¬ cycleNow s + 56 ≤ c := by omega
  unfold unitEvent
  simp [hl, hn, unitsTo_single h ho hr hs hq]
end Sys2Proof.Machine
end

