-- ==== Sys2Proof/Tests/Slice0.lean ====
section
/-! SUPPORT. Tests: small states in which the hypotheses of the statements hold, the checks of WellFormed, and single commands whose results the
spec gives. -/

namespace Sys2Proof.Tests

open Sys2Proof.Machine

set_option Elab.async false

/-! ### Small states -/

/-- A package that is READY, claimed, with one management session and chip number 5. -/
def rdy : State := rset { State.reset with
  reset' := { boot := .ready, pwrOk := true }
  tenancy := { anchors := [[1]] }
  mgmt := { linkUp := true, sessions := [(0, { anchor := some [1] })] } } Reg.chipNumberActive 5

/-- The management session of `rdy`. -/
def m0 : Via := .mgmt 0

/-- The reference loop of `rdy` in a given state. -/
def ref (x : RefState) : State := { rdy with clock := { rdy.clock with refState := x } }

/-- The key of a lane. -/
abbrev lk (e k : Nat) : Nat := laneKey e k

/-- A tone that the reference loop accepts, at the least depth, and one that is too weak. -/
def tone : Tone := ⟨50, 0⟩
def weak : Tone := ⟨49, 0⟩

/-- HBM of zeros in which an image stands in slot 0, by 64-bit word and byte offset in it. -/
def img (ws : List (Nat × Nat)) : Mem :=
  ws.foldl (fun m x => m.writeN (slotBase rdy 0 + x.1) (leBytes 8 x.2)) {}

/-- The image of a Last of one bucket with a number of beats and sections (type, tile, words), at 4096 and every 4096 bytes after it. -/
def image (beats : Nat) (secs : List (Nat × Nat × List Nat)) : List (Nat × Nat) :=
  (776, beats * 2 ^ 40) :: (784, 1024 * 2 ^ 32 + secs.length * 2 ^ 16)
    :: (List.range secs.length).flatMap (fun i =>
      let x := secs.getD i (0, 0, [])
      (1024 + 16 * i, x.1 * 2 ^ 56 + x.2.1 * 2 ^ 50) :: (1032 + 16 * i, (4096 + 4096 * i) * 2 ^ 32 + 8 * x.2.2.length)
        :: (List.range x.2.2.length).map (fun j => (4096 + 4096 * i + 8 * j, x.2.2.getD j 0)))

/-- `rdy` with a Last in slot 0: its image, its run and the state of its slot. -/
def live (ws : List (Nat × Nat)) (r : Run) (x : SlotState) : State :=
  { rdy with hbm := { mem := img ws }, last := { slots := [(0, { state := x })], run := some r } }

/-- A run of one step in its first schedule beat. -/
def run1 : Run := { issuing := true, stepCount := 1, launchAt := some 0, sched := 1 }

/-- A queue 3 with one command in flight. -/
def inFlight (s : State) (ws : List Nat) : State :=
  { s with queues := { s.queues with queues := [(3, { state := .running, flights := [{ id := 7, words := ws.map word, beat := 0 }] })] } }

/-- HBM of zeros with words of a queue's control block. -/
def blk (q : Nat) (ws : List (Nat × Nat)) : Mem := ws.foldl (fun m x => m.writeN (qAddr rdy q x.1) (leBytes 8 x.2)) {}

/-- That command. -/
def cmd (ws : List Nat) : Flight := { id := 7, words := ws.map word, beat := 0 }

/-- A welt flit of zeros with its CRC, and one without. -/
def flit : WeltFlit := ⟨List.replicate 9 0 ++ [word (3426124901 * 2 ^ 32)]⟩
def badFlit : WeltFlit := ⟨List.replicate 10 0⟩
set_option maxRecDepth 1000000 in
theorem test_flit : crc32c (wfBody flit.words) = wfCrc flit := by decide +kernel
set_option maxRecDepth 1000000 in
theorem test_badFlit : crc32c (wfBody badFlit.words) ≠ wfCrc badFlit := by decide +kernel

/-- States before a return check: 999 and 1,000 checks in bounds, and a ninth check that column 0 explains. -/
def ret98 : State := rset { rdy with power := { inRun := 998 } } Reg.convLossFixedW 0
def ret99 : State := rset { rdy with power := { inRun := 999 } } Reg.convLossFixedW 0
def retOut : State := rset { rdy with power := { outRun := 9, inHist := [100000000], taps := [(0, { est := [⟨100000, 1⟩] })] } } Reg.convLossFixedW 0

theorem test_ret98 : (returnsNow ret98).inBounds = true := by decide +kernel
theorem test_ret99 : (returnsNow ret99).inBounds = true := by decide +kernel
theorem test_retOut : (returnsNow retOut).inBounds = false := by decide +kernel
theorem test_retOut_column : returnCandidates retOut (returnsNow retOut) = [0] := by decide +kernel

/-- The states of a thermal evaluation of a state with no diode read. -/
def hotU (s : State) : State := setPower s (fun p => { p with tStars := [] })
def hotV (s : State) : State := publishTemps (rset (hotU s) Reg.plateBiasMc (unsigned 32 (fround (hotU s).power.plateBias))) (junctions (hotU s))
def hotW (s : State) : State := setPower (hotV s) (fun p => { p with
  clearUs := if (hottest (junctions (hotU s))).2 < 100000 then (if rgetI s Reg.tMaxMc < 100000 then p.clearUs + rget s Reg.evalPeriodUs else 0) else 0 })

/-- A state whose run is not due for its cleanup, as a test that can be computed. -/
theorem noCleanup {u : State} (g : u.last.run.elim true (fun r => !r.cleanupDue) = true) : ∀ r, u.last.run = some r → r.cleanupDue = false := by
  intro r h
  rw [h] at g
  simpa using g

/-- A read that ends in an error, as a test that can be computed. -/
theorem errorOf {x : Except (Nat × Nat) (List Byte)} {z : Nat × Nat} (h : (match x with | .error e => some e | .ok _ => none) = some z) : x = .error z := by
  cases x <;> simp_all

/-- The words of the smallest image that passes the checks of a load: its header but the digest, and what follows the digest. -/
def goodHead : List Nat :=
  [2 ^ 56 + rget rdy Reg.funcRefRevision * 2 ^ 40 + 2 ^ 31 + 2 ^ 27, 1024, 0, 0, 1024 * 2 ^ 40 + 2 ^ 16 + 16, 2 ^ 48 + 2 ^ 25]
    ++ List.replicate 4 0x0100010001000100 ++ List.replicate 21 0
def goodTail : List Nat :=
  (2 ^ 64 - 65531) :: List.replicate 63 (2 ^ 64 - 1) ++ [0, 1024 * 2 ^ 40, 1024 * 2 ^ 32] ++ List.replicate 29 0
def goodDigest : Nat := 7947904987694491347
def goodWords : List Nat := goodHead ++ goodDigest :: goodTail

/-- `rdy` with that image in slot 0, copied and not yet checked. -/
def good : State := { rdy with
  hbm := { mem := { cells := (goodWords.zipIdx).flatMap (fun x =>
    ((leBytes 8 x.1).zipIdx.filter (fun b => b.1 != 0)).map (fun b => (slotBase rdy 0 + 8 * x.2 + b.2, b.1))) } }
  last := { load := some { copied := 1024, bytes := 1024 } }
  queues := { sets := [(0, { enabled := true, members := [5] })] } }

/-- Words of the image from one on, read as bytes of slot 0. -/
def Reads (i n : Nat) : Prop := hbmRead good (slotBase good 0 + 8 * i) (8 * n) = ((goodWords.drop i).take n).flatMap (leBytes 8)

theorem Reads.append {i n k : Nat} (h : Reads i n) (h2 : Reads (i + n) k) : Reads i (n + k) := by
  simp only [Reads, hbmRead] at *
  rw [Nat.mul_add, Mem.readN_add, h, Nat.add_assoc, ← Nat.mul_add, h2, List.take_add, List.flatMap_append, List.drop_drop]

/-- The image reads as its words, 128 bytes at a time. -/
theorem reads_0 : Reads 0 16 := by unfold Reads; decide +kernel
theorem reads_16 : Reads 16 15 := by unfold Reads; decide +kernel
theorem reads_32 : Reads 32 16 := by unfold Reads; decide +kernel
theorem reads_48 : Reads 48 16 := by unfold Reads; decide +kernel
theorem reads_64 : Reads 64 16 := by unfold Reads; decide +kernel
theorem reads_80 : Reads 80 16 := by unfold Reads; decide +kernel
theorem reads_96 : Reads 96 16 := by unfold Reads; decide +kernel
theorem reads_112 : Reads 112 16 := by unfold Reads; decide +kernel
theorem digest_words : digest64 ((goodWords.take 31).flatMap (leBytes 8) ++ ((goodWords.drop 32).take 96).flatMap (leBytes 8)) = goodDigest := by decide +kernel
theorem header_digest : (hdr good 0 31).toNat = goodDigest := by decide +kernel
theorem header_bytes : fld (hdr good 0 1) 31 0 = 1024 := by decide +kernel

theorem image_digest : digest64 (hbmRead good (slotBase good 0) 248 ++ hbmRead good (slotBase good 0 + 256) (1024 - 256)) = (hdr good 0 31).toNat := by
  have h1 : Reads 0 31 := reads_0.append reads_16
  have h2 : Reads 32 96 := ((((reads_32.append reads_48).append reads_64).append reads_80).append reads_96).append reads_112
  rw [header_digest, ← digest_words]
  exact congrArg digest64 (congr (congrArg (· ++ ·) h1) h2)

theorem check3_good : check3 good 0 1024 = [] := by
  simp only [check3, header_bytes, image_digest]
  decide +kernel
theorem check4_good : check4 good 0 = [] := by decide +kernel
theorem check5_good : check5 good 0 = [] := by decide +kernel
theorem check6_good : check6 good 0 = [] := by decide +kernel
theorem check7_good : check7 good 0 = [] := by decide +kernel
theorem check8_good : check8 good 0 = [] := by decide +kernel
theorem check9_good : check9 good 0 = [] := by decide +kernel
theorem check10_good : check10 good 0 = [] := by decide +kernel

/-- R304: an image of one participant and one bucket of 1,024 beats without a section passes checks 3 to 10. -/
theorem test_good : firstBreach good 0 1024 = none := by
  simp [firstBreach, check3_good, check4_good, check5_good, check6_good, check7_good, check8_good, check9_good, check10_good]

/-! ### The checks of WellFormed -/

/-- Operands for the checks: a session, a packet, a tile's packet head, a sample and a message of a kind. -/
def mv : Via := .mgmt 0
def pk : Packet := ⟨List.replicate 8 0, []⟩
def th : TileHead := ⟨0, 0, 64, true, false, false⟩
def sm : Sample := ⟨List.replicate 101 0, 0, 0, 0, List.replicate 9 0⟩
def km (kind : Nat) : Kdp := ⟨word (kind * 2 ^ 48), 0, 0, []⟩

theorem test_illFormed_operands :
    ([Via.mgmt 4, .mailbox 8].all (fun v => !v.ok)
      && [Packet.mk [] [], ⟨List.replicate 8 0, [0]⟩, ⟨List.replicate 8 0, List.replicate 4160 0⟩].all (fun p => !p.ok)
      && [RingSweep.mk [0]].all (fun x => !x.ok)
      && [km 2, ⟨word (2 ^ 48), 0, 0, List.replicate 4096 0⟩].all (fun m => !m.ok 1)) = true := by decide +kernel

/-- Each of these commands fails one check: reference loop and time. -/
theorem test_illFormed_reference :
    ([.wallAnchorWrite (.mgmt 4) 0, .readyReceived ⟨[], []⟩, .go 32 0 0, .go 0 32 0, .go 0 0 16] : List Instr).all (fun c => !c.wf) = true := by decide +kernel

/-- With that operand mended each is well-formed. -/
theorem test_wellFormed_reference :
    ([.wallAnchorWrite mv 0, .readyReceived pk, .go 0 0 0] : List Instr).all (fun c => c.wf) = true := by decide +kernel

/-- Each of these commands fails one check: beat records and the tile's units. -/
theorem test_illFormed_tiles :
    ([.idle 64, .pass 64 0 0, .pass 0 4 0, .pass 0 0 4096, .passStreamStart 64 0, .passStreamStart 0 4, .passComplete 64 0, .passComplete 0 4,
     .func 64 0, .func 0 1024, .rowFuncComplete 64, .vectorOpComplete 64, .copyRecord 64 0 0, .copyRecord 0 4 0, .copyRecord 0 0 4096,
     .window 64 0 0 0, .window 0 16 0 0, .window 0 0 2 0, .window 0 0 0 256, .laceRecord 64 0, .laceRecord 0 1024, .arrive 64 0, .arrive 0 4096,
     .signalRecord 64 0, .signalRecord 0 4096, .inboundPacketHead 64 th, .tileZeroiseDone 72 true 0] : List Instr).all (fun c => !c.wf) = true := by decide +kernel

/-- With that operand mended each is well-formed. -/
theorem test_wellFormed_tiles :
    ([.idle 0, .pass 0 0 0, .passStreamStart 0 0, .passComplete 0 0, .func 0 0, .rowFuncComplete 0, .vectorOpComplete 0, .copyRecord 0 0 0,
     .window 0 0 0 0, .laceRecord 0 0, .arrive 0 0, .signalRecord 0 0, .inboundPacketHead 0 th, .tileZeroiseDone 0 true 0] : List Instr).all (fun c => c.wf) = true := by decide +kernel

/-- Each of these commands fails one check: Stitchers and translation. -/
theorem test_illFormed_Stitchers :
    ([.queueCopyStart 64 0, .queueCopyStart 0 4, .privilegedCopyStart 8 0, .txBufferPlace 520, .copyComplete 520, .copyDeadlineMissed 520,
     .xlateInvalidate (.mgmt 4) 0, .xlateRootWrite (.mgmt 4) 0] : List Instr).all (fun c => !c.wf) = true := by decide +kernel

/-- With that operand mended each is well-formed. -/
theorem test_wellFormed_Stitchers :
    ([.queueCopyStart 0 0, .privilegedCopyStart 0 0, .txBufferPlace 0, .copyComplete 0, .copyDeadlineMissed 0, .xlateInvalidate mv 0,
     .xlateRootWrite mv 0] : List Instr).all (fun c => c.wf) = true := by decide +kernel

/-- Each of these commands fails one check: memory. -/
theorem test_illFormed_memory :
    ([.frameStart 16 0 0 0 (List.replicate 4 0), .frameStart 0 64 0 0 (List.replicate 4 0), .frameStart 0 0 0 0 [], .regulatorArrival 4 0 ⟨0, 0, 64, false⟩,
     .regulatorAdmit 0 16 0, .regulatorAdmit 4 0 0, .regulatorHoldExpiry 0 16 0, .regulatorHoldExpiry 4 0 0, .partitionCommit (.mgmt 4) 0,
     .homeSliceWrite 0 [] 0, .homeSliceWrite 0 (List.replicate 64 0) (2 ^ 64), .accStore 0 0 [] 0, .accStore 0 0 (List.replicate 64 0) (2 ^ 64)] : List Instr).all (fun c => !c.wf) = true := by decide +kernel

/-- With that operand mended each is well-formed. -/
theorem test_wellFormed_memory :
    ([.frameStart 0 0 0 0 (List.replicate 4 0), .regulatorArrival 0 0 ⟨0, 0, 64, false⟩, .regulatorAdmit 0 0 0, .regulatorHoldExpiry 0 0 0,
     .partitionCommit mv 0, .homeSliceWrite 0 (List.replicate 64 0) 0, .accStore 0 0 (List.replicate 64 0) 0] : List Instr).all (fun c => c.wf) = true := by decide +kernel

/-- Each of these commands fails one check: fabric. -/
theorem test_illFormed_fabric :
    ([.packetSend 4096, .packetArrival 32 0 0 pk, .packetArrival 0 32 0 pk, .packetArrival 0 0 0 ⟨[], []⟩, .reorderHoldExpiry 4096,
     .acknowledgement 4096, .ackReceived ⟨[], []⟩, .ackTimeout 4096, .schedBlockRelease 32 0 0 0 (List.replicate 64 0),
     .schedBlockRelease 0 32 0 0 (List.replicate 64 0), .schedBlockRelease 0 0 4 0 (List.replicate 64 0), .schedBlockRelease 0 0 0 0 []] : List Instr).all (fun c => !c.wf) = true := by decide +kernel

/-- With that operand mended each is well-formed. -/
theorem test_wellFormed_fabric :
    ([.packetSend 0, .packetArrival 0 0 0 pk, .reorderHoldExpiry 0, .acknowledgement 0, .ackReceived pk, .ackTimeout 0,
     .schedBlockRelease 0 0 0 0 (List.replicate 64 0)] : List Instr).all (fun c => c.wf) = true := by decide +kernel

/-- Each of these commands fails one check: routing. -/
theorem test_illFormed_routing :
    ([.routeHead 1045 0 0, .routeHead 0 4 0, .routeHead 0 0 2, .routeWaitRetry 1045 0 0, .routeWaitRetry 0 4 0, .routeWaitRetry 0 0 2,
     .headGrant 32 0 0 0, .headGrant 0 32 0 0, .headGrant 0 0 4 0, .headGrant 0 0 0 2, .routeShadowWrite (.mgmt 4) (List.replicate 32768 0),
     .routeShadowWrite mv [], .routeEntryWrite (.mgmt 4) 0, .routeCopy (.mgmt 4) 0, .routeSwapRelease (.mgmt 4), .routeSwapHold (.mgmt 4),
     .routeRelease (.mgmt 4) 0] : List Instr).all (fun c => !c.wf) = true := by decide +kernel

/-- With that operand mended each is well-formed. -/
theorem test_wellFormed_routing :
    ([.routeHead 0 0 0, .routeWaitRetry 0 0 0, .headGrant 0 0 0 0, .routeShadowWrite mv (List.replicate 32768 0), .routeEntryWrite mv 0,
     .routeCopy mv 0, .routeSwapRelease mv, .routeSwapHold mv, .routeRelease mv 0] : List Instr).all (fun c => c.wf) = true := by decide +kernel

/-- Each of these commands fails one check: lasers and ring tuning. -/
theorem test_illFormed_lasers :
    ([.laserMeasurement 8 0 0 (0, 0) [], .laserMeasurement 0 0 0 (0, 0) (List.replicate 129 0), .laserInputLost 0 2, .laserInputLost 8 0, .laserSwitchComplete 8, .laserDarkRecovery 8, .laserRevert 8,
     .laserSelectReq (.mgmt 4) 0 0, .laserSelectReq mv 8 0, .fitPassStart 32 0, .fitPassStart 0 32, .fitSolve 32 0 ⟨[]⟩ ⟨[]⟩,
     .fitSolve 0 32 ⟨[]⟩ ⟨[]⟩, .fitSolve 0 0 ⟨[0]⟩ ⟨[]⟩, .fitSolve 0 0 ⟨[]⟩ ⟨[0]⟩, .fitCheckEnd 32 0 true 0,
     .fitCheckEnd 0 32 true 0, .fitPassEnd 32 0, .fitPassEnd 0 32, .tableStale 32 0 0, .tableStale 0 32 0, .fullSearch (.mgmt 4) 0 0,
     .fullSearch mv 32 0, .fullSearchDone 32 (List.replicate 64 []), .fullSearchDone 0 []] : List Instr).all (fun c => !c.wf) = true := by decide +kernel

/-- With that operand mended each is well-formed. -/
theorem test_wellFormed_lasers :
    ([.laserMeasurement 0 0 0 (0, 0) (List.replicate 128 0), .laserInputLost 0 0, .laserSwitchComplete 0, .laserDarkRecovery 0, .laserRevert 0, .laserSelectReq mv 0 0,
     .fitPassStart 0 0, .fitSolve 0 0 ⟨[]⟩ ⟨[]⟩, .fitCheckEnd 0 0 true 0, .fitPassEnd 0 0, .tableStale 0 0 0, .fullSearch mv 0 0,
     .fullSearchDone 0 (List.replicate 64 [])] : List Instr).all (fun c => c.wf) = true := by decide +kernel

/-- Each of these commands fails one check: lanes. -/
theorem test_illFormed_lanes :
    ([.laneBlockSlot 32 0 0, .laneBlockSlot 0 32 0, .laneBlockSlot 0 0 4, .laneBlockReceived 32 0 (List.replicate 70 0),
     .laneBlockReceived 0 32 (List.replicate 70 0), .laneBlockReceived 0 0 [], .replayTimeout 32 0, .replayTimeout 0 32, .mendExhausted 32 0,
     .mendExhausted 0 32, .slackExpiry 32 0 0, .slackExpiry 0 32 0, .slackExpiry 0 0 256, .trainStart 32 0, .trainStart 0 32, .signalDetected 32 0 0,
     .signalDetected 0 32 0, .phaseScanDone 32 0 (List.replicate 64 true), .phaseScanDone 0 32 (List.replicate 64 true), .phaseScanDone 0 0 [],
     .alignDone 32 0, .alignDone 0 32, .alignTimeout 32 0, .alignTimeout 0 32, .echo 32 0 0 0, .echo 0 32 0 0, .echoReply 32 0 0 0 0,
     .echoReply 0 32 0 0 0, .latencySet 32 0, .latencySet 0 32, .echoTimeout 32 0, .echoTimeout 0 32, .beaconReceived 32 0 (List.replicate 8 0),
     .beaconReceived 0 32 (List.replicate 8 0), .beaconReceived 0 0 [], .linkReady 32 0, .linkReady 0 32, .quarantineTimeout 32 0,
     .quarantineTimeout 0 32, .trainRetry 32 0, .trainRetry 0 32, .pause 32 0 0 0, .pause 0 32 0 0, .pause 0 0 2 0, .resume 32 0 0 0,
     .resume 0 32 0 0, .resume 0 0 2 0, .pauseTimeout 32 0, .pauseTimeout 0 32, .beaconTimer 32 0, .beaconTimer 0 32, .planCommit (.mgmt 4) 0] : List Instr).all (fun c => !c.wf) = true := by decide +kernel

/-- With that operand mended each is well-formed. -/
theorem test_wellFormed_lanes :
    ([.laneBlockSlot 0 0 0, .laneBlockReceived 0 0 (List.replicate 70 0), .replayTimeout 0 0, .mendExhausted 0 0, .slackExpiry 0 0 0, .trainStart 0 0,
     .signalDetected 0 0 0, .phaseScanDone 0 0 (List.replicate 64 true), .alignDone 0 0, .alignTimeout 0 0, .echo 0 0 0 0, .echoReply 0 0 0 0 0,
     .latencySet 0 0, .echoTimeout 0 0, .beaconReceived 0 0 (List.replicate 8 0), .linkReady 0 0, .quarantineTimeout 0 0, .trainRetry 0 0,
     .pause 0 0 0 0, .resume 0 0 0 0, .pauseTimeout 0 0, .beaconTimer 0 0, .planCommit mv 0] : List Instr).all (fun c => c.wf) = true := by decide +kernel

/-- Each of these commands fails one check: the Last. -/
theorem test_illFormed_Last :
    ([.loadLast 512 0, .launch 512 0, .lastUnload (.mgmt 4) 0, .lastUnload mv 16] : List Instr).all (fun c => !c.wf) = true := by decide +kernel

/-- With that operand mended each is well-formed. -/
theorem test_wellFormed_Last :
    ([.loadLast 0 0, .launch 0 0, .lastUnload mv 0] : List Instr).all (fun c => c.wf) = true := by decide +kernel

/-- Each of these commands fails one check: queues, semaphores, Lace. -/
theorem test_illFormed_queues :
    ([.queueDoorbell 512, .queueEnable (.mgmt 4) 0, .queueEnable mv 512, .queueDisable (.mgmt 4) 0, .queueDisable mv 512, .queueResume (.mgmt 4) 0,
     .queueResume mv 512, .queueDrained 512, .commandStart 4, .copy 512 0, .fill 512 0, .fence 512 0, .signal 512 0, .wait 512 0, .waitTimeout 512 0,
     .barrier 512 0, .reduceScalar 512 0, .timestamp 512 0, .snapshot 512 0, .tryOn 512 0, .commandComplete 512 0,
     .mgmtCommand (.mgmt 4) (List.replicate 64 0), .mgmtCommand mv [], .laceMessageReceived 32 0 0 0 (List.replicate 8 0),
     .laceMessageReceived 0 32 0 0 (List.replicate 8 0), .laceMessageReceived 0 0 4 0 (List.replicate 8 0), .laceMessageReceived 0 0 0 0 [],
     .laceDeadlineMissed 64 0, .laceDeadlineMissed 0 1024, .lacePacket ⟨[], []⟩, .laceTimeout 64, .laceEnable (.mgmt 4) 0 0, .laceEnable mv 64 0,
     .bulkDigest 0 true 0 64] : List Instr).all (fun c => !c.wf) = true := by decide +kernel

/-- With that operand mended each is well-formed. -/
theorem test_wellFormed_queues :
    ([.queueDoorbell 0, .queueEnable mv 0, .queueDisable mv 0, .queueResume mv 0, .queueDrained 0, .commandStart 0, .copy 0 0, .fill 0 0, .fence 0 0,
     .signal 0 0, .wait 0 0, .waitTimeout 0 0, .barrier 0 0, .reduceScalar 0 0, .timestamp 0 0, .snapshot 0 0, .tryOn 0 0, .commandComplete 0 0,
     .mgmtCommand mv (List.replicate 64 0), .laceMessageReceived 0 0 0 0 (List.replicate 8 0), .laceDeadlineMissed 0 0, .lacePacket pk,
     .laceTimeout 0, .laceEnable mv 0 0, .bulkDigest 0 true 0 0] : List Instr).all (fun c => c.wf) = true := by decide +kernel

/-- Each of these commands fails one check: power, heat. -/
theorem test_illFormed_power :
    ([.senseSample { sm with taps := [] }, .senseSample { sm with rails := [] }, .senseOpen 101, .dieDead 101, .coolantWrite (.mgmt 4) 0,
     .thermalRelease (.mgmt 4) 0, .railFault 9 true] : List Instr).all (fun c => !c.wf) = true := by decide +kernel

/-- With that operand mended each is well-formed. -/
theorem test_wellFormed_power :
    ([.senseSample sm, .senseOpen 0, .dieDead 0, .coolantWrite mv 0, .thermalRelease mv 0, .railFault 0 true] : List Instr).all (fun c => c.wf) = true := by decide +kernel

/-- Each of these commands fails one check: welts and self-test. -/
theorem test_illFormed_welts :
    ([.weltFlitReceived 0 16 ⟨List.replicate 10 0⟩, .weltFlitReceived 101 0 ⟨List.replicate 10 0⟩, .weltFlitReceived 0 0 ⟨[]⟩,
     .weltTrainingDone 0 16 0 true true true, .weltTrainingDone 101 0 0 true true true, .weltRetry 0 16, .weltRetry 101 0, .weltRetrain 0 16,
     .weltRetrain 101 0, .heartbeat 101, .weltSelftest (.mgmt 4) 0, .weltSelftest mv 72] : List Instr).all (fun c => !c.wf) = true := by decide +kernel

/-- With that operand mended each is well-formed. -/
theorem test_wellFormed_welts :
    ([.weltFlitReceived 0 0 ⟨List.replicate 10 0⟩, .weltTrainingDone 0 0 0 true true true, .weltRetry 0 0, .weltRetrain 0 0, .heartbeat 0,
     .weltSelftest mv 0] : List Instr).all (fun c => c.wf) = true := by decide +kernel

/-- Each of these commands fails one check: tenancy, firmware, keys. -/
theorem test_illFormed_tenancy :
    ([.peerSetWrite (.mgmt 4) [], .tenantChange (.mgmt 4) [], .fwImageStage (.mgmt 4) ⟨[], true, 0, 0, []⟩, .fwActivate (.mgmt 4) 0,
     .fwRollbackCommit (.mgmt 4) 0, .attestNonce (.mgmt 4) [], .keySlotWrite (.mgmt 4) [], .keySlotErase (.mgmt 4) 0, .keySlotErase mv 64,
     .pendingKeyReplace 64, .sealInstall (.mgmt 4) [], .sealStart 32 0 (List.replicate 8 0), .sealStart 0 32 (List.replicate 8 0), .sealStart 0 0 [],
     .sealTag 32 0 0 0 (List.replicate 6 0), .sealTag 0 32 0 0 (List.replicate 6 0), .sealTag 0 0 0 0 [],
     .sealTagTimeout 32 0 0, .sealTagTimeout 0 32 0, .mgmtAnchorsWrite (.mgmt 4) []] : List Instr).all (fun c => !c.wf) = true := by decide +kernel

/-- With that operand mended each is well-formed. -/
theorem test_wellFormed_tenancy :
    ([.peerSetWrite mv [], .tenantChange mv [], .fwImageStage mv ⟨[], true, 0, 0, []⟩, .fwActivate mv 0, .fwRollbackCommit mv 0, .attestNonce mv [],
     .keySlotWrite mv [], .keySlotErase mv 0, .pendingKeyReplace 0, .sealInstall mv [], .sealStart 0 0 (List.replicate 8 0),
     .sealTag 0 0 0 0 (List.replicate 6 0), .sealTagTimeout 0 0 0, .mgmtAnchorsWrite mv []] : List Instr).all (fun c => c.wf) = true := by decide +kernel

/-- Each of these commands fails one check: the dictionary protocol. -/
theorem test_illFormed_dictionary :
    ([.read (.mgmt 4) (km 1), .read mv (km 9), .write (.mgmt 4) (km 2), .write mv (km 9), .describe (.mgmt 4) (km 3), .describe mv (km 9),
     .openRead (.mgmt 4) (km 4), .openRead mv (km 9), .openWrite (.mgmt 4) (km 5), .openWrite mv (km 9), .segRead (.mgmt 4) (km 6),
     .segRead mv (km 9), .segWrite (.mgmt 4) (km 7), .segWrite mv (km 9), .close (.mgmt 4) (km 8), .close mv (km 9), .sessionTimeout 65536,
     .memReadData (.mgmt 4) (km 1), .memReadData mv (km 9), .mailboxDoorbell 8 0, .mailboxDoorbell 0 4096, .alertAck (.mgmt 4) 0,
     .alertLineEnable (.mgmt 4) 0 true] : List Instr).all (fun c => !c.wf) = true := by decide +kernel

/-- With that operand mended each is well-formed. -/
theorem test_wellFormed_dictionary :
    ([.read mv (km 1), .write mv (km 2), .describe mv (km 3), .openRead mv (km 4), .openWrite mv (km 5), .segRead mv (km 6), .segWrite mv (km 7),
     .close mv (km 8), .sessionTimeout 0, .memReadData mv (km 1), .mailboxDoorbell 0 0, .alertAck mv 0, .alertLineEnable mv 0 true] : List Instr).all (fun c => c.wf) = true := by decide +kernel

/-- Each of these commands fails one check: reset and bring-up. -/
theorem test_illFormed_reset :
    ([.restartRequest (.mgmt 4) 0, .tileFenceReq (.mgmt 4) 0, .tileFenceReq mv 72, .exclusionClear (.mgmt 4) 0] : List Instr).all (fun c => !c.wf) = true := by decide +kernel

/-- With that operand mended each is well-formed. -/
theorem test_wellFormed_reset :
    ([.restartRequest mv 0, .tileFenceReq mv 0, .exclusionClear mv 0] : List Instr).all (fun c => c.wf) = true := by decide +kernel

/-- Each of these commands fails one check: faults, rollback, try-on. -/
theorem test_illFormed_faults :
    ([.fault ⟨[], []⟩, .rollback ⟨[], []⟩, .snapshotRestore (.mgmt 4) [], .faultEpochWrite (.mgmt 4) 0, .faultAck (.mgmt 4) 0, .faultAck mv 4096,
     .peerLost 4096] : List Instr).all (fun c => !c.wf) = true := by decide +kernel

/-- With that operand mended each is well-formed. -/
theorem test_wellFormed_faults :
    ([.fault pk, .rollback pk, .snapshotRestore mv [], .faultEpochWrite mv 0, .faultAck mv 0, .peerLost 0] : List Instr).all (fun c => c.wf) = true := by decide +kernel

/-- Each of these commands fails one check: trace and tread. -/
theorem test_illFormed_trace :
    ([.digestEmit 64, .treadFreeze (.mgmt 4), .treadUnfreeze (.mgmt 4), .treadExportChunk (.mgmt 4), .treadReplay (.mgmt 4) []] : List Instr).all (fun c => !c.wf) = true := by decide +kernel

/-- With that operand mended each is well-formed. -/
theorem test_wellFormed_trace :
    ([.digestEmit 0, .treadFreeze mv, .treadUnfreeze mv, .treadExportChunk mv, .treadReplay mv []] : List Instr).all (fun c => c.wf) = true := by decide +kernel

/-- Each of these commands fails one check: pins, links and hand-overs. -/
theorem test_illFormed_pins :
    ([.dtlsSessionClose 4] : List Instr).all (fun c => !c.wf) = true := by decide +kernel

/-- With that operand mended each is well-formed. -/
theorem test_wellFormed_pins :
    ([.dtlsSessionClose 0] : List Instr).all (fun c => c.wf) = true := by decide +kernel

/-! ### Worked cases of the spec -/

/-- 03_number_formats.md: the sixteen encodings of E2M1, and element 0x5 in each of two places of a byte (R45). -/
theorem test_e2m1_values :
    (List.range 16).map (fun n => toF32 (decodeNum 8 n)) = [0, 0x3F000000, 0x3F800000, 0x3FC00000, 0x40000000, 0x40400000, 0x40800000, 0x40C00000,
      0x80000000, 0xBF000000, 0xBF800000, 0xBFC00000, 0xC0000000, 0xC0400000, 0xC0800000, 0xC0C00000] := by decide +kernel

/-- 03_number_formats.md: a block whose greatest magnitude is 13.0, with −2.6, 0.7 and 0.0, quantised to E2M1. -/
def block : List Machine.Num := [f32 0x41500000, f32 0xC0266666, f32 0x3F333333, f32 0]
theorem test_block_floor : mxScale 8 false block = 0x80 ∧ block.map (fun x => (mxElem 8 .rne 0x80 x).enc) = [0x7, 0xB, 0x1, 0x0] := by decide +kernel
theorem test_block_fit : mxScale 8 true block = 0x81 ∧ block.map (fun x => (mxElem 8 .rne 0x81 x).enc) = [0x5, 0x9, 0x0, 0x0] := by decide +kernel
theorem test_block_packed : packElems 8 [0x7, 0xB, 0x1, 0x0] = [0xB7, 0x01] := by decide +kernel

/-- 05_tile_scratchpad.md: handle 0x21 with BASE 0x4000, SIZE 0x1000 and SWIZZLE 6. -/
def handle21 : Word := word (2 ^ 63 + 6 * 2 ^ 56 + 0x1000 * 2 ^ 32 + 0x4000)
theorem test_swizzle : [0, 0x1000, 0x3000, 0x3F000, 0x3150].map (resolve handle21) = [0x100000, 0x101040, 0x1030C0, 0x13FFC0, 0x103190] := by decide +kernel

/-- 07_memory_system.md: a walk down a column of 4 KiB rows in stack 5. -/
theorem test_pseudoChannel : (List.range 64).all (fun n => stackOf (0x3C00000000 + 0x1000 * n) == 5 && pseudoChannel (0x40 * n) == n) = true := by decide +kernel

/-- 08_fabric_addressing.md: sequence numbers of four stores across the wrap, the distances of their arrivals, and a late copy. -/
def arrives (d : PeerIn) (seq : Nat) : PeerIn :=
  peerIn (sequenced (setIn rdy 0x41 d) 0x41 d { seq := seq, pkt := pk, stampUs := 0, status := 0, reason := 0, phys := [] }) 0x41
def early : PeerIn := { isOpen := true, expected := 0xFFFFFFFE }
theorem test_wrap_held : (arrives early 0xFFFFFFFF).expected = 0xFFFFFFFE ∧ (arrives (arrives early 0xFFFFFFFF) 1).held.map (·.seq) = [0xFFFFFFFF, 1] := by decide +kernel
theorem test_wrap_released :
    let d := arrives (arrives (arrives early 0xFFFFFFFF) 1) 0xFFFFFFFE
    d.expected = 0 ∧ (arrives d 0).expected = 2 ∧ (arrives d 0).held = [] ∧ (arrives (arrives d 0) 0xFFFFFFFF).expected = 2
      ∧ (arrives (arrives d 0) 0xFFFFFFFF).isOpen = true := by decide +kernel

/-- 15_power_heat_pace.md: requests of the three pace points of the worked case, and of the two cases beside them. -/
def paceAt (cap tMax : Nat) (x : Thermal) : State := rset (rset (rset { rdy with power := { thermal := x } } Reg.powerCapW cap) Reg.powerFloorW 300) Reg.tMaxMc tMax
theorem test_pace :
    [(sampleRequest (paceAt 1900 88100 .normal) 256 (Frac.ofInt 1710000)).1, (sampleRequest (paceAt 1900 95200 .warning) 256 (Frac.ofInt 2100000)).1,
      (sampleRequest (paceAt 2200 94600 .warning) 288 (Frac.ofInt 1880000)).1, (sampleRequest (paceAt 1900 94600 .warning) 288 (Frac.ofInt 1880000)).1,
      (sampleRequest (paceAt 1900 99300 .throttle) 256 (Frac.ofInt 2100000)).1]
    = [(256, 256, 256), (288, 256, 288), (256, 256, 256), (285, 256, 285), (288, 280, 288)] := by decide +kernel

/-- 18_dictionary_management.md: a READ of t_max_mc, and the first word of its response. -/
def readTMax : Kdp := ⟨0x0101130005000000, 0, 0, []⟩
theorem test_read_message : (readTMax.rev, readTMax.kind, readTMax.index, readTMax.sub) = (1, kindRead, 0x1300, 5) := by decide +kernel
theorem test_read_response : wordAt (respBytes (doRead rdy m0 readTMax).1) 0 = 0x0181130005000004 := by decide +kernel

/-- RFC 3720, which R387 names: CRC-32C of 32 bytes of zeros. -/
theorem test_crc32c_of_zeros : crc32c (List.replicate 32 0) = 0x8A9136AA := by decide +kernel

/-- FIPS 197, C.3: AES-256 of one block, the cipher that R427 names. -/
def aesKey : List Byte := (List.range 32).map (BitVec.ofNat 8)
set_option maxRecDepth 1000000 in
theorem test_aes256 : blockNat (aesBlock (roundKeys aesKey) ((List.range 16).map (fun i => 17 * i))) = 0x8EA2B7CA516745BFEAFC49904B496089 := by decide +kernel

/-! ### The hypotheses of the statements -/

/-- States and operands that meet the hypotheses of each clause of StepKeepsInvariant. -/
theorem test_StepKeepsInvariant :
    (∃ (s : State) (t : State), (s.Inv) ∧ (step s = .next t)) :=
  ⟨{ rdy with pending := [.goRelay] }, rdy, ⟨by decide +kernel, by decide +kernel⟩, rfl⟩

/-- States and operands that meet the hypotheses of each clause of StepIsSound. -/
theorem test_StepIsSound :
    (∃ (s : State) (t : State) (c : Instr) (cs : List Instr), (s.pending = c :: cs) ∧ (step s = .next t)) :=
  ⟨{ rdy with pending := [.goRelay] }, rdy, .goRelay, [], rfl, rfl⟩

/-- States and operands that meet the hypotheses of each clause of RegisterReadsBack. -/
theorem test_RegisterReadsBack :
    (∃ (s : State), (s.Inv))
    ∧ (∃ (s : State) (r : Reg) (r' : Reg), (s.Inv) ∧ (r'.key ≠ r.key)) :=
  ⟨⟨rdy, ⟨by decide +kernel, by decide +kernel⟩⟩,
   ⟨rdy, Reg.semBase, Reg.lastStoreBase, ⟨by decide +kernel, by decide +kernel⟩, by decide +kernel⟩⟩

/-- States and operands that meet the hypotheses of each clause of HbmReadsBack. -/
theorem test_HbmReadsBack :
    (∃ (s : State), (s.hbm.mem.wf = true))
    ∧ (∃ (s : State) (a : Nat) (bs : List Byte) (x : Nat), (s.hbm.mem.wf = true) ∧ (poisoned s a bs.length = false) ∧ (x < bs.length))
    ∧ (∃ (s : State) (a : Nat) (bs : List Byte) (x : Nat), (s.hbm.mem.wf = true) ∧ (x < bs.length) ∧ (poisoned s (64 * ((a + x) / 64)) 64 = true) ∧ (64 * ((a + x) / 64) < a ∨ a + bs.length < 64 * ((a + x) / 64) + 64))
    ∧ (∃ (s : State) (a : Nat) (bs : List Byte) (x : Nat), (s.hbm.mem.wf = true) ∧ (x < bs.length) ∧ (poisoned s (64 * ((a + x) / 64)) 64 = false ∨ (a ≤ 64 * ((a + x) / 64) ∧ 64 * ((a + x) / 64) + 64 ≤ a + bs.length)))
    ∧ (∃ (s : State) (a : Nat) (bs : List Byte) (x : Nat), (s.hbm.mem.wf = true) ∧ (x < a ∨ a + bs.length ≤ x)) :=
  ⟨⟨rdy, by decide +kernel⟩,
   ⟨rdy, 0, [1], 0, by decide +kernel, by decide +kernel, by decide +kernel⟩,
   ⟨{ rdy with hbm := { poison := [(1, 1)] } }, 64, [1], 0, by decide +kernel, by decide +kernel, by decide +kernel, Or.inr (by decide +kernel)⟩,
   ⟨{ rdy with hbm := { poison := [(1, 1)] } }, 64, zeros 64, 63, by decide +kernel, by decide +kernel, Or.inr ⟨by decide +kernel, by decide +kernel⟩⟩,
   ⟨rdy, 64, [1], 65, by decide +kernel, by decide +kernel⟩⟩

/-- States and operands that meet the hypotheses of each clause of ReferenceLoopMoves. -/
theorem test_ReferenceLoopMoves :
    (∃ (s : State) (tone : Tone), (s.clock.refState = .free) ∧ (toneValid s tone = true))
    ∧ (∃ (s : State) (tone : Tone), (s.clock.refState = .free) ∧ (toneValid s tone = false))
    ∧ (∃ (s : State), (s.clock.refState = .acquire))
    ∧ (∃ (s : State) (i : Nat), (s.clock.refState = .acquire) ∧ (refInput s = some i) ∧ (s.clock.lastSource = 0 ∨ s.clock.lastSource = i))
    ∧ (∃ (s : State), (s.clock.refState = .locked) ∧ (refInjected s = false))
    ∧ (∃ (s : State) (tone : Tone) (i : Nat), (s.clock.refState = .holdover) ∧ (refInput s = some i) ∧ (toneValid s tone = true) ∧ (s.clock.lastSource ≠ 0) ∧ (s.clock.lastSource ≠ i) ∧ (refInjected s = false))
    ∧ (∃ (s : State) (via : Via), (Writable s via 0x1100 0xB)) :=
  ⟨⟨ref .free, tone, by decide +kernel, by decide +kernel⟩,
   ⟨ref .free, weak, by decide +kernel, by decide +kernel⟩,
   ⟨ref .acquire, by decide +kernel⟩,
   ⟨ref .acquire, 1, by decide +kernel, by decide +kernel, by decide +kernel⟩,
   ⟨ref .locked, by decide +kernel, by decide +kernel⟩,
   ⟨{ rdy with clock := { refState := .holdover, lastSource := 2 } }, tone, 1, by decide +kernel, by decide +kernel, by decide +kernel, (by decide +kernel), by decide +kernel, by decide +kernel⟩,
   ⟨rdy, m0, ⟨by decide +kernel, by decide +kernel, by decide +kernel⟩⟩⟩

/-- States and operands that meet the hypotheses of each clause of ReferenceLost. -/
theorem test_ReferenceLost :
    (∃ (s : State) (u : State) (q : Nat) (id : Nat), (u = begun s q id) ∧ (s.clock.refState = .holdover) ∧ (s.last.run = none))
    ∧ (∃ (s : State) (u : State) (r : Run) (q : Nat) (id : Nat), (u = begun s q id) ∧ (s.clock.refState = .holdover) ∧ (s.last.run = some r) ∧ (lastRunning s = true))
    ∧ (∃ (s : State) (u : State) (q : Nat) (id : Nat) (f : Flight), (u = begun s q id) ∧ (Begins s q id 2 f) ∧ (clearing u = false) ∧ (slotState u (fld (nth f.words 1) 63 60) = .loaded) ∧ (u.last.run = none) ∧ (u.clock.refState = .lost))
    ∧ (∃ (s : State) (u : State) (q : Nat) (id : Nat), (u = begun s q id) ∧ (s.clock.refState = .lost) ∧ (lastRunning s = true))
    ∧ (∃ (s : State) (u : State) (tone : Tone) (q : Nat) (id : Nat), (u = begun s q id) ∧ (s.clock.refState = .lost) ∧ (toneValid s tone = true) ∧ (lastRunning s = false)) :=
  ⟨⟨ref .holdover, begun (ref .holdover) 0 0, 0, 0, rfl, by decide +kernel, by decide +kernel⟩,
   ⟨{ live [] run1 .running with clock := { refState := .holdover } }, begun ({ live [] run1 .running with clock := { refState := .holdover } }) 0 0, run1, 0, 0, rfl, by decide +kernel, by decide +kernel, by decide +kernel⟩,
   ⟨inFlight { ref .lost with last := { slots := [(0, { state := .loaded })] } } [2 * 2 ^ 56, 0], begun (inFlight { ref .lost with last := { slots := [(0, { state := .loaded })] } } [2 * 2 ^ 56, 0]) 3 7, 3, 7, cmd [2 * 2 ^ 56, 0], rfl, ⟨by decide +kernel, by decide +kernel, by decide +kernel, by decide +kernel, (by decide +kernel)⟩, by decide +kernel, by decide +kernel, by decide +kernel, (by decide +kernel)⟩,
   ⟨{ live [] run1 .running with clock := { refState := .lost } }, begun ({ live [] run1 .running with clock := { refState := .lost } }) 0 0, 0, 0, rfl, by decide +kernel, by decide +kernel⟩,
   ⟨ref .lost, begun (ref .lost) 0 0, tone, 0, 0, rfl, by decide +kernel, by decide +kernel, by decide +kernel⟩⟩

/-- States and operands that meet the hypotheses of each clause of BeatTickCounts. -/
theorem test_BeatTickCounts :
    (∃ (s : State), (s.power.clocksOff = false) ∧ (s.optics.fits = []) ∧ (s.last.run = none) ∧ (s.stitch.ctxs = []) ∧ (∀ t, t < 64 → tileActs s t ++ (ptile s (physTile s t)).late = []))
    ∧ (∃ (s : State) (u : State) (w : State), (s.power.clocksOff = false) ∧ (u = allUnitsTo s (cycleNow s + 56)) ∧ (∀ r, u.last.run = some r → r.cleanupDue = false) ∧ (w = beginBeat (sweepHeaters { u with clock := { u.clock with beat := u.clock.beat + 1 } })) ∧ (w.last.run = none))
    ∧ (∃ (s : State) (u : State) (w : State) (r : Run), (s.power.clocksOff = false) ∧ (u = allUnitsTo s (cycleNow s + 56)) ∧ (∀ r, u.last.run = some r → r.cleanupDue = false) ∧ (w = beginBeat (sweepHeaters { u with clock := { u.clock with beat := u.clock.beat + 1 } })) ∧ (w.last.run = some r) ∧ (runState w = .running) ∧ (r.sched < totalBeats w r) ∧ (w.power.stalled = false) ∧ (w.power.tripped = false) ∧ (r.rests = [] ∨ ∃ p ps, r.rests = p :: ps ∧ r.sched < p))
    ∧ (∃ (s : State) (u : State) (w : State) (r : Run) (p : Nat) (ps : List Nat), (s.power.clocksOff = false) ∧ (u = allUnitsTo s (cycleNow s + 56)) ∧ (∀ r, u.last.run = some r → r.cleanupDue = false) ∧ (w = beginBeat (sweepHeaters { u with clock := { u.clock with beat := u.clock.beat + 1 } })) ∧ (w.last.run = some r) ∧ (runState w = .running) ∧ (r.sched < totalBeats w r) ∧ (w.power.stalled = false) ∧ (w.power.tripped = false) ∧ (r.rests = p :: ps) ∧ (p ≤ r.sched))
    ∧ (∃ (s : State), (s.power.clocksOff = true)) :=
  ⟨⟨rdy, by decide +kernel, by decide +kernel, by decide +kernel, (by decide +kernel), by decide +kernel⟩,
   ⟨rdy, _, _, by decide +kernel, rfl, noCleanup (by decide +kernel), rfl, by decide +kernel⟩,
   ⟨{ live [] { run1 with stepCount := 2 } .running with clock := { beat := 4 } }, _, _, { run1 with stepCount := 2 }, by decide +kernel, rfl, noCleanup (by decide +kernel), rfl, by decide +kernel, by decide +kernel, by decide +kernel, (by decide +kernel), by decide +kernel, Or.inl rfl⟩,
   ⟨{ live [] { run1 with stepCount := 2, rests := [1] } .running with clock := { beat := 4 } }, _, _, { run1 with stepCount := 2, rests := [1] }, 1, [], by decide +kernel, rfl, noCleanup (by decide +kernel), rfl, by decide +kernel, by decide +kernel, by decide +kernel, (by decide +kernel), by decide +kernel, by decide +kernel, by decide +kernel⟩,
   ⟨{ rdy with power := { clocksOff := true } }, by decide +kernel⟩⟩

/-- States and operands that meet the hypotheses of each clause of HandshakeMessages. -/
theorem test_HandshakeMessages :
    (∃ (s : State) (p : Packet), (p.kind = kControl) ∧ (p.wellFormed = true) ∧ (p.len = 1) ∧ (fld (nth (wordsOf p.payload 8) 0) 63 56 = 1) ∧ (runState s ≠ .armed))
    ∧ (∃ (s : State) (u : State) (p : Packet) (r : Run) (ws : List Word), (p.kind = kControl) ∧ (p.wellFormed = true) ∧ (p.len = 1) ∧ (ws = wordsOf p.payload 8) ∧ (fld (nth ws 0) 63 56 = 1) ∧ (runState s = .armed) ∧ (s.last.run = some r) ∧ (p.src ∈ participants s r.slot) ∧ (ws = readyPayload s r) ∧ (p.src ∉ r.ready) ∧ (u = { s with last := { s.last with run := some { r with ready := r.ready ++ [p.src] } } }) ∧ (∃ c ∈ participants s r.slot, c ∉ r.ready ∧ c ≠ p.src))
    ∧ (∃ (s : State) (u : State) (p : Packet) (r : Run) (ws : List Word), (p.kind = kControl) ∧ (p.wellFormed = true) ∧ (p.len = 1) ∧ (ws = wordsOf p.payload 8) ∧ (fld (nth ws 0) 63 56 = 1) ∧ (runState s = .armed) ∧ (s.last.run = some r) ∧ (p.src ∈ participants s r.slot) ∧ (ws = readyPayload s r) ∧ (p.src ∉ r.ready) ∧ (u = { s with last := { s.last with run := some { r with ready := r.ready ++ [p.src] } } }) ∧ (r.launchAt = none) ∧ (leaderOf s r.slot = ownChip s) ∧ (∀ c ∈ participants s r.slot, c ∈ r.ready ∨ c = p.src))
    ∧ (∃ (s : State) (p : Packet) (r : Run), (p.kind = kControl) ∧ (p.wellFormed = true) ∧ (p.len = 1) ∧ (fld (nth (wordsOf p.payload 8) 0) 63 56 = 1) ∧ (runState s = .armed) ∧ (s.last.run = some r) ∧ (r.launchAt.isSome = true ∨ ∃ c ∈ participants s r.slot, c ∉ r.ready) ∧ (wordsOf p.payload 8 ≠ readyPayload s r))
    ∧ (∃ (s : State) (r : Run) (e : Nat) (k : Nat) (slot : Nat), (s.last.run = some r) ∧ (runState s = .armed) ∧ (r.launchAt = none) ∧ (leaderOf s r.slot ≠ ownChip s) ∧ (slot % 16 = r.slot) ∧ (fld (goPath s r.slot r.bucket) 47 43 = logicalEyelet s e) ∧ (fld (goPath s r.slot r.bucket) 42 38 = k))
    ∧ (∃ (s : State) (r : Run) (b : Nat), (s.last.run = some r) ∧ (r.relayAt = some b) ∧ (b ≤ s.clock.beat.toNat + 1))
    ∧ (∃ (s : State) (r : Run) (b : Nat), (s.last.run = some r) ∧ (r.relayAt = some b) ∧ (s.clock.beat.toNat + 1 < b))
    ∧ (∃ (s : State) (r : Run), (s.last.run = some r) ∧ (runState s = .armed) ∧ (r.launchAt = none)) :=
  ⟨⟨rdy, { hdr := [word (5 * 2 ^ 52 + 6 * 2 ^ 40 + 3 * 2 ^ 38 + 2 ^ 24 + 6 * 2 ^ 20), 0, 0, 0, 0, 0, 0, 0], payload := leBytes 8 (2 ^ 56) ++ zeros 56 }, by decide +kernel, by decide +kernel, by decide +kernel, (by decide +kernel), by decide +kernel⟩,
   ⟨live ((0, 3 * 2 ^ 31) :: (256, 5 + 6 * 2 ^ 16 + 7 * 2 ^ 32) :: image 1 []) { ready := [5] } .armed, _, { hdr := [word (5 * 2 ^ 52 + 6 * 2 ^ 40 + 3 * 2 ^ 38 + 2 ^ 24 + 6 * 2 ^ 20), 0, 0, 0, 0, 0, 0, 0], payload := bytesOf (readyPayload (live ((0, 3 * 2 ^ 31) :: (256, 5 + 6 * 2 ^ 16 + 7 * 2 ^ 32) :: image 1 []) { ready := [5] } .armed) { ready := [5] }) }, { ready := [5] }, _, by decide +kernel, by decide +kernel, by decide +kernel, rfl, by decide +kernel, by decide +kernel, by decide +kernel, (by decide +kernel), rfl, by decide +kernel, rfl, ⟨7, by decide +kernel, by decide +kernel, by decide +kernel⟩⟩,
   ⟨live ((0, 2 * 2 ^ 31) :: (256, 5 + 6 * 2 ^ 16) :: image 1 []) { ready := [5] } .armed, _, { hdr := [word (5 * 2 ^ 52 + 6 * 2 ^ 40 + 3 * 2 ^ 38 + 2 ^ 24 + 6 * 2 ^ 20), 0, 0, 0, 0, 0, 0, 0], payload := bytesOf (readyPayload (live ((0, 2 * 2 ^ 31) :: (256, 5 + 6 * 2 ^ 16) :: image 1 []) { ready := [5] } .armed) { ready := [5] }) }, { ready := [5] }, _, by decide +kernel, by decide +kernel, by decide +kernel, rfl, by decide +kernel, by decide +kernel, by decide +kernel, (by decide +kernel), rfl, by decide +kernel, rfl, by decide +kernel, by decide +kernel, by decide +kernel⟩,
   ⟨live [] { launchAt := some 9 } .armed, { hdr := [word (5 * 2 ^ 52 + 6 * 2 ^ 40 + 3 * 2 ^ 38 + 2 ^ 24 + 6 * 2 ^ 20), 0, 0, 0, 0, 0, 0, 0], payload := leBytes 8 (2 ^ 56 + 1) ++ zeros 56 }, { launchAt := some 9 }, by decide +kernel, by decide +kernel, by decide +kernel, (by decide +kernel), by decide +kernel, by decide +kernel, by decide +kernel, by decide +kernel⟩,
   ⟨live ((0, 2 ^ 31) :: (256, 9) :: image 1 [(0x14, 0, [2 * 2 ^ 48 + 3 * 2 ^ 43 + 4 * 2 ^ 38])]) { lead := 100 } .armed, { lead := 100 }, 3, 4, 16, by decide +kernel, by decide +kernel, by decide +kernel, (by decide +kernel), by decide +kernel, by decide +kernel, by decide +kernel⟩,
   ⟨live [] { relayAt := some 1 } .armed, { relayAt := some 1 }, 1, by decide +kernel, by decide +kernel, by decide +kernel⟩,
   ⟨live [] { relayAt := some 2 } .armed, { relayAt := some 2 }, 2, by decide +kernel, by decide +kernel, by decide +kernel⟩,
   ⟨live [] {} .armed, {}, by decide +kernel, by decide +kernel, by decide +kernel⟩⟩

/-- States and operands that meet the hypotheses of each clause of LaunchBeatStartsTheLast. -/
theorem test_LaunchBeatStartsTheLast :
    (∃ (s : State) (u : State) (r : Run) (b : Nat), (s.last.run = some r) ∧ (r.launchAt = some b) ∧ (runState s = .armed) ∧ (b ≤ s.clock.beat.toNat) ∧ (u = beatMark (setRun (openPresets (replayStart (let v := rset (rset (setSlot s r.slot .running) Reg.launchBeat b) Reg.agreedStretch 256; { v with tiles := v.tiles.map (fun t => (t.1, { t.2 with digest := [] })), power := { v.power with localX := 256, paceSum := 0, paceCount := 0 } }) r) r) (fun x => { x with rests := [], sched := 0 })) (some 0)) ∧ (s.power.stalled = false) ∧ (s.power.tripped = false))
    ∧ (∃ (s : State) (u : State) (r : Run) (b : Nat), (s.last.run = some r) ∧ (r.launchAt = some b) ∧ (runState s = .armed) ∧ (b ≤ s.clock.beat.toNat) ∧ (u = beatMark (setRun (openPresets (replayStart (let v := rset (rset (setSlot s r.slot .running) Reg.launchBeat b) Reg.agreedStretch 256; { v with tiles := v.tiles.map (fun t => (t.1, { t.2 with digest := [] })), power := { v.power with localX := 256, paceSum := 0, paceCount := 0 } }) r) r) (fun x => { x with rests := [], sched := 0 })) (some 0)) ∧ (s.power.stalled = true) ∧ (s.power.tripped = false))
    ∧ (∃ (s : State) (u : State) (r : Run) (b : Nat), (s.last.run = some r) ∧ (r.launchAt = some b) ∧ (runState s = .armed) ∧ (b ≤ s.clock.beat.toNat) ∧ (u = beatMark (setRun (openPresets (replayStart (let v := rset (rset (setSlot s r.slot .running) Reg.launchBeat b) Reg.agreedStretch 256; { v with tiles := v.tiles.map (fun t => (t.1, { t.2 with digest := [] })), power := { v.power with localX := 256, paceSum := 0, paceCount := 0 } }) r) r) (fun x => { x with rests := [], sched := 0 })) (some 0)) ∧ (s.power.tripped = true)) :=
  ⟨⟨live [] { launchAt := some 0 } .armed, _, { launchAt := some 0 }, 0, by decide +kernel, by decide +kernel, by decide +kernel, (by decide +kernel), rfl, by decide +kernel, by decide +kernel⟩,
   ⟨{ live [] { launchAt := some 0 } .armed with power := { stalled := true } }, _, { launchAt := some 0 }, 0, by decide +kernel, by decide +kernel, by decide +kernel, (by decide +kernel), rfl, by decide +kernel, by decide +kernel⟩,
   ⟨{ live [] { launchAt := some 0 } .armed with power := { tripped := true } }, _, { launchAt := some 0 }, 0, by decide +kernel, by decide +kernel, by decide +kernel, (by decide +kernel), rfl, by decide +kernel⟩⟩

/-- States and operands that meet the hypotheses of each clause of SequencerRecordsIssue. -/
theorem test_SequencerRecordsIssue :
    (∃ (s : State) (u : State) (tile : Nat) (r : Run) (x : Nat × Word), (u = issued s tile x) ∧ (Due s tile 0 0 r x))
    ∧ (∃ (s : State) (u : State) (tile : Nat) (slot : Nat) (image : Nat) (r : Run) (x : Nat × Word), (u = issued s tile x) ∧ (Due s tile 4 (at' slot 4 44 + at' 1 1 43 + at' image 8 35) r x))
    ∧ (∃ (s : State) (u : State) (tile : Nat) (slot : Nat) (image : Nat) (r : Run) (x : Nat × Word), (u = issued s tile x) ∧ (Due s tile 4 (at' slot 4 44 + at' 0 1 43 + at' image 8 35) r x))
    ∧ (∃ (s : State) (u : State) (tile : Nat) (sem : Nat) (r : Run) (x : Nat × Word), (u = issued s tile x) ∧ (Due s tile 7 (at' sem 12 36) r x)) :=
  ⟨⟨live (image 1 [(1, 0, [0 * 2 ^ 56 + 0])]) run1 .running, issued (live (image 1 [(1, 0, [0 * 2 ^ 56 + 0])]) run1 .running) 0 (0, word (0 * 2 ^ 56 + 0)), 0, run1, (0, word (0 * 2 ^ 56 + 0)), rfl, ⟨by decide +kernel, by decide +kernel, by decide +kernel, by decide +kernel⟩⟩,
   ⟨live (image 1 [(1, 0, [4 * 2 ^ 56 + 15 * 2 ^ 44 + 2 ^ 43])]) run1 .running, issued (live (image 1 [(1, 0, [4 * 2 ^ 56 + 15 * 2 ^ 44 + 2 ^ 43])]) run1 .running) 0 (0, word (4 * 2 ^ 56 + 15 * 2 ^ 44 + 2 ^ 43)), 0, 15, 0, run1, (0, word (4 * 2 ^ 56 + 15 * 2 ^ 44 + 2 ^ 43)), rfl, ⟨by decide +kernel, by decide +kernel, by decide +kernel, by decide +kernel⟩⟩,
   ⟨live (image 1 [(1, 0, [4 * 2 ^ 56 + 15 * 2 ^ 44])]) run1 .running, issued (live (image 1 [(1, 0, [4 * 2 ^ 56 + 15 * 2 ^ 44])]) run1 .running) 0 (0, word (4 * 2 ^ 56 + 15 * 2 ^ 44)), 0, 15, 0, run1, (0, word (4 * 2 ^ 56 + 15 * 2 ^ 44)), rfl, ⟨by decide +kernel, by decide +kernel, by decide +kernel, by decide +kernel⟩⟩,
   ⟨live (image 1 [(1, 0, [7 * 2 ^ 56 + 4095 * 2 ^ 36])]) run1 .running, issued (live (image 1 [(1, 0, [7 * 2 ^ 56 + 4095 * 2 ^ 36])]) run1 .running) 0 (0, word (7 * 2 ^ 56 + 4095 * 2 ^ 36)), 0, 4095, run1, (0, word (7 * 2 ^ 56 + 4095 * 2 ^ 36)), rfl, ⟨by decide +kernel, by decide +kernel, by decide +kernel, by decide +kernel⟩⟩⟩

/-- States and operands that meet the hypotheses of each clause of SemaphoreAdds. -/
theorem test_SemaphoreAdds :
    (∃ (s : State) (j : Nat) (a : Nat), (a = rget s Reg.semBase + 8 * j) ∧ (poisoned s a 8 = true))
    ∧ (∃ (s : State) (j : Nat) (a : Nat), (a = rget s Reg.semBase + 8 * j) ∧ (poisoned s a 8 = false) ∧ (s.hbm.mem.wf = true)) :=
  ⟨⟨{ rdy with hbm := { rdy.hbm with poison := [((rget rdy Reg.semBase + 56) / 64, 1)] } }, 7, rget rdy Reg.semBase + 56, rfl, by decide +kernel⟩,
   ⟨rdy, 4095, rget rdy Reg.semBase + 8 * 4095, rfl, by decide +kernel, by decide +kernel⟩⟩

/-- States and operands that meet the hypotheses of each clause of PassRecordLoadsAndQueues. -/
theorem test_PassRecordLoadsAndQueues :
    (∃ (s : State) (u : State) (v : State) (tile : Nat) (array : Nat) (entry : Nat) (r : Run) (x : Nat × Word) (d : PassRec), (u = issued s tile x) ∧ (Due s tile 1 (at' array 2 46 + at' entry 12 34) r x) ∧ (v = setArray u (physTile u tile) array (fun y => y.freePending (cycleNow u))) ∧ (let p := physTile u tile; let a := arrayOf v p array; let set := if d.loadOnly then d.bSet else 1 - d.bSet; let lacks := unstaged a d (userScaleB v r tile array x.1 set) d.issue; (d = { w0 := nth (runEntry r secPass tile 2 entry) 0, w1 := nth (runEntry r secPass tile 2 entry) 1, issue := cycleNow u, start := max (cycleNow u) a.streamEnd }) ∧ (lacks = []) ∧ (d.loadOnly = true) ∧ (a.pending = none)))
    ∧ (∃ (s : State) (u : State) (v : State) (tile : Nat) (array : Nat) (entry : Nat) (r : Run) (x : Nat × Word) (d : PassRec), (u = issued s tile x) ∧ (Due s tile 1 (at' array 2 46 + at' entry 12 34) r x) ∧ (v = setArray u (physTile u tile) array (fun y => y.freePending (cycleNow u))) ∧ (let p := physTile u tile; let a := arrayOf v p array; let set := if d.loadOnly then d.bSet else 1 - d.bSet; let lacks := unstaged a d (userScaleB v r tile array x.1 set) d.issue; (d = { w0 := nth (runEntry r secPass tile 2 entry) 0, w1 := nth (runEntry r secPass tile 2 entry) 1, issue := cycleNow u, start := max (cycleNow u) a.streamEnd }) ∧ (lacks = []) ∧ (d.loadOnly = false) ∧ (a.pending = none)))
    ∧ (∃ (s : State) (u : State) (v : State) (tile : Nat) (array : Nat) (entry : Nat) (r : Run) (x : Nat × Word) (d : PassRec), (u = issued s tile x) ∧ (Due s tile 1 (at' array 2 46 + at' entry 12 34) r x) ∧ (v = setArray u (physTile u tile) array (fun y => y.freePending (cycleNow u))) ∧ (let p := physTile u tile; let a := arrayOf v p array; let set := if d.loadOnly then d.bSet else 1 - d.bSet; let lacks := unstaged a d (userScaleB v r tile array x.1 set) d.issue; (d = { w0 := nth (runEntry r secPass tile 2 entry) 0, w1 := nth (runEntry r secPass tile 2 entry) 1, issue := cycleNow u, start := max (cycleNow u) a.streamEnd }) ∧ (lacks = []) ∧ (a.pending.isSome = true)))
    ∧ (∃ (s : State) (u : State) (v : State) (tile : Nat) (array : Nat) (entry : Nat) (k : Nat) (r : Run) (x : Nat × Word) (d : PassRec) (ks : List Nat), (u = issued s tile x) ∧ (Due s tile 1 (at' array 2 46 + at' entry 12 34) r x) ∧ (v = setArray u (physTile u tile) array (fun y => y.freePending (cycleNow u))) ∧ (let p := physTile u tile; let a := arrayOf v p array; let set := if d.loadOnly then d.bSet else 1 - d.bSet; let lacks := unstaged a d (userScaleB v r tile array x.1 set) d.issue; (d = { w0 := nth (runEntry r secPass tile 2 entry) 0, w1 := nth (runEntry r secPass tile 2 entry) 1, issue := cycleNow u, start := max (cycleNow u) a.streamEnd }) ∧ (lacks = k :: ks))) :=
  ⟨⟨{ live (image 1 [(1, 0, [1 * 2 ^ 56 + 3 * 2 ^ 46])]) { run1 with tables := [(2, 0, [word (4 * 2 ^ 53), 0])] } .running with phys := [(physTile rdy 0, { arrays := [(3, { staged := [(4, 1)] })] })] }, _, _, 0, 3, 0, { run1 with tables := [(2, 0, [word (4 * 2 ^ 53), 0])] }, (0, word (1 * 2 ^ 56 + 3 * 2 ^ 46)), _, rfl, ⟨by decide +kernel, by decide +kernel, by decide +kernel, by decide +kernel⟩, rfl, rfl, by decide +kernel, by decide +kernel, by decide +kernel⟩,
   ⟨{ live (image 1 [(1, 0, [1 * 2 ^ 56 + 3 * 2 ^ 46])]) { run1 with tables := [(2, 0, [word (0), 0])] } .running with phys := [(physTile rdy 0, { arrays := [(3, { staged := [(0, 1)] })] })] }, _, _, 0, 3, 0, { run1 with tables := [(2, 0, [word (0), 0])] }, (0, word (1 * 2 ^ 56 + 3 * 2 ^ 46)), _, rfl, ⟨by decide +kernel, by decide +kernel, by decide +kernel, by decide +kernel⟩, rfl, rfl, by decide +kernel, by decide +kernel, by decide +kernel⟩,
   ⟨{ live (image 1 [(1, 0, [1 * 2 ^ 56 + 3 * 2 ^ 46])]) { run1 with tables := [(2, 0, [word (0), 0])] } .running with phys := [(physTile rdy 0, { arrays := [(3, { staged := [(0, 1)], pending := some { start := 100 } })] })] }, _, _, 0, 3, 0, { run1 with tables := [(2, 0, [word (0), 0])] }, (0, word (1 * 2 ^ 56 + 3 * 2 ^ 46)), _, rfl, ⟨by decide +kernel, by decide +kernel, by decide +kernel, by decide +kernel⟩, rfl, rfl, by decide +kernel, by decide +kernel⟩,
   ⟨{ live (image 1 [(1, 0, [1 * 2 ^ 56 + 3 * 2 ^ 46])]) { run1 with tables := [(2, 0, [word (0), 0])] } .running with phys := [(physTile rdy 0, { arrays := [(3, {  })] })] }, _, _, 0, 3, 0, 0, { run1 with tables := [(2, 0, [word (0), 0])] }, (0, word (1 * 2 ^ 56 + 3 * 2 ^ 46)), _, [], rfl, ⟨by decide +kernel, by decide +kernel, by decide +kernel, by decide +kernel⟩, rfl, rfl, by decide +kernel⟩⟩

/-- States and operands that meet the hypotheses of each clause of PassStreamsAndCompletes. -/
theorem test_PassStreamsAndCompletes :
    (∃ (s : State) (tile : Nat) (array : Nat) (d : PassRec), (let p := physTile s tile; let a := arrayOf s p array; (a.pending = some d) ∧ (unitRecordsLeft s tile = false) ∧ (d.start < cycleNow s + 56)))
    ∧ (∃ (s : State) (v : State) (tile : Nat) (array : Nat) (d : PassRec), (let p := physTile s tile; let a := arrayOf s p array; (a.pending = some d) ∧ (unitRecordsLeft s tile = false) ∧ (d.start < cycleNow s + 56) ∧ (v = workTo s tile (d.start + 1)) ∧ (dueActs s tile (d.start + 1) = [(d.start, .stream array d.issue)])))
    ∧ (∃ (s : State) (tile : Nat) (array : Nat) (d : PassRec), (let p := physTile s tile; let a := arrayOf s p array; (a.streams.find? (fun d => decide ((ptile s p).unitAt ≤ d.completes)) = some d) ∧ (unitRecordsLeft s tile = false) ∧ (d.completes < cycleNow s + 56)))
    ∧ (∃ (s : State) (v : State) (tile : Nat) (array : Nat) (d : PassRec), (let p := physTile s tile; let a := arrayOf s p array; (a.streams.find? (fun d => decide ((ptile s p).unitAt ≤ d.completes)) = some d) ∧ (unitRecordsLeft s tile = false) ∧ (d.completes < cycleNow s + 56) ∧ (v = workTo s tile (d.completes + 1)) ∧ (d.drain = false) ∧ (dueActs s tile (d.completes + 1) = [(d.completes, .passSettled array d.issue)]) ∧ (passOf v tile array d.issue = some d)))
    ∧ (∃ (s : State) (v : State) (tile : Nat) (array : Nat) (m : Nat) (d : PassRec), (let p := physTile s tile; let a := arrayOf s p array; (a.streams.find? (fun d => decide ((ptile s p).unitAt ≤ d.completes)) = some d) ∧ (unitRecordsLeft s tile = false) ∧ (d.completes < cycleNow s + 56) ∧ (v = workTo s tile (d.completes + 1)) ∧ (dueActs s tile (d.completes + 1) = [(d.completes, .drainRow array d.issue m)]) ∧ (array < 4) ∧ (bankTwice (d.drainBanks (handleOf v tile) m) = none) ∧ (passOf v tile array d.issue = some d)))
    ∧ (∃ (v : State) (tile : Nat) (array : Nat) (d : PassRec), (passOf v tile array d.issue = some d))
    ∧ (∃ (s : State) (tile : Nat) (array : Nat), (let p := physTile s tile; let a := arrayOf s p array; (a.pending = none)))
    ∧ (∃ (s : State) (tile : Nat) (array : Nat) (d : PassRec), (let p := physTile s tile; let a := arrayOf s p array; (a.pending = some d) ∧ (cycleNow s + 56 ≤ d.start)))
    ∧ (∃ (s : State) (tile : Nat) (array : Nat), (let p := physTile s tile; let a := arrayOf s p array; (a.streams = []))) :=
  ⟨⟨{ rdy with clock := { beat := 4 }, phys := [(physTile rdy 0, { arrays := [(3, { pending := some {} })] })] }, 0, 3, {}, by decide +kernel, by decide +kernel, by decide +kernel⟩,
   ⟨{ rdy with clock := { beat := 4 }, phys := [(physTile rdy 0, { arrays := [(3, { pending := some {} })] })] }, _, 0, 3, {}, by decide +kernel, by decide +kernel, by decide +kernel, rfl, by decide +kernel⟩,
   ⟨{ rdy with clock := { beat := 4 }, phys := [(physTile rdy 0, { arrays := [(3, { streams := [{}] })] })] }, 0, 3, {}, by decide +kernel, by decide +kernel, by decide +kernel⟩,
   ⟨{ rdy with clock := { beat := 4 }, phys := [(physTile rdy 0, { unitAt := 257, arrays := [(3, { streams := [{}] })] })] }, _, 0, 3, {}, by decide +kernel, by decide +kernel, by decide +kernel, rfl, by decide +kernel, by decide +kernel, by decide +kernel⟩,
   ⟨{ rdy with clock := { beat := 4 }, phys := [(physTile rdy 0, { unitAt := 257, arrays := [(3, { streams := [{ w0 := word (2 ^ 44 + 2 ^ 34) }] })] })] }, _, 0, 3, 0, { w0 := word (2 ^ 44 + 2 ^ 34) }, by decide +kernel, by decide +kernel, by decide +kernel, rfl, by decide +kernel, by decide +kernel, by decide +kernel, (by decide +kernel)⟩,
   ⟨{ rdy with clock := { beat := 4 }, phys := [(physTile rdy 0, { arrays := [(3, { streams := [{}] })] })] }, 0, 3, {}, by decide +kernel⟩,
   ⟨rdy, 0, 3, by decide +kernel⟩,
   ⟨{ rdy with clock := { beat := 4 }, phys := [(physTile rdy 0, { arrays := [(3, { pending := some { start := 280 } })] })] }, 0, 3, { start := 280 }, by decide +kernel, by decide +kernel⟩,
   ⟨rdy, 0, 3, by decide +kernel⟩⟩

/-- States and operands that meet the hypotheses of each clause of RowUnitIssues. -/
theorem test_RowUnitIssues :
    (∃ (s : State) (u : State) (tile : Nat) (entry : Nat) (r : Run) (x : Nat × Word) (d : FuncRec), (u = issued s tile x) ∧ (Due s tile 2 (at' entry 10 38) r x) ∧ (d = { words := runEntry r secFunc tile 4 entry, issue := cycleNow u, stepExt := rget u Reg.stepNumberExt, seed := srSeedOf u r.slot, beat := (r.sched - 1) % max 1 (stepBeats u) }) ∧ (let p := physTile u tile; let free := if d.isVec then (ptile u p).vecFree else (ptile u p).rowFree; (d.issue < free)))
    ∧ (∃ (s : State) (u : State) (tile : Nat) (entry : Nat) (r : Run) (x : Nat × Word) (d : FuncRec) (b : Nat × Nat) (bs : List (Nat × Nat)), (u = issued s tile x) ∧ (Due s tile 2 (at' entry 10 38) r x) ∧ (d = { words := runEntry r secFunc tile 4 entry, issue := cycleNow u, stepExt := rget u Reg.stepNumberExt, seed := srSeedOf u r.slot, beat := (r.sched - 1) % max 1 (stepBeats u) }) ∧ (let p := physTile u tile; let free := if d.isVec then (ptile u p).vecFree else (ptile u p).rowFree; (free ≤ d.issue) ∧ (unstagedBanks u tile d = b :: bs)))
    ∧ (∃ (s : State) (u : State) (tile : Nat) (entry : Nat) (r : Run) (x : Nat × Word) (d : FuncRec), (u = issued s tile x) ∧ (Due s tile 2 (at' entry 10 38) r x) ∧ (d = { words := runEntry r secFunc tile 4 entry, issue := cycleNow u, stepExt := rget u Reg.stepNumberExt, seed := srSeedOf u r.slot, beat := (r.sched - 1) % max 1 (stepBeats u) }) ∧ (let p := physTile u tile; let free := if d.isVec then (ptile u p).vecFree else (ptile u p).rowFree; (free ≤ d.issue) ∧ (unstagedBanks u tile d = []))) :=
  ⟨⟨{ live (image 1 [(1, 0, [2 * 2 ^ 56 + 0])]) { run1 with tables := [(3, 0, [word (0), 0, 0, 0])] } .running with phys := [(physTile rdy 0, { rowFree := 1 })] }, _, 0, 0, { run1 with tables := [(3, 0, [word (0), 0, 0, 0])] }, (0, word (2 * 2 ^ 56 + 0)), _, rfl, ⟨by decide +kernel, by decide +kernel, by decide +kernel, by decide +kernel⟩, rfl, by decide +kernel⟩,
   ⟨{ live (image 1 [(1, 0, [2 * 2 ^ 56 + 0])]) { run1 with tables := [(3, 0, [word (2 ^ 39), 0, 0, 0])] } .running with phys := [(physTile rdy 0, { arrays := [(0, { pending := some {} })] })] }, _, 0, 0, { run1 with tables := [(3, 0, [word (2 ^ 39), 0, 0, 0])] }, (0, word (2 * 2 ^ 56 + 0)), _, (0, 0), [], rfl, ⟨by decide +kernel, by decide +kernel, by decide +kernel, by decide +kernel⟩, rfl, by decide +kernel, by decide +kernel⟩,
   ⟨live (image 1 [(1, 0, [2 * 2 ^ 56 + 0])]) { run1 with tables := [(3, 0, [word (0), 0, 0, 0])] } .running, _, 0, 0, { run1 with tables := [(3, 0, [word (0), 0, 0, 0])] }, (0, word (2 * 2 ^ 56 + 0)), _, rfl, ⟨by decide +kernel, by decide +kernel, by decide +kernel, by decide +kernel⟩, rfl, by decide +kernel, by decide +kernel⟩⟩

/-- States and operands that meet the hypotheses of each clause of RowUnitCompletes. -/
theorem test_RowUnitCompletes :
    (∃ (s : State) (tile : Nat) (d : FuncRec) (ds : List FuncRec), (let p := physTile s tile; ((ptile s p).rowOps = d :: ds) ∧ (unitRecordsLeft s tile = false) ∧ (d.completes < cycleNow s + 56)))
    ∧ (∃ (s : State) (v : State) (tile : Nat) (d : FuncRec) (ds : List FuncRec), (let p := physTile s tile; ((ptile s p).rowOps = d :: ds) ∧ (unitRecordsLeft s tile = false) ∧ (d.completes < cycleNow s + 56) ∧ (v = workTo s tile (d.completes + 1)) ∧ (dueActs s tile (d.completes + 1) = [(d.completes, .opComplete false d.issue)]) ∧ (opOf v tile false d.issue = some d) ∧ (d.rows ≤ d.done)))
    ∧ (∃ (s : State) (tile : Nat) (d : FuncRec) (ds : List FuncRec), (let p := physTile s tile; ((ptile s p).rowOps = d :: ds) ∧ (cycleNow s + 56 ≤ d.completes)))
    ∧ (∃ (s : State) (tile : Nat), (let p := physTile s tile; ((ptile s p).rowOps = [])))
    ∧ (∃ (s : State) (tile : Nat) (d : FuncRec) (ds : List FuncRec), (let p := physTile s tile; ((ptile s p).vecOps = d :: ds) ∧ (unitRecordsLeft s tile = false) ∧ (d.completes < cycleNow s + 56)))
    ∧ (∃ (s : State) (v : State) (tile : Nat) (d : FuncRec) (ds : List FuncRec), (let p := physTile s tile; ((ptile s p).vecOps = d :: ds) ∧ (unitRecordsLeft s tile = false) ∧ (d.completes < cycleNow s + 56) ∧ (v = workTo s tile (d.completes + 1)) ∧ (dueActs s tile (d.completes + 1) = [(d.completes, .opComplete true d.issue)]) ∧ (opOf v tile true d.issue = some d) ∧ (d.rows ≤ d.done)))
    ∧ (∃ (s : State) (tile : Nat) (d : FuncRec) (ds : List FuncRec), (let p := physTile s tile; ((ptile s p).vecOps = d :: ds) ∧ (cycleNow s + 56 ≤ d.completes)))
    ∧ (∃ (s : State) (tile : Nat), (let p := physTile s tile; ((ptile s p).vecOps = [])))
    ∧ (∃ (r : Nat) (part : Nat) (d : FuncRec), (d.isVec = false) ∧ (d.parts ≤ part + 1) ∧ (0 < r))
    ∧ (∃ (part : Nat) (d : FuncRec), (d.isVec = true) ∧ (d.parts ≤ part + 1))
    ∧ (∃ (d : FuncRec), (d.writesOut = true) ∧ (d.dst = 0) ∧ (d.factorAreas = [])) :=
  ⟨⟨{ rdy with clock := { beat := 4 }, phys := [(physTile rdy 0, { rowOps := [{ words := [word (2 ^ 16 + 2 ^ 7)] }] })] }, 0, { words := [word (2 ^ 16 + 2 ^ 7)] }, [], by decide +kernel, by decide +kernel, by decide +kernel⟩,
   ⟨{ rdy with clock := { beat := 4 }, phys := [(physTile rdy 0, { unitAt := ({ words := [word (2 ^ 16 + 2 ^ 7)] } : FuncRec).completes, rowOps := [{ words := [word (2 ^ 16 + 2 ^ 7)], done := 1 }] })] }, _, 0, { words := [word (2 ^ 16 + 2 ^ 7)], done := 1 }, [], by decide +kernel, by decide +kernel, by decide +kernel, rfl, by decide +kernel, by decide +kernel, by decide +kernel⟩,
   ⟨{ rdy with clock := { beat := 4 }, phys := [(physTile rdy 0, { unitAt := ({ words := [word (2 ^ 16 + 2 ^ 7)] } : FuncRec).completes, rowOps := [{ words := [word (2 ^ 16 + 2 ^ 7)], issue := 280 }] })] }, 0, { words := [word (2 ^ 16 + 2 ^ 7)], issue := 280 }, [], by decide +kernel, by decide +kernel⟩,
   ⟨rdy, 0, by decide +kernel⟩,
   ⟨{ rdy with clock := { beat := 4 }, phys := [(physTile rdy 0, { vecOps := [{ words := [word (2 ^ 55 + 2 ^ 16 + 2 ^ 7)] }] })] }, 0, { words := [word (2 ^ 55 + 2 ^ 16 + 2 ^ 7)] }, [], by decide +kernel, by decide +kernel, by decide +kernel⟩,
   ⟨{ rdy with clock := { beat := 4 }, phys := [(physTile rdy 0, { unitAt := ({ words := [word (2 ^ 55 + 2 ^ 16 + 2 ^ 7)] } : FuncRec).completes, vecOps := [{ words := [word (2 ^ 55 + 2 ^ 16 + 2 ^ 7)], done := 1 }] })] }, _, 0, { words := [word (2 ^ 55 + 2 ^ 16 + 2 ^ 7)], done := 1 }, [], by decide +kernel, by decide +kernel, by decide +kernel, rfl, by decide +kernel, by decide +kernel, by decide +kernel⟩,
   ⟨{ rdy with clock := { beat := 4 }, phys := [(physTile rdy 0, { unitAt := ({ words := [word (2 ^ 55 + 2 ^ 16 + 2 ^ 7)] } : FuncRec).completes, vecOps := [{ words := [word (2 ^ 55 + 2 ^ 16 + 2 ^ 7)], issue := 280 }] })] }, 0, { words := [word (2 ^ 55 + 2 ^ 16 + 2 ^ 7)], issue := 280 }, [], by decide +kernel, by decide +kernel⟩,
   ⟨rdy, 0, by decide +kernel⟩,
   ⟨127, 0, { words := [word (2 ^ 16 + 2 ^ 7)] }, by decide +kernel, by decide +kernel, by decide +kernel⟩,
   ⟨3, { words := [word (2 ^ 55 + 4 * 2 ^ 16 + 256 * 2 ^ 7)] }, by decide +kernel, by decide +kernel⟩,
   ⟨{ words := [word (2 ^ 16 + 2 ^ 7)] }, by decide +kernel, by decide +kernel, by decide +kernel⟩⟩

/-- States and operands that meet the hypotheses of each clause of CopyRecordLaunches. -/
theorem test_CopyRecordLaunches :
    (∃ (s : State) (u : State) (tile : Nat) (stitcher : Nat) (desc : Nat) (r : Run) (x : Nat × Word), (u = issued s tile x) ∧ (Due s tile 3 (at' stitcher 2 46 + at' desc 12 34) r x) ∧ ((ctxOf u (ctxKey false true tile stitcher)).isSome = true))
    ∧ (∃ (s : State) (u : State) (tile : Nat) (stitcher : Nat) (desc : Nat) (r : Run) (x : Nat × Word), (u = issued s tile x) ∧ (Due s tile 3 (at' stitcher 2 46 + at' desc 12 34) r x) ∧ (ctxOf u (ctxKey false true tile stitcher) = none))
    ∧ (∃ (s : State) (u : State) (tile : Nat) (entry : Nat) (r : Run) (x : Nat × Word), (u = issued s tile x) ∧ (Due s tile 5 (at' entry 10 38) r x) ∧ (leLop (laceEntry r tile entry) = lopBarrier))
    ∧ (∃ (s : State) (u : State) (tile : Nat) (group : Nat) (r : Run) (x : Nat × Word), (u = issued s tile x) ∧ (Due s tile 6 (at' group 12 36) r x) ∧ ((groupKeys u r tile group (nowSched u)).all (fun key => (tget? r.rxSeen key).isSome) = true)) :=
  ⟨⟨{ live (image 1 [(1, 0, [3 * 2 ^ 56 + 3 * 2 ^ 46 + 4095 * 2 ^ 34])]) run1 .running with stitch := { ctxs := [(6, {})] } }, issued ({ live (image 1 [(1, 0, [3 * 2 ^ 56 + 3 * 2 ^ 46 + 4095 * 2 ^ 34])]) run1 .running with stitch := { ctxs := [(6, {})] } }) 0 (0, word (3 * 2 ^ 56 + 3 * 2 ^ 46 + 4095 * 2 ^ 34)), 0, 3, 4095, run1, (0, word (3 * 2 ^ 56 + 3 * 2 ^ 46 + 4095 * 2 ^ 34)), rfl, ⟨by decide +kernel, by decide +kernel, by decide +kernel, by decide +kernel⟩, by decide +kernel⟩,
   ⟨live (image 1 [(1, 0, [3 * 2 ^ 56 + 3 * 2 ^ 46 + 4095 * 2 ^ 34])]) run1 .running, issued (live (image 1 [(1, 0, [3 * 2 ^ 56 + 3 * 2 ^ 46 + 4095 * 2 ^ 34])]) run1 .running) 0 (0, word (3 * 2 ^ 56 + 3 * 2 ^ 46 + 4095 * 2 ^ 34)), 0, 3, 4095, run1, (0, word (3 * 2 ^ 56 + 3 * 2 ^ 46 + 4095 * 2 ^ 34)), rfl, ⟨by decide +kernel, by decide +kernel, by decide +kernel, by decide +kernel⟩, by decide +kernel⟩,
   ⟨live (image 1 [(1, 0, [5 * 2 ^ 56 + 0])]) { run1 with tables := [(0x0B, 0, [word (0xF * 2 ^ 56), 0])] } .running, _, 0, 0, { run1 with tables := [(0x0B, 0, [word (0xF * 2 ^ 56), 0])] }, (0, word (5 * 2 ^ 56 + 0)), rfl, ⟨by decide +kernel, by decide +kernel, by decide +kernel, by decide +kernel⟩, by decide +kernel⟩,
   ⟨live (image 1 [(1, 0, [6 * 2 ^ 56 + 4095 * 2 ^ 36])]) run1 .running, issued (live (image 1 [(1, 0, [6 * 2 ^ 56 + 4095 * 2 ^ 36])]) run1 .running) 0 (0, word (6 * 2 ^ 56 + 4095 * 2 ^ 36)), 0, 4095, run1, (0, word (6 * 2 ^ 56 + 4095 * 2 ^ 36)), rfl, ⟨by decide +kernel, by decide +kernel, by decide +kernel, by decide +kernel⟩, by decide +kernel⟩⟩

/-- States and operands that meet the hypotheses of each clause of InboundPacketsMeetWindows. -/
theorem test_InboundPacketsMeetWindows :
    (∃ (s : State) (tile : Nat) (h : TileHead), (admitted s tile h = true))
    ∧ (∃ (s : State) (tile : Nat) (h : TileHead), (admitted s tile h = false) ∧ (h.scheduled = false))
    ∧ (∃ (s : State) (tile : Nat) (h : TileHead), (admitted s tile h = false) ∧ (h.scheduled = true))
    ∧ (∃ (s : State) (phys : Nat), ((ptile s phys).zeroising = true))
    ∧ (∃ (s : State) (phys : Nat), ((ptile s phys).zeroising = false)) :=
  ⟨⟨rdy, 63, ⟨5, 0, 64, true, false, false⟩, by decide +kernel⟩,
   ⟨rdy, 63, ⟨6, 0, 64, true, false, false⟩, by decide +kernel, by decide +kernel⟩,
   ⟨rdy, 63, ⟨6, 0, 64, true, false, true⟩, by decide +kernel, by decide +kernel⟩,
   ⟨{ rdy with phys := [(71, { zeroising := true })] }, 71, by decide +kernel⟩,
   ⟨rdy, 71, by decide +kernel⟩⟩

/-- States and operands that meet the hypotheses of each clause of StitchersServeQueues. -/
theorem test_StitchersServeQueues :
    (∃ (s : State) (u : State) (tile : Nat) (stitcher : Nat) (q : Nat) (id : Nat) (rest : List (Nat × Nat)) (f : Flight), (u = takeWaiting s tile stitcher) ∧ (ctxOf s (ctxKey false false tile stitcher) = none) ∧ (s.power.stalled = false) ∧ (tget? s.stitch.waiting (4 * tile + stitcher) = some ((q, id) :: rest)) ∧ (flightOf s q id = some f) ∧ (f.begun = true))
    ∧ (∃ (s : State) (u : State) (tile : Nat) (stitcher : Nat) (q : Nat) (id : Nat) (rest : List (Nat × Nat)) (f : Flight), (u = takeWaiting s tile stitcher) ∧ (ctxOf s (ctxKey false false tile stitcher) = none) ∧ (s.power.stalled = false) ∧ (tget? s.stitch.waiting (4 * tile + stitcher) = some ((q, id) :: rest)) ∧ (flightOf s q id = some f) ∧ (f.begun = false))
    ∧ (∃ (s : State) (u : State) (tile : Nat) (stitcher : Nat) (q : Nat) (id : Nat) (rest : List (Nat × Nat)), (u = takeWaiting s tile stitcher) ∧ (ctxOf s (ctxKey false false tile stitcher) = none) ∧ (s.power.stalled = false) ∧ (tget? s.stitch.waiting (4 * tile + stitcher) = some ((q, id) :: rest)) ∧ (flightOf s q id = none))
    ∧ (∃ (s : State) (u : State) (tile : Nat) (stitcher : Nat), (u = takeWaiting s tile stitcher) ∧ ((ctxOf s (ctxKey false false tile stitcher)).isSome = true))
    ∧ (∃ (s : State) (u : State) (tile : Nat) (stitcher : Nat) (n : Nat) (block : Nat), (u = takeWaiting s tile stitcher) ∧ (n < 8) ∧ (s.power.stalled = false) ∧ (s.power.tripped = false) ∧ (ctxOf s (512 + n) = none) ∧ (snapOn s n = false) ∧ (block % 256 = 0) ∧ (block + 256 ≤ hbmBytes) ∧ (poisoned s block 256 = false))
    ∧ (∃ (s : State) (u : State) (tile : Nat) (stitcher : Nat) (n : Nat), (u = takeWaiting s tile stitcher) ∧ ((ctxOf s (512 + n)).isSome = true)) :=
  ⟨⟨{ inFlight rdy [0] with queues := { queues := [(3, { flights := [{ id := 7, words := [], beat := 0, begun := true }] })] }, stitch := { waiting := [(255, [(3, 7)])] } }, _, 63, 3, 3, 7, [], { id := 7, words := [], beat := 0, begun := true }, rfl, by decide +kernel, by decide +kernel, by decide +kernel, (by decide +kernel), by decide +kernel⟩,
   ⟨{ inFlight rdy [0] with queues := { queues := [(3, { flights := [{ id := 7, words := [], beat := 0, begun := false }] })] }, stitch := { waiting := [(255, [(3, 7)])] } }, _, 63, 3, 3, 7, [], { id := 7, words := [], beat := 0, begun := false }, rfl, by decide +kernel, by decide +kernel, by decide +kernel, (by decide +kernel), by decide +kernel⟩,
   ⟨{ rdy with stitch := { waiting := [(255, [(3, 7)])] } }, _, 63, 3, 3, 7, [], rfl, by decide +kernel, by decide +kernel, by decide +kernel, (by decide +kernel)⟩,
   ⟨{ rdy with stitch := { ctxs := [(511, {})] } }, _, 63, 3, rfl, by decide +kernel⟩,
   ⟨rdy, _, 0, 0, 7, hbmBytes - 256, rfl, by decide +kernel, by decide +kernel, by decide +kernel, (by decide +kernel), by decide +kernel, by decide +kernel, by decide +kernel, by decide +kernel⟩,
   ⟨{ rdy with stitch := { ctxs := [(519, {})] } }, _, 0, 0, 7, rfl, by decide +kernel⟩⟩

/-- States and operands that meet the hypotheses of each clause of CopiesPlaceCompleteAndMeetDeadlines. -/
theorem test_CopiesPlaceCompleteAndMeetDeadlines :
    (∃ (s : State) (ctx : Nat) (c : CopyRec) (r : Run) (m : Move) (ms : List Move) (l : LaneRun), (ctxOf s ctx = some c) ∧ (s.last.run = some r) ∧ (c.txWait = m :: ms) ∧ (txRun s r c m.idx = some l) ∧ ((lane s (physEyelet s l.eyelet) l.lane).txBuf.length < 64))
    ∧ (∃ (s : State) (v : State) (ctx : Nat) (c : CopyRec) (d : CopyRec), (ctxOf s ctx = some c) ∧ (c.txWait = []) ∧ (v = driveCopy 1 s ctx) ∧ (ctxOf v ctx = some d) ∧ (d.txWait = []))
    ∧ (∃ (s : State) (ctx : Nat) (c : CopyRec), (ctxOf s ctx = some c) ∧ (c.sched = false) ∧ (c.finished = true) ∧ (c.signals = false))
    ∧ (∃ (s : State) (ctx : Nat) (c : CopyRec), (ctxOf s ctx = some c) ∧ (c.sched = false) ∧ (c.finished = true) ∧ (c.signals = true))
    ∧ (∃ (s : State) (ctx : Nat) (c : CopyRec), (ctxOf s ctx = some c) ∧ (c.sched = false) ∧ (c.finished = false))
    ∧ (∃ (s : State) (ctx : Nat) (c : CopyRec), (ctxOf s ctx = some c) ∧ (c.sched = true) ∧ (c.outside = false) ∧ (unitRecordsLeft s c.tile = false) ∧ (c.doneCycle < cycleNow s + 56))
    ∧ (∃ (s : State) (v : State) (ctx : Nat) (c : CopyRec), (ctxOf s ctx = some c) ∧ (c.sched = true) ∧ (c.outside = false) ∧ (unitRecordsLeft s c.tile = false) ∧ (c.doneCycle < cycleNow s + 56) ∧ (v = workTo s c.tile (c.doneCycle + 1)) ∧ (dueActs s c.tile (c.doneCycle + 1) = [(c.doneCycle, .copyDone c.stitcher c.issue)]) ∧ (fixedCopy v c.tile c.stitcher c.issue = some c) ∧ (ctxOf v c.key = some c) ∧ (c.accesses.length ≤ c.at_) ∧ (c.status = 0) ∧ (c.finished = true))
    ∧ (∃ (s : State) (ctx : Nat) (c : CopyRec), (ctxOf s ctx = some c) ∧ (c.sched = true) ∧ (c.outside = true) ∧ (c.soonest < cycleNow s + 56) ∧ (c.finished = true) ∧ (c.accesses.length ≤ c.at_) ∧ (c.status = 0))
    ∧ (∃ (s : State) (ctx : Nat) (c : CopyRec), (ctxOf s ctx = some c) ∧ (c.sched = true) ∧ (c.outside = true) ∧ (cycleNow s + 56 ≤ c.soonest))
    ∧ (∃ (s : State) (ctx : Nat) (c : CopyRec), (ctxOf s ctx = some c) ∧ (c.sched = true) ∧ (c.deadline ≠ 0) ∧ (c.launchBeat + c.deadline ≤ nowSched s) ∧ (c.status = 0) ∧ (runState s = .running ∨ runState s = .ending))
    ∧ (∃ (s : State) (ctx : Nat) (c : CopyRec), (ctxOf s ctx = some c) ∧ (nowSched s < c.launchBeat + c.deadline))
    ∧ (∃ (s : State) (tile : Nat) (entry : Nat) (r : Run) (o : SchedLace), (s.last.run = some r) ∧ (runState s = .running) ∧ (r.laceOps.find? (fun o => o.tile == tile && o.entry == entry && decide (o.issued + leDeadline (laceEntry r tile entry) ≤ nowSched s) && !laceVisible o (o.issued + leDeadline (laceEntry r tile entry))) = some o))
    ∧ (∃ (s : State) (tile : Nat) (entry : Nat) (r : Run), (s.last.run = some r) ∧ (∀ o ∈ r.laceOps, o.tile = tile → o.entry = entry → nowSched s < o.issued + leDeadline (laceEntry r tile entry)))
    ∧ (∃ (s : State) (tile : Nat) (entry : Nat) (r : Run), (s.last.run = some r) ∧ (∀ o ∈ r.laceOps, o.tile = tile → o.entry = entry → laceVisible o (o.issued + leDeadline (laceEntry r tile entry)) = true)) :=
  ⟨⟨{ live (image 1 [(0x10, 0, [2 ^ 10, 0])]) run1 .running with stitch := { ctxs := [(0, { sched := true, txWait := [{}] })] } }, 0, { sched := true, txWait := [{}] }, run1, {}, [], ⟨0, 0, 0, 0, 0, 1, 0⟩, by decide +kernel, by decide +kernel, by decide +kernel, (by decide +kernel), by decide +kernel⟩,
   ⟨{ live [] run1 .running with stitch := { ctxs := [(0, { sched := true })] } }, _, 0, { sched := true }, { sched := true }, by decide +kernel, by decide +kernel, rfl, by decide +kernel, by decide +kernel⟩,
   ⟨{ live [] run1 .running with stitch := { ctxs := [(0, { status := 1 })] } }, 0, { status := 1 }, by decide +kernel, by decide +kernel, by decide +kernel, (by decide +kernel)⟩,
   ⟨{ live [] run1 .running with stitch := { ctxs := [(0, { sd := [0, word (2 ^ 63)] })] } }, 0, { sd := [0, word (2 ^ 63)] }, by decide +kernel, by decide +kernel, by decide +kernel, (by decide +kernel)⟩,
   ⟨{ live [] run1 .running with stitch := { ctxs := [(0, { outstanding := 1 })] } }, 0, { outstanding := 1 }, by decide +kernel, by decide +kernel, by decide +kernel⟩,
   ⟨{ live [] run1 .running with stitch := { ctxs := [(0, { sched := true })] } }, 0, { sched := true }, by decide +kernel, by decide +kernel, by decide +kernel, (by decide +kernel), by decide +kernel⟩,
   ⟨{ live [] run1 .running with stitch := { ctxs := [(0, { sched := true })] } }, _, 0, { sched := true }, by decide +kernel, by decide +kernel, by decide +kernel, (by decide +kernel), by decide +kernel, rfl, by decide +kernel, by decide +kernel, by decide +kernel, (by decide +kernel), by decide +kernel, by decide +kernel⟩,
   ⟨{ live [] run1 .running with stitch := { ctxs := [(0, { sched := true, dst := [word (2 ^ 55)] })] } }, 0, { sched := true, dst := [word (2 ^ 55)] }, by decide +kernel, by decide +kernel, by decide +kernel, (by decide +kernel), by decide +kernel, by decide +kernel, by decide +kernel⟩,
   ⟨{ live [] run1 .running with stitch := { ctxs := [(0, { sched := true, issue := 100, dst := [word (2 ^ 55)] })] } }, 0, { sched := true, issue := 100, dst := [word (2 ^ 55)] }, by decide +kernel, by decide +kernel, by decide +kernel, (by decide +kernel)⟩,
   ⟨{ live [] { run1 with sched := 2 } .running with stitch := { ctxs := [(0, { sched := true, sd := [word (2 ^ 12)] })] } }, 0, { sched := true, sd := [word (2 ^ 12)] }, by decide +kernel, by decide +kernel, by decide +kernel, (by decide +kernel), by decide +kernel, Or.inl (by decide +kernel)⟩,
   ⟨{ live [] run1 .running with stitch := { ctxs := [(0, { sched := true, sd := [word (2 ^ 12)] })] } }, 0, { sched := true, sd := [word (2 ^ 12)] }, by decide +kernel, by decide +kernel⟩,
   ⟨live [] { run1 with sched := 6, laceOps := [{ tile := 63, entry := 1, issued := 5, seq := 0, lop := 15, ltype := 0, set := 0 }] } .running, 63, 1, { run1 with sched := 6, laceOps := [{ tile := 63, entry := 1, issued := 5, seq := 0, lop := 15, ltype := 0, set := 0 }] }, { tile := 63, entry := 1, issued := 5, seq := 0, lop := 15, ltype := 0, set := 0 }, by decide +kernel, by decide +kernel, by decide +kernel⟩,
   ⟨live [] { run1 with sched := 5, laceOps := [{ tile := 63, entry := 1, issued := 5, seq := 0, lop := 15, ltype := 0, set := 0 }] } .running, 63, 1, { run1 with sched := 5, laceOps := [{ tile := 63, entry := 1, issued := 5, seq := 0, lop := 15, ltype := 0, set := 0 }] }, by decide +kernel, by decide +kernel⟩,
   ⟨live [] { run1 with sched := 6, laceOps := [{ tile := 63, entry := 1, issued := 5, seq := 0, lop := 15, ltype := 0, set := 0, done := some 4 }] } .running, 63, 1, { run1 with sched := 6, laceOps := [{ tile := 63, entry := 1, issued := 5, seq := 0, lop := 15, ltype := 0, set := 0, done := some 4 }] }, by decide +kernel, by decide +kernel⟩⟩

/-- States and operands that meet the hypotheses of each clause of TranslationInvalidates. -/
theorem test_TranslationInvalidates :
    (∃ (s : State) (via : Via), (Writable s via 0x3060 9))
    ∧ (∃ (s : State) (via : Via) (v : Nat), (Writable s via 0x3060 8) ∧ (v % 65536 = 0) ∧ (v + 65536 ≤ hbmBytes))
    ∧ (∃ (s : State) (via : Via) (v : Nat), (Writable s via 0x3060 8) ∧ (v % 65536 ≠ 0 ∨ hbmBytes < v + 65536))
    ∧ (∃ (s : State) (via : Via), (Writable s via 0x3100 0xA) ∧ (commitOk s = true))
    ∧ (∃ (s : State) (via : Via), (Writable s via 0x3100 0xA) ∧ (commitOk s = false)) :=
  ⟨⟨rdy, m0, ⟨by decide +kernel, by decide +kernel, by decide +kernel⟩⟩,
   ⟨rdy, m0, hbmBytes - 65536, ⟨by decide +kernel, by decide +kernel, by decide +kernel⟩, by decide +kernel, by decide +kernel⟩,
   ⟨rdy, m0, hbmBytes, ⟨by decide +kernel, by decide +kernel, by decide +kernel⟩, by decide +kernel⟩,
   ⟨rdy, m0, ⟨by decide +kernel, by decide +kernel, by decide +kernel⟩, by decide +kernel⟩,
   ⟨rset (rset rdy (Reg.enable 1) 1) (Reg.rangeCount 1) 1, m0, ⟨by decide +kernel, by decide +kernel, by decide +kernel⟩, by decide +kernel⟩⟩

/-- States and operands that meet the hypotheses of each clause of AtomicsAtTheHomeSlice. -/
theorem test_AtomicsAtTheHomeSlice :
    (∃ (s : State), (s.power.clocksOff = true))
    ∧ (∃ (s : State) (addr : Nat) (op : Nat) (wide : Nat), (let w := if wide = 0 then 32 else 64; (s.power.clocksOff = false) ∧ (op < 0xA) ∧ (addr % (w / 8) = 0) ∧ (addr < hbmBytes) ∧ (poisoned s addr (w / 8) = false) ∧ (s.hbm.mem.wf = true)))
    ∧ (∃ (s : State) (addr : Nat) (op : Nat) (wide : Nat), (let w := if wide = 0 then 32 else 64; (s.power.clocksOff = false) ∧ (op < 0xA) ∧ (addr % (w / 8) ≠ 0)))
    ∧ (∃ (s : State) (addr : Nat) (op : Nat) (wide : Nat), (let w := if wide = 0 then 32 else 64; (s.power.clocksOff = false) ∧ (op < 0xA) ∧ (addr % (w / 8) = 0) ∧ (addr < hbmBytes) ∧ (poisoned s addr (w / 8) = true)))
    ∧ (∃ (s : State) (op : Nat), (s.power.clocksOff = false) ∧ (0xA < op)) :=
  ⟨⟨{ rdy with power := { clocksOff := true } }, by decide +kernel⟩,
   ⟨rdy, hbmBytes - 8, 9, 1, by decide +kernel, by decide +kernel, by decide +kernel, (by decide +kernel), by decide +kernel, by decide +kernel⟩,
   ⟨rdy, 4, 0, 1, by decide +kernel, by decide +kernel, by decide +kernel⟩,
   ⟨{ rdy with hbm := { poison := [(1, 1)] } }, 124, 9, 0, by decide +kernel, by decide +kernel, by decide +kernel, (by decide +kernel), by decide +kernel⟩,
   ⟨rdy, 11, by decide +kernel, by decide +kernel⟩⟩

/-- States and operands that meet the hypotheses of each clause of HomeSliceWrites. -/
theorem test_HomeSliceWrites :
    (∃ (s : State) (addr : Nat) (data : List Byte), (addr % 64 = 0) ∧ (addr < hbmBytes) ∧ (data.length = 64) ∧ (s.power.clocksOff = true))
    ∧ (∃ (s : State) (addr : Nat) (data : List Byte), (addr % 64 = 0) ∧ (addr < hbmBytes) ∧ (data.length = 64) ∧ (s.power.clocksOff = false) ∧ (s.hbm.mem.wf = true))
    ∧ (∃ (s : State) (addr : Nat) (en : Nat) (data : List Byte), (addr % 64 = 0) ∧ (addr < hbmBytes) ∧ (data.length = 64) ∧ (s.power.clocksOff = false) ∧ (poisoned s addr 64 = true) ∧ (∃ i : Nat, i < 64 ∧ en.testBit i = false))
    ∧ (∃ (s : State) (addr : Nat) (fmt : Nat) (en : Nat) (data : List Byte), (addr % 64 = 0) ∧ (addr < hbmBytes) ∧ (data.length = 64) ∧ (s.power.clocksOff = false) ∧ (fmt = 1 ∨ fmt = 9) ∧ (en < 2 ^ 64) ∧ (enablesWhole en = true) ∧ (poisoned s addr 64 = false))
    ∧ (∃ (s : State) (addr : Nat) (fmt : Nat) (en : Nat) (data : List Byte), (addr % 64 = 0) ∧ (addr < hbmBytes) ∧ (data.length = 64) ∧ (s.power.clocksOff = false) ∧ (fmt = 1 ∨ fmt = 9) ∧ (en < 2 ^ 64) ∧ (enablesWhole en = true) ∧ (poisoned s addr 64 = true))
    ∧ (∃ (s : State) (addr : Nat) (fmt : Nat) (data : List Byte), (addr % 64 = 0) ∧ (addr < hbmBytes) ∧ (data.length = 64) ∧ (s.power.clocksOff = false) ∧ (fmt ≠ 1) ∧ (fmt ≠ 9))
    ∧ (∃ (s : State) (addr : Nat) (fmt : Nat) (en : Nat) (data : List Byte), (addr % 64 = 0) ∧ (addr < hbmBytes) ∧ (data.length = 64) ∧ (s.power.clocksOff = false) ∧ (fmt = 1 ∨ fmt = 9) ∧ (en < 2 ^ 64) ∧ (enablesWhole en = false)) :=
  ⟨⟨{ rdy with power := { clocksOff := true } }, 0, zeros 64, by decide +kernel, by decide +kernel, by decide +kernel, (by decide +kernel)⟩,
   ⟨rdy, hbmBytes - 64, zeros 64, by decide +kernel, by decide +kernel, by decide +kernel, (by decide +kernel), by decide +kernel⟩,
   ⟨{ rdy with hbm := { poison := [(1, 1)] } }, 64, 2 ^ 63, zeros 64, by decide +kernel, by decide +kernel, by decide +kernel, (by decide +kernel), by decide +kernel, ⟨0, by decide, by decide +kernel⟩⟩,
   ⟨rdy, 64, 1, 2 ^ 64 - 1, zeros 64, by decide +kernel, by decide +kernel, by decide +kernel, (by decide +kernel), by decide +kernel, by decide +kernel, by decide +kernel, by decide +kernel⟩,
   ⟨{ rdy with hbm := { poison := [(1, 1)] } }, 64, 9, 15, zeros 64, by decide +kernel, by decide +kernel, by decide +kernel, (by decide +kernel), by decide +kernel, by decide +kernel, by decide +kernel, by decide +kernel⟩,
   ⟨rdy, 64, 2, zeros 64, by decide +kernel, by decide +kernel, by decide +kernel, (by decide +kernel), by decide +kernel, by decide +kernel⟩,
   ⟨rdy, 64, 9, 8, zeros 64, by decide +kernel, by decide +kernel, by decide +kernel, (by decide +kernel), by decide +kernel, by decide +kernel, by decide +kernel⟩⟩

/-- States and operands that meet the hypotheses of each clause of PatrolScrubAndFrames. -/
theorem test_PatrolScrubAndFrames :
    (∃ (s : State), (s.hbm.patrolSuspended = false) ∧ (s.power.clocksOff = false) ∧ (rget s Reg.patrolPosition + 64 < hbmBytes))
    ∧ (∃ (s : State), (s.hbm.patrolSuspended = false) ∧ (s.power.clocksOff = false) ∧ (hbmBytes ≤ rget s Reg.patrolPosition + 64))
    ∧ (∃ (s : State), (s.hbm.patrolSuspended = false) ∧ (s.power.clocksOff = false) ∧ (poisoned s (rget s Reg.patrolPosition) 1 = false))
    ∧ (∃ (s : State) (a : Nat), (s.hbm.patrolSuspended = false) ∧ (s.power.clocksOff = false) ∧ (a = rget s Reg.patrolPosition) ∧ (tget? s.hbm.poison (a / 64) = none))
    ∧ (∃ (s : State), (s.hbm.patrolSuspended = true ∨ s.power.clocksOff = true))
    ∧ (∃ (s : State), (s.tenancy.scrubbing = true))
    ∧ (∃ (s : State), (s.power.clocksOff = true))
    ∧ (∃ (s : State), (s.power.clocksOff = false) ∧ (s.last.run = none)) :=
  ⟨⟨rset rdy Reg.patrolPosition (hbmBytes - 128), by decide +kernel, by decide +kernel, by decide +kernel⟩,
   ⟨rset rdy Reg.patrolPosition (hbmBytes - 64), by decide +kernel, by decide +kernel, by decide +kernel⟩,
   ⟨rdy, by decide +kernel, by decide +kernel, by decide +kernel⟩,
   ⟨rdy, 0, by decide +kernel, by decide +kernel, rfl, by decide +kernel⟩,
   ⟨{ rdy with hbm := { patrolSuspended := true } }, by decide +kernel⟩,
   ⟨{ rdy with tenancy := { scrubbing := true } }, by decide +kernel⟩,
   ⟨{ rdy with power := { clocksOff := true } }, by decide +kernel⟩,
   ⟨rdy, by decide +kernel, by decide +kernel⟩⟩

/-- States and operands that meet the hypotheses of each clause of RegulatorsMeter. -/
theorem test_RegulatorsMeter :
    (∃ (s : State) (p : Nat) (q : RegRequest), (q.id < 2 ^ 32) ∧ (p = partitionOf s q.addr) ∧ (s.power.clocksOff = true))
    ∧ (∃ (s : State) (p : Nat) (q : RegRequest), (q.id < 2 ^ 32) ∧ (p = partitionOf s q.addr) ∧ (s.power.clocksOff = false) ∧ (bypasses s q = true ∨ pget s (Reg.rateMbps p) = 0xFFFFFFFF))
    ∧ (∃ (s : State) (die : Nat) (now : Nat) (p : Nat) (q : RegRequest), (q.id < 2 ^ 32) ∧ (p = partitionOf s q.addr) ∧ (s.power.clocksOff = false) ∧ (bypasses s q = false) ∧ (pget s (Reg.rateMbps p) ≠ 0xFFFFFFFF) ∧ ((refill s p now (bucketOf s die p)).fifo = []) ∧ (1250 * q.bytes ≤ (refill s p now (bucketOf s die p)).tokens.getD 0))
    ∧ (∃ (s : State) (die : Nat) (now : Nat) (p : Nat) (q : RegRequest), (q.id < 2 ^ 32) ∧ (p = partitionOf s q.addr) ∧ (s.power.clocksOff = false) ∧ (bypasses s q = false) ∧ (pget s (Reg.rateMbps p) ≠ 0xFFFFFFFF) ∧ ((refill s p now (bucketOf s die p)).fifo ≠ []) ∧ (rget s Reg.holdPlaces ≤ (refill s p now (bucketOf s die p)).fifo.length))
    ∧ (∃ (s : State) (die : Nat) (now : Nat) (p : Nat) (q : RegRequest) (h : Held) (hs : List Held), (q.id < 2 ^ 32) ∧ (p = partitionOf s q.addr) ∧ (s.power.clocksOff = false) ∧ ((refill s p now (bucketOf s die p)).fifo = h :: hs) ∧ (h.req.id < 2 ^ 32) ∧ (now ≤ h.stamp) ∧ (pget s (Reg.rateMbps p) ≠ 0xFFFFFFFF) ∧ (1250 * h.req.bytes ≤ (refill s p now (bucketOf s die p)).tokens.getD 0))
    ∧ (∃ (s : State) (die : Nat) (now : Nat) (p : Nat) (q : RegRequest) (h : Held), (q.id < 2 ^ 32) ∧ (p = partitionOf s q.addr) ∧ ((bucketOf s die p).fifo = [h]) ∧ (h.req.id < 2 ^ 32) ∧ (h.stamp + 1250 * rget s Reg.holdLimitUs ≤ now) ∧ (pget s (Reg.rateMbps p) ≠ 0xFFFFFFFF) ∧ ((refill s p now (bucketOf s die p)).tokens.getD 0 < 1250 * h.req.bytes)) :=
  ⟨⟨{ rdy with power := { clocksOff := true } }, _, ⟨1, 64, 64, false⟩, by decide +kernel, rfl, by decide +kernel⟩,
   ⟨rdy, 0, ⟨0, rget rdy Reg.semBase + 32767, 1, true⟩, by decide +kernel, rfl, by decide +kernel, by decide +kernel⟩,
   ⟨rset (rset { rdy with hbm := { partActive := [((Reg.rateMbps 0).key, 1000)], buckets := [(16 * 3, { tokens := some 80000, fifo := [] })] } } Reg.holdPlaces 1) Reg.holdLimitUs 1, 3, 0, 0, ⟨1, 64, 64, false⟩, by decide +kernel, rfl, by decide +kernel, by decide +kernel, by decide +kernel, (by decide +kernel), by decide +kernel⟩,
   ⟨rset (rset { rdy with hbm := { partActive := [((Reg.rateMbps 0).key, 1000)], buckets := [(16 * 3, { tokens := some 80000, fifo := [⟨⟨1, 64, 64, false⟩, 0⟩] })] } } Reg.holdPlaces 1) Reg.holdLimitUs 1, 3, 0, 0, ⟨1, 64, 64, false⟩, by decide +kernel, rfl, by decide +kernel, by decide +kernel, by decide +kernel, (by decide +kernel), by decide +kernel⟩,
   ⟨rset (rset { rdy with hbm := { partActive := [((Reg.rateMbps 0).key, 1000)], buckets := [(16 * 3, { tokens := some 80000, fifo := [⟨⟨1, 64, 64, false⟩, 0⟩] })] } } Reg.holdPlaces 1) Reg.holdLimitUs 1, 3, 0, 0, ⟨1, 64, 64, false⟩, ⟨⟨1, 64, 64, false⟩, 0⟩, [], by decide +kernel, rfl, by decide +kernel, by decide +kernel, by decide +kernel, (by decide +kernel), by decide +kernel, by decide +kernel⟩,
   ⟨rset (rset { rdy with hbm := { partActive := [((Reg.rateMbps 0).key, 1)], buckets := [(16 * 3, { tokens := some 0, fifo := [⟨⟨1, 64, 64, false⟩, 0⟩] })] } } Reg.holdPlaces 1) Reg.holdLimitUs 1, 3, 1250, 0, ⟨1, 64, 64, false⟩, ⟨⟨1, 64, 64, false⟩, 0⟩, by decide +kernel, rfl, by decide +kernel, by decide +kernel, by decide +kernel, (by decide +kernel), by decide +kernel⟩⟩

/-- States and operands that meet the hypotheses of each clause of PacketsLeaveInOrder. -/
theorem test_PacketsLeaveInOrder :
    (∃ (s : State) (dst : Nat) (u : Unsent) (us : List Unsent), ((peerOut s dst).unsent = u :: us) ∧ (s.power.clocksOff = true))
    ∧ (∃ (s : State) (dst : Nat) (u : Unsent) (us : List Unsent), ((peerOut s dst).unsent = u :: us) ∧ (s.power.clocksOff = false) ∧ (unassigned s = true))
    ∧ (∃ (s : State) (dst : Nat) (u : Unsent) (us : List Unsent), ((peerOut s dst).unsent = u :: us) ∧ (let d := peerOut s dst; let p := u.pkt.stamp d.next s.fabric.nextTag (d.next % 256) (d.state == .unsynced); (s.power.clocksOff = false) ∧ (unassigned s = false) ∧ (dst ≠ ownChip s) ∧ (s.router.state = .serving) ∧ (routeOf s p = .none)))
    ∧ (∃ (s : State) (dst : Nat) (u : Unsent) (us : List Unsent), ((peerOut s dst).unsent = u :: us) ∧ (let d := peerOut s dst; let p := u.pkt.stamp d.next s.fabric.nextTag (d.next % 256) (d.state == .unsynced); (s.power.clocksOff = false) ∧ (unassigned s = false) ∧ (dst = ownChip s ∨ s.router.state ≠ .serving ∨ routeOf s p ≠ .none) ∧ (d.state = .open) ∧ (d.sent.length < rget s Reg.maxOutstanding)))
    ∧ (∃ (s : State) (dst : Nat) (u : Unsent) (us : List Unsent), ((peerOut s dst).unsent = u :: us) ∧ (let d := peerOut s dst; let p := u.pkt.stamp d.next s.fabric.nextTag (d.next % 256) (d.state == .unsynced); (s.power.clocksOff = false) ∧ (unassigned s = false) ∧ (dst = ownChip s ∨ s.router.state ≠ .serving ∨ routeOf s p ≠ .none) ∧ (d.state = .open) ∧ (rget s Reg.maxOutstanding ≤ d.sent.length)))
    ∧ (∃ (s : State) (dst : Nat) (u : Unsent) (us : List Unsent), ((peerOut s dst).unsent = u :: us) ∧ (let d := peerOut s dst; let p := u.pkt.stamp d.next s.fabric.nextTag (d.next % 256) (d.state == .unsynced); (s.power.clocksOff = false) ∧ (unassigned s = false) ∧ (dst = ownChip s ∨ s.router.state ≠ .serving ∨ routeOf s p ≠ .none) ∧ (d.state = .unsynced))) :=
  ⟨⟨{ { rdy with fabric := { out := [(5, { state := .open, sent := [], unsent := [⟨{ hdr := [word (5 * 2 ^ 52 + 5 * 2 ^ 40 + 0 * 2 ^ 38 + 1 * 2 ^ 20 + 0), word (0), word (0), word (1), word (0), 0, 0, 0], payload := [] }, .other⟩] })] } } with power := { clocksOff := true } }, 5, ⟨{ hdr := [word (5 * 2 ^ 52 + 5 * 2 ^ 40 + 0 * 2 ^ 38 + 1 * 2 ^ 20 + 0), word (0), word (0), word (1), word (0), 0, 0, 0], payload := [] }, .other⟩, [], by decide +kernel, by decide +kernel⟩,
   ⟨rset ({ rdy with fabric := { out := [(5, { state := .open, sent := [], unsent := [⟨{ hdr := [word (5 * 2 ^ 52 + 5 * 2 ^ 40 + 0 * 2 ^ 38 + 1 * 2 ^ 20 + 0), word (0), word (0), word (1), word (0), 0, 0, 0], payload := [] }, .other⟩] })] } }) Reg.chipNumberActive 0xFFFF, 5, ⟨{ hdr := [word (5 * 2 ^ 52 + 5 * 2 ^ 40 + 0 * 2 ^ 38 + 1 * 2 ^ 20 + 0), word (0), word (0), word (1), word (0), 0, 0, 0], payload := [] }, .other⟩, [], by decide +kernel, by decide +kernel, by decide +kernel⟩,
   ⟨{ rdy with fabric := { out := [(7, { state := .open, sent := [], unsent := [⟨{ hdr := [word (7 * 2 ^ 52 + 5 * 2 ^ 40 + 0 * 2 ^ 38 + 1 * 2 ^ 20 + 0), word (0), word (0), word (1), word (0), 0, 0, 0], payload := [] }, .other⟩] })] } }, 7, ⟨{ hdr := [word (7 * 2 ^ 52 + 5 * 2 ^ 40 + 0 * 2 ^ 38 + 1 * 2 ^ 20 + 0), word (0), word (0), word (1), word (0), 0, 0, 0], payload := [] }, .other⟩, [], by decide +kernel, by decide +kernel, by decide +kernel, (by decide +kernel), by decide +kernel, by decide +kernel⟩,
   ⟨{ rdy with fabric := { out := [(5, { state := .open, sent := [], unsent := [⟨{ hdr := [word (5 * 2 ^ 52 + 5 * 2 ^ 40 + 0 * 2 ^ 38 + 1 * 2 ^ 20 + 0), word (0), word (0), word (1), word (0), 0, 0, 0], payload := [] }, .other⟩] })] } }, 5, ⟨{ hdr := [word (5 * 2 ^ 52 + 5 * 2 ^ 40 + 0 * 2 ^ 38 + 1 * 2 ^ 20 + 0), word (0), word (0), word (1), word (0), 0, 0, 0], payload := [] }, .other⟩, [], by decide +kernel, by decide +kernel, by decide +kernel, Or.inl (by decide +kernel), by decide +kernel, by decide +kernel⟩,
   ⟨rset { rdy with fabric := { out := [(5, { state := .open, sent := [⟨0, 0, .other, 0⟩], unsent := [⟨{ hdr := [word (5 * 2 ^ 52 + 5 * 2 ^ 40 + 0 * 2 ^ 38 + 1 * 2 ^ 20 + 0), word (0), word (0), word (1), word (0), 0, 0, 0], payload := [] }, .other⟩] })] } } Reg.maxOutstanding 1, 5, ⟨{ hdr := [word (5 * 2 ^ 52 + 5 * 2 ^ 40 + 0 * 2 ^ 38 + 1 * 2 ^ 20 + 0), word (0), word (0), word (1), word (0), 0, 0, 0], payload := [] }, .other⟩, [], by decide +kernel, by decide +kernel, by decide +kernel, Or.inl (by decide +kernel), by decide +kernel, by decide +kernel⟩,
   ⟨{ rdy with fabric := { out := [(5, { state := .unsynced, sent := [], unsent := [⟨{ hdr := [word (5 * 2 ^ 52 + 5 * 2 ^ 40 + 0 * 2 ^ 38 + 1 * 2 ^ 20 + 0), word (0), word (0), word (1), word (0), 0, 0, 0], payload := [] }, .other⟩] })] } }, 5, ⟨{ hdr := [word (5 * 2 ^ 52 + 5 * 2 ^ 40 + 0 * 2 ^ 38 + 1 * 2 ^ 20 + 0), word (0), word (0), word (1), word (0), 0, 0, 0], payload := [] }, .other⟩, [], by decide +kernel, by decide +kernel, by decide +kernel, Or.inl (by decide +kernel), by decide +kernel⟩⟩

/-- States and operands that meet the hypotheses of each clause of PacketsArriveInOrder. -/
theorem test_PacketsArriveInOrder :
    (∃ (s : State), (s.power.clocksOff = true))
    ∧ (∃ (s : State) (p : Packet), (s.power.clocksOff = false) ∧ (p.dst = ownChip s) ∧ (p.isRequest = true) ∧ (s.tenancy.vals.peers.contains p.src = false))
    ∧ (∃ (s : State) (p : Packet), (p.dst ≠ ownChip s))
    ∧ (∃ (s : State) (p : Packet), (s.power.clocksOff = false) ∧ (p.dst = ownChip s) ∧ (p.isRequest = true) ∧ (s.tenancy.vals.peers.contains p.src = true) ∧ (p.wellFormed = true) ∧ (p.priv = true) ∧ (p.sync = false) ∧ ((requestGranules p).all (fun a => a < hbmBytes) = true) ∧ ((peerIn s p.src).isOpen = true) ∧ ((peerIn s p.src).held = []) ∧ (p.seq = (peerIn s p.src).expected) ∧ (p.seq < 2 ^ 32) ∧ (rollingBack s = false))
    ∧ (∃ (s : State) (src : Nat), ((peerIn s src).held ≠ []))
    ∧ (∃ (s : State) (src : Nat), ((peerIn s src).held = []))
    ∧ (∃ (s : State) (p : Packet) (o : Outst), (p.kind = kResponse) ∧ (p.wellFormed = true) ∧ ((peerOut s p.src).sent.find? (fun o => o.tag == fld p.arg0 31 16 && o.seq == fld p.arg0 63 32) = some o) ∧ (o.origin = .other) ∧ (p.len = (if fld p.arg0 15 8 = Code.ok then o.rlen else 0)))
    ∧ (∃ (s : State) (src : Nat), ((peerOut s src).sent = []) ∧ ((peerOut s src).state ≠ .syncing))
    ∧ (∃ (s : State) (src : Nat), ((peerOut s src).sent = []) ∧ ((peerOut s src).state = .syncing))
    ∧ (∃ (s : State) (src : Nat) (o : Outst), ((peerOut s src).sent = [o]) ∧ (o.origin = .other)) :=
  ⟨⟨{ rdy with power := { clocksOff := true } }, by decide +kernel⟩,
   ⟨rdy, { hdr := [word (5 * 2 ^ 52 + 6 * 2 ^ 40 + 0 * 2 ^ 38 + 1 * 2 ^ 20 + 2 ^ 36), word (0), word (0), word (1), word (0), 0, 0, 0], payload := [] }, by decide +kernel, by decide +kernel, by decide +kernel, (by decide +kernel)⟩,
   ⟨rdy, { hdr := [word (6 * 2 ^ 52 + 6 * 2 ^ 40 + 0 * 2 ^ 38 + 1 * 2 ^ 20 + 0), word (0), word (0), word (0), word (0), 0, 0, 0], payload := [] }, by decide +kernel⟩,
   ⟨{ rdy with tenancy := { anchors := [[1]], vals := { peers := [6] } }, fabric := { inn := [(6, { isOpen := true })] } }, { hdr := [word (5 * 2 ^ 52 + 6 * 2 ^ 40 + 0 * 2 ^ 38 + 1 * 2 ^ 20 + 2 ^ 36), word (0), word (0), word (1), word (0), 0, 0, 0], payload := [] }, by decide +kernel, by decide +kernel, by decide +kernel, (by decide +kernel), by decide +kernel, by decide +kernel, by decide +kernel, by decide +kernel, (by decide +kernel), by decide +kernel, by decide +kernel, by decide +kernel, by decide +kernel⟩,
   ⟨{ rdy with fabric := { inn := [(6, { held := [{ seq := 1, pkt := { hdr := [word (5 * 2 ^ 52 + 6 * 2 ^ 40 + 0 * 2 ^ 38 + 1 * 2 ^ 20 + 2 ^ 36), word (0), word (0), word (1), word (0), 0, 0, 0], payload := [] }, stampUs := 0 }] })] } }, 6, by decide +kernel⟩,
   ⟨rdy, 6, by decide +kernel⟩,
   ⟨{ rdy with fabric := { out := [(6, { sent := [⟨3, 9, .other, 0⟩] })] } }, { hdr := [word (5 * 2 ^ 52 + 6 * 2 ^ 40 + 1 * 2 ^ 38 + 4 * 2 ^ 20 + 0), word (0), word (0), word (0), word (9 * 2 ^ 16 + 3 * 2 ^ 32), 0, 0, 0], payload := [] }, ⟨3, 9, .other, 0⟩, by decide +kernel, by decide +kernel, by decide +kernel, (by decide +kernel), by decide +kernel⟩,
   ⟨rdy, 6, by decide +kernel, by decide +kernel⟩,
   ⟨{ rdy with fabric := { out := [(6, { state := .syncing })] } }, 6, by decide +kernel, by decide +kernel⟩,
   ⟨{ rdy with fabric := { out := [(6, { sent := [⟨3, 9, .other, 0⟩] })] } }, 6, ⟨3, 9, .other, 0⟩, by decide +kernel, by decide +kernel⟩⟩

/-- States and operands that meet the hypotheses of each clause of RequestsTakeEffectAndBlocksRelease. -/
theorem test_RequestsTakeEffectAndBlocksRelease :
    (∃ (s : State), (s.power.clocksOff = true))
    ∧ (∃ (s : State) (src : Nat) (h : HeldPkt) (hs : List HeldPkt), (s.power.clocksOff = false) ∧ ((peerIn s src).released = h :: hs) ∧ (h.waits = false) ∧ (meteredAs s src h = none) ∧ (rollingBack s = false))
    ∧ (∃ (s : State) (src : Nat), ((peerIn s src).released = []))
    ∧ (∃ (s : State), (s.last.run = none))
    ∧ (∃ (s : State) (e : Nat) (k : Nat) (pos : Nat) (sb : Nat) (r : Run), (s.last.run = some r) ∧ (rxRun s r e k pos sb = none))
    ∧ (∃ (s : State) (e : Nat) (k : Nat) (pos : Nat) (sb : Nat) (a : Nat) (data : List Byte) (r : Run) (x : LaneRun × Nat) (w : TileHead) (s0 : State), (s.last.run = some r) ∧ (rxRun s r e k pos sb = some x) ∧ (r.closed.contains (fld x.1.w1 63 58, fld x.1.w1 26 15 + 4096 * (sb / max 1 (beatCount s r.slot r.bucket))) = false) ∧ ((tget? r.rxSeen (rxKey e k pos sb)).isSome = false) ∧ (a = resolve (handleOf s (fld x.1.w1 63 58) (fld x.1.w1 57 50)) (64 * (fld x.1.w1 49 30 + x.2))) ∧ (w = { src := (lanePartner (lane s e k)).getD 0, addr := a, len := 64, write := true, atomic := false, scheduled := true }) ∧ (s0 = crossIn s (physTile s (fld x.1.w1 63 58)) (e / 4) (data.take 64)) ∧ (admitted s (fld x.1.w1 63 58) w = true))
    ∧ (∃ (s : State) (e : Nat) (k : Nat) (pos : Nat) (sb : Nat) (a : Nat) (data : List Byte) (r : Run) (x : LaneRun × Nat) (w : TileHead) (s0 : State), (s.last.run = some r) ∧ (rxRun s r e k pos sb = some x) ∧ (r.closed.contains (fld x.1.w1 63 58, fld x.1.w1 26 15 + 4096 * (sb / max 1 (beatCount s r.slot r.bucket))) = false) ∧ ((tget? r.rxSeen (rxKey e k pos sb)).isSome = false) ∧ (a = resolve (handleOf s (fld x.1.w1 63 58) (fld x.1.w1 57 50)) (64 * (fld x.1.w1 49 30 + x.2))) ∧ (w = { src := (lanePartner (lane s e k)).getD 0, addr := a, len := 64, write := true, atomic := false, scheduled := true }) ∧ (s0 = crossIn s (physTile s (fld x.1.w1 63 58)) (e / 4) (data.take 64)) ∧ (admitted s (fld x.1.w1 63 58) w = false))
    ∧ (∃ (s : State) (e : Nat) (k : Nat) (pos : Nat) (sb : Nat) (r : Run) (x : LaneRun × Nat), (s.last.run = some r) ∧ (rxRun s r e k pos sb = some x) ∧ (r.closed.contains (fld x.1.w1 63 58, fld x.1.w1 26 15 + 4096 * (sb / max 1 (beatCount s r.slot r.bucket))) = true))
    ∧ (∃ (s : State) (e : Nat) (k : Nat) (pos : Nat) (sb : Nat) (r : Run) (x : LaneRun × Nat), (s.last.run = some r) ∧ (rxRun s r e k pos sb = some x) ∧ ((tget? r.rxSeen (rxKey e k pos sb)).isSome = true)) :=
  ⟨⟨{ rdy with power := { clocksOff := true } }, by decide +kernel⟩,
   ⟨{ rdy with fabric := { inn := [(6, { released := [{ seq := 1, pkt := { hdr := [word (5 * 2 ^ 52 + 6 * 2 ^ 40 + 0 * 2 ^ 38 + 1 * 2 ^ 20 + 2 ^ 36), word (0), word (0), word (1), word (0), 0, 0, 0], payload := [] }, stampUs := 0 }] })] } }, 6, { seq := 1, pkt := { hdr := [word (5 * 2 ^ 52 + 6 * 2 ^ 40 + 0 * 2 ^ 38 + 1 * 2 ^ 20 + 2 ^ 36), word (0), word (0), word (1), word (0), 0, 0, 0], payload := [] }, stampUs := 0 }, [], by decide +kernel, by decide +kernel, by decide +kernel, (by decide +kernel), by decide +kernel⟩,
   ⟨rdy, 6, by decide +kernel⟩,
   ⟨rdy, by decide +kernel⟩,
   ⟨live [] run1 .running, 24, 31, 0, 0, run1, by decide +kernel, by decide +kernel⟩,
   ⟨{ live (image 1 [(0x10, 0, [2 ^ 62 + 24 * 2 ^ 57 + 31 * 2 ^ 52 + 2 ^ 10, 0])]) run1 .running with lanes := [(lk 24 31, { accepted := [word (5 * 2 ^ 52)] })] }, 24, 31, 0, 0, _, [], run1, (⟨1, 24, 31, 0, 0, 1, 0⟩, 0), _, _, by decide +kernel, by decide +kernel, by decide +kernel, (by decide +kernel), rfl, rfl, rfl, by decide +kernel⟩,
   ⟨live (image 1 [(0x10, 0, [2 ^ 62 + 24 * 2 ^ 57 + 31 * 2 ^ 52 + 2 ^ 10, 0])]) run1 .running, 24, 31, 0, 0, _, [], run1, (⟨1, 24, 31, 0, 0, 1, 0⟩, 0), _, _, by decide +kernel, by decide +kernel, by decide +kernel, (by decide +kernel), rfl, rfl, rfl, by decide +kernel⟩,
   ⟨live (image 1 [(0x10, 0, [2 ^ 62 + 24 * 2 ^ 57 + 31 * 2 ^ 52 + 2 ^ 10, 0])]) { run1 with closed := [(0, 0)] } .running, 24, 31, 0, 0, { run1 with closed := [(0, 0)] }, (⟨1, 24, 31, 0, 0, 1, 0⟩, 0), by decide +kernel, by decide +kernel, by decide +kernel⟩,
   ⟨live (image 1 [(0x10, 0, [2 ^ 62 + 24 * 2 ^ 57 + 31 * 2 ^ 52 + 2 ^ 10, 0])]) { run1 with rxSeen := [(rxKey 24 31 0 0, 1)] } .running, 24, 31, 0, 0, { run1 with rxSeen := [(rxKey 24 31 0 0, 1)] }, (⟨1, 24, 31, 0, 0, 1, 0⟩, 0), by decide +kernel, by decide +kernel, by decide +kernel⟩⟩

/-- States and operands that meet the hypotheses of each clause of RouterServesHeads. -/
theorem test_RouterServesHeads :
    (∃ (s : State) (port : Nat) (vc : Nat) (cls : Nat) (h : Head), (headAt s port vc cls = some h) ∧ (s.router.state = .serving) ∧ (h.waited = false) ∧ (h.pkt.dst = ownChip s) ∧ (unassigned s = false) ∧ (h.pkt.whole = true) ∧ (h.pkt.wellFormed = true))
    ∧ (∃ (s : State) (port : Nat) (vc : Nat) (cls : Nat) (h : Head), (headAt s port vc cls = some h) ∧ (s.router.state = .serving) ∧ (h.waited = false) ∧ (h.pkt.dst ≠ ownChip s) ∧ (atSource s h.pkt = false) ∧ (unassigned s = false) ∧ (h.pkt.hops = rget s Reg.maxHops) ∧ (h.pkt.whole = true))
    ∧ (∃ (s : State) (port : Nat) (vc : Nat) (cls : Nat) (h : Head) (c : Nat), (headAt s port vc cls = some h) ∧ (s.router.state = .serving) ∧ (h.waited = true) ∧ (h.pkt.dst ≠ ownChip s) ∧ (unassigned s = false) ∧ (atSource s h.pkt = true ∨ h.pkt.hops ≠ rget s Reg.maxHops) ∧ (routeOf s h.pkt = .take c) ∧ (physEyelet s (chEyelet c) / 8 = portSlice h.port))
    ∧ (∃ (s : State) (port : Nat) (vc : Nat) (cls : Nat) (h : Head) (c : Nat), (headAt s port vc cls = some h) ∧ (s.router.state = .serving) ∧ (h.waited = true) ∧ (h.pkt.dst ≠ ownChip s) ∧ (unassigned s = false) ∧ (atSource s h.pkt = true ∨ h.pkt.hops ≠ rget s Reg.maxHops) ∧ (routeOf s h.pkt = .take c) ∧ (physEyelet s (chEyelet c) / 8 ≠ portSlice h.port))
    ∧ (∃ (s : State) (port : Nat) (vc : Nat) (cls : Nat) (h : Head) (c : Nat), (headAt s port vc cls = some h) ∧ (s.router.state = .serving) ∧ (h.waited = false) ∧ (h.pkt.dst ≠ ownChip s) ∧ (unassigned s = false) ∧ (atSource s h.pkt = true ∨ h.pkt.hops ≠ rget s Reg.maxHops) ∧ (routeOf s h.pkt = .take c) ∧ (physEyelet s (chEyelet c) / 8 = portSlice h.port))
    ∧ (∃ (s : State) (port : Nat) (vc : Nat) (cls : Nat) (h : Head) (c : Nat), (headAt s port vc cls = some h) ∧ (s.router.state = .serving) ∧ (h.waited = false) ∧ (h.pkt.dst ≠ ownChip s) ∧ (unassigned s = false) ∧ (atSource s h.pkt = true ∨ h.pkt.hops ≠ rget s Reg.maxHops) ∧ (routeOf s h.pkt = .take c) ∧ (physEyelet s (chEyelet c) / 8 ≠ portSlice h.port))
    ∧ (∃ (s : State) (port : Nat) (vc : Nat) (cls : Nat) (h : Head), (headAt s port vc cls = some h) ∧ (s.router.state = .serving) ∧ (h.waited = false) ∧ (h.pkt.dst ≠ ownChip s) ∧ (unassigned s = false) ∧ (atSource s h.pkt = true ∨ h.pkt.hops ≠ rget s Reg.maxHops) ∧ (routeOf s h.pkt = .wait))
    ∧ (∃ (s : State) (port : Nat) (vc : Nat) (cls : Nat) (h : Head), (headAt s port vc cls = some h) ∧ (s.router.state ≠ .serving))
    ∧ (∃ (s : State) (u : State) (port : Nat) (vc : Nat) (cls : Nat) (h : Head) (e : Nat) (k : Nat) (ch : Chosen), (headAt s port vc cls = some h) ∧ (s.router.state = .serving) ∧ (laneStatus s e k = .inService) ∧ ((lane s e k).fitDue = false ∨ lastRunning s = true) ∧ (tget 0 s.router.used (bufKey e k vc cls) = 0) ∧ (tget? s.router.granted (bufKey e k vc cls) = none) ∧ (s.router.chosen.find? (fun c => c.eyelet == e && c.lane == k && c.head.pkt.vc == vc && hdrClass c.hdr == cls) = some ch) ∧ (u = { s with router := { s.router with chosen := s.router.chosen.erase ch, granted := tput s.router.granted (bufKey e k vc cls) { head := ch.head, hdr := ch.hdr } } }) ∧ (atSource s ch.head.pkt = true))
    ∧ (∃ (s : State) (u : State) (port : Nat) (vc : Nat) (cls : Nat) (h : Head) (e : Nat) (k : Nat) (ch : Chosen), (headAt s port vc cls = some h) ∧ (s.router.state = .serving) ∧ (laneStatus s e k = .inService) ∧ ((lane s e k).fitDue = false ∨ lastRunning s = true) ∧ (tget 0 s.router.used (bufKey e k vc cls) = 0) ∧ (tget? s.router.granted (bufKey e k vc cls) = none) ∧ (s.router.chosen.find? (fun c => c.eyelet == e && c.lane == k && c.head.pkt.vc == vc && hdrClass c.hdr == cls) = some ch) ∧ (u = { s with router := { s.router with chosen := s.router.chosen.erase ch, granted := tput s.router.granted (bufKey e k vc cls) { head := ch.head, hdr := ch.hdr } } }) ∧ (atSource s ch.head.pkt = false)) :=
  ⟨⟨{ rdy with router := { waiting := [{ port := 3, pkt := { hdr := [word (5 * 2 ^ 52 + 6 * 2 ^ 40 + 0 * 2 ^ 38 + 1 * 2 ^ 20 + 0 * 2 ^ 31), word (0), word (0), word (1), word (0), 0, 0, 0], payload := [] }, waited := false }] } }, 3, 0, 0, { port := 3, pkt := { hdr := [word (5 * 2 ^ 52 + 6 * 2 ^ 40 + 0 * 2 ^ 38 + 1 * 2 ^ 20 + 0 * 2 ^ 31), word (0), word (0), word (1), word (0), 0, 0, 0], payload := [] }, waited := false }, by decide +kernel, by decide +kernel, by decide +kernel, (by decide +kernel), by decide +kernel, by decide +kernel, by decide +kernel⟩,
   ⟨rset { rdy with router := { waiting := [{ port := 3, pkt := { hdr := [word (7 * 2 ^ 52 + 6 * 2 ^ 40 + 0 * 2 ^ 38 + 1 * 2 ^ 20 + 0 * 2 ^ 31), word (0), word (0), word (1), word (0), 0, 0, 0], payload := [] }, waited := false }] } } Reg.maxHops 0, 3, 0, 0, { port := 3, pkt := { hdr := [word (7 * 2 ^ 52 + 6 * 2 ^ 40 + 0 * 2 ^ 38 + 1 * 2 ^ 20 + 0 * 2 ^ 31), word (0), word (0), word (1), word (0), 0, 0, 0], payload := [] }, waited := false }, by decide +kernel, by decide +kernel, by decide +kernel, (by decide +kernel), by decide +kernel, by decide +kernel, by decide +kernel, by decide +kernel⟩,
   ⟨{ rdy with router := { active := [(7, word (2 ^ 63 + 16))], waiting := [{ port := 1, pkt := { hdr := [word (7 * 2 ^ 52 + 6 * 2 ^ 40 + 0 * 2 ^ 38 + 1 * 2 ^ 20 + 1 * 2 ^ 31), word (0), word (0), word (1), word (0), 0, 0, 0], payload := [] }, waited := true }] }, lanes := [(lk 0 1, { train := .serve }), (lk 0 31, { train := .serve })] }, 1, 0, 0, { port := 1, pkt := { hdr := [word (7 * 2 ^ 52 + 6 * 2 ^ 40 + 0 * 2 ^ 38 + 1 * 2 ^ 20 + 1 * 2 ^ 31), word (0), word (0), word (1), word (0), 0, 0, 0], payload := [] }, waited := true }, 16, by decide +kernel, by decide +kernel, by decide +kernel, (by decide +kernel), by decide +kernel, Or.inr (by decide +kernel), by decide +kernel, by decide +kernel⟩,
   ⟨{ rdy with router := { active := [(7, word (2 ^ 63 + 16))], waiting := [{ port := 257, pkt := { hdr := [word (7 * 2 ^ 52 + 6 * 2 ^ 40 + 0 * 2 ^ 38 + 1 * 2 ^ 20 + 1 * 2 ^ 31), word (0), word (0), word (1), word (0), 0, 0, 0], payload := [] }, waited := true }] }, lanes := [(lk 0 1, { train := .serve }), (lk 0 31, { train := .serve })] }, 257, 0, 0, { port := 257, pkt := { hdr := [word (7 * 2 ^ 52 + 6 * 2 ^ 40 + 0 * 2 ^ 38 + 1 * 2 ^ 20 + 1 * 2 ^ 31), word (0), word (0), word (1), word (0), 0, 0, 0], payload := [] }, waited := true }, 16, by decide +kernel, by decide +kernel, by decide +kernel, (by decide +kernel), by decide +kernel, Or.inr (by decide +kernel), by decide +kernel, by decide +kernel⟩,
   ⟨{ rdy with router := { active := [(7, word (2 ^ 63 + 16))], waiting := [{ port := 1, pkt := { hdr := [word (7 * 2 ^ 52 + 6 * 2 ^ 40 + 0 * 2 ^ 38 + 1 * 2 ^ 20 + 1 * 2 ^ 31), word (0), word (0), word (1), word (0), 0, 0, 0], payload := [] }, waited := false }] }, lanes := [(lk 0 1, { train := .serve }), (lk 0 31, { train := .serve })] }, 1, 0, 0, { port := 1, pkt := { hdr := [word (7 * 2 ^ 52 + 6 * 2 ^ 40 + 0 * 2 ^ 38 + 1 * 2 ^ 20 + 1 * 2 ^ 31), word (0), word (0), word (1), word (0), 0, 0, 0], payload := [] }, waited := false }, 16, by decide +kernel, by decide +kernel, by decide +kernel, (by decide +kernel), by decide +kernel, Or.inr (by decide +kernel), by decide +kernel, by decide +kernel⟩,
   ⟨{ rdy with router := { active := [(7, word (2 ^ 63 + 16))], waiting := [{ port := 257, pkt := { hdr := [word (7 * 2 ^ 52 + 6 * 2 ^ 40 + 0 * 2 ^ 38 + 1 * 2 ^ 20 + 1 * 2 ^ 31), word (0), word (0), word (1), word (0), 0, 0, 0], payload := [] }, waited := false }] }, lanes := [(lk 0 1, { train := .serve }), (lk 0 31, { train := .serve })] }, 257, 0, 0, { port := 257, pkt := { hdr := [word (7 * 2 ^ 52 + 6 * 2 ^ 40 + 0 * 2 ^ 38 + 1 * 2 ^ 20 + 1 * 2 ^ 31), word (0), word (0), word (1), word (0), 0, 0, 0], payload := [] }, waited := false }, 16, by decide +kernel, by decide +kernel, by decide +kernel, (by decide +kernel), by decide +kernel, Or.inr (by decide +kernel), by decide +kernel, by decide +kernel⟩,
   ⟨{ rdy with router := { active := [(7, word (2 ^ 63 + 16))], waiting := [{ port := 1, pkt := { hdr := [word (7 * 2 ^ 52 + 6 * 2 ^ 40 + 0 * 2 ^ 38 + 1 * 2 ^ 20 + 1 * 2 ^ 31), word (0), word (0), word (1), word (0), 0, 0, 0], payload := [] }, waited := false }] }, lanes := [(lk 0 1, { train := .serve, paused := true }), (lk 0 31, { train := .serve })] }, 1, 0, 0, { port := 1, pkt := { hdr := [word (7 * 2 ^ 52 + 6 * 2 ^ 40 + 0 * 2 ^ 38 + 1 * 2 ^ 20 + 1 * 2 ^ 31), word (0), word (0), word (1), word (0), 0, 0, 0], payload := [] }, waited := false }, by decide +kernel, by decide +kernel, by decide +kernel, (by decide +kernel), by decide +kernel, Or.inr (by decide +kernel), by decide +kernel⟩,
   ⟨{ rdy with router := { state := .held, waiting := [{ port := 0, pkt := { hdr := [word (7 * 2 ^ 52 + 6 * 2 ^ 40 + 0 * 2 ^ 38 + 1 * 2 ^ 20 + 0 * 2 ^ 31), word (0), word (0), word (1), word (0), 0, 0, 0], payload := [] }, waited := false }] } }, 0, 0, 0, { port := 0, pkt := { hdr := [word (7 * 2 ^ 52 + 6 * 2 ^ 40 + 0 * 2 ^ 38 + 1 * 2 ^ 20 + 0 * 2 ^ 31), word (0), word (0), word (1), word (0), 0, 0, 0], payload := [] }, waited := false }, by decide +kernel, by decide +kernel⟩,
   ⟨{ rdy with router := { chosen := [⟨0, 1, [], { port := 0, pkt := { hdr := [word (7 * 2 ^ 52 + 5 * 2 ^ 40 + 0 * 2 ^ 38 + 1 * 2 ^ 20 + 0 * 2 ^ 31), word (0), word (0), word (1), word (0), 0, 0, 0], payload := [] }, waited := false }⟩], waiting := [{ port := 0, pkt := { hdr := [word (7 * 2 ^ 52 + 5 * 2 ^ 40 + 0 * 2 ^ 38 + 1 * 2 ^ 20 + 0 * 2 ^ 31), word (0), word (0), word (1), word (0), 0, 0, 0], payload := [] }, waited := false }] }, lanes := [(lk 0 1, { train := .serve }), (lk 0 31, { train := .serve })] }, _, 0, 0, 0, { port := 0, pkt := { hdr := [word (7 * 2 ^ 52 + 5 * 2 ^ 40 + 0 * 2 ^ 38 + 1 * 2 ^ 20 + 0 * 2 ^ 31), word (0), word (0), word (1), word (0), 0, 0, 0], payload := [] }, waited := false }, 0, 1, ⟨0, 1, [], { port := 0, pkt := { hdr := [word (7 * 2 ^ 52 + 5 * 2 ^ 40 + 0 * 2 ^ 38 + 1 * 2 ^ 20 + 0 * 2 ^ 31), word (0), word (0), word (1), word (0), 0, 0, 0], payload := [] }, waited := false }⟩, by decide +kernel, by decide +kernel, by decide +kernel, Or.inl (by decide +kernel), by decide +kernel, by decide +kernel, by decide +kernel, rfl, by decide +kernel⟩,
   ⟨{ rdy with router := { chosen := [⟨0, 1, [], { port := 0, pkt := { hdr := [word (7 * 2 ^ 52 + 6 * 2 ^ 40 + 0 * 2 ^ 38 + 1 * 2 ^ 20 + 0 * 2 ^ 31), word (0), word (0), word (1), word (0), 0, 0, 0], payload := [] }, waited := false }⟩], waiting := [{ port := 0, pkt := { hdr := [word (7 * 2 ^ 52 + 6 * 2 ^ 40 + 0 * 2 ^ 38 + 1 * 2 ^ 20 + 0 * 2 ^ 31), word (0), word (0), word (1), word (0), 0, 0, 0], payload := [] }, waited := false }] }, lanes := [(lk 0 1, { train := .serve }), (lk 0 31, { train := .serve })] }, _, 0, 0, 0, { port := 0, pkt := { hdr := [word (7 * 2 ^ 52 + 6 * 2 ^ 40 + 0 * 2 ^ 38 + 1 * 2 ^ 20 + 0 * 2 ^ 31), word (0), word (0), word (1), word (0), 0, 0, 0], payload := [] }, waited := false }, 0, 1, ⟨0, 1, [], { port := 0, pkt := { hdr := [word (7 * 2 ^ 52 + 6 * 2 ^ 40 + 0 * 2 ^ 38 + 1 * 2 ^ 20 + 0 * 2 ^ 31), word (0), word (0), word (1), word (0), 0, 0, 0], payload := [] }, waited := false }⟩, by decide +kernel, by decide +kernel, by decide +kernel, Or.inl (by decide +kernel), by decide +kernel, by decide +kernel, by decide +kernel, rfl, by decide +kernel⟩⟩

/-- States and operands that meet the hypotheses of each clause of RouteTablesAndSwaps. -/
theorem test_RouteTablesAndSwaps :
    (∃ (s : State) (via : Via) (bs : List Byte), (Writable s via 0x2300 4) ∧ (bs.length = 32768) ∧ (s.router.state = .serving))
    ∧ (∃ (s : State) (via : Via), (Writable s via 0x2300 8) ∧ (s.router.state = .serving))
    ∧ (∃ (s : State) (via : Via), (Writable s via 0x2300 6) ∧ (s.router.state = .serving))
    ∧ (∃ (s : State) (via : Via) (bs : List Byte), (Writable s via 0x2300 4) ∧ (bs.length = 32768) ∧ (s.router.state ≠ .serving))
    ∧ (∃ (s : State) (via : Via), (Writable s via 0x2300 8) ∧ (s.router.state ≠ .serving))
    ∧ (∃ (s : State) (via : Via), (Writable s via 0x2300 6) ∧ (s.router.state ≠ .serving))
    ∧ (∃ (s : State) (via : Via), (Writable s via 0x2300 0xA) ∧ (s.router.state = .held))
    ∧ (∃ (s : State) (via : Via), (Writable s via 0x2300 9) ∧ (s.router.state = .serving) ∧ (newer 16 (rget s Reg.shadowGeneration) (rget s Reg.activeGeneration) = true) ∧ (s.router.shadow.find? (fun e => entryFaulty e.1 e.2) = none))
    ∧ (∃ (s : State) (via : Via), (Writable s via 0x2300 9) ∧ (s.router.state = .serving) ∧ (newer 16 (rget s Reg.shadowGeneration) (rget s Reg.activeGeneration) = false))
    ∧ (∃ (s : State), (s.router.state = .holding) ∧ (drained s = true))
    ∧ (∃ (s : State), (s.router.state = .holding) ∧ (drained s = false))
    ∧ (∃ (s : State), (s.router.state = .holding))
    ∧ (∃ (s : State), (s.router.state = .held)) :=
  ⟨⟨rdy, m0, zeros 32768, ⟨by decide +kernel, by decide +kernel, by decide +kernel⟩, List.length_replicate .., by decide +kernel⟩,
   ⟨rdy, m0, ⟨by decide +kernel, by decide +kernel, by decide +kernel⟩, by decide +kernel⟩,
   ⟨rdy, m0, ⟨by decide +kernel, by decide +kernel, by decide +kernel⟩, by decide +kernel⟩,
   ⟨{ rdy with router := { state := .held } }, m0, zeros 32768, ⟨by decide +kernel, by decide +kernel, by decide +kernel⟩, List.length_replicate .., by decide +kernel⟩,
   ⟨{ rdy with router := { state := .holding } }, m0, ⟨by decide +kernel, by decide +kernel, by decide +kernel⟩, by decide +kernel⟩,
   ⟨{ rdy with router := { state := .holding } }, m0, ⟨by decide +kernel, by decide +kernel, by decide +kernel⟩, by decide +kernel⟩,
   ⟨{ rdy with router := { state := .held } }, m0, ⟨by decide +kernel, by decide +kernel, by decide +kernel⟩, by decide +kernel⟩,
   ⟨rset rdy Reg.shadowGeneration 32767, m0, ⟨by decide +kernel, by decide +kernel, by decide +kernel⟩, by decide +kernel, by decide +kernel, by decide +kernel⟩,
   ⟨rset rdy Reg.shadowGeneration 32768, m0, ⟨by decide +kernel, by decide +kernel, by decide +kernel⟩, by decide +kernel, by decide +kernel⟩,
   ⟨{ rdy with router := { state := .holding } }, by decide +kernel, by decide +kernel⟩,
   ⟨{ rdy with router := { state := .holding, granted := [(0, { head := { port := 0, pkt := { hdr := [], payload := [] } }, hdr := [] })] } }, by decide +kernel, by decide +kernel⟩,
   ⟨{ rdy with router := { state := .holding } }, by decide +kernel⟩,
   ⟨{ rdy with router := { state := .held } }, by decide +kernel⟩⟩

/-- States and operands that meet the hypotheses of each clause of LaserInputsAndSelectors. -/
theorem test_LaserInputsAndSelectors :
    (∃ (s : State) (die : Nat) (a : Int) (b : Int) (x : EyeDie), (x = eyeDie s die) ∧ (rgetI s Reg.laserLowCdbm ≤ a) ∧ (rgetI s Reg.laserLowCdbm ≤ b) ∧ (x.forced = none))
    ∧ (∃ (s : State) (die : Nat) (x : EyeDie), (x = eyeDie s die) ∧ (x.belowA < 10))
    ∧ (∃ (s : State) (die : Nat) (x : EyeDie), (x = eyeDie s die) ∧ (10 ≤ x.belowB) ∧ (x.classB ≠ .lost) ∧ (x.sel = .onA) ∧ (x.classA = .ok) ∧ ((eyeDie (setEye s die (fun y => { y with classB := .lost })) die) = { x with classB := .lost }))
    ∧ (∃ (s : State) (die : Nat) (x : EyeDie), (x = eyeDie s die) ∧ (10 ≤ x.belowA) ∧ (x.classA ≠ .lost) ∧ (x.sel = .onA))
    ∧ (∃ (s : State) (die : Nat) (x : EyeDie), (x = eyeDie s die) ∧ (10 ≤ x.belowB) ∧ (x.classB ≠ .lost) ∧ (x.sel = .onB))
    ∧ (∃ (s : State) (die : Nat) (x : EyeDie), (x = eyeDie s die) ∧ (x.sel = .onA) ∧ (x.classA = .lost) ∧ (x.classB ≠ .lost))
    ∧ (∃ (s : State) (die : Nat) (x : EyeDie), (x = eyeDie s die) ∧ (x.sel = .onB) ∧ (x.classB = .lost) ∧ (x.classA ≠ .lost))
    ∧ (∃ (s : State) (die : Nat) (x : EyeDie), (x = eyeDie s die) ∧ (x.sel = .onA ∨ x.sel = .onB) ∧ (x.classA = .lost) ∧ (x.classB = .lost))
    ∧ (∃ (s : State) (die : Nat) (x : EyeDie), (x = eyeDie s die) ∧ (x.sel = .toB) ∧ (injectionOn s 3 die = false))
    ∧ (∃ (s : State) (die : Nat) (x : EyeDie), (x = eyeDie s die) ∧ (x.sel = .dark) ∧ (x.classA ≠ .lost))
    ∧ (∃ (s : State) (die : Nat) (x : EyeDie), (x = eyeDie s die) ∧ (x.sel = .dark) ∧ (x.classA = .lost) ∧ (x.classB ≠ .lost))
    ∧ (∃ (s : State) (die : Nat) (x : EyeDie), (x = eyeDie s die) ∧ (rget s Reg.laserRevert = 1) ∧ (x.sel = .onB) ∧ (x.classA = .ok) ∧ (lastRunning s = false))
    ∧ (∃ (s : State) (via : Via) (die : Nat) (x : EyeDie), (x = eyeDie s die) ∧ (Writable s via (0x2010 + die) 2) ∧ (x.classB ≠ .lost) ∧ (lastRunning s = false))
    ∧ (∃ (s : State) (die : Nat) (x : EyeDie), (x = eyeDie s die) ∧ (x.sel = .onA))
    ∧ (∃ (s : State) (die : Nat) (x : EyeDie), (x = eyeDie s die) ∧ (x.sel = .onB)) :=
  ⟨⟨{ rdy with optics := { dies := [(7, {  })] } }, 7, rgetI rdy Reg.laserLowCdbm, rgetI rdy Reg.laserLowCdbm, {  }, by decide +kernel, by decide +kernel, by decide +kernel, (by decide +kernel)⟩,
   ⟨{ rdy with optics := { dies := [(7, { belowA := 9 })] } }, 7, { belowA := 9 }, by decide +kernel, by decide +kernel⟩,
   ⟨{ rdy with optics := { dies := [(7, { belowB := 10 })] } }, 7, { belowB := 10 }, by decide +kernel, by decide +kernel, by decide +kernel, (by decide +kernel), by decide +kernel, by decide +kernel⟩,
   ⟨{ rdy with optics := { dies := [(7, { belowA := 10 })] } }, 7, { belowA := 10 }, by decide +kernel, by decide +kernel, by decide +kernel, (by decide +kernel)⟩,
   ⟨{ rdy with optics := { dies := [(7, { belowB := 10, sel := .onB })] } }, 7, { belowB := 10, sel := .onB }, by decide +kernel, by decide +kernel, by decide +kernel, (by decide +kernel)⟩,
   ⟨{ rdy with optics := { dies := [(7, { classA := .lost })] } }, 7, { classA := .lost }, by decide +kernel, by decide +kernel, by decide +kernel, (by decide +kernel)⟩,
   ⟨{ rdy with optics := { dies := [(7, { sel := .onB, classB := .lost })] } }, 7, { sel := .onB, classB := .lost }, by decide +kernel, by decide +kernel, by decide +kernel, (by decide +kernel)⟩,
   ⟨{ rdy with optics := { dies := [(7, { classA := .lost, classB := .lost })] } }, 7, { classA := .lost, classB := .lost }, by decide +kernel, Or.inl (by decide +kernel), by decide +kernel, by decide +kernel⟩,
   ⟨{ rdy with optics := { dies := [(7, { sel := .toB })] } }, 7, { sel := .toB }, by decide +kernel, by decide +kernel, by decide +kernel⟩,
   ⟨{ rdy with optics := { dies := [(7, { sel := .dark })] } }, 7, { sel := .dark }, by decide +kernel, by decide +kernel, by decide +kernel⟩,
   ⟨{ rdy with optics := { dies := [(7, { sel := .dark, classA := .lost })] } }, 7, { sel := .dark, classA := .lost }, by decide +kernel, by decide +kernel, by decide +kernel, (by decide +kernel)⟩,
   ⟨rset { rdy with optics := { dies := [(7, { sel := .onB })] } } Reg.laserRevert 1, 7, { sel := .onB }, by decide +kernel, by decide +kernel, by decide +kernel, (by decide +kernel), by decide +kernel⟩,
   ⟨{ rdy with optics := { dies := [(7, {  })] } }, m0, 7, {  }, by decide +kernel, ⟨by decide +kernel, by decide +kernel, by decide +kernel⟩, by decide +kernel, by decide +kernel⟩,
   ⟨{ rdy with optics := { dies := [(7, {  })] } }, 7, {  }, by decide +kernel, by decide +kernel⟩,
   ⟨{ rdy with optics := { dies := [(7, { sel := .onB })] } }, 7, { sel := .onB }, by decide +kernel, by decide +kernel⟩⟩

/-- States and operands that meet the hypotheses of each clause of FittingPassesAndSearches. -/
theorem test_FittingPassesAndSearches :
    (∃ (s : State) (e : Nat) (k : Nat) (i : Nat), (s.last.run = none) ∧ (s.optics.fits.any (fun f => f.1 / 128 == e / 4) = false) ∧ (nextFit s (e / 4) = some i) ∧ (roundLane (e / 4) i = (e, k)) ∧ ((eyeDie s (e / 4)).sel = .onA) ∧ (∀ b ∈ laneBuffers e k, tget? s.router.granted b = none) ∧ (laneState s e k ≠ .paused))
    ∧ (∃ (s : State) (e : Nat) (k : Nat) (i : Nat), (s.last.run = none) ∧ (s.optics.fits.any (fun f => f.1 / 128 == e / 4) = false) ∧ (nextFit s (e / 4) = some i) ∧ (roundLane (e / 4) i = (e, k)) ∧ ((eyeDie s (e / 4)).sel = .onA) ∧ ((laneBuffers e k).any (fun b => (tget? s.router.granted b).isSome) = true))
    ∧ (∃ (s : State) (e : Nat) (k : Nat) (i : Nat), (s.last.run = none) ∧ (s.optics.fits.any (fun f => f.1 / 128 == e / 4) = false) ∧ (nextFit s (e / 4) = some i) ∧ (roundLane (e / 4) i = (e, k)) ∧ ((eyeDie s (e / 4)).sel ≠ .onA) ∧ ((eyeDie s (e / 4)).sel ≠ .onB))
    ∧ (∃ (s : State) (e : Nat) (k : Nat) (r : Run), (s.last.run = some r) ∧ (lastRunning s = true) ∧ (windowOpens s r e k = true) ∧ ((eyeDie s (e / 4)).sel = .onA) ∧ (∀ b ∈ laneBuffers e k, tget? s.router.granted b = none) ∧ (s.optics.fits.any (fun f => f.1 / 128 == e / 4) = false) ∧ (laneState s e k = .inService))
    ∧ (∃ (s : State) (e : Nat), (s.last.run = none) ∧ (s.optics.fits.any (fun f => f.1 / 128 == e / 4) = true))
    ∧ (∃ (s : State) (e : Nat) (k : Nat) (p : FitPass), (tget? s.optics.fits (laneKey e k) = some p) ∧ (p.solved = false))
    ∧ (∃ (s : State) (e : Nat) (k : Nat) (m : Nat) (f : Nat) (mod : RingSweep) (flt : RingSweep) (p : FitPass) (ts : Int), (tget? s.optics.fits (laneKey e k) = some p) ∧ (p.solved = false) ∧ (foundCode (rget s Reg.fitSpanCodes) p.modP mod.readings = some m) ∧ (foundCode (rget s Reg.fitSpanCodes) p.fltP flt.readings = some f) ∧ (mod.readings ≠ []) ∧ (flt.readings ≠ []) ∧ (ts = fround (frac (Config.ringTempMc (modRing e k) m + Config.ringTempMc (fltRing e k) f) 2)))
    ∧ (∃ (s : State) (e : Nat) (k : Nat) (p : FitPass), (tget? s.optics.fits (laneKey e k) = some p) ∧ (p.solved = true) ∧ (p.checked = false))
    ∧ (∃ (s : State) (e : Nat) (k : Nat) (p : FitPass), (tget? s.optics.fits (laneKey e k) = some p) ∧ (p.checked = true) ∧ (fitResult p = 1))
    ∧ (∃ (s : State) (e : Nat) (k : Nat) (age : Nat), (rget s Reg.fitStaleMs < age) ∧ (tget? s.optics.stale (laneKey e k) = none))
    ∧ (∃ (s : State) (age : Nat), (age ≤ rget s Reg.fitStaleMs))
    ∧ (∃ (s : State) (via : Via) (e : Nat), (Writable s via (0x2210 + e) 5) ∧ (lastRunning s = false))
    ∧ (∃ (s : State) (via : Via) (e : Nat), (Writable s via (0x2210 + e) 5) ∧ (lastRunning s = true))
    ∧ (∃ (s : State) (e : Nat), (tget? s.optics.searching e = some 1) ∧ (s.reset'.boot = .ready) ∧ (s.reset'.held = false))
    ∧ (∃ (s : State) (e : Nat), (tget? s.optics.searching e = none)) :=
  ⟨⟨{ rdy with lanes := [(lk 28 0, { train := .serve })] }, 28, 0, 0, by decide +kernel, by decide +kernel, by decide +kernel, (by decide +kernel), by decide +kernel, by decide +kernel, by decide +kernel⟩,
   ⟨{ rdy with lanes := [(lk 28 0, { train := .serve })], router := { granted := [(8 * lk 28 0, { head := { port := 0, pkt := { hdr := [word (7 * 2 ^ 52 + 6 * 2 ^ 40 + 0 * 2 ^ 38 + 1 * 2 ^ 20 + 0 * 2 ^ 31), word (0), word (0), word (1), word (0), 0, 0, 0], payload := [] }, waited := false }, hdr := [] })] } }, 28, 0, 0, by decide +kernel, by decide +kernel, by decide +kernel, (by decide +kernel), by decide +kernel, by decide +kernel⟩,
   ⟨{ rdy with lanes := [(lk 28 0, { train := .serve })], optics := { dies := [(7, { sel := .toA })] } }, 28, 0, 0, by decide +kernel, by decide +kernel, by decide +kernel, (by decide +kernel), by decide +kernel, by decide +kernel⟩,
   ⟨{ live (image 1 [(0x13, 0, [28 * 2 ^ 59])]) run1 .running with lanes := [(lk 28 0, { train := .serve })] }, 28, 0, run1, by decide +kernel, by decide +kernel, by decide +kernel, (by decide +kernel), by decide +kernel, by decide +kernel, by decide +kernel⟩,
   ⟨{ rdy with optics := { fits := [(lk 28 0, {})] } }, 31, by decide +kernel, by decide +kernel⟩,
   ⟨{ rdy with optics := { fits := [(lk 31 31, {})] } }, 31, 31, {}, by decide +kernel, by decide +kernel⟩,
   ⟨{ rdy with optics := { fits := [(lk 31 31, { modP := 2000, fltP := 2000 })] } }, 31, 31, 2000, 2000, ⟨List.replicate 32 1 ++ [100] ++ List.replicate 31 1⟩, ⟨List.replicate 32 1 ++ [100] ++ List.replicate 31 1⟩, { modP := 2000, fltP := 2000 }, _, by decide +kernel, by decide +kernel, by decide +kernel, (by decide +kernel), by decide +kernel, by decide +kernel, rfl⟩,
   ⟨{ rdy with optics := { fits := [(lk 31 31, { solved := true, modCode := some 0, fltCode := some 0, checkOk := true })] } }, 31, 31, { solved := true, modCode := some 0, fltCode := some 0, checkOk := true }, by decide +kernel, by decide +kernel, by decide +kernel⟩,
   ⟨{ rdy with optics := { fits := [(lk 31 31, { solved := true, modCode := some 0, fltCode := some 0, checkOk := true, checked := true })] } }, 31, 31, { solved := true, modCode := some 0, fltCode := some 0, checkOk := true, checked := true }, by decide +kernel, by decide +kernel, by decide +kernel⟩,
   ⟨rdy, 31, 31, rget rdy Reg.fitStaleMs + 1, by decide +kernel, by decide +kernel⟩,
   ⟨rdy, rget rdy Reg.fitStaleMs, by decide +kernel⟩,
   ⟨rdy, m0, 31, ⟨by decide +kernel, by decide +kernel, by decide +kernel⟩, by decide +kernel⟩,
   ⟨live [] run1 .running, m0, 31, ⟨by decide +kernel, by decide +kernel, by decide +kernel⟩, by decide +kernel⟩,
   ⟨{ rdy with optics := { searching := [(31, 1)] } }, 31, by decide +kernel, by decide +kernel, by decide +kernel⟩,
   ⟨rdy, 31, by decide +kernel⟩⟩

/-- States and operands that meet the hypotheses of each clause of LaneTrainingAdvances. -/
theorem test_LaneTrainingAdvances :
    (∃ (s : State) (e : Nat) (k : Nat) (l : Lane), (l = lane s e k) ∧ (l.train = .off) ∧ (mayTrain s e k = true))
    ∧ (∃ (s : State) (e : Nat) (k : Nat) (cdbm : Int) (l : Lane), (l = lane s e k) ∧ (l.train = .signal) ∧ (-1600 ≤ cdbm))
    ∧ (∃ (s : State) (e : Nat) (k : Nat) (clean : List Bool) (l : Lane), (l = lane s e k) ∧ (l.train = .phase) ∧ (rget s Reg.minEyeSteps ≤ (eye clean).2) ∧ (0 < (eye clean).2))
    ∧ (∃ (s : State) (e : Nat) (k : Nat) (clean : List Bool) (l : Lane), (l = lane s e k) ∧ (l.train = .phase) ∧ ((eye clean).2 < rget s Reg.minEyeSteps))
    ∧ (∃ (s : State) (e : Nat) (k : Nat) (l : Lane), (l = lane s e k) ∧ (l.train = .align))
    ∧ (∃ (s : State) (e : Nat) (k : Nat) (l : Lane), (l = lane s e k) ∧ (l.train = .align))
    ∧ (∃ (s : State) (e : Nat) (k : Nat) (l : Lane), (l = lane s e k) ∧ (l.train = .echo))
    ∧ (∃ (s : State) (e : Nat) (k : Nat) (stamp : Nat) (l : Lane), (l = lane s e k) ∧ (l.train = .echo) ∧ (stamp < 64))
    ∧ (∃ (s : State) (e : Nat) (k : Nat) (n : Nat) (l : Lane), (l = lane s e k) ∧ (l.train = .echo) ∧ (l.echoes.length = 64) ∧ (n = leastLatency (twiceMedian (l.echoes.map (·.2)))) ∧ (rget s ((Reg.laneLatencyBeats e).at k) = 0) ∧ (n ≤ 16))
    ∧ (∃ (s : State) (e : Nat) (k : Nat) (l : Lane), (l = lane s e k) ∧ (l.train = .echo))
    ∧ (∃ (s : State) (e : Nat) (k : Nat) (l : Lane), (l = lane s e k) ∧ (l.train = .quarantine))
    ∧ (∃ (s : State) (e : Nat) (k : Nat) (l : Lane), (l = lane s e k) ∧ (l.train = .wait)) :=
  ⟨⟨{ rdy with lanes := [(lk 31 31, { train := .off })] }, 31, 31, { train := .off }, by decide +kernel, by decide +kernel, by decide +kernel⟩,
   ⟨{ rdy with lanes := [(lk 31 31, { train := .signal })] }, 31, 31, -1600, { train := .signal }, by decide +kernel, by decide +kernel, by decide +kernel⟩,
   ⟨{ rdy with lanes := [(lk 31 31, { train := .phase })] }, 31, 31, List.replicate 20 true ++ List.replicate 44 false, { train := .phase }, by decide +kernel, by decide +kernel, by decide +kernel, (by decide +kernel)⟩,
   ⟨{ rdy with lanes := [(lk 31 31, { train := .phase })] }, 31, 31, List.replicate 0 true ++ List.replicate 64 false, { train := .phase }, by decide +kernel, by decide +kernel, by decide +kernel⟩,
   ⟨{ rdy with lanes := [(lk 31 31, { train := .align })] }, 31, 31, { train := .align }, by decide +kernel, by decide +kernel⟩,
   ⟨{ rdy with lanes := [(lk 31 31, { train := .align })] }, 31, 31, { train := .align }, by decide +kernel, by decide +kernel⟩,
   ⟨{ rdy with lanes := [(lk 31 31, { train := .echo })] }, 31, 31, { train := .echo }, by decide +kernel, by decide +kernel⟩,
   ⟨{ rdy with lanes := [(lk 31 31, { train := .echo })] }, 31, 31, 63, { train := .echo }, by decide +kernel, by decide +kernel, by decide +kernel⟩,
   ⟨{ rdy with lanes := [(lk 31 31, { train := .echo, echoes := (List.range 64).map (fun i => (i, 40000)) })] }, 31, 31, 1, { train := .echo, echoes := (List.range 64).map (fun i => (i, 40000)) }, by decide +kernel, by decide +kernel, by decide +kernel, (by decide +kernel), by decide +kernel, by decide +kernel⟩,
   ⟨{ rdy with lanes := [(lk 31 31, { train := .echo })] }, 31, 31, { train := .echo }, by decide +kernel, by decide +kernel⟩,
   ⟨{ rdy with lanes := [(lk 31 31, { train := .quarantine })] }, 31, 31, { train := .quarantine }, by decide +kernel, by decide +kernel⟩,
   ⟨{ rdy with lanes := [(lk 31 31, { train := .wait })] }, 31, 31, { train := .wait }, by decide +kernel, by decide +kernel⟩⟩

/-- States and operands that meet the hypotheses of each clause of BeaconsPausesAndPlans. -/
theorem test_BeaconsPausesAndPlans :
    (∃ (s : State) (e : Nat) (k : Nat) (b : List Word) (l : Lane), (l = lane s e k) ∧ (b.length = 8) ∧ (l.train = .beacon) ∧ ((List.range 8).map (nth b) = b))
    ∧ (∃ (s : State) (e : Nat) (k : Nat) (b : List Word) (l : Lane), (l = lane s e k) ∧ (b.length = 8) ∧ (l.train = .serve) ∧ ((List.range 8).map (nth b) = b) ∧ (b = l.accepted))
    ∧ (∃ (s : State) (e : Nat) (k : Nat) (b : List Word) (l : Lane), (l = lane s e k) ∧ (b.length = 8) ∧ (l.train = .beacon) ∧ (l.cable = cablePass) ∧ (l.readyRecv = true) ∧ ((lane s e (reverseLane e k)).readySent = true) ∧ (bcBuild l.peer = runBuild s))
    ∧ (∃ (s : State) (e : Nat) (k : Nat) (b : List Word) (l : Lane), (l = lane s e k) ∧ (b.length = 8) ∧ (l.train = .beacon) ∧ (l.readyRecv = false))
    ∧ (∃ (s : State) (e : Nat) (k : Nat) (b : List Word) (l : Lane), (l = lane s e k) ∧ (b.length = 8) ∧ (l.train = .serve))
    ∧ (∃ (s : State) (e : Nat) (k : Nat) (b : List Word) (l : Lane), (l = lane s e k) ∧ (b.length = 8))
    ∧ (∃ (s : State) (e : Nat) (k : Nat) (b : List Word) (l : Lane), (l = lane s e k) ∧ (b.length = 8) ∧ (l.rxIgnore = true) ∧ (l.rxNext = none) ∧ (l.txIdle = false))
    ∧ (∃ (s : State) (e : Nat) (k : Nat) (b : List Word) (l : Lane), (l = lane s e k) ∧ (b.length = 8) ∧ (l.rxIgnore = false) ∧ (l.rxNext = none) ∧ (l.txIdle = false))
    ∧ (∃ (s : State) (e : Nat) (k : Nat) (b : List Word) (l : Lane), (l = lane s e k) ∧ (b.length = 8) ∧ ((rxOf s e k).train = .serve) ∧ (rget s Reg.beaconIntervalUs ≠ 0))
    ∧ (∃ (s : State) (via : Via) (e : Nat) (k : Nat) (b : List Word) (l : Lane), (l = lane s e k) ∧ (b.length = 8) ∧ (Writable s via 0x2400 2) ∧ (lastRunning s = false) ∧ (planValidNow s = false) ∧ (planValid s.plan.staged = true))
    ∧ (∃ (s : State) (via : Via) (e : Nat) (k : Nat) (b : List Word) (l : Lane), (l = lane s e k) ∧ (b.length = 8) ∧ (Writable s via 0x2400 2) ∧ (lastRunning s = true)) :=
  ⟨⟨{ rdy with lanes := [(lk 31 31, { train := .beacon })] }, 31, 31, List.replicate 8 0, { train := .beacon }, by decide +kernel, by decide +kernel, by decide +kernel, (by decide +kernel)⟩,
   ⟨{ rdy with lanes := [(lk 31 31, { train := .serve, accepted := List.replicate 8 0 })] }, 31, 31, List.replicate 8 0, { train := .serve, accepted := List.replicate 8 0 }, by decide +kernel, by decide +kernel, by decide +kernel, (by decide +kernel), by decide +kernel⟩,
   ⟨{ { rdy with lanes := [(lk 0 1, { train := .beacon, cable := cablePass, readyRecv := true }), (lk 0 31, { readySent := true })] } with tenancy := { anchors := [[1]], running := some ⟨[], true, 0, 0, []⟩ } }, 0, 1, List.replicate 8 0, { train := .beacon, cable := cablePass, readyRecv := true }, by decide +kernel, by decide +kernel, by decide +kernel, (by decide +kernel), by decide +kernel, by decide +kernel, by decide +kernel⟩,
   ⟨{ rdy with lanes := [(lk 31 31, { train := .beacon })] }, 31, 31, List.replicate 8 0, { train := .beacon }, by decide +kernel, by decide +kernel, by decide +kernel, (by decide +kernel)⟩,
   ⟨{ rdy with lanes := [(lk 31 31, { train := .serve })] }, 31, 31, List.replicate 8 0, { train := .serve }, by decide +kernel, by decide +kernel, by decide +kernel⟩,
   ⟨{ rdy with lanes := [(lk 31 31, { train := .serve })] }, 31, 31, List.replicate 8 0, { train := .serve }, by decide +kernel, by decide +kernel⟩,
   ⟨{ rdy with lanes := [(lk 31 31, { rxIgnore := true })] }, 31, 31, List.replicate 8 0, { rxIgnore := true }, by decide +kernel, by decide +kernel, by decide +kernel, (by decide +kernel), by decide +kernel⟩,
   ⟨{ rdy with lanes := [(lk 31 31, { rxIgnore := false })] }, 31, 31, List.replicate 8 0, { rxIgnore := false }, by decide +kernel, by decide +kernel, by decide +kernel, (by decide +kernel), by decide +kernel⟩,
   ⟨{ rdy with lanes := [(lk 31 31, { train := .serve })] }, 31, 31, List.replicate 8 0, { train := .serve }, by decide +kernel, by decide +kernel, by decide +kernel, (by decide +kernel)⟩,
   ⟨{ rdy with plan := { staged := leBytes 8 (2 ^ 56) ++ zeros 56 ++ List.replicate 64 255 } }, m0, 0, 0, List.replicate 8 0, {}, by decide +kernel, by decide +kernel, ⟨by decide +kernel, by decide +kernel, by decide +kernel⟩, by decide +kernel, by decide +kernel, by decide +kernel⟩,
   ⟨live [] run1 .running, m0, 0, 0, List.replicate 8 0, {}, by decide +kernel, by decide +kernel, ⟨by decide +kernel, by decide +kernel, by decide +kernel⟩, by decide +kernel⟩⟩

/-- States and operands that meet the hypotheses of each clause of LaneBlocksAndMending. -/
theorem test_LaneBlocksAndMending :
    (∃ (s : State) (e : Nat) (k : Nat), ((rxOf s e k).train = .off))
    ∧ (∃ (s : State) (e : Nat) (k : Nat), ((rxOf s e k).train = .signal))
    ∧ (∃ (s : State) (e : Nat) (k : Nat), (outputInvalid s e k = false))
    ∧ (∃ (s : State) (e : Nat) (k : Nat) (block : List Byte), ((lane s e k).train = .echo) ∧ ((lane s e k).injectBlock = false) ∧ (decodeBlock (descramble s e k block).1 = none))
    ∧ (∃ (s : State) (e : Nat) (k : Nat) (w : Nat), ((lane s e k).scrRx = some w) ∧ ((lane s e k).train ≠ .phase) ∧ ((lane s e k).train ≠ .align))
    ∧ (∃ (s : State) (e : Nat) (k : Nat), ((lane s e k).train = .wait))
    ∧ (∃ (s : State) (e : Nat) (k : Nat) (block : List Byte) (data : List Byte) (ctl : Nat) (c : Bool), ((lane s e k).train = .serve) ∧ ((lane s e k).rxSkip = 0) ∧ ((lane s e k).injectBlock = false) ∧ (decodeBlock (descramble s e k block).1 = some (data, ctl, c)) ∧ (ctReserved ctl = false) ∧ ((lane (servedBlock (descramble s e k block).2 e k (some (data, ctl, c)) false) e k).sealTags = []))
    ∧ (∃ (s : State) (e : Nat) (k : Nat) (bsn : Nat) (u : State) (v : State) (ctl : Nat) (c : Bool), (bsn = (lane s e k).rxBsn) ∧ (v = setLane s e k (fun l => nextPosition { l with missing := l.missing.filter (fun m => m.bsn != bsn) })) ∧ ((lane v e k).rxIgnore = false) ∧ (u = (if c then rinc v ((Reg.correctedBlocks e).at k) else v)) ∧ (ctType ctl = 0) ∧ (ctHasData ctl = false))
    ∧ (∃ (s : State) (e : Nat) (k : Nat) (bsn : Nat) (u : State) (v : State) (ctl : Nat) (c : Bool), (bsn = (lane s e k).rxBsn) ∧ (v = setLane s e k (fun l => nextPosition { l with missing := l.missing.filter (fun m => m.bsn != bsn) })) ∧ ((lane v e k).rxIgnore = false) ∧ (u = (if c then rinc v ((Reg.correctedBlocks e).at k) else v)) ∧ (ctType ctl = 1) ∧ (ctHasData ctl = false))
    ∧ (∃ (s : State) (e : Nat) (k : Nat) (bsn : Nat) (u : State) (v : State) (ctl : Nat) (c : Bool), (bsn = (lane s e k).rxBsn) ∧ (v = setLane s e k (fun l => nextPosition { l with missing := l.missing.filter (fun m => m.bsn != bsn) })) ∧ ((lane v e k).rxIgnore = false) ∧ (u = (if c then rinc v ((Reg.correctedBlocks e).at k) else v)) ∧ (ctType ctl = 2) ∧ (ctHasData ctl = false))
    ∧ (∃ (s : State) (e : Nat) (k : Nat) (bsn : Nat) (u : State) (v : State) (ctl : Nat) (c : Bool), (bsn = (lane s e k).rxBsn) ∧ (v = setLane s e k (fun l => nextPosition { l with missing := l.missing.filter (fun m => m.bsn != bsn) })) ∧ ((lane v e k).rxIgnore = false) ∧ (u = (if c then rinc v ((Reg.correctedBlocks e).at k) else v)) ∧ (ctType ctl = 4))
    ∧ (∃ (s : State) (e : Nat) (k : Nat) (bsn : Nat) (u : State) (v : State) (ctl : Nat) (c : Bool), (bsn = (lane s e k).rxBsn) ∧ (v = setLane s e k (fun l => nextPosition { l with missing := l.missing.filter (fun m => m.bsn != bsn) })) ∧ ((lane v e k).rxIgnore = false) ∧ (u = (if c then rinc v ((Reg.correctedBlocks e).at k) else v)) ∧ (ctType ctl = 5))
    ∧ (∃ (s : State) (e : Nat) (k : Nat) (bsn : Nat) (u : State) (v : State) (z : State) (data : List Byte) (ctl : Nat) (c : Bool), (bsn = (lane s e k).rxBsn) ∧ (v = setLane s e k (fun l => nextPosition { l with missing := l.missing.filter (fun m => m.bsn != bsn) })) ∧ ((lane v e k).rxIgnore = false) ∧ (u = (if c then rinc v ((Reg.correctedBlocks e).at k) else v)) ∧ (ctType ctl < 3) ∧ (ctHasData ctl = true) ∧ (z = onControl u e k ctl data) ∧ ((lane z e k).train = .serve) ∧ (schedAtPos z e k (bsn % 4) = none))
    ∧ (∃ (s : State) (e : Nat) (k : Nat) (bsn : Nat) (sb : Nat) (u : State) (v : State) (z : State) (data : List Byte) (ctl : Nat) (c : Bool), (bsn = (lane s e k).rxBsn) ∧ (v = setLane s e k (fun l => nextPosition { l with missing := l.missing.filter (fun m => m.bsn != bsn) })) ∧ ((lane v e k).rxIgnore = false) ∧ (u = (if c then rinc v ((Reg.correctedBlocks e).at k) else v)) ∧ (ctType ctl < 3) ∧ (ctHasData ctl = true) ∧ (z = onControl u e k ctl data) ∧ ((lane z e k).train = .serve) ∧ (schedAtPos z e k (bsn % 4) = some sb))
    ∧ (∃ (s : State) (e : Nat) (k : Nat), ((lane s e (reverseLane e k)).dropAckUntil ≤ beatNow s) ∧ (∀ y ∈ (lane s e (reverseLane e k)).sent, y.ctx = none ∧ y.injected = false))
    ∧ (∃ (s : State) (e : Nat) (k : Nat) (b : Nat) (x : SentBlock), ((lane s e (reverseLane e k)).sent.find? (fun y => y.bsn == b) = some x) ∧ (x.replayed = none))
    ∧ (∃ (s : State) (e : Nat) (k : Nat) (pos : Nat) (b : Nat) (f : Nat), (f = mendLane s e k pos) ∧ (31 < rxAge (lane s f k) b ∨ (lane s f k).missing.find? (fun m => m.bsn == b) = none))
    ∧ (∃ (s : State) (e : Nat) (k : Nat) (pos : Nat) (b : Nat) (m : Missing) (f : Nat), (f = mendLane s e k pos) ∧ (rxAge (lane s f k) b ≤ 31) ∧ ((lane s f k).missing.find? (fun m => m.bsn == b) = some m) ∧ (m.injected = false) ∧ (m.sched = none))
    ∧ (∃ (s : State) (e : Nat) (k : Nat) (x : SentBlock), ((lane s e k).sent.find? (fun x => x.dataFlag && decide (x.replayed.getD x.beat + tripBeats s e k + 2 ≤ beatNow s) && !(lane s e k).replays.any (fun y => y.bsn == x.bsn)) = some x) ∧ (x.injected = false))
    ∧ (∃ (s : State) (e : Nat) (k : Nat), ((lane s e k).sent = []))
    ∧ (∃ (s : State) (e : Nat) (k : Nat) (m : Missing), ((lane s e k).missing.find? (fun m => m.sched.isNone && decide (32 ≤ rxAge (lane s e k) m.bsn)) = some m) ∧ (m.injected = false))
    ∧ (∃ (s : State) (e : Nat) (k : Nat), ((lane s e k).missing = []))
    ∧ (∃ (s : State) (e : Nat) (k : Nat) (bsn : Nat) (sb : Nat) (b : Nat) (m : Missing) (r : Run), (s.last.run = some r) ∧ ((lane s e k).missing.find? (fun m => m.bsn == bsn && !m.expired) = some m) ∧ (m.sched = some sb) ∧ (m.injected = false) ∧ (slackEnd s r e k (bsn % 4) sb = some b) ∧ (b ≤ nowSched s))
    ∧ (∃ (s : State) (e : Nat) (k : Nat) (bsn : Nat) (sb : Nat) (b : Nat) (m : Missing) (r : Run), (s.last.run = some r) ∧ ((lane s e k).missing.find? (fun m => m.bsn == bsn && !m.expired) = some m) ∧ (m.sched = some sb) ∧ (slackEnd s r e k (bsn % 4) sb = some b) ∧ (nowSched s < b)) :=
  ⟨⟨{ rdy with lanes := [(lk 31 31, {  })] }, 31, 31, by decide +kernel⟩,
   ⟨{ rdy with lanes := [(lk 31 31, { train := .signal })] }, 31, 31, by decide +kernel⟩,
   ⟨{ rdy with lanes := [(lk 31 31, {  })] }, 31, 31, by decide +kernel⟩,
   ⟨{ rdy with lanes := [(lk 31 31, { train := .echo, scrRx := some 5 })] }, 31, 31, zeros 70, by decide +kernel, by decide +kernel, by decide +kernel⟩,
   ⟨{ rdy with lanes := [(lk 31 31, { train := .serve, scrRx := some 5 })] }, 31, 31, 5, by decide +kernel, by decide +kernel, by decide +kernel⟩,
   ⟨{ rdy with lanes := [(lk 31 31, { train := .wait })] }, 31, 31, by decide +kernel⟩,
   ⟨{ rdy with lanes := [(lk 31 31, { train := .serve, scrRx := some 5 })] }, 31, 31, prbsBlock 5 (encodeBlock (zeros 64) 0), zeros 64, 0, false, by decide +kernel, by decide +kernel, by decide +kernel, (by decide +kernel), by decide +kernel, by decide +kernel⟩,
   ⟨{ rdy with lanes := [(lk 31 31, { train := .serve })] }, 31, 31, 0, _, _, 0, false, by decide +kernel, rfl, by decide +kernel, rfl, by decide +kernel, by decide +kernel⟩,
   ⟨{ rdy with lanes := [(lk 31 31, { train := .serve })] }, 31, 31, 0, _, _, 2 ^ 13, false, by decide +kernel, rfl, by decide +kernel, rfl, by decide +kernel, by decide +kernel⟩,
   ⟨{ rdy with lanes := [(lk 31 31, { train := .serve })] }, 31, 31, 0, _, _, 2 ^ 14, false, by decide +kernel, rfl, by decide +kernel, rfl, by decide +kernel, by decide +kernel⟩,
   ⟨{ rdy with lanes := [(lk 31 31, { train := .serve })] }, 31, 31, 0, _, _, 2 ^ 15, false, by decide +kernel, rfl, by decide +kernel, rfl, by decide +kernel⟩,
   ⟨{ rdy with lanes := [(lk 31 31, { train := .serve })] }, 31, 31, 0, _, _, 5 * 2 ^ 13, false, by decide +kernel, rfl, by decide +kernel, rfl, by decide +kernel⟩,
   ⟨{ rdy with lanes := [(lk 31 31, { train := .serve })] }, 31, 31, 0, _, _, _, zeros 64, 2 ^ 12, false, by decide +kernel, rfl, by decide +kernel, rfl, by decide +kernel, by decide +kernel, rfl, by decide +kernel, by decide +kernel⟩,
   ⟨{ live (image 1 [(0x10, 0, [2 ^ 62 + 24 * 2 ^ 57 + 31 * 2 ^ 52 + 2 ^ 10, 0])]) { run1 with hist := [some 0] } .running with lanes := [(lk 24 31, { train := .serve })] }, 24, 31, 0, 0, _, _, _, zeros 64, 2 ^ 12, false, by decide +kernel, rfl, by decide +kernel, rfl, by decide +kernel, by decide +kernel, rfl, by decide +kernel, by decide +kernel⟩,
   ⟨{ rdy with lanes := [(lk 31 31, { sent := [{ bsn := 3, dataFlag := true, sched := false, data := [], beat := 0 }] })] }, 31, 31, by decide +kernel, by intro y h; cases List.mem_singleton.mp h; decide +kernel⟩,
   ⟨{ rdy with lanes := [(lk 31 31, { sent := [{ bsn := 3, dataFlag := true, sched := false, data := [], beat := 0 }] })] }, 31, 31, 3, { bsn := 3, dataFlag := true, sched := false, data := [], beat := 0 }, by decide +kernel, by decide +kernel⟩,
   ⟨{ rdy with lanes := [(lk 31 31, { train := .serve })] }, 31, 31, 0, 0, _, rfl, Or.inr (by decide +kernel)⟩,
   ⟨{ rdy with lanes := [(lk 31 31, { train := .serve, rxBsn := 5, missing := [⟨0, none, 0, false, false⟩] })] }, 31, 31, 0, 0, ⟨0, none, 0, false, false⟩, _, rfl, by decide +kernel, by decide +kernel, by decide +kernel, (by decide +kernel)⟩,
   ⟨{ { rdy with lanes := [(lk 31 31, { sent := [{ bsn := 3, dataFlag := true, sched := false, data := [], beat := 0 }] })] } with clock := { beat := 2 } }, 31, 31, { bsn := 3, dataFlag := true, sched := false, data := [], beat := 0 }, by decide +kernel, by decide +kernel⟩,
   ⟨{ rdy with lanes := [(lk 31 31, { sent := [] })] }, 31, 31, by decide +kernel⟩,
   ⟨{ rdy with lanes := [(lk 31 31, { missing := [⟨0, none, 0, false, false⟩], rxBsn := 33 })] }, 31, 31, ⟨0, none, 0, false, false⟩, by decide +kernel, by decide +kernel⟩,
   ⟨{ rdy with lanes := [(lk 31 31, {  })] }, 31, 31, by decide +kernel⟩,
   ⟨{ live (image 1 [(0x10, 0, [2 ^ 62 + 24 * 2 ^ 57 + 31 * 2 ^ 52 + 2 ^ 10, 0])]) { run1 with sched := 40, stepCount := 100 } .running with lanes := [(lk 24 31, { missing := [⟨4, some 0, 0, false, false⟩] })] }, 24, 31, 4, 0, rxSlack ⟨1, 24, 31, 0, 0, 1, 0⟩, ⟨4, some 0, 0, false, false⟩, { run1 with sched := 40, stepCount := 100 }, by decide +kernel, by decide +kernel, by decide +kernel, (by decide +kernel), by decide +kernel, by decide +kernel⟩,
   ⟨{ live (image 1 [(0x10, 0, [2 ^ 62 + 24 * 2 ^ 57 + 31 * 2 ^ 52 + 2 ^ 10, 0])]) { run1 with sched := 1, stepCount := 100 } .running with lanes := [(lk 24 31, { missing := [⟨4, some 0, 0, false, false⟩] })] }, 24, 31, 4, 0, rxSlack ⟨1, 24, 31, 0, 0, 1, 0⟩, ⟨4, some 0, 0, false, false⟩, { run1 with sched := 1, stepCount := 100 }, by decide +kernel, by decide +kernel, by decide +kernel, (by decide +kernel), by decide +kernel⟩⟩

/-- States and operands that meet the hypotheses of each clause of LastLoadsLaunchesAndUnloads. -/
theorem test_LastLoadsLaunchesAndUnloads :
    (∃ (s : State) (u : State) (q : Nat) (id : Nat) (slot : Nat) (f : Flight), (u = begun s q id) ∧ (Begins s q id 1 f) ∧ (slot = fld (nth f.words 2) 31 28) ∧ ((nth f.words 1).toNat % 64 = 0) ∧ (clearing u = false) ∧ (slotState u slot = .empty ∨ slotState u slot = .loaded) ∧ (u.last.load = none))
    ∧ (∃ (s : State) (u : State) (q : Nat) (id : Nat) (f : Flight) (l : Load), (u = begun s q id) ∧ (Begins s q id 1 f) ∧ ((nth f.words 1).toNat % 64 = 0) ∧ (clearing u = false) ∧ (u.last.load = some l))
    ∧ (∃ (s : State) (u : State) (q : Nat) (id : Nat) (l : Load), (u = begun s q id) ∧ (s.last.load = some l) ∧ (l.status ≠ Code.ok))
    ∧ (∃ (s : State) (u : State) (q : Nat) (id : Nat) (l : Load), (u = begun s q id) ∧ (s.last.load = some l) ∧ (l.status = Code.ok) ∧ (l.copied < l.size))
    ∧ (∃ (s : State) (u : State) (q : Nat) (id : Nat) (l : Load), (u = begun s q id) ∧ (s.last.load = some l) ∧ (l.status = Code.ok) ∧ (l.size ≤ l.copied) ∧ (poisoned s (slotBase s l.slot) l.bytes = false) ∧ (firstBreach s l.slot l.bytes = none))
    ∧ (∃ (s : State) (u : State) (q : Nat) (id : Nat) (l : Load), (u = begun s q id) ∧ (s.last.load = some l) ∧ (l.status = Code.ok) ∧ (l.size ≤ l.copied) ∧ (poisoned s (slotBase s l.slot) l.bytes = true))
    ∧ (∃ (s : State) (u : State) (q : Nat) (id : Nat) (l : Load) (x : Nat × Breach), (u = begun s q id) ∧ (s.last.load = some l) ∧ (l.status = Code.ok) ∧ (l.size ≤ l.copied) ∧ (poisoned s (slotBase s l.slot) l.bytes = false) ∧ (firstBreach s l.slot l.bytes = some x))
    ∧ (∃ (s : State) (u : State) (q : Nat) (id : Nat), (u = begun s q id) ∧ (s.last.load = none))
    ∧ (∃ (s : State) (u : State) (q : Nat) (id : Nat) (f : Flight), (u = begun s q id) ∧ (Begins s q id 2 f) ∧ (clearing u = false) ∧ (slotState u (fld (nth f.words 1) 63 60) = .empty))
    ∧ (∃ (s : State) (u : State) (v : State) (w : State) (q : Nat) (id : Nat) (slot : Nat) (b : Nat) (f : Flight), (u = begun s q id) ∧ (Begins s q id 2 f) ∧ (clearing u = false) ∧ (slot = fld (nth f.words 1) 63 60) ∧ (slotState u slot = .loaded) ∧ (u.last.run = none) ∧ (u.clock.refState ≠ .lost) ∧ (pickBucket u slot (fld (nth f.words 1) 59 36) (fld (nth f.words 1) 35 12) = some b) ∧ (launchChecks u slot b (fld (nth f.words 2) 63 32) = none) ∧ (v = (List.range 64).foldl (fun s t => installImage s slot b t) u) ∧ (pinAll (pinPages v slot b) v = (.ok w, w)) ∧ (imagePoisoned u slot b = false))
    ∧ (∃ (s : State) (u : State) (via : Via) (q : Nat) (id : Nat) (slot : Nat), (u = begun s q id) ∧ (Writable s via 0x4100 0x10) ∧ (slot ≤ 15) ∧ (slotState s slot = .loaded))
    ∧ (∃ (s : State) (u : State) (via : Via) (q : Nat) (id : Nat) (slot : Nat), (u = begun s q id) ∧ (Writable s via 0x4100 0x10) ∧ (slotState s slot ≠ .loaded)) :=
  ⟨⟨inFlight (rdy) [2 ^ 56, 64, 15 * 2 ^ 28], begun (inFlight (rdy) [2 ^ 56, 64, 15 * 2 ^ 28]) 3 7, 3, 7, 15, cmd [2 ^ 56, 64, 15 * 2 ^ 28], rfl, ⟨by decide +kernel, by decide +kernel, by decide +kernel, by decide +kernel, (by decide +kernel)⟩, by decide +kernel, by decide +kernel, by decide +kernel, (by decide +kernel), by decide +kernel⟩,
   ⟨inFlight ({ rdy with last := { load := some { slot := 0, status := 1 } } }) [2 ^ 56, 64, 0], begun (inFlight ({ rdy with last := { load := some { slot := 0, status := 1 } } }) [2 ^ 56, 64, 0]) 3 7, 3, 7, cmd [2 ^ 56, 64, 0], { slot := 0, status := 1 }, rfl, ⟨by decide +kernel, by decide +kernel, by decide +kernel, by decide +kernel, (by decide +kernel)⟩, by decide +kernel, by decide +kernel, by decide +kernel⟩,
   ⟨{ rdy with last := { load := some { slot := 0, status := 1 } } }, begun ({ rdy with last := { load := some { slot := 0, status := 1 } } }) 0 0, 0, 0, { slot := 0, status := 1 }, rfl, by decide +kernel, by decide +kernel⟩,
   ⟨{ rdy with last := { load := some { bytes := 4096 } } }, _, 0, 0, { bytes := 4096 }, rfl, by decide +kernel, by decide +kernel, by decide +kernel⟩,
   ⟨good, _, 0, 0, { copied := 1024, bytes := 1024 }, rfl, by decide +kernel, by decide +kernel, by decide +kernel, (by decide +kernel), test_good⟩,
   ⟨{ good with hbm := { poison := [(slotBase rdy 0 / 64 + 15, 1)] } }, _, 0, 0, { copied := 1024, bytes := 1024 }, rfl, by decide +kernel, by decide +kernel, by decide +kernel, (by decide +kernel)⟩,
   ⟨{ live (image 1 []) run1 .running with last := { load := some { copied := 1024, bytes := 1024 } } }, _, 0, 0, { copied := 1024, bytes := 1024 }, (3, 6, 63, 0), rfl, by decide +kernel, by decide +kernel, by decide +kernel, (by decide +kernel), by decide +kernel⟩,
   ⟨rdy, begun (rdy) 0 0, 0, 0, rfl, by decide +kernel⟩,
   ⟨inFlight (rdy) [2 * 2 ^ 56, 15 * 2 ^ 60], begun (inFlight (rdy) [2 * 2 ^ 56, 15 * 2 ^ 60]) 3 7, 3, 7, cmd [2 * 2 ^ 56, 15 * 2 ^ 60], rfl, ⟨by decide +kernel, by decide +kernel, by decide +kernel, by decide +kernel, (by decide +kernel)⟩, by decide +kernel, by decide +kernel⟩,
   ⟨inFlight ({ rdy with last := { slots := [(0, { state := .loaded })] }, hbm := { mem := img ((0, 2 ^ 27) :: image 1 []) }, queues := { sets := [(0, { enabled := true })] } }) [2 * 2 ^ 56, 0, 2 ^ 32], begun (inFlight ({ rdy with last := { slots := [(0, { state := .loaded })] }, hbm := { mem := img ((0, 2 ^ 27) :: image 1 []) }, queues := { sets := [(0, { enabled := true })] } }) [2 * 2 ^ 56, 0, 2 ^ 32]) 3 7, (List.range 64).foldl (fun s t => installImage s 0 0 t) (begun (inFlight ({ rdy with last := { slots := [(0, { state := .loaded })] }, hbm := { mem := img ((0, 2 ^ 27) :: image 1 []) }, queues := { sets := [(0, { enabled := true })] } }) [2 * 2 ^ 56, 0, 2 ^ 32]) 3 7), (List.range 64).foldl (fun s t => installImage s 0 0 t) (begun (inFlight ({ rdy with last := { slots := [(0, { state := .loaded })] }, hbm := { mem := img ((0, 2 ^ 27) :: image 1 []) }, queues := { sets := [(0, { enabled := true })] } }) [2 * 2 ^ 56, 0, 2 ^ 32]) 3 7), 3, 7, 0, 0, cmd [2 * 2 ^ 56, 0, 2 ^ 32], rfl, ⟨by decide +kernel, by decide +kernel, by decide +kernel, by decide +kernel, (by decide +kernel)⟩, by decide +kernel, by decide +kernel, by decide +kernel, (by decide +kernel), by decide +kernel, by decide +kernel, by decide +kernel, rfl, by rw [show pinPages ((List.range 64).foldl (fun s t => installImage s 0 0 t) (begun (inFlight ({ rdy with last := { slots := [(0, { state := .loaded })] }, hbm := { mem := img ((0, 2 ^ 27) :: image 1 []) }, queues := { sets := [(0, { enabled := true })] } }) [2 * 2 ^ 56, 0, 2 ^ 32]) 3 7)) 0 0 = [] from by decide +kernel]; rfl, by decide +kernel⟩,
   ⟨{ rdy with last := { slots := [(15, { state := .loaded })] } }, begun ({ rdy with last := { slots := [(15, { state := .loaded })] } }) 0 0, m0, 0, 0, 15, rfl, ⟨by decide +kernel, by decide +kernel, by decide +kernel⟩, by decide +kernel, by decide +kernel⟩,
   ⟨rdy, begun (rdy) 0 0, m0, 0, 0, 15, rfl, ⟨by decide +kernel, by decide +kernel, by decide +kernel⟩, by decide +kernel⟩⟩

/-- States and operands that meet the hypotheses of each clause of StepsRunAndEnd. -/
theorem test_StepsRunAndEnd :
    (∃ (s : State) (r : Run), (s.last.run = some r) ∧ (r.stepDue = true) ∧ (runState s = .running))
    ∧ (∃ (s : State) (r : Run), (s.last.run = some r) ∧ (r.stepDue = false))
    ∧ (∃ (s : State) (r : Run) (mw : Int), (s.last.run = some r) ∧ (runState s = .running) ∧ (r.issuing = true) ∧ (r.pacePending ≠ some (nowSched s)) ∧ (isPacePoint s r (stepBeat s r) = true) ∧ (s.trace.digestEvery ≠ 0) ∧ (capExceeded s (paceMean s mw) = false))
    ∧ (∃ (s : State) (r : Run) (p : Nat) (x : Nat), (s.last.run = some r) ∧ (runState s = .running) ∧ (r.pacePending = some p) ∧ (p + paceLag s r.slot ≤ r.sched) ∧ (r.paceResult = some x))
    ∧ (∃ (s : State) (r : Run) (p : Nat), (s.last.run = some r) ∧ (runState s = .running) ∧ (r.pacePending = some p) ∧ (p + paceLag s r.slot ≤ r.sched) ∧ (r.paceResult = none))
    ∧ (∃ (s : State) (r : Run), (s.last.run = some r) ∧ (runState s = .running) ∧ (totalBeats s r ≤ r.sched))
    ∧ (∃ (s : State) (r : Run), (s.last.run = some r) ∧ (runState s = .running) ∧ (r.sched < totalBeats s r))
    ∧ (∃ (s : State) (r : Run), (s.last.run = some r) ∧ (runState s = .ending) ∧ (schedCopies s = false))
    ∧ (∃ (s : State) (r : Run), (s.last.run = some r) ∧ (runState s = .ending) ∧ (schedCopies s = true))
    ∧ (∃ (s : State) (r : Run) (tile : Nat), (s.last.run = some r) ∧ (runState s = .running) ∧ (s.trace.digestEvery ≠ 0) ∧ (0 < r.sched) ∧ (nowSched s % s.trace.digestEvery = 0) ∧ (hasStream s r tile = true)) :=
  ⟨⟨live [] { run1 with stepDue := true } .running, { run1 with stepDue := true }, by decide +kernel, by decide +kernel, by decide +kernel⟩,
   ⟨live [] run1 .running, run1, by decide +kernel, by decide +kernel⟩,
   ⟨{ live (image 1 []) run1 .running with trace := { digestEvery := 1 }, power := { paceCount := 1 } }, run1, 0, by decide +kernel, by decide +kernel, by decide +kernel, (by decide +kernel), by decide +kernel, by decide +kernel, by decide +kernel⟩,
   ⟨live [] { run1 with pacePending := some 1, paceResult := some 256 } .running, { run1 with pacePending := some 1, paceResult := some 256 }, 1, 256, by decide +kernel, by decide +kernel, by decide +kernel, (by decide +kernel), by decide +kernel⟩,
   ⟨live [] { run1 with pacePending := some 1 } .running, { run1 with pacePending := some 1 }, 1, by decide +kernel, by decide +kernel, by decide +kernel, (by decide +kernel), by decide +kernel⟩,
   ⟨live [] run1 .running, run1, by decide +kernel, by decide +kernel, by decide +kernel⟩,
   ⟨live [] { run1 with stepCount := 2 } .running, { run1 with stepCount := 2 }, by decide +kernel, by decide +kernel, by decide +kernel⟩,
   ⟨live [] run1 .ending, run1, by decide +kernel, by decide +kernel, by decide +kernel⟩,
   ⟨{ live [] run1 .ending with stitch := { ctxs := [(510, {})] } }, run1, by decide +kernel, by decide +kernel, by decide +kernel⟩,
   ⟨{ live (image 1 [(1, 63, [0])]) run1 .running with trace := { digestEvery := 1 } }, run1, 63, by decide +kernel, by decide +kernel, by decide +kernel, (by decide +kernel), by decide +kernel, by decide +kernel⟩⟩

/-- States and operands that meet the hypotheses of each clause of QueuesMoveBetweenStates. -/
theorem test_QueuesMoveBetweenStates :
    (∃ (s : State) (via : Via) (q : Nat), (q < 512) ∧ (Writable s via 0x4000 4) ∧ (s.reset'.boot = .ready) ∧ (q ≠ 511 ∨ ∃ n, via = .mgmt n) ∧ ((queueOf s q).state = .disabled) ∧ (blockValid s q = true))
    ∧ (∃ (s : State) (via : Via) (q : Nat), (q < 512) ∧ (Writable s via 0x4000 4) ∧ (s.reset'.boot = .ready) ∧ ((queueOf s q).state = .disabled) ∧ (blockValid s q = false))
    ∧ (∃ (s : State) (q : Nat) (c : Nat), (q < 512) ∧ (Writable s (.mailbox c) 0x4000 4))
    ∧ (∃ (s : State) (via : Via) (q : Nat), (q < 512) ∧ (Writable s via 0x4000 4) ∧ (q ≠ 511 ∨ ∃ n, via = .mgmt n) ∧ ((queueOf s q).state = .idle))
    ∧ (∃ (s : State) (via : Via) (q : Nat), (q < 512) ∧ (Writable s via 0x4000 4) ∧ (q ≠ 511 ∨ ∃ n, via = .mgmt n) ∧ ((queueOf s q).state = .stopped) ∧ (qWaiting s q = 0))
    ∧ (∃ (s : State) (q : Nat), (q < 512) ∧ ((queueOf s q).state = .disabled))
    ∧ (∃ (s : State) (q : Nat), (q < 512) ∧ ((queueOf s q).state = .idle) ∧ (2 ^ qRingLog s q < qWaiting s q))
    ∧ (∃ (s : State) (q : Nat), (q < 512) ∧ ((queueOf s q).state = .idle) ∧ (0 < qWaiting s q) ∧ (qWaiting s q ≤ 2 ^ qRingLog s q))
    ∧ (∃ (s : State) (q : Nat), (q < 512) ∧ ((queueOf s q).state = .draining) ∧ ((queueOf s q).flights = []))
    ∧ (∃ (s : State) (q : Nat), (q < 512) ∧ ((queueOf s q).state = .draining) ∧ ((queueOf s q).flights ≠ [])) :=
  ⟨⟨{ rdy with queues := { queues := [(510, { state := .disabled })] }, hbm := { mem := blk 510 [(5, 15 * 2 ^ 60 + 4 * 2 ^ 56)] } }, m0, 510, by decide +kernel, ⟨by decide +kernel, by decide +kernel, by decide +kernel⟩, by decide +kernel, Or.inl (by decide), by decide +kernel, by decide +kernel⟩,
   ⟨{ rdy with queues := { queues := [(510, { state := .disabled })] }, hbm := { mem := blk 510 [(5, 3 * 2 ^ 60 + 4 * 2 ^ 56)] } }, m0, 510, by decide +kernel, ⟨by decide +kernel, by decide +kernel, by decide +kernel⟩, by decide +kernel, by decide +kernel, by decide +kernel⟩,
   ⟨rdy, 511, 7, by decide +kernel, ⟨by decide +kernel, by decide +kernel, by decide +kernel⟩⟩,
   ⟨{ rdy with queues := { queues := [(511, { state := .idle })] }, hbm := { mem := blk 511 [] } }, m0, 511, by decide +kernel, ⟨by decide +kernel, by decide +kernel, by decide +kernel⟩, Or.inr ⟨0, rfl⟩, by decide +kernel⟩,
   ⟨{ rdy with queues := { queues := [(510, { state := .stopped })] }, hbm := { mem := blk 510 [] } }, m0, 510, by decide +kernel, ⟨by decide +kernel, by decide +kernel, by decide +kernel⟩, Or.inl (by decide), by decide +kernel, by decide +kernel⟩,
   ⟨{ rdy with queues := { queues := [(510, { state := .disabled })] }, hbm := { mem := blk 510 [] } }, 510, by decide +kernel, by decide +kernel⟩,
   ⟨{ rdy with queues := { queues := [(510, { state := .idle })] }, hbm := { mem := blk 510 [(0, 2)] } }, 510, by decide +kernel, by decide +kernel, by decide +kernel⟩,
   ⟨{ rdy with queues := { queues := [(510, { state := .idle })] }, hbm := { mem := blk 510 [(0, 1)] } }, 510, by decide +kernel, by decide +kernel, by decide +kernel, (by decide +kernel)⟩,
   ⟨{ rdy with queues := { queues := [(510, { state := .draining })] }, hbm := { mem := blk 510 [] } }, 510, by decide +kernel, by decide +kernel, by decide +kernel⟩,
   ⟨{ rdy with queues := { queues := [(510, { state := .draining, flights := [cmd [0]] })] }, hbm := { mem := blk 510 [] } }, 510, by decide +kernel, by decide +kernel, by decide +kernel⟩⟩

/-- States and operands that meet the hypotheses of each clause of CommandsStartAndComplete. -/
theorem test_CommandsStartAndComplete :
    (∃ (s : State) (r : State) (e : Nat) (q : Nat) (bs : List Byte), (s.power.stalled = false) ∧ (s.power.tripped = false) ∧ (s.power.clocksOff = false) ∧ (rollingBack s = false ∨ s.faults.rollback = .armedReplay) ∧ (pickQueue s e = some q) ∧ (fetchHead s q = (.ok bs, r)))
    ∧ (∃ (s : State) (r : State) (e : Nat) (q : Nat) (z : Nat × Nat), (s.power.stalled = false) ∧ (s.power.tripped = false) ∧ (s.power.clocksOff = false) ∧ (rollingBack s = false ∨ s.faults.rollback = .armedReplay) ∧ (pickQueue s e = some q) ∧ (fetchHead s q = (.error z, r)))
    ∧ (∃ (q : Nat), (q ≠ 511))
    ∧ (∃ (s : State) (bs : List Byte), (s.queues.mgmtRing = bs :: (s.queues.mgmtRing.drop 1)))
    ∧ (∃ (s : State) (q : Nat) (ws : List Word), (startChecks q ws = none) ∧ (fld (nth ws 0) 63 56 = 7) ∧ (q ≠ 511 ∨ sealedMode s = false))
    ∧ (∃ (s : State) (ws : List Word), (startChecks 511 ws = none) ∧ (sealedMode s = true) ∧ (fld (nth ws 0) 63 56 ∉ [0x10, 0x11, 5, 0xA]))
    ∧ (∃ (s : State), (s.power.stalled = true ∨ s.power.tripped = true ∨ s.power.clocksOff = true))
    ∧ (∃ (s : State), (rollingBack s = true) ∧ (s.faults.rollback ≠ .armedReplay))
    ∧ (∃ (s : State) (e : Nat), (pickQueue s e = none))
    ∧ (∃ (s : State) (q : Nat) (id : Nat) (f : Flight) (x : Result), (s.power.clocksOff = false) ∧ (flightOf s q id = some f) ∧ (f.result = some x) ∧ (qRecords s q < 2 ^ qCqLog s q))
    ∧ (∃ (s : State) (q : Nat) (id : Nat) (f : Flight) (x : Result), (flightOf s q id = some f) ∧ (f.result = some x) ∧ (2 ^ qCqLog s q ≤ qRecords s q))
    ∧ (∃ (s : State), (s.power.clocksOff = true))
    ∧ (∃ (s : State) (via : Via) (bs : List Byte), (Writable s via 0x4000 7) ∧ (bs.length = 64)) :=
  ⟨⟨{ rdy with queues := { mgmtRing := [zeros 64], queues := [(511, { state := .running })] }, hbm := { mem := blk 511 [(0, 1)] } }, _, 3, 511, zeros 64, by decide +kernel, by decide +kernel, by decide +kernel, Or.inl (by decide +kernel), by decide +kernel, rfl⟩,
   ⟨{ rdy with queues := { queues := [(3, { state := .running })] }, hbm := { mem := blk 3 [(0, 1)] } }, _, 0, 3, (5, 1), by decide +kernel, by decide +kernel, by decide +kernel, Or.inl (by decide +kernel), by decide +kernel, Prod.ext (errorOf (by decide +kernel)) rfl⟩,
   ⟨3, by decide +kernel⟩,
   ⟨{ rdy with queues := { mgmtRing := [zeros 64] } }, zeros 64, by decide +kernel⟩,
   ⟨rdy, 3, [word (7 * 2 ^ 56)], by decide +kernel, by decide +kernel, Or.inl (by decide +kernel)⟩,
   ⟨{ rdy with tenancy := { vals := { mode := .sealed } } }, [word (2 ^ 56)], by decide +kernel, by decide +kernel, by decide +kernel⟩,
   ⟨{ rdy with power := { stalled := true } }, by decide +kernel⟩,
   ⟨{ rdy with faults := { rollback := .restoring } }, by decide +kernel, by decide +kernel⟩,
   ⟨rdy, 3, by decide +kernel⟩,
   ⟨{ rdy with queues := { queues := [(511, { state := .running, flights := [{ id := 7, words := [0], beat := 0, result := some {} }] })] }, hbm := { mem := blk 511 [] } }, 511, 7, { id := 7, words := [0], beat := 0, result := some {} }, {}, by decide +kernel, by decide +kernel, by decide +kernel, (by decide +kernel)⟩,
   ⟨{ rdy with queues := { queues := [(3, { state := .running, flights := [{ id := 7, words := [0], beat := 0, result := some {} }] })] }, hbm := { mem := blk 3 [(2, 1)] } }, 3, 7, { id := 7, words := [0], beat := 0, result := some {} }, {}, by decide +kernel, by decide +kernel, by decide +kernel⟩,
   ⟨{ rdy with power := { clocksOff := true } }, by decide +kernel⟩,
   ⟨rdy, m0, zeros 64, ⟨by decide +kernel, by decide +kernel, by decide +kernel⟩, by decide +kernel⟩⟩

/-- States and operands that meet the hypotheses of each clause of QueueCommandsAct. -/
theorem test_QueueCommandsAct :
    (∃ (s : State) (u : State) (q : Nat) (id : Nat) (f : Flight), (u = begun s q id) ∧ (Begins s q id 3 f) ∧ ((nth f.words 1).toNat % 256 = 0) ∧ (ctxOf u (ctxKey false false (fld (nth f.words 2) 63 58) (fld (nth f.words 2) 57 56)) = none) ∧ ((tget [] u.stitch.waiting (4 * fld (nth f.words 2) 63 58 + fld (nth f.words 2) 57 56)).head? = some (q, id)) ∧ (u.power.stalled = false))
    ∧ (∃ (s : State) (u : State) (q : Nat) (id : Nat) (f : Flight), (u = begun s q id) ∧ (Begins s q id 4 f) ∧ ((nth f.words 1).toNat % 256 = 0) ∧ (ctxOf u (ctxKey false false (fld (nth f.words 2) 63 58) (fld (nth f.words 2) 57 56)) = none) ∧ ((tget [] u.stitch.waiting (4 * fld (nth f.words 2) 63 58 + fld (nth f.words 2) 57 56)).head? = some (q, id)) ∧ (u.power.stalled = false))
    ∧ (∃ (s : State) (u : State) (q : Nat) (id : Nat) (f : Flight), (u = begun s q id) ∧ (Begins s q id 3 f) ∧ ((nth f.words 1).toNat % 256 ≠ 0))
    ∧ (∃ (s : State) (u : State) (q : Nat) (id : Nat) (f : Flight), (u = begun s q id) ∧ (Begins s q id 4 f) ∧ ((nth f.words 1).toNat % 256 ≠ 0))
    ∧ (∃ (s : State) (u : State) (q : Nat) (id : Nat) (f : Flight), (u = begun s q id) ∧ (Begins s q id 5 f) ∧ (fenceMet u q id = true))
    ∧ (∃ (s : State) (u : State) (q : Nat) (id : Nat) (f : Flight), (u = begun s q id) ∧ (Begins s q id 5 f) ∧ (fenceMet u q id = false))
    ∧ (∃ (s : State) (u : State) (q : Nat) (id : Nat) (f : Flight), (u = begun s q id) ∧ (Begins s q id 6 f) ∧ (poisoned u (rget u Reg.semBase + 8 * fld (nth f.words 1) 63 52) 8 = false) ∧ (fld (nth f.words 1) 51 48 = 0))
    ∧ (∃ (s : State) (u : State) (q : Nat) (id : Nat) (f : Flight), (u = begun s q id) ∧ (Begins s q id 6 f) ∧ (poisoned u (rget u Reg.semBase + 8 * fld (nth f.words 1) 63 52) 8 = false) ∧ (fld (nth f.words 1) 51 48 ≠ 0))
    ∧ (∃ (s : State) (u : State) (q : Nat) (id : Nat) (v : Nat) (f : Flight), (u = begun s q id) ∧ (Begins s q id 7 f) ∧ (poisoned u (rget u Reg.semBase + 8 * fld (nth f.words 1) 63 52) 8 = false) ∧ (v = (hbmWord u (rget u Reg.semBase + 8 * fld (nth f.words 1) 63 52)).toNat))
    ∧ (∃ (s : State) (u : State) (q : Nat) (id : Nat) (f : Flight), (u = begun s q id) ∧ (flightOf s q id = some f) ∧ (f.begun = true) ∧ (f.result = none) ∧ (fld (nth f.words 0) 63 56 = 7) ∧ (fld (nth f.words 1) 31 0 ≠ 0))
    ∧ (∃ (s : State) (u : State) (w : State) (q : Nat) (id : Nat) (f : Flight), (u = begun s q id) ∧ (Begins s q id 0xA f) ∧ ((nth f.words 1).toNat % 8 = 0) ∧ (engineMeter u q id (nth f.words 1).toNat 8 true = (.admitted, w)))
    ∧ (∃ (s : State) (u : State) (q : Nat) (id : Nat) (f : Flight), (u = begun s q id) ∧ (Begins s q id 0xA f) ∧ ((nth f.words 1).toNat % 8 ≠ 0))
    ∧ (∃ (s : State) (u : State) (q : Nat) (id : Nat) (f : Flight), (u = begun s q id) ∧ (Begins s q id 8 f) ∧ ((laceSet u (fld (nth f.words 1) 63 58)).enabled = true) ∧ ((laceOpOf u (fld (nth f.words 1) 63 58) q id).isSome = true))
    ∧ (∃ (s : State) (u : State) (q : Nat) (id : Nat) (f : Flight), (u = begun s q id) ∧ (Begins s q id 8 f) ∧ ((laceSet u (fld (nth f.words 1) 63 58)).enabled = false))
    ∧ (∃ (s : State) (u : State) (w : State) (q : Nat) (id : Nat) (f : Flight), (u = begun s q id) ∧ (Begins s q id 9 f) ∧ ((nth f.words 2).toNat % 8 = 0) ∧ ((nth f.words 3).toNat % 8 = 0) ∧ (fld (nth f.words 1) 57 54 = 1) ∧ (fld (nth f.words 1) 53 52 = ltU64) ∧ ((laceSet u (fld (nth f.words 1) 63 58)).enabled = true) ∧ ((laceOpOf u (fld (nth f.words 1) 63 58) q id).isSome = true) ∧ (engineMeter u q id (nth f.words 2).toNat (ltBytes ltU64) false = (.admitted, w))) :=
  ⟨⟨inFlight { rdy with stitch := { waiting := [(255, [(3, 7)])] } } [3 * 2 ^ 56, 256, 255 * 2 ^ 56], _, 3, 7, cmd [3 * 2 ^ 56, 256, 255 * 2 ^ 56], rfl, ⟨by decide +kernel, by decide +kernel, by decide +kernel, by decide +kernel, (by decide +kernel)⟩, by decide +kernel, by decide +kernel, by decide +kernel, (by decide +kernel)⟩,
   ⟨inFlight { rdy with stitch := { waiting := [(255, [(3, 7)])] } } [4 * 2 ^ 56, 256, 255 * 2 ^ 56], _, 3, 7, cmd [4 * 2 ^ 56, 256, 255 * 2 ^ 56], rfl, ⟨by decide +kernel, by decide +kernel, by decide +kernel, by decide +kernel, (by decide +kernel)⟩, by decide +kernel, by decide +kernel, by decide +kernel, (by decide +kernel)⟩,
   ⟨inFlight (rdy) [3 * 2 ^ 56, 128], begun (inFlight (rdy) [3 * 2 ^ 56, 128]) 3 7, 3, 7, cmd [3 * 2 ^ 56, 128], rfl, ⟨by decide +kernel, by decide +kernel, by decide +kernel, by decide +kernel, (by decide +kernel)⟩, by decide +kernel⟩,
   ⟨inFlight rdy [4 * 2 ^ 56, 128], begun (inFlight rdy [4 * 2 ^ 56, 128]) 3 7, 3, 7, cmd [4 * 2 ^ 56, 128], rfl, ⟨by decide +kernel, by decide +kernel, by decide +kernel, by decide +kernel, (by decide +kernel)⟩, by decide +kernel⟩,
   ⟨inFlight (rdy) [5 * 2 ^ 56], begun (inFlight (rdy) [5 * 2 ^ 56]) 3 7, 3, 7, cmd [5 * 2 ^ 56], rfl, ⟨by decide +kernel, by decide +kernel, by decide +kernel, by decide +kernel, (by decide +kernel)⟩, by decide +kernel⟩,
   ⟨{ rdy with queues := { queues := [(3, { state := .running, flights := [{ id := 6, words := [word (3 * 2 ^ 56)], beat := 0 }, cmd [5 * 2 ^ 56]] })] } }, begun ({ rdy with queues := { queues := [(3, { state := .running, flights := [{ id := 6, words := [word (3 * 2 ^ 56)], beat := 0 }, cmd [5 * 2 ^ 56]] })] } }) 3 7, 3, 7, cmd [5 * 2 ^ 56], rfl, ⟨by decide +kernel, by decide +kernel, by decide +kernel, by decide +kernel, (by decide +kernel)⟩, by decide +kernel⟩,
   ⟨inFlight (rdy) [6 * 2 ^ 56, 4095 * 2 ^ 52, 1], begun (inFlight (rdy) [6 * 2 ^ 56, 4095 * 2 ^ 52, 1]) 3 7, 3, 7, cmd [6 * 2 ^ 56, 4095 * 2 ^ 52, 1], rfl, ⟨by decide +kernel, by decide +kernel, by decide +kernel, by decide +kernel, (by decide +kernel)⟩, by decide +kernel, by decide +kernel⟩,
   ⟨inFlight rdy [6 * 2 ^ 56, 4095 * 2 ^ 52 + 2 ^ 48, 1], begun (inFlight rdy [6 * 2 ^ 56, 4095 * 2 ^ 52 + 2 ^ 48, 1]) 3 7, 3, 7, cmd [6 * 2 ^ 56, 4095 * 2 ^ 52 + 2 ^ 48, 1], rfl, ⟨by decide +kernel, by decide +kernel, by decide +kernel, by decide +kernel, (by decide +kernel)⟩, by decide +kernel, by decide +kernel⟩,
   ⟨inFlight (rdy) [7 * 2 ^ 56, 4095 * 2 ^ 52], begun (inFlight (rdy) [7 * 2 ^ 56, 4095 * 2 ^ 52]) 3 7, 3, 7, 0, cmd [7 * 2 ^ 56, 4095 * 2 ^ 52], rfl, ⟨by decide +kernel, by decide +kernel, by decide +kernel, by decide +kernel, (by decide +kernel)⟩, by decide +kernel, by decide +kernel⟩,
   ⟨{ rdy with queues := { queues := [(3, { state := .running, flights := [{ id := 7, words := [word (7 * 2 ^ 56), 1], beat := 0, begun := true }] })] } }, begun ({ rdy with queues := { queues := [(3, { state := .running, flights := [{ id := 7, words := [word (7 * 2 ^ 56), 1], beat := 0, begun := true }] })] } }) 3 7, 3, 7, { id := 7, words := [word (7 * 2 ^ 56), 1], beat := 0, begun := true }, rfl, by decide +kernel, by decide +kernel, by decide +kernel, (by decide +kernel), by decide +kernel⟩,
   ⟨inFlight (rdy) [0xA * 2 ^ 56, 8], begun (inFlight (rdy) [0xA * 2 ^ 56, 8]) 3 7, (engineMeter (begun (inFlight (rdy) [0xA * 2 ^ 56, 8]) 3 7) 3 7 (nth (cmd [0xA * 2 ^ 56, 8]).words 1).toNat 8 true).2, 3, 7, cmd [0xA * 2 ^ 56, 8], rfl, ⟨by decide +kernel, by decide +kernel, by decide +kernel, by decide +kernel, (by decide +kernel)⟩, by decide +kernel, Prod.ext (by decide +kernel) rfl⟩,
   ⟨inFlight (rdy) [0xA * 2 ^ 56, 4], begun (inFlight (rdy) [0xA * 2 ^ 56, 4]) 3 7, 3, 7, cmd [0xA * 2 ^ 56, 4], rfl, ⟨by decide +kernel, by decide +kernel, by decide +kernel, by decide +kernel, (by decide +kernel)⟩, by decide +kernel⟩,
   ⟨{ inFlight rdy [8 * 2 ^ 56, 63 * 2 ^ 58] with queues := { (inFlight rdy [8 * 2 ^ 56, 63 * 2 ^ 58]).queues with sets := [(63, { enabled := true, ops := [{ seq := 0, lop := 15, ltype := 1, queue := 3, id := 7 }] })] } }, begun ({ inFlight rdy [8 * 2 ^ 56, 63 * 2 ^ 58] with queues := { (inFlight rdy [8 * 2 ^ 56, 63 * 2 ^ 58]).queues with sets := [(63, { enabled := true, ops := [{ seq := 0, lop := 15, ltype := 1, queue := 3, id := 7 }] })] } }) 3 7, 3, 7, cmd [8 * 2 ^ 56, 63 * 2 ^ 58], rfl, ⟨by decide +kernel, by decide +kernel, by decide +kernel, by decide +kernel, (by decide +kernel)⟩, by decide +kernel, by decide +kernel⟩,
   ⟨inFlight (rdy) [8 * 2 ^ 56, 63 * 2 ^ 58], begun (inFlight (rdy) [8 * 2 ^ 56, 63 * 2 ^ 58]) 3 7, 3, 7, cmd [8 * 2 ^ 56, 63 * 2 ^ 58], rfl, ⟨by decide +kernel, by decide +kernel, by decide +kernel, by decide +kernel, (by decide +kernel)⟩, by decide +kernel⟩,
   ⟨{ inFlight rdy [9 * 2 ^ 56, 63 * 2 ^ 58 + 2 ^ 54 + 2 ^ 52, 8, 16] with queues := { (inFlight rdy [9 * 2 ^ 56, 63 * 2 ^ 58 + 2 ^ 54 + 2 ^ 52, 8, 16]).queues with sets := [(63, { enabled := true, ops := [{ seq := 0, lop := 1, ltype := 1, queue := 3, id := 7 }] })] } }, begun ({ inFlight rdy [9 * 2 ^ 56, 63 * 2 ^ 58 + 2 ^ 54 + 2 ^ 52, 8, 16] with queues := { (inFlight rdy [9 * 2 ^ 56, 63 * 2 ^ 58 + 2 ^ 54 + 2 ^ 52, 8, 16]).queues with sets := [(63, { enabled := true, ops := [{ seq := 0, lop := 1, ltype := 1, queue := 3, id := 7 }] })] } }) 3 7, (engineMeter (begun ({ inFlight rdy [9 * 2 ^ 56, 63 * 2 ^ 58 + 2 ^ 54 + 2 ^ 52, 8, 16] with queues := { (inFlight rdy [9 * 2 ^ 56, 63 * 2 ^ 58 + 2 ^ 54 + 2 ^ 52, 8, 16]).queues with sets := [(63, { enabled := true, ops := [{ seq := 0, lop := 1, ltype := 1, queue := 3, id := 7 }] })] } }) 3 7) 3 7 (nth (cmd [9 * 2 ^ 56, 63 * 2 ^ 58 + 2 ^ 54 + 2 ^ 52, 8, 16]).words 2).toNat (ltBytes ltU64) false).2, 3, 7, cmd [9 * 2 ^ 56, 63 * 2 ^ 58 + 2 ^ 54 + 2 ^ 52, 8, 16], rfl, ⟨by decide +kernel, by decide +kernel, by decide +kernel, by decide +kernel, (by decide +kernel)⟩, by decide +kernel, by decide +kernel, by decide +kernel, (by decide +kernel), by decide +kernel, by decide +kernel, Prod.ext (by decide +kernel) rfl⟩⟩

/-- States and operands that meet the hypotheses of each clause of LaceSetsServe. -/
theorem test_LaceSetsServe :
    (∃ (s : State) (p : Packet) (set : Nat) (m : List Word), (m = wordsOf p.payload 8) ∧ (set = lmSet m) ∧ (set < 64) ∧ (p.kind = kLace) ∧ (p.wellFormed = true) ∧ ((laceSet s set).enabled = false))
    ∧ (∃ (s : State) (p : Packet) (set : Nat) (o : LaceOp) (m : List Word), (m = wordsOf p.payload 8) ∧ (set = lmSet m) ∧ (set < 64) ∧ (p.kind = kLace) ∧ (p.wellFormed = true) ∧ ((laceSet s set).enabled = true) ∧ ((laceMembers (laceSet s set)).contains (lmSrc m) = true) ∧ (lmSrc m ≠ ownChip s) ∧ (lmKind m = 0) ∧ ((laceSet s set).ops.find? (fun o => o.seq == lmSeq m) = some o) ∧ (o.held.any (fun h => h.1 == lmSrc m) = false))
    ∧ (∃ (s : State) (p : Packet) (set : Nat) (o : LaceOp) (os : List LaceOp) (m : List Word), (m = wordsOf p.payload 8) ∧ (set = lmSet m) ∧ (set < 64) ∧ ((laceSet s set).ops = o :: os))
    ∧ (∃ (s : State) (p : Packet) (set : Nat) (m : List Word), (m = wordsOf p.payload 8) ∧ (set = lmSet m) ∧ (set < 64) ∧ (s.queues.laceDie = 0))
    ∧ (∃ (s : State) (p : Packet) (set : Nat) (m : List Word), (m = wordsOf p.payload 8) ∧ (set = lmSet m) ∧ (set < 64) ∧ (s.queues.laceDie ≠ 0))
    ∧ (∃ (s : State) (via : Via) (p : Packet) (set : Nat) (m : List Word), (m = wordsOf p.payload 8) ∧ (set = lmSet m) ∧ (set < 64) ∧ (Writable s via (0x4040 + set) 1) ∧ (laceSetValid s (laceSet s set) = true))
    ∧ (∃ (s : State) (via : Via) (p : Packet) (set : Nat) (m : List Word), (m = wordsOf p.payload 8) ∧ (set = lmSet m) ∧ (set < 64) ∧ (Writable s via (0x4040 + set) 1) ∧ (laceSetValid s (laceSet s set) = false))
    ∧ (∃ (s : State) (via : Via) (p : Packet) (set : Nat) (m : List Word), (m = wordsOf p.payload 8) ∧ (set = lmSet m) ∧ (set < 64) ∧ (Writable s via (0x4040 + set) 1) ∧ (laceOutstanding s set = false) ∧ (isPaceSet s set = false))
    ∧ (∃ (s : State) (p : Packet) (set : Nat) (m : List Word), (m = wordsOf p.payload 8) ∧ (set = lmSet m) ∧ (set < 64) ∧ (s.last.run = none))
    ∧ (∃ (s : State) (p : Packet) (set : Nat) (e : Nat) (k : Nat) (pos : Nat) (sb : Nat) (m : List Word) (r : Run), (m = wordsOf p.payload 8) ∧ (set = lmSet m) ∧ (set < 64) ∧ (s.last.run = some r) ∧ (laceRunAt s r e k pos sb = none))
    ∧ (∃ (s : State) (p : Packet) (set : Nat) (e : Nat) (k : Nat) (pos : Nat) (sb : Nat) (m : List Word) (r : Run) (c : SchedLace), (m = wordsOf p.payload 8) ∧ (set = lmSet m) ∧ (set < 64) ∧ (s.last.run = some r) ∧ ((laceRunAt s r e k pos sb).isSome = true) ∧ (r.laceOps.find? (fun o => o.set == lmSet m && o.seq == lmSeq m && o.lop == lmLop m && o.ltype == lmType m && decide (o.issued < sb)) = some c))
    ∧ (∃ (s : State) (p : Packet) (set : Nat) (e : Nat) (k : Nat) (pos : Nat) (sb : Nat) (m : List Word) (r : Run), (m = wordsOf p.payload 8) ∧ (set = lmSet m) ∧ (set < 64) ∧ (s.last.run = some r) ∧ ((laceRunAt s r e k pos sb).isSome = true) ∧ (r.laceOps.find? (fun o => o.set == lmSet m && o.seq == lmSeq m && o.lop == lmLop m && o.ltype == lmType m && decide (o.issued < sb)) = none))
    ∧ (∃ (s : State) (p : Packet) (set : Nat) (m : List Word), (m = wordsOf p.payload 8) ∧ (set = lmSet m) ∧ (set < 64) ∧ (s.power.clocksOff = true))
    ∧ (∃ (s : State) (p : Packet) (set : Nat) (src : Nat) (len : Nat) (dst : Nat) (m : List Word), (m = wordsOf p.payload 8) ∧ (set = lmSet m) ∧ (set < 64) ∧ (s.power.clocksOff = false) ∧ (lastArmed s = false) ∧ (s.queues.bulk = none) ∧ (0 < len) ∧ (len % 65536 = 0) ∧ (physRange dst len = true) ∧ (physRange src len = true) ∧ (src < hbmBytes → poisoned s src len = false))
    ∧ (∃ (s : State) (p : Packet) (set : Nat) (m : List Word), (m = wordsOf p.payload 8) ∧ (set = lmSet m) ∧ (set < 64) ∧ (lastArmed s = true))
    ∧ (∃ (s : State) (p : Packet) (set : Nat) (src : Nat) (len : Nat) (m : List Word), (m = wordsOf p.payload 8) ∧ (set = lmSet m) ∧ (set < 64) ∧ (s.power.clocksOff = false) ∧ (lastArmed s = false) ∧ (s.queues.bulk = none) ∧ (0 < len) ∧ (len % 65536 = 0) ∧ (physRange src len = true) ∧ (src < hbmBytes → poisoned s src len = false)) :=
  ⟨⟨rdy, { hdr := [word (5 * 2 ^ 52 + 6 * 2 ^ 40 + 2 * 2 ^ 38 + 2 ^ 24 + 5 * 2 ^ 20), 0, 0, 0, 0, 0, 0, 0], payload := leBytes 8 (6 * 2 ^ 52 + 63 * 2 ^ 46) ++ zeros 56 }, 63, wordsOf (leBytes 8 (6 * 2 ^ 52 + 63 * 2 ^ 46) ++ zeros 56) 8, rfl, by decide +kernel, by decide +kernel, by decide +kernel, (by decide +kernel), by decide +kernel⟩,
   ⟨{ rdy with queues := { sets := [(63, { enabled := true, members := [5, 6], ops := [{ seq := 0, lop := 15, ltype := 1, queue := 3, id := 7 }] })] } }, { hdr := [word (5 * 2 ^ 52 + 6 * 2 ^ 40 + 2 * 2 ^ 38 + 2 ^ 24 + 5 * 2 ^ 20), 0, 0, 0, 0, 0, 0, 0], payload := leBytes 8 (6 * 2 ^ 52 + 63 * 2 ^ 46) ++ zeros 56 }, 63, { seq := 0, lop := 15, ltype := 1, queue := 3, id := 7 }, wordsOf (leBytes 8 (6 * 2 ^ 52 + 63 * 2 ^ 46) ++ zeros 56) 8, rfl, by decide +kernel, by decide +kernel, by decide +kernel, (by decide +kernel), by decide +kernel, by decide +kernel, by decide +kernel, by decide +kernel, (by decide +kernel), by decide +kernel⟩,
   ⟨{ rdy with queues := { sets := [(63, { enabled := true, ops := [{ seq := 0, lop := 15, ltype := 1, queue := 3, id := 7 }] })] } }, { hdr := [word (5 * 2 ^ 52 + 6 * 2 ^ 40 + 2 * 2 ^ 38 + 2 ^ 24 + 5 * 2 ^ 20), 0, 0, 0, 0, 0, 0, 0], payload := leBytes 8 (6 * 2 ^ 52 + 63 * 2 ^ 46) ++ zeros 56 }, 63, { seq := 0, lop := 15, ltype := 1, queue := 3, id := 7 }, [], wordsOf (leBytes 8 (6 * 2 ^ 52 + 63 * 2 ^ 46) ++ zeros 56) 8, rfl, by decide +kernel, by decide +kernel, by decide +kernel⟩,
   ⟨rdy, { hdr := [word (5 * 2 ^ 52 + 6 * 2 ^ 40 + 2 * 2 ^ 38 + 2 ^ 24 + 5 * 2 ^ 20), 0, 0, 0, 0, 0, 0, 0], payload := leBytes 8 (6 * 2 ^ 52 + 63 * 2 ^ 46) ++ zeros 56 }, 63, wordsOf (leBytes 8 (6 * 2 ^ 52 + 63 * 2 ^ 46) ++ zeros 56) 8, rfl, by decide +kernel, by decide +kernel, by decide +kernel⟩,
   ⟨{ rdy with queues := { laceDie := 1 } }, { hdr := [word (5 * 2 ^ 52 + 6 * 2 ^ 40 + 2 * 2 ^ 38 + 2 ^ 24 + 5 * 2 ^ 20), 0, 0, 0, 0, 0, 0, 0], payload := leBytes 8 (6 * 2 ^ 52 + 63 * 2 ^ 46) ++ zeros 56 }, 63, wordsOf (leBytes 8 (6 * 2 ^ 52 + 63 * 2 ^ 46) ++ zeros 56) 8, rfl, by decide +kernel, by decide +kernel, by decide +kernel⟩,
   ⟨{ rdy with queues := { sets := [(63, { members := [5] })] }, plan := { committed := zeros 64 ++ [5, 0] ++ List.replicate 62 255 } }, m0, { hdr := [word (5 * 2 ^ 52 + 6 * 2 ^ 40 + 2 * 2 ^ 38 + 2 ^ 24 + 5 * 2 ^ 20), 0, 0, 0, 0, 0, 0, 0], payload := leBytes 8 (6 * 2 ^ 52 + 63 * 2 ^ 46) ++ zeros 56 }, 63, wordsOf (leBytes 8 (6 * 2 ^ 52 + 63 * 2 ^ 46) ++ zeros 56) 8, rfl, by decide +kernel, by decide +kernel, ⟨by decide +kernel, by decide +kernel, by decide +kernel⟩, by decide +kernel⟩,
   ⟨rdy, m0, { hdr := [word (5 * 2 ^ 52 + 6 * 2 ^ 40 + 2 * 2 ^ 38 + 2 ^ 24 + 5 * 2 ^ 20), 0, 0, 0, 0, 0, 0, 0], payload := leBytes 8 (6 * 2 ^ 52 + 63 * 2 ^ 46) ++ zeros 56 }, 63, wordsOf (leBytes 8 (6 * 2 ^ 52 + 63 * 2 ^ 46) ++ zeros 56) 8, rfl, by decide +kernel, by decide +kernel, ⟨by decide +kernel, by decide +kernel, by decide +kernel⟩, by decide +kernel⟩,
   ⟨{ rdy with queues := { sets := [(63, { enabled := true })] } }, m0, { hdr := [word (5 * 2 ^ 52 + 6 * 2 ^ 40 + 2 * 2 ^ 38 + 2 ^ 24 + 5 * 2 ^ 20), 0, 0, 0, 0, 0, 0, 0], payload := leBytes 8 (6 * 2 ^ 52 + 63 * 2 ^ 46) ++ zeros 56 }, 63, wordsOf (leBytes 8 (6 * 2 ^ 52 + 63 * 2 ^ 46) ++ zeros 56) 8, rfl, by decide +kernel, by decide +kernel, ⟨by decide +kernel, by decide +kernel, by decide +kernel⟩, by decide +kernel, by decide +kernel⟩,
   ⟨rdy, { hdr := [word (5 * 2 ^ 52 + 6 * 2 ^ 40 + 2 * 2 ^ 38 + 2 ^ 24 + 5 * 2 ^ 20), 0, 0, 0, 0, 0, 0, 0], payload := leBytes 8 (6 * 2 ^ 52 + 63 * 2 ^ 46) ++ zeros 56 }, 63, wordsOf (leBytes 8 (6 * 2 ^ 52 + 63 * 2 ^ 46) ++ zeros 56) 8, rfl, by decide +kernel, by decide +kernel, by decide +kernel⟩,
   ⟨live [] run1 .running, { hdr := [], payload := leBytes 8 (15 * 2 ^ 42) }, 0, 24, 31, 0, 1, word (15 * 2 ^ 42) :: List.replicate 7 0, run1, by decide +kernel, by decide +kernel, by decide +kernel, (by decide +kernel), by decide +kernel⟩,
   ⟨live (image 1 [(0x10, 0, [2 ^ 63 + 24 * 2 ^ 57 + 31 * 2 ^ 52 + 2 ^ 10, 0])]) { run1 with laceOps := [{ tile := 63, entry := 1, issued := 0, seq := 0, lop := 15, ltype := 0, set := 0 }] } .running, { hdr := [], payload := leBytes 8 (15 * 2 ^ 42) }, 0, 24, 31, 0, 1, word (15 * 2 ^ 42) :: List.replicate 7 0, { run1 with laceOps := [{ tile := 63, entry := 1, issued := 0, seq := 0, lop := 15, ltype := 0, set := 0 }] }, { tile := 63, entry := 1, issued := 0, seq := 0, lop := 15, ltype := 0, set := 0 }, by decide +kernel, by decide +kernel, by decide +kernel, (by decide +kernel), by decide +kernel, by decide +kernel⟩,
   ⟨live (image 1 [(0x10, 0, [2 ^ 63 + 24 * 2 ^ 57 + 31 * 2 ^ 52 + 2 ^ 10, 0])]) run1 .running, { hdr := [], payload := leBytes 8 (15 * 2 ^ 42) }, 0, 24, 31, 0, 1, word (15 * 2 ^ 42) :: List.replicate 7 0, run1, by decide +kernel, by decide +kernel, by decide +kernel, (by decide +kernel), by decide +kernel, by decide +kernel⟩,
   ⟨{ rdy with power := { clocksOff := true } }, { hdr := [word (5 * 2 ^ 52 + 6 * 2 ^ 40 + 2 * 2 ^ 38 + 2 ^ 24 + 5 * 2 ^ 20), 0, 0, 0, 0, 0, 0, 0], payload := leBytes 8 (6 * 2 ^ 52 + 63 * 2 ^ 46) ++ zeros 56 }, 63, wordsOf (leBytes 8 (6 * 2 ^ 52 + 63 * 2 ^ 46) ++ zeros 56) 8, rfl, by decide +kernel, by decide +kernel, by decide +kernel⟩,
   ⟨rdy, { hdr := [word (5 * 2 ^ 52 + 6 * 2 ^ 40 + 2 * 2 ^ 38 + 2 ^ 24 + 5 * 2 ^ 20), 0, 0, 0, 0, 0, 0, 0], payload := leBytes 8 (6 * 2 ^ 52 + 63 * 2 ^ 46) ++ zeros 56 }, 63, hbmBytes - 65536, 65536, 0, wordsOf (leBytes 8 (6 * 2 ^ 52 + 63 * 2 ^ 46) ++ zeros 56) 8, rfl, by decide +kernel, by decide +kernel, by decide +kernel, (by decide +kernel), by decide +kernel, by decide +kernel, by decide +kernel, by decide +kernel, (by decide +kernel), by decide +kernel⟩,
   ⟨live [] run1 .running, { hdr := [word (5 * 2 ^ 52 + 6 * 2 ^ 40 + 2 * 2 ^ 38 + 2 ^ 24 + 5 * 2 ^ 20), 0, 0, 0, 0, 0, 0, 0], payload := leBytes 8 (6 * 2 ^ 52 + 63 * 2 ^ 46) ++ zeros 56 }, 63, wordsOf (leBytes 8 (6 * 2 ^ 52 + 63 * 2 ^ 46) ++ zeros 56) 8, rfl, by decide +kernel, by decide +kernel, by decide +kernel⟩,
   ⟨rdy, { hdr := [word (5 * 2 ^ 52 + 6 * 2 ^ 40 + 2 * 2 ^ 38 + 2 ^ 24 + 5 * 2 ^ 20), 0, 0, 0, 0, 0, 0, 0], payload := leBytes 8 (6 * 2 ^ 52 + 63 * 2 ^ 46) ++ zeros 56 }, 63, 0, 65536, wordsOf (leBytes 8 (6 * 2 ^ 52 + 63 * 2 ^ 46) ++ zeros 56) 8, rfl, by decide +kernel, by decide +kernel, by decide +kernel, (by decide +kernel), by decide +kernel, by decide +kernel, by decide +kernel, by decide +kernel, (by decide +kernel)⟩⟩

/-- States and operands that meet the hypotheses of each clause of SnapshotsAndInjections. -/
theorem test_SnapshotsAndInjections :
    (∃ (s : State) (u : State) (q : Nat) (id : Nat) (x : Snap), (u = begun s q id) ∧ (s.faults.snap = some x) ∧ (x.acks = 0) ∧ (x.origin = none) ∧ (x.status = 0))
    ∧ (∃ (s : State) (u : State) (q : Nat) (id : Nat) (x : Snap), (u = begun s q id) ∧ (s.faults.snap = some x) ∧ (x.acks = 0) ∧ (x.origin = none) ∧ (x.status ≠ 0))
    ∧ (∃ (s : State) (u : State) (q : Nat) (id : Nat) (x : Snap), (u = begun s q id) ∧ (s.faults.snap = some x))
    ∧ (∃ (s : State) (u : State) (q : Nat) (id : Nat) (x : Snap), (u = begun s q id) ∧ (s.faults.snap = some x) ∧ (x.acks ≠ 0))
    ∧ (∃ (s : State) (u : State) (q : Nat) (id : Nat) (f : Flight), (u = begun s q id) ∧ (Begins s q id 0x10 f) ∧ (fld (nth f.words 1) 51 0 % 64 = 0) ∧ (lastBusy u = true))
    ∧ (∃ (s : State) (u : State) (q : Nat) (id : Nat) (k : Nat) (f : Flight) (h : List Word), (u = begun s q id) ∧ (Begins s q id 0x10 f) ∧ (fld (nth f.words 1) 51 0 % 64 = 0) ∧ (lastBusy u = false) ∧ (u.faults.snap = none) ∧ (fld (nth f.words 1) 63 52 = 0xFFF) ∧ ((fabricTarget u true 0xFFF (fld (nth f.words 1) 51 0 : Int)).isOk = true) ∧ (k = fld (nth f.words 2) 63 32) ∧ (h = snapHeader u k k))
    ∧ (∃ (s : State) (u : State) (via : Via) (q : Nat) (id : Nat) (b : Nat) (v : List Byte), (u = begun s q id) ∧ (Writable s via 0x7000 0x12) ∧ (v.length = 16) ∧ (lastArmed s = false) ∧ (fld (wordAt v 0) 63 52 = ownChip s) ∧ (restoreSlot s (ownChip s) (wordAt v 1).toNat (fld (wordAt v 0) 31 0) = some b))
    ∧ (∃ (s : State) (u : State) (via : Via) (q : Nat) (id : Nat) (v : List Byte), (u = begun s q id) ∧ (Writable s via 0x7000 0x12) ∧ (v.length = 16) ∧ (lastArmed s = true))
    ∧ (∃ (s : State) (u : State) (q : Nat) (id : Nat) (k : Nat) (unit : Nat) (base : Nat), (u = begun s q id) ∧ (s.faults.restore = some (k, unit, base)) ∧ (s.faults.rollback ≠ .restoring) ∧ (s.faults.restoreOut = 0) ∧ (s.faults.restoreBad = 0))
    ∧ (∃ (s : State) (u : State) (q : Nat) (id : Nat) (k : Nat) (unit : Nat) (base : Nat), (u = begun s q id) ∧ (s.faults.restore = some (k, unit, base)) ∧ (s.faults.rollback ≠ .restoring) ∧ (s.faults.restoreOut ≠ 0))
    ∧ (∃ (s : State) (u : State) (q : Nat) (id : Nat) (k : Nat) (unit : Nat) (base : Nat), (u = begun s q id) ∧ (s.faults.restore = some (k, unit, base)) ∧ (s.faults.rollback ≠ .restoring) ∧ (s.faults.restoreOut = 0) ∧ (s.faults.restoreBad = 0))
    ∧ (∃ (s : State) (u : State) (q : Nat) (id : Nat) (k : Nat) (unit : Nat) (base : Nat), (u = begun s q id) ∧ (s.faults.restore = some (k, unit, base)) ∧ (s.faults.rollback ≠ .restoring) ∧ (s.faults.restoreOut = 0) ∧ (s.faults.restoreBad ≠ 0))
    ∧ (∃ (s : State) (u : State) (q : Nat) (id : Nat) (kind : Nat) (unit : Nat) (f : Flight), (u = begun s q id) ∧ (Begins s q id 0x11 f) ∧ (kind = fld (nth f.words 1) 63 56) ∧ (unit = fld (nth f.words 1) 55 40) ∧ (injectUnits kind = 0))
    ∧ (∃ (s : State) (u : State) (q : Nat) (id : Nat) (kind : Nat) (unit : Nat) (f : Flight), (u = begun s q id) ∧ (Begins s q id 0x11 f) ∧ (kind = fld (nth f.words 1) 63 56) ∧ (unit = fld (nth f.words 1) 55 40) ∧ (unit < injectUnits kind) ∧ ((nth f.words 2).toNat = 0 ∨ lastRunning u = true))
    ∧ (∃ (s : State) (u : State) (q : Nat) (id : Nat) (n : Nat) (ks : List Nat), (u = begun s q id) ∧ (rget s Reg.tryonIntervalS ≠ 0) ∧ (ks = [1, 2, 3, 4, 5].filter (fun n => (rget s Reg.tryonKinds).testBit (n - 1))) ∧ (n = s.faults.tryonNext) ∧ (ks ≠ []))
    ∧ (∃ (s : State) (u : State) (q : Nat) (id : Nat), (u = begun s q id) ∧ (rget s Reg.tryonIntervalS = 0))
    ∧ (∃ (s : State) (u : State) (q : Nat) (id : Nat) (i : Injection), (u = begun s q id) ∧ (s.faults.rollback = .none) ∧ (clearing s = false) ∧ (s.faults.injects.find? (injectDue s) = some i))
    ∧ (∃ (s : State) (u : State) (q : Nat) (id : Nat) (i : Injection), (u = begun s q id) ∧ ((s.faults.injects.filter (·.fired)).getLast? = some i)) :=
  ⟨⟨{ rdy with faults := { snap := some { step := 1, slot := 1 } } }, begun ({ rdy with faults := { snap := some { step := 1, slot := 1 } } }) 0 0, 0, 0, { step := 1, slot := 1 }, rfl, by decide +kernel, by decide +kernel, by decide +kernel, (by decide +kernel)⟩,
   ⟨{ rdy with faults := { snap := some { step := 1, slot := 1, status := 1 } } }, begun ({ rdy with faults := { snap := some { step := 1, slot := 1, status := 1 } } }) 0 0, 0, 0, { step := 1, slot := 1, status := 1 }, rfl, by decide +kernel, by decide +kernel, by decide +kernel, (by decide +kernel)⟩,
   ⟨{ rdy with faults := { snap := some { step := 1, slot := 1 } } }, _, 0, 0, { step := 1, slot := 1 }, rfl, by decide +kernel⟩,
   ⟨{ rdy with faults := { snap := some { step := 1, slot := 1, acks := 1 } } }, begun ({ rdy with faults := { snap := some { step := 1, slot := 1, acks := 1 } } }) 0 0, 0, 0, { step := 1, slot := 1, acks := 1 }, rfl, by decide +kernel, by decide +kernel⟩,
   ⟨inFlight (live [] run1 .running) [0x10 * 2 ^ 56, 64], begun (inFlight (live [] run1 .running) [0x10 * 2 ^ 56, 64]) 3 7, 3, 7, cmd [0x10 * 2 ^ 56, 64], rfl, ⟨by decide +kernel, by decide +kernel, by decide +kernel, by decide +kernel, (by decide +kernel)⟩, by decide +kernel, by decide +kernel⟩,
   ⟨inFlight ({ rdy with plan := { committed := zeros 64 ++ [5, 0] ++ List.replicate 62 255 } }) [0x10 * 2 ^ 56, 0xFFF * 2 ^ 52 + 64, 3 * 2 ^ 32], begun (inFlight ({ rdy with plan := { committed := zeros 64 ++ [5, 0] ++ List.replicate 62 255 } }) [0x10 * 2 ^ 56, 0xFFF * 2 ^ 52 + 64, 3 * 2 ^ 32]) 3 7, 3, 7, 3, cmd [0x10 * 2 ^ 56, 0xFFF * 2 ^ 52 + 64, 3 * 2 ^ 32], snapHeader (begun (inFlight ({ rdy with plan := { committed := zeros 64 ++ [5, 0] ++ List.replicate 62 255 } }) [0x10 * 2 ^ 56, 0xFFF * 2 ^ 52 + 64, 3 * 2 ^ 32]) 3 7) 3 3, rfl, ⟨by decide +kernel, by decide +kernel, by decide +kernel, by decide +kernel, (by decide +kernel)⟩, by decide +kernel, by decide +kernel, by decide +kernel, (by decide +kernel), by decide +kernel, by decide +kernel, rfl⟩,
   ⟨{ rdy with hbm := { mem := ({} : Mem).writeN 0 (leBytes 8 (2 ^ 56 + 2 ^ 55 + 3)) } }, begun ({ rdy with hbm := { mem := ({} : Mem).writeN 0 (leBytes 8 (2 ^ 56 + 2 ^ 55 + 3)) } }) 0 0, m0, 0, 0, 0, leBytes 8 (5 * 2 ^ 52 + 3) ++ zeros 8, rfl, ⟨by decide +kernel, by decide +kernel, by decide +kernel⟩, by decide +kernel, by decide +kernel, by decide +kernel, (by decide +kernel)⟩,
   ⟨live [] {} .armed, _, m0, 0, 0, zeros 16, rfl, ⟨by decide +kernel, by decide +kernel, by decide +kernel⟩, by decide +kernel, by decide +kernel⟩,
   ⟨{ rdy with faults := { restore := some (1, 5, 0), restoreOut := 0 } }, _, 0, 0, 1, 5, 0, rfl, by decide +kernel, by decide +kernel, by decide +kernel, (by decide +kernel)⟩,
   ⟨{ rdy with faults := { restore := some (1, 5, 0), restoreOut := 1 } }, _, 0, 0, 1, 5, 0, rfl, by decide +kernel, by decide +kernel, by decide +kernel⟩,
   ⟨{ rdy with faults := { restore := some (1, 5, 0) } }, begun ({ rdy with faults := { restore := some (1, 5, 0) } }) 0 0, 0, 0, 1, 5, 0, rfl, by decide +kernel, by decide +kernel, by decide +kernel, (by decide +kernel)⟩,
   ⟨{ rdy with faults := { restore := some (1, 5, 0), restoreBad := 1 } }, _, 0, 0, 1, 5, 0, rfl, by decide +kernel, by decide +kernel, by decide +kernel, (by decide +kernel)⟩,
   ⟨inFlight (rdy) [0x11 * 2 ^ 56, 6 * 2 ^ 56], begun (inFlight (rdy) [0x11 * 2 ^ 56, 6 * 2 ^ 56]) 3 7, 3, 7, 6, 0, cmd [0x11 * 2 ^ 56, 6 * 2 ^ 56], rfl, ⟨by decide +kernel, by decide +kernel, by decide +kernel, by decide +kernel, (by decide +kernel)⟩, by decide +kernel, by decide +kernel, by decide +kernel⟩,
   ⟨inFlight (rdy) [0x11 * 2 ^ 56, 3 * 2 ^ 56 + 7 * 2 ^ 40], begun (inFlight (rdy) [0x11 * 2 ^ 56, 3 * 2 ^ 56 + 7 * 2 ^ 40]) 3 7, 3, 7, 3, 7, cmd [0x11 * 2 ^ 56, 3 * 2 ^ 56 + 7 * 2 ^ 40], rfl, ⟨by decide +kernel, by decide +kernel, by decide +kernel, by decide +kernel, (by decide +kernel)⟩, by decide +kernel, by decide +kernel, by decide +kernel, Or.inl (by decide +kernel)⟩,
   ⟨rset (rset rdy Reg.tryonIntervalS 1) Reg.tryonKinds 31, begun (rset (rset rdy Reg.tryonIntervalS 1) Reg.tryonKinds 31) 0 0, 0, 0, 0, [1, 2, 3, 4, 5], rfl, by decide +kernel, by decide +kernel, rfl, by decide +kernel⟩,
   ⟨rdy, begun (rdy) 0 0, 0, 0, rfl, by decide +kernel⟩,
   ⟨{ rdy with faults := { injects := [⟨5, 0, 0, false⟩] } }, begun ({ rdy with faults := { injects := [⟨5, 0, 0, false⟩] } }) 0 0, 0, 0, ⟨5, 0, 0, false⟩, rfl, by decide +kernel, by decide +kernel, by decide +kernel⟩,
   ⟨{ rdy with faults := { injects := [⟨5, 0, 0, true⟩] } }, begun ({ rdy with faults := { injects := [⟨5, 0, 0, true⟩] } }) 0 0, 0, 0, ⟨5, 0, 0, true⟩, rfl, by decide +kernel⟩⟩

/-- States and operands that meet the hypotheses of each clause of SensesAndDies. -/
theorem test_SensesAndDies :
    (∃ (s : State) (d : Nat), ((tap s d).isOpen = false) ∧ (3 ≤ (tap s d).openRun))
    ∧ (∃ (s : State) (d : Nat), ((tap s d).isOpen = true))
    ∧ (∃ (s : State) (d : Nat), ((tap s d).openRun < 3))
    ∧ (∃ (s : State), ((returnsNow s).inBounds = true) ∧ (s.power.inRun + 1 < 1000))
    ∧ (∃ (s : State), ((returnsNow s).inBounds = true) ∧ (999 ≤ s.power.inRun))
    ∧ (∃ (s : State) (c : Nat), ((returnsNow s).inBounds = false) ∧ (9 ≤ s.power.outRun) ∧ (returnCandidates s (returnsNow s) = [c]) ∧ ((column s c).broken = false))
    ∧ (∃ (s : State), ((returnsNow s).inBounds = false) ∧ (∀ c, returnCandidates s (returnsNow s) ≠ [c]))
    ∧ (∃ (s : State) (d : Nat), (72 ≤ d) ∧ (d < dieCount) ∧ ((tap s d).dead = false) ∧ (weltsDown s d = true) ∧ (dieUsed s d = false))
    ∧ (∃ (s : State) (d : Nat), (d < 72) ∧ ((tap s d).dead = false) ∧ (weltsDown s d = true) ∧ (dieUsed s d = false))
    ∧ (∃ (s : State) (d : Nat), ((tap s d).dead = true ∨ weltsDown s d = false))
    ∧ (∃ (s : State) (via : Via) (mc : Int), (Writable s via 0x1300 1) ∧ (0 ≤ mc) ∧ (mc ≤ 70000))
    ∧ (∃ (s : State) (via : Via) (mc : Int), (Writable s via 0x1300 1) ∧ (mc < 0 ∨ 70000 < mc))
    ∧ (∃ (s : State), (s.power.coolantStale = false))
    ∧ (∃ (s : State), (s.power.coolantStale = true))
    ∧ (∃ (s : State) (d : Nat) (p : Nat), (p ∈ weltPorts d) ∧ (∀ y ∈ weltPorts d, y ≠ p → (welt s d y).state ≠ .up) ∧ ((welt s d p).state = .up))
    ∧ (∃ (s : State) (d : Nat), (∀ y ∈ weltPorts d, (welt s d y).state ≠ .up)) :=
  ⟨⟨{ rdy with power := { taps := [(100, { openRun := 3 })] } }, 100, by decide +kernel, by decide +kernel⟩,
   ⟨{ rdy with power := { taps := [(100, { isOpen := true })] } }, 100, by decide +kernel⟩,
   ⟨{ rdy with power := { taps := [(100, { openRun := 2 })] } }, 100, by decide +kernel⟩,
   ⟨ret98, test_ret98, by decide +kernel⟩,
   ⟨ret99, test_ret99, by decide +kernel⟩,
   ⟨retOut, 0, test_retOut, by decide +kernel, test_retOut_column, by decide +kernel⟩,
   ⟨rset { rdy with power := { outRun := 9, inHist := [100000000] } } Reg.convLossFixedW 0, by decide +kernel, by intro c; rw [show returnCandidates (rset { rdy with power := { outRun := 9, inHist := [100000000] } } Reg.convLossFixedW 0) (returnsNow (rset { rdy with power := { outRun := 9, inHist := [100000000] } } Reg.convLossFixedW 0)) = [] from by decide +kernel]; exact List.cons_ne_nil _ _ |>.symm⟩,
   ⟨rdy, 100, by decide +kernel, by decide +kernel, by decide +kernel, (by decide +kernel), by decide +kernel⟩,
   ⟨rdy, 71, by decide +kernel, by decide +kernel, by decide +kernel, (by decide +kernel)⟩,
   ⟨{ rdy with power := { taps := [(71, { dead := true })] } }, 71, Or.inl (by decide +kernel)⟩,
   ⟨rdy, m0, 70000, ⟨by decide +kernel, by decide +kernel, by decide +kernel⟩, by decide +kernel, by decide +kernel⟩,
   ⟨rdy, m0, 70001, ⟨by decide +kernel, by decide +kernel, by decide +kernel⟩, Or.inr (by decide)⟩,
   ⟨rdy, by decide +kernel⟩,
   ⟨{ rdy with power := { coolantStale := true } }, by decide +kernel⟩,
   ⟨{ rdy with pkg := { welts := [(1601, { state := .up })] } }, 100, 1, by decide +kernel, by decide +kernel, by decide +kernel⟩,
   ⟨rdy, 100, by decide +kernel⟩⟩

/-- States and operands that meet the hypotheses of each clause of HeatPowerAndCurrent. -/
theorem test_HeatPowerAndCurrent :
    (∃ (s : State) (u : State) (v : State) (w : State) (ds : List (Nat × Int)) (js : List Int) (t : Int), (u = ds.foldl (fun s x => correctDiode s x.1 x.2) (setPower (s.power.tStars.foldl (fun s x => correctRing s x.1 x.2) s) (fun p => { p with tStars := [] }))) ∧ (js = junctions u) ∧ (t = (hottest js).2) ∧ (v = publishTemps u js) ∧ (w = setPower v (fun p => { p with clearUs := if t < 100000 then (if rgetI s Reg.tMaxMc < 100000 then p.clearUs + rget s Reg.evalPeriodUs else 0) else 0 })) ∧ (nextThermal s.power.thermal t = s.power.thermal))
    ∧ (∃ (s : State) (u : State) (v : State) (w : State) (ds : List (Nat × Int)) (js : List Int) (t : Int), (u = ds.foldl (fun s x => correctDiode s x.1 x.2) (setPower (s.power.tStars.foldl (fun s x => correctRing s x.1 x.2) s) (fun p => { p with tStars := [] }))) ∧ (js = junctions u) ∧ (t = (hottest js).2) ∧ (v = publishTemps u js) ∧ (w = setPower v (fun p => { p with clearUs := if t < 100000 then (if rgetI s Reg.tMaxMc < 100000 then p.clearUs + rget s Reg.evalPeriodUs else 0) else 0 })) ∧ (nextThermal s.power.thermal t ≠ s.power.thermal))
    ∧ (∃ (s : State) (u : State) (via : Via), (Writable s via 0x1300 0xE) ∧ (s.power.thermal = .shutdown) ∧ (60000000 ≤ s.power.clearUs) ∧ (u = enterThermal (emit (setPower s (fun p => { p with tripped := false, clocksOff := false, clearUs := 0 })) (.pin 1 true)) (fallState .limit (rgetI s Reg.tMaxMc))))
    ∧ (∃ (s : State) (via : Via), (Writable s via 0x1300 0xE) ∧ (s.power.thermal ≠ .shutdown))
    ∧ (∃ (s : State) (m : Nat) (ina : Nat) (rev : Bool) (want : Frac) (b : Frac), (want = ballast (Frac.ofInt (s.power.measured.headD 0)) (modelCurrent s)) ∧ (b = (if fle want (Frac.ofInt (72 * 1000 * rget s Reg.ballastMaxA)) then want else Frac.ofInt (72 * 1000 * rget s Reg.ballastMaxA))) ∧ (s.power.measured.length < 28) ∧ (rget s Reg.storedBaseMj * 2 * 10 ^ 12 + rget s Reg.storeLNh * m * m ≤ 6 * 10 ^ 15) ∧ (rev = false ∨ ina ≤ 5000))
    ∧ (∃ (s : State) (m : Nat) (ina : Nat) (rev : Bool) (want : Frac) (b : Frac), (want = ballast (Frac.ofInt (s.power.measured.headD 0)) (modelCurrent s)) ∧ (b = (if fle want (Frac.ofInt (72 * 1000 * rget s Reg.ballastMaxA)) then want else Frac.ofInt (72 * 1000 * rget s Reg.ballastMaxA))) ∧ (s.power.measured.length < 28) ∧ (lastRunning s = false) ∧ (rget s Reg.storedBaseMj * 2 * 10 ^ 12 + rget s Reg.storeLNh * m * m ≤ 6 * 10 ^ 15) ∧ (rev = true) ∧ (5000 < ina))
    ∧ (∃ (s : State) (mw : Int), (lastRunning s = false) ∧ (capExceeded s (windowMean s mw) = false))
    ∧ (∃ (s : State) (mw : Int), (lastRunning s = false) ∧ (capExceeded s (windowMean s mw) = true) ∧ (s.power.capOver = true) ∧ (s.power.capRaised = false))
    ∧ (∃ (s : State), (lastRunning s = true))
    ∧ (∃ (s : State) (rail : Nat) (high : Bool), (s.reset'.pwrOk = true) ∧ (rail < 9) ∧ (rget s (Reg.railStatus.at rail) = (if high then 2 else 1)) ∧ (lastRunning s = false))
    ∧ (∃ (s : State) (rail : Nat) (high : Bool), (s.reset'.pwrOk = true) ∧ (rail < 9) ∧ (rget s (Reg.railStatus.at rail) = (if high then 2 else 1)) ∧ (lastRunning s = true))
    ∧ (∃ (s : State) (rail : Nat) (high : Bool), (rget s (Reg.railStatus.at rail) ≠ (if high then 2 else 1))) :=
  ⟨⟨rdy, hotU rdy, hotV rdy, hotW rdy, [], junctions (hotU rdy), (hottest (junctions (hotU rdy))).2, rfl, rfl, rfl, rfl, rfl, by decide +kernel⟩,
   ⟨({ rdy with power := { thermal := .limit } }), hotU ({ rdy with power := { thermal := .limit } }), hotV ({ rdy with power := { thermal := .limit } }), hotW ({ rdy with power := { thermal := .limit } }), [], junctions (hotU ({ rdy with power := { thermal := .limit } })), (hottest (junctions (hotU ({ rdy with power := { thermal := .limit } })))).2, rfl, rfl, rfl, rfl, rfl, by decide +kernel⟩,
   ⟨{ rdy with power := { thermal := .shutdown, clearUs := 60000000 } }, _, m0, ⟨by decide +kernel, by decide +kernel, by decide +kernel⟩, by decide +kernel, by decide +kernel, rfl⟩,
   ⟨{ rdy with power := { thermal := .limit } }, m0, ⟨by decide +kernel, by decide +kernel, by decide +kernel⟩, by decide +kernel⟩,
   ⟨rdy, 0, 5000, true, _, _, rfl, rfl, by decide +kernel, by decide +kernel, Or.inr (by decide +kernel)⟩,
   ⟨rdy, 0, 5001, true, _, _, rfl, rfl, by decide +kernel, by decide +kernel, by decide +kernel, (by decide +kernel), by decide +kernel⟩,
   ⟨rdy, 0, by decide +kernel, by decide +kernel⟩,
   ⟨{ rdy with power := { capOver := true, inHist := [10 ^ 12] } }, 0, by decide +kernel, by decide +kernel, by decide +kernel, (by decide +kernel)⟩,
   ⟨live [] run1 .running, by decide +kernel⟩,
   ⟨rset rdy (Reg.railStatus.at 8) 1, 8, false, by decide +kernel, by decide +kernel, by decide +kernel, (by decide +kernel)⟩,
   ⟨rset (live [] run1 .running) (Reg.railStatus.at 8) 1, 8, false, by decide +kernel, by decide +kernel, by decide +kernel, (by decide +kernel)⟩,
   ⟨rdy, 8, true, by decide +kernel⟩⟩

/-- States and operands that meet the hypotheses of each clause of WeltsTrainAndTest. -/
theorem test_WeltsTrainAndTest :
    (∃ (s : State) (d : Nat) (p : Nat) (f : WeltFlit), ((welt s d p).state = .up ∨ (welt s d p).state = .degraded) ∧ (crc32c (wfBody f.words) = wfCrc f) ∧ (wfSeq f = (welt s d p).rxSeq))
    ∧ (∃ (s : State) (d : Nat) (p : Nat) (f : WeltFlit), ((welt s d p).state = .up ∨ (welt s d p).state = .degraded) ∧ (crc32c (wfBody f.words) ≠ wfCrc f))
    ∧ (∃ (s : State) (d : Nat) (p : Nat) (f : WeltFlit), (wfNak f = true) ∧ (wfCrCount f = 0) ∧ ((welt s d p).acked = (wfAck f + 1) % 256) ∧ ((welt s d p).sent.any (fun y => wfSeq y == (wfAck f + 1) % 256) = true))
    ∧ (∃ (s : State) (d : Nat) (p : Nat) (f : WeltFlit), ((welt s d p).state = .up) ∧ (crc32c (wfBody f.words) = wfCrc f) ∧ (wfSeq f ≠ (welt s d p).rxSeq))
    ∧ (∃ (s : State) (d : Nat) (p : Nat), ((welt s d p).state = .training))
    ∧ (∃ (s : State) (d : Nat) (p : Nat) (failed : Nat), ((welt s d p).state = .training) ∧ (failed ≤ 4))
    ∧ (∃ (s : State) (d : Nat) (p : Nat) (failed : Nat), ((welt s d p).state = .training) ∧ (4 < failed) ∧ (failed ≤ 32))
    ∧ (∃ (s : State) (d : Nat) (p : Nat) (failed : Nat) (oneHalf : Bool), ((welt s d p).state = .training) ∧ (32 < failed ∨ (4 < failed ∧ oneHalf = false)))
    ∧ (∃ (s : State) (d : Nat) (p : Nat), ((welt s d p).state = .training))
    ∧ (∃ (s : State) (d : Nat) (p : Nat), ((welt s d p).state = .training))
    ∧ (∃ (s : State) (d : Nat) (p : Nat), ((welt s d p).state = .down) ∧ ((welt s d p).noRev = true ∨ diesRun s = false))
    ∧ (∃ (s : State) (d : Nat) (p : Nat), ((welt s d p).state = .down) ∧ ((welt s d p).noRev = false) ∧ (diesRun s = true))
    ∧ (∃ (s : State) (d : Nat) (p : Nat), ((welt s d p).state ≠ .down))
    ∧ (∃ (s : State) (d : Nat) (p : Nat), ((welt s d p).state = .up) ∧ (16 ≤ (welt s d p).failedReplays) ∧ (lastRunning s = false))
    ∧ (∃ (s : State) (d : Nat) (p : Nat), ((welt s d p).state = .up) ∧ (16 ≤ (welt s d p).failedReplays) ∧ (lastRunning s = true))
    ∧ (∃ (s : State) (via : Via) (tile : Nat), (Writable s via 0x3020 5) ∧ (tile ≤ 71) ∧ (s.pkg.testing = none) ∧ (tileServes s tile = false))
    ∧ (∃ (s : State) (via : Via) (tile : Nat), (Writable s via 0x3020 5) ∧ (tileServes s tile = true))
    ∧ (∃ (s : State) (tile : Nat) (r : SelfTest), (s.pkg.testing = some tile) ∧ (s.pkg.testNext = []) ∧ (s.reset'.boot = .ready) ∧ (r = ⟨0, false, false, false, false⟩))
    ∧ (∃ (s : State) (tile : Nat) (r : SelfTest), (s.pkg.testing = some tile) ∧ (s.reset'.boot = .ready) ∧ (r.zero = true))
    ∧ (∃ (s : State), (s.pkg.testNext = []) ∧ (s.reset'.boot = .ready))
    ∧ (∃ (s : State) (tile : Nat) (ts : List Nat), (s.pkg.testNext = tile :: ts) ∧ (s.reset'.boot = .dies))
    ∧ (∃ (s : State), (s.pkg.testing = none))
    ∧ (∃ (s : State) (via : Via) (tile : Nat), (Writable s via 0x3000 8) ∧ (tile ≤ 71) ∧ (tileServes s tile = false))
    ∧ (∃ (s : State) (via : Via) (tile : Nat), (Writable s via 0x3000 8) ∧ (71 < tile ∨ tileServes s tile = true)) :=
  ⟨⟨{ rdy with pkg := { welts := [(16 * 71 + 3, { state := .degraded })] } }, 71, 3, flit, Or.inr (by decide +kernel), test_flit, by decide +kernel⟩,
   ⟨{ rdy with pkg := { welts := [(16 * 71 + 3, { state := .up })] } }, 71, 3, badFlit, Or.inl (by decide +kernel), test_badFlit⟩,
   ⟨{ rdy with pkg := { welts := [(16 * 71 + 3, { state := .up, acked := 1, sent := [⟨List.replicate 8 0 ++ [word (2 ^ 48), 0]⟩] })] } }, 71, 3, ⟨List.replicate 8 0 ++ [word (2 ^ 39), 0]⟩, by decide +kernel, by decide +kernel, by decide +kernel, (by decide +kernel)⟩,
   ⟨{ rdy with pkg := { welts := [(16 * 71 + 3, { state := .up, rxSeq := 1 })] } }, 71, 3, flit, by decide +kernel, test_flit, by decide +kernel⟩,
   ⟨{ rdy with pkg := { welts := [(16 * 71 + 3, { state := .training })] } }, 71, 3, by decide +kernel⟩,
   ⟨{ rdy with pkg := { welts := [(16 * 71 + 3, { state := .training })] } }, 71, 3, 4, by decide +kernel, by decide +kernel⟩,
   ⟨{ rdy with pkg := { welts := [(16 * 71 + 3, { state := .training })] } }, 71, 3, 32, by decide +kernel, by decide +kernel, by decide +kernel⟩,
   ⟨{ rdy with pkg := { welts := [(16 * 71 + 3, { state := .training })] } }, 71, 3, 5, false, by decide +kernel, Or.inr ⟨by decide, rfl⟩⟩,
   ⟨{ rdy with pkg := { welts := [(16 * 71 + 3, { state := .training })] } }, 71, 3, by decide +kernel⟩,
   ⟨{ rdy with pkg := { welts := [(16 * 71 + 3, { state := .training })] } }, 71, 3, by decide +kernel⟩,
   ⟨{ rdy with pkg := { welts := [(16 * 71 + 3, { state := .down, noRev := true })] } }, 71, 3, by decide +kernel, Or.inl (by decide +kernel)⟩,
   ⟨{ rdy with pkg := { welts := [(16 * 71 + 3, { state := .down })] } }, 71, 3, by decide +kernel, by decide +kernel, by decide +kernel⟩,
   ⟨{ rdy with pkg := { welts := [(16 * 71 + 3, { state := .loopback })] } }, 71, 3, by decide +kernel⟩,
   ⟨{ rdy with pkg := { welts := [(16 * 71 + 3, { state := .up, failedReplays := 16 })] } }, 71, 3, by decide +kernel, by decide +kernel, by decide +kernel⟩,
   ⟨{ live [] run1 .running with pkg := { welts := [(16 * 71 + 3, { state := .up, failedReplays := 16 })] } }, 71, 3, by decide +kernel, by decide +kernel, by decide +kernel⟩,
   ⟨rdy, m0, 71, ⟨by decide +kernel, by decide +kernel, by decide +kernel⟩, by decide +kernel, by decide +kernel, by decide +kernel⟩,
   ⟨live (image 1 [(1, 0, [0])]) run1 .running, m0, physTile rdy 0, ⟨by decide +kernel, by decide +kernel, by decide +kernel⟩, by decide +kernel⟩,
   ⟨{ rdy with pkg := { testing := some 71 } }, 71, ⟨0, false, false, false, false⟩, by decide +kernel, by decide +kernel, by decide +kernel, (by decide +kernel)⟩,
   ⟨{ rdy with pkg := { testing := some 71 } }, 71, ⟨0, false, false, false, true⟩, by decide +kernel, by decide +kernel, by decide +kernel⟩,
   ⟨rdy, by decide +kernel, by decide +kernel⟩,
   ⟨{ rdy with pkg := { testNext := [71] }, reset' := { boot := .dies } }, 71, [], by decide +kernel, by decide +kernel⟩,
   ⟨rdy, by decide +kernel⟩,
   ⟨rdy, m0, 71, ⟨by decide +kernel, by decide +kernel, by decide +kernel⟩, by decide +kernel, by decide +kernel⟩,
   ⟨rdy, m0, 72, ⟨by decide +kernel, by decide +kernel, by decide +kernel⟩, Or.inl (by decide)⟩⟩

/-- States and operands that meet the hypotheses of each clause of ResetsAndBringUp. -/
theorem test_ResetsAndBringUp :
    (∃ (s : State), (s.reset'.pwrOk = true) ∧ (poweredUp s = true) ∧ (s.reset'.held = false))
    ∧ (∃ (s : State), (s.reset'.held = true))
    ∧ (∃ (s : State), (s.reset'.held = true))
    ∧ (∃ (s : State), (s.reset'.held = false))
    ∧ (∃ (s : State) (via : Via), (Writable s via 0x3000 9) ∧ (s.reset'.boot = .ready ∨ s.reset'.boot = .excluded) ∧ (s.reset'.held = false))
    ∧ (∃ (s : State) (straps : Nat) (slot : Nat), (s.reset'.boot = .waitPower) ∧ (s.reset'.pwrOk = false) ∧ (straps < 16) ∧ (slot < 64))
    ∧ (∃ (s : State), (s.reset'.pwrOk = true) ∧ (poweredUp s = true))
    ∧ (∃ (s : State), (s.reset'.boot ≠ .off))
    ∧ (∃ (s : State), (s.reset'.boot = .off))
    ∧ (∃ (s : State), (s.reset'.boot ≠ .off))
    ∧ (∃ (s : State) (u : State) (banks : List FwImage) (img : FwImage), (s.reset'.boot = .rom) ∧ (u = { s with reset' := { s.reset' with flash := { s.reset'.flash with images := bankImages s (banks.take 2) } } }) ∧ (bootImage s ((bankImages s (banks.take 2)).map (·.2)) = some img))
    ∧ (∃ (s : State) (u : State) (banks : List FwImage) (img : FwImage), (s.reset'.boot = .rom) ∧ (u = { s with reset' := { s.reset' with flash := { s.reset'.flash with images := bankImages s (banks.take 2) } } }) ∧ (bootImage s ((bankImages s (banks.take 2)).map (·.2)) = none) ∧ (recoveryAllowed s = true) ∧ (bootImage s (banks.drop 2) = some img))
    ∧ (∃ (s : State) (u : State) (banks : List FwImage), (s.reset'.boot = .rom) ∧ (u = { s with reset' := { s.reset' with flash := { s.reset'.flash with images := bankImages s (banks.take 2) } } }) ∧ (bootImage s ((bankImages s (banks.take 2)).map (·.2)) = none) ∧ (recoveryAllowed s = false ∨ bootImage s (banks.drop 2) = none))
    ∧ (∃ (s : State) (img : FwImage), (s.reset'.boot = .fwHalt) ∧ (imageOk s img = true))
    ∧ (∃ (s : State) (img : FwImage), (s.reset'.boot = .fwHalt) ∧ (imageOk s img = false))
    ∧ (∃ (s : State), (s.reset'.boot = .dies) ∧ (s.reset'.held = false) ∧ (s.power.tripped = false) ∧ (weltsSettled s = true) ∧ (s.reset'.full = false))
    ∧ (∃ (s : State), (s.reset'.boot = .dies) ∧ (s.reset'.held = false) ∧ (s.power.tripped = false) ∧ (weltsSettled s = true) ∧ (s.reset'.full = true))
    ∧ (∃ (s : State), (s.reset'.boot = .memory))
    ∧ (∃ (s : State), (s.reset'.boot = .dies ∨ s.reset'.boot = .memory ∨ s.reset'.boot = .map ∨ ((s.reset'.boot = .rom ∨ s.reset'.boot = .fwHalt ∨ s.reset'.boot = .waitPower) ∧ s.reset'.pwrOk = true)))
    ∧ (∃ (s : State), (s.reset'.boot = .ready ∨ s.reset'.boot = .excluded ∨ s.reset'.boot = .off))
    ∧ (∃ (s : State) (via : Via), (Writable s via 0x3000 0xB) ∧ (s.reset'.boot = .excluded))
    ∧ (∃ (s : State), (s.reset'.boot ≠ .off) ∧ (calibNow s ≠ s.reset'.flash.calib)) :=
  ⟨⟨rdy, by decide +kernel, by decide +kernel, by decide +kernel⟩,
   ⟨{ rdy with reset' := { boot := .ready, pwrOk := true, held := true } }, by decide +kernel⟩,
   ⟨{ rdy with reset' := { boot := .ready, pwrOk := true, held := true } }, by decide +kernel⟩,
   ⟨rdy, by decide +kernel⟩,
   ⟨{ rdy with reset' := { boot := .excluded, pwrOk := true } }, m0, ⟨by decide +kernel, by decide +kernel, by decide +kernel⟩, by decide +kernel, by decide +kernel⟩,
   ⟨{ rdy with reset' := { boot := .waitPower } }, 2, 63, by decide +kernel, by decide +kernel, by decide +kernel, (by decide +kernel)⟩,
   ⟨rdy, by decide +kernel, by decide +kernel⟩,
   ⟨rdy, by decide +kernel⟩,
   ⟨{ rdy with reset' := { boot := .off, pwrOk := true } }, by decide +kernel⟩,
   ⟨{ rdy with reset' := { boot := .rom, pwrOk := true } }, by decide +kernel⟩,
   ⟨{ rdy with reset' := { boot := .rom }, tenancy := { blown := some 1 } }, _, [⟨Config.fwKeyHash, true, 1, 0, []⟩], ⟨Config.fwKeyHash, true, 1, 0, []⟩, by decide +kernel, rfl, by simp [bootImage, bankImages, imageOk, fusedNow, tget?, List.range, List.range.loop]⟩,
   ⟨{ rdy with reset' := { boot := .rom }, tenancy := { blown := some 1 } }, _, [⟨[], false, 1, 0, []⟩, ⟨[], false, 1, 0, []⟩, ⟨Config.fwKeyHash, true, 1, 0, []⟩], ⟨Config.fwKeyHash, true, 1, 0, []⟩, by decide +kernel, rfl, by simp [bootImage, bankImages, imageOk, fusedNow, tget?, List.range, List.range.loop], by decide +kernel, by simp [bootImage, imageOk, fusedNow]⟩,
   ⟨{ rdy with reset' := { boot := .rom, pwrOk := true }, tenancy := { blown := some 1 } }, _, [⟨[], false, 1, 0, []⟩], by decide +kernel, rfl, by simp [bootImage, bankImages, imageOk, fusedNow, tget?, List.range, List.range.loop], Or.inl (by decide +kernel)⟩,
   ⟨{ { rdy with reset' := { boot := .fwHalt, pwrOk := true } } with tenancy := { anchors := [[1]], blown := some 1 } }, ⟨Config.fwKeyHash, true, 1, 0, []⟩, by decide +kernel, by simp [imageOk, fusedNow]⟩,
   ⟨{ rdy with reset' := { boot := .fwHalt } }, ⟨[], false, 1, 0, []⟩, by decide +kernel, by simp [imageOk]⟩,
   ⟨{ rdy with reset' := { boot := .dies, pwrOk := true } }, by decide +kernel, by decide +kernel, by decide +kernel, (by decide +kernel), by decide +kernel⟩,
   ⟨{ rdy with reset' := { boot := .dies, pwrOk := true, full := true } }, by decide +kernel, by decide +kernel, by decide +kernel, (by decide +kernel), by decide +kernel⟩,
   ⟨{ rdy with reset' := { boot := .memory, pwrOk := true } }, by decide +kernel⟩,
   ⟨{ rdy with reset' := { boot := .map, pwrOk := true } }, by decide +kernel⟩,
   ⟨rdy, by decide +kernel⟩,
   ⟨{ rdy with reset' := { boot := .excluded, pwrOk := true } }, m0, ⟨by decide +kernel, by decide +kernel, by decide +kernel⟩, by decide +kernel⟩,
   ⟨{ rdy with optics := { tables := [(0, [1])] } }, by decide +kernel, by decide +kernel⟩⟩

/-- States and operands that meet the hypotheses of each clause of TenancyAndFirmware, part 1. -/
theorem test_TenancyAndFirmware_1 :
    (∃ (s : State) (via : Via) (v : List Byte), (Writable s via 0x5000 5) ∧ (v.length = 512) ∧ (s.tenancy.state = .active) ∧ (lastArmed s = false) ∧ (peersValid s (peersOf v) = true)) :=
  ⟨{ rdy with tenancy := { anchors := [[1]], state := .active } }, m0, [32] ++ zeros 511, ⟨by decide +kernel, by decide +kernel, by decide +kernel⟩, by decide +kernel, by decide +kernel, by decide +kernel, (by decide +kernel)⟩

/-- States and operands that meet the hypotheses of each clause of TenancyAndFirmware, part 2. -/
theorem test_TenancyAndFirmware_2 :
    (∃ (s : State) (via : Via) (v : List Byte), (Writable s via 0x5000 5) ∧ (v.length = 512) ∧ (s.tenancy.state ≠ .active)) :=
  ⟨rdy, m0, zeros 512, ⟨by decide +kernel, by decide +kernel, by decide +kernel⟩, by decide +kernel, by decide +kernel⟩

/-- States and operands that meet the hypotheses of each clause of TenancyAndFirmware, part 3. -/
theorem test_TenancyAndFirmware_3 :
    (∃ (s : State) (via : Via) (v : List Byte) (c : TenVals), (Writable s via 0x5000 4) ∧ (v.length = 520) ∧ (clearing s = false) ∧ (s.tenancy.state ≠ .failed) ∧ (changeVals s v = some c) ∧ (lastBusy s = false) ∧ (lastRunning s = false)) :=
  ⟨rdy, m0, leBytes 8 (2 ^ 32 + 2 ^ 30) ++ [32] ++ zeros 511, { id := 1, mode := .opn, peers := [5] }, ⟨by decide +kernel, by decide +kernel, by decide +kernel⟩, by decide +kernel, by decide +kernel, by decide +kernel, (by decide +kernel), by decide +kernel, by decide +kernel⟩

/-- States and operands that meet the hypotheses of each clause of TenancyAndFirmware, part 4. -/
theorem test_TenancyAndFirmware_4 :
    (∃ (s : State) (via : Via) (v : List Byte) (c : TenVals), (Writable s via 0x5000 4) ∧ (v.length = 520) ∧ (clearing s = false) ∧ (s.tenancy.state ≠ .failed) ∧ (changeVals s v = some c) ∧ (lastBusy s = true) ∧ (bit (wordAt v 0) 29 = false)) :=
  ⟨live [] {} .armed, m0, leBytes 8 (2 ^ 32 + 2 ^ 30) ++ [32] ++ zeros 511, { id := 1, mode := .opn, peers := [5] }, ⟨by decide +kernel, by decide +kernel, by decide +kernel⟩, by decide +kernel, by decide +kernel, by decide +kernel, (by decide +kernel), by decide +kernel, by decide +kernel⟩

/-- States and operands that meet the hypotheses of each clause of TenancyAndFirmware, part 5. -/
theorem test_TenancyAndFirmware_5 :
    (∃ (s : State) (via : Via) (v : List Byte) (c : TenVals), (Writable s via 0x5000 4) ∧ (v.length = 520) ∧ (clearing s = false) ∧ (s.tenancy.state ≠ .failed) ∧ (changeVals s v = some c) ∧ (lastRunning s = true) ∧ (bit (wordAt v 0) 29 = true)) :=
  ⟨live [] run1 .running, m0, leBytes 8 (2 ^ 32 + 2 ^ 30 + 2 ^ 29) ++ [32] ++ zeros 511, { id := 1, mode := .opn, peers := [5] }, ⟨by decide +kernel, by decide +kernel, by decide +kernel⟩, by decide +kernel, by decide +kernel, by decide +kernel, (by decide +kernel), by decide +kernel, by decide +kernel⟩

/-- States and operands that meet the hypotheses of each clause of TenancyAndFirmware, part 6. -/
theorem test_TenancyAndFirmware_6 :
    (∃ (s : State) (c : TenVals), (s.tenancy.change = some c) ∧ (clearing s = true) ∧ (s.tenancy.zeroising = []) ∧ (s.tenancy.scrubbing = false) ∧ (s.reset'.boot = .ready ∨ s.reset'.boot = .excluded) ∧ (s.reset'.held = false)) :=
  ⟨{ rdy with tenancy := { anchors := [[1]], state := .clearing, change := some { id := 1, mode := .opn, peers := [5] } } }, { id := 1, mode := .opn, peers := [5] }, by decide +kernel, by decide +kernel, by decide +kernel, (by decide +kernel), by decide +kernel, by decide +kernel⟩

/-- States and operands that meet the hypotheses of each clause of TenancyAndFirmware, part 7. -/
theorem test_TenancyAndFirmware_7 :
    (∃ (s : State), (s.tenancy.change = none)) :=
  ⟨rdy, by decide +kernel⟩

/-- States and operands that meet the hypotheses of each clause of TenancyAndFirmware, part 8. -/
theorem test_TenancyAndFirmware_8 :
    (∃ (s : State) (c : TenVals), (s.tenancy.change = some c) ∧ (s.reset'.held = true ∨ s.tenancy.scrubbing = true ∨ s.tenancy.zeroising ≠ [])) :=
  ⟨{ rdy with tenancy := { scrubbing := true, change := some { id := 1, mode := .opn, peers := [5] } } }, { id := 1, mode := .opn, peers := [5] }, by decide +kernel, Or.inr (Or.inl (by decide +kernel))⟩

/-- States and operands that meet the hypotheses of each clause of TenancyAndFirmware, part 9. -/
theorem test_TenancyAndFirmware_9 :
    (∃ (s : State) (via : Via) (img : FwImage), (Writable s via 0x5000 0x1A) ∧ (s.tenancy.fw ≠ .activating) ∧ (imageOk s img = true) ∧ (prefers (runSvn s) (runBuild s) img = true)) :=
  ⟨{ rdy with tenancy := { anchors := [[1]], blown := some 1, running := some ⟨[], true, 1, 0, []⟩ } }, m0, ⟨Config.fwKeyHash, true, 1, 1, []⟩, ⟨by decide +kernel, by decide +kernel, by decide +kernel⟩, by decide +kernel, by simp [imageOk, fusedNow], by decide +kernel⟩

/-- States and operands that meet the hypotheses of each clause of TenancyAndFirmware, part 10. -/
theorem test_TenancyAndFirmware_10 :
    (∃ (s : State) (via : Via) (img : FwImage), (Writable s via 0x5000 0x1A) ∧ (s.tenancy.fw ≠ .activating) ∧ (imageOk s img = false)) :=
  ⟨rdy, m0, ⟨[], false, 1, 1, []⟩, ⟨by decide +kernel, by decide +kernel, by decide +kernel⟩, by decide +kernel, by simp [imageOk]⟩

/-- States and operands that meet the hypotheses of each clause of TenancyAndFirmware, part 11. -/
theorem test_TenancyAndFirmware_11 :
    (∃ (s : State) (via : Via) (img : FwImage), (Writable s via 0x5000 0x1C) ∧ (lastArmed s = false) ∧ (clearing s = false) ∧ (s.tenancy.stagedImg = some img) ∧ (s.tenancy.fw = .staged)) :=
  ⟨{ rdy with tenancy := { anchors := [[1]], fw := .staged, stagedImg := some ⟨[], true, 0, 0, []⟩ } }, m0, ⟨[], true, 0, 0, []⟩, ⟨by decide +kernel, by decide +kernel, by decide +kernel⟩, by decide +kernel, by decide +kernel, by decide +kernel, (by decide +kernel)⟩

/-- States and operands that meet the hypotheses of each clause of TenancyAndFirmware, part 12. -/
theorem test_TenancyAndFirmware_12 :
    (∃ (s : State) (via : Via), (Writable s via 0x5000 0x1C) ∧ (s.tenancy.stagedImg = none)) :=
  ⟨rdy, m0, ⟨by decide +kernel, by decide +kernel, by decide +kernel⟩, by decide +kernel⟩

/-- States and operands that meet the hypotheses of each clause of TenancyAndFirmware, part 13. -/
theorem test_TenancyAndFirmware_13 :
    (∃ (s : State) (img : FwImage), (s.tenancy.fw = .activating) ∧ (s.tenancy.stagedImg = some img)) :=
  ⟨{ rdy with tenancy := { anchors := [[1]], fw := .activating, stagedImg := some ⟨[], true, 0, 0, []⟩ } }, ⟨[], true, 0, 0, []⟩, by decide +kernel, by decide +kernel⟩

/-- States and operands that meet the hypotheses of each clause of TenancyAndFirmware, part 14. -/
theorem test_TenancyAndFirmware_14 :
    (∃ (s : State) (via : Via), (Writable s via 0x5000 0xA) ∧ (s.tenancy.fw ≠ .staged) ∧ (s.tenancy.fw ≠ .activating)) :=
  ⟨{ rdy with tenancy := { anchors := [[1]], fw := .rejected } }, m0, ⟨by decide +kernel, by decide +kernel, by decide +kernel⟩, by decide +kernel, by decide +kernel⟩

/-- States and operands that meet the hypotheses of each clause of TenancyAndFirmware, part 15. -/
theorem test_TenancyAndFirmware_15 :
    (∃ (s : State) (via : Via) (v : List Byte), (Writable s via 0x5000 0xC) ∧ (v.length = 32)) :=
  ⟨rdy, m0, zeros 32, ⟨by decide +kernel, by decide +kernel, by decide +kernel⟩, by decide +kernel⟩

/-- States and operands that meet the hypotheses of each clause of TenancyAndFirmware, part 16. -/
theorem test_TenancyAndFirmware_16 :
    (∃ (s : State) (via : Via) (v : List Byte), (Writable s via 0x5000 0xC) ∧ (v.length ≠ 32)) :=
  ⟨rdy, m0, zeros 31, ⟨by decide +kernel, by decide +kernel, by decide +kernel⟩, by decide +kernel⟩

/-- States and operands that meet the hypotheses of each clause of TenancyAndFirmware, part 17. -/
theorem test_TenancyAndFirmware_17 :
    (∃ (s : State) (v : List Byte), (s.tenancy.nonce = some v)) :=
  ⟨{ rdy with tenancy := { anchors := [[1]], nonce := some (zeros 32) } }, zeros 32, by decide +kernel⟩

/-- States and operands that meet the hypotheses of each clause of TenancyAndFirmware, part 18. -/
theorem test_TenancyAndFirmware_18 :
    (∃ (s : State), (s.tenancy.nonce = none)) :=
  ⟨rdy, by decide +kernel⟩

/-- States and operands that meet the hypotheses of each clause of KeysInstallsAndSeals. -/
theorem test_KeysInstallsAndSeals :
    (∃ (s : State) (via : Via) (v : List Byte) (slot : Nat), (Writable s via 0x5000 0x11) ∧ (v.length = 176) ∧ (fld (wordAt v 0) 63 58 = slot) ∧ (fld (wordAt v 0) 57 56 = 0) ∧ (fld (wordAt v 0) 55 0 = 0) ∧ ((v.drop 129).take 7 = zeros 7))
    ∧ (∃ (s : State) (via : Via) (slot : Nat), (Writable s via 0x5000 0x12) ∧ (slot ≤ 63) ∧ (s.tenancy.install = none) ∧ ((keySlot s slot).state ≠ .empty) ∧ ((keySlot s slot).purpose = purposeImage))
    ∧ (∃ (s : State) (via : Via) (slot : Nat), (Writable s via 0x5000 0x12) ∧ (63 < slot))
    ∧ (∃ (s : State) (slot : Nat), ((keySlot s slot).state = .pending) ∧ (slotRefs s slot = 0) ∧ ((keySlot s slot).newPurpose = purposeImage) ∧ (s.tenancy.install = none) ∧ (s.mgmt.waiting = []))
    ∧ (∃ (s : State) (t : State) (slot : Nat), ((keySlot s slot).state = .pending) ∧ (slotRefs s slot = 0) ∧ (t = replacePending s slot) ∧ (exportWaits t = false))
    ∧ (∃ (s : State) (slot : Nat), (0 < slotRefs s slot))
    ∧ (∃ (s : State) (via : Via) (v : List Byte), (Writable s via 0x5000 0x14) ∧ (v.length = 40) ∧ (s.tenancy.install = none) ∧ (fld (wordAt v 0) 57 0 = 0) ∧ ((keySlot s (fld (wordAt v 0) 63 58)).state = .loaded) ∧ ((keySlot s (fld (wordAt v 0) 63 58)).purpose = purposeImage) ∧ ((wordAt v 2).toNat % 64 = 0) ∧ ((wordAt v 3).toNat % 64 = 0))
    ∧ (∃ (s : State) (via : Via) (v : List Byte), (Writable s via 0x5000 0x14) ∧ (v.length = 40) ∧ (s.tenancy.install = none) ∧ (fld (wordAt v 0) 57 0 = 0) ∧ ((keySlot s (fld (wordAt v 0) 63 58)).state = .empty))
    ∧ (∃ (s : State) (t : State) (i : Install) (j : Install), (s.tenancy.install = some i) ∧ (i.waiting = false) ∧ (i.held = false) ∧ (t = installGo (chunkCount i.plain) i.requests s) ∧ (t.tenancy.install = some j) ∧ (j.held = false))
    ∧ (∃ (s : State) (t : State) (i : Install) (j : Install), (s.tenancy.install = some i) ∧ (i.waiting = false) ∧ (i.held = false) ∧ (t = installGo (chunkCount i.plain) i.requests s) ∧ (t.tenancy.install = some j) ∧ (j.held = true))
    ∧ (∃ (s : State) (i : Install), (s.tenancy.install = some i) ∧ (i.waiting = true ∨ i.held = true))
    ∧ (∃ (s : State), (s.tenancy.install = none))
    ∧ (∃ (s : State) (e : Nat) (k : Nat) (pl : List Word), (fld (nth pl 0) 63 56 = 2) ∧ ((lane s e k).train = .serve) ∧ (laneSealed s (lane s e k) = true))
    ∧ (∃ (s : State) (e : Nat) (k : Nat), ((lane s e k).train ≠ .serve))
    ∧ (∃ (s : State) (e : Nat) (k : Nat) (w : Nat) (n : Nat × List Byte) (w0 : Word) (w1 : Word), (fld w0 63 56 = 3) ∧ ((lane s e k).sealRx = some n) ∧ (w = w1.toNat) ∧ ((lane s e k).sealPos ≤ w))
    ∧ (∃ (s : State) (e : Nat) (k : Nat), ((lane s e k).sealRx = none))
    ∧ (∃ (s : State) (e : Nat) (k : Nat) (n : Nat × List Byte) (tag : Nat × List Byte), ((lane s e k).sealRx = some n) ∧ ((lane s e k).sealTags.find? (fun x => x.1 == (lane s e k).sealPos) = some tag) ∧ (256 * ((lane s e k).sealPos + 1) ≤ (lane s e k).sealIn) ∧ ((lane s e k).missing = []))
    ∧ (∃ (s : State) (e : Nat) (k : Nat) (n : Nat × List Byte), ((lane s e k).sealRx = some n) ∧ ((lane s e k).sealIn < 256 * ((lane s e k).sealPos + 1)))
    ∧ (∃ (s : State) (e : Nat) (k : Nat) (w : Nat), ((lane s e k).sealRx.isSome = true) ∧ (w = (lane s e k).sealPos) ∧ (256 * (w + 3) ≤ (lane s e k).sealIn))
    ∧ (∃ (s : State) (e : Nat) (k : Nat) (w : Nat), ((lane s e k).sealIn < 256 * (w + 3) ∨ w ≠ (lane s e k).sealPos))
    ∧ (∃ (s : State) (via : Via) (as : List (List Byte)), (Writable s via 0x5000 0x16) ∧ (as.length ≤ 4) ∧ (as ≠ []))
    ∧ (∃ (s : State) (via : Via), (Writable s via 0x5000 0x16) ∧ (anchoredVia s via = false)) :=
  ⟨⟨rdy, m0, leBytes 8 (63 * 2 ^ 58) ++ zeros 168, 63, ⟨by decide +kernel, by decide +kernel, by decide +kernel⟩, by decide +kernel, by decide +kernel, by decide +kernel, (by decide +kernel), by decide +kernel⟩,
   ⟨{ rdy with tenancy := { anchors := [[1]], keys := [(63, { state := .loaded })] } }, m0, 63, ⟨by decide +kernel, by decide +kernel, by decide +kernel⟩, by decide +kernel, by decide +kernel, by decide +kernel, (by decide +kernel)⟩,
   ⟨rdy, m0, 64, ⟨by decide +kernel, by decide +kernel, by decide +kernel⟩, by decide +kernel⟩,
   ⟨{ rdy with tenancy := { anchors := [[1]], keys := [(63, { state := .pending })] } }, 63, by decide +kernel, by decide +kernel, by decide +kernel, (by decide +kernel), by decide +kernel⟩,
   ⟨{ rdy with tenancy := { anchors := [[1]], keys := [(63, { state := .pending })] } }, _, 63, by decide +kernel, by decide +kernel, rfl, by decide +kernel⟩,
   ⟨{ rdy with tenancy := { anchors := [[1]], keys := [(63, { refs := 1 })] } }, 63, by decide +kernel⟩,
   ⟨{ rdy with tenancy := { anchors := [[1]], keys := [(63, { state := .loaded })] } }, m0, leBytes 8 (63 * 2 ^ 58) ++ zeros 32, ⟨by decide +kernel, by decide +kernel, by decide +kernel⟩, by decide +kernel, by decide +kernel, by decide +kernel, (by decide +kernel), by decide +kernel, by decide +kernel, by decide +kernel⟩,
   ⟨rdy, m0, leBytes 8 (63 * 2 ^ 58) ++ zeros 32, ⟨by decide +kernel, by decide +kernel, by decide +kernel⟩, by decide +kernel, by decide +kernel, by decide +kernel, (by decide +kernel)⟩,
   ⟨{ rdy with tenancy := { anchors := [[1]], install := some { plain := 0 } } }, _, { plain := 0 }, { plain := 0 }, by decide +kernel, by decide +kernel, by decide +kernel, rfl, by decide +kernel, by decide +kernel⟩,
   ⟨{ rdy with tenancy := { anchors := [[1]], install := some { plain := 64 } }, hbm := { mem := (({} : Mem).writeN 0 (leBytes 8 0x10001)).writeN 65536 (leBytes 8 0xF), partActive := [((Reg.rateMbps 0).key, 1)], buckets := (List.range 64).map (fun d => (16 * d, { tokens := some 0, fifo := [⟨⟨1, 64, 64, false⟩, 0⟩] })) } }, _, { plain := 64 }, { plain := 64, held := true }, by decide +kernel, by decide +kernel, by decide +kernel, rfl, by decide +kernel, by decide +kernel⟩,
   ⟨{ rdy with tenancy := { anchors := [[1]], install := some { plain := 0, waiting := true } } }, { plain := 0, waiting := true }, by decide +kernel, Or.inl (by decide +kernel)⟩,
   ⟨rdy, by decide +kernel⟩,
   ⟨{ { rdy with lanes := [(lk 31 31, { train := .serve, accepted := [word (6 * 2 ^ 52)] })] } with tenancy := { vals := { mode := .sealed, peers := [6] } } }, 31, 31, [word (2 * 2 ^ 56)], by decide +kernel, by decide +kernel, by decide +kernel⟩,
   ⟨{ rdy with lanes := [(lk 31 31, {  })] }, 31, 31, by decide +kernel⟩,
   ⟨{ rdy with lanes := [(lk 31 31, { sealRx := some (1, []) })] }, 31, 31, _, (1, []), word (3 * 2 ^ 56), 5, by decide +kernel, by decide +kernel, rfl, by decide +kernel⟩,
   ⟨{ rdy with lanes := [(lk 31 31, {  })] }, 31, 31, by decide +kernel⟩,
   ⟨{ rdy with lanes := [(lk 31 31, { sealRx := some (1, []), sealIn := 256, sealTags := [(0, [])] })] }, 31, 31, (1, []), (0, []), by decide +kernel, by decide +kernel, by decide +kernel, (by decide +kernel)⟩,
   ⟨{ rdy with lanes := [(lk 31 31, { sealRx := some (1, []), sealIn := 255 })] }, 31, 31, (1, []), by decide +kernel, by decide +kernel⟩,
   ⟨{ rdy with lanes := [(lk 31 31, { sealRx := some (1, []), sealIn := 768 })] }, 31, 31, 0, by decide +kernel, rfl, by decide +kernel⟩,
   ⟨{ rdy with lanes := [(lk 31 31, { sealRx := some (1, []), sealIn := 767 })] }, 31, 31, 0, Or.inl (by decide +kernel)⟩,
   ⟨rdy, m0, [[], [], [], []], ⟨by decide +kernel, by decide +kernel, by decide +kernel⟩, by decide +kernel, by decide +kernel⟩,
   ⟨{ rdy with mgmt := { linkUp := true, sessions := [(0, {})] } }, m0, ⟨by decide +kernel, by decide +kernel, by decide +kernel⟩, by decide +kernel⟩⟩

/-- States and operands that meet the hypotheses of each clause of RequestsAreServed. -/
theorem test_RequestsAreServed :
    (∃ (s : State) (via : Via) (m : Kdp) (e : Entry) (bs : List Byte), (findEntry m.index m.sub = some e) ∧ (Requested s via m kindRead) ∧ (entryStatus s via m.index m.sub 0 = Code.ok) ∧ (readValue s via e m.index = (Code.ok, bs)) ∧ (askedBytes s via e (Code.ok, bs) ≤ 1024))
    ∧ (∃ (s : State) (via : Via) (m : Kdp) (e : Entry), (findEntry m.index m.sub = some e) ∧ (Requested s via m kindRead) ∧ (entryStatus s via m.index m.sub 0 = Code.ok) ∧ (1024 < askedBytes s via e (readValue s via e m.index)))
    ∧ (∃ (s : State) (via : Via) (m : Kdp) (e : Entry), (findEntry m.index m.sub = some e) ∧ (Requested s via m kindRead) ∧ (entryStatus s via m.index m.sub 0 ≠ Code.ok))
    ∧ (∃ (s : State) (via : Via) (m : Kdp) (e : Entry), (findEntry m.index m.sub = some e) ∧ (Requested s via m kindWrite) ∧ (entryStatus s via m.index m.sub 1 = Code.ok) ∧ (lengthOk e m.data.length = true) ∧ (unclaimedRefusal s via m.index m.sub = false) ∧ ((writeEntry via e m.index m.data s).1 = Code.ok))
    ∧ (∃ (s : State) (via : Via) (m : Kdp) (e : Entry), (findEntry m.index m.sub = some e) ∧ (Requested s via m kindWrite) ∧ (entryStatus s via m.index m.sub 1 = Code.ok) ∧ (lengthOk e m.data.length = false))
    ∧ (∃ (s : State) (via : Via) (m : Kdp) (e : Entry), (findEntry m.index m.sub = some e) ∧ (Requested s via m kindDescribe) ∧ (entryStatus s via m.index m.sub 4 = Code.ok))
    ∧ (∃ (s : State) (via : Via) (m : Kdp) (e : Entry) (bs : List Byte), (findEntry m.index m.sub = some e) ∧ (Requested s via m kindOpenRead) ∧ (entryStatus s via m.index m.sub 2 = Code.ok) ∧ (openCount s via < openLimit via) ∧ (readValue s via e m.index = (Code.ok, bs)))
    ∧ (∃ (s : State) (via : Via) (m : Kdp) (e : Entry), (findEntry m.index m.sub = some e) ∧ (Requested s via m kindOpenWrite) ∧ (entryStatus s via m.index m.sub 3 = Code.ok) ∧ (openCount s via < openLimit via) ∧ (lengthOk e m.count = true) ∧ (unclaimedRefusal s via m.index m.sub = false))
    ∧ (∃ (s : State) (via : Via) (m : Kdp) (e : Entry), (findEntry m.index m.sub = some e) ∧ (Requested s via m kindOpenWrite) ∧ (entryStatus s via m.index m.sub 3 = Code.ok) ∧ (openLimit via ≤ openCount s via))
    ∧ (∃ (s : State) (via : Via) (m : Kdp) (e : Entry) (bs : List Byte), (findEntry m.index m.sub = some e) ∧ (Requested s via m kindRead) ∧ (m.index = 0x7180) ∧ (m.sub = 3) ∧ (entryStatus s via m.index m.sub 0 = Code.ok) ∧ (readValue s via e m.index = (Code.ok, bs)) ∧ (askedBytes s via e (Code.ok, bs) ≤ 1024))
    ∧ (∃ (s : State) (via : Via) (m : Kdp) (e : Entry) (bs : List Byte), (findEntry m.index m.sub = some e) ∧ (Requested s via m kindOpenRead) ∧ (m.index = 0x7180) ∧ (m.sub = 3) ∧ (entryStatus s via m.index m.sub 2 = Code.ok) ∧ (openCount s via < openLimit via) ∧ (readValue s via e m.index = (Code.ok, bs)))
    ∧ (∃ (s : State) (m : Kdp) (e : Entry) (n : Nat), (findEntry m.index m.sub = some e) ∧ (viaOpen s (.mgmt n) = true) ∧ (m.kind = kindRead) ∧ (messageError m = Code.ok) ∧ (reqSeen (tget {} s.mgmt.sessions n) m.reqId = .run) ∧ (waitsExport s m = true))
    ∧ (∃ (s : State) (via : Via) (m : Kdp) (e : Entry), (findEntry m.index m.sub = some e) ∧ (viaOpen s via = true) ∧ (m.kind = kindRead) ∧ (m.rev ≠ 1))
    ∧ (∃ (s : State) (m : Kdp) (e : Entry) (n : Nat) (o : Out), (findEntry m.index m.sub = some e) ∧ (viaOpen s (.mgmt n) = true) ∧ (m.kind = kindRead) ∧ (messageError m = Code.ok) ∧ (reqSeen (tget {} s.mgmt.sessions n) m.reqId = .again o))
    ∧ (∃ (s : State) (m : Kdp) (e : Entry) (n : Nat), (findEntry m.index m.sub = some e) ∧ (viaOpen s (.mgmt n) = true) ∧ (m.kind = kindWrite) ∧ (messageError m = Code.ok) ∧ (reqSeen (tget {} s.mgmt.sessions n) m.reqId = .stale))
    ∧ (∃ (s : State) (m : Kdp) (e : Entry) (n : Nat), (findEntry m.index m.sub = some e) ∧ (viaOpen s (.mgmt n) = false) ∧ (m.kind = kindWrite)) :=
  ⟨⟨rdy, m0, ⟨word (1 * 2 ^ 56 + 1 * 2 ^ 48 + 0x1000 * 2 ^ 32 + 4 * 2 ^ 24 + 0 * 2 ^ 14 + 0), word (0), word (0), []⟩, (findEntry 0x1000 4).get (by decide +kernel), (readValue (rdy) m0 ((findEntry 0x1000 4).get (by decide +kernel)) 0x1000).2, by decide +kernel, ⟨by decide +kernel, by decide +kernel, by decide +kernel, by intro n h; cases h; try decide +kernel, by intro n h; cases h; try decide +kernel⟩, by decide +kernel, by decide +kernel, by decide +kernel⟩,
   ⟨{ rdy with mgmt := { linkUp := true, sessions := [(0, { anchor := some [1], memLen := 1025 })] } }, m0, ⟨word (1 * 2 ^ 56 + 1 * 2 ^ 48 + 0x7180 * 2 ^ 32 + 3 * 2 ^ 24 + 0 * 2 ^ 14 + 0), word (0), word (0), []⟩, (findEntry 0x7180 3).get (by decide +kernel), by decide +kernel, ⟨by decide +kernel, by decide +kernel, by decide +kernel, by intro n h; cases h; try decide +kernel, by intro n h; cases h; try decide +kernel⟩, by decide +kernel, by decide +kernel⟩,
   ⟨rdy, m0, ⟨word (1 * 2 ^ 56 + 1 * 2 ^ 48 + 0x3060 * 2 ^ 32 + 9 * 2 ^ 24 + 0 * 2 ^ 14 + 0), word (0), word (0), []⟩, (findEntry 0x3060 9).get (by decide +kernel), by decide +kernel, ⟨by decide +kernel, by decide +kernel, by decide +kernel, by intro n h; cases h; try decide +kernel, by intro n h; cases h; try decide +kernel⟩, by decide +kernel⟩,
   ⟨rdy, m0, ⟨word (1 * 2 ^ 56 + 2 * 2 ^ 48 + 0x2380 * 2 ^ 32 + 5 * 2 ^ 24 + 0 * 2 ^ 14 + 4), word (0), word (0), leBytes 4 500⟩, (findEntry 0x2380 5).get (by decide +kernel), by decide +kernel, ⟨by decide +kernel, by decide +kernel, by decide +kernel, by intro n h; cases h; try decide +kernel, by intro n h; cases h; try decide +kernel⟩, by decide +kernel, by decide +kernel, by decide +kernel, (by decide +kernel)⟩,
   ⟨rdy, m0, ⟨word (1 * 2 ^ 56 + 2 * 2 ^ 48 + 0x2380 * 2 ^ 32 + 5 * 2 ^ 24 + 0 * 2 ^ 14 + 1), word (0), word (0), [0]⟩, (findEntry 0x2380 5).get (by decide +kernel), by decide +kernel, ⟨by decide +kernel, by decide +kernel, by decide +kernel, by intro n h; cases h; try decide +kernel, by intro n h; cases h; try decide +kernel⟩, by decide +kernel, by decide +kernel⟩,
   ⟨rdy, m0, ⟨word (1 * 2 ^ 56 + 3 * 2 ^ 48 + 0x2380 * 2 ^ 32 + 5 * 2 ^ 24 + 0 * 2 ^ 14 + 0), word (0), word (0), []⟩, (findEntry 0x2380 5).get (by decide +kernel), by decide +kernel, ⟨by decide +kernel, by decide +kernel, by decide +kernel, by intro n h; cases h; try decide +kernel, by intro n h; cases h; try decide +kernel⟩, by decide +kernel⟩,
   ⟨rdy, m0, ⟨word (1 * 2 ^ 56 + 4 * 2 ^ 48 + 0x1000 * 2 ^ 32 + 4 * 2 ^ 24 + 0 * 2 ^ 14 + 0), word (0), word (0), []⟩, (findEntry 0x1000 4).get (by decide +kernel), (readValue (rdy) m0 ((findEntry 0x1000 4).get (by decide +kernel)) 0x1000).2, by decide +kernel, ⟨by decide +kernel, by decide +kernel, by decide +kernel, by intro n h; cases h; try decide +kernel, by intro n h; cases h; try decide +kernel⟩, by decide +kernel, by decide +kernel, by decide +kernel⟩,
   ⟨rdy, m0, ⟨word (1 * 2 ^ 56 + 5 * 2 ^ 48 + 0x2380 * 2 ^ 32 + 5 * 2 ^ 24 + 0 * 2 ^ 14 + 0), word (0), word (4), []⟩, (findEntry 0x2380 5).get (by decide +kernel), by decide +kernel, ⟨by decide +kernel, by decide +kernel, by decide +kernel, by intro n h; cases h; try decide +kernel, by intro n h; cases h; try decide +kernel⟩, by decide +kernel, by decide +kernel, by decide +kernel, (by decide +kernel)⟩,
   ⟨{ rdy with mgmt := { linkUp := true, sessions := [(0, { anchor := some [1] })], segs := [{ id := 1, via := m0, key := 0x238005, write := false, count := 4 }, { id := 2, via := m0, key := 0x238005, write := false, count := 4 }, { id := 3, via := m0, key := 0x238005, write := false, count := 4 }, { id := 4, via := m0, key := 0x238005, write := false, count := 4 }] } }, m0, ⟨word (1 * 2 ^ 56 + 5 * 2 ^ 48 + 0x2380 * 2 ^ 32 + 5 * 2 ^ 24 + 0 * 2 ^ 14 + 0), word (0), word (4), []⟩, (findEntry 0x2380 5).get (by decide +kernel), by decide +kernel, ⟨by decide +kernel, by decide +kernel, by decide +kernel, by intro n h; cases h; try decide +kernel, by intro n h; cases h; try decide +kernel⟩, by decide +kernel, by decide +kernel⟩,
   ⟨{ rdy with mgmt := { linkUp := true, sessions := [(0, { anchor := some [1] })] } }, m0, ⟨word (1 * 2 ^ 56 + 1 * 2 ^ 48 + 0x7180 * 2 ^ 32 + 3 * 2 ^ 24 + 0 * 2 ^ 14 + 0), word (0), word (0), []⟩, (findEntry 0x7180 3).get (by decide +kernel), (readValue ({ rdy with mgmt := { linkUp := true, sessions := [(0, { anchor := some [1] })] } }) m0 ((findEntry 0x7180 3).get (by decide +kernel)) 0x7180).2, by decide +kernel, ⟨by decide +kernel, by decide +kernel, by decide +kernel, by intro n h; cases h; try decide +kernel, by intro n h; cases h; try decide +kernel⟩, by decide +kernel, by decide +kernel, by decide +kernel, (by decide +kernel), by decide +kernel⟩,
   ⟨{ rdy with mgmt := { linkUp := true, sessions := [(0, { anchor := some [1] })] } }, m0, ⟨word (1 * 2 ^ 56 + 4 * 2 ^ 48 + 0x7180 * 2 ^ 32 + 3 * 2 ^ 24 + 0 * 2 ^ 14 + 0), word (0), word (0), []⟩, (findEntry 0x7180 3).get (by decide +kernel), (readValue ({ rdy with mgmt := { linkUp := true, sessions := [(0, { anchor := some [1] })] } }) m0 ((findEntry 0x7180 3).get (by decide +kernel)) 0x7180).2, by decide +kernel, ⟨by decide +kernel, by decide +kernel, by decide +kernel, by intro n h; cases h; try decide +kernel, by intro n h; cases h; try decide +kernel⟩, by decide +kernel, by decide +kernel, by decide +kernel, (by decide +kernel), by decide +kernel⟩,
   ⟨{ rdy with tenancy := { anchors := [[1]], vals := { mode := .sealed }, keys := [(63, { state := .pending, purpose := purposeExport })] }, trace := { frozen := true } }, ⟨word (1 * 2 ^ 56 + 1 * 2 ^ 48 + 0x6200 * 2 ^ 32 + 0xE * 2 ^ 24), word (0), word (0), []⟩, (findEntry 0x6200 0xE).get (by decide +kernel), 0, by decide +kernel, by decide +kernel, by decide +kernel, (by decide +kernel), by decide +kernel, by decide +kernel⟩,
   ⟨rdy, m0, ⟨word (2 * 2 ^ 56 + 1 * 2 ^ 48 + 0x1000 * 2 ^ 32 + 4 * 2 ^ 24 + 0 * 2 ^ 14 + 0), word (0), word (0), []⟩, (findEntry 0x1000 4).get (by decide +kernel), by decide +kernel, by decide +kernel, by decide +kernel, (by decide +kernel)⟩,
   ⟨{ rdy with mgmt := { linkUp := true, sessions := [(0, { anchor := some [1], memory := [(0, .icmp true)] })] } }, ⟨word (1 * 2 ^ 56 + 1 * 2 ^ 48 + 0x1000 * 2 ^ 32 + 4 * 2 ^ 24 + 0 * 2 ^ 14 + 0), word (0), word (0), []⟩, (findEntry 0x1000 4).get (by decide +kernel), 0, .icmp true, by decide +kernel, by decide +kernel, by decide +kernel, (by decide +kernel), by decide +kernel⟩,
   ⟨{ rdy with mgmt := { linkUp := true, sessions := [(0, { anchor := some [1], newest := some 65 })] } }, ⟨word (1 * 2 ^ 56 + 2 * 2 ^ 48 + 0x2380 * 2 ^ 32 + 5 * 2 ^ 24 + 0 * 2 ^ 14 + 0), word (0), word (0), []⟩, (findEntry 0x2380 5).get (by decide +kernel), 0, by decide +kernel, by decide +kernel, by decide +kernel, (by decide +kernel), by decide +kernel⟩,
   ⟨rdy, ⟨word (1 * 2 ^ 56 + 2 * 2 ^ 48 + 0x2380 * 2 ^ 32 + 5 * 2 ^ 24 + 0 * 2 ^ 14 + 0), word (0), word (0), []⟩, (findEntry 0x2380 5).get (by decide +kernel), 3, by decide +kernel, by decide +kernel, by decide +kernel⟩⟩

/-- States and operands that meet the hypotheses of each clause of SessionsMoveSegments. -/
theorem test_SessionsMoveSegments :
    (∃ (s : State) (via : Via) (m : Kdp) (g : Seg), (s.reset'.held = false) ∧ (clearing s = false) ∧ (Requested s via m kindSegRead) ∧ (s.mgmt.segs.find? (fun g => g.id == m.session && g.via == via) = some g) ∧ (g.write = false) ∧ (m.segment < segCount g.count))
    ∧ (∃ (s : State) (via : Via) (m : Kdp), (s.reset'.held = false) ∧ (clearing s = false) ∧ (Requested s via m kindSegRead) ∧ (s.mgmt.segs.any (fun g => g.id == m.session) = false))
    ∧ (∃ (s : State) (via : Via) (m : Kdp) (g : Seg), (s.reset'.held = false) ∧ (clearing s = false) ∧ (Requested s via m kindSegWrite) ∧ (s.mgmt.segs.find? (fun g => g.id == m.session && g.via == via) = some g) ∧ (g.write = true) ∧ (m.segment < segCount g.count) ∧ (m.data.length = segBytes g.count m.segment) ∧ (m.final = false) ∧ (g.crc = none))
    ∧ (∃ (s : State) (u : State) (via : Via) (m : Kdp) (g : Seg) (h : Seg), (s.reset'.held = false) ∧ (clearing s = false) ∧ (Requested s via m kindSegWrite) ∧ (s.mgmt.segs.find? (fun g => g.id == m.session && g.via == via) = some g) ∧ (g.write = true) ∧ (m.segment + 1 = segCount g.count) ∧ (m.data.length = segBytes g.count m.segment) ∧ (m.final = true) ∧ (segCount g.count = (tput g.segs m.segment m.data).length) ∧ (h = { g with segs := tput g.segs m.segment m.data, crc := some m.crc }) ∧ (u = { s with mgmt := { s.mgmt with segs := s.mgmt.segs.map (fun x => if x.id = g.id then h else x) } }) ∧ (crc32c h.buffer = m.crc))
    ∧ (∃ (s : State) (u : State) (via : Via) (m : Kdp) (g : Seg) (h : Seg), (s.reset'.held = false) ∧ (clearing s = false) ∧ (Requested s via m kindSegWrite) ∧ (s.mgmt.segs.find? (fun g => g.id == m.session && g.via == via) = some g) ∧ (g.write = true) ∧ (m.segment + 1 = segCount g.count) ∧ (m.data.length = segBytes g.count m.segment) ∧ (m.final = true) ∧ (segCount g.count = (tput g.segs m.segment m.data).length) ∧ (h = { g with segs := tput g.segs m.segment m.data, crc := some m.crc }) ∧ (u = { s with mgmt := { s.mgmt with segs := s.mgmt.segs.map (fun x => if x.id = g.id then h else x) } }) ∧ (crc32c h.buffer ≠ m.crc))
    ∧ (∃ (s : State) (via : Via) (m : Kdp) (g : Seg), (s.reset'.held = false) ∧ (clearing s = false) ∧ (Requested s via m kindSegWrite) ∧ (s.mgmt.segs.find? (fun g => g.id == m.session && g.via == via) = some g) ∧ (g.write = true) ∧ (segCount g.count ≤ m.segment))
    ∧ (∃ (s : State) (via : Via) (m : Kdp) (g : Seg), (s.reset'.held = false) ∧ (clearing s = false) ∧ (Requested s via m kindClose) ∧ (s.mgmt.segs.find? (fun g => g.id == m.session && g.via == via) = some g))
    ∧ (∃ (s : State) (n : Nat), (s.reset'.held = false) ∧ (clearing s = false) ∧ (s.mgmt.segs.any (fun g => g.id == n) = true))
    ∧ (∃ (s : State) (n : Nat), (s.reset'.held = false) ∧ (clearing s = false) ∧ (s.mgmt.segs.any (fun g => g.id == n) = false))
    ∧ (∃ (s : State) (c : Nat), (s.reset'.held = false) ∧ (clearing s = false) ∧ (c < 8) ∧ (s.reset'.boot ≠ .off) ∧ (s.reset'.boot ≠ .ready))
    ∧ (∃ (s : State) (c : Nat) (a : Nat), (s.reset'.held = false) ∧ (clearing s = false) ∧ (viaOpen s (.mailbox c) = true) ∧ (a = rget s Reg.mailboxBase + 8192 * c) ∧ (fld (hbmWord s a) 31 0 = fld (hbmWord s (a + 8)) 31 0))
    ∧ (∃ (s : State) (q : Kdp) (c : Nat) (a : Nat), (s.reset'.held = false) ∧ (clearing s = false) ∧ (viaOpen s (.mailbox c) = true) ∧ (a = rget s Reg.mailboxBase + 8192 * c) ∧ (fld (hbmWord s a) 31 0 ≠ fld (hbmWord s (a + 8)) 31 0) ∧ (q = kdpOf (mailboxMessage s c)) ∧ (messageError q = Code.ok)) :=
  ⟨⟨{ rdy with mgmt := { linkUp := true, sessions := [(0, { anchor := some [1] })], segs := [{ id := 1, via := m0, key := 0x238005, write := false, count := 1025 }] } }, m0, ⟨word (1 * 2 ^ 56 + 6 * 2 ^ 48 + 0 * 2 ^ 32 + 0 * 2 ^ 24 + 0 * 2 ^ 14 + 0), word (2 ^ 16 + 1), word (0), []⟩, { id := 1, via := m0, key := 0x238005, write := false, count := 1025 }, by decide +kernel, by decide +kernel, ⟨by decide +kernel, by decide +kernel, by decide +kernel, by intro n h; cases h; try decide +kernel, by intro n h; cases h; try decide +kernel⟩, by decide +kernel, by decide +kernel, by decide +kernel⟩,
   ⟨rdy, m0, ⟨word (1 * 2 ^ 56 + 6 * 2 ^ 48 + 0 * 2 ^ 32 + 0 * 2 ^ 24 + 0 * 2 ^ 14 + 0), word (2 ^ 16), word (0), []⟩, by decide +kernel, by decide +kernel, ⟨by decide +kernel, by decide +kernel, by decide +kernel, by intro n h; cases h; try decide +kernel, by intro n h; cases h; try decide +kernel⟩, by decide +kernel⟩,
   ⟨{ rdy with mgmt := { linkUp := true, sessions := [(0, { anchor := some [1] })], segs := [{ id := 1, via := m0, key := 0x238005, write := true, count := 1025 }] } }, m0, ⟨word (1 * 2 ^ 56 + 7 * 2 ^ 48 + 0 * 2 ^ 32 + 0 * 2 ^ 24 + 0 * 2 ^ 14 + 1024), word (2 ^ 16), word (0), zeros 1024⟩, { id := 1, via := m0, key := 0x238005, write := true, count := 1025 }, by decide +kernel, by decide +kernel, ⟨by decide +kernel, by decide +kernel, by decide +kernel, by intro n h; cases h; try decide +kernel, by intro n h; cases h; try decide +kernel⟩, by decide +kernel, by decide +kernel, by decide +kernel, (by decide +kernel), by decide +kernel, by decide +kernel⟩,
   ⟨{ rdy with mgmt := { linkUp := true, sessions := [(0, { anchor := some [1] })], segs := [{ id := 1, via := m0, key := 0x238005, write := true, count := 4 }] } }, _, m0, ⟨word (1 * 2 ^ 56 + 7 * 2 ^ 48 + 0 * 2 ^ 32 + 0 * 2 ^ 24 + 1 * 2 ^ 14 + 4), word (2 ^ 16), word (0x48674BC7 * 2 ^ 32), zeros 4⟩, { id := 1, via := m0, key := 0x238005, write := true, count := 4 }, _, by decide +kernel, by decide +kernel, ⟨by decide +kernel, by decide +kernel, by decide +kernel, by intro n h; cases h; try decide +kernel, by intro n h; cases h; try decide +kernel⟩, by decide +kernel, by decide +kernel, by decide +kernel, (by decide +kernel), by decide +kernel, by decide +kernel, rfl, rfl, by decide +kernel⟩,
   ⟨{ rdy with mgmt := { linkUp := true, sessions := [(0, { anchor := some [1] })], segs := [{ id := 1, via := m0, key := 0x238005, write := true, count := 4 }] } }, _, m0, ⟨word (1 * 2 ^ 56 + 7 * 2 ^ 48 + 0 * 2 ^ 32 + 0 * 2 ^ 24 + 1 * 2 ^ 14 + 4), word (2 ^ 16), word (0), zeros 4⟩, { id := 1, via := m0, key := 0x238005, write := true, count := 4 }, _, by decide +kernel, by decide +kernel, ⟨by decide +kernel, by decide +kernel, by decide +kernel, by intro n h; cases h; try decide +kernel, by intro n h; cases h; try decide +kernel⟩, by decide +kernel, by decide +kernel, by decide +kernel, (by decide +kernel), by decide +kernel, by decide +kernel, rfl, rfl, by decide +kernel⟩,
   ⟨{ rdy with mgmt := { linkUp := true, sessions := [(0, { anchor := some [1] })], segs := [{ id := 1, via := m0, key := 0x238005, write := true, count := 4 }] } }, m0, ⟨word (1 * 2 ^ 56 + 7 * 2 ^ 48 + 0 * 2 ^ 32 + 0 * 2 ^ 24 + 0 * 2 ^ 14 + 0), word (2 ^ 16 + 1), word (0), []⟩, { id := 1, via := m0, key := 0x238005, write := true, count := 4 }, by decide +kernel, by decide +kernel, ⟨by decide +kernel, by decide +kernel, by decide +kernel, by intro n h; cases h; try decide +kernel, by intro n h; cases h; try decide +kernel⟩, by decide +kernel, by decide +kernel, by decide +kernel⟩,
   ⟨{ rdy with mgmt := { linkUp := true, sessions := [(0, { anchor := some [1] })], segs := [{ id := 1, via := m0, key := 0x238005, write := true, count := 4 }] } }, m0, ⟨word (1 * 2 ^ 56 + 8 * 2 ^ 48 + 0 * 2 ^ 32 + 0 * 2 ^ 24 + 0 * 2 ^ 14 + 0), word (2 ^ 16), word (0), []⟩, { id := 1, via := m0, key := 0x238005, write := true, count := 4 }, by decide +kernel, by decide +kernel, ⟨by decide +kernel, by decide +kernel, by decide +kernel, by intro n h; cases h; try decide +kernel, by intro n h; cases h; try decide +kernel⟩, by decide +kernel⟩,
   ⟨{ rdy with mgmt := { segs := [{ id := 1, via := m0, key := 0x238005, write := true, count := 4 }] } }, 1, by decide +kernel, by decide +kernel, by decide +kernel⟩,
   ⟨rdy, 1, by decide +kernel, by decide +kernel, by decide +kernel⟩,
   ⟨{ rdy with reset' := { boot := .dies } }, 7, by decide +kernel, by decide +kernel, by decide +kernel, (by decide +kernel), by decide +kernel⟩,
   ⟨rdy, 7, rget rdy Reg.mailboxBase + 8192 * 7, by decide +kernel, by decide +kernel, by decide +kernel, (by decide +kernel), by decide +kernel⟩,
   ⟨{ rdy with hbm := { mem := (({} : Mem).writeN (rget rdy Reg.mailboxBase + 8192 * 7) (leBytes 8 1)).writeN (rget rdy Reg.mailboxBase + 8192 * 7 + 64) (leBytes 8 (2 ^ 56 + 2 ^ 48)) } }, kdpOf (mailboxMessage ({ rdy with hbm := { mem := (({} : Mem).writeN (rget rdy Reg.mailboxBase + 8192 * 7) (leBytes 8 1)).writeN (rget rdy Reg.mailboxBase + 8192 * 7 + 64) (leBytes 8 (2 ^ 56 + 2 ^ 48)) } }) 7), 7, rget rdy Reg.mailboxBase + 8192 * 7, by decide +kernel, by decide +kernel, by decide +kernel, (by decide +kernel), by decide +kernel, rfl, by decide +kernel⟩⟩

/-- States and operands that meet the hypotheses of each clause of AlertsAndTheManagementPort. -/
theorem test_AlertsAndTheManagementPort :
    (∃ (s : State) (via : Via) (v : Nat) (g : Mgmt), (g = s.mgmt) ∧ (Writable s via 0x7100 0xB) ∧ (v &&& 0xFFFFFF00 = 0) ∧ (g.linePending = false))
    ∧ (∃ (s : State) (via : Via) (v : Nat) (g : Mgmt), (g = s.mgmt) ∧ (Writable s via 0x7100 0xB) ∧ (v &&& 0xFFFFFF00 = 0) ∧ (g.linePending = true) ∧ (g.alerts &&& (0xFFFFFFFF - v % 2 ^ 32) = 0))
    ∧ (∃ (s : State) (via : Via) (v : Nat) (g : Mgmt), (g = s.mgmt) ∧ (Writable s via 0x7100 0xB) ∧ (v &&& 0xFFFFFF00 ≠ 0))
    ∧ (∃ (s : State) (g : Mgmt), (g = s.mgmt) ∧ (g.stuck = false) ∧ (g.linePending = false) ∧ (9 ≤ g.highRun) ∧ (g.alerts ≠ 0) ∧ (g.lineWanted = true))
    ∧ (∃ (s : State) (g : Mgmt), (g = s.mgmt) ∧ (g.stuck = false) ∧ (g.linePending = true) ∧ (g.alerts = 0 ∨ 49 ≤ g.pendingFor))
    ∧ (∃ (s : State) (g : Mgmt), (g = s.mgmt) ∧ (g.stuck = false) ∧ (g.linePending = true) ∧ (g.alerts ≠ 0) ∧ (g.pendingFor < 49))
    ∧ (∃ (s : State) (g : Mgmt), (g = s.mgmt) ∧ (g.stuck = true))
    ∧ (∃ (s : State) (g : Mgmt), (g = s.mgmt) ∧ (g.stuck = false) ∧ (g.linePending = false))
    ∧ (∃ (s : State) (g : Mgmt), (g = s.mgmt) ∧ (g.stuck = true))
    ∧ (∃ (s : State) (via : Via) (g : Mgmt), (g = s.mgmt) ∧ (Writable s via 0x7100 0xD))
    ∧ (∃ (s : State) (n : Nat) (g : Mgmt), (g = s.mgmt) ∧ (g.alerts ≠ 0) ∧ (g.sessions.map (·.1) = [n]))
    ∧ (∃ (s : State) (g : Mgmt), (g = s.mgmt) ∧ (g.alerts = 0))
    ∧ (∃ (s : State) (g : Mgmt), (g = s.mgmt) ∧ (s.reset'.boot ≠ .off))
    ∧ (∃ (s : State) (g : Mgmt), (g = s.mgmt) ∧ (g.linkUp = true))
    ∧ (∃ (s : State) (g : Mgmt), (g = s.mgmt) ∧ (g.linkUp = false))
    ∧ (∃ (s : State) (n : Nat) (anchor : Option (List Byte)) (g : Mgmt), (g = s.mgmt) ∧ (g.linkUp = true) ∧ (fwRuns s = true) ∧ (clientOk s true anchor = true) ∧ ((List.range 4).find? (fun n => (tget? g.sessions n).isNone) = some n))
    ∧ (∃ (s : State) (g : Mgmt), (g = s.mgmt) ∧ (g.linkUp = true) ∧ (fwRuns s = true))
    ∧ (∃ (s : State) (n : Nat) (g : Mgmt), (g = s.mgmt) ∧ ((tget? g.sessions n).isSome = true))
    ∧ (∃ (s : State) (n : Nat) (g : Mgmt), (g = s.mgmt) ∧ ((tget? g.sessions n) = none))
    ∧ (∃ (s : State) (g : Mgmt) (target : List Byte), (g = s.mgmt) ∧ (g.linkUp = true) ∧ (ownAddress s target = true))
    ∧ (∃ (s : State) (g : Mgmt) (target : List Byte), (g = s.mgmt) ∧ (g.linkUp = false ∨ ownAddress s target = false))
    ∧ (∃ (s : State) (g : Mgmt), (g = s.mgmt) ∧ (g.ipv6.length = 16) ∧ (g.ipv6.any (· != 0) = true))
    ∧ (∃ (s : State) (g : Mgmt), (g = s.mgmt)) :=
  ⟨⟨{ rdy with mgmt := { linkUp := true, sessions := [(0, { anchor := some [1] })], alerts := 3 } }, m0, 2, { linkUp := true, sessions := [(0, { anchor := some [1] })], alerts := 3 }, by decide +kernel, ⟨by decide +kernel, by decide +kernel, by decide +kernel⟩, by decide +kernel, by decide +kernel⟩,
   ⟨{ rdy with mgmt := { linkUp := true, sessions := [(0, { anchor := some [1] })], alerts := 3, linePending := true } }, m0, 3, { linkUp := true, sessions := [(0, { anchor := some [1] })], alerts := 3, linePending := true }, by decide +kernel, ⟨by decide +kernel, by decide +kernel, by decide +kernel⟩, by decide +kernel, by decide +kernel, by decide +kernel⟩,
   ⟨{ rdy with mgmt := { linkUp := true, sessions := [(0, { anchor := some [1] })] } }, m0, 256, { linkUp := true, sessions := [(0, { anchor := some [1] })] }, by decide +kernel, ⟨by decide +kernel, by decide +kernel, by decide +kernel⟩, by decide +kernel⟩,
   ⟨{ rdy with mgmt := { linkUp := true, sessions := [(0, { anchor := some [1] })], highRun := 9, alerts := 1, lineWanted := true } }, { linkUp := true, sessions := [(0, { anchor := some [1] })], highRun := 9, alerts := 1, lineWanted := true }, by decide +kernel, by decide +kernel, by decide +kernel, (by decide +kernel), by decide +kernel, by decide +kernel⟩,
   ⟨{ rdy with mgmt := { linkUp := true, sessions := [(0, { anchor := some [1] })], linePending := true, alerts := 1, pendingFor := 49 } }, { linkUp := true, sessions := [(0, { anchor := some [1] })], linePending := true, alerts := 1, pendingFor := 49 }, by decide +kernel, by decide +kernel, by decide +kernel, (by decide +kernel)⟩,
   ⟨{ rdy with mgmt := { linkUp := true, sessions := [(0, { anchor := some [1] })], linePending := true, alerts := 1, pendingFor := 48 } }, { linkUp := true, sessions := [(0, { anchor := some [1] })], linePending := true, alerts := 1, pendingFor := 48 }, by decide +kernel, by decide +kernel, by decide +kernel, (by decide +kernel), by decide +kernel⟩,
   ⟨{ rdy with mgmt := { linkUp := true, sessions := [(0, { anchor := some [1] })], stuck := true } }, { linkUp := true, sessions := [(0, { anchor := some [1] })], stuck := true }, by decide +kernel, by decide +kernel⟩,
   ⟨{ rdy with mgmt := { linkUp := true, sessions := [(0, { anchor := some [1] })] } }, { linkUp := true, sessions := [(0, { anchor := some [1] })] }, by decide +kernel, by decide +kernel, by decide +kernel⟩,
   ⟨{ rdy with mgmt := { linkUp := true, sessions := [(0, { anchor := some [1] })], stuck := true } }, { linkUp := true, sessions := [(0, { anchor := some [1] })], stuck := true }, by decide +kernel, by decide +kernel⟩,
   ⟨{ rdy with mgmt := { linkUp := true, sessions := [(0, { anchor := some [1] })], stuck := true } }, m0, { linkUp := true, sessions := [(0, { anchor := some [1] })], stuck := true }, by decide +kernel, ⟨by decide +kernel, by decide +kernel, by decide +kernel⟩⟩,
   ⟨{ rdy with mgmt := { linkUp := true, sessions := [(0, { anchor := some [1] })], alerts := 128 } }, 0, { linkUp := true, sessions := [(0, { anchor := some [1] })], alerts := 128 }, by decide +kernel, by decide +kernel, by decide +kernel⟩,
   ⟨{ rdy with mgmt := { linkUp := true, sessions := [(0, { anchor := some [1] })] } }, { linkUp := true, sessions := [(0, { anchor := some [1] })] }, by decide +kernel, by decide +kernel⟩,
   ⟨{ rdy with mgmt := { linkUp := true, sessions := [(0, { anchor := some [1] })] } }, { linkUp := true, sessions := [(0, { anchor := some [1] })] }, by decide +kernel, by decide +kernel⟩,
   ⟨{ rdy with mgmt := { linkUp := true, sessions := [(0, { anchor := some [1] })] } }, { linkUp := true, sessions := [(0, { anchor := some [1] })] }, by decide +kernel, by decide +kernel⟩,
   ⟨{ rdy with mgmt := { linkUp := false } }, { linkUp := false }, by decide +kernel, by decide +kernel⟩,
   ⟨{ rdy with mgmt := { linkUp := true, sessions := [(0, { anchor := some [1] })] } }, 1, some [1], { linkUp := true, sessions := [(0, { anchor := some [1] })] }, by decide +kernel, by decide +kernel, by decide +kernel, (by decide +kernel), by decide +kernel⟩,
   ⟨{ rdy with mgmt := { linkUp := true, sessions := [(0, { anchor := some [1] })] } }, { linkUp := true, sessions := [(0, { anchor := some [1] })] }, by decide +kernel, by decide +kernel, by decide +kernel⟩,
   ⟨{ rdy with mgmt := { linkUp := true, sessions := [(0, { anchor := some [1] })] } }, 0, { linkUp := true, sessions := [(0, { anchor := some [1] })] }, by decide +kernel, by decide +kernel⟩,
   ⟨{ rdy with mgmt := { linkUp := true, sessions := [(0, { anchor := some [1] })] } }, 3, { linkUp := true, sessions := [(0, { anchor := some [1] })] }, by decide +kernel, by decide +kernel⟩,
   ⟨{ rdy with mgmt := { linkUp := true, sessions := [(0, { anchor := some [1] })] } }, { linkUp := true, sessions := [(0, { anchor := some [1] })] }, linkLocal, by decide +kernel, by decide +kernel, by simp [ownAddress]⟩,
   ⟨{ rdy with mgmt := { linkUp := false } }, { linkUp := false }, linkLocal, by decide +kernel, Or.inl (by decide +kernel)⟩,
   ⟨{ rdy with mgmt := { linkUp := true, ipv6 := 1 :: zeros 15 } }, { linkUp := true, ipv6 := 1 :: zeros 15 }, by decide +kernel, by decide +kernel, by decide +kernel⟩,
   ⟨{ rdy with mgmt := { linkUp := true, sessions := [(0, { anchor := some [1] })] } }, { linkUp := true, sessions := [(0, { anchor := some [1] })] }, by decide +kernel⟩⟩

/-- States and operands that meet the hypotheses of each clause of FaultsRollBack. -/
theorem test_FaultsRollBack :
    (∃ (s : State) (p : Packet), (isControl p 4 = true) ∧ (faultMatches s p = true) ∧ (faultable s = true))
    ∧ (∃ (s : State) (p : Packet), (isControl p 4 = true) ∧ (faultMatches s p = false) ∧ (s.faults.rollback = .none))
    ∧ (∃ (s : State) (r : Run) (k : Nat), (s.last.run = some r) ∧ (s.faults.rollback = .faulted) ∧ (coordinator s r = some (ownChip s)) ∧ (allFaults s r = true) ∧ (restartStep s r = some k) ∧ (s.faults.lastS ≠ some k))
    ∧ (∃ (s : State) (r : Run), (s.last.run = some r) ∧ (s.faults.rollback = .faulted) ∧ (coordinator s r = some (ownChip s)) ∧ (allFaults s r = true) ∧ (restartStep s r = none))
    ∧ (∃ (s : State) (r : Run), (s.last.run = some r) ∧ (allFaults s r = false))
    ∧ (∃ (s : State) (p : Packet) (r : Run), (isControl p 5 = true) ∧ (s.last.run = some r) ∧ (s.faults.rollback = .faulted) ∧ (coordinator s r = some p.src) ∧ (bit (p.pay 4) 61 = false))
    ∧ (∃ (s : State) (p : Packet) (r : Run), (isControl p 5 = true) ∧ (s.last.run = some r) ∧ (s.faults.rollback = .faulted) ∧ (coordinator s r = some p.src) ∧ (bit (p.pay 4) 61 = true))
    ∧ (∃ (s : State) (r : Run), (s.last.run = some r) ∧ (s.faults.rollback = .faulted) ∧ (coordinator s r ≠ some (ownChip s)))
    ∧ (∃ (s : State), (s.faults.rollback ≠ .faulted))
    ∧ (∃ (s : State) (k : Nat) (chip : Nat) (base : Nat), (s.faults.rollback = .restoring) ∧ (s.faults.restore = some (k, chip, base)) ∧ (s.faults.restoreOut = 0) ∧ (s.faults.restoreBad = 0))
    ∧ (∃ (s : State) (k : Nat) (chip : Nat) (base : Nat), (s.faults.rollback = .restoring) ∧ (s.faults.restore = some (k, chip, base)) ∧ (s.faults.restoreOut = 0) ∧ (s.faults.restoreBad ≠ 0))
    ∧ (∃ (s : State) (k : Nat) (chip : Nat) (base : Nat), (s.faults.rollback = .restoring) ∧ (s.faults.restore = some (k, chip, base)) ∧ (s.faults.restoreOut = 0))
    ∧ (∃ (s : State) (k : Nat) (chip : Nat) (base : Nat), (s.faults.rollback = .restoring) ∧ (s.faults.restore = some (k, chip, base)) ∧ (s.faults.restoreOut ≠ 0))
    ∧ (∃ (s : State) (r : Run) (x : TreadRec), (s.last.run = some r) ∧ (s.faults.rollback = .replaying) ∧ (replayNext s r = some x) ∧ (replayDue s r x = true) ∧ (replayBlocked s x = false))
    ∧ (∃ (s : State) (r : Run) (x : TreadRec), (s.last.run = some r) ∧ (s.faults.rollback = .replaying) ∧ (replayNext s r = some x) ∧ (replayDue s r x = false))
    ∧ (∃ (s : State) (r : Run), (s.last.run = some r) ∧ (s.faults.rollback = .replaying) ∧ (r.bench = false) ∧ (s.faults.faultBeat < nowSched s))
    ∧ (∃ (s : State) (r : Run), (s.last.run = some r) ∧ (s.faults.rollback = .replaying) ∧ (nowSched s ≤ s.faults.faultBeat))
    ∧ (∃ (s : State) (via : Via) (v : Nat) (ext : Nat), (Writable s via 0x7000 1) ∧ (newer 32 v (rget s Reg.faultEpoch) = true) ∧ (ext = extend 32 s.faults.epochExt v))
    ∧ (∃ (s : State) (via : Via) (v : Nat), (Writable s via 0x7000 1) ∧ (newer 32 v (rget s Reg.faultEpoch) = false))
    ∧ (∃ (s : State) (via : Via) (chip : Nat), (Writable s via 0x7000 2) ∧ (chip ≤ 0xF7F))
    ∧ (∃ (s : State) (h : HeldReport), (s.faults.held = [h]))
    ∧ (∃ (s : State), (s.faults.held = []))
    ∧ (∃ (s : State) (chip : Nat), (lanesNaming s chip ≠ []) ∧ (∀ l ∈ lanesNaming s chip, laneStatus s (l / 32) (reverseLane (l / 32) (l % 32)) = .down))
    ∧ (∃ (s : State) (chip : Nat), (lanesNaming s chip = [])) :=
  ⟨⟨{ live [] run1 .running with faults := {  } }, { hdr := [word (5 * 2 ^ 52 + 6 * 2 ^ 40 + 3 * 2 ^ 38 + 2 ^ 24 + 6 * 2 ^ 20), 0, 0, 0, 0, 0, 0, 0], payload := leBytes 8 (4 * 2 ^ 56) ++ zeros 24 ++ leBytes 8 (0) ++ zeros 24 }, by decide +kernel, by decide +kernel, by decide +kernel⟩,
   ⟨rdy, { hdr := [word (5 * 2 ^ 52 + 6 * 2 ^ 40 + 3 * 2 ^ 38 + 2 ^ 24 + 6 * 2 ^ 20), 0, 0, 0, 0, 0, 0, 0], payload := leBytes 8 (4 * 2 ^ 56) ++ zeros 24 ++ leBytes 8 (0) ++ zeros 24 }, by decide +kernel, by decide +kernel, by decide +kernel⟩,
   ⟨{ live ((0, 2 ^ 31) :: (256, 5) :: image 1 []) run1 .running with faults := { rollback := .faulted, peers := [⟨5, some 3, none, 0, 0⟩] } }, run1, 3, by decide +kernel, by decide +kernel, by decide +kernel, (by decide +kernel), by decide +kernel, by decide +kernel⟩,
   ⟨{ live ((0, 2 ^ 31) :: (256, 5) :: image 1 []) run1 .running with faults := { rollback := .faulted, peers := [⟨5, none, none, 0, 0⟩] } }, run1, by decide +kernel, by decide +kernel, by decide +kernel, (by decide +kernel), by decide +kernel⟩,
   ⟨{ live ((0, 2 ^ 31) :: (256, 5) :: image 1 []) run1 .running with faults := {  } }, run1, by decide +kernel, by decide +kernel⟩,
   ⟨{ live ((0, 2 ^ 31) :: (256, 6) :: image 1 []) run1 .running with faults := { rollback := .faulted, peers := [⟨6, none, none, 0, 0⟩] } }, { hdr := [word (5 * 2 ^ 52 + 6 * 2 ^ 40 + 3 * 2 ^ 38 + 2 ^ 24 + 6 * 2 ^ 20), 0, 0, 0, 0, 0, 0, 0], payload := leBytes 8 (5 * 2 ^ 56) ++ zeros 24 ++ leBytes 8 (0) ++ zeros 24 }, run1, by decide +kernel, by decide +kernel, by decide +kernel, (by decide +kernel), by decide +kernel⟩,
   ⟨{ live ((0, 2 ^ 31) :: (256, 6) :: image 1 []) run1 .running with faults := { rollback := .faulted, peers := [⟨6, none, none, 0, 0⟩] } }, { hdr := [word (5 * 2 ^ 52 + 6 * 2 ^ 40 + 3 * 2 ^ 38 + 2 ^ 24 + 6 * 2 ^ 20), 0, 0, 0, 0, 0, 0, 0], payload := leBytes 8 (5 * 2 ^ 56) ++ zeros 24 ++ leBytes 8 (2 ^ 61) ++ zeros 24 }, run1, by decide +kernel, by decide +kernel, by decide +kernel, (by decide +kernel), by decide +kernel⟩,
   ⟨{ live ((0, 2 ^ 31) :: (256, 6) :: image 1 []) run1 .running with faults := { rollback := .faulted, peers := [⟨6, none, none, 0, 0⟩] } }, run1, by decide +kernel, by decide +kernel, by decide +kernel⟩,
   ⟨rdy, by decide +kernel⟩,
   ⟨{ rdy with faults := { rollback := .restoring, restore := some (1, 5, 0) } }, 1, 5, 0, by decide +kernel, by decide +kernel, by decide +kernel, (by decide +kernel)⟩,
   ⟨{ rdy with faults := { rollback := .restoring, restore := some (1, 5, 0), restoreBad := 1 } }, 1, 5, 0, by decide +kernel, by decide +kernel, by decide +kernel, (by decide +kernel)⟩,
   ⟨{ rdy with faults := { rollback := .restoring, restore := some (1, 5, 0), restoreOut := 0 } }, 1, 5, 0, by decide +kernel, by decide +kernel, by decide +kernel⟩,
   ⟨{ rdy with faults := { rollback := .restoring, restore := some (1, 5, 0), restoreOut := 1 } }, 1, 5, 0, by decide +kernel, by decide +kernel, by decide +kernel⟩,
   ⟨{ live [] run1 .running with faults := { rollback := .replaying }, trace := { tread := [{ pos := 0, kind := 1, src := 0, queue := 0, sched := none, beat := 0, arg := 0, payload := [] }] } }, run1, { pos := 0, kind := 1, src := 0, queue := 0, sched := none, beat := 0, arg := 0, payload := [] }, by decide +kernel, by decide +kernel, by decide +kernel, (by decide +kernel), by decide +kernel⟩,
   ⟨{ live [] run1 .running with faults := { rollback := .replaying }, trace := { tread := [{ pos := 0, kind := 1, src := 0, queue := 0, sched := some 5, beat := 0, arg := 0, payload := [] }] } }, run1, { pos := 0, kind := 1, src := 0, queue := 0, sched := some 5, beat := 0, arg := 0, payload := [] }, by decide +kernel, by decide +kernel, by decide +kernel, (by decide +kernel)⟩,
   ⟨{ live [] { run1 with sched := 2, stepCount := 2 } .running with faults := { rollback := .replaying } }, { run1 with sched := 2, stepCount := 2 }, by decide +kernel, by decide +kernel, by decide +kernel, (by decide +kernel)⟩,
   ⟨{ live [] run1 .running with faults := { rollback := .replaying } }, run1, by decide +kernel, by decide +kernel, by decide +kernel⟩,
   ⟨rdy, m0, 2 ^ 31 - 1, extend 32 rdy.faults.epochExt (2 ^ 31 - 1), ⟨by decide +kernel, by decide +kernel, by decide +kernel⟩, by decide +kernel, by decide +kernel⟩,
   ⟨rdy, m0, 2 ^ 31, ⟨by decide +kernel, by decide +kernel, by decide +kernel⟩, by decide +kernel⟩,
   ⟨rdy, m0, 0xF7F, ⟨by decide +kernel, by decide +kernel, by decide +kernel⟩, by decide +kernel⟩,
   ⟨{ rdy with faults := { held := [⟨1, 6, 1, 0⟩] } }, ⟨1, 6, 1, 0⟩, by decide +kernel⟩,
   ⟨rdy, by decide +kernel⟩,
   ⟨{ rdy with lanes := [(lk 0 1, { accepted := [word (6 * 2 ^ 52)] })] }, 6, by decide +kernel, by decide +kernel⟩,
   ⟨rdy, 6, by decide +kernel⟩⟩

/-- States and operands that meet the hypotheses of each clause of TraceAndTreadLog. -/
theorem test_TraceAndTreadLog :
    (∃ (s : State) (a : List Word) (b : List Word) (rs : List (List Word)), (traceSending s = true) ∧ (s.trace.queue = a :: b :: rs))
    ∧ (∃ (s : State), (traceSending s = true) ∧ (s.trace.queue = []))
    ∧ (∃ (s : State) (x : Nat) (a : List Word) (b : List Word), (tget? s.trace.scramblers (s.trace.portBlock % 4) = some x) ∧ (a.length = 4) ∧ (b.length = 4))
    ∧ (∃ (s : State), (traceSending s = false))
    ∧ (∃ (s : State), (s.trace.lostPending ≠ 0) ∧ (s.trace.queue.length + 16 ≤ 7680))
    ∧ (∃ (s : State), (s.trace.lostPending = 0))
    ∧ (∃ (s : State) (r : Run), (s.clock.beat.toNat % rget s Reg.traceMarkBeats = 0) ∧ (s.trace.markAt ≠ some s.clock.beat.toNat) ∧ (s.last.run = some r) ∧ (schedBeat s = some (nowSched s)) ∧ ((rget s Reg.traceEnable).testBit 1 = true) ∧ (s.trace.queue.length < 7680))
    ∧ (∃ (s : State), (s.clock.beat.toNat % rget s Reg.traceMarkBeats = 0) ∧ (s.trace.markAt ≠ some s.clock.beat.toNat) ∧ ((rget s Reg.traceEnable).testBit 1 = false))
    ∧ (∃ (s : State), (s.clock.beat.toNat % rget s Reg.traceMarkBeats ≠ 0 ∨ s.trace.markAt = some s.clock.beat.toNat))
    ∧ (∃ (s : State) (via : Via), (Writable s via 0x6200 8) ∧ (s.trace.frozen = false))
    ∧ (∃ (s : State) (via : Via), (Writable s via 0x6200 8) ∧ (s.trace.frozen = true))
    ∧ (∃ (s : State) (via : Via), (Writable s via 0x6200 8) ∧ (exportOpen s = false))
    ∧ (∃ (s : State) (via : Via), (Writable s via 0x6200 8) ∧ (exportOpen s = true))
    ∧ (∃ (s : State) (x : Nat), (viaOpen s (.mgmt x) = true) ∧ (exportWaits s = true))
    ∧ (∃ (s : State) (via : Via) (e : Entry) (bs : List Byte), (viaOpen s via = true) ∧ (exportWaits s = false) ∧ (findEntry 0x6200 0xE = some e) ∧ (entryStatus s via 0x6200 0xE 2 = Code.ok) ∧ (openCount s via < openLimit via) ∧ (exportChunk s (dtlsOf s via).exportOff = (Code.ok, bs)))
    ∧ (∃ (s : State) (via : Via) (v : List Byte), (Writable s via 0x6200 0xF) ∧ (v.length = 16) ∧ (lastArmed s = false))
    ∧ (∃ (s : State) (via : Via) (v : List Byte), (Writable s via 0x6200 0xF) ∧ (v.length = 16) ∧ (lastArmed s = true)) :=
  ⟨⟨{ rdy with trace := { queue := [[0, 0, 0, 0], [1, 1, 1, 1]] } }, [0, 0, 0, 0], [1, 1, 1, 1], [], by decide +kernel, by decide +kernel⟩,
   ⟨rdy, by decide +kernel, by decide +kernel⟩,
   ⟨{ rdy with trace := { scramblers := [(0, 5)] } }, 5, [0, 0, 0, 0], [0, 0, 0, 0], by decide +kernel, by decide +kernel, by decide +kernel⟩,
   ⟨{ rdy with reset' := { boot := .waitPower, pwrOk := true } }, by decide +kernel⟩,
   ⟨{ rdy with trace := { lostPending := 1 } }, by decide +kernel, by decide +kernel⟩,
   ⟨rdy, by decide +kernel⟩,
   ⟨rset (live [] run1 .running) Reg.traceEnable 2, run1, by decide +kernel, by decide +kernel, by decide +kernel, (by decide +kernel), by decide +kernel, by decide +kernel⟩,
   ⟨rset (rset rdy Reg.traceMarkBeats 1) Reg.traceEnable 0, by decide +kernel, by decide +kernel, by decide +kernel⟩,
   ⟨rset { rdy with clock := { beat := 1 } } Reg.traceMarkBeats 2, Or.inl (by decide +kernel)⟩,
   ⟨rdy, m0, ⟨by decide +kernel, by decide +kernel, by decide +kernel⟩, by decide +kernel⟩,
   ⟨{ rdy with trace := { frozen := true } }, m0, ⟨by decide +kernel, by decide +kernel, by decide +kernel⟩, by decide +kernel⟩,
   ⟨rdy, m0, ⟨by decide +kernel, by decide +kernel, by decide +kernel⟩, by decide +kernel⟩,
   ⟨{ rdy with mgmt := { linkUp := true, sessions := [(0, { anchor := some [1] })], segs := [{ id := 1, via := m0, key := entryKey 0x6200 0xE, write := false, count := 0 }] } }, m0, ⟨by decide +kernel, by decide +kernel, by decide +kernel⟩, by decide +kernel⟩,
   ⟨{ rdy with tenancy := { anchors := [[1]], vals := { mode := .sealed }, keys := [(63, { state := .pending, purpose := purposeExport })] }, trace := { frozen := true } }, 0, by decide +kernel, by decide +kernel⟩,
   ⟨{ rdy with trace := { frozen := true } }, m0, (findEntry 0x6200 0xE).get (by decide +kernel), (exportChunk { rdy with trace := { frozen := true } } 0).2, by decide +kernel, by decide +kernel, by decide +kernel, (by decide +kernel), by decide +kernel, by decide +kernel⟩,
   ⟨rdy, m0, zeros 16, ⟨by decide +kernel, by decide +kernel, by decide +kernel⟩, by decide +kernel, by decide +kernel⟩,
   ⟨live [] {} .armed, m0, zeros 16, ⟨by decide +kernel, by decide +kernel, by decide +kernel⟩, by decide +kernel, by decide +kernel⟩⟩

/-- States and operands that meet the hypotheses of each clause of TranslationWritesAreRefused. -/
theorem test_TranslationWritesAreRefused :
    (∃ (s : State) (via : Via) (v : Nat), (Writable s via 0x3060 8) ∧ (v % 65536 ≠ 0 ∨ hbmBytes < v + 65536))
    ∧ (∃ (s : State) (via : Via) (v : Nat), (Writable s via 0x3060 9) ∧ (v ≠ 0)) :=
  ⟨⟨rdy, m0, hbmBytes, ⟨by decide +kernel, by decide +kernel, by decide +kernel⟩, by decide +kernel⟩,
   ⟨rdy, m0, 1, ⟨by decide +kernel, by decide +kernel, by decide +kernel⟩, by decide +kernel⟩⟩

/-- States and operands that meet the hypotheses of each clause of TimeoutsKeepTheirOrder. -/
theorem test_TimeoutsKeepTheirOrder :
    (∃ (s : State) (via : Via) (m : Kdp), (Requested s via m kindWrite) ∧ (m.index = 0x2380) ∧ (m.data.length = 4) ∧ (entryStatus s via 0x2380 m.sub 1 = Code.ok) ∧ (unclaimedRefusal s via 0x2380 m.sub = false) ∧ (m.sub = 5) ∧ (leNat m.data < rget s Reg.reorderHoldUs + 100))
    ∧ (∃ (s : State) (via : Via) (m : Kdp), (Requested s via m kindWrite) ∧ (m.index = 0x2380) ∧ (m.data.length = 4) ∧ (entryStatus s via 0x2380 m.sub 1 = Code.ok) ∧ (unclaimedRefusal s via 0x2380 m.sub = false) ∧ (m.sub = 6) ∧ (rget s Reg.ackTimeoutUs < leNat m.data + 100))
    ∧ (∃ (s : State) (via : Via) (m : Kdp), (Requested s via m kindWrite) ∧ (m.index = 0x2380) ∧ (m.data.length = 4) ∧ (entryStatus s via 0x2380 m.sub 1 = Code.ok) ∧ (unclaimedRefusal s via 0x2380 m.sub = false)) :=
  ⟨⟨rdy, m0, ⟨word (1 * 2 ^ 56 + 2 * 2 ^ 48 + 0x2380 * 2 ^ 32 + 5 * 2 ^ 24 + 0 * 2 ^ 14 + 4), word (0), word (0), leBytes 4 299⟩, ⟨by decide +kernel, by decide +kernel, by decide +kernel, by intro n h; cases h; try decide +kernel, by intro n h; cases h; try decide +kernel⟩, by decide +kernel, by decide +kernel, by decide +kernel, (by decide +kernel), by decide +kernel, by decide +kernel⟩,
   ⟨rdy, m0, ⟨word (1 * 2 ^ 56 + 2 * 2 ^ 48 + 0x2380 * 2 ^ 32 + 6 * 2 ^ 24 + 0 * 2 ^ 14 + 4), word (0), word (0), leBytes 4 401⟩, ⟨by decide +kernel, by decide +kernel, by decide +kernel, by intro n h; cases h; try decide +kernel, by intro n h; cases h; try decide +kernel⟩, by decide +kernel, by decide +kernel, by decide +kernel, (by decide +kernel), by decide +kernel, by decide +kernel⟩,
   ⟨rdy, m0, ⟨word (1 * 2 ^ 56 + 2 * 2 ^ 48 + 0x2380 * 2 ^ 32 + 5 * 2 ^ 24 + 0 * 2 ^ 14 + 4), word (0), word (0), leBytes 4 299⟩, ⟨by decide +kernel, by decide +kernel, by decide +kernel, by intro n h; cases h; try decide +kernel, by intro n h; cases h; try decide +kernel⟩, by decide +kernel, by decide +kernel, by decide +kernel, (by decide +kernel)⟩⟩

/-- States and operands that meet the hypotheses of each clause of SignalAddsOrSets. -/
theorem test_SignalAddsOrSets :
    (∃ (s : State) (q : Nat) (id : Nat) (a : Nat) (f : Flight), (Begins s q id 6 f) ∧ (s.hbm.mem.wf = true) ∧ (a = rget s Reg.semBase + 8 * fld (nth f.words 1) 63 52) ∧ (poisoned s a 8 = false))
    ∧ (∃ (s : State) (q : Nat) (id : Nat) (a : Nat) (f : Flight), (Begins s q id 6 f) ∧ (s.hbm.mem.wf = true) ∧ (a = rget s Reg.semBase + 8 * fld (nth f.words 1) 63 52) ∧ (poisoned s a 8 = false) ∧ (fld (nth f.words 1) 51 48 = 0))
    ∧ (∃ (s : State) (q : Nat) (id : Nat) (a : Nat) (f : Flight), (Begins s q id 6 f) ∧ (s.hbm.mem.wf = true) ∧ (a = rget s Reg.semBase + 8 * fld (nth f.words 1) 63 52) ∧ (poisoned s a 8 = false) ∧ (fld (nth f.words 1) 51 48 ≠ 0)) :=
  ⟨⟨inFlight (rdy) [6 * 2 ^ 56, 4095 * 2 ^ 52, 1], 3, 7, rget rdy Reg.semBase + 8 * 4095, cmd [6 * 2 ^ 56, 4095 * 2 ^ 52, 1], ⟨by decide +kernel, by decide +kernel, by decide +kernel, by decide +kernel, (by decide +kernel)⟩, by decide +kernel, by decide +kernel, by decide +kernel⟩,
   ⟨inFlight (rdy) [6 * 2 ^ 56, 4095 * 2 ^ 52, 1], 3, 7, rget rdy Reg.semBase + 8 * 4095, cmd [6 * 2 ^ 56, 4095 * 2 ^ 52, 1], ⟨by decide +kernel, by decide +kernel, by decide +kernel, by decide +kernel, (by decide +kernel)⟩, by decide +kernel, by decide +kernel, by decide +kernel, (by decide +kernel)⟩,
   ⟨inFlight (rdy) [6 * 2 ^ 56, 4095 * 2 ^ 52 + 2 ^ 48, 1], 3, 7, rget rdy Reg.semBase + 8 * 4095, cmd [6 * 2 ^ 56, 4095 * 2 ^ 52 + 2 ^ 48, 1], ⟨by decide +kernel, by decide +kernel, by decide +kernel, by decide +kernel, (by decide +kernel)⟩, by decide +kernel, by decide +kernel, by decide +kernel, (by decide +kernel)⟩⟩

/-- States and operands that meet the hypotheses of StepRunsFrontCommand. -/
theorem test_StepRunsFrontCommand :
    (∃ (s : State) (c : Instr) (cs : List Instr), s.pending = c :: cs) ∧ ∃ s : State, s.pending = [] :=
  ⟨⟨{ rdy with pending := [.goRelay, .syncTimeout] }, .goRelay, [.syncTimeout], rfl⟩, rdy, rfl⟩

/-- States and operands that meet the hypotheses of CountersCompareAndExtend, the last three half the range apart. -/
theorem test_CountersCompareAndExtend :
    (∃ n prev v : Nat, ∃ d x : Int, 0 < n ∧ n ≤ 64 ∧ d = ((v : Int) - prev) % 2 ^ n ∧ x = (if d < 2 ^ (n - 1) then (prev : Int) + d else prev - (2 ^ n - d)) ∧ 0 ≤ x ∧ x < 2 ^ 64)
    ∧ (∃ n prev v : Nat, ∃ d x : Int, n = 64 ∧ d = ((v : Int) - prev) % 2 ^ n ∧ x = (if d < 2 ^ (n - 1) then (prev : Int) + d else prev - (2 ^ n - d)) ∧ 0 ≤ x ∧ x < 2 ^ 64)
    ∧ (∃ n a b : Nat, 0 < n ∧ n ≤ 64 ∧ newer n a b = true)
    ∧ (∃ (s : State) (via : Via) (v : Nat), Writable s via 0x7000 1 ∧ v = (rget s Reg.faultEpoch + 2 ^ 31) % 2 ^ 32)
    ∧ (∃ (s : State) (via : Via), Writable s via 0x2300 9 ∧ s.router.state = .serving
        ∧ rget s Reg.shadowGeneration = (rget s Reg.activeGeneration + 2 ^ 15) % 2 ^ 16)
    ∧ (∃ (s : State) (via : Via), Writable s via 0x2400 2 ∧ lastRunning s = false ∧ planValidNow s = true
        ∧ planGen s.plan.staged = (rget s Reg.planGeneration + 2 ^ 15) % 2 ^ 16) :=
  ⟨⟨16, 7, 3, 65532, 3, by decide +kernel, by decide +kernel, by decide +kernel, (by decide +kernel), by decide +kernel, by decide +kernel⟩,
   ⟨64, 5, 9, 4, 9, rfl, by decide +kernel, by decide +kernel, by decide +kernel, (by decide +kernel)⟩,
   ⟨16, 3, 0xFFFE, by decide +kernel, by decide +kernel, by decide +kernel⟩,
   ⟨rdy, m0, 2 ^ 31, ⟨by decide +kernel, by decide +kernel, by decide +kernel⟩, by decide +kernel⟩,
   ⟨rset rdy Reg.shadowGeneration 0x8000, m0, ⟨by decide +kernel, by decide +kernel, by decide +kernel⟩, by decide +kernel, by decide +kernel⟩,
   ⟨{ rdy with plan := { committed := [0], staged := leBytes 8 (2 ^ 55) } }, m0, ⟨by decide +kernel, by decide +kernel, by decide +kernel⟩, by decide +kernel, by decide +kernel, by decide +kernel⟩⟩

end Sys2Proof.Tests
end

namespace Sys2Proof.Machine

/-! ### Writes of an entry, by what their action answers -/

/-- A write that is let in and accepted. -/
theorem doWrite_accept {s t : State} {via : Via} {index sub : Nat} {act : State → Nat × State} (h : Writable s via index sub)
    (ha : act s = accept t) : doWrite s via index sub act = written t via index sub Code.ok := by
  rw [doWrite_effect h (by rw [ha]; rfl), ha]
  rfl

/-- A write that is let in and refused for its value. -/
theorem doWrite_valueRefused {s t : State} {via : Via} {index sub : Nat} {act : State → Nat × State} (h : Writable s via index sub)
    (ha : act s = (Code.valueRefused, t)) : doWrite s via index sub act = answer t via 2 index sub Code.valueRefused := by
  rw [doWrite_refusal h (by rw [ha]; rfl), ha]

end Sys2Proof.Machine

namespace Sys2Proof.Machine

/-! ### The package without power (R29, R33) -/

/-- Every entry reads its default at reset. -/
@[simp] theorem rget_reset (r : Reg) : rget State.reset r = r.dflt := rfl

/-- Every queue is as it was made at reset. -/
@[simp] theorem queueOf_reset (q : Nat) : queueOf State.reset q = {} := rfl

/-- Settles O6, from the fields that reset leaves as they were made. -/
theorem resetValues : Obligations.ResetValues := by
  have hqueue : ∀ q : Nat, (queueOf State.reset q).state = .disabled := fun q => by rw [queueOf_reset]
  have hchip : rget State.reset Reg.chipNumberActive = 0xFFFF := (rget_reset _).trans rfl
  exact ⟨rfl, rfl, rfl, rfl, rfl, rfl, rfl, rfl, hqueue, hchip, rget_reset⟩

end Sys2Proof.Machine

namespace Sys2Proof.Machine

/-! ### Counters that wrap (R40): how `newer` and `extend` read the distance of two values -/

/-- A power of two is the same number as a natural and as an integer. -/
theorem cast_two_pow (n : Nat) : ((2 ^ n : Nat) : Int) = 2 ^ n := Int.natCast_pow 2 n

/-- The distance that `newer` and `extend` compute on naturals is the integers' one. -/
theorem cast_distance (a b m : Nat) (hm : 0 < m) : (((a + m - b % m) % m : Nat) : Int) = ((a : Int) - b) % m := by
  have hb : (b : Int) = m * (b / m : Nat) + (b % m : Nat) := by
    rw [← Int.natCast_mul, ← Int.natCast_add, Nat.div_add_mod]
  have hlt : b % m < m := Nat.mod_lt b hm
  have hlap : (m : Int) * (1 + (b / m : Nat)) = m + m * (b / m : Nat) := by rw [Int.mul_add, Int.mul_one]
  have hsub : ((a + m - b % m : Nat) : Int) = (a : Int) - b + m * (1 + (b / m : Nat)) := by omega
  rw [Int.natCast_emod, hsub, Int.add_mul_emod_self_left]

/-- R40: newer by the distance of the two values modulo the range. -/
theorem newer_iff (n a b : Nat) :
    newer n a b = true ↔ ((a : Int) - b) % 2 ^ n ≠ 0 ∧ ((a : Int) - b) % 2 ^ n < 2 ^ (n - 1) := by
  have hd := cast_distance a b (2 ^ n) (Nat.two_pow_pos n)
  rw [← cast_two_pow n, ← cast_two_pow (n - 1), ← hd]
  simp only [newer, Bool.and_eq_true, decide_eq_true_eq]
  omega

/-- Only the low n bits of the newer value count. -/
theorem newer_mod (n a b : Nat) : newer n (a % 2 ^ n) b = newer n a b := by
  have hlow : (((a % 2 ^ n : Nat) : Int) - b) % 2 ^ n = ((a : Int) - b) % 2 ^ n := by
    rw [Int.natCast_emod, cast_two_pow, Int.emod_sub_emod]
  rw [Bool.eq_iff_iff, newer_iff, newer_iff, hlow]

/-- The range is twice its half. -/
theorem two_pow_eq_two_mul_half {n : Nat} (hn : 0 < n) : 2 ^ n = 2 * 2 ^ (n - 1) := by
  cases n with
  | zero => exact absurd hn (Nat.lt_irrefl 0)
  | succ n => rw [Nat.add_sub_cancel, Nat.pow_succ, Nat.mul_comm]

/-- R40: of two values at most one is newer. -/
theorem newer_asymm {n a b : Nat} (hn : 0 < n) (h : newer n a b = true) : newer n b a = false := by
  rw [Bool.eq_false_iff]
  intro h'
  obtain ⟨hab, hab'⟩ := (newer_iff n a b).1 h
  obtain ⟨-, hba'⟩ := (newer_iff n b a).1 h'
  rw [← cast_two_pow, ← cast_two_pow] at hab' hba'
  rw [← cast_two_pow] at hab
  have hhalf := two_pow_eq_two_mul_half hn
  have hpos := Nat.two_pow_pos (n - 1)
  generalize 2 ^ (n - 1) = half at *
  generalize 2 ^ n = m at *
  have hm : (m : Int) ≠ 0 := by omega
  have hsum : (((a : Int) - b) % m + ((b : Int) - a) % m) % m = 0 := by
    have hzero : ((a : Int) - b) + ((b : Int) - a) = 0 := by omega
    rw [← Int.add_emod, hzero, Int.zero_emod]
  have h1 := Int.emod_nonneg ((a : Int) - b) hm
  have h2 := Int.emod_nonneg ((b : Int) - a) hm
  rw [Int.emod_eq_of_lt (by omega) (by omega)] at hsum
  omega

/-- R40: a value half the range ahead is not newer. -/
theorem newer_half_range {n : Nat} (b : Nat) (hn : 0 < n) : newer n (b + 2 ^ (n - 1)) b = false := by
  have hhalf := two_pow_eq_two_mul_half hn
  have hpos := Nat.two_pow_pos (n - 1)
  have hd : (((b + 2 ^ (n - 1) : Nat) : Int) - b) % ((2 ^ n : Nat) : Int) = ((2 ^ (n - 1) : Nat) : Int) := by
    have hsub : ((b + 2 ^ (n - 1) : Nat) : Int) - b = ((2 ^ (n - 1) : Nat) : Int) := by omega
    rw [hsub]
    exact Int.emod_eq_of_lt (by omega) (by omega)
  rw [Bool.eq_false_iff, Ne, newer_iff, ← cast_two_pow n, ← cast_two_pow (n - 1), hd]
  exact fun h => Int.lt_irrefl _ h.2

/-- R40: nor is one half the range ahead that has wrapped round. -/
theorem newer_half_range_mod {n : Nat} (b : Nat) (hn : 0 < n) : newer n ((b + 2 ^ (n - 1)) % 2 ^ n) b = false :=
  (newer_mod n _ b).trans (newer_half_range b hn)

/-- The distance that `extend` goes forward, or short of the range back. -/
theorem cast_extend_distance (n prev v : Nat) :
    (((v % 2 ^ n + 2 ^ n - prev % 2 ^ n) % 2 ^ n : Nat) : Int) = ((v : Int) - prev) % ((2 ^ n : Nat) : Int) := by
  rw [cast_distance _ _ _ (Nat.two_pow_pos n), Int.natCast_emod, Int.emod_sub_emod]

/-- R40: the extended value, wherever it lies in 64 bits. -/
theorem extend_eq {n prev v : Nat} {d x : Int} (hn : n ≤ 64) (hd : d = ((v : Int) - prev) % 2 ^ n)
    (hx : x = if d < 2 ^ (n - 1) then (prev : Int) + d else prev - (2 ^ n - d)) (h0 : 0 ≤ x) (h64 : x < 2 ^ 64) :
    (extend n prev v : Int) = x := by
  rw [← cast_two_pow] at hd
  have hcast := (cast_extend_distance n prev v).trans hd.symm
  have hlt : (v % 2 ^ n + 2 ^ n - prev % 2 ^ n) % 2 ^ n < 2 ^ n := Nat.mod_lt _ (Nat.two_pow_pos n)
  have hle : 2 ^ n ≤ 2 ^ 64 := Nat.pow_le_pow_right (by decide) hn
  simp only [extend]
  generalize (v % 2 ^ n + 2 ^ n - prev % 2 ^ n) % 2 ^ n = k at hcast hlt
  subst hcast
  rw [← cast_two_pow n] at hx
  have hif : (k : Int) < 2 ^ (n - 1) ↔ k < 2 ^ (n - 1) := by rw [← cast_two_pow, Int.ofNat_lt]
  by_cases hk : k < 2 ^ (n - 1)
  · rw [if_pos (hif.2 hk)] at hx
    rw [if_pos hk]
    omega
  · rw [if_neg (mt hif.1 hk)] at hx
    rw [if_neg hk]
    omega

/-- R40: the extended value has the counter's value as its low n bits. -/
theorem extend_mod {n : Nat} (prev v : Nat) (hn : n ≤ 64) : extend n prev v % 2 ^ n = v % 2 ^ n := by
  have hdvd : 2 ^ n ∣ 2 ^ 64 := Nat.pow_dvd_pow 2 hn
  have hcast := cast_extend_distance n prev v
  have hlt : (v % 2 ^ n + 2 ^ n - prev % 2 ^ n) % 2 ^ n < 2 ^ n := Nat.mod_lt _ (Nat.two_pow_pos n)
  have hle : 2 ^ n ≤ 2 ^ 64 := Nat.le_of_dvd (by decide) hdvd
  simp only [extend]
  generalize (v % 2 ^ n + 2 ^ n - prev % 2 ^ n) % 2 ^ n = k at hcast hlt
  have hsum : (prev + k) % 2 ^ n = v % 2 ^ n := by
    apply Int.ofNat.inj
    have hback : (prev : Int) + ((v : Int) - prev) = v := by omega
    change (((prev + k) % 2 ^ n : Nat) : Int) = ((v % 2 ^ n : Nat) : Int)
    rw [Int.natCast_emod, Int.natCast_add, hcast, Int.add_emod_emod, hback, Int.natCast_emod]
  split
  · rw [Nat.mod_mod_of_dvd _ hdvd, hsum]
  · obtain ⟨c, hc⟩ := hdvd
    have hc1 : c ≠ 0 := by
      intro h
      rw [h, Nat.mul_zero] at hc
      exact absurd hc (by decide)
    have hlaps : 2 ^ n * (c - 1) = 2 ^ 64 - 2 ^ n := by rw [Nat.mul_sub, ← hc, Nat.mul_one]
    have hback : prev + 2 ^ 64 - (2 ^ n - k) = prev + k + 2 ^ n * (c - 1) := by omega
    rw [Nat.mod_mod_of_dvd _ ⟨c, hc⟩, hback, Nat.add_mul_mod_self_left, hsum]

/-- R497: a fault epoch that is not newer is refused, and the package stays as it is. -/
theorem wFaultEpoch_stale {s : State} {v : Nat} (h : newer 32 v (rget s Reg.faultEpoch) = false) :
    wFaultEpoch v s = (Code.valueRefused, s) := by
  simp [wFaultEpoch, h, refuse]

/-- R208: a swap to a shadow bank that is not newer is refused and noted. -/
theorem wRouteSwap_stale {s : State} (hs : s.router.state = .serving)
    (h : newer 16 (rget s Reg.shadowGeneration) (rget s Reg.activeGeneration) = false) :
    wRouteSwap 1 s = (Code.valueRefused, rset s Reg.swapResult 2) := by
  simp [wRouteSwap, hs, h]

/-- R278: a plan that is not newer than the valid one in force is refused and noted. -/
theorem wPlanCommit_stale {s : State} (hr : lastRunning s = false) (hv : planValidNow s = true)
    (h : newer 16 (planGen s.plan.staged) (rget s Reg.planGeneration) = false) :
    wPlanCommit 1 s = (Code.valueRefused, rset s Reg.commitResult 2) := by
  simp [wPlanCommit, hr, hv, h]

/-- Settles O57, from what `newer` and `extend` make of the distance and from the refusal of a stale update. -/
theorem countersCompareAndExtend : Obligations.CountersCompareAndExtend := by
  refine ⟨fun n a b prev v h0 hn => ⟨newer_iff n a b, newer_asymm h0, newer_half_range b h0,
      fun d x hd hx => extend_eq hn hd hx, extend_mod prev v hn⟩, by decide, by decide,
    fun s via => ⟨fun v hw hv => ?_, fun hw hs hg => ?_, fun hw hr hv hg => ?_⟩⟩
  · exact congrArg _ (doWrite_valueRefused hw (wFaultEpoch_stale (hv ▸ newer_half_range_mod _ (by decide))))
  · exact congrArg _ (doWrite_valueRefused hw (wRouteSwap_stale hs (hg ▸ newer_half_range_mod _ (by decide))))
  · exact congrArg _ (doWrite_valueRefused hw (wPlanCommit_stale hr hv (hg ▸ newer_half_range_mod _ (by decide))))

end Sys2Proof.Machine

namespace Sys2Proof.Machine

/-! ### The reference loop (R28 to R32, R41) -/

/-- R31, R41: the loop locks to an input that is no other than before: nothing is counted. -/
theorem lockRef_same {s : State} {i : Nat} (hi : refInput s = some i) (hl : s.clock.lastSource = 0 ∨ s.clock.lastSource = i) :
    lockRef s = rset { s with clock := { s.clock with refState := .locked, lastSource := i } } Reg.refSource i := by
  have hn : ¬ (s.clock.lastSource ≠ 0 ∧ i ≠ s.clock.lastSource ∧ refInjected s = false) := by
    rintro ⟨h0, hne, -⟩
    exact hl.elim h0 (fun h => hne h.symm)
  simp [lockRef, hi, if_neg hn]

/-- R31, R41: the loop locks to another input than before, by no injection: a failover. -/
theorem lockRef_failover {s : State} {i : Nat} (hi : refInput s = some i) (h0 : s.clock.lastSource ≠ 0) (hl : s.clock.lastSource ≠ i)
    (hj : refInjected s = false) :
    lockRef s = rinc (rset { s with clock := { s.clock with refState := .locked, lastSource := i } } Reg.refSource i) Reg.refFailovers := by
  have hc : s.clock.lastSource ≠ 0 ∧ i ≠ s.clock.lastSource ∧ refInjected s = false := ⟨h0, hl.symm, hj⟩
  simp [lockRef, hi, if_pos hc]

/-- R31: locking leaves the beat counter. -/
@[simp] theorem lockRef_beat (s : State) : (lockRef s).clock.beat = s.clock.beat := by
  simp only [lockRef]
  split <;> simp

theorem exec_toneDetected (s : State) (tone : Tone) : exec (.toneDetected tone) s
    = .next (if s.clock.refState = .free ∧ toneValid s tone = true then setRef s .acquire else s) := rfl

theorem exec_toneLostInAcquire (s : State) : exec .toneLostInAcquire s
    = .next (if s.clock.refState = .acquire then setRef s .free else s) := rfl

theorem exec_refLockAcquired (s : State) (ppb : Int) : exec (.refLockAcquired ppb) s
    = .next (if s.clock.refState = .acquire ∧ (refInput s).isSome = true then rsetI (lockRef s) Reg.refOffsetPpb ppb else s) := rfl

theorem exec_refHoldoverEntry {s : State} (h : s.clock.refState = .locked) : exec .refHoldoverEntry s
    = .next (if refInjected s then setRef s .holdover else rinc (setRef s .holdover) Reg.refHoldovers) :=
  congrArg _ (if_pos h)

theorem exec_refHoldoverRecovery (s : State) (tone : Tone) : exec (.refHoldoverRecovery tone) s
    = .next (if s.clock.refState = .holdover ∧ toneValid s tone = true then lockRef s else s) := rfl

theorem exec_wallAnchorWrite (s : State) (via : Via) (ns : Nat) : exec (.wallAnchorWrite via ns) s
    = .next (doWrite s via 0x1100 0xB (wWallAnchor ns)) := rfl

/-- R29, R31: recovery from holdover neither gains nor loses a beat. -/
theorem refHoldoverRecovery_beat {s t : State} {tone : Tone} (h : exec (.refHoldoverRecovery tone) s = .next t) :
    t.clock.beat = s.clock.beat := by
  rw [exec_refHoldoverRecovery, Host.Outcome.next.injEq] at h
  subst h
  split
  · exact lockRef_beat s
  · rfl

/-- Settles O9, one arm of the loop's state machine for each clause. -/
theorem referenceLoopMoves : Obligations.ReferenceLoopMoves := by
  intro s via ns tone ppb i
  refine ⟨fun hf ht => ?_, fun hf ht => ?_, fun ha => ?_, fun ha hi hl => ?_, fun hl hj => ?_, fun hh hi ht h0 hn hj => ?_,
    fun t ht => refHoldoverRecovery_beat ht, fun hw => ?_⟩
  · rw [exec_toneDetected, if_pos ⟨hf, ht⟩]
    rfl
  · rw [exec_toneDetected, if_neg (by simp [ht])]
  · rw [exec_toneLostInAcquire, if_pos ha]
    rfl
  · rw [exec_refLockAcquired, if_pos ⟨ha, by simp [hi]⟩, lockRef_same hi hl]
  · rw [exec_refHoldoverEntry hl, hj]
    rfl
  · rw [exec_refHoldoverRecovery, if_pos ⟨hh, ht⟩, lockRef_failover hi h0 hn hj]
  · rw [exec_wallAnchorWrite, doWrite_accept (act := wWallAnchor ns) hw rfl]
end Sys2Proof.Machine

namespace Sys2Proof.Machine

/-! ### A lane's table entry -/

/-- Removing a key leaves every other key, whether or not the keys rise. -/
theorem tget?_tdel_other {α : Type} (t : Tab α) {i j : Nat} (h : j ≠ i) : tget? (tdel t i) j = tget? t j := by
  induction t with
  | nil => rfl
  | cons x t ih =>
    obtain ⟨k, u⟩ := x
    simp only [tdel]
    split
    · next hk => rw [tget?_cons, if_neg (hk ▸ h)]
    · rw [tget?_cons, tget?_cons, ih]

/-- A write of a key leaves every other key, whether or not the keys rise. -/
theorem tget_tmod_other {α : Type} [DecidableEq α] (d : α) (t : Tab α) {i j : Nat} (f : α → α) (h : j ≠ i) :
    tget d (tmod d t i f) j = tget d t j := by
  unfold tmod tset
  split
  · rw [tget, tget, tget?_tdel_other t h]
  · rw [tget_tput, if_neg h]

/-- A key whose new value is not the default reads that value. -/
theorem tget_tmod_same {α : Type} [DecidableEq α] (d : α) (t : Tab α) (i : Nat) (f : α → α) (h : f (tget d t i) ≠ d) :
    tget d (tmod d t i f) i = f (tget d t i) := by
  simp only [tmod, tset, if_neg h, tget_tput, if_true]

/-- A key that reads something other than the default is listed with what it reads. -/
theorem mem_of_tget_ne {α : Type} {d : α} {t : Tab α} {i : Nat} (h : tget d t i ≠ d) : (i, tget d t i) ∈ t := by
  induction t with
  | nil => exact absurd rfl h
  | cons x t ih =>
    obtain ⟨k, u⟩ := x
    simp only [tget, tget?_cons] at h ⊢
    split <;> rename_i hk
    · simp [hk]
    · rw [if_neg hk] at h
      exact List.mem_cons_of_mem _ (ih h)

/-! ### Lanes that wait to train go on waiting -/

/-- From s to t the Last is untouched, and every lane that waits to train still does. -/
structure KeepsWaits (s t : State) : Prop where
  last : t.last = s.last
  wait : ∀ e k, (lane s e k).train = .wait → (lane t e k).train = .wait

theorem keepsWaits_of_eq {s t : State} (hl : t.last = s.last) (hn : t.lanes = s.lanes) : KeepsWaits s t :=
  ⟨hl, fun e k h => by simpa only [lane, hn] using h⟩

theorem KeepsWaits.refl (s : State) : KeepsWaits s s := keepsWaits_of_eq rfl rfl

theorem KeepsWaits.trans {s t u : State} (h : KeepsWaits s t) (h' : KeepsWaits t u) : KeepsWaits s u :=
  ⟨h'.last.trans h.last, fun e k hw => h'.wait e k (h.wait e k hw)⟩

theorem keepsWaits_foldl {α : Type} {f : State → α → State} (hf : ∀ s x, KeepsWaits s (f s x)) (l : List α) (s : State) :
    KeepsWaits s (l.foldl f s) := by
  induction l generalizing s with
  | nil => exact .refl s
  | cons x l ih => exact (hf s x).trans (ih _)

/-- A lane that waits is not the default one, so a table lists it. -/
theorem ne_default_of_wait {l : Lane} (h : l.train = .wait) : l ≠ {} := by
  rintro rfl
  cases h

/-- A change of a lane that leaves a waiting lane waiting. -/
theorem keepsWaits_setLane (s : State) (e k : Nat) {f : Lane → Lane} (hf : ∀ l, l.train = .wait → (f l).train = .wait) :
    KeepsWaits s (setLane s e k f) := by
  refine ⟨rfl, fun e' k' hw => ?_⟩
  simp only [lane, setLane] at hw ⊢
  by_cases hk : laneKey e' k' = laneKey e k
  · rw [hk] at hw ⊢
    rw [tget_tmod_same _ _ _ _ (ne_default_of_wait (hf _ hw))]
    exact hf _ hw
  · rwa [tget_tmod_other _ _ _ hk]

/-- Credits returned through a welt touch neither the Last nor a lane. -/
theorem weltCredits_last_lanes (n : Nat) (s : State) (d p : Nat) :
    (weltCredits n s d p).last = s.last ∧ (weltCredits n s d p).lanes = s.lanes := by
  induction n generalizing s with
  | zero => exact ⟨rfl, rfl⟩
  | succ n ih =>
    simp only [weltCredits]
    split
    · exact ih (weltSend s d p {})
    · exact ⟨rfl, rfl⟩

theorem keepsWaits_freeInput (s : State) (port vc cls n : Nat) : KeepsWaits s (freeInput s port vc cls n) := by
  unfold freeInput
  split
  · exact .refl s
  · split
    · exact keepsWaits_setLane s _ _ fun _ h => h
    · split
      · exact .refl s
      · exact keepsWaits_of_eq (weltCredits_last_lanes _ _ _ _).1 (weltCredits_last_lanes _ _ _ _).2

/-- A change of the router alone. -/
theorem keepsWaits_router (s : State) (r : Router) : KeepsWaits s { s with router := r } := keepsWaits_of_eq rfl rfl

theorem keepsWaits_giveUp (s : State) (h : Head) (n : Nat) : KeepsWaits s (giveUp s h n) := by
  unfold giveUp
  split
  · exact keepsWaits_freeInput s _ _ _ _
  · exact (keepsWaits_router s _).trans (keepsWaits_freeInput _ _ _ _ _)

theorem keepsWaits_cutCrossing (n : Nat) (s : State) (h : Head) : KeepsWaits s (cutCrossing n s h) := by
  induction n generalizing s h with
  | zero => exact .refl s
  | succ n ih =>
    unfold cutCrossing
    split
    · exact .refl s
    · dsimp only
      split
      · split
        · exact keepsWaits_router s _
        · exact keepsWaits_router s _
      · exact (((keepsWaits_router s _).trans (ih _ _)).trans (keepsWaits_router _ _)).trans (keepsWaits_giveUp _ _ _)

theorem keepsWaits_dropGranted (s : State) (e k : Nat) : KeepsWaits s (dropGranted s e k) :=
  (keepsWaits_router s _).trans (keepsWaits_foldl (fun s _ => keepsWaits_giveUp s _ _) _ _)

theorem keepsWaits_truncateLane (s : State) (e k more : Nat) : KeepsWaits s (truncateLane s e k more) :=
  (((keepsWaits_foldl (keepsWaits_cutCrossing 4) _ s).trans (keepsWaits_router _ _)).trans (keepsWaits_dropGranted _ e _)).trans
    (keepsWaits_of_eq rfl rfl)

theorem keepsWaits_traceFabric (s : State) (event peer eyelet lane seq count : Nat) :
    KeepsWaits s (traceFabric s event peer eyelet lane seq count) :=
  keepsWaits_of_eq (traceMake_last _ _ _ _) (traceMake_lanes _ _ _ _)

/-- The state of the running slot is the Last's alone. -/
theorem runState_congr {s t : State} (h : t.last = s.last) : runState t = runState s := by
  simp only [runState, slotState, h]

theorem lastRunning_congr {s t : State} (h : t.last = s.last) : lastRunning t = lastRunning s := by
  simp only [lastRunning, runState_congr h]

/-- R319: no lane schedule uses a lane while no Last runs. -/
theorem laneUsed_of_not_running {s : State} (h : lastRunning s = false) (e k : Nat) : laneUsed s e k = false := by
  unfold laneUsed
  split
  · simp [h]
  · rfl

/-- R256: a lane that is sent to WAIT waits afterwards, as does every lane that waited before; with no Last running none raises STEP_FAULT. -/
theorem laneGo_wait {s : State} (hr : lastRunning s = false) (e k cause : Nat) :
    KeepsWaits s (laneGo s e k .wait cause) ∧ (lane (laneGo s e k .wait cause) e k).train = .wait := by
  have h1 : KeepsWaits s (setLane s e k (fun l => restRx l .wait)) := keepsWaits_setLane s e k fun _ _ => rfl
  have hw : (lane (setLane s e k (fun l => restRx l .wait)) e k).train = .wait := by
    simp only [lane, setLane]
    rw [tget_tmod_same _ _ _ _ (ne_default_of_wait rfl)]
    rfl
  have h2 : KeepsWaits (setLane s e k (fun l => restRx l .wait))
      (setLane (setLane s e k (fun l => restRx l .wait)) e (reverseLane e k) restTx) := keepsWaits_setLane _ _ _ fun _ h => h
  simp only [laneGo, laneGoBy]
  split
  · exact ⟨h1.trans h2, h2.wait e k hw⟩
  · rw [laneUsed_of_not_running hr, if_neg Bool.false_ne_true]
    have h3 := h2.trans ((keepsWaits_truncateLane _ e k (lane s e k).ctlHead.isSome.toNat).trans
      (keepsWaits_traceFabric _ 6 ((lanePartner (lane s e k)).getD 0) e k 0 0))
    exact ⟨h1.trans h3, h3.wait e k hw⟩

/-- R32: what retraining makes of one lane of the table. -/
def retrainOne (s : State) (x : Nat × Lane) : State :=
  if x.2.train == .off || x.2.train == .wait then s else laneGo s (x.1 / 32) (x.1 % 32) .wait Code.refLost

theorem retrainAll_eq (s : State) : retrainAll s = s.lanes.foldl retrainOne s := rfl

theorem keepsWaits_retrainOne {s : State} (hr : lastRunning s = false) (x : Nat × Lane) : KeepsWaits s (retrainOne s x) := by
  unfold retrainOne
  split
  · exact .refl s
  · exact (laneGo_wait hr _ _ _).1

/-- With no Last running, retraining lanes one by one leaves waiting lanes waiting, and every lane that was neither off nor waiting waits. -/
theorem retrain_lanes (l : List (Nat × Lane)) {s : State} (hr : lastRunning s = false) :
    KeepsWaits s (l.foldl retrainOne s) ∧
      ∀ x ∈ l, x.2.train ≠ .off → x.2.train ≠ .wait → (lane (l.foldl retrainOne s) (x.1 / 32) (x.1 % 32)).train = .wait := by
  induction l generalizing s with
  | nil => exact ⟨.refl s, fun x hx => absurd hx (List.not_mem_nil)⟩
  | cons y l ih =>
    have hy := keepsWaits_retrainOne hr y
    obtain ⟨hkeep, hall⟩ := ih ((lastRunning_congr hy.last).trans hr)
    refine ⟨hy.trans hkeep, fun x hx ho hw => ?_⟩
    rcases List.mem_cons.1 hx with rfl | hx
    · refine hkeep.wait _ _ ?_
      rw [retrainOne, if_neg (by simp [ho, hw])]
      exact (laneGo_wait hr _ _ _).2
    · exact hall x hx ho hw

/-- R32: every lane that trained or served waits to train again. -/
theorem retrainAll_wait {s : State} (hr : lastRunning s = false) {e k : Nat} (hk : k < 32) (ho : (lane s e k).train ≠ .off)
    (hw : (lane s e k).train ≠ .wait) : (lane (retrainAll s) e k).train = .wait := by
  have hmem : (laneKey e k, lane s e k) ∈ s.lanes := mem_of_tget_ne fun h => ho (by rw [lane, h])
  have he : laneKey e k / 32 = e := by unfold laneKey; omega
  have hk' : laneKey e k % 32 = k := by unfold laneKey; omega
  have h := (retrain_lanes s.lanes hr).2 _ hmem ho hw
  rwa [he, hk', ← retrainAll_eq] at h

/-! ### The lost reference (R32) -/

theorem exec_refLost_eq (s : State) : exec .refLost s = execRefLost s := rfl

theorem exec_refLost_no_last {s : State} (h : s.clock.refState = .holdover) (hn : s.last.run = none) :
    exec .refLost s = .next (raise (setRef s .lost) { code := Code.refLost, injected := refInjected s }) := by
  simp [exec_refLost_eq, execRefLost, h, hn]

theorem exec_refLost_running {s : State} {r : Run} (h : s.clock.refState = .holdover) (hn : s.last.run = some r) (hr : lastRunning s = true) :
    exec .refLost s = .next (stepFault (raise (setRef s .lost) { code := Code.refLost, injected := refInjected s })
      Code.refLost 0 0 none 0 (refInjected s)) := by
  have hr' : lastRunning (raise (setRef s .lost) { code := Code.refLost, injected := refInjected s }) = true :=
    (lastRunning_congr (by simp)).trans hr
  simp [exec_refLost_eq, execRefLost, h, hn, hr']

theorem exec_refReacquire (s : State) (tone : Tone) : exec (.refReacquire tone) s
    = .next (if s.clock.refState = .lost ∧ toneValid s tone = true ∧ lastRunning s = false
        then rset (setRef (retrainAll s) .acquire) Reg.refSource 0 else s) := rfl

/-- R32, R307: a LAUNCH that finds its slot loaded, no Last and no reference. -/
theorem exec_launch_refLost {s : State} {q id : Nat} {f : Flight} (h : Begins s q id 2 f) (hc : clearing (begun s q id) = false)
    (hs : slotState (begun s q id) (fld (nth f.words 1) 63 60) = .loaded) (hn : (begun s q id).last.run = none)
    (hl : (begun s q id).clock.refState = .lost) :
    exec (.launch q id) s = .next (launchFail (begun s q id) (some (q, id)) Code.refLost 0 0x83 0x3F 0) := by
  refine congrArg _ ((runCommand_begins h).trans ?_)
  simp [hc, hs, hn, hl]

/-- Settles O10: the arms of REF_LOST and LAUNCH, and the lanes that retraining leaves. -/
theorem referenceLost : Obligations.ReferenceLost := by
  rintro s _ tone r q id f rfl
  refine ⟨exec_refLost_no_last, exec_refLost_running, exec_launch_refLost, fun hl hr => ?_, fun hl ht hr => ?_⟩
  · rw [exec_refReacquire, if_neg (by simp [hr])]
  · exact ⟨_, (exec_refReacquire s tone).trans (congrArg _ (if_pos ⟨hl, ht, hr⟩)), rfl, fun e k hk => retrainAll_wait hr hk⟩

end Sys2Proof.Machine

namespace Sys2Proof.Machine

/-! ### A beat tick (R33, R312, R317, R372) -/

/-- A fold whose every step leaves the state leaves the state. -/
theorem foldl_fixed_of_mem {α β : Type} {f : β → α → β} {b : β} {l : List α} (h : ∀ a ∈ l, f b a = b) : l.foldl f b = b := by
  induction l with
  | nil => rfl
  | cons a l ih =>
    rw [List.foldl_cons, h a List.mem_cons_self]
    exact ih fun x hx => h x (List.mem_cons_of_mem a hx)

/-- A tile has no act before it, and none that waits. -/
def TileIdle (s : State) (t : Nat) : Prop := tileActs s t ++ (ptile s (physTile s t)).late = []

theorem unitsTo_idle {s : State} {t : Nat} (h : TileIdle s t) (hi : Nat) : unitsTo s t hi = s := by
  obtain ⟨hacts, hlate⟩ := List.append_eq_nil_iff.1 h
  simp [unitsTo, hacts, hlate]

theorem allUnitsTo_idle {s : State} (h : ∀ t, t < 64 → TileIdle s t) (hi : Nat) : allUnitsTo s hi = s :=
  foldl_fixed_of_mem fun t ht => unitsTo_idle (h t (List.mem_range.1 ht)) hi

theorem beginCycle_idle {s : State} {t : Nat} (h : TileIdle s t) (c : Nat) : beginCycle s t c = s := by
  obtain ⟨hacts, -⟩ := List.append_eq_nil_iff.1 h
  simp [beginCycle, hacts, sortKeys]

theorem beginBeat_idle {s : State} (h : ∀ t, t < 64 → TileIdle s t) : beginBeat s = s :=
  foldl_fixed_of_mem fun t ht => beginCycle_idle (h t (List.mem_range.1 ht)) _

/-- The clock has no part in what a tile has before it. -/
theorem tileIdle_clock {s : State} {t : Nat} (c : Clock) (h : TileIdle s t) : TileIdle { s with clock := c } t := h

theorem sweepHeaters_no_fits {s : State} (h : s.optics.fits = []) : sweepHeaters s = s := by simp [sweepHeaters, h]

theorem advanceAll_no_copies {s : State} (h : s.stitch.ctxs = []) : advanceAll s = s := by simp [advanceAll, h]

/-- What stands at the start of the beat that a tick begins, before its records issue: `u` is the state at the end of the beat before. -/
def beatBegun (u : State) : State := beginBeat (sweepHeaters { u with clock := { u.clock with beat := u.clock.beat + 1 } })

/-- R372: without clocks no beat passes. -/
theorem exec_beatTick_unclocked {s : State} (h : s.power.clocksOff = true) : exec .beatTick s = .next s := if_pos h

theorem exec_beatTick_eq (s : State) : exec .beatTick s = execBeatTick s := rfl

/-- A tick that no cleanup of a fault holds: the units end the beat, the next begins, the launch in progress goes on, then copies. -/
theorem exec_beatTick {s u w : State} (hc : s.power.clocksOff = false) (hu : u = allUnitsTo s (cycleNow s + 56))
    (hn : ∀ r, u.last.run = some r → r.cleanupDue = false) (hw : w = beatBegun u) :
    exec .beatTick s = .next (advanceAll (w.last.run.elim w (beatRun w))) := by
  have hclean : (u.last.run.map (·.cleanupDue)).getD false = false := by
    cases hr : u.last.run with
    | none => rfl
    | some r => exact hn r hr
  rw [exec_beatTick_eq, execBeatTick, hc]
  simp only [← hu, hclean, Bool.false_eq_true, if_false]
  rw [← beatBegun, ← hw]
  cases w.last.run <;> rfl

/-- R317: a running Last whose next schedule beat no rest beat precedes, on a package that issues. -/
theorem beatRun_issues {w : State} {r : Run} (hr : runState w = .running) (hb : r.sched < totalBeats w r) (hs : w.power.stalled = false)
    (ht : w.power.tripped = false) (hrest : r.rests = [] ∨ ∃ p ps, r.rests = p :: ps ∧ r.sched < p) : beatRun w r = issueBeat w := by
  have hgo : ¬ (totalBeats w r ≤ r.sched ∨ w.power.stalled = true ∨ w.power.tripped = true) := by simp [hb, hs, ht]
  rcases hrest with h | ⟨p, ps, h, hp⟩
  · simp only [beatRun, if_pos hr, if_neg hgo, h]
  · simp only [beatRun, if_pos hr, if_neg hgo, h, if_neg (Nat.not_le.2 hp)]

/-- R317: a running Last whose next beat is a rest beat. -/
theorem beatRun_rests {w : State} {r : Run} {p : Nat} {ps : List Nat} (hw : w.last.run = some r) (hr : runState w = .running)
    (hb : r.sched < totalBeats w r) (hs : w.power.stalled = false) (ht : w.power.tripped = false) (hrest : r.rests = p :: ps) (hp : p ≤ r.sched) :
    beatRun w r = rinc { w with last := { w.last with run := some { r with
      issuing := false, resting := true, restCount := r.restCount + 1, rests := ps, issued := [], hist := (none :: r.hist).take 32 } } } Reg.restBeats := by
  have hgo : ¬ (totalBeats w r ≤ r.sched ∨ w.power.stalled = true ∨ w.power.tripped = true) := by simp [hb, hs, ht]
  simp only [beatRun, if_pos hr, if_neg hgo, hrest, if_pos hp, setRun, hw, Option.map_some]

/-- Settles O11: an idle package, and a launch whose next beat issues, rests or is absent. -/
theorem beatTickCounts : Obligations.BeatTickCounts := by
  intro s u w r p ps
  refine ⟨fun hc hf hl hk hidle => ?_, ?_, ?_, ?_, exec_beatTick_unclocked⟩
  · have hbegin : { s with clock := { s.clock with beat := s.clock.beat + 1 } } = beatBegun s := by
      rw [beatBegun, sweepHeaters_no_fits (by exact hf), beginBeat_idle fun t ht => tileIdle_clock _ (hidle t ht)]
    rw [exec_beatTick hc (allUnitsTo_idle hidle _).symm (by simp [hl]) hbegin]
    simp [hl, advanceAll_no_copies, hk]
  · intro hc hu hn hb hw
    rw [exec_beatTick hc hu hn hb, hw, Option.elim_none]
  · intro hc hu hn hb hw hr ht hs htr hrest
    rw [exec_beatTick hc hu hn hb, hw, Option.elim_some, beatRun_issues hr ht hs htr hrest]
  · intro hc hu hn hb hw hr ht hs htr hrest hp
    rw [exec_beatTick hc hu hn hb, hw, Option.elim_some, beatRun_rests hw hr ht hs htr hrest hp]

end Sys2Proof.Machine

namespace Sys2Proof.Machine

/-! ### The timing handshake (R34 to R37, R308, R309) -/

/-- R308: a READY control packet. -/
structure IsReady (p : Packet) : Prop where
  control : p.kind = kControl
  sound : p.wellFormed = true
  oneFlit : p.len = 1
  ready : fld (nth (wordsOf p.payload 8) 0) 63 56 = 1

theorem exec_readyReceived_eq (s : State) (p : Packet) : exec (.readyReceived p) s = execReadyReceived p s := rfl

theorem exec_readyReceived_armed {s : State} {p : Packet} (h : IsReady p) (ha : runState s = .armed) :
    exec (.readyReceived p) s = .next (leaderGo (takeReady s p.src (wordsOf p.payload 8))) := by
  simp [exec_readyReceived_eq, execReadyReceived, h.control, h.sound, h.oneFlit, h.ready, ha]

theorem exec_readyReceived_early {s : State} {p : Packet} (h : IsReady p) (ha : runState s ≠ .armed) :
    exec (.readyReceived p) s = .next { s with last := { s.last with early := tput s.last.early p.src (wordsOf p.payload 8) } } := by
  simp [exec_readyReceived_eq, execReadyReceived, h.control, h.sound, h.oneFlit, h.ready, ha]

/-- The launch that a READY of a chip makes of a launch in progress. -/
def Run.addReady (r : Run) (chip : Nat) : Run := { r with ready := r.ready ++ [chip] }

/-- The state with a launch in progress put in place of its own. -/
def putRun (s : State) (r : Run) : State := { s with last := { s.last with run := some r } }

@[simp] theorem putRun_run (s : State) (r : Run) : (putRun s r).last.run = some r := rfl

theorem setRun_eq_putRun {s : State} {r : Run} (hr : s.last.run = some r) (f : Run → Run) : setRun s f = putRun s (f r) := by
  simp only [setRun, hr, Option.map_some, putRun]

/-- R308: a READY of a participant that it has not had, equal to its own. -/
theorem takeReady_taken {s : State} {r : Run} {chip : Nat} {ws : List Word} (hr : s.last.run = some r) (hc : chip ∈ participants s r.slot)
    (hw : ws = readyPayload s r) (hn : chip ∉ r.ready) :
    takeReady s chip ws = putRun s (r.addReady chip) := by
  simp [takeReady, hr, hc, ← hw, hn, setRun_eq_putRun hr, Run.addReady]

/-- R308: a READY that differs counts as missing. -/
theorem takeReady_differs {s : State} {r : Run} {chip : Nat} {ws : List Word} (hr : s.last.run = some r) (hw : ws ≠ readyPayload s r) :
    takeReady s chip ws = s := by
  simp [takeReady, hr, hw]

/-- R35: a leader that has its launch beat, or waits for a READY, sends no GO. -/
theorem leaderGo_waits {s : State} {r : Run} (hr : s.last.run = some r)
    (h : r.launchAt.isSome = true ∨ ∃ c ∈ participants s r.slot, c ∉ r.ready) : leaderGo s = s := by
  rcases h with h | ⟨c, hc, hn⟩
  · obtain ⟨b, hb⟩ := Option.isSome_iff_exists.1 h
    simp [leaderGo, hr, hb]
  · have hall : (participants s r.slot).all (fun c => r.ready.contains c) = false :=
      List.all_eq_false.2 ⟨c, hc, by simpa using hn⟩
    simp only [leaderGo, hr, hall, Bool.and_false, Bool.false_eq_true, if_false]

/-- R35: a leader with every READY sends GO in the next whole beat, from which its launch beat counts. -/
theorem leaderGo_sends {s : State} {r : Run} (hr : s.last.run = some r) (hn : r.launchAt = none) (hl : leaderOf s r.slot = ownChip s)
    (hall : ∀ c ∈ participants s r.slot, c ∈ r.ready) :
    leaderGo s = sendGo (putRun s { r with launchAt := some (s.clock.beat.toNat + 1 + r.lead) }) r (s.clock.beat.toNat + 1) := by
  have hall' : (participants s r.slot).all (fun c => r.ready.contains c) = true :=
    List.all_eq_true.2 fun c hc => by simpa using hall c hc
  simp only [leaderGo, hr, hn, hl, hall', Option.isNone_none, beq_self_eq_true, Bool.and_self, if_true, setRun_eq_putRun hr]

theorem exec_go (s : State) (e k slot : Nat) : exec (.go e k slot) s = .next (onGo s e k slot) := rfl

/-- R35, R267: the first GO copy, on the armed slot's GO lane. -/
theorem onGo_first {s : State} {r : Run} {e k slot : Nat} (hr : s.last.run = some r) (ha : runState s = .armed) (hn : r.launchAt = none)
    (hl : leaderOf s r.slot ≠ ownChip s) (hs : slot % 16 = r.slot) (he : fld (goPath s r.slot r.bucket) 47 43 = logicalEyelet s e)
    (hk : fld (goPath s r.slot r.bucket) 42 38 = k) :
    onGo s e k slot = putRun s { r with
      launchAt := some (s.clock.beat.toNat + r.lead - fld (goPath s r.slot r.bucket) 63 48), relayAt := some (s.clock.beat.toNat + 2) } := by
  have hc : runState s = .armed ∧ r.launchAt.isNone = true ∧ leaderOf s r.slot ≠ ownChip s ∧ slot % 16 = r.slot
      ∧ fld (goPath s r.slot r.bucket) 47 43 = logicalEyelet s e ∧ fld (goPath s r.slot r.bucket) 42 38 = k := ⟨ha, by rw [hn]; rfl, hl, hs, he, hk⟩
  simp only [onGo, hr, if_pos hc, setRun_eq_putRun hr]

theorem exec_goRelay_eq (s : State) : exec .goRelay s = execGoRelay s := rfl

/-- R267, R309: a relay sends GO once its beat is the next or has come. -/
theorem exec_goRelay {s : State} {r : Run} {b : Nat} (hr : s.last.run = some r) (hb : r.relayAt = some b) :
    exec .goRelay s = .next (if b ≤ s.clock.beat.toNat + 1 then sendGo (putRun s { r with relayAt := none }) r b else s) := by
  simp only [exec_goRelay_eq, execGoRelay, hr, hb, setRun_eq_putRun hr]

theorem exec_syncTimeout_eq (s : State) : exec .syncTimeout s = execSyncTimeout s := rfl

/-- R36: a handshake without a launch beat that times out. -/
theorem exec_syncTimeout {s : State} {r : Run} (hr : s.last.run = some r) (ha : runState s = .armed) (hn : r.launchAt = none) :
    exec .syncTimeout s = .next (handshakeFail s r Code.syncFault) := by
  simp [exec_syncTimeout_eq, execSyncTimeout, hr, ha, hn]

/-- A handshake that has ended leaves no launch in progress. -/
theorem handshakeFail_run (s : State) (r : Run) (status : Nat) : (handshakeFail s r status).last.run = none := by
  simp [handshakeFail, endRun]

/-- Settles O12, message by message; a READY first by whether it is taken, then by what the leader still waits for. -/
theorem handshakeMessages : Obligations.HandshakeMessages := by
  intro s u p r e k slot b ws
  refine ⟨fun h1 h2 h3 h4 ha => exec_readyReceived_early ⟨h1, h2, h3, h4⟩ ha, ?_, ?_, fun h1 h2 h3 h4 ha hr hwait hd => ?_, ?_,
    fun hr hb hle => ?_, fun hr hb hlt => ?_, fun hr ha hn => ⟨_, exec_syncTimeout hr ha hn, rfl, handshakeFail_run s r _⟩⟩
  · rintro h1 h2 h3 rfl h4 ha hr hc hw hn rfl ⟨c, hcp, hcr, hne⟩
    have hwaits : leaderGo (putRun s (r.addReady p.src)) = putRun s (r.addReady p.src) :=
      leaderGo_waits (putRun_run _ _) (.inr ⟨c, hcp, by simp [Run.addReady, hcr, hne]⟩)
    rw [exec_readyReceived_armed ⟨h1, h2, h3, h4⟩ ha, takeReady_taken hr hc hw hn, hwaits]
    rfl
  · rintro h1 h2 h3 rfl h4 ha hr hc hw hn - hl hlead hall
    have hsends := leaderGo_sends (s := putRun s (r.addReady p.src)) (putRun_run _ _) hl hlead
      (fun c hcp => by simpa [Run.addReady] using hall c hcp)
    rw [exec_readyReceived_armed ⟨h1, h2, h3, h4⟩ ha, takeReady_taken hr hc hw hn, hsends]
    rfl
  · rw [exec_readyReceived_armed ⟨h1, h2, h3, h4⟩ ha, takeReady_differs hr hd, leaderGo_waits hr hwait]
  · intro hr ha hn hl hs he hk
    rw [exec_go, onGo_first hr ha hn hl hs he hk]
    rfl
  · rw [exec_goRelay hr hb, if_pos hle]
    rfl
  · rw [exec_goRelay hr hb, if_neg (Nat.not_le.2 hlt)]

/-! ### The launch beat (R35, R318) -/

/-- R110, R318, R508: a Last whose launch beat `b` has come: its slot runs, the agreed stretch and the local request start from 1.0, the presets
open, and the beat is marked. -/
def launchBegun (s : State) (r : Run) (b : Nat) : State :=
  beatMark (setRun (openPresets (replayStart
    (let v := rset (rset (setSlot s r.slot .running) Reg.launchBeat b) Reg.agreedStretch 256;
     { v with
       tiles := v.tiles.map (fun t => (t.1, { t.2 with digest := [] })),
       power := { v.power with localX := 256, paceSum := 0, paceCount := 0 } }) r) r)
    (fun x => { x with rests := [], sched := 0 })) (some 0)

theorem exec_launchBeatReached_eq (s : State) : exec .launchBeatReached s = execLaunchBeatReached s := rfl

/-- The launch beat of an armed Last: schedule beat 0 issues, or the STEP_FAULT of a package that issues nothing (log 76). -/
theorem exec_launchBeatReached {s : State} {r : Run} {b : Nat} (hr : s.last.run = some r) (hb : r.launchAt = some b) (ha : runState s = .armed)
    (hle : b ≤ s.clock.beat.toNat) :
    exec .launchBeatReached s = .next (if s.power.stalled || s.power.tripped
      then stepFault (launchBegun s r b) (if s.power.tripped then Code.thermalShutdown else Code.thermalLimit) 0 0 none 0 false
      else issueBeat (setRun (launchBegun s r b) (fun x => { x with hist := x.hist.drop 1 }))) := by
  have hgo : ¬ (runState s ≠ .armed ∨ s.clock.beat.toNat < b) := by
    rintro (h | h)
    · exact h ha
    · exact Nat.not_lt.2 hle h
  simp only [exec_launchBeatReached_eq, execLaunchBeatReached, hr, hb, if_neg hgo]
  rfl

/-- Settles O13, by whether the package stalls, has tripped, or issues. -/
theorem launchBeatStartsTheLast : Obligations.LaunchBeatStartsTheLast := by
  intro s u r b hr hb ha hle hu
  have hexec := exec_launchBeatReached hr hb ha hle
  have hu' : u = launchBegun s r b := hu
  rw [← hu'] at hexec
  refine ⟨fun hs ht => ?_, fun hs ht => ?_, fun ht => ?_⟩
  · rw [hexec, hs, ht]
    rfl
  · rw [hexec, hs, ht]
    rfl
  · rw [hexec, ht, Bool.or_true]
    rfl

end Sys2Proof.Machine

namespace Sys2Proof.Machine

/-! ### Snapshots (R486, R490) -/

theorem exec_snapshotComplete_eq (s : State) : exec .snapshotComplete s = execSnapshotComplete s := rfl

/-- A snapshot of a step boundary that has run into no failure and awaits no answer is complete. -/
theorem exec_snapshotComplete_good {s : State} {x : Snap} (hx : s.faults.snap = some x) (ha : x.acks = 0) (ho : x.origin = none)
    (hs : x.status = 0) : exec .snapshotComplete s = .next (rset (hbmWrite (snapEnd s)
      (snapSlotBase s (rget s Reg.localArea) x.step) (bytesOf x.header)) (Reg.snapshotStatus.at x.slot) (2 ^ 63 + x.step % 2 ^ 32)) := by
  simp [exec_snapshotComplete_eq, execSnapshotComplete, hx, ha, ho, hs]

/-- One of whose writes failed raises SNAPSHOT_FAIL. -/
theorem exec_snapshotComplete_failed {s : State} {x : Snap} (hx : s.faults.snap = some x) (ha : x.acks = 0) (ho : x.origin = none)
    (hs : x.status ≠ 0) : exec .snapshotComplete s = .next (notice (snapEnd s) Code.snapshotFail 0 0 0) := by
  simp [exec_snapshotComplete_eq, execSnapshotComplete, hx, ha, ho, hs]

/-- One that awaits an answer goes on. -/
theorem exec_snapshotComplete_waits {s : State} {x : Snap} (hx : s.faults.snap = some x) (ha : x.acks ≠ 0) :
    exec .snapshotComplete s = .next s := by
  simp [exec_snapshotComplete_eq, execSnapshotComplete, hx, ha]

/-- R490: SNAPSHOT is refused while a launch is in progress. -/
theorem exec_snapshot_busy {s : State} {q id : Nat} {f : Flight} (h : Begins s q id 0x10 f) (ha : fld (nth f.words 1) 51 0 % 64 = 0)
    (hb : lastBusy (begun s q id) = true) :
    exec (.snapshot q id) s = .next (finish' (begun s q id) q id { status := Code.lastBusy }) := by
  refine congrArg _ ((runCommand_begins h).trans ?_)
  simp [ha, hb]

/-- R490: SNAPSHOT to a place of the rack window streams the covered state there. -/
theorem exec_snapshot_streams {s u : State} {q id k : Nat} {f : Flight} {words : List Word} (h : Begins s q id 0x10 f) (hu : u = begun s q id)
    (ha : fld (nth f.words 1) 51 0 % 64 = 0) (hb : lastBusy u = false) (hn : u.faults.snap = none)
    (hc : fld (nth f.words 1) 63 52 = 0xFFF) (ht : (fabricTarget u true 0xFFF (fld (nth f.words 1) 51 0 : Int)).isOk = true)
    (hk : k = fld (nth f.words 2) 63 32) (hh : words = snapHeader u k k) :
    exec (.snapshot q id) s = .next (snapAck (snapStream
      (pieceReads (snapOpen u { step := k, slot := 0, origin := some (q, id), header := words, acks := 1 }) (snapPieces u k none))
      (fld (nth f.words 1) 51 0) words (snapPieces u k none)) Code.ok 0) := by
  subst hu hk hh
  refine congrArg _ ((runCommand_begins h).trans ?_)
  cases hf : fabricTarget (begun s q id) true 0xFFF (fld (nth f.words 1) 51 0 : Int) with
  | error e =>
    rw [hf] at ht
    cases ht
  | ok place => simp [ha, hb, hn, hc, hf]

/-! ### Restoring a snapshot (R493, R495) -/

theorem exec_snapshotRestore (s : State) (via : Via) (v : List Byte) : exec (.snapshotRestore via v) s
    = .next (doWrite s via 0x7000 0x12 (wSnapshotRestore v)) := rfl

/-- R495: snapshot_restore of a complete local slot. -/
theorem wSnapshotRestore_local {s : State} {v : List Byte} {b : Nat} (hv : v.length = 16) (hl : lastArmed s = false)
    (hc : fld (wordAt v 0) 63 52 = ownChip s) (hb : restoreSlot s (ownChip s) (wordAt v 1).toNat (fld (wordAt v 0) 31 0) = some b) :
    wSnapshotRestore v s = accept (restoreBegin (rset s Reg.restoreStatus 0x100) (fld (wordAt v 0) 31 0) (ownChip s) b) := by
  simp [wSnapshotRestore, hv, hl, hc, hb]

/-- R495: snapshot_restore is refused while a Last is armed or running. -/
theorem wSnapshotRestore_armed {s : State} {v : List Byte} (hv : v.length = 16) (hl : lastArmed s = true) :
    wSnapshotRestore v s = (Code.valueRefused, s) := by
  simp [wSnapshotRestore, hv, hl, refuse]

theorem exec_snapshotRestoreDone_eq (s : State) (ok : Bool) : exec (.snapshotRestoreDone ok) s = execSnapshotRestoreDone ok s := rfl

/-- R495: a restore whose reads are still out goes on. -/
theorem exec_snapshotRestoreDone_waits {s : State} {k chip base : Nat} (hr : s.faults.restore = some (k, chip, base)) (ok : Bool)
    (ho : s.faults.restoreOut ≠ 0) : exec (.snapshotRestoreDone ok) s = .next s := by
  simp [exec_snapshotRestoreDone_eq, execSnapshotRestoreDone, hr, ho]

section RestoreDone

variable {s : State} {k chip base : Nat} (hr : s.faults.restore = some (k, chip, base)) (hb : s.faults.rollback ≠ .restoring)
include hr hb

/-- R495: one that ends well restores its step. -/
theorem exec_snapshotRestoreDone_good (ho : s.faults.restoreOut = 0) (hg : s.faults.restoreBad = 0) : exec (.snapshotRestoreDone true) s
    = .next (restored (rset { s with faults := { s.faults with peers := [], faultBeat := 0 } } Reg.restoreStatus 0x200) k chip base) := by
  simp [exec_snapshotRestoreDone_eq, execSnapshotRestoreDone, hr, hb, ho, hg]

/-- R495: one that is found bad, with no status of its own, reports MEM_POISON (log 46). -/
theorem exec_snapshotRestoreDone_poison (ho : s.faults.restoreOut = 0) (hg : s.faults.restoreBad = 0) : exec (.snapshotRestoreDone false) s
    = .next (rset { s with faults := { s.faults with restore := none, restoreGot := [] } } Reg.restoreStatus (0x200 + Code.memPoison)) := by
  simp [exec_snapshotRestoreDone_eq, execSnapshotRestoreDone, hr, hb, ho, hg]

/-- R495: one that met a status reports it. -/
theorem exec_snapshotRestoreDone_bad (ok : Bool) (ho : s.faults.restoreOut = 0) (hg : s.faults.restoreBad ≠ 0) :
    exec (.snapshotRestoreDone ok) s
      = .next (rset { s with faults := { s.faults with restore := none, restoreGot := [] } } Reg.restoreStatus (0x200 + s.faults.restoreBad)) := by
  simp [exec_snapshotRestoreDone_eq, execSnapshotRestoreDone, hr, hb, ho, hg]

end RestoreDone

/-! ### Injected faults (R499, R500) -/

/-- R499: TRY_ON of a reserved kind. -/
theorem exec_tryOn_reserved {s : State} {q id : Nat} {f : Flight} (h : Begins s q id 0x11 f)
    (hk : injectUnits (fld (nth f.words 1) 63 56) = 0) :
    exec (.tryOn q id) s = .next (finish' (begun s q id) q id { status := Code.reservedSet }) :=
  congrArg _ ((runCommand_begins h).trans (if_pos hk))

/-- R499: TRY_ON of a unit of a kind, for now or for a beat of a running Last. -/
theorem exec_tryOn_arms {s : State} {q id : Nat} {f : Flight} (h : Begins s q id 0x11 f)
    (hu : fld (nth f.words 1) 55 40 < injectUnits (fld (nth f.words 1) 63 56))
    (hb : (nth f.words 2).toNat = 0 ∨ lastRunning (begun s q id) = true) :
    exec (.tryOn q id) s = .next (finish' (armInjection (begun s q id) (fld (nth f.words 1) 63 56) (fld (nth f.words 1) 55 40)
      (nth f.words 2).toNat) q id {}) := by
  have hkind : ¬ injectUnits (fld (nth f.words 1) 63 56) = 0 := by omega
  have hgo : ¬ (injectUnits (fld (nth f.words 1) 63 56) ≤ fld (nth f.words 1) 55 40
      ∨ (nth f.words 2).toNat ≠ 0 ∧ lastRunning (begun s q id) = false) := by
    rintro (hle | ⟨h0, hr⟩)
    · omega
    · rcases hb with hb | hb
      · exact h0 hb
      · exact absurd (hb.symm.trans hr) (by decide)
  exact congrArg _ ((runCommand_begins h).trans ((if_neg hkind).trans (if_neg hgo)))

/-- The kinds of injection that the timer takes in turn. -/
def timerKinds (s : State) : List Nat := [1, 2, 3, 4, 5].filter (fun n => (rget s Reg.tryonKinds).testBit (n - 1))

theorem exec_tryonTimer_eq (s : State) : exec .tryonTimer s = execTryonTimer s := rfl

/-- R499: the timer arms the next of its kinds, and after a round of the kinds the next unit of each. -/
theorem exec_tryonTimer_arms {s : State} (hi : rget s Reg.tryonIntervalS ≠ 0) (hk : timerKinds s ≠ []) :
    ∃ kind, (timerKinds s)[s.faults.tryonNext % (timerKinds s).length]? = some kind
      ∧ exec .tryonTimer s = .next (armInjection { s with faults := { s.faults with tryonNext := s.faults.tryonNext + 1 } } kind
          (s.faults.tryonNext / (timerKinds s).length % injectUnits kind) 0) := by
  have hlen : 0 < (timerKinds s).length := List.length_pos_iff.2 hk
  have hlt : s.faults.tryonNext % (timerKinds s).length < (timerKinds s).length := Nat.mod_lt _ hlen
  have hget := List.getElem?_eq_getElem hlt
  refine ⟨_, hget, ?_⟩
  have hmax := Nat.max_eq_right hlen
  rw [exec_tryonTimer_eq, execTryonTimer]
  unfold timerKinds at hget hmax ⊢
  simp only [if_neg hi, hmax, hget]

theorem exec_tryonTimer_off {s : State} (hi : rget s Reg.tryonIntervalS = 0) : exec .tryonTimer s = .next s := congrArg _ (if_pos hi)

theorem exec_tryonInject_eq (s : State) : exec .tryonInject s = execTryonInject s := rfl

/-- R499: an injection that is due fires and is counted. -/
theorem exec_tryonInject_fires {s : State} {i : Injection} (hr : s.faults.rollback = .none) (hc : clearing s = false)
    (hi : s.faults.injects.find? (injectDue s) = some i) : exec .tryonInject s = .next (fireInjection
      (rinc { s with faults := { s.faults with injects := { i with fired := true } :: s.faults.injects.erase i } } (Reg.tryonCounts.at (3 * (i.kind - 1)))) i) := by
  simp [exec_tryonInject_eq, execTryonInject, hr, hc, hi]

theorem exec_tryonRecoveryTimeout_eq (s : State) : exec .tryonRecoveryTimeout s = execTryonRecoveryTimeout s := rfl

/-- R500: an injection whose recovery never ends raises TRYON_FAILED. -/
theorem exec_tryonRecoveryTimeout_fails {s : State} {i : Injection} (hi : (s.faults.injects.filter (·.fired)).getLast? = some i) :
    exec .tryonRecoveryTimeout s = .next (notice
      (rinc { s with faults := { s.faults with injects := s.faults.injects.erase i } } (Reg.tryonCounts.at (3 * (i.kind - 1) + 2)))
      Code.tryonFailed (injectUnit i).1 (injectUnit i).2 i.kind) := by
  simp only [exec_tryonRecoveryTimeout_eq, execTryonRecoveryTimeout, hi]

/-- Settles O45: how a snapshot ends, how a restore begins and ends, and how injections are armed, fire and fail. -/
theorem snapshotsAndInjections : Obligations.SnapshotsAndInjections := by
  rintro s _ via q id k kind unit b base n f x i v h ks ok rfl
  refine ⟨exec_snapshotComplete_good, exec_snapshotComplete_failed, fun _ => ⟨_, rfl, rfl⟩, exec_snapshotComplete_waits, exec_snapshot_busy,
    fun hb => exec_snapshot_streams hb rfl, fun hw hv hl hc hs => ?_, fun hw hv hl => ?_, exec_snapshotRestoreDone_good, ⟨_, rfl, rfl⟩,
    fun hr _ => exec_snapshotRestoreDone_waits hr true, exec_snapshotRestoreDone_poison, fun hr hb => exec_snapshotRestoreDone_bad hr hb ok,
    ?_, ?_, ?_, exec_tryonTimer_off, exec_tryonInject_fires, exec_tryonRecoveryTimeout_fails⟩
  · rw [exec_snapshotRestore, doWrite_accept hw (wSnapshotRestore_local hv hl hc hs)]
  · rw [exec_snapshotRestore, doWrite_valueRefused hw (wSnapshotRestore_armed hv hl)]
  · rintro hb rfl rfl hk
    exact exec_tryOn_reserved hb hk
  · rintro hb rfl rfl hu hbeat
    exact exec_tryOn_arms hb hu hbeat
  · rintro hi rfl rfl hk
    exact exec_tryonTimer_arms hi hk

end Sys2Proof.Machine

namespace Sys2Proof.Machine

/-! ### Issuing a pass (R76 to R78, R80) -/

theorem exec_pass_eq (s : State) (tile array entry : Nat) : exec (.pass tile array entry) s = execPass tile array entry s := rfl

/-- The descriptor of a pass that issues in state `u` on an array whose last stream ends in cycle `ends` (R72, R76). -/
def passIssuing (u : State) (r : Run) (tile entry ends : Nat) : PassRec :=
  { w0 := nth (runEntry r secPass tile 2 entry) 0, w1 := nth (runEntry r secPass tile 2 entry) 1, issue := cycleNow u, start := max (cycleNow u) ends }

/-- The register set whose loading a pass asks for: the set it names where it only loads, else the other set (R80). -/
def PassRec.setLoaded (d : PassRec) : Nat := if d.loadOnly then d.bSet else 1 - d.bSet

/-- What pass `d` does when it issues on array `array` of tile `tile`, physical tile `p`, where `lacks` are the areas it reads that are not staged. -/
def takePass (v : State) (p tile array : Nat) (d : PassRec) (lacks : List Nat) : State :=
  match lacks with
  | k :: _ => arrayFault v tile array k
  | [] =>
    if (arrayOf v p array).pending.isSome then arrayFault v tile array 15
    else if d.loadOnly then setArray v p array (fun y => y.loadSet d.setLoaded d.bBuf d.issue)
    else opCount (setArray v p array (fun y => { y with pending := some d, streamEnd := d.streamEnd })) tile 0 d.fmtA 1

/-- R76: a PASS record that is due: the pending slot is freed where its stream has started, then the array takes the pass. -/
theorem exec_pass_due {s u v : State} {tile array entry : Nat} {r : Run} {x : Nat × Word} {d : PassRec} (hu : u = issued s tile x)
    (hdue : Due s tile 1 (at' array 2 46 + at' entry 12 34) r x) (hv : v = setArray u (physTile u tile) array (fun y => y.freePending (cycleNow u)))
    (hd : d = passIssuing u r tile entry (arrayOf v (physTile u tile) array).streamEnd) :
    exec (.pass tile array entry) s = .next (takePass v (physTile u tile) tile array d
      (unstaged (arrayOf v (physTile u tile) array) d (userScaleB v r tile array x.1 d.setLoaded) d.issue)) := by
  subst hd hv hu
  rw [exec_pass_eq, execPass, issue_due hdue]
  rfl

theorem takePass_unstaged (v : State) (p tile array k : Nat) (d : PassRec) (ks : List Nat) :
    takePass v p tile array d (k :: ks) = arrayFault v tile array k := rfl

/-- R76: a pass that finds the pending slot occupied. -/
theorem takePass_occupied {v : State} {p array : Nat} (h : (arrayOf v p array).pending.isSome = true) (tile : Nat) (d : PassRec) :
    takePass v p tile array d [] = arrayFault v tile array 15 := if_pos h

/-- R80: a LOAD_ONLY pass. -/
theorem takePass_loads {v : State} {p array : Nat} {d : PassRec} (h : (arrayOf v p array).pending = none) (hd : d.loadOnly = true) (tile : Nat) :
    takePass v p tile array d [] = setArray v p array (fun y => y.loadSet d.bSet d.bBuf d.issue) := by
  simp [takePass, PassRec.setLoaded, h, hd]

/-- R76: a pass that streams enters the pending slot. -/
theorem takePass_queues {v : State} {p array : Nat} {d : PassRec} (h : (arrayOf v p array).pending = none) (hd : d.loadOnly = false) (tile : Nat) :
    takePass v p tile array d [] =
      opCount (setArray v p array (fun y => { y with pending := some d, streamEnd := d.streamEnd })) tile 0 d.fmtA 1 := by
  simp [takePass, h, hd]

/-- Settles O16, by what the pass lacks, whether the pending slot is free, and whether it only loads. -/
theorem passRecordLoadsAndQueues : Obligations.PassRecordLoadsAndQueues := by
  intro s u v tile array entry k r x d ks hu hdue hv p a hd set lacks
  have hexec : exec (.pass tile array entry) s = .next (takePass v p tile array d lacks) := exec_pass_due hu hdue hv hd
  refine ⟨fun hl hload hp => ?_, fun hl hload hp => ?_, fun hl hp => ?_, fun hl => ?_⟩
  · rw [hexec, hl, takePass_loads hp hload]
  · rw [hexec, hl, takePass_queues hp hload]
  · rw [hexec, hl, takePass_occupied hp]
  · rw [hexec, hl, takePass_unstaged]

end Sys2Proof.Machine

namespace Sys2Proof.Machine

/-! ### The events of a tile's units (log 14) -/

/-- An event of the beat now, once the records of the beat have issued. -/
theorem unitEvent_now {s : State} {t c : Nat} (hl : unitRecordsLeft s t = false) (hc : c < cycleNow s + 56) : unitEvent s t c = unitsTo s t (c + 1) := by
  simp [unitEvent, hl, Nat.not_le.2 hc]

/-- An event of a later beat. -/
theorem unitEvent_early {s : State} {t c : Nat} (hc : cycleNow s + 56 ≤ c) : unitEvent s t c = s := by
  simp [unitEvent, hc]

/-- Every act that asks for no bank has an order that leaves its cycle in its key. -/
theorem order_lt_of_no_requester {u : UnitAct} (h : u.requester = none) : u.order < 256 := by
  cases u
  case passSettled | opComplete | walkMark | copyDone | stream | bankRow => simp [UnitAct.order]
  all_goals exact absurd h (Option.some_ne_none _)

/-- The one due act of its tile, of a kind that asks for no bank. -/
theorem unitEvent_performs {s v : State} {t c : Nat} {u : UnitAct} (hl : unitRecordsLeft s t = false) (hc : c < cycleNow s + 56)
    (hv : v = workTo s t (c + 1)) (h : dueActs s t (c + 1) = [(c, u)]) (hr : actReady v t u = true) (hq : u.requester = none) :
    unitEvent s t c = perform v t c u := by
  subst hv
  refine unitEvent_single hl hc h (order_lt_of_no_requester hq) hr ?_ ?_
  · rintro st i rfl
    exact absurd hq (Option.some_ne_none _)
  · rw [hq]
    rfl

/-! ### What each act does -/

theorem perform_stream (v : State) (t c a i : Nat) : perform v t c (.stream a i) = setArray v (physTile v t) a (fun y => y.startStream i) := rfl

theorem perform_passSettled (v : State) (t c a i : Nat) : perform v t c (.passSettled a i) =
    setArray v (physTile v t) a (fun y => { y with streams := y.streams.filter (fun e => e.issue != i) }) := rfl

theorem perform_bankRow {v : State} {t a i : Nat} {d : PassRec} (h : passOf v t a i = some d) (c m : Nat) :
    perform v t c (.bankRow a i m) = setArray v (physTile v t) a (fun y => y.addRow d m) := by
  simp only [perform, h]

theorem perform_drainRow {v : State} {t a i : Nat} {d : PassRec} (h : passOf v t a i = some d) (c m : Nat) :
    perform v t c (.drainRow a i m) = modPass
      (schedWriteHandle v t (handleOf v t d.drainHandle) (d.drainOff m) c ((arrayOf v (physTile v t) a).drainBytes d m))
      t a i (fun e => { e with drained := e.drained + 1 }) := by
  simp only [perform, h]

/-! ### Streams, rows and drains of a pass (R74 to R80) -/

theorem exec_passStreamStart_eq (s : State) (tile array : Nat) : exec (.passStreamStart tile array) s = execPassStreamStart tile array s := rfl

theorem exec_passComplete_eq (s : State) (tile array : Nat) : exec (.passComplete tile array) s = execPassComplete tile array s := rfl

theorem exec_passStreamStart {s : State} {tile array : Nat} {d : PassRec} (h : (arrayOf s (physTile s tile) array).pending = some d) :
    exec (.passStreamStart tile array) s = .next (unitEvent s tile d.start) := by
  simp only [exec_passStreamStart_eq, execPassStreamStart, h]

theorem exec_passStreamStart_none {s : State} {tile array : Nat} (h : (arrayOf s (physTile s tile) array).pending = none) :
    exec (.passStreamStart tile array) s = .next s := by
  simp only [exec_passStreamStart_eq, execPassStreamStart, h]

theorem exec_passComplete {s : State} {tile array : Nat} {d : PassRec} (h : (arrayOf s (physTile s tile) array).streams.find?
    (fun d => decide ((ptile s (physTile s tile)).unitAt ≤ d.completes)) = some d) :
    exec (.passComplete tile array) s = .next (unitEvent s tile d.completes) := by
  simp only [exec_passComplete_eq, execPassComplete, h]

theorem exec_passComplete_none {s : State} {tile array : Nat} (h : (arrayOf s (physTile s tile) array).streams = []) :
    exec (.passComplete tile array) s = .next s := by
  simp only [exec_passComplete_eq, execPassComplete, h, List.find?_nil]

/-- R77, R79: a pass that does not drain needs nothing more to leave its array. -/
theorem actReady_passSettled {v : State} {t a i : Nat} {d : PassRec} (h : passOf v t a i = some d) (hd : d.drain = false) :
    actReady v t (.passSettled a i) = true := by
  simp [actReady, h, hd]

/-- R75: a drain row that is the one due act of its tile, over banks of which it asks for none twice. -/
theorem unitEvent_drainRow {s v : State} {t c a i m : Nat} {d : PassRec} (hl : unitRecordsLeft s t = false) (hc : c < cycleNow s + 56)
    (hv : v = workTo s t (c + 1)) (h : dueActs s t (c + 1) = [(c, .drainRow a i m)]) (ha : a < 4)
    (hq : bankTwice (d.drainBanks (handleOf v t) m) = none) (hp : passOf v t a i = some d) :
    unitEvent s t c = perform v t c (.drainRow a i m) := by
  subst hv
  have horder : (UnitAct.drainRow a i m).order = 2 * (10 + a) := rfl
  refine unitEvent_single hl hc h (by omega) rfl (fun _ _ => UnitAct.noConfusion) ?_
  simpa only [UnitAct.requester, Option.isSome_some, if_true, actBanks, hp] using hq

/-- Settles O17: each event by when it comes, and with one act due by what that act does. -/
theorem passStreamsAndCompletes : Obligations.PassStreamsAndCompletes := by
  intro s v tile array m c d p a q
  refine ⟨fun hp hl hc => ?_, fun hp hl hc hv hdue => ?_, fun hf hl hc => ?_, fun hf hl hc hv hd hdue hpass => ?_,
    fun hf hl hc hv hdue ha hq hpass => ?_, fun hpass => perform_bankRow hpass c m, exec_passStreamStart_none, fun hp hc => ?_, exec_passComplete_none⟩
  · rw [exec_passStreamStart hp, unitEvent_now hl hc]
  · rw [exec_passStreamStart hp, unitEvent_performs hl hc hv hdue rfl rfl, perform_stream]
  · rw [exec_passComplete hf, unitEvent_now hl hc]
  · rw [exec_passComplete hf, unitEvent_performs hl hc hv hdue (actReady_passSettled hpass hd) rfl, perform_passSettled]
  · rw [exec_passComplete hf, unitEvent_drainRow hl hc hv hdue ha hq hpass, perform_drainRow hpass]
  · rw [exec_passStreamStart hp, unitEvent_early hc]

end Sys2Proof.Machine

namespace Sys2Proof.Machine

/-! ### Issuing a row or vector operation (R84, R86, R94, R96) -/

theorem exec_func_eq (s : State) (tile entry : Nat) : exec (.func tile entry) s = execFunc tile entry s := rfl

/-- The operation that a FUNC record begins in state `u`: its table entry, and the step number, seed and step beat it draws on (R96). -/
def funcIssuing (u : State) (r : Run) (tile entry : Nat) : FuncRec :=
  { words := runEntry r secFunc tile 4 entry, issue := cycleNow u, stepExt := rget u Reg.stepNumberExt, seed := srSeedOf u r.slot
    beat := (r.sched - 1) % max 1 (stepBeats u) }

/-- The cycle from which the unit that operation `d` names is free. -/
def PhysTile.freeFor (x : PhysTile) (d : FuncRec) : Nat := if d.isVec then x.vecFree else x.rowFree

/-- Operation `d` in its unit, which is busy with it (R86, R94). -/
def PhysTile.takeOp (x : PhysTile) (d : FuncRec) : PhysTile :=
  if d.isVec then { x with vecOps := x.vecOps ++ [d], vecFree := d.frees } else { x with rowOps := x.rowOps ++ [d], rowFree := d.frees }

/-- What operation `d` of table entry `entry` does when it issues, where `lacks` are the banks it reads that are not staged. -/
def takeFunc (u : State) (tile entry : Nat) (d : FuncRec) (lacks : List (Nat × Nat)) : State :=
  if d.issue < (ptile u (physTile u tile)).freeFor d then tileFault u tile 0 entry
  else
    match lacks with
    | b :: _ => arrayFault u tile b.1 (16 + b.2)
    | [] => opCount (setPtile u (physTile u tile) (fun y => y.takeOp d)) tile (if d.isVec then 2 else 1) d.fmtOut 1

/-- R84: a FUNC record that is due. -/
theorem exec_func_due {s u : State} {tile entry : Nat} {r : Run} {x : Nat × Word} {d : FuncRec} (hu : u = issued s tile x)
    (hdue : Due s tile 2 (at' entry 10 38) r x) (hd : d = funcIssuing u r tile entry) :
    exec (.func tile entry) s = .next (takeFunc u tile entry d (unstagedBanks u tile d)) := by
  subst hd hu
  rw [exec_func_eq, execFunc, issue_due hdue]
  rfl

/-- R84: a record that meets a busy unit. -/
theorem takeFunc_busy {u : State} {tile : Nat} {d : FuncRec} (h : d.issue < (ptile u (physTile u tile)).freeFor d) (entry : Nat) (lacks : List (Nat × Nat)) :
    takeFunc u tile entry d lacks = tileFault u tile 0 entry := if_pos h

/-- R77: a record whose operation reads a bank that is not staged. -/
theorem takeFunc_unstaged {u : State} {tile : Nat} {d : FuncRec} (h : (ptile u (physTile u tile)).freeFor d ≤ d.issue) (entry : Nat) (b : Nat × Nat)
    (bs : List (Nat × Nat)) : takeFunc u tile entry d (b :: bs) = arrayFault u tile b.1 (16 + b.2) := if_neg (Nat.not_lt.2 h)

/-- R86, R94: a record that its unit takes. -/
theorem takeFunc_taken {u : State} {tile : Nat} {d : FuncRec} (h : (ptile u (physTile u tile)).freeFor d ≤ d.issue) (entry : Nat) :
    takeFunc u tile entry d [] = opCount (setPtile u (physTile u tile) (fun y => y.takeOp d)) tile (if d.isVec then 2 else 1) d.fmtOut 1 :=
  if_neg (Nat.not_lt.2 h)

/-- Settles O18, by whether the unit is free, then by whether a bank is not staged. -/
theorem rowUnitIssues : Obligations.RowUnitIssues := by
  intro s u tile entry r x d b bs hu hdue hd p free
  have hexec := exec_func_due hu hdue hd
  refine ⟨fun hbusy => ?_, fun hfree hl => ?_, fun hfree hl => ?_⟩
  · rw [hexec, takeFunc_busy hbusy]
  · rw [hexec, hl, takeFunc_unstaged hfree]
  · rw [hexec, hl, takeFunc_taken hfree]
    rfl

end Sys2Proof.Machine

namespace Sys2Proof.Machine

/-! ### Rows of a vector operation (R94) -/

/-- The elements of the first and the second source of row `r` that are read once part `i` is. -/
def srcUpTo (v : State) (t : Nat) (d : FuncRec) (r i : Nat) : List Nat := d.src ++ ((srcRow v t d r).drop (i * d.partSize)).take d.partSize
def src2UpTo (v : State) (t : Nat) (d : FuncRec) (r i : Nat) : List Nat := d.src2 ++ ((srcRow2 v t d r).drop (i * d.partSize)).take d.partSize

/-- The activity of the read of one part by the vector unit (R359). -/
def partCounted (v : State) (t : Nat) (d : FuncRec) (r i : Nat) : State :=
  activityAdd (activityAdd v (physTile v t) 2 d.fmtIn 1) (physTile v t) 3 0 (d.readBanks (handleOf v t) r i).length

/-- Operation `e` once its unit has read the last part of row `r`, the row worked out by the table entry of `d` from the elements `xs` and `ys`. -/
def FuncRec.rowRead (e d : FuncRec) (t r : Nat) (xs ys : List Nat) : FuncRec :=
  { e with src := [], src2 := [], outs := e.outs ++ [{ vecRow d t r xs ys with row := r }] }

/-- R94: with the last part of a row, each operation that the vector unit holds of that issue cycle works the row out by its own table entry. -/
theorem readRow_lastPart_vec {d : FuncRec} {i : Nat} (hvec : d.isVec = true) (hi : d.parts ≤ i + 1) (v : State) (t r : Nat) :
    readRow v t d r i = modOp (partCounted v t d r i) t true d.issue (fun e => e.rowRead e t r (srcUpTo v t d r i) (src2UpTo v t d r i)) := by
  simp only [readRow, hvec, if_neg (Nat.not_lt.2 hi), if_true]
  rfl

/-- The vector unit of a tile after a change of its operations of one issue cycle. -/
theorem vecOps_modOp {s : State} (h : sorted s.phys = true) (t i : Nat) (f : FuncRec → FuncRec) :
    (ptile (modOp s t true i f) (physTile s t)).vecOps = (ptile s (physTile s t)).vecOps.map (fun e => if e.issue = i then f e else e) := by
  simp only [modOp, if_true, ptile, setPtile, tmod, tget_tset _ _ _ _ _ h]

@[simp] theorem push_elems (e : RowOut) (c : Conv) : (e.push c).elems = e.elems ++ [c.enc] := rfl

/-- A row of results has an element for each value. -/
theorem encodePlain_length (d : FuncRec) (t base : Nat) (xs : List Num) : (encodePlain d t base xs).elems.length = xs.length := by
  have hfold : ∀ (l : List (Num × Nat)) (e : RowOut),
      (l.foldl (fun e x => e.push (conv d.fmtOut (d.mode t (base + x.2)) d.sat x.1)) e).elems.length = e.elems.length + l.length := by
    intro l
    induction l with
    | nil => exact fun _ => rfl
    | cons x l ih =>
      intro e
      rw [List.foldl_cons, ih, push_elems, List.length_append, List.length_singleton, List.length_cons]
      omega
  rw [encodePlain, hfold, List.length_zipIdx, List.length_nil, Nat.zero_add]

/-- R94: a row sum is one element. -/
theorem vecRow_sum_length {d : FuncRec} (h : d.fn = 0x2A) (t r : Nat) (xs ys : List Nat) : (vecRow d t r xs ys).elems.length = 1 := by
  simp only [vecRow, h, encodePlain_length, List.length_singleton]

/-- R94: an absolute value is taken element by element. -/
theorem vecRow_abs_length {d : FuncRec} (h : d.fn = 0x27) (t r : Nat) (xs ys : List Nat) : (vecRow d t r xs ys).elems.length = xs.length := by
  simp only [vecRow, h, encodePlain_length, List.length_map, List.length_zipIdx]

theorem scratchRow_length (s : State) (t h off fmt cols : Nat) : (scratchRow s t h off fmt cols).length = cols := by simp [scratchRow]

/-- Rows worked out by two table entries and kept by one operation alike hold the same elements. -/
theorem rowRead_elems {e d d' : FuncRec} {t r : Nat} {xs ys : List Nat} (h : e.rowRead d t r xs ys = e.rowRead d' t r xs ys) :
    (vecRow d t r xs ys).elems = (vecRow d' t r xs ys).elems := by
  have houts := List.append_cancel_left (congrArg FuncRec.outs h)
  have helems := congrArg RowOut.elems (List.singleton_inj.1 houts)
  exact helems

/-! ### An operation that its unit does not hold -/

/-- A row sum and an absolute value of the vector unit, each of one row of two FP64 columns, of one issue cycle. -/
def sumOp : FuncRec := { words := [0x2A80000000010100] }
def absOp : FuncRec := { words := [0x2780000000010100] }

/-- A package whose tile 0 holds the row sum alone. -/
def holdsSum : State := { State.reset with phys := [(physTile State.reset 0, { vecOps := [sumOp] })] }

theorem srcUpTo_absOp_length (s : State) : (srcUpTo s 0 absOp 0 0).length = 2 := by
  have hrow : srcRow s 0 absOp 0 = scratchRow s 0 absOp.srcHandle 0 0 2 := rfl
  have hsize : absOp.partSize = 64 := rfl
  have hbefore : absOp.src = [] := rfl
  simp only [srcUpTo, hrow, hsize, hbefore, List.nil_append, Nat.zero_mul, List.drop_zero, List.length_take, scratchRow_length]
  decide

/-- The unit that holds the row sum reads the last part of a row for the absolute value: the row is worked out as a sum, of one element, and not as
an absolute value, of two. -/
theorem readRow_absOp_of_holdsSum :
    readRow holdsSum 0 absOp 0 0 ≠ modOp (partCounted holdsSum 0 absOp 0 0) 0 true absOp.issue
      (fun e => e.rowRead absOp 0 0 (srcUpTo holdsSum 0 absOp 0 0) (src2UpTo holdsSum 0 absOp 0 0)) := by
  intro h
  rw [readRow_lastPart_vec rfl (by decide)] at h
  have hsorted : sorted (partCounted holdsSum 0 absOp 0 0).phys = true := rfl
  have hheld : (ptile (partCounted holdsSum 0 absOp 0 0) (physTile (partCounted holdsSum 0 absOp 0 0) 0)).vecOps = [sumOp] := rfl
  have hops := congrArg (fun s => (ptile s (physTile (partCounted holdsSum 0 absOp 0 0) 0)).vecOps) h
  simp only [vecOps_modOp hsorted, hheld, List.map_cons, List.map_nil, List.cons.injEq, and_true] at hops
  have hlength := congrArg List.length (rowRead_elems hops)
  rw [vecRow_sum_length rfl, vecRow_abs_length rfl, srcUpTo_absOp_length] at hlength
  exact absurd hlength (by decide)

/-- Refutes O19: the clause of a vector row takes the operation to be one that the unit holds, and the only one of its issue cycle, without saying so.
A unit that holds a row sum reads a row for an absolute value of the same issue cycle that it does not hold: the row is worked out by the table entry
of the row sum, which gives one element, and the clause says that it is worked out by the entry of the other, which gives two. -/
theorem not_rowUnitCompletes : ¬ Obligations.RowUnitCompletes := by
  intro h
  obtain ⟨-, -, -, -, -, -, -, -, -, -, hvec, -⟩ := h holdsSum holdsSum 0 0 0 0 absOp [] {}
  exact readRow_absOp_of_holdsSum (hvec rfl (by decide))

end Sys2Proof.Machine

namespace Sys2Proof.Machine

/-! ### IDLE, WINDOW and SIGNAL records (R110, R292, R336) -/

section
variable {s u : State} {tile : Nat} {r : Run} {x : Nat × Word}

theorem exec_idle_eq (s : State) (tile : Nat) : exec (.idle tile) s = execIdle tile s := rfl

theorem exec_window_eq (s : State) (tile slot action image : Nat) : exec (.window tile slot action image) s = execWindow tile slot action image s := rfl

theorem exec_signalRecord_eq (s : State) (tile sem : Nat) : exec (.signalRecord tile sem) s = execSignalRecord tile sem s := rfl

/-- R110: only the window of that slot of that tile is written. -/
theorem setWindow_eq (s : State) (t slot : Nat) (w : Word) :
    setWindow s t slot w = { s with tiles := tmod {} s.tiles t (fun l => { l with windows := tset 0 l.windows slot w }) } := rfl

/-- R292: an IDLE record issues, and that is all. -/
theorem exec_idle_due (hu : u = issued s tile x) (h : Due s tile 0 0 r x) : exec (.idle tile) s = .next u := by
  rw [exec_idle_eq, execIdle, issue_due h, hu]

/-- R110: a WINDOW record with ACTION 1 opens its slot with the entry of the window image. -/
theorem exec_window_opens {slot image : Nat} (hu : u = issued s tile x) (h : Due s tile 4 (at' slot 4 44 + at' 1 1 43 + at' image 8 35) r x) :
    exec (.window tile slot 1 image) s = .next (setWindow u tile slot (nth (runEntry r secWindows tile 1 image) 0 ||| (1 : Word) <<< 63)) := by
  rw [exec_window_eq, execWindow, issue_due h, if_pos rfl, hu]

/-- R110: a WINDOW record with ACTION 0 clears the open bit of its slot. -/
theorem exec_window_closes {slot image : Nat} (hu : u = issued s tile x) (h : Due s tile 4 (at' slot 4 44 + at' 0 1 43 + at' image 8 35) r x) :
    exec (.window tile slot 0 image) s = .next (setWindow u tile slot (tget 0 (ltile u tile).windows slot &&& ~~~((1 : Word) <<< 63))) := by
  rw [exec_window_eq, execWindow, issue_due h, if_neg Nat.zero_ne_one, hu]

/-- R336: a SIGNAL record adds 1 to its semaphore. -/
theorem exec_signalRecord_due {sem : Nat} (hu : u = issued s tile x) (h : Due s tile 7 (at' sem 12 36) r x) :
    exec (.signalRecord tile sem) s = .next (semAdd u sem 1) := by
  rw [exec_signalRecord_eq, execSignalRecord, issue_due h, hu]

end

/-- Settles O14, record by record. -/
theorem sequencerRecordsIssue : Obligations.SequencerRecordsIssue := by
  intro s u tile slot image sem r x hu
  refine ⟨exec_idle_due hu, fun h => ?_, fun h => ?_, exec_signalRecord_due hu⟩
  · rw [exec_window_opens hu h, setWindow_eq]
  · rw [exec_window_closes hu h, setWindow_eq]

end Sys2Proof.Machine

namespace Sys2Proof.Machine

/-! ### Inbound packets at the windows (R111, R112) -/

theorem exec_inboundPacketHead_eq (s : State) (tile : Nat) (h : TileHead) : exec (.inboundPacketHead tile h) s = execInboundPacketHead tile h s := rfl

/-- R112: a refused access that is not scheduled is counted at its tile. -/
theorem refuseWindow_unscheduled (s : State) (t : Nat) : refuseWindow s t false = rinc s (Reg.windowRefusals t) := rfl

/-- R112: a refused transfer of the schedule is counted at its tile and raises STEP_FAULT. -/
theorem refuseWindow_scheduled (s : State) (t : Nat) :
    refuseWindow s t true = tileFault (rinc s (Reg.windowRefusals t)) t Code.windowClosed 0 := rfl

theorem exec_inboundPacketHead_admitted {s : State} {tile : Nat} {h : TileHead} (ha : admitted s tile h = true) :
    exec (.inboundPacketHead tile h) s = .next (emit s (.memReply Code.ok 0 0)) := by
  rw [exec_inboundPacketHead_eq, execInboundPacketHead, if_pos ha]

/-- R112: a refused packet is answered unless the schedule sent it. -/
theorem exec_inboundPacketHead_refused {s : State} {tile : Nat} {h : TileHead} (ha : admitted s tile h = false) :
    exec (.inboundPacketHead tile h) s = .next (if h.scheduled then refuseWindow s tile h.scheduled
      else emit (refuseWindow s tile h.scheduled) (.memReply Code.windowClosed 0 0)) := by
  rw [exec_inboundPacketHead_eq, execInboundPacketHead, ha, if_neg Bool.false_ne_true]

/-! ### The end of a zeroisation (R115) -/

theorem exec_tileZeroiseDone_eq (s : State) (phys : Nat) (ok : Bool) (cycles : Nat) :
    exec (.tileZeroiseDone phys ok cycles) s = execTileZeroiseDone phys ok cycles s := rfl

/-- R115: the longest time is recorded, and the tile no longer stands in the list of the tenant change. -/
def zeroiseTimed (s : State) (phys cycles : Nat) : State :=
  { rset s Reg.lastZeroiseCycles (max (rget s Reg.lastZeroiseCycles) (cycles % 2 ^ 32)) with
    tenancy := { s.tenancy with zeroising := s.tenancy.zeroising.filter (· != phys) } }

/-- R115: a tile that zeroises ends it cleared or, where its read-back is not zero, failed. -/
theorem exec_tileZeroiseDone_zeroising {s : State} {phys : Nat} (hz : (ptile s phys).zeroising = true) (ok : Bool) (cycles : Nat) :
    exec (.tileZeroiseDone phys ok cycles) s = .next (setPtile
      (if ok then clearTile (zeroiseTimed s phys cycles) phys else zeroiseFailed (zeroiseTimed s phys cycles) phys) phys
      (fun y => { y with zeroising := false })) := by
  rw [exec_tileZeroiseDone_eq, execTileZeroiseDone, hz, Bool.not_true, if_neg Bool.false_ne_true]
  rfl

/-- A tile that does not zeroise has nothing to end. -/
theorem exec_tileZeroiseDone_idle {s : State} {phys : Nat} (hz : (ptile s phys).zeroising = false) (ok : Bool) (cycles : Nat) :
    exec (.tileZeroiseDone phys ok cycles) s = .next s := by
  rw [exec_tileZeroiseDone_eq, execTileZeroiseDone, hz, Bool.not_false, if_pos rfl]

/-- Settles O21: a packet by whether the windows admit it and whether it is scheduled, a zeroisation by whether there is one. -/
theorem inboundPacketsMeetWindows : Obligations.InboundPacketsMeetWindows := by
  intro s tile phys cycles h
  refine ⟨exec_inboundPacketHead_admitted, fun ha hs => ?_, fun ha hs => ?_, fun hz => ?_, fun hz => exec_tileZeroiseDone_idle hz true cycles⟩
  · rw [exec_inboundPacketHead_refused ha, hs, if_neg Bool.false_ne_true, refuseWindow_unscheduled]
  · rw [exec_inboundPacketHead_refused ha, hs, if_pos rfl, refuseWindow_scheduled]
  · rw [exec_tileZeroiseDone_zeroising hz, if_pos rfl, zeroiseTimed]

end Sys2Proof.Machine

namespace Sys2Proof.Machine

/-! ### Released requests (R181, R186, R372) -/

theorem clocked_off {s : State} (h : s.power.clocksOff = true) (t : State) : clocked s t = s := if_pos h

theorem clocked_on {s : State} (h : s.power.clocksOff = false) (t : State) : clocked s t = t := by simp [clocked, h]

theorem clocked_self (s : State) : clocked s s = s := ite_self s

theorem exec_acknowledgement_eq (s : State) (src : Nat) : exec (.acknowledgement src) s = execAcknowledgement src s := rfl

/-- R372: with the clocks standing no request takes effect. -/
theorem exec_acknowledgement_unclocked {s : State} (h : s.power.clocksOff = true) (src : Nat) : exec (.acknowledgement src) s = .next s :=
  congrArg _ (clocked_off h _)

theorem exec_acknowledgement_none {s : State} {src : Nat} (hd : (peerIn s src).released = []) : exec (.acknowledgement src) s = .next s := by
  simp only [exec_acknowledgement_eq, execAcknowledgement, hd, clocked_self]

/-- R160: a request that brings nothing to a regulator takes effect at once. -/
theorem exec_acknowledgement_unmetered {s : State} {src : Nat} {h : HeldPkt} {hs : List HeldPkt} (hc : s.power.clocksOff = false)
    (hd : (peerIn s src).released = h :: hs) (hw : h.waits = false) (hm : meteredAs s src h = none) :
    exec (.acknowledgement src) s = .next (takeEffect s src 0) := by
  simp only [exec_acknowledgement_eq, execAcknowledgement, hd, hw, hm, Bool.false_eq_true, if_false, clocked_on hc]

/-- R186: outside a rollback the oldest released request is taken from its line, performed, and answered with what that gives. -/
theorem takeEffect_performs {s : State} {src : Nat} {h : HeldPkt} {hs : List HeldPkt} (hd : (peerIn s src).released = h :: hs)
    (hr : rollingBack s = false) {a : Answer × State} (ha : a = performRequest (setIn s src { peerIn s src with released := hs }) h) (note : Nat) :
    takeEffect s src note = respond a.2 h a.1 note := by
  simp only [takeEffect, hd, hr, ha, Bool.false_eq_true, if_false]

/-! ### Scheduled blocks (R298, R299) -/

theorem exec_schedBlockRelease (s : State) (e k pos sb : Nat) (data : List Byte) :
    exec (.schedBlockRelease e k pos sb data) s = .next (schedBlock s e k pos sb data) := rfl

/-- R299: a block is a duplicate where its group is closed or it has landed. -/
def isDuplicate (s : State) (r : Run) (e k pos sb : Nat) (x : LaneRun × Nat) : Bool :=
  r.closed.contains (fld x.1.w1 63 58, fld x.1.w1 26 15 + 4096 * (sb / max 1 (beatCount s r.slot r.bucket))) ||
    (tget? r.rxSeen (rxKey e k pos sb)).isSome

section
variable {s : State} {e k pos sb : Nat} {r : Run} {x : LaneRun × Nat}

/-- R298: without a Last no run covers a block. -/
theorem schedBlock_noLast (hr : s.last.run = none) (e k pos sb : Nat) (data : List Byte) :
    schedBlock s e k pos sb data = rinc s ((Reg.uncorrectableBlocks e).at k) := by
  simp only [schedBlock, hr]

/-- R298: a block that no run of the Last covers. -/
theorem schedBlock_uncovered (hr : s.last.run = some r) (hx : rxRun s r e k pos sb = none) (data : List Byte) :
    schedBlock s e k pos sb data = rinc s ((Reg.uncorrectableBlocks e).at k) := by
  simp only [schedBlock, hr, hx]

theorem schedBlock_duplicate (hr : s.last.run = some r) (hx : rxRun s r e k pos sb = some x) (hd : isDuplicate s r e k pos sb x = true)
    (data : List Byte) : schedBlock s e k pos sb data = rinc s ((Reg.duplicates e).at k) := by
  obtain ⟨x, i⟩ := x
  rw [isDuplicate, Bool.or_eq_true] at hd
  simp only [schedBlock, hr, hx, if_pos hd]

/-- R111, R298: a new block crosses to its tile, where the windows decide whether it lands or is refused. -/
theorem schedBlock_new (hr : s.last.run = some r) (hx : rxRun s r e k pos sb = some x) (hd : isDuplicate s r e k pos sb x = false)
    {a : Nat} {w : TileHead} {s0 : State} {data : List Byte}
    (ha : a = resolve (handleOf s (fld x.1.w1 63 58) (fld x.1.w1 57 50)) (64 * (fld x.1.w1 49 30 + x.2)))
    (hw : w = { src := (lanePartner (lane s e k)).getD 0, addr := a, len := 64, write := true, atomic := false, scheduled := true })
    (hs : s0 = crossIn s (physTile s (fld x.1.w1 63 58)) (e / 4) (data.take 64)) :
    schedBlock s e k pos sb data =
      if admitted s (fld x.1.w1 63 58) w then
        placeBlock (setRun s0 (fun y => { y with rxSeen := tput y.rxSeen (rxKey e k pos sb) 1 })) (fld x.1.w1 63 58) pos a
          (transferDue s r x.1 k sb + rxSlack x.1) ((arrivedBeat s e k).map (·.2) == some sb) (data.take 64)
      else refuseWindow s0 (fld x.1.w1 63 58) true := by
  obtain ⟨x, i⟩ := x
  subst hs hw ha
  have hnot := Bool.eq_false_iff.1 hd
  rw [isDuplicate, Ne, Bool.or_eq_true] at hnot
  simp only [schedBlock, hr, hx, if_neg hnot, Bool.not_eq_true', ← Bool.not_eq_true, ite_not]

end

/-- Settles O31: a request by the clocks and the line of its source, a block by its run, by whether it is a duplicate, and by the windows. -/
theorem requestsTakeEffectAndBlocksRelease : Obligations.RequestsTakeEffectAndBlocksRelease := by
  intro s src e k pos sb a h hs data r x w s0
  refine ⟨fun hc => exec_acknowledgement_unclocked hc src, fun hc hd hw hm hr => ⟨_, rfl, ?_⟩, exec_acknowledgement_none, fun hr => ?_, fun hr hx => ?_,
    fun hr hx hopen hnew ha hw h0 hadm => ?_, fun hr hx hopen hnew ha hw h0 hadm => ?_, fun hr hx hclosed => ?_, fun hr hx hseen => ?_⟩
  · rw [exec_acknowledgement_unmetered hc hd hw hm, takeEffect_performs hd hr rfl]
  · rw [exec_schedBlockRelease, schedBlock_noLast hr]
  · rw [exec_schedBlockRelease, schedBlock_uncovered hr hx]
  · rw [exec_schedBlockRelease, schedBlock_new hr hx (by rw [isDuplicate, hopen, hnew]; rfl) ha hw h0, if_pos hadm]
  · rw [exec_schedBlockRelease, schedBlock_new hr hx (by rw [isDuplicate, hopen, hnew]; rfl) ha hw h0, hadm, if_neg Bool.false_ne_true]
  · rw [exec_schedBlockRelease, schedBlock_duplicate hr hx (by rw [isDuplicate, hclosed, Bool.true_or])]
  · rw [exec_schedBlockRelease, schedBlock_duplicate hr hx (by rw [isDuplicate, hseen, Bool.or_true])]

end Sys2Proof.Machine

namespace Sys2Proof.Machine

/-! ### COPY, LACE and ARRIVE records (R118, R299, R346) -/

section
variable {s u : State} {tile : Nat} {r : Run} {x : Nat × Word}

theorem exec_copyRecord_eq (s : State) (tile stitcher desc : Nat) : exec (.copyRecord tile stitcher desc) s = execCopyRecord tile stitcher desc s := rfl

theorem exec_laceRecord_eq (s : State) (tile entry : Nat) : exec (.laceRecord tile entry) s = execLaceRecord tile entry s := rfl

theorem exec_arrive_eq (s : State) (tile group : Nat) : exec (.arrive tile group) s = execArrive tile group s := rfl

/-- The copy that a COPY record begins in state `u`: its descriptors, with the runtime shapes of the run, from the beat and the cycle now. -/
def copyIssuing (u : State) (r : Run) (tile stitcher desc : Nat) : CopyRec :=
  { schedCopy (runEntry r secStitch tile 8 desc) (runEntry r secTensor tile 8) (runEntry r secPattern tile 8) (handleOf u tile) with
    tile := tile, stitcher := stitcher, desc := desc, launchBeat := nowSched u, issue := cycleNow u, halfAt := 2 * (cycleNow u + 2), s0 := r.s0, s1 := r.s1 }

/-- R118: a COPY record that is due finds its scheduled context busy or free. -/
theorem exec_copyRecord_due {stitcher desc : Nat} (hu : u = issued s tile x) (h : Due s tile 3 (at' stitcher 2 46 + at' desc 12 34) r x) :
    exec (.copyRecord tile stitcher desc) s = .next (if (ctxOf u (ctxKey false true tile stitcher)).isSome
      then stepFault u 0 3 (4 * tile + stitcher) none desc false else beginCopy u (copyIssuing u r tile stitcher desc)) := by
  rw [exec_copyRecord_eq, execCopyRecord, issue_due h, hu]
  rfl

/-- The part of this package in the scheduled BARRIER that a LACE record issues in state `u` (R346). -/
def barrierIssuing (u : State) (r : Run) (tile entry : Nat) : SchedLace :=
  { tile := tile, entry := entry, issued := nowSched u, seq := stepBeat u r % 2 ^ 24, lop := lopBarrier, ltype := leType (laceEntry r tile entry)
    set := leSet (laceEntry r tile entry), held := [(ownChip u, 0)] }

/-- R346: a LACE record of a BARRIER reads no operand. -/
theorem exec_laceRecord_barrier {entry : Nat} (hu : u = issued s tile x) (h : Due s tile 5 (at' entry 10 38) r x)
    (hb : leLop (laceEntry r tile entry) = lopBarrier) :
    exec (.laceRecord tile entry) s = .next (schedLaceIssue (opCount u tile 5 (ltFmt (leType (laceEntry r tile entry))) 1) r
      (barrierIssuing u r tile entry)) := by
  simp only [exec_laceRecord_eq, execLaceRecord, issue_due h, hu, hb, beq_self_eq_true, if_true]
  rfl

/-- R299: the group of a tile is closed in the step of the beat now. -/
def closeGroup (u : State) (r : Run) (tile group : Nat) : State :=
  setRun u (fun y => { y with closed := y.closed ++ [(tile, group + 4096 * (nowSched u / max 1 (beatCount u r.slot r.bucket)))] })

/-- R299: an ARRIVE record whose blocks have all come in. -/
theorem exec_arrive_complete {group : Nat} (hu : u = issued s tile x) (h : Due s tile 6 (at' group 12 36) r x)
    (hall : (groupKeys u r tile group (nowSched u)).all (fun key => (tget? r.rxSeen key).isSome) = true) :
    exec (.arrive tile group) s = .next (closeGroup u r tile group) := by
  subst hu
  rw [exec_arrive_eq, execArrive, issue_due h, if_pos hall]
  rfl

end

/-- Settles O20, record by record, a COPY record by whether its context is busy. -/
theorem copyRecordLaunches : Obligations.CopyRecordLaunches := by
  intro s u tile stitcher desc entry group r x hu
  refine ⟨fun h hbusy => ?_, fun h hfree => ?_, exec_laceRecord_barrier hu, fun h hall => ⟨_, exec_arrive_complete hu h hall, rfl⟩⟩
  · rw [exec_copyRecord_due hu h, if_pos hbusy]
  · rw [exec_copyRecord_due hu h, hfree, Option.isSome_none, if_neg Bool.false_ne_true, copyIssuing]

end Sys2Proof.Machine

namespace Sys2Proof.Machine

/-! ### Copies of the queues (R118, R328, R333) -/

section
variable {s : State} {tile stitcher : Nat}

theorem exec_queueCopyStart_eq (s : State) (tile stitcher : Nat) : exec (.queueCopyStart tile stitcher) s = execQueueCopyStart tile stitcher s := rfl

/-- R328: what a free queue context does for the command that waits first: it starts its copy once the command has begun, and lets it go once it is
gone. -/
def serveWaiting (s : State) (tile stitcher q id : Nat) : State :=
  match flightOf s q id with
  | some f => if f.begun then startQueueCopy (takeWaiting s tile stitcher) tile stitcher q id else s
  | none => takeWaiting s tile stitcher

theorem serveWaiting_begun {q id : Nat} {f : Flight} (hf : flightOf s q id = some f) (hb : f.begun = true) (tile stitcher : Nat) :
    serveWaiting s tile stitcher q id = startQueueCopy (takeWaiting s tile stitcher) tile stitcher q id := by
  simp only [serveWaiting, hf, hb, if_true]

theorem serveWaiting_notBegun {q id : Nat} {f : Flight} (hf : flightOf s q id = some f) (hb : f.begun = false) (tile stitcher : Nat) :
    serveWaiting s tile stitcher q id = s := by
  simp only [serveWaiting, hf, hb, Bool.false_eq_true, if_false]

theorem serveWaiting_gone {q id : Nat} (hf : flightOf s q id = none) (tile stitcher : Nat) :
    serveWaiting s tile stitcher q id = takeWaiting s tile stitcher := by
  simp only [serveWaiting, hf]

theorem exec_queueCopyStart_free {q id : Nat} {rest : List (Nat × Nat)} (hfree : ctxOf s (ctxKey false false tile stitcher) = none)
    (hs : s.power.stalled = false) (hw : tget? s.stitch.waiting (4 * tile + stitcher) = some ((q, id) :: rest)) :
    exec (.queueCopyStart tile stitcher) s = .next (serveWaiting s tile stitcher q id) := by
  simp only [exec_queueCopyStart_eq, execQueueCopyStart, hfree, hs, tget, hw, Option.isSome_none, Bool.or_self, Bool.false_eq_true, if_false,
    Option.getD_some] <;> rfl

theorem exec_queueCopyStart_busy (hbusy : (ctxOf s (ctxKey false false tile stitcher)).isSome = true) :
    exec (.queueCopyStart tile stitcher) s = .next s := by
  simp only [exec_queueCopyStart_eq, execQueueCopyStart, hbusy, Bool.true_or, if_true]

/-! ### Copies of the privileged Stitchers (R118, R119, R148, R370) -/

theorem exec_privilegedCopyStart_eq (s : State) (n block : Nat) : exec (.privilegedCopyStart n block) s = execPrivilegedCopyStart n block s := rfl

/-- R148, R370: a privileged Stitcher that can take a copy. -/
structure PrivilegedReady (s : State) (n : Nat) : Prop where
  inRange : n < 8
  clocked : s.power.stalled = false
  untripped : s.power.tripped = false
  free : ctxOf s (512 + n) = none
  noSnapshot : snapOn s n = false

/-- R119: a block of 256 B in HBM that can be read. -/
structure ReadableBlock (s : State) (block : Nat) : Prop where
  aligned : block % 256 = 0
  inHbm : block + 256 ≤ hbmBytes
  sound : poisoned s block 256 = false

theorem exec_privilegedCopyStart_ready {n block : Nat} (hn : PrivilegedReady s n) (hb : ReadableBlock s block) :
    exec (.privilegedCopyStart n block) s = .next (startBlock s (blockCopy s (hbmRead s block 256) n 0 true) false) := by
  obtain ⟨h8, hs, ht, hfree, hsnap⟩ := hn
  obtain ⟨ha, hin, hp⟩ := hb
  rw [exec_privilegedCopyStart_eq, execPrivilegedCopyStart, if_neg (by simp [h8, hs, ht, hfree, hsnap, ha, hin, hp])]

theorem exec_privilegedCopyStart_busy {n : Nat} (hbusy : (ctxOf s (512 + n)).isSome = true) (block : Nat) :
    exec (.privilegedCopyStart n block) s = .next s := by
  rw [exec_privilegedCopyStart_eq, execPrivilegedCopyStart, if_pos (.inr (.inr (.inr (.inl hbusy))))]

end

/-- Settles O22: a queue context by whether it is free and what the command that waits first has come to, a privileged Stitcher by whether it is free. -/
theorem stitchersServeQueues : Obligations.StitchersServeQueues := by
  intro s u tile stitcher n block q id rest f hu
  refine ⟨fun hfree hs hw hf hb => ?_, fun hfree hs hw hf hb => ?_, fun hfree hs hw hf => ?_, exec_queueCopyStart_busy,
    fun h8 hs ht hfree hsnap ha hin hp => exec_privilegedCopyStart_ready ⟨h8, hs, ht, hfree, hsnap⟩ ⟨ha, hin, hp⟩,
    fun hbusy => exec_privilegedCopyStart_busy hbusy block⟩
  · rw [exec_queueCopyStart_free hfree hs hw, serveWaiting_begun hf hb, hu]
  · rw [exec_queueCopyStart_free hfree hs hw, serveWaiting_notBegun hf hb]
  · rw [exec_queueCopyStart_free hfree hs hw, serveWaiting_gone hf, hu]

end Sys2Proof.Machine

namespace Sys2Proof.Machine

/-! ### Granules that wait for a lane (R297) -/

section
variable {s v : State} {ctx : Nat} {c d : CopyRec} {r : Run}

theorem exec_txBufferPlace_eq (s : State) (ctx : Nat) : exec (.txBufferPlace ctx) s = execTxBufferPlace ctx s := rfl

/-- R297: the granule has crossed to the transmit buffer of the lane of run `l`, the copy counts it as outstanding, and it is counted. -/
def placeGranule (s : State) (ctx : Nat) (c : CopyRec) (m : Move) (ms : List Move) (l : LaneRun) : State :=
  opCount (putCtx
    (setLane (crossOut s (physTile s c.tile) (physEyelet s l.eyelet / 4) m.data) (physEyelet s l.eyelet) l.lane
      (fun y => { y with txBuf := y.txBuf ++ [(ctx, m.idx, m.data)] }))
    ctx { c with txWait := ms, outstanding := c.outstanding + 1 }) c.tile 4 (tdFmt c.dst) 1

/-- R297: the lane has room for the oldest granule that waits. -/
theorem exec_txBufferPlace_waits {m : Move} {ms : List Move} {l : LaneRun} (hc : ctxOf s ctx = some c) (hr : s.last.run = some r)
    (hw : c.txWait = m :: ms) (hl : txRun s r c m.idx = some l) (hroom : (lane s (physEyelet s l.eyelet) l.lane).txBuf.length < 64) :
    exec (.txBufferPlace ctx) s = .next (placeGranule s ctx c m ms l) := by
  simp only [exec_txBufferPlace_eq, execTxBufferPlace, hc, hr, hw, hl, List.isEmpty_cons, Bool.false_eq_true, if_false, if_neg (Nat.not_le.2 hroom)]
  rfl

/-- Log 71: where no granule waits, the copy makes its next access, and none waits then either. -/
theorem exec_txBufferPlace_drives (hc : ctxOf s ctx = some c) (hw : c.txWait = []) (hv : v = driveCopy 1 s ctx) (hd : ctxOf v ctx = some d)
    (hdw : d.txWait = []) : exec (.txBufferPlace ctx) s = .next v := by
  subst hv
  cases hr : (driveCopy 1 s ctx).last.run with
  | none => simp only [exec_txBufferPlace_eq, execTxBufferPlace, hc, hw, List.isEmpty_nil, if_true, hd, hr]
  | some r => simp only [exec_txBufferPlace_eq, execTxBufferPlace, hc, hw, List.isEmpty_nil, if_true, hd, hr, hdw]

/-! ### The end of a copy (R136, R138, R140) -/

theorem exec_copyComplete_eq (s : State) (ctx : Nat) : exec (.copyComplete ctx) s = execCopyComplete ctx s := rfl

/-- R135: only a scheduled copy makes its accesses beat by beat. -/
theorem driveCopy_unscheduled (hc : ctxOf s ctx = some c) (hs : c.sched = false) (n : Nat) : driveCopy n s ctx = s := by
  cases n with
  | zero => rfl
  | succ n => simp only [driveCopy, hc, hs, Bool.false_and, Bool.false_eq_true, if_false]

/-- R140: a copy that has finished completes, and of the scheduled ones one that has met no fault. -/
theorem tryComplete_finished (hc : ctxOf s ctx = some c) (hf : c.finished = true) (hs : c.sched = false ∨ c.status = 0) :
    tryComplete s ctx = completeCopy s ctx c := by
  have hgo : (c.sched && c.status != 0) = false := by
    rcases hs with hs | hs <;> simp [hs]
  simp only [tryComplete, hc, hf, hgo, Bool.not_true, Bool.or_self, Bool.false_eq_true, if_false]

theorem tryComplete_unfinished (hc : ctxOf s ctx = some c) (hf : c.finished = false) : tryComplete s ctx = s := by
  simp only [tryComplete, hc, hf, Bool.not_false, Bool.true_or, if_true]

/-- A copy of a queue or of a privileged Stitcher completes once it has finished. -/
theorem exec_copyComplete_unscheduled (hc : ctxOf s ctx = some c) (hs : c.sched = false) :
    exec (.copyComplete ctx) s = .next (tryComplete s ctx) := by
  simp only [exec_copyComplete_eq, execCopyComplete, hc, hs, Bool.false_and, Bool.false_eq_true, if_false, driveCopy_unscheduled hc hs]

/-- R136: the completion of a copy of fixed timing is an event of its tile. -/
theorem exec_copyComplete_fixed (hc : ctxOf s ctx = some c) (hs : c.sched = true) (ho : c.outside = false) :
    exec (.copyComplete ctx) s = .next (unitEvent s c.tile c.doneCycle) := by
  simp only [exec_copyComplete_eq, execCopyComplete, hc, hs, ho, Bool.not_false, Bool.and_self, if_true]

/-- R138: a scheduled copy with an end outside its tile, before its peak rate allows it to complete. -/
theorem exec_copyComplete_outside_early (hc : ctxOf s ctx = some c) (hs : c.sched = true) (ho : c.outside = true)
    (he : cycleNow s + 56 ≤ c.soonest) : exec (.copyComplete ctx) s = .next s := by
  simp [exec_copyComplete_eq, execCopyComplete, hc, hs, ho, he]

/-- R138: and from then on, with every access made. -/
theorem exec_copyComplete_outside (hc : ctxOf s ctx = some c) (hs : c.sched = true) (ho : c.outside = true) (he : c.soonest < cycleNow s + 56)
    (ha : c.accesses.length ≤ c.at_) : exec (.copyComplete ctx) s = .next (tryComplete s ctx) := by
  simp [exec_copyComplete_eq, execCopyComplete, hc, hs, ho, Nat.not_le.2 he, Nat.sub_eq_zero_of_le ha, driveCopy]

/-- R136: a copy of fixed timing with every access made is ready to complete. -/
theorem actReady_copyDone {t st i : Nat} (hc : fixedCopy v t st i = some c) (ha : c.accesses.length ≤ c.at_) : actReady v t (.copyDone st i) = true := by
  simp [actReady, hc, ha]

theorem perform_copyDone {t st i : Nat} (hc : fixedCopy v t st i = some c) (cyc : Nat) : perform v t cyc (.copyDone st i) = tryComplete v c.key := by
  simp only [perform, hc]

/-- What a copy leaves when it completes, by whether it signals (R121, R138). -/
theorem completeCopy_silent (h : c.signals = false) (s : State) (k : Nat) : completeCopy s k c =
    setResult (traceMake (delCtx s k) 4 (c.traceW2 c.status) (word (at' c.granules 32 32 + at' c.note 8 24)))
      c.origin { status := c.status, reason := c.reason, note := c.note, detail := c.granules } := by
  simp only [completeCopy, h, Bool.false_eq_true, if_false]

theorem completeCopy_signals (h : c.signals = true) (s : State) (k : Nat) : completeCopy s k c =
    setResult (semAdd (traceMake (delCtx s k) 4 (c.traceW2 c.status) (word (at' c.granules 32 32 + at' c.note 8 24))) c.sem 1)
      c.origin { status := c.status, reason := c.reason, note := c.note, detail := c.granules } := by
  simp only [completeCopy, h, if_true]

/-! ### Deadlines (R138, R347) -/

theorem exec_copyDeadlineMissed_eq (s : State) (ctx : Nat) : exec (.copyDeadlineMissed ctx) s = execCopyDeadlineMissed ctx s := rfl

theorem exec_copyDeadlineMissed_late (hc : ctxOf s ctx = some c) (hs : c.sched = true) (hd : c.deadline ≠ 0)
    (hl : c.launchBeat + c.deadline ≤ nowSched s) (hok : c.status = 0) (hr : runState s = .running ∨ runState s = .ending) :
    exec (.copyDeadlineMissed ctx) s = .next (stepFault (putCtx s ctx { c with status := Code.stepFault }) 0 3 c.unit none c.desc false) := by
  simp [exec_copyDeadlineMissed_eq, execCopyDeadlineMissed, hc, hs, hd, hl, hok, hr]

theorem exec_copyDeadlineMissed_early (hc : ctxOf s ctx = some c) (he : nowSched s < c.launchBeat + c.deadline) :
    exec (.copyDeadlineMissed ctx) s = .next s := by
  simp [exec_copyDeadlineMissed_eq, execCopyDeadlineMissed, hc, Nat.not_le.2 he]

/-- The schedule beat by which the result of a lace operation is due (R347). -/
def laceDue (r : Run) (tile entry : Nat) (o : SchedLace) : Nat := o.issued + leDeadline (laceEntry r tile entry)

/-- A lace operation of an entry whose deadline has come and whose result is not visible by it. -/
def laceMissed (s : State) (r : Run) (tile entry : Nat) (o : SchedLace) : Bool :=
  o.tile == tile && o.entry == entry && decide (laceDue r tile entry o ≤ nowSched s) && !laceVisible o (laceDue r tile entry o)

theorem laceMissed_eq_false {tile entry : Nat} {o : SchedLace} (h : o.tile = tile → o.entry = entry →
    nowSched s < laceDue r tile entry o ∨ laceVisible o (laceDue r tile entry o) = true) : laceMissed s r tile entry o = false := by
  rw [Bool.eq_false_iff]
  intro hm
  simp only [laceMissed, Bool.and_eq_true, beq_iff_eq, decide_eq_true_eq, Bool.not_eq_true'] at hm
  obtain ⟨⟨⟨ht, he⟩, hd⟩, hv⟩ := hm
  rcases h ht he with h | h
  · exact Nat.not_le.2 h hd
  · exact Bool.false_ne_true (hv.symm.trans h)

theorem exec_laceDeadlineMissed_eq (s : State) (tile entry : Nat) : exec (.laceDeadlineMissed tile entry) s = execLaceDeadlineMissed tile entry s := rfl

theorem exec_laceDeadlineMissed_late {tile entry : Nat} {o : SchedLace} (hr : s.last.run = some r) (hrun : runState s = .running)
    (ho : r.laceOps.find? (laceMissed s r tile entry) = some o) :
    exec (.laceDeadlineMissed tile entry) s = .next (stepFault s 0 10 0 none o.seq false) := by
  unfold laceMissed laceDue at ho
  simp only [exec_laceDeadlineMissed_eq, execLaceDeadlineMissed, hr, ho, lastRunning, hrun, beq_self_eq_true, if_true]

/-- R347: none of the operations of the entry is late. -/
theorem exec_laceDeadlineMissed_none {tile entry : Nat} (hr : s.last.run = some r) (h : ∀ o ∈ r.laceOps, o.tile = tile → o.entry = entry →
    nowSched s < laceDue r tile entry o ∨ laceVisible o (laceDue r tile entry o) = true) : exec (.laceDeadlineMissed tile entry) s = .next s := by
  have hnone : r.laceOps.find? (laceMissed s r tile entry) = none :=
    List.find?_eq_none.2 (fun o ho => Bool.eq_false_iff.1 (laceMissed_eq_false (h o ho)))
  unfold laceMissed laceDue at hnone
  simp only [exec_laceDeadlineMissed_eq, execLaceDeadlineMissed, hr, hnone]

end

/-- Settles O23: a granule by whether it waits, a completion by the kind of its copy, a deadline by whether it has come and the result is there. -/
theorem copiesPlaceCompleteAndMeetDeadlines : Obligations.CopiesPlaceCompleteAndMeetDeadlines := by
  intro s v ctx tile entry c d r m ms l o
  refine ⟨exec_txBufferPlace_waits, exec_txBufferPlace_drives, fun hc hs hf hsig => ?_, fun hc hs hf hsig => ?_, fun hc hs hf => ?_,
    fun hc hs ho hl hcyc => ?_, fun hc hs ho hl hcyc hv hdue hfix hkey ha hok hf => ?_, fun hc hs ho he hf ha hok => ?_, exec_copyComplete_outside_early,
    exec_copyDeadlineMissed_late, exec_copyDeadlineMissed_early, exec_laceDeadlineMissed_late,
    fun hr h => exec_laceDeadlineMissed_none hr (fun o ho ht he => .inl (h o ho ht he)),
    fun hr h => exec_laceDeadlineMissed_none hr (fun o ho ht he => .inr (h o ho ht he))⟩
  · rw [exec_copyComplete_unscheduled hc hs, tryComplete_finished hc hf (.inl hs), completeCopy_silent hsig]
  · rw [exec_copyComplete_unscheduled hc hs, tryComplete_finished hc hf (.inl hs), completeCopy_signals hsig]
  · rw [exec_copyComplete_unscheduled hc hs, tryComplete_unfinished hc hf]
  · rw [exec_copyComplete_fixed hc hs ho, unitEvent_now hl hcyc]
  · rw [exec_copyComplete_fixed hc hs ho, unitEvent_performs hl hcyc hv hdue (actReady_copyDone hfix ha) rfl, perform_copyDone hfix,
      tryComplete_finished hkey hf (.inr hok)]
  · rw [exec_copyComplete_outside hc hs ho he ha, tryComplete_finished hc hf (.inr hok)]

end Sys2Proof.Machine

namespace Sys2Proof.Machine

/-! ### Writes that drop translations (R146, R150) -/

theorem exec_xlateInvalidate_eq (s : State) (via : Via) (v : Nat) :
    exec (.xlateInvalidate via v) s = .next (doWrite s via 0x3060 9 (wXlateInvalidate v)) := rfl

theorem exec_xlateRootWrite_eq (s : State) (via : Via) (v : Nat) :
    exec (.xlateRootWrite via v) s = .next (doWrite s via 0x3060 8 (wXlateRoot v)) := rfl

theorem wXlateInvalidate_zero (s : State) : wXlateInvalidate 0 s = accept (invalidateXlate s) := rfl

/-- R150: an invalidation is a write of 0, and any other value drops nothing. -/
theorem wXlateInvalidate_nonzero (s : State) {v : Nat} (h : v ≠ 0) : wXlateInvalidate v s = (Code.valueRefused, s) := if_pos h

/-- R150: a root on a 64 KiB boundary whose table lies in HBM. -/
theorem wXlateRoot_placed (s : State) {v : Nat} (ha : v % 65536 = 0) (hb : v + 65536 ≤ hbmBytes) :
    wXlateRoot v s = accept (invalidateXlate (rset s Reg.xlateRoot v)) :=
  if_neg (by omega)

/-- R150: any other root. -/
theorem wXlateRoot_misplaced (s : State) {v : Nat} (h : v % 65536 ≠ 0 ∨ hbmBytes < v + 65536) : wXlateRoot v s = (Code.valueRefused, s) := if_pos h

/-- A root that is refused, as its writer sees it. -/
theorem exec_xlateRootWrite_misplaced {s : State} {via : Via} {v : Nat} (hw : Writable s via 0x3060 8) (h : v % 65536 ≠ 0 ∨ hbmBytes < v + 65536) :
    exec (.xlateRootWrite via v) s = .next (answer s via 2 0x3060 8 Code.valueRefused) := by
  rw [exec_xlateRootWrite_eq, doWrite_valueRefused hw (wXlateRoot_misplaced s h)]

/-- Settles O58, each refusal from the rule of its entry. -/
theorem translationWritesAreRefused : Obligations.TranslationWritesAreRefused := by
  intro s via v
  refine ⟨fun hw h => ⟨exec_xlateRootWrite_misplaced hw h, rget_answer ..⟩, fun hw h => ⟨?_, answer_stitch ..⟩⟩
  rw [exec_xlateInvalidate_eq, doWrite_valueRefused hw (wXlateInvalidate_nonzero s h)]

end Sys2Proof.Machine

namespace Sys2Proof.Machine

/-! ### Buckets of the regulators (R161, R163) -/

/-- Buckets are keyed by die and partition, 16 partitions a die. -/
theorem bucketOf_divMod (s : State) (i : Nat) : bucketOf s (i / 16) (i % 16) = tget {} s.hbm.buckets i := by
  rw [bucketOf, Nat.div_add_mod]

/-- A bucket that is not as it was made is listed, so it reads back whatever the order of the table. -/
theorem bucketOf_setBucket {b : Bucket} (hb : b ≠ {}) (s : State) (i j : Nat) :
    bucketOf (setBucket s (i / 16) (i % 16) b) (j / 16) (j % 16) = if j = i then b else bucketOf s (j / 16) (j % 16) := by
  rw [bucketOf_divMod, bucketOf_divMod, setBucket, Nat.div_add_mod, tset, if_neg hb]
  exact tget_tput {} s.hbm.buckets i j b

/-- Buckets set one after the other, each by its own number. -/
theorem bucketOf_foldl_setBucket {f : Nat → Bucket} (hf : ∀ i, f i ≠ {}) (l : List Nat) (s : State) (j : Nat) :
    bucketOf (l.foldl (fun t i => setBucket t (i / 16) (i % 16) (f i)) s) (j / 16) (j % 16) = if j ∈ l then f j else bucketOf s (j / 16) (j % 16) := by
  induction l generalizing s with
  | nil => rfl
  | cons i l ih =>
    rw [List.foldl_cons, ih, bucketOf_setBucket (hf i)]
    by_cases hl : j ∈ l
    · rw [if_pos hl, if_pos (List.mem_cons_of_mem i hl)]
    · by_cases hi : j = i
      · subst hi
        rw [if_neg hl, if_pos rfl, if_pos List.mem_cons_self]
      · rw [if_neg hl, if_neg hi, if_neg (by simp [hi, hl])]

/-- The burst of a partition depends on the entries in force alone. -/
theorem burstUnits_congr {s t : State} (h : t.hbm.partActive = s.hbm.partActive) (p : Nat) : burstUnits t p = burstUnits s p := by
  simp only [burstUnits, pget, h]

/-! ### Commits of the partition entries (R163) -/

/-- The package with its staged partition entries in force. -/
def partsInForce (s : State) : State :=
  { s with hbm := { s.hbm with
    partActive := s.regs.filter (fun e => regKey 0x3110 1 0 ≤ e.1 && e.1 < regKey 0x3120 0 0 && e.1 / 65536 % 256 ≤ 0xC) } }

/-- Bucket `i` of `s`, refilled to now at its rate there, within its burst in `t`. -/
def cappedBucket (s t : State) (i : Nat) : Bucket :=
  let b := refill s (i % 16) (routerNow s) (bucketOf s (i / 16) (i % 16))
  { b with tokens := b.tokens.map (fun x => min x (burstUnits t (i % 16))) }

/-- The package after a commit of its partition entries. -/
def partsCommitted (s : State) : State :=
  (List.range 64).foldl (fun t i => setBucket t (i / 16) (i % 16) (cappedBucket s (partsInForce s) i)) (partsInForce s)

/-- A refilled bucket counts its tokens, so it is not as it was made. -/
theorem cappedBucket_ne_default (s t : State) (i : Nat) : cappedBucket s t i ≠ {} :=
  fun h => Option.some_ne_none _ (congrArg Bucket.tokens h)

theorem cappedBucket_congr {t u : State} (h : u.hbm.partActive = t.hbm.partActive) (s : State) (i : Nat) : cappedBucket s u i = cappedBucket s t i := by
  simp only [cappedBucket, burstUnits_congr h]

/-- Setting buckets is all that a commit does once the entries are in force. -/
theorem partsCommitted_frame {γ : Type} {g : State → γ} (hg : ∀ t die p b, g (setBucket t die p b) = g t) (s : State) :
    g (partsCommitted s) = g (partsInForce s) :=
  foldl_keeps _ g (fun t _ => hg t _ _ _) _ _

theorem partsCommitted_partActive (s : State) : (partsCommitted s).hbm.partActive = (partsInForce s).hbm.partActive :=
  partsCommitted_frame (g := fun t => t.hbm.partActive) (fun _ _ _ _ => rfl) s

theorem partsCommitted_mem (s : State) : (partsCommitted s).hbm.mem = s.hbm.mem :=
  partsCommitted_frame (g := fun t => t.hbm.mem) (fun _ _ _ _ => rfl) s

theorem partsCommitted_regs (s : State) : (partsCommitted s).regs = s.regs := partsCommitted_frame (g := State.regs) (fun _ _ _ _ => rfl) s

/-- R163: each of the 64 buckets, within its burst by the entries now in force. -/
theorem bucketOf_partsCommitted (s : State) {i : Nat} (hi : i < 64) : bucketOf (partsCommitted s) (i / 16) (i % 16) = cappedBucket s (partsCommitted s) i := by
  rw [cappedBucket_congr (partsCommitted_partActive s)]
  exact (bucketOf_foldl_setBucket (cappedBucket_ne_default s _) _ _ i).trans (if_pos (List.mem_range.2 hi))

theorem exec_partitionCommit_eq (s : State) (via : Via) (v : Nat) :
    exec (.partitionCommit via v) s = .next (doWrite s via 0x3100 0xA (wPartitionCommit v)) := rfl

theorem wPartitionCommit_valid {s : State} (h : commitOk s = true) : wPartitionCommit 1 s = accept (partsCommitted s) := if_neg (by simp [h])

theorem wPartitionCommit_invalid {s : State} (h : commitOk s = false) : wPartitionCommit 1 s = (Code.valueRefused, s) := if_pos (by simp [h])

/-- Settles O24, each write from the rule of its entry. -/
theorem translationInvalidates : Obligations.TranslationInvalidates := by
  intro s via v
  refine ⟨fun hw => ?_, fun hw ha hb => ?_, exec_xlateRootWrite_misplaced, fun hw hok => ⟨partsCommitted s, ?_,
    partsCommitted_partActive s, partsCommitted_mem s, partsCommitted_regs s, fun i hi => bucketOf_partsCommitted s hi⟩, fun hw hok => ?_⟩
  · rw [exec_xlateInvalidate_eq, doWrite_accept hw (wXlateInvalidate_zero s), invalidateXlate]
  · rw [exec_xlateRootWrite_eq, doWrite_accept hw (wXlateRoot_placed s ha hb)]
  · rw [exec_partitionCommit_eq, doWrite_accept hw (wPartitionCommit_valid hok)]
  · rw [exec_partitionCommit_eq, doWrite_valueRefused hw (wPartitionCommit_invalid hok)]

end Sys2Proof.Machine

namespace Sys2Proof.Machine

/-! ### Writes of HBM (R155) -/

theorem poisoned_iff (s : State) (a n : Nat) :
    poisoned s a n = true ↔ 0 < n ∧ ∃ p ∈ s.hbm.poison, a / 64 ≤ p.1 ∧ p.1 ≤ (a + n - 1) / 64 := by
  simp [poisoned]

/-- A line is poisoned where its number is listed. -/
theorem poisoned_line_iff (s : State) (l : Nat) : poisoned s (64 * l) 64 = true ↔ ∃ p ∈ s.hbm.poison, p.1 = l := by
  have hlow : 64 * l / 64 = l := by omega
  have hhigh : (64 * l + 64 - 1) / 64 = l := by omega
  rw [poisoned_iff, hlow, hhigh]
  exact ⟨fun ⟨_, p, hp, h1, h2⟩ => ⟨p, hp, Nat.le_antisymm h2 h1⟩, fun ⟨p, hp, h⟩ => ⟨by decide, p, hp, Nat.le_of_eq h.symm, Nat.le_of_eq h⟩⟩

/-- The lines of a range without poison are not poisoned. -/
theorem poisoned_line_of_range {s : State} {a n x : Nat} (h : poisoned s a n = false) (hx : x < n) : poisoned s (64 * ((a + x) / 64)) 64 = false := by
  rw [Bool.eq_false_iff, Ne, poisoned_line_iff]
  rintro ⟨p, hp, hl⟩
  exact Bool.eq_false_iff.1 h ((poisoned_iff s a n).2 ⟨by omega, p, hp, by omega, by omega⟩)

@[simp] theorem landing_length (s : State) (a : Nat) (bs : List Byte) : (landing s a bs).length = bs.length := by
  unfold landing
  split
  · rfl
  · rw [List.length_map, List.length_zipIdx]

/-- What lands of a byte, by its own line: the lines of a range without poison are not poisoned either, so the two forms of `landing` agree. -/
theorem landing_getD (s : State) (a : Nat) (bs : List Byte) {x : Nat} (hx : x < bs.length) :
    (landing s a bs).getD x 0 =
      if poisoned s (64 * ((a + x) / 64)) 64 && !(a ≤ 64 * ((a + x) / 64) && 64 * ((a + x) / 64) + 64 ≤ a + bs.length) then s.hbm.mem.read (a + x)
      else bs.getD x 0 := by
  unfold landing
  split
  · next h =>
    rw [Bool.not_eq_true'] at h
    rw [poisoned_line_of_range h hx, Bool.false_and, if_neg Bool.false_ne_true]
  · simp [List.getD_eq_getElem?_getD, hx]

/-- A byte of a poisoned line that the write does not cover whole stays. -/
theorem read_hbmWrite_kept {s : State} {a x : Nat} {bs : List Byte} (hwf : s.hbm.mem.wf = true) (hx : x < bs.length)
    (hp : poisoned s (64 * ((a + x) / 64)) 64 = true) (hu : 64 * ((a + x) / 64) < a ∨ a + bs.length < 64 * ((a + x) / 64) + 64) :
    (hbmWrite s a bs).hbm.mem.read (a + x) = s.hbm.mem.read (a + x) := by
  have huncovered : (decide (a ≤ 64 * ((a + x) / 64)) && decide (64 * ((a + x) / 64) + 64 ≤ a + bs.length)) = false := by
    simp only [Bool.and_eq_false_iff, decide_eq_false_iff_not]
    omega
  rw [hbmWrite_mem, Mem.read_writeN _ _ _ _ hwf, landing_length, if_pos (by omega), Nat.add_sub_cancel_left, landing_getD s a bs hx,
    hp, huncovered]
  rfl

/-- Any other byte of the range is stored. -/
theorem read_hbmWrite_stored {s : State} {a x : Nat} {bs : List Byte} (hwf : s.hbm.mem.wf = true) (hx : x < bs.length)
    (h : poisoned s (64 * ((a + x) / 64)) 64 = false ∨ (a ≤ 64 * ((a + x) / 64) ∧ 64 * ((a + x) / 64) + 64 ≤ a + bs.length)) :
    (hbmWrite s a bs).hbm.mem.read (a + x) = bs.getD x 0 := by
  rw [hbmWrite_mem, Mem.read_writeN _ _ _ _ hwf, landing_length, if_pos (by omega), Nat.add_sub_cancel_left, landing_getD s a bs hx]
  rcases h with hp | ⟨hlow, hhigh⟩
  · rw [hp, Bool.false_and, if_neg Bool.false_ne_true]
  · rw [decide_eq_true hlow, decide_eq_true hhigh, Bool.and_self, Bool.not_true, Bool.and_false, if_neg Bool.false_ne_true]

/-- A byte outside the range stays. -/
theorem read_hbmWrite_outside {s : State} {a b : Nat} {bs : List Byte} (hwf : s.hbm.mem.wf = true) (hb : b < a ∨ a + bs.length ≤ b) :
    (hbmWrite s a bs).hbm.mem.read b = s.hbm.mem.read b := by
  rw [hbmWrite_mem, Mem.read_writeN _ _ _ _ hwf, landing_length, if_neg (by omega)]

@[simp] theorem hbmWrite_poison (s : State) (a : Nat) (bs : List Byte) : (hbmWrite s a bs).hbm.poison =
    s.hbm.poison.filter (fun p => !((a + 63) / 64 ≤ p.1 && p.1 < (a + bs.length) / 64)) := rfl

/-- A write takes the poison of the lines that it covers whole. -/
theorem mem_hbmWrite_poison {s : State} {a : Nat} {bs : List Byte} {p : Nat × Nat} :
    p ∈ (hbmWrite s a bs).hbm.poison ↔ p ∈ s.hbm.poison ∧ ¬ (a ≤ 64 * p.1 ∧ 64 * p.1 + 64 ≤ a + bs.length) := by
  have hcovered : ((a + 63) / 64 ≤ p.1 ∧ p.1 < (a + bs.length) / 64) ↔ (a ≤ 64 * p.1 ∧ 64 * p.1 + 64 ≤ a + bs.length) := by omega
  simp only [hbmWrite_poison, List.mem_filter, ← hcovered, Bool.not_eq_true', ← Bool.not_eq_true, Bool.and_eq_true, decide_eq_true_eq]

/-- Settles O8, byte by byte from what lands of a write. -/
theorem hbmReadsBack : Obligations.HbmReadsBack := by
  intro s a bs x hwf
  exact ⟨Mem.wf_writeN _ _ _ hwf, fun hp hx => read_hbmWrite_stored hwf hx (.inl (poisoned_line_of_range hp hx)), read_hbmWrite_kept hwf,
    read_hbmWrite_stored hwf, read_hbmWrite_outside hwf, fun _ => mem_hbmWrite_poison.1⟩

end Sys2Proof.Machine

namespace Sys2Proof.Machine

/-! ### Atomics at the home slice (R155, R167, R168) -/

@[simp] theorem leBytes_length (k n : Nat) : (leBytes k n).length = k := by
  induction k generalizing n with
  | zero => rfl
  | succ k ih => rw [leBytes, List.length_cons, ih]

/-- R141: an address below the end of HBM names that byte of HBM. -/
theorem physLoc_hbm {a : Nat} (h : a < hbmBytes) : physLoc a = some (.hbm a) := if_pos h

theorem emit_hbm_mem_read (s : State) (o : Out) (b : Nat) : (emit s o).hbm.mem.read b = s.hbm.mem.read b := rfl

/-- The width of an atomic in bits, by its WIDTH field. -/
def atomicBits (wide : Nat) : Nat := if wide = 0 then 32 else 64

theorem exec_atomic_eq (s : State) (addr op wide : Nat) (v cmp : Word) : exec (.atomic addr op wide v cmp) s = execAtomic addr op wide v cmp s := rfl

section
variable {s : State} {addr op wide : Nat} {v cmp : Word} {x : Option Loc}

theorem exec_atomic_unclocked (hc : s.power.clocksOff = true) : exec (.atomic addr op wide v cmp) s = .next s := by
  rw [exec_atomic_eq, execAtomic, clocked_off hc]

/-- R168: an atomic whose clocks run answers what its home slice makes of it. -/
theorem exec_atomic_answers {status reason value : Nat} {t : State} (hc : s.power.clocksOff = false)
    (h : atomicAt s (physLoc addr) addr op wide v cmp = ((status, reason, value), t)) :
    exec (.atomic addr op wide v cmp) s = .next (emit t (.memReply status reason value)) := by
  simp only [exec_atomic_eq, execAtomic, clocked_on hc, h]

theorem atomicAt_reserved (ho : 0xA < op) : atomicAt s x addr op wide v cmp = ((Code.reservedSet, 0, 0), s) := if_pos ho

theorem atomicAt_misaligned (ho : op < 0xA) (ha : addr % (atomicBits wide / 8) ≠ 0) : atomicAt s x addr op wide v cmp = ((Code.alignFault, 0, 0), s) := by
  unfold atomicBits at ha
  simp only [atomicAt, if_neg (Nat.not_lt.2 (Nat.le_of_lt ho)), if_pos ha]

/-- An aligned atomic on HBM, by whether its granule is poisoned. -/
theorem atomicAt_aligned (ho : op < 0xA) (ha : addr % (atomicBits wide / 8) = 0) (a : Nat) : atomicAt s (some (.hbm a)) addr op wide v cmp =
    if poisoned s a (atomicBits wide / 8) then ((Code.memPoison, 0, 0), s)
    else ((Code.ok, 0, leNat (hbmRead s a (atomicBits wide / 8))), hbmWrite s a (leBytes (atomicBits wide / 8)
      (atomicNew op (atomicBits wide) (leNat (hbmRead s a (atomicBits wide / 8))) (v.toNat % 2 ^ atomicBits wide) (cmp.toNat % 2 ^ atomicBits wide)))) := by
  have hfadd : ¬ (op = 0xA ∧ wide ≠ 0) := fun h => Nat.ne_of_lt ho h.1
  unfold atomicBits at ha ⊢
  simp only [atomicAt, if_neg (Nat.not_lt.2 (Nat.le_of_lt ho)), if_neg (not_not_intro ha), if_neg hfadd]

end

/-- Settles O25, by the checks of an atomic in their order. -/
theorem atomicsAtTheHomeSlice : Obligations.AtomicsAtTheHomeSlice := by
  intro s addr op wide v cmp
  refine ⟨exec_atomic_unclocked, fun hc ho ha hm hp hwf => ⟨_, ?_, rfl, fun b hb => ?_⟩, fun hc ho ha => ?_, fun hc ho ha hm hp => ?_, fun hc ho => ?_⟩
  · refine exec_atomic_answers hc ?_
    rw [physLoc_hbm hm, atomicAt_aligned ho ha]
    exact if_neg (Bool.eq_false_iff.1 hp)
  · rw [emit_hbm_mem_read]
    exact read_hbmWrite_outside hwf (by rwa [leBytes_length])
  · exact exec_atomic_answers hc (atomicAt_misaligned ho ha)
  · refine exec_atomic_answers hc ?_
    rw [physLoc_hbm hm, atomicAt_aligned ho ha]
    exact if_pos hp
  · exact exec_atomic_answers hc (atomicAt_reserved ho)

end Sys2Proof.Machine

namespace Sys2Proof.Machine

/-! ### Granule writes at the home slice (R155, R165) -/

/-- The byte writes of a granule write: one, of the whole byte, for each enable set. -/
def enabledWrites (data : List Byte) (en : Nat) : List (Nat × Nat × Nat) :=
  (List.range 64).filterMap (fun i => if en.testBit i then some (i, 255, (data.getD i 0).toNat) else none)

/-- The line `old` with byte writes laid over it one after the other. -/
def mergedLine (old : List Byte) (ws : List (Nat × Nat × Nat)) : List Byte :=
  ws.foldl (fun bs w => bs.set w.1 ((bs.getD w.1 0 &&& ~~~BitVec.ofNat 8 w.2.1) ||| (BitVec.ofNat 8 w.2.2 &&& BitVec.ofNat 8 w.2.1))) old

theorem exec_homeSliceWrite_eq (s : State) (addr en : Nat) (data : List Byte) :
    exec (.homeSliceWrite addr data en) s = execHomeSliceWrite addr data en s := rfl

theorem exec_homeSliceWrite_unclocked {s : State} (hc : s.power.clocksOff = true) (addr en : Nat) (data : List Byte) :
    exec (.homeSliceWrite addr data en) s = .next s := by
  rw [exec_homeSliceWrite_eq, execHomeSliceWrite, clocked_off hc]

/-- A granule write of HBM whose clocks run answers what its line makes of it. -/
theorem exec_homeSliceWrite_answers {s t : State} {addr en status : Nat} {data : List Byte} (hc : s.power.clocksOff = false) (ha : addr % 64 = 0)
    (hm : addr < hbmBytes) (h : lineWrite s (addr / 64) (enabledWrites data en) = (status, t)) :
    exec (.homeSliceWrite addr data en) s = .next (emit t (.memReply status 0 0)) := by
  have hgranule : addr / 64 * 64 = addr := by omega
  unfold enabledWrites at h
  simp only [exec_homeSliceWrite_eq, execHomeSliceWrite, hgranule, physLoc_hbm hm, h, clocked_on hc]

/-- R155: writes that leave a byte of a poisoned line out store nothing. -/
theorem lineWrite_partial_poisoned {s : State} {line i : Nat} {ws : List (Nat × Nat × Nat)} (hp : poisoned s (64 * line) 64 = true) (hi : i < 64)
    (hw : ∀ w ∈ ws, w.1 ≠ i) : lineWrite s line ws = (Code.memPoison, s) := by
  have hpart : (List.range 64).all (fun i => ws.any (fun w => w.1 == i && w.2.1 == 255)) = false := by
    rw [List.all_eq_false]
    refine ⟨i, List.mem_range.2 hi, ?_⟩
    simp only [List.any_eq_true, Bool.and_eq_true, beq_iff_eq]
    rintro ⟨w, hmem, hwi, -⟩
    exact hw w hmem hwi
  simp only [lineWrite, hp, hpart, Bool.not_false, Bool.and_self, if_true]

/-- R155: writes of all 64 bytes are stored, poisoned line or not. -/
theorem lineWrite_whole {s : State} {line : Nat} {ws : List (Nat × Nat × Nat)} (hw : ∀ i, i < 64 → ∃ w ∈ ws, w.1 = i ∧ w.2.1 = 255) :
    lineWrite s line ws = (Code.ok, hbmWrite s (64 * line) (mergedLine (hbmRead s (64 * line) 64) ws)) := by
  have hwhole : (List.range 64).all (fun i => ws.any (fun w => w.1 == i && w.2.1 == 255)) = true := by
    rw [List.all_eq_true]
    intro i hi
    obtain ⟨w, hmem, hwi, hmask⟩ := hw i (List.mem_range.1 hi)
    exact List.any_eq_true.2 ⟨w, hmem, by rw [hwi, hmask]; simp⟩
  simp only [lineWrite, hwhole, Bool.not_true, Bool.and_false, Bool.false_eq_true, if_false, mergedLine]

theorem mem_enabledWrites {data : List Byte} {en : Nat} {w : Nat × Nat × Nat} :
    w ∈ enabledWrites data en ↔ ∃ i, i < 64 ∧ en.testBit i = true ∧ (i, 255, (data.getD i 0).toNat) = w := by
  simp [enabledWrites]

/-- A filter that keeps every element of a list maps it. -/
theorem filterMap_of_forall_some {α β : Type} {f : α → Option β} {g : α → β} {l : List α} (h : ∀ x ∈ l, f x = some (g x)) :
    l.filterMap f = l.map g := by
  induction l with
  | nil => rfl
  | cons x l ih =>
    rw [List.filterMap_cons_some (h x List.mem_cons_self), List.map_cons, ih (fun y hy => h y (List.mem_cons_of_mem x hy))]

/-- With every enable set each byte of the granule is written. -/
theorem enabledWrites_all (data : List Byte) : enabledWrites data (2 ^ 64 - 1) = (List.range 64).map (fun i => (i, 255, (data.getD i 0).toNat)) :=
  filterMap_of_forall_some (fun i hi => by rw [Nat.testBit_two_pow_sub_one, decide_eq_true (List.mem_range.1 hi), if_pos rfl])

/-- A write under a full mask replaces its byte. -/
theorem mask_full (old new : Byte) : (old &&& ~~~BitVec.ofNat 8 255) ||| (BitVec.ofNat 8 new.toNat &&& BitVec.ofNat 8 255) = new := by
  have hones : BitVec.ofNat 8 255 = BitVec.allOnes 8 := rfl
  rw [hones, BitVec.not_allOnes, BitVec.and_zero, BitVec.zero_or, BitVec.and_allOnes, BitVec.ofNat_toNat, BitVec.setWidth_eq]

@[simp] theorem mergedLine_length (old : List Byte) (ws : List (Nat × Nat × Nat)) : (mergedLine old ws).length = old.length := by
  rw [mergedLine]
  exact foldl_keeps _ List.length (fun _ _ => List.length_set) ws old

/-- A further write of a whole byte sets it. -/
theorem mergedLine_concat_full (old : List Byte) (ws : List (Nat × Nat × Nat)) (i : Nat) (b : Byte) :
    mergedLine old (ws ++ [(i, 255, b.toNat)]) = (mergedLine old ws).set i b := by
  simp only [mergedLine, List.foldl_append, List.foldl_cons, List.foldl_nil, mask_full]

/-- The first `n` bytes of a line, written whole. -/
theorem mergedLine_getD_written (old data : List Byte) {n i : Nat} (hn : n ≤ old.length) (hi : i < n) :
    (mergedLine old ((List.range n).map (fun i => (i, 255, (data.getD i 0).toNat)))).getD i 0 = data.getD i 0 := by
  induction n with
  | zero => exact absurd hi (Nat.not_lt_zero i)
  | succ n ih =>
    rw [List.range_succ, List.map_append, List.map_singleton, mergedLine_concat_full, List.getD_eq_getElem?_getD]
    rcases Nat.lt_succ_iff_lt_or_eq.1 hi with hlt | rfl
    · rw [List.getElem?_set_ne (Nat.ne_of_gt hlt), ← List.getD_eq_getElem?_getD]
      exact ih (Nat.le_of_succ_le hn) hlt
    · rw [List.getElem?_set_self (by rwa [mergedLine_length])]
      rfl

/-- R155, R165: a write with every enable set stores its granule. -/
theorem lineWrite_enabledWrites_all (s : State) (line : Nat) (data : List Byte) : lineWrite s line (enabledWrites data (2 ^ 64 - 1)) =
    (Code.ok, hbmWrite s (64 * line) (mergedLine (hbmRead s (64 * line) 64) (enabledWrites data (2 ^ 64 - 1)))) :=
  lineWrite_whole (fun i hi => ⟨_, mem_enabledWrites.2 ⟨i, hi, by rw [Nat.testBit_two_pow_sub_one, decide_eq_true hi], rfl⟩, rfl, rfl⟩)

/-! ### Accumulate-stores at the home slice (R155, R169) -/

theorem exec_accStore_eq (s : State) (addr fmt en : Nat) (data : List Byte) : exec (.accStore addr fmt data en) s = execAccStore addr fmt data en s := rfl

section
variable {s : State} {addr fmt en : Nat} {data : List Byte} {x : Option Loc}

theorem exec_accStore_unclocked (hc : s.power.clocksOff = true) : exec (.accStore addr fmt data en) s = .next s := by
  rw [exec_accStore_eq, execAccStore, clocked_off hc]

/-- An accumulate-store whose clocks run answers what its home slice makes of it. -/
theorem exec_accStore_answers {status reason : Nat} {t : State} (hc : s.power.clocksOff = false)
    (h : accStoreAt s (physLoc addr) fmt en data = ((status, reason), t)) :
    exec (.accStore addr fmt data en) s = .next (emit t (.memReply status reason 0)) := by
  simp only [exec_accStore_eq, execAccStore, clocked_on hc, h]

theorem accStoreAt_unsupported (h1 : fmt ≠ 1) (h9 : fmt ≠ 9) : accStoreAt s x fmt en data = ((Code.formatUnsupported, 0), s) := if_pos ⟨h1, h9⟩

theorem accStoreAt_split (hf : fmt = 1 ∨ fmt = 9) (hn : en < 2 ^ 64) (he : enablesWhole en = false) :
    accStoreAt s x fmt en data = ((Code.alignFault, 0), s) := by
  have hformat : ¬ (fmt ≠ 1 ∧ fmt ≠ 9) := fun h => hf.elim h.1 h.2
  simp only [accStoreAt, if_neg hformat, Nat.mod_eq_of_lt hn, he, Bool.not_false, if_true]

/-- The granule that an accumulate-store leaves: its enabled elements accumulated, the others as they were. -/
def accGranule (s : State) (a fmt en : Nat) (data : List Byte) : List Byte :=
  (List.range 16).flatMap (fun i =>
    if bits en (4 * i + 3) (4 * i) = 15 then leBytes 4 (accElem fmt (leNat (hbmRead s (a + 4 * i) 4)) (leNat ((data.drop (4 * i)).take 4)))
    else hbmRead s (a + 4 * i) 4)

/-- R155, R169: an accumulate-store of whole elements on HBM, by whether its granule is poisoned. -/
theorem accStoreAt_whole (hf : fmt = 1 ∨ fmt = 9) (hn : en < 2 ^ 64) (he : enablesWhole en = true) {a : Nat} (ha : a % 64 = 0) :
    accStoreAt s (some (.hbm a)) fmt en data =
      if poisoned s a 64 then ((Code.memPoison, 0), s) else ((Code.ok, 0), hbmWrite s a (accGranule s a fmt en data)) := by
  have hformat : ¬ (fmt ≠ 1 ∧ fmt ≠ 9) := fun h => hf.elim h.1 h.2
  simp only [accStoreAt, if_neg hformat, Nat.mod_eq_of_lt hn, he, Bool.not_true, Bool.false_eq_true, if_false, if_neg (not_not_intro ha), accGranule]

end

/-- Settles O26, a granule write by the bytes that it covers and an accumulate-store by its checks in their order. -/
theorem homeSliceWrites : Obligations.HomeSliceWrites := by
  intro s addr fmt en data ha hm hl
  have hline : 64 * (addr / 64) = addr := by omega
  refine ⟨fun hc => ⟨exec_homeSliceWrite_unclocked hc _ _ _, exec_accStore_unclocked hc⟩,
    fun hc hwf => ⟨_, exec_homeSliceWrite_answers hc ha hm (lineWrite_enabledWrites_all s _ data), ?_, fun i hi => ?_, fun b hb => ?_⟩,
    fun hc hp ⟨i, hi, he⟩ => ?_, fun hc hf hn he hp => ?_, fun hc hf hn he hp => ?_, fun hc h1 h9 => ?_, fun hc hf hn he => ?_⟩
  · rw [emit_out, hbmWrite_out]
  · have hcovered : addr ≤ 64 * ((addr + i) / 64) ∧ 64 * ((addr + i) / 64) + 64 ≤ addr + 64 := by omega
    rw [emit_hbm_mem_read, hline, read_hbmWrite_stored hwf (by simpa [hbmRead] using hi) (.inr (by simpa [hbmRead] using hcovered)), enabledWrites_all]
    exact mergedLine_getD_written _ _ (by simp [hbmRead]) hi
  · rw [emit_hbm_mem_read, hline]
    exact read_hbmWrite_outside hwf (by simpa [hbmRead] using hb)
  · refine exec_homeSliceWrite_answers hc ha hm (lineWrite_partial_poisoned (by rwa [hline]) hi ?_)
    rintro w hw rfl
    obtain ⟨i, -, hset, rfl⟩ := mem_enabledWrites.1 hw
    exact Bool.false_ne_true (he.symm.trans hset)
  · refine exec_accStore_answers hc ?_
    rw [physLoc_hbm hm, accStoreAt_whole hf hn he ha]
    exact if_neg (Bool.eq_false_iff.1 hp)
  · refine exec_accStore_answers hc ?_
    rw [physLoc_hbm hm, accStoreAt_whole hf hn he ha]
    exact if_pos hp
  · exact exec_accStore_answers hc (accStoreAt_unsupported h1 h9)
  · exact exec_accStore_answers hc (accStoreAt_split hf hn he)

end Sys2Proof.Machine

namespace Sys2Proof.Machine

/-! ### The patrol scrub (R154 to R156) -/

/-- A key that a table does not list is no entry's key. -/
theorem key_ne_of_tget?_none {α : Type} {t : Tab α} {i : Nat} (h : tget? t i = none) : ∀ p ∈ t, p.1 ≠ i := by
  induction t with
  | nil => exact fun p hp => absurd hp List.not_mem_nil
  | cons x t ih =>
    obtain ⟨k, u⟩ := x
    rw [tget?_cons] at h
    split at h
    · exact absurd h (Option.some_ne_none u)
    · next hk =>
      rintro p hp
      rcases List.mem_cons.1 hp with rfl | hp
      · exact Ne.symm hk
      · exact ih h p hp

/-- An address lies in a poisoned line only if its line is listed. -/
theorem poisoned_byte_of_unlisted {s : State} {a : Nat} (h : tget? s.hbm.poison (a / 64) = none) : poisoned s a 1 = false := by
  rw [Bool.eq_false_iff, Ne, poisoned_iff, Nat.add_sub_cancel]
  rintro ⟨-, p, hp, hlow, hhigh⟩
  exact key_ne_of_tget?_none h p hp (Nat.le_antisymm hhigh hlow)

theorem patrolAdvance_next {s : State} (h : rget s Reg.patrolPosition + 64 < hbmBytes) :
    patrolAdvance s = rset s Reg.patrolPosition (rget s Reg.patrolPosition + 64) := if_neg (Nat.not_le.2 h)

theorem patrolAdvance_end {s : State} (h : hbmBytes ≤ rget s Reg.patrolPosition + 64) :
    patrolAdvance s = rinc (rset s Reg.patrolPosition 0) Reg.patrolPasses := if_pos h

/-- R155: a line that was not poisoned is, counted for its stack, with its address recorded. -/
theorem detect_unlisted {s : State} {a : Nat} (h : tget? s.hbm.poison (a / 64) = none) :
    detect s a = rset { s with hbm := { s.hbm with
      poison := tput s.hbm.poison (a / 64) 1, uncorrectable := tmod 0 s.hbm.uncorrectable (stackOf a) (· + 1) } } Reg.lastUeAddress a := by
  rw [detect, h]
  rfl

section
variable {s : State} {a : Nat}

theorem decodeRead_clean (pos : Nat) (m : Option (List Byte)) : decodeRead s a 0 pos m = s := rfl

/-- R154: one symbol in error is corrected and counted. -/
theorem decodeRead_one (hp : poisoned s a 1 = false) (pos : Nat) (m : Option (List Byte)) : decodeRead s a 1 pos m =
    { s with hbm := { s.hbm with corrected := tmod 0 s.hbm.corrected (64 * stackOf a + pos % 64) (· + 1) } } := by
  simp [decodeRead, hp]

/-- R154: two symbols in error are always detected. -/
theorem decodeRead_two (hp : poisoned s a 1 = false) (pos : Nat) (m : Option (List Byte)) : decodeRead s a 2 pos m = detect s a := by
  cases m <;> simp [decodeRead, hp]

theorem exec_patrolScrubRead_eq (s : State) (n pos : Nat) (newer : Bool) :
    exec (.patrolScrubRead n pos newer) s = execPatrolScrubRead n pos newer s := rfl

variable {n pos : Nat} {newer : Bool}

theorem exec_patrolScrubRead_held (h : s.hbm.patrolSuspended = true ∨ s.power.clocksOff = true) : exec (.patrolScrubRead n pos newer) s = .next s := by
  rw [exec_patrolScrubRead_eq]
  exact if_pos (Bool.or_eq_true_iff.2 h)

/-- R156: a patrol read of at most two symbols in error, which leaves nothing to the part (R154). -/
theorem exec_patrolScrubRead_decodes (hs : s.hbm.patrolSuspended = false) (hc : s.power.clocksOff = false) (hn : n < 3) :
    exec (.patrolScrubRead n pos newer) s = .next (patrolAdvance (decodeRead s (rget s Reg.patrolPosition) n pos none)) := by
  simp only [exec_patrolScrubRead_eq, execPatrolScrubRead, hs, hc, Bool.or_self, Bool.false_eq_true, if_false, if_neg (Nat.not_le.2 hn)]

/-! ### The end of a scrub of HBM (R157) -/

theorem exec_hbmScrubDone_eq (s : State) (us : Nat) (k : Option Nat) : exec (.hbmScrubDone us k) s = .next (scrubEnd s us k) := rfl

/-- A scrub that runs and ends well. -/
theorem scrubEnd_good (h : s.tenancy.scrubbing = true) (us : Nat) :
    (scrubEnd s us none).tenancy = { s.tenancy with scrubbing := false } ∧ (scrubEnd s us none).hbm.patrolSuspended = false := by
  simp [scrubEnd, h, scrubHbm]

/-! ### Frames (R158, R159) -/

/-- R159: with no Last nothing is scheduled, and the maintenance class has its idle share. -/
theorem shares_no_last (h : s.last.run = none) (stack : Nat) : shares s stack = (0, rget s Reg.maintIdleShare) := by rw [shares, h]

variable (stack sched maint : Nat) (unsched : List Nat)

/-- R158: what its share leaves free adds to a class no more than it still asks for. -/
theorem frameOf_sched_le : (frameOf s stack sched maint unsched).sched ≤ sched := by
  simp only [frameOf]
  omega

theorem frameOf_maint_le : (frameOf s stack sched maint unsched).maint ≤ maint := by
  simp only [frameOf]
  omega

/-- R159: its share is kept for a class that asks for it. -/
theorem le_frameOf_maint : min maint (shares s stack).2 ≤ (frameOf s stack sched maint unsched).maint := Nat.le_add_right _ _

theorem exec_frameStart_eq (s : State) (stack pc sched maint : Nat) (unsched : List Nat) :
    exec (.frameStart stack pc sched maint unsched) s = execFrameStart stack pc sched maint unsched s := rfl

end

/-- Settles O27: a patrol read by its errors, the end of a scrub, and a frame by the shares that its stack has with no Last. -/
theorem patrolScrubAndFrames : Obligations.PatrolScrubAndFrames := by
  intro s pos us stack pc sched maint a newer unsched
  refine ⟨fun hs hc h => ?_, fun hs hc h => ?_, fun hs hc hp => ?_, fun hs hc ha hp => ?_, exec_patrolScrubRead_held,
    fun h => ⟨_, exec_hbmScrubDone_eq s us none, scrubEnd_good h us⟩, fun hc => ?_,
    fun hc hr => ⟨_, frameOf s stack sched maint unsched, ?_, rfl, frameOf_sched_le .., frameOf_maint_le .., ?_⟩⟩
  · rw [exec_patrolScrubRead_decodes hs hc (by decide), decodeRead_clean, patrolAdvance_next h]
  · rw [exec_patrolScrubRead_decodes hs hc (by decide), decodeRead_clean, patrolAdvance_end h]
  · rw [exec_patrolScrubRead_decodes hs hc (by decide), decodeRead_one hp]
  · subst ha
    rw [exec_patrolScrubRead_decodes hs hc (by decide), decodeRead_two (poisoned_byte_of_unlisted hp), detect_unlisted hp]
  · rw [exec_frameStart_eq, execFrameStart, clocked_off hc]
  · rw [exec_frameStart_eq, execFrameStart, clocked_on hc]
  · have hshare := le_frameOf_maint (s := s) stack sched maint unsched
    rwa [shares_no_last hr] at hshare

end Sys2Proof.Machine

namespace Sys2Proof.Machine

/-! ### Requests leave (R182, R184, R204, R209, R372) -/

/-- The packet that a path in state `d` makes of its oldest unsent request `u`: with the next SEQ and TAG, and with SYNC from UNSYNCED (R182, R184). -/
def nextPacket (s : State) (d : PeerOut) (u : Unsent) : Packet :=
  u.pkt.stamp d.next s.fabric.nextTag (d.next % 256) (d.state == .unsynced)

/-- R176, R204: a request packet that completes with NO_ROUTE where it stands; while a swap holds heads, only for want of a number (R209). -/
def noRouteFor (s : State) (dst : Nat) (p : Packet) : Bool :=
  unassigned s || (dst != ownChip s && s.router.state == .serving && routeOf s p == .none)

theorem noRouteFor_unassigned {s : State} (h : unassigned s = true) (dst : Nat) (p : Packet) : noRouteFor s dst p = true := by
  rw [noRouteFor, h, Bool.true_or]

theorem noRouteFor_serving {s : State} {dst : Nat} {p : Packet} (hd : dst ≠ ownChip s) (hs : s.router.state = .serving) (hr : routeOf s p = .none) :
    noRouteFor s dst p = true := by
  rw [noRouteFor, bne_iff_ne.2 hd, beq_iff_eq.2 hs, beq_iff_eq.2 hr, Bool.and_self, Bool.and_self, Bool.or_true]

theorem noRouteFor_eq_false {s : State} {dst : Nat} {p : Packet} (hu : unassigned s = false)
    (h : dst = ownChip s ∨ s.router.state ≠ .serving ∨ routeOf s p ≠ .none) : noRouteFor s dst p = false := by
  rw [noRouteFor, hu, Bool.false_or, Bool.and_eq_false_iff, Bool.and_eq_false_iff, bne_eq_false_iff_eq, beq_eq_false_iff_ne, beq_eq_false_iff_ne]
  exact or_assoc.2 h

theorem exec_packetSend_eq (s : State) (dst : Nat) : exec (.packetSend dst) s = execPacketSend dst s := rfl

/-- R372: with the clocks standing no request leaves. -/
theorem exec_packetSend_unclocked {s : State} (h : s.power.clocksOff = true) (dst : Nat) : exec (.packetSend dst) s = .next s :=
  congrArg _ (clocked_off h _)

section
variable {s : State} {dst : Nat} {u : Unsent} {us : List Unsent}

/-- R176, R204: a request without a route completes and leaves the path's next SEQ as it was (log 16). -/
theorem exec_packetSend_noRoute (hc : s.power.clocksOff = false) (hu : (peerOut s dst).unsent = u :: us)
    (h : noRouteFor s dst (nextPacket s (peerOut s dst) u) = true) : exec (.packetSend dst) s
      = .next (completeOrigin (setOut s dst { peerOut s dst with unsent := us }) u.origin Code.noRoute 0 0 []) := by
  rw [noRouteFor, nextPacket] at h
  simp only [exec_packetSend_eq, execPacketSend, hu, clocked_on hc, if_pos h]

/-- R182: a path that is open and full sends nothing. -/
theorem exec_packetSend_full (hu : (peerOut s dst).unsent = u :: us) (h : noRouteFor s dst (nextPacket s (peerOut s dst) u) = false)
    (ho : (peerOut s dst).state = .open) (hn : rget s Reg.maxOutstanding ≤ (peerOut s dst).sent.length) : exec (.packetSend dst) s = .next s := by
  have hfull : (peerOut s dst).state = .syncing ∨ ((peerOut s dst).state = .open ∧ rget s Reg.maxOutstanding ≤ (peerOut s dst).sent.length) :=
    .inr ⟨ho, hn⟩
  rw [noRouteFor, nextPacket] at h
  simp only [exec_packetSend_eq, execPacketSend, hu, h, Bool.false_eq_true, if_false, if_pos hfull, clocked_self]

/-- The path once its oldest request has left with the next SEQ and TAG (R182). -/
def pathSent (s : State) (d : PeerOut) (u : Unsent) (us : List Unsent) : PeerOut :=
  { d with
    unsent := us
    next := (d.next + 1) % 2 ^ 32
    sent := d.sent ++ [⟨d.next, s.fabric.nextTag, u.origin, if (nextPacket s d u).kind = kRead then (nextPacket s d u).rlen else 0⟩] }

/-- The next TAG has been taken (R182). -/
def tagTaken (s : State) : State := { s with fabric := { s.fabric with nextTag := (s.fabric.nextTag + 1) % 65536 } }

/-- R182: on an open path with a place free the packet enters the router. -/
theorem exec_packetSend_open (hc : s.power.clocksOff = false) (hu : (peerOut s dst).unsent = u :: us)
    (h : noRouteFor s dst (nextPacket s (peerOut s dst) u) = false) (ho : (peerOut s dst).state = .open)
    (hn : (peerOut s dst).sent.length < rget s Reg.maxOutstanding) : exec (.packetSend dst) s
      = .next (inject (setOut (tagTaken s) dst (pathSent s (peerOut s dst) u us)) (originDie s u.origin) (nextPacket s (peerOut s dst) u)) := by
  have hfree : ¬ ((peerOut s dst).state = .syncing ∨ ((peerOut s dst).state = .open ∧ rget s Reg.maxOutstanding ≤ (peerOut s dst).sent.length)) := by
    rw [ho]
    exact fun h => h.elim nofun fun hfull => Nat.not_le.2 hn hfull.2
  have hsynced : (peerOut s dst).state ≠ .unsynced := by
    rw [ho]
    exact nofun
  rw [noRouteFor, nextPacket] at h
  simp only [exec_packetSend_eq, execPacketSend, hu, h, Bool.false_eq_true, if_false, if_neg hfree, if_neg hsynced, clocked_on hc]
  rfl

/-- R184: the first packet to a peer is traced, and its path waits for the acknowledgement. -/
theorem exec_packetSend_unsynced (hc : s.power.clocksOff = false) (hu : (peerOut s dst).unsent = u :: us)
    (h : noRouteFor s dst (nextPacket s (peerOut s dst) u) = false) (ho : (peerOut s dst).state = .unsynced) : exec (.packetSend dst) s
      = .next (inject (traceFabric (setOut (tagTaken s) dst { pathSent s (peerOut s dst) u us with state := .syncing }) 1 dst 0 0 (peerOut s dst).next 0)
          (originDie s u.origin) (nextPacket s (peerOut s dst) u)) := by
  have hfree : ¬ ((peerOut s dst).state = .syncing ∨ ((peerOut s dst).state = .open ∧ rget s Reg.maxOutstanding ≤ (peerOut s dst).sent.length)) := by
    rw [ho]
    exact fun h => h.elim nofun fun hfull => nomatch hfull.1
  rw [noRouteFor, nextPacket] at h
  simp only [exec_packetSend_eq, execPacketSend, hu, h, Bool.false_eq_true, if_false, if_neg hfree, if_pos ho, clocked_on hc]
  rfl

end

/-- Settles O29: a request by the clocks, by its route, and by the state of its path. -/
theorem packetsLeaveInOrder : Obligations.PacketsLeaveInOrder := by
  intro s dst u us hu
  exact ⟨fun hc => exec_packetSend_unclocked hc dst,
    fun hc ha => exec_packetSend_noRoute hc hu (noRouteFor_unassigned ha _ _),
    fun hc _ hd hs hr => exec_packetSend_noRoute hc hu (noRouteFor_serving hd hs hr),
    fun hc ha hr ho hn => exec_packetSend_open hc hu (noRouteFor_eq_false ha hr) ho hn,
    fun _ ha hr ho hn => exec_packetSend_full hu (noRouteFor_eq_false ha hr) ho hn,
    fun hc ha hr ho => exec_packetSend_unsynced hc hu (noRouteFor_eq_false ha hr) ho⟩

end Sys2Proof.Machine

namespace Sys2Proof.Machine

/-! ### Requests arrive (R178, R183, R372) -/

theorem exec_packetArrival_eq (s : State) (e k us : Nat) (p : Packet) : exec (.packetArrival e k us p) s = execPacketArrival e k us p s := rfl

/-- R372: with the clocks standing no packet arrives. -/
theorem exec_packetArrival_unclocked {s : State} (h : s.power.clocksOff = true) (e k us : Nat) (p : Packet) :
    exec (.packetArrival e k us p) s = .next s :=
  congrArg _ (clocked_off h _)

section
variable {s : State} {p : Packet}

theorem exec_packetArrival_elsewhere (hd : p.dst ≠ ownChip s) (e k us : Nat) : exec (.packetArrival e k us p) s = .next s := by
  rw [exec_packetArrival_eq, execPacketArrival, if_pos (Or.inl hd), clocked_self]

/-- A request for this package is not passed over. -/
theorem arrives_here (hd : p.dst = ownChip s) (hq : p.isRequest = true) : ¬ (p.dst ≠ ownChip s ∨ (!p.isRequest) = true) := by
  rw [hq]
  exact fun h => h.elim (absurd hd) nofun

/-- R178: a request of no peer. -/
theorem exec_packetArrival_foreign (hc : s.power.clocksOff = false) (hd : p.dst = ownChip s) (hq : p.isRequest = true)
    (hp : s.tenancy.vals.peers.contains p.src = false) (e k us : Nat) : exec (.packetArrival e k us p) s = .next (rinc s Reg.foreignDrops) := by
  simp only [exec_packetArrival_eq, execPacketArrival, if_neg (arrives_here hd hq), hp, Bool.not_false, if_true, clocked_on hc]

/-- R180: a privileged request that stays within HBM carries its physical addresses. -/
theorem translateRequest_privileged (hp : p.priv = true) (ha : (requestGranules p).all (fun a => a < hbmBytes) = true) (die : Nat) :
    translateRequest s die p = ((Code.ok, 0, requestGranules p), s) := by
  rw [translateRequest, if_pos hp, if_pos ha]

/-- R183: a well-formed privileged request of a peer is sequenced as it is. -/
theorem exec_packetArrival_privileged (hc : s.power.clocksOff = false) (hd : p.dst = ownChip s) (hq : p.isRequest = true)
    (hpeer : s.tenancy.vals.peers.contains p.src = true) (hw : p.wellFormed = true) (hp : p.priv = true) (hs : p.sync = false)
    (ha : (requestGranules p).all (fun a => a < hbmBytes) = true) (e k us : Nat) : exec (.packetArrival e k us p) s
      = .next (sequenced s p.src (peerIn s p.src)
          { seq := p.seq, pkt := p, stampUs := us, status := Code.ok, reason := 0, phys := requestGranules p }) := by
  simp only [exec_packetArrival_eq, execPacketArrival, if_neg (arrives_here hd hq), hpeer, hw, hs, translateRequest_privileged hp ha, Bool.not_true,
    Bool.false_eq_true, if_false, if_true, clocked_on hc]

end

/-! ### Order at the destination (R183) -/

/-- With none held, none is released behind a packet. -/
theorem releaseChain_none_held {d : PeerIn} (h : d.held = []) (n : Nat) : releaseChain n d = d := by
  cases n with
  | zero => rfl
  | succ n => simp only [releaseChain, h, List.find?_nil]

/-- R494: outside a rollback no request is refused as it is released. -/
theorem refuseNew_live {s : State} (h : rollingBack s = false) (n : Nat) (hs : List HeldPkt) : refuseNew s n hs = hs := by
  rw [refuseNew, h, if_neg Bool.false_ne_true]

/-- R183: with none held, a packet that bears the expected number is released and logged. -/
theorem sequenced_expected {s : State} {d : PeerIn} {h : HeldPkt} (ho : d.isOpen = true) (hh : d.held = []) (hs : h.seq = d.expected)
    (hr : rollingBack s = false) (src : Nat) : sequenced s src d h
      = logRequest (setIn s src { d with released := d.released ++ [h], expected := (h.seq + 1) % 2 ^ 32 }) h.pkt := by
  have hk : (d.expected + 2 ^ 32 - d.expected) % 2 ^ 32 = 0 := by rw [Nat.add_sub_cancel_left, Nat.mod_self]
  simp only [sequenced, ho, Bool.not_true, Bool.false_eq_true, if_false, hs, hk, if_true, hh, releaseChain_none_held, refuseNew_live hr, List.drop_left]
  rfl

/-- R183: the hold limit of a gap passes. -/
theorem exec_reorderHoldExpiry_eq (s : State) (src : Nat) : exec (.reorderHoldExpiry src) s = .next (if (peerIn s src).held.isEmpty then s
    else dropHeld (setIn s src { peerIn s src with held := [], isOpen := false }) src (peerIn s src) (peerIn s src).held.length) := rfl

/-! ### Acknowledgements and their timeout (R184 to R187) -/

theorem exec_ackReceived_eq (s : State) (p : Packet) : exec (.ackReceived p) s = execAckReceived p s := rfl

/-- R185: a good response to an outstanding request completes it, and opens a path that is syncing. -/
theorem exec_ackReceived_outstanding {s : State} {p : Packet} {o : Outst} (hk : p.kind = kResponse) (hw : p.wellFormed = true)
    (hf : (peerOut s p.src).sent.find? (fun o => o.tag == fld p.arg0 31 16 && o.seq == fld p.arg0 63 32) = some o)
    (hl : p.len = if fld p.arg0 15 8 = Code.ok then o.rlen else 0) : exec (.ackReceived p) s
      = .next (completeOrigin (setOut s p.src { peerOut s p.src with
          sent := (peerOut s p.src).sent.filter (fun q => q.tag != fld p.arg0 31 16)
          state := if (peerOut s p.src).state = .syncing then .open else (peerOut s p.src).state })
        o.origin (fld p.arg0 15 8) (fld p.arg1 63 61) (fld p.arg0 7 0) p.payload) := by
  simp only [exec_ackReceived_eq, execAckReceived, if_neg (Decidable.not_not.2 hk), hw, Bool.not_true, Bool.false_eq_true, if_false, hf, if_neg (Decidable.not_not.2 hl)]

theorem exec_ackTimeout_eq (s : State) (dst : Nat) : exec (.ackTimeout dst) s = execAckTimeout dst s := rfl

/-- R187: with nothing outstanding only a path that is syncing is touched. -/
theorem exec_ackTimeout_idle {s : State} {dst : Nat} (h : (peerOut s dst).sent = []) : exec (.ackTimeout dst) s
    = .next (if (peerOut s dst).state = .syncing then setOut s dst { peerOut s dst with state := .unsynced } else s) := by
  simp only [exec_ackTimeout_eq, execAckTimeout, h, List.isEmpty_nil, if_true]

/-- Every operation of the origins is ended at the source, and the path to `dst` is UNSYNCED (R187). -/
def pathTimedOut (s : State) (dst : Nat) (os : List Origin) : State :=
  let t := setOut s dst { peerOut s dst with sent := [], state := .unsynced }
  { t with fabric := { t.fabric with out := t.fabric.out.map (fun x => (x.1, x.2.forget os)) } }

/-- R187: one outstanding request that belongs to no operation of this package's engines. -/
theorem exec_ackTimeout_other {s : State} {dst : Nat} {o : Outst} (h : (peerOut s dst).sent = [o]) (ho : o.origin = .other) :
    exec (.ackTimeout dst) s
      = .next (traceFabric (rinc (pathTimedOut s dst [.other]) Reg.fabricTimeouts) 3 dst 0 0 (peerOut s dst).next 1) := by
  simp only [exec_ackTimeout_eq, execAckTimeout, h, List.isEmpty_cons, Bool.false_eq_true, if_false, List.map_cons, List.map_nil, ho]
  rfl

/-- Settles O30: an arrival by its source and its number, an expiry by what is held, an acknowledgement by the request that it ends. -/
theorem packetsArriveInOrder : Obligations.PacketsArriveInOrder := by
  intro s e k us src p o
  refine ⟨fun hc => exec_packetArrival_unclocked hc e k us p, fun hc hd hq hp => exec_packetArrival_foreign hc hd hq hp e k us,
    fun hd => exec_packetArrival_elsewhere hd e k us, fun hc hd hq hpeer hw hp hs ha ho hh he _ hr => ?_, fun hh => ?_, fun hh => ?_,
    fun hk hw hf ho hl => ?_, fun hn hs => ?_, fun hn hs => ?_, fun hn ho => exec_ackTimeout_other hn ho⟩
  · rw [exec_packetArrival_privileged hc hd hq hpeer hw hp hs ha, sequenced_expected ho hh he hr]
  · rw [exec_reorderHoldExpiry_eq, if_neg (mt List.isEmpty_iff.1 hh)]
  · rw [exec_reorderHoldExpiry_eq, if_pos (List.isEmpty_iff.2 hh)]
  · rw [exec_ackReceived_outstanding hk hw hf hl, ho, completeOrigin]
  · rw [exec_ackTimeout_idle hn, if_neg hs]
  · rw [exec_ackTimeout_idle hn, if_pos hs]

end Sys2Proof.Machine

namespace Sys2Proof.Machine

/-! ### WRITE requests (R438, R441) -/

theorem exec_write_eq (s : State) (via : Via) (m : Kdp) : exec (.write via m) s = .next (serve s via m kindWrite) := rfl

/-- R447: a WRITE request answers with the status of its write. -/
theorem exec_write_requested {s : State} {via : Via} {m : Kdp} (h : Requested s via m kindWrite) : exec (.write via m) s
    = .next (responded via m (respOf m (writeValue s via m.index m.sub m.data false).1) (writeValue s via m.index m.sub m.data false).2) := by
  have hrun : runKind s via m = doWriteMsg s via m := by
    rw [runKind, h.kind, if_neg (by decide : ¬ kindWrite = kindRead), if_pos rfl]
  rw [exec_write_eq, serve_requested h, hrun, doWriteMsg]

/-- R441: a write that meets no refusal of a lower rank, and that the entry's own rule refuses, changes nothing. -/
theorem writeValue_valueRefused {s : State} {via : Via} {index sub : Nat} {bs : List Byte} {e : Entry} (hst : entryStatus s via index sub 1 = Code.ok)
    (he : findEntry index sub = some e) (hl : lengthOk e bs.length = true) (hu : unclaimedRefusal s via index sub = false)
    (hw : writeEntry via e index bs s = refuse s Code.valueRefused) : writeValue s via index sub bs false = (Code.valueRefused, s) := by
  have hkept : tookEffect Code.valueRefused = false := rfl
  simp only [writeValue, Bool.false_eq_true, if_false, hst, ne_eq, not_true, he, hl, Bool.not_true, hu, hw, refuse, hkept]

/-- R441: a WRITE request that only its entry's own rule refuses is answered VALUE_REFUSED. -/
theorem exec_write_valueRefused {s : State} {via : Via} {m : Kdp} {e : Entry} (hm : Requested s via m kindWrite)
    (hst : entryStatus s via m.index m.sub 1 = Code.ok) (he : findEntry m.index m.sub = some e) (hl : lengthOk e m.data.length = true)
    (hu : unclaimedRefusal s via m.index m.sub = false) (hw : writeEntry via e m.index m.data s = refuse s Code.valueRefused) :
    exec (.write via m) s = .next (responded via m (respOf m Code.valueRefused) s) := by
  rw [exec_write_requested hm, writeValue_valueRefused hst he hl hu hw]

/-! ### The two timeouts (R188, R193) -/

/-- 0x2380.05 -/
def ackTimeoutEntry : Entry := ⟨0x2380, 1, 0x5, "ack_timeout_us", .u32, .rw, false, 4, false, 4, 500, 200, 10000⟩

/-- 0x2380.06 -/
def reorderHoldEntry : Entry := ⟨0x2380, 1, 0x6, "reorder_hold_us", .u32, .rw, false, 4, false, 4, 200, 50, 5000⟩

theorem findEntry_ackTimeout : findEntry 0x2380 5 = some ackTimeoutEntry := by decide +kernel

theorem findEntry_reorderHold : findEntry 0x2380 6 = some reorderHoldEntry := by decide +kernel

theorem writeEntry_ackTimeout (via : Via) (bs : List Byte) (s : State) : writeEntry via ackTimeoutEntry 0x2380 bs s
    = wPlainIf (decide (rget s Reg.reorderHoldUs + 100 ≤ leNat bs)) ackTimeoutEntry 0x2380 (leNat bs) s := rfl

theorem writeEntry_reorderHold (via : Via) (bs : List Byte) (s : State) : writeEntry via reorderHoldEntry 0x2380 bs s
    = wPlainIf (decide (leNat bs + 100 ≤ rget s Reg.ackTimeoutUs)) reorderHoldEntry 0x2380 (leNat bs) s := rfl

/-- A plain entry refuses a value whose further condition fails. -/
theorem wPlainIf_refuses {c : Prop} [Decidable c] (h : ¬ c) (e : Entry) (index v : Nat) (s : State) :
    wPlainIf (decide c) e index v s = refuse s Code.valueRefused := by
  rw [wPlainIf, decide_eq_false h, if_neg Bool.false_ne_true]

/-! ### What a response leaves of the dictionary (R449, R453, R462) -/

/-- A write of a register leaves every other register, whether or not the keys rise. -/
theorem rget_rset_ne {r r' : Reg} (h : r'.key ≠ r.key) (s : State) (v : Nat) : rget (rset s r v) r' = rget s r' := by
  by_cases hd : v % 2 ^ r.bits = r.dflt
  · simp only [rget, tget, rset, tset, if_pos hd, tget?_tdel_other _ h]
  · simp only [rget, rset, tset, if_neg hd, tget_tput, if_neg h]

/-- R453: an abandoned session changes the counter of its reason and no other register. -/
theorem rget_abandonSeg {r : Reg} {reason : Nat} (h : r.key ≠ (Reg.sessionAborts.at (reason - 1)).key) (s : State) (id : Nat) :
    rget (abandonSeg s id reason) r = rget s r :=
  rget_rset_ne h _ _

/-- A register that no step of a fold changes. -/
theorem rget_foldl {α : Type} {f : State → α → State} {r : Reg} (h : ∀ t x, rget (f t x) r = rget t r) (l : List α) (s : State) :
    rget (l.foldl f s) r = rget s r :=
  foldl_keeps f (rget · r) h l s

theorem rget_abandonAll {r : Reg} {reason : Nat} (h : r.key ≠ (Reg.sessionAborts.at (reason - 1)).key) (s : State) (which : Seg → Bool) :
    rget (abandonAll s which reason) r = rget s r := by
  have hstep : ∀ (t : State) (g : Seg), rget (abandonSeg t g.id reason) r = rget t r := fun t g => rget_abandonSeg h t g.id
  exact rget_foldl hstep (s.mgmt.segs.filter which) s

section
variable {r : Reg} (h : r.key ≠ (Reg.sessionAborts.at (reasonLink - 1)).key)
include h

/-- R453: the end of a DTLS session. -/
theorem rget_endDtls (s : State) (n : Nat) : rget (endDtls s n) r = rget s r :=
  rget_abandonAll h s _

theorem rget_endAllDtls (s : State) : rget (endAllDtls s) r = rget s r :=
  rget_foldl (rget_endDtls h) _ s

theorem rget_afterResponse (s : State) : rget (afterResponse s) r = rget s r := by
  rw [afterResponse]
  split
  · exact rget_endAllDtls h _
  · rfl

/-- R449, R462: what follows a request that has run changes no register but the counter of sessions that the link ends. -/
theorem rget_responded (via : Via) (m : Kdp) (x : Resp) (s : State) : rget (responded via m x s) r = rget s r := by
  cases via with
  | mailbox c => rfl
  | mgmt n =>
    refine (rget_afterResponse h _).trans ?_
    split <;> rfl

end

/-- Settles O59: either write meets its entry's condition, which fails; and a response touches neither register. -/
theorem timeoutsKeepTheirOrder : Obligations.TimeoutsKeepTheirOrder := by
  intro s via m hm hi hlen hst hu
  rw [← hi] at hst hu
  refine ⟨fun hsub hv => ?_, fun hsub hv => ?_, fun r => ⟨rget_responded (by decide) via m r s, rget_responded (by decide) via m r s⟩⟩
  · refine exec_write_valueRefused hm hst (e := ackTimeoutEntry) ?_ (by rw [hlen]; rfl) hu ?_
    · rw [hi, hsub, findEntry_ackTimeout]
    · rw [hi, writeEntry_ackTimeout, wPlainIf_refuses (Nat.not_le.2 hv)]
  · refine exec_write_valueRefused hm hst (e := reorderHoldEntry) ?_ (by rw [hlen]; rfl) hu ?_
    · rw [hi, hsub, findEntry_reorderHold]
    · rw [hi, writeEntry_reorderHold, wPlainIf_refuses (Nat.not_le.2 hv)]

end Sys2Proof.Machine

namespace Sys2Proof.Machine

/-! ### Heads of the router (R203 to R205, R209) -/

theorem exec_routeHead_eq (s : State) (port vc cls : Nat) : exec (.routeHead port vc cls) s = execRouteHead port vc cls s := rfl
theorem exec_routeWaitRetry_eq (s : State) (port vc cls : Nat) : exec (.routeWaitRetry port vc cls) s = execRouteWaitRetry port vc cls s := rfl

theorem serving_bne {s : State} (h : s.router.state = .serving) : (s.router.state != .serving) = false := bne_eq_false_iff_eq.2 h
theorem not_serving_bne {s : State} (h : s.router.state ≠ .serving) : (s.router.state != .serving) = true := bne_iff_ne.2 h

/-- A head whose choice `c` is a lane of the slice it stands on has that lane chosen for it. -/
def chooseLane (s : State) (h : Head) (c : Nat) : State :=
  { s with router := { s.router with
    waiting := s.router.waiting.erase h
    chosen := s.router.chosen ++ [{ eyelet := physEyelet s (chEyelet c), lane := chLane c, hdr := leaveHeader h.pkt c, head := h }] } }

/-- R203, R204: what a head that may leave the package does by the answer of the choice routine. -/
def passOn (s : State) (h : Head) : Choice → State
  | .take c => if physEyelet s (chEyelet c) / 8 ≠ portSlice h.port then crossHead s h (physEyelet s (chEyelet c) / 8) else chooseLane s h c
  | .wait => replaceHead s h { h with waited := true }
  | .none =>
    if !h.pkt.whole then s else if atSource s h.pkt then noRoute (takeHead s h) h.pkt else rinc (takeHead s h) Reg.routeDrops

section
variable {s : State} {h : Head}

/-- R203: a well-formed whole packet for this package. -/
theorem routeOne_here (hd : h.pkt.dst = ownChip s) (hu : unassigned s = false) (hp : h.pkt.whole = true) (hw : h.pkt.wellFormed = true) :
    routeOne s h = emit (takeHead s h) (.deliver h.pkt) := by
  simp [routeOne, hd, hu, hp, hw]

/-- R205: a whole packet from elsewhere that has used its hops. -/
theorem routeOne_hopsUsed (hd : h.pkt.dst ≠ ownChip s) (hs : atSource s h.pkt = false) (hu : unassigned s = false)
    (hh : h.pkt.hops = rget s Reg.maxHops) (hp : h.pkt.whole = true) : routeOne s h = rinc (takeHead s h) Reg.hopDrops := by
  simp [routeOne, hd, hu, hs, hh, hp]

/-- R203: a packet for another package that has hops left, or that starts here, goes by the choice routine. -/
theorem routeOne_passes (hd : h.pkt.dst ≠ ownChip s) (hu : unassigned s = false) (hh : atSource s h.pkt = true ∨ h.pkt.hops ≠ rget s Reg.maxHops) :
    routeOne s h = passOn s h (routeOf s h.pkt) := by
  have hhops : (!atSource s h.pkt && decide (h.pkt.hops = rget s Reg.maxHops)) = false := by
    rcases hh with hh | hh <;> simp [hh]
  simp only [routeOne, hd, hu, hhops, decide_false, Bool.false_and, Bool.false_eq_true, if_false]
  cases routeOf s h.pkt <;> rfl

theorem passOn_onSlice {c : Nat} (he : physEyelet s (chEyelet c) / 8 = portSlice h.port) : passOn s h (.take c) = chooseLane s h c :=
  if_neg (not_not_intro he)

theorem passOn_offSlice {c : Nat} (he : physEyelet s (chEyelet c) / 8 ≠ portSlice h.port) :
    passOn s h (.take c) = crossHead s h (physEyelet s (chEyelet c) / 8) :=
  if_pos he

variable {port vc cls : Nat}

/-- R203: the oldest head of an input, where it is new. -/
theorem exec_routeHead_new (hr : s.router.state = .serving) (hh : headAt s port vc cls = some h) (hw : h.waited = false) :
    exec (.routeHead port vc cls) s = .next (routeOne s h) := by
  simp only [exec_routeHead_eq, execRouteHead, serving_bne hr, hh, hw, Bool.false_eq_true, if_false]

/-- R203: the oldest head of an input, where it has waited. -/
theorem exec_routeWaitRetry_waited (hr : s.router.state = .serving) (hh : headAt s port vc cls = some h) (hw : h.waited = true) :
    exec (.routeWaitRetry port vc cls) s = .next (routeOne s h) := by
  simp only [exec_routeWaitRetry_eq, execRouteWaitRetry, serving_bne hr, hh, hw, Bool.false_eq_true, if_false, if_true]

/-- R209: a swap holds new heads. -/
theorem exec_routeHead_swapping (hr : s.router.state ≠ .serving) : exec (.routeHead port vc cls) s = .next s :=
  congrArg _ (if_pos (not_serving_bne hr))

/-- R209: a swap holds heads that have waited. -/
theorem exec_routeWaitRetry_swapping (hr : s.router.state ≠ .serving) : exec (.routeWaitRetry port vc cls) s = .next s :=
  congrArg _ (if_pos (not_serving_bne hr))

end

/-! ### Grants of lane buffers (R199, R216) -/

theorem exec_headGrant_eq (s : State) (e k vc cls : Nat) : exec (.headGrant e k vc cls) s = execHeadGrant e k vc cls s := rfl

/-- A chosen head has the downstream buffer `key`. -/
def grantBuffer (s : State) (key : Nat) (ch : Chosen) : State :=
  { s with router := { s.router with chosen := s.router.chosen.erase ch, granted := tput s.router.granted key { head := ch.head, hdr := ch.hdr } } }

/-- R199, R216: the oldest head chosen for a free buffer of a lane in service; what another package sent counts for that source. -/
theorem exec_headGrant_free {s : State} {e k vc cls : Nat} {ch : Chosen} (hr : s.router.state = .serving) (hl : laneStatus s e k = .inService)
    (hf : (lane s e k).fitDue = false ∨ lastRunning s = true) (hu : tget 0 s.router.used (bufKey e k vc cls) = 0)
    (hg : tget? s.router.granted (bufKey e k vc cls) = none)
    (hc : s.router.chosen.find? (fun c => c.eyelet == e && c.lane == k && c.head.pkt.vc == vc && hdrClass c.hdr == cls) = some ch) :
    exec (.headGrant e k vc cls) s = .next (if atSource s ch.head.pkt then grantBuffer s (bufKey e k vc cls) ch
      else radd (grantBuffer s (bufKey e k vc cls) ch) (Reg.transitBySource.at ch.head.pkt.src) ch.head.pkt.flits) := by
  have hfit : ((lane s e k).fitDue && !lastRunning s) = false := by
    rcases hf with hf | hf <;> simp [hf]
  have hfree : (s.router.state != .serving || laneStatus s e k != .inService || ((lane s e k).fitDue && !lastRunning s)
      || tget 0 s.router.used (bufKey e k vc cls) != 0 || (tget? s.router.granted (bufKey e k vc cls)).isSome) = false := by
    rw [serving_bne hr, hl, hfit, hu, hg]
    rfl
  simp only [exec_headGrant_eq, execHeadGrant, hfree, hc, Bool.false_eq_true, if_false]
  rfl

/-- Settles O32: a head by its age, its destination and its choice; a grant by whose packet it is. -/
theorem routerServesHeads : Obligations.RouterServesHeads := by
  intro s u port vc cls h c e k ch hh
  refine ⟨fun hr hw hd hu hp hf => ?_, fun hr hw hd hs hu hm hp => ?_, fun hr hw hd hu hm ht he => ?_, fun hr hw hd hu hm ht he => ?_,
    fun hr hw hd hu hm ht he => ?_, fun hr hw hd hu hm ht he => ?_, fun hr hw hd hu hm ht => ?_,
    fun hr => ⟨exec_routeHead_swapping hr, exec_routeWaitRetry_swapping hr⟩,
    fun hr hl hf hn hg hc hu hs => ?_, fun hr hl hf hn hg hc hu hs => ?_⟩
  · rw [exec_routeHead_new hr hh hw, routeOne_here hd hu hp hf]
  · rw [exec_routeHead_new hr hh hw, routeOne_hopsUsed hd hs hu hm hp]
  · rw [exec_routeWaitRetry_waited hr hh hw, routeOne_passes hd hu hm, ht, passOn_onSlice he, chooseLane]
  · rw [exec_routeWaitRetry_waited hr hh hw, routeOne_passes hd hu hm, ht, passOn_offSlice he]
  · rw [exec_routeHead_new hr hh hw, routeOne_passes hd hu hm, ht, passOn_onSlice he, chooseLane]
  · rw [exec_routeHead_new hr hh hw, routeOne_passes hd hu hm, ht, passOn_offSlice he]
  · rw [exec_routeHead_new hr hh hw, routeOne_passes hd hu hm, ht, passOn]
  · rw [exec_headGrant_free hr hl hf hn hg hc, if_pos hs, hu, grantBuffer]
  · rw [exec_headGrant_free hr hl hf hn hg hc, hs, if_neg Bool.false_ne_true, hu, grantBuffer]

end Sys2Proof.Machine

namespace Sys2Proof.Machine

/-! ### Writes of the routing tables (R207, R210) -/

theorem exec_routeShadowWrite_eq (s : State) (via : Via) (bs : List Byte) :
    exec (.routeShadowWrite via bs) s = .next (doWrite s via 0x2300 4 (wRouteShadow bs)) := rfl
theorem exec_routeEntryWrite_eq (s : State) (via : Via) (v : Nat) :
    exec (.routeEntryWrite via v) s = .next (doWrite s via 0x2300 8 (wRouteEntry v)) := rfl
theorem exec_routeCopy_eq (s : State) (via : Via) (v : Nat) : exec (.routeCopy via v) s = .next (doWrite s via 0x2300 6 (wRouteCopy v)) := rfl
theorem exec_routeRelease_eq (s : State) (via : Via) (v : Nat) :
    exec (.routeRelease via v) s = .next (doWrite s via 0x2300 0xA (wRouteRelease v)) := rfl
theorem exec_routeSwapRelease_eq (s : State) (via : Via) : exec (.routeSwapRelease via) s = .next (doWrite s via 0x2300 9 (wRouteSwap 1)) := rfl
theorem exec_routeSwapHold_eq (s : State) (via : Via) : exec (.routeSwapHold via) s = .next (doWrite s via 0x2300 9 (wRouteSwap 2)) := rfl

/-- A write that is let in and refused while the router does not serve. -/
theorem doWrite_routeBusy {s : State} {via : Via} {index sub : Nat} {act : State → Nat × State} (h : Writable s via index sub)
    (ha : act s = refuse s Code.routeBusy) : doWrite s via index sub act = answer s via 2 index sub Code.routeBusy := by
  rw [doWrite_refusal h (by rw [ha]; rfl), ha]
  rfl

section
variable {s : State}

theorem wRouteShadow_serving {bs : List Byte} (hl : bs.length = 32768) (hr : s.router.state = .serving) :
    wRouteShadow bs s = accept (flashCommit { s with router := { s.router with shadow := bankOf bs } } .banks) := by
  rw [wRouteShadow, if_neg (not_not_intro hl), serving_bne hr, if_neg Bool.false_ne_true]

theorem wRouteShadow_busy {bs : List Byte} (hl : bs.length = 32768) (hr : s.router.state ≠ .serving) :
    wRouteShadow bs s = refuse s Code.routeBusy := by
  rw [wRouteShadow, if_neg (not_not_intro hl), if_pos (not_serving_bne hr)]

theorem wRouteEntry_serving (hr : s.router.state = .serving) (v : Nat) : wRouteEntry v s
    = accept (flashCommit { s with router := { s.router with shadow := tset 0 s.router.shadow (rget s Reg.routeEntrySel) (word v) } } .banks) := by
  rw [wRouteEntry, serving_bne hr, if_neg Bool.false_ne_true]

theorem wRouteEntry_busy (hr : s.router.state ≠ .serving) (v : Nat) : wRouteEntry v s = refuse s Code.routeBusy := if_pos (not_serving_bne hr)

theorem wRouteCopy_serving (hr : s.router.state = .serving) :
    wRouteCopy 1 s = accept (flashCommit { s with router := { s.router with shadow := s.router.active } } .banks) := by
  rw [wRouteCopy, serving_bne hr, if_neg Bool.false_ne_true, if_neg (not_not_intro rfl)]

theorem wRouteCopy_busy (hr : s.router.state ≠ .serving) (v : Nat) : wRouteCopy v s = refuse s Code.routeBusy := if_pos (not_serving_bne hr)

/-! ### The swap of the banks (R208, R209) -/

theorem wRouteRelease_held (hr : s.router.state = .held) : wRouteRelease 1 s = accept { s with router := { s.router with state := .serving } } := by
  rw [wRouteRelease, bne_eq_false_iff_eq.2 hr, if_neg Bool.false_ne_true, if_neg (not_not_intro rfl)]

/-- R208: a newer generation without a faulty entry starts the drain. -/
theorem wRouteSwap_newer {v : Nat} (hv : v = 1 ∨ v = 2) (hr : s.router.state = .serving)
    (hn : newer 16 (rget s Reg.shadowGeneration) (rget s Reg.activeGeneration) = true)
    (hf : s.router.shadow.find? (fun e => entryFaulty e.1 e.2) = none) :
    wRouteSwap v s = accept (unchoose { s with router := { s.router with state := .holding, swapValue := v } } (fun _ => true)) := by
  have hval : ¬ (v ≠ 1 ∧ v ≠ 2) := by omega
  simp only [wRouteSwap, serving_bne hr, hval, hn, hf, Bool.not_true, Bool.false_eq_true, if_false]

/-- R208: the same of a swap that is to hold the router. -/
theorem wRouteSwap_hold_stale (hr : s.router.state = .serving)
    (hn : newer 16 (rget s Reg.shadowGeneration) (rget s Reg.activeGeneration) = false) :
    wRouteSwap 2 s = (Code.valueRefused, rset s Reg.swapResult 2) := by
  have hval : ¬ (2 ≠ 1 ∧ 2 ≠ 2) := by omega
  simp only [wRouteSwap, serving_bne hr, hval, hn, Bool.not_false, Bool.false_eq_true, if_false, if_true]

theorem exec_routeSwapExchange_eq (s : State) : exec .routeSwapExchange s = execRouteSwapExchange s := rfl

/-- R209: the banks, with their generations, and the state that the swap ends in. -/
def exchangeBanks (s : State) : State :=
  rset (rset { s with router := { s.router with
      active := s.router.shadow, shadow := s.router.active, genExt := extend 16 s.router.genExt (rget s Reg.shadowGeneration)
      state := if s.router.swapValue = 2 then .held else .serving } } Reg.activeGeneration (rget s Reg.shadowGeneration))
    Reg.shadowGeneration (rget s Reg.activeGeneration)

/-- R209: a drained swap exchanges the banks, is counted and traced, and is kept in flash. -/
theorem exec_routeSwapExchange_drained (hr : s.router.state = .holding) (hd : drained s = true) : exec .routeSwapExchange s
    = .next (flashCommit (traceFabric (traceGeneration (rset (rinc (exchangeBanks s) Reg.swaps) Reg.swapResult 1) 0
        (extend 16 s.router.genExt (rget s Reg.shadowGeneration))) 7 0 0 0 0 0) .banks) := by
  have hgo : (s.router.state != .holding || !drained s) = false := by rw [hr, hd]; rfl
  rw [exec_routeSwapExchange_eq, execRouteSwapExchange, hgo, if_neg Bool.false_ne_true, exchangeBanks]

/-- R209: while a granted packet remains the swap waits. -/
theorem exec_routeSwapExchange_waits (hd : drained s = false) : exec .routeSwapExchange s = .next s := by
  rw [exec_routeSwapExchange_eq, execRouteSwapExchange, hd, Bool.not_false, Bool.or_true, if_pos rfl]

theorem exec_swapDrainTimeout_holding (hr : s.router.state = .holding) :
    exec .swapDrainTimeout s = .next (rset { s with router := { s.router with state := .serving } } Reg.swapResult 4) :=
  congrArg _ (if_pos hr)

theorem exec_routeHoldExpiry_held (hr : s.router.state = .held) :
    exec .routeHoldExpiry s = .next (rinc { s with router := { s.router with state := .serving } } Reg.holdExpiries) :=
  congrArg _ (if_pos hr)

end

/-- Settles O33, each write from the rule of its entry and each end of a swap from the state it ends. -/
theorem routeTablesAndSwaps : Obligations.RouteTablesAndSwaps := by
  intro s via v bs
  refine ⟨fun hw hl hr => ?_, fun hw hr => ?_, fun hw hr => ?_, fun hw hl hr => ?_, fun hw hr => ?_, fun hw hr => ?_, fun hw hr => ?_,
    fun hw hr hn hf => ⟨?_, ?_⟩, fun hw hr hn => ⟨?_, ?_⟩, fun hr hd => ⟨exchangeBanks s, exec_routeSwapExchange_drained hr hd, rfl⟩,
    fun _ hd => exec_routeSwapExchange_waits hd, exec_swapDrainTimeout_holding, exec_routeHoldExpiry_held⟩
  · rw [exec_routeShadowWrite_eq, doWrite_accept hw (wRouteShadow_serving hl hr)]
  · rw [exec_routeEntryWrite_eq, doWrite_accept hw (wRouteEntry_serving hr v)]
  · rw [exec_routeCopy_eq, doWrite_accept hw (wRouteCopy_serving hr)]
  · rw [exec_routeShadowWrite_eq, doWrite_routeBusy hw (wRouteShadow_busy hl hr)]
  · rw [exec_routeEntryWrite_eq, doWrite_routeBusy hw (wRouteEntry_busy hr v)]
  · rw [exec_routeCopy_eq, doWrite_routeBusy hw (wRouteCopy_busy hr 1)]
  · rw [exec_routeRelease_eq, doWrite_accept hw (wRouteRelease_held hr)]
  · rw [exec_routeSwapRelease_eq, doWrite_accept hw (wRouteSwap_newer (.inl rfl) hr hn hf)]
  · rw [exec_routeSwapHold_eq, doWrite_accept hw (wRouteSwap_newer (.inr rfl) hr hn hf)]
  · rw [exec_routeSwapRelease_eq, doWrite_valueRefused hw (wRouteSwap_stale hr hn)]
  · rw [exec_routeSwapHold_eq, doWrite_valueRefused hw (wRouteSwap_hold_stale hr hn)]

end Sys2Proof.Machine

namespace Sys2Proof.Machine

/-! ### The end of CHECK in a fitting pass (R232, R233, R237) -/

theorem addLink_ne_nil (ls : List LinkMsg) (x : LinkMsg) : addLink ls x ≠ [] := by simp [addLink]

/-- A LINK message that is sent stands on its lane. -/
theorem sendLink_links_ne_nil (s : State) (e k msg marg beat : Nat) : (lane (sendLink s e k msg marg beat) e k).links ≠ [] := by
  have hlinks := addLink_ne_nil (lane s e k).links { msg := msg, marg := marg, due := 4 * beat }
  rw [lane, sendLink, setLane, tget_tmod_same _ _ _ _ (fun h => hlinks (congrArg Lane.links h))]
  exact hlinks

theorem exec_fitCheckEnd_eq (s : State) (e k : Nat) (ok : Bool) (step : Int) : exec (.fitCheckEnd e k ok step) s = execFitCheckEnd e k ok step s := rfl

/-- A pass `p` of lane `k` whose CHECK has ended with the verdict `ok`, and the receiver's phase moved by up to 8 steps. -/
def checkKept (s : State) (e k : Nat) (p : FitPass) (ok : Bool) (step : Int) : State :=
  rset { s with optics := { s.optics with fits := tput s.optics.fits (laneKey e k) { p with
      checked := true, checkOk := ok, phaseStep := clampI (-8) 8 step } } } ((Reg.rxPhase e).at k)
    (((rget s ((Reg.rxPhase e).at k) : Int) + clampI (-8) 8 step) % 64).toNat

/-- The end of CHECK on a lane that is DOWN sends no resume notice. -/
theorem exec_fitCheckEnd_down {s : State} {e k : Nat} {p : FitPass} (hp : tget? s.optics.fits (laneKey e k) = some p) (hs : p.solved = true)
    (hc : p.checked = false) (hd : laneState s e k = .down) (ok : Bool) (step : Int) :
    exec (.fitCheckEnd e k ok step) s = .next (checkKept s e k p ok step) := by
  have hdue : (!p.solved || p.checked) = false := by rw [hs, hc]; rfl
  simp only [exec_fitCheckEnd_eq, execFitCheckEnd, hp, hdue, hd, Bool.false_eq_true, if_false, if_true, checkKept]

/-- A package whose lane 31 of eyelet 31 is DOWN, with a pass on it whose sweep has been solved. -/
def downLaneSolved : State := { State.reset with optics := { fits := [(laneKey 31 31, { solved := true })] } }

/-- Refutes O35: the clause of the end of CHECK has both ends of the lane told to resume whatever the state of the lane, and the model sends the
notices of R232 and R233 only on a lane that is not DOWN. On a DOWN lane, which has its pass when its turn in the round comes
(log 72), a solved pass ends its check and no message is sent. -/
theorem not_fittingPassesAndSearches : ¬ Obligations.FittingPassesAndSearches := by
  intro h
  obtain ⟨-, -, -, -, -, -, -, hcheck, -⟩ := h downLaneSolved (.mailbox 0) 31 31 0 0 0 0 ⟨[]⟩ ⟨[]⟩ { solved := true } true 0 0 {} []
  obtain ⟨u, hsent, -⟩ := hcheck rfl rfl rfl
  have hdown : laneState downLaneSolved 31 31 = .down := rfl
  rw [exec_fitCheckEnd_down rfl rfl rfl hdown] at hsent
  have hreverse : reverseLane 31 31 = 31 := rfl
  have hlanes := congrArg (fun t => (lane t 31 31).links) (Host.Outcome.next.inj hsent)
  rw [hreverse] at hlanes
  exact sendLink_links_ne_nil _ 31 31 _ _ _ hlanes.symm

end Sys2Proof.Machine

namespace Sys2Proof.Machine

/-! ### The laser instructions (R221 to R224) -/

theorem exec_laserMeasurement_eq (s : State) (die : Nat) (a b : Int) (dep : Nat × Nat) (tx : List Int) :
    exec (.laserMeasurement die a b dep tx) s = execLaserMeasurement die a b dep tx s := rfl
theorem exec_laserInputLost_eq (s : State) (die input : Nat) : exec (.laserInputLost die input) s = execLaserInputLost die input s := rfl
theorem exec_laserSwitchComplete_eq (s : State) (die : Nat) : exec (.laserSwitchComplete die) s = execLaserSwitchComplete die s := rfl
theorem exec_laserDarkRecovery_eq (s : State) (die : Nat) : exec (.laserDarkRecovery die) s = execLaserDarkRecovery die s := rfl
theorem exec_laserRevert_eq (s : State) (die : Nat) : exec (.laserRevert die) s = execLaserRevert die s := rfl
theorem exec_laserSelectReq_eq (s : State) (via : Via) (die v : Nat) :
    exec (.laserSelectReq via die v) s = .next (doWrite s via (0x2010 + die) 2 (wLaserSelect die v)) := rfl

section
variable {s : State} {die : Nat}

/-! ### Measurements of the laser inputs (R221) -/

/-- A reading at or above the low threshold ends the run of readings below the lost one. -/
theorem classify_ok {x : Int} (h : rgetI s Reg.laserLowCdbm ≤ x) (c : LaserClass) (below : Nat) : classify s c below x = (.ok, 0) := if_pos h

/-- What a measurement keeps beside the classes: the transmitted powers, the lowest powers of the log, the powers and the tone depths. -/
def measured (s : State) (die : Nat) (a b : Int) (dep : Nat × Nat) (tx : List Int) : State :=
  let x := eyeDie s die
  rset (rset (rsetI (rsetI (logPower (logPower (txPowers s die tx) die x.seenA a) (8 + die) x.seenB b) (Reg.powerACdbm die) a) (Reg.powerBCdbm die) b)
    (Reg.toneDepthA die) dep.1) (Reg.toneDepthB die) dep.2

/-- With no injection on the die, two readings above the low threshold make both inputs OK, and neither enters LOW. -/
theorem exec_laserMeasurement_ok {a b : Int} (ha : rgetI s Reg.laserLowCdbm ≤ a) (hb : rgetI s Reg.laserLowCdbm ≤ b)
    (hf : (eyeDie s die).forced = none) (dep : Nat × Nat) (tx : List Int) :
    exec (.laserMeasurement die a b dep tx) s = .next (setEye (measured s die a b dep tx) die
      (fun y => { y with classA := .ok, belowA := 0, classB := .ok, belowB := 0, seenA := true, seenB := true })) := by
  have hok (c : LaserClass) : ¬ (LaserClass.ok = .low ∧ c ≠ .low) := fun h => LaserClass.noConfusion h.1
  simp only [exec_laserMeasurement_eq, execLaserMeasurement, classify_ok ha, classify_ok hb, hf, Bool.false_eq_true, if_false, hok, measured]

/-! ### What the selector does of itself (R222) -/

/-- While the selected input A is not LOST the selector rests on it. -/
theorem evalSelector_onA_rests (hs : (eyeDie s die).sel = .onA) (ha : (eyeDie s die).classA ≠ .lost) : evalSelector s die = s := by
  simp only [evalSelector, hs, if_neg ha]

theorem evalSelector_onA_lost (hs : (eyeDie s die).sel = .onA) (ha : (eyeDie s die).classA = .lost) :
    evalSelector s die = if (eyeDie s die).classB = .lost then goDark s die else startSwitch s die .toB := by
  simp only [evalSelector, hs, if_pos ha]

theorem evalSelector_onB_lost (hs : (eyeDie s die).sel = .onB) (hb : (eyeDie s die).classB = .lost) :
    evalSelector s die = if (eyeDie s die).classA = .lost then goDark s die else startSwitch s die .toA := by
  simp only [evalSelector, hs, if_pos hb]

/-- With both inputs LOST the die goes dark, whichever is selected. -/
theorem evalSelector_bothLost (hs : (eyeDie s die).sel = .onA ∨ (eyeDie s die).sel = .onB) (ha : (eyeDie s die).classA = .lost)
    (hb : (eyeDie s die).classB = .lost) : evalSelector s die = goDark s die := by
  rcases hs with hs | hs
  · rw [evalSelector_onA_lost hs ha, if_pos hb]
  · rw [evalSelector_onB_lost hs hb, if_pos ha]

/-! ### Inputs that are lost (R221, R222) -/

/-- A short run of readings below the threshold does not lose input A. -/
theorem exec_laserInputLost_A_short (h : (eyeDie s die).belowA < 10) : exec (.laserInputLost die 0) s = .next s := if_pos (.inl h)

theorem exec_laserInputLost_A (h : 10 ≤ (eyeDie s die).belowA) (hc : (eyeDie s die).classA ≠ .lost) :
    exec (.laserInputLost die 0) s = .next (loseInput s die 0 false) :=
  if_neg (not_or_intro (Nat.not_lt.2 h) (not_or_intro hc (by decide)))

theorem exec_laserInputLost_B (h : 10 ≤ (eyeDie s die).belowB) (hc : (eyeDie s die).classB ≠ .lost) :
    exec (.laserInputLost die 1) s = .next (loseInput s die 1 false) :=
  if_neg (not_or_intro (Nat.not_lt.2 h) (not_or_intro hc (by decide)))

theorem loseInput_A_selected (hs : (eyeDie s die).sel = .onA) : loseInput s die 0 false = evalSelector (raise
    (rinc (setEye s die (fun y => { y with classA := .lost })) (Reg.laserLostEvents die))
    { code := Code.laserLost, unitKind := 5, unit := die, detail := 0, injected := false }) die := by
  simp [loseInput, hs]

theorem loseInput_B_selected (hs : (eyeDie s die).sel = .onB) : loseInput s die 1 false = evalSelector (raise
    (rinc (setEye s die (fun y => { y with classB := .lost })) (Reg.laserLostEvents die))
    { code := Code.laserLost, unitKind := 5, unit := die, detail := 1, injected := false }) die := by
  simp [loseInput, hs]

/-- An input B that is not selected raises nothing. -/
theorem loseInput_B_unselected (hs : (eyeDie s die).sel = .onA) :
    loseInput s die 1 false = evalSelector (setEye s die (fun y => { y with classB := .lost })) die := by
  simp [loseInput, hs]

/-! ### Switches, recovery and selections (R222 to R224) -/

/-- R223: the lanes of a die that a switch held go on. -/
def resumeLanes (s : State) (die : Nat) : State :=
  (dieLanes die).foldl (fun s l => if (lane s l.1 l.2).switching then setLane s l.1 l.2 (fun y => { y with switching := false }) else s) s

theorem exec_laserSwitchComplete_toB (hs : (eyeDie s die).sel = .toB) (hi : injectionOn s 3 die = false) : exec (.laserSwitchComplete die) s
    = .next (evalSelector (resumeLanes (rinc (setEye s die (fun y => { y with sel := .onB })) (Reg.laserFailovers die)) die) die) := by
  simp only [exec_laserSwitchComplete_eq, execLaserSwitchComplete, hs, hi, Bool.false_eq_true, if_false, resumeLanes]

/-- A die that is dark while an input is back takes A, or else B. -/
theorem exec_laserDarkRecovery_dark (hs : (eyeDie s die).sel = .dark) (h : (eyeDie s die).classA ≠ .lost ∨ (eyeDie s die).classB ≠ .lost) :
    exec (.laserDarkRecovery die) s = .next (startSwitch s die (if (eyeDie s die).classA = .lost then .toB else .toA)) := by
  have hback : ((eyeDie s die).sel != .dark || ((eyeDie s die).classA == .lost && (eyeDie s die).classB == .lost)) = false := by
    rw [hs]
    rcases h with h | h
    · rw [beq_false_of_ne h]
      rfl
    · rw [beq_false_of_ne h, Bool.and_false]
      rfl
  rw [exec_laserDarkRecovery_eq, execLaserDarkRecovery, hback, if_neg Bool.false_ne_true]

theorem exec_laserRevert_onB (hr : rget s Reg.laserRevert = 1) (hs : (eyeDie s die).sel = .onB) (ha : (eyeDie s die).classA = .ok)
    (hl : lastRunning s = false) : exec (.laserRevert die) s = .next (startSwitch s die .toA) := by
  have hidle : (!lastRunning s) = true := by rw [hl]; rfl
  rw [exec_laserRevert_eq, execLaserRevert, if_pos ⟨hr, hs, ha, hidle⟩]

theorem applySelect_onA (hs : (eyeDie s die).sel = .onA) : applySelect s die 1 = startSwitch s die .toB := by
  unfold applySelect
  simp only [hs]

theorem applySelect_onB (hs : (eyeDie s die).sel = .onB) : applySelect s die 0 = startSwitch s die .toA := by
  unfold applySelect
  simp only [hs]

/-- R224: with no Last running a selection of B that is not LOST applies at once. -/
theorem wLaserSelect_B (hb : (eyeDie s die).classB ≠ .lost) (hl : lastRunning s = false) :
    wLaserSelect die 1 s = accept (applySelect (rset s (Reg.laserSelectReq die) 1) die 1) := by
  have htaken : ¬ (1 < 1 ∨ (1 = 0 ∧ (eyeDie s die).classA = .lost) ∨ (1 = 1 ∧ (eyeDie s die).classB = .lost)) := by simp [hb]
  rw [wLaserSelect, if_neg htaken]
  simp only [hl, Bool.false_eq_true, if_false]

end

/-- Settles O34: an input by its readings and by whether it is selected, a selector by its state and by what is LOST. -/
theorem laserInputsAndSelectors : Obligations.LaserInputsAndSelectors := by
  rintro s via die dep a b tx x rfl
  refine ⟨fun ha hb hf => ⟨_, exec_laserMeasurement_ok ha hb hf dep tx, rfl⟩, exec_laserInputLost_A_short, fun hn hc hs ha he => ?_,
    fun hn hc hs => ?_, fun hn hc hs => ?_, fun hs ha hb => ?_, fun hs hb ha => ?_, evalSelector_bothLost,
    fun hs hi => ⟨_, exec_laserSwitchComplete_toB hs hi, rfl⟩, fun hs ha => ?_, fun hs ha hb => ?_,
    exec_laserRevert_onB, fun hw hb hl => ?_, applySelect_onA, applySelect_onB⟩
  · have hrest : evalSelector (setEye s die (fun y => { y with classB := .lost })) die = setEye s die (fun y => { y with classB := .lost }) :=
      evalSelector_onA_rests (by rw [he]; exact hs) (by rw [he]; exact fun h => LaserClass.noConfusion (ha.symm.trans h))
    rw [exec_laserInputLost_B hn hc, loseInput_B_unselected hs, hrest]
  · rw [exec_laserInputLost_A hn hc, loseInput_A_selected hs]
  · rw [exec_laserInputLost_B hn hc, loseInput_B_selected hs]
  · rw [evalSelector_onA_lost hs ha, if_neg hb]
  · rw [evalSelector_onB_lost hs hb, if_neg ha]
  · rw [exec_laserDarkRecovery_dark hs (.inl ha), if_neg ha]
  · rw [exec_laserDarkRecovery_dark hs (.inr hb), if_pos ha]
  · rw [exec_laserSelectReq_eq, doWrite_accept hw (wLaserSelect_B hb hl)]

end Sys2Proof.Machine

namespace Sys2Proof.Machine

/-! ### Training of a lane, state by state (R256 to R258) -/

section
variable {s : State} {e k : Nat}

theorem exec_trainStart_off (ho : (lane s e k).train = .off) (hm : mayTrain s e k = true) : exec (.trainStart e k) s
    = .next (setLane (trainTo { s with draws := s.draws + 1 } e k .signal) e (reverseLane e k) (fun l => { l with scrTx := prbsStart s.draws })) :=
  congrArg _ (if_pos ⟨ho, hm⟩)

theorem exec_signalDetected_bright {cdbm : Int} (hs : (lane s e k).train = .signal) (hp : -1600 ≤ cdbm) : exec (.signalDetected e k cdbm) s
    = .next (trainTo (rsetI s ((Reg.rxPowerCdbm e).at k) cdbm) e k .phase) :=
  congrArg _ (if_pos ⟨hs, hp⟩)

theorem exec_phaseScanDone_eq (s : State) (e k : Nat) (clean : List Bool) :
    exec (.phaseScanDone e k clean) s = execPhaseScanDone e k clean s := rfl

/-- R257: the sampling phase goes to the middle of an eye that is wide enough. -/
theorem exec_phaseScanDone_wide {clean : List Bool} (hp : (lane s e k).train = .phase) (hw : rget s Reg.minEyeSteps ≤ (eye clean).2)
    (h0 : 0 < (eye clean).2) : exec (.phaseScanDone e k clean) s
      = .next (trainTo (rset s ((Reg.rxPhase e).at k) (((eye clean).1 + ((eye clean).2 - 1) / 2) % 64)) e k .align) := by
  rw [exec_phaseScanDone_eq, execPhaseScanDone, if_neg (not_not_intro hp), if_pos ⟨hw, h0⟩]

theorem exec_phaseScanDone_narrow {clean : List Bool} (hp : (lane s e k).train = .phase) (hw : (eye clean).2 < rget s Reg.minEyeSteps) :
    exec (.phaseScanDone e k clean) s = .next (trainFail s e k 2) := by
  rw [exec_phaseScanDone_eq, execPhaseScanDone, if_neg (not_not_intro hp), if_neg (fun h => Nat.not_le.2 hw h.1)]

theorem exec_alignDone_align (h : (lane s e k).train = .align) : exec (.alignDone e k) s
    = .next (setLane s e k (fun l => { l with train := .echo, echoes := [], echoNext := 0 })) := congrArg _ (if_pos h)

theorem exec_alignTimeout_align (h : (lane s e k).train = .align) : exec (.alignTimeout e k) s = .next (trainFail s e k 3) :=
  congrArg _ (if_pos h)

theorem exec_echo_echo (h : (lane s e k).train = .echo) (stamp x : Nat) : exec (.echo e k stamp x) s
    = .next (setLane s e (reverseLane e k) (fun l => { l with
        links := addLink l.links ⟨2, stamp % 64, x % 2 ^ 32, max l.sentAt (4 * s.clock.beat.toNat) + 4⟩ })) :=
  congrArg _ (if_pos (.inl h))

theorem exec_echoReply_echo {stamp : Nat} (h : (lane s e k).train = .echo) (hs : stamp < 64) (x y : Nat) : exec (.echoReply e k stamp x y) s
    = .next (setLane s e k (fun l => { l with echoes := tput l.echoes stamp (x - y) })) := congrArg _ (if_pos ⟨h, hs⟩)

theorem exec_latencySet_eq (s : State) (e k : Nat) : exec (.latencySet e k) s = execLatencySet e k s := rfl

/-- R258: after 64 replies, with no latency set by hand, the lane takes the least latency that its flight time allows. -/
theorem exec_latencySet_least (he : (lane s e k).train = .echo) (hl : (lane s e k).echoes.length = 64)
    (hf : rget s ((Reg.laneLatencyBeats e).at k) = 0) (hn : leastLatency (twiceMedian ((lane s e k).echoes.map (·.2))) ≤ 16) :
    exec (.latencySet e k) s = .next (trainTo (rset (rset s ((Reg.flightPs e).at k) (twiceMedian ((lane s e k).echoes.map (·.2)) / 4))
      ((Reg.trainedLatency e).at k) (leastLatency (twiceMedian ((lane s e k).echoes.map (·.2))))) e k .beacon) := by
  have hdue : ¬ ((lane s e k).train ≠ .echo ∨ (lane s e k).echoes.length ≠ 64) := fun h => h.elim (· he) (· hl)
  have hfits : ∀ n, n ≤ 16 → ¬ (n < n ∨ 16 < n) := by omega
  rw [exec_latencySet_eq, execLatencySet, if_neg hdue]
  simp only [hf, ne_eq, not_true_eq_false, if_false, if_neg (hfits _ hn)]

theorem exec_echoTimeout_echo (h : (lane s e k).train = .echo) : exec (.echoTimeout e k) s = .next (trainFail s e k 4) :=
  congrArg _ (if_pos h)

theorem exec_quarantineTimeout_quarantine (h : (lane s e k).train = .quarantine) :
    exec (.quarantineTimeout e k) s = .next (laneGo s e k .wait 0) := congrArg _ (if_pos h)

theorem exec_trainRetry_wait (h : (lane s e k).train = .wait) : exec (.trainRetry e k) s = .next (trainTo s e k .signal) :=
  congrArg _ (if_pos h)

end

/-- Settles O36, one transition of R256 for each clause. -/
theorem laneTrainingAdvances : Obligations.LaneTrainingAdvances := by
  rintro s e k stamp x y n cdbm clean l rfl
  refine ⟨exec_trainStart_off, exec_signalDetected_bright, exec_phaseScanDone_wide, exec_phaseScanDone_narrow, exec_alignDone_align,
    exec_alignTimeout_align, fun h => exec_echo_echo h stamp x, fun h hs => exec_echoReply_echo h hs x y, ?_, exec_echoTimeout_echo,
    exec_quarantineTimeout_quarantine, exec_trainRetry_wait⟩
  rintro he hl rfl hf hn
  exact exec_latencySet_least he hl hf hn

end Sys2Proof.Machine

namespace Sys2Proof.Machine

/-! ### Blocks of a lane on the wire (R250, R255, R256) -/

theorem exec_laneBlockSlot_eq (s : State) (e k pos : Nat) : exec (.laneBlockSlot e k pos) s = execLaneBlockSlot e k pos s := rfl
theorem exec_laneBlockReceived_eq (s : State) (e k : Nat) (block : List Byte) :
    exec (.laneBlockReceived e k block) s = execLaneBlockReceived e k block s := rfl

section
variable {s : State} {e k : Nat}

theorem exec_laneBlockSlot_off (h : (rxOf s e k).train = .off) (pos : Nat) : exec (.laneBlockSlot e k pos) s = .next s := by
  simp only [exec_laneBlockSlot_eq, execLaneBlockSlot, h]

theorem exec_laneBlockSlot_signal (h : (rxOf s e k).train = .signal) (pos : Nat) :
    exec (.laneBlockSlot e k pos) s = .next (putBlock s e k (pos % 4) (zeros 70)) := by
  simp only [exec_laneBlockSlot_eq, execLaneBlockSlot, h]

/-- R250: a lane whose output is valid sends the block XORed with its sequence. -/
theorem putBlock_valid (h : outputInvalid s e k = false) (pos : Nat) (block : List Byte) : putBlock s e k pos block
    = emit (setLane s e k (fun l => { l with scrTx := prbsNext (lane s e k).scrTx, sentAt := 4 * beatNow s + pos + 1 }))
      (.block e k pos (prbsBlock (lane s e k).scrTx block)) := by
  rw [putBlock, h, if_neg Bool.false_ne_true]

/-- R250: a descrambler that has settled reads a block under its own state, and moves on. -/
theorem descramble_settled {w : Nat} (hw : (lane s e k).scrRx = some w) (hp : (lane s e k).train ≠ .phase) (ha : (lane s e k).train ≠ .align)
    (block : List Byte) : descramble s e k block = (prbsBlock w block, setLane s e k (fun l => { l with scrRx := some (prbsNext w) })) := by
  have hsettled : ((lane s e k).train == .phase || (lane s e k).train == .align) = false := by
    rw [beq_false_of_ne hp, beq_false_of_ne ha, Bool.or_false]
  simp only [descramble, hw, hsettled, Bool.false_and, Bool.false_eq_true, if_false]

theorem exec_laneBlockReceived_wait (h : (lane s e k).train = .wait) (block : List Byte) : exec (.laneBlockReceived e k block) s = .next s := by
  simp only [exec_laneBlockReceived_eq, execLaneBlockReceived, h]

theorem exec_laneBlockReceived_echo_bad {block : List Byte} (h : (lane s e k).train = .echo) (hi : (lane s e k).injectBlock = false)
    (hd : decodeBlock (descramble s e k block).1 = none) :
    exec (.laneBlockReceived e k block) s = .next (trainingBlock (descramble s e k block).2 e k none false) := by
  simp only [exec_laneBlockReceived_eq, execLaneBlockReceived, h, hi, hd, Bool.false_and, Bool.false_eq_true, if_false]

/-- R251: a block in SERVE that decodes, with no window of a sealed stream waiting for its tag. -/
theorem exec_laneBlockReceived_serve {block data : List Byte} {ctl : Nat} {c : Bool} (h : (lane s e k).train = .serve)
    (hr : (lane s e k).rxSkip = 0) (hi : (lane s e k).injectBlock = false)
    (hd : decodeBlock (descramble s e k block).1 = some (data, ctl, c)) (hc : ctReserved ctl = false)
    (ht : (lane (servedBlock (descramble s e k block).2 e k (some (data, ctl, c)) false) e k).sealTags = []) :
    exec (.laneBlockReceived e k block) s = .next (servedBlock (descramble s e k block).2 e k (some (data, ctl, c)) false) := by
  simp only [exec_laneBlockReceived_eq, execLaneBlockReceived, h, hr, hi, hd, hc, Bool.false_and, Bool.false_eq_true, if_false, Nat.lt_irrefl,
    serveBlock, ht, List.isEmpty_nil, if_true]

end

/-! ### What a block received in SERVE does (R251, R254, R260) -/

theorem countBlock_decoded (s : State) (e k : Nat) (data : List Byte) (ctl : Nat) (c inj : Bool) :
    countBlock s e k (some (data, ctl, c)) inj = if c then rinc s ((Reg.correctedBlocks e).at k) else s := by
  cases c <;> rfl

section
variable {s : State} {e k ctl : Nat} {data : List Byte}

theorem onControl_ack (h : ctType ctl = 0) : onControl s e k ctl data = onAck s e k (ctSeq ctl) := by
  simp only [onControl, h]

theorem onControl_credit (h : ctType ctl = 1) : onControl s e k ctl data = onCredit s e k (bits ctl 11 10) (bits ctl 9 9) (bits ctl 8 0) := by
  simp only [onControl, h]

theorem onControl_nack (h : ctType ctl = 2) : onControl s e k ctl data = onNack s e k (ctSeq ctl) := by
  simp only [onControl, h]

theorem onControl_mend (h : ctType ctl = 4) : onControl s e k ctl data = onMend s e k (ctEyelet ctl) (ctSeq ctl) none := by
  simp only [onControl, h]

theorem onControl_mendData (h : ctType ctl = 5) : onControl s e k ctl data = onMend s e k (ctEyelet ctl) (ctSeq ctl) (some data) := by
  simp only [onControl, h]

end

/-- R260: the data of a block whose control word has taken effect go on, as a flit or as the scheduled data of its position; a MEND block, a block
without data and a lane that has left SERVE hand on nothing. -/
def handData (s : State) (e k bsn ctl : Nat) (data : List Byte) : State :=
  if 4 ≤ ctType ctl || !ctHasData ctl || (lane s e k).train != .serve then s
  else
    match schedAtPos s e k (bsn % 4) with
    | some sb => onSched s e k bsn sb data
    | none => onFlit s e k bsn data

/-- R251, R260: a decoded block on a lane that listens: its position passes (`v`), a correction is counted (`u`), then its control word and its data. -/
theorem servedBlock_decoded {s u v : State} {e k bsn ctl : Nat} {data : List Byte} {c : Bool} (hb : bsn = (lane s e k).rxBsn)
    (hv : v = setLane s e k (fun l => nextPosition { l with missing := l.missing.filter (fun m => m.bsn != bsn) }))
    (hi : (lane v e k).rxIgnore = false) (hu : u = if c then rinc v ((Reg.correctedBlocks e).at k) else v) :
    servedBlock s e k (some (data, ctl, c)) false = handData (onControl u e k ctl data) e k bsn ctl data := by
  subst hb hv hu
  simp only [servedBlock, hi, Bool.false_eq_true, if_false, countBlock_decoded]
  rfl

section
variable {s : State} {e k ctl bsn sb : Nat}

theorem handData_noData (h : ctHasData ctl = false) (data : List Byte) : handData s e k bsn ctl data = s := by
  rw [handData, h, Bool.not_false, Bool.or_true, Bool.true_or, if_pos rfl]

theorem handData_mend (h : 4 ≤ ctType ctl) (data : List Byte) : handData s e k bsn ctl data = s := by
  rw [handData, decide_eq_true h, Bool.true_or, Bool.true_or, if_pos rfl]

/-- A block that carries data, on a lane that is still in SERVE, hands them on. -/
theorem handsOn (hc : ctType ctl < 3) (hd : ctHasData ctl = true) (ht : (lane s e k).train = .serve) :
    (decide (4 ≤ ctType ctl) || !ctHasData ctl || (lane s e k).train != .serve) = false := by
  rw [decide_eq_false (by omega), hd, ht]
  rfl

theorem handData_flit (hc : ctType ctl < 3) (hd : ctHasData ctl = true) (ht : (lane s e k).train = .serve)
    (hp : schedAtPos s e k (bsn % 4) = none) (data : List Byte) : handData s e k bsn ctl data = onFlit s e k bsn data := by
  simp only [handData, handsOn hc hd ht, Bool.false_eq_true, if_false, hp]

theorem handData_sched (hc : ctType ctl < 3) (hd : ctHasData ctl = true) (ht : (lane s e k).train = .serve)
    (hp : schedAtPos s e k (bsn % 4) = some sb) (data : List Byte) : handData s e k bsn ctl data = onSched s e k bsn sb data := by
  simp only [handData, handsOn hc hd ht, Bool.false_eq_true, if_false, hp]

end

/-! ### Acknowledgement and replay (R260, R261) -/

section
variable {s : State} {e k b : Nat}

/-- R260: an acknowledgement of blocks that no copy waits for and no injection has touched takes them from the sent ones, and does no more. -/
theorem onAck_plain (hd : (lane s e (reverseLane e k)).dropAckUntil ≤ beatNow s)
    (h : ∀ y ∈ (lane s e (reverseLane e k)).sent, y.ctx = none ∧ y.injected = false) : onAck s e k b
      = setLane s e (reverseLane e k) (fun l => { l with sent := l.sent.filter (fun y => !decide ((b + 256 - y.bsn) % 256 < 128)) }) := by
  have hctx : ∀ (t : State), ∀ y ∈ (lane s e (reverseLane e k)).sent.filter (fun y => decide ((b + 256 - y.bsn) % 256 < 128)),
      (match y.ctx with | some c => copyWriteAck t c 0 Code.ok 0 0 | none => t) = t := by
    intro t y hy
    rw [(h y (List.mem_filter.1 hy).1).1]
  have hinj : ((lane s e (reverseLane e k)).sent.filter (fun y => decide ((b + 256 - y.bsn) % 256 < 128))).any
      (fun y => y.injected && y.replayed.isSome) = false := by
    rw [List.any_eq_false]
    intro y hy
    rw [(h y (List.mem_filter.1 hy).1).2]
    exact Bool.false_ne_true
  simp only [onAck, if_neg (Nat.not_lt.2 hd), hinj, Bool.false_eq_true, if_false]
  exact foldl_fixed_of_mem (hctx _)

/-- R261: a NACK of a sent block that has not been replayed queues its replay. -/
theorem onNack_first {x : SentBlock} (hx : (lane s e (reverseLane e k)).sent.find? (fun y => y.bsn == b) = some x) (hr : x.replayed = none) :
    onNack s e k b = queueReplay s e (reverseLane e k) { eyelet := e, bsn := b, withData := x.dataFlag, data := x.data, injected := x.injected } := by
  simp only [onNack, hx, hr, Bool.false_eq_true, if_false]

theorem exec_replayTimeout_eq (s : State) (e k : Nat) : exec (.replayTimeout e k) s = execReplayTimeout e k s := rfl

/-- R261: the oldest block that is late is queued for replay and counted. -/
theorem exec_replayTimeout_late {x : SentBlock} (hx : (lane s e k).sent.find? (fun x => x.dataFlag
      && decide (x.replayed.getD x.beat + tripBeats s e k + 2 ≤ beatNow s) && !(lane s e k).replays.any (fun y => y.bsn == x.bsn)) = some x)
    (hi : x.injected = false) : exec (.replayTimeout e k) s
      = .next (rinc (queueReplay s e k { eyelet := e, bsn := x.bsn, withData := true, data := x.data, injected := false }) ((Reg.ackTimeouts e).at k)) := by
  simp only [exec_replayTimeout_eq, execReplayTimeout, hx, hi, Bool.false_eq_true, if_false]

theorem exec_replayTimeout_none_sent (h : (lane s e k).sent = []) : exec (.replayTimeout e k) s = .next s := by
  simp only [exec_replayTimeout_eq, execReplayTimeout, h, List.find?_nil]

/-! ### Missing blocks (R260, R263 to R265) -/

/-- R260: a MEND of a block that is not missing, or too old to be, is a duplicate. -/
theorem onMend_duplicate {pos f : Nat} (hf : f = mendLane s e k pos)
    (h : 31 < rxAge (lane s f k) b ∨ (lane s f k).missing.find? (fun m => m.bsn == b) = none) (data : Option (List Byte)) :
    onMend s e k pos b data = rinc s ((Reg.duplicates f).at k) := by
  subst hf
  have hnone : (if 31 < rxAge (lane s (mendLane s e k pos) k) b then none
      else (lane s (mendLane s e k pos) k).missing.find? (fun m => m.bsn == b)) = none := ite_eq_left_iff.2 (fun ho => h.resolve_left ho)
  simp only [onMend, hnone]

/-- R260: a MEND brings a missing flit. -/
theorem onMend_flit {pos f : Nat} {m : Missing} {data : List Byte} (hf : f = mendLane s e k pos) (ha : rxAge (lane s f k) b ≤ 31)
    (hm : (lane s f k).missing.find? (fun m => m.bsn == b) = some m) (hi : m.injected = false) (hs : m.sched = none) :
    onMend s e k pos b (some data) = onFlit (setLane s f k (fun l => { l with missing := l.missing.filter (fun y => y.bsn != b) })) f k b data := by
  subst hf
  simp only [onMend, if_neg (Nat.not_lt.2 ha), hm, hi, hs, Bool.false_eq_true, if_false]

theorem exec_mendExhausted_eq (s : State) (e k : Nat) : exec (.mendExhausted e k) s = execMendExhausted e k s := rfl

/-- R264: a flit block missing for 32 blocks takes its lane to WAIT and is counted. -/
theorem exec_mendExhausted_old {m : Missing} (hm : (lane s e k).missing.find? (fun m => m.sched.isNone && decide (32 ≤ rxAge (lane s e k) m.bsn)) = some m)
    (hi : m.injected = false) :
    exec (.mendExhausted e k) s = .next (laneGo (rinc s ((Reg.mendExhausted e).at k)) e k .wait Code.mendExhausted) := by
  simp only [exec_mendExhausted_eq, execMendExhausted, hm, hi, Bool.false_eq_true, if_false, laneGo]

theorem exec_mendExhausted_none_missing (h : (lane s e k).missing = []) : exec (.mendExhausted e k) s = .next s := by
  simp only [exec_mendExhausted_eq, execMendExhausted, h, List.find?_nil]

theorem exec_slackExpiry_eq (s : State) (e k bsn : Nat) : exec (.slackExpiry e k bsn) s = execSlackExpiry e k bsn s := rfl

/-- R265: the missing block of a lane with a BSN is marked as one that has had its event, and is counted. -/
def slackSpent (s : State) (e k bsn : Nat) : State :=
  setLane (rinc s ((Reg.mendExhausted e).at k)) e k
    (fun l => { l with missing := l.missing.map (fun y => if y.bsn = bsn then { y with expired := true } else y) })

variable {bsn sb : Nat} {m : Missing} {r : Run}

/-- R265: a scheduled block missing at the end of its slack raises its event and the fault of the step. -/
theorem exec_slackExpiry_due (hr : s.last.run = some r) (hm : (lane s e k).missing.find? (fun m => m.bsn == bsn && !m.expired) = some m)
    (hs : m.sched = some sb) (hi : m.injected = false) (he : slackEnd s r e k (bsn % 4) sb = some b) (hb : b ≤ nowSched s) :
    exec (.slackExpiry e k bsn) s = .next (stepFault (raiseMend (slackSpent s e k bsn) e k bsn (lanePartner (lane s e k)) false)
      Code.mendExhausted 4 (laneUnit s e k) (lanePartner (lane s e k)) bsn false) := by
  simp only [exec_slackExpiry_eq, execSlackExpiry, hr, hm, hs, hi, he, if_neg (Nat.not_lt.2 hb), Bool.false_eq_true, if_false, slackSpent]

theorem exec_slackExpiry_early (hr : s.last.run = some r) (hm : (lane s e k).missing.find? (fun m => m.bsn == bsn && !m.expired) = some m)
    (hs : m.sched = some sb) (he : slackEnd s r e k (bsn % 4) sb = some b) (hb : nowSched s < b) : exec (.slackExpiry e k bsn) s = .next s := by
  simp only [exec_slackExpiry_eq, execSlackExpiry, hr, hm, hs, he, if_pos hb]

end

/-- Settles O38: a block by the state of its link; a block in SERVE by its position, its control word and its data; a timer by the oldest block that
it finds. -/
theorem laneBlocksAndMending : Obligations.LaneBlocksAndMending := by
  intro s e k pos bsn sb b w block x m r u v z data ctl c f
  refine ⟨fun h => exec_laneBlockSlot_off h pos, fun h => exec_laneBlockSlot_signal h pos, fun h => putBlock_valid h pos block,
    exec_laneBlockReceived_echo_bad, rfl, fun hw hp ha => ?_, fun h => exec_laneBlockReceived_wait h block, exec_laneBlockReceived_serve,
    fun hb hv hi hu ht hd => ?_, fun hb hv hi hu ht hd => ?_, fun hb hv hi hu ht hd => ?_, fun hb hv hi hu ht => ?_, fun hb hv hi hu ht => ?_,
    fun hb hv hi hu hc hd hz ht hp => ?_, fun hb hv hi hu hc hd hz ht hp => ?_, onAck_plain, onNack_first, fun hf h => onMend_duplicate hf h _,
    onMend_flit, exec_replayTimeout_late, exec_replayTimeout_none_sent, exec_mendExhausted_old, exec_mendExhausted_none_missing,
    fun hr hm hs hi he hb => ⟨slackSpent s e k bsn, exec_slackExpiry_due hr hm hs hi he hb, rfl⟩, exec_slackExpiry_early⟩
  · rw [descramble_settled hw hp ha]
    exact ⟨rfl, rfl⟩
  · rw [servedBlock_decoded hb hv hi hu, onControl_ack ht, handData_noData hd]
  · rw [servedBlock_decoded hb hv hi hu, onControl_credit ht, handData_noData hd]
  · rw [servedBlock_decoded hb hv hi hu, onControl_nack ht, handData_noData hd]
  · rw [servedBlock_decoded hb hv hi hu, onControl_mend ht, handData_mend (by omega)]
  · rw [servedBlock_decoded hb hv hi hu, onControl_mendData ht, handData_mend (by omega)]
  · rw [servedBlock_decoded hb hv hi hu, ← hz, handData_flit hc hd ht hp]
  · rw [servedBlock_decoded hb hv hi hu, ← hz, handData_sched hc hd ht hp]

end Sys2Proof.Machine

namespace Sys2Proof.Machine

/-! ### Commit of a plan (R278) -/

theorem exec_planCommit_eq (s : State) (via : Via) (v : Nat) : exec (.planCommit via v) s = .next (doWrite s via 0x2400 2 (wPlanCommit v)) := rfl

/-- R278: beacons go on telling for the rest of the beat now what they tell in it. -/
def keepTold (s : State) : State := { s with plan := { s.plan with told := some (s.clock.beat.toNat, toldNow s) } }

/-- R278: a valid first plan is installed and kept in flash; the beacons tell it from the next beat. -/
theorem wPlanCommit_first {s : State} (hr : lastRunning s = false) (hv : planValidNow s = false) (hs : planValid s.plan.staged = true) :
    wPlanCommit 1 s = accept (flashCommit (rset (installPlan (keepTold s) s.plan.staged) Reg.commitResult 1) .plan) := by
  rw [wPlanCommit, if_neg (not_not_intro rfl), hr, if_neg Bool.false_ne_true, hv, Bool.false_and, if_neg Bool.false_ne_true, hs, Bool.not_true,
    if_neg Bool.false_ne_true, keepTold]

/-- R467: a commit to flash leaves the plan in force as it is. -/
@[simp] theorem flashCommit_plan (s : State) (p : FlashPart) : (flashCommit s p).plan = s.plan := by
  unfold flashCommit
  split
  · simp
  · rfl

/-- On a package without lanes there is none to check again, and what beacons tell in the beat now stays. -/
theorem installPlan_told {s : State} (h : s.lanes = []) (p : List Byte) : (installPlan s p).plan.told = s.plan.told := by
  simp [installPlan, traceGeneration, h]

/-- A READY, claimed package with a management session, no lane, no plan in force and a valid plan without links staged. -/
def planStaged : State := { State.reset with
  reset' := { boot := .ready, pwrOk := true }
  tenancy := { anchors := [[1]] }
  mgmt := { linkUp := true, sessions := [(0, { anchor := some [1] })] }
  plan := { staged := leBytes 8 (2 ^ 56) ++ zeros 56 ++ List.replicate 64 255 } }

theorem planStaged_writable : Writable planStaged (.mgmt 0) 0x2400 2 := ⟨by decide +kernel, by decide +kernel, by decide +kernel⟩

/-- Refutes O37: the clause of the first commit installs the plan in the state as it stands, while R278 has the beacons tell the new plan only
from the next beat, and the model keeps for the rest of the beat what they told before (`Plan.told`). With a valid plan staged and no lane, the
state that the clause names has nothing kept. -/
theorem not_beaconsPausesAndPlans : ¬ Obligations.BeaconsPausesAndPlans := by
  intro h
  obtain ⟨-, -, -, -, -, -, -, -, -, hcommit, -⟩ := h planStaged (.mgmt 0) 0 0 0 (List.replicate 8 0) _ rfl rfl
  have hvalid : planValid planStaged.plan.staged = true := by decide +kernel
  have hclaim := hcommit planStaged_writable rfl rfl hvalid
  rw [exec_planCommit_eq, doWrite_accept planStaged_writable (wPlanCommit_first rfl rfl hvalid)] at hclaim
  have htold := congrArg (fun t => t.plan.told) (Host.Outcome.next.inj hclaim)
  have hlanes : planStaged.lanes = [] := rfl
  have hkept : (keepTold planStaged).lanes = [] := rfl
  simp only [written, logMailboxWrite, answer_plan, flashCommit_plan, rset_plan, installPlan_told hlanes, installPlan_told hkept] at htold
  exact Option.some_ne_none (planStaged.clock.beat.toNat, toldNow planStaged) htold

end Sys2Proof.Machine

namespace Sys2Proof.Machine

/-! ### The trace port (R506 to R509) -/

theorem exec_traceBlock_eq (s : State) : exec .traceBlock s = execTraceBlock s := rfl
theorem exec_beatMark_eq (s : State) : exec .beatMark s = execBeatMark s := rfl

section
variable {s : State}

/-- R506: a block of the port that sends takes the next two records, as far as there are any, and counts them. -/
theorem exec_traceBlock_sending (h : traceSending s = true) : exec .traceBlock s = .next (radd
    (traceSend { s with trace := { s.trace with queue := s.trace.queue.drop 2 } } (s.trace.queue.take 2)) Reg.traceRecords (s.trace.queue.take 2).length) := by
  rw [exec_traceBlock_eq, execTraceBlock, h, Bool.not_true, if_neg Bool.false_ne_true]

theorem exec_traceBlock_silent (h : traceSending s = false) : exec .traceBlock s = .next s := by
  rw [exec_traceBlock_eq, execTraceBlock, h, Bool.not_false, if_pos rfl]

/-- R506, R250: on a lane whose sequence stands, a block goes out coded and under that sequence. -/
theorem traceSend_out {x : Nat} (h : tget? s.trace.scramblers (s.trace.portBlock % 4) = some x) (rs : List (List Word)) :
    (traceSend s rs).out = s.out ++ [.trace (s.trace.portBlock % 4)
      (prbsBlock x (encodeBlock (bytesOf ((List.range 2).flatMap (fun i => rs.getD i [0, 0, 0, 0]))) s.trace.portBlock))] := by
  rw [traceSend, h]
  rfl

/-- The words of a block that two records fill. -/
theorem blockWords_two (a b : List Word) : (List.range 2).flatMap (fun i => [a, b].getD i [0, 0, 0, 0]) = a ++ b := by
  simp [List.range_succ]

/-- R506, R250: the number of the next block and the sequence of its lane move on. -/
theorem traceSend_trace {x : Nat} (h : tget? s.trace.scramblers (s.trace.portBlock % 4) = some x) (rs : List (List Word)) :
    (traceSend s rs).trace = { s.trace with
      portBlock := (s.trace.portBlock + 1) % 65536, scramblers := tput s.trace.scramblers (s.trace.portBlock % 4) (prbsNext x) } := by
  rw [traceSend, h]
  rfl

/-- R509: the records that were lost are told once 16 places are free. -/
theorem exec_traceLostRecord_room (hl : s.trace.lostPending ≠ 0) (hq : s.trace.queue.length + 16 ≤ 7680) : exec .traceLostRecord s
    = .next { s with trace := { s.trace with queue := s.trace.queue ++ [traceWords s 0xA (word s.trace.lostPending) 0], lostPending := 0 } } :=
  congrArg _ (if_neg (fun h => h.elim hl (Nat.not_lt.2 hq)))

theorem exec_traceLostRecord_none (h : s.trace.lostPending = 0) : exec .traceLostRecord s = .next s := congrArg _ (if_pos (.inl h))

/-- R508: a type of record that trace_enable leaves out is not made. -/
theorem traceMake_off {n : Nat} (h : (rget s Reg.traceEnable).testBit n = false) (a b : Word) : traceMake s n a b = s := by
  rw [traceMake, h, if_neg Bool.false_ne_true]

/-- R508: a record of a type that trace_enable selects joins the queue while it has a place. -/
theorem traceMake_on {n : Nat} (h : (rget s Reg.traceEnable).testBit n = true) (hq : s.trace.queue.length < 7680) (a b : Word) :
    traceMake s n a b = { s with trace := { s.trace with queue := s.trace.queue ++ [traceWords s n a b] } } := by
  rw [traceMake, h, if_pos rfl, traceQueue, if_pos hq]

/-- R508: a mark is due in a beat whose number trace_mark_beats divides, once (log 86). -/
theorem exec_beatMark_due (hb : s.clock.beat.toNat % rget s Reg.traceMarkBeats = 0) (hm : s.trace.markAt ≠ some s.clock.beat.toNat) :
    exec .beatMark s = .next (beatMark s (schedBeat s)) := congrArg _ (if_neg (fun h => h.elim (· hb) hm))

theorem exec_beatMark_not_due (h : s.clock.beat.toNat % rget s Reg.traceMarkBeats ≠ 0 ∨ s.trace.markAt = some s.clock.beat.toNat) :
    exec .beatMark s = .next s := congrArg _ (if_pos h)

theorem beatMark_off (h : (rget s Reg.traceEnable).testBit 1 = false) (sb : Option Nat) :
    beatMark s sb = { s with trace := { s.trace with markAt := some s.clock.beat.toNat } } :=
  traceMake_off (s := { s with trace := { s.trace with markAt := some s.clock.beat.toNat } }) h _ _

/-- R508: the mark of a running Last carries the schedule beat, the stretch, the bucket and the rest count. -/
theorem beatMark_run {r : Run} (hr : s.last.run = some r) (h : (rget s Reg.traceEnable).testBit 1 = true) (hq : s.trace.queue.length < 7680) (b : Nat) :
    beatMark s (some b) = { s with
      trace := { s.trace with
        markAt := some s.clock.beat.toNat
        queue := s.trace.queue ++ [traceWords s 1 (word b) (word (at' (rget s Reg.agreedStretch) 16 48 + at' r.bucket 8 40 + at' r.restCount 40 0))] } } := by
  simp only [beatMark, hr, Option.getD_some]
  exact traceMake_on (s := { s with trace := { s.trace with markAt := some s.clock.beat.toNat } }) h hq _ _

/-! ### The tread log (R513, R514, R518) -/

theorem exec_treadFreeze_eq (s : State) (via : Via) : exec (.treadFreeze via) s = .next (doWrite s via 0x6200 8 (wTreadFreeze 1)) := rfl
theorem exec_treadUnfreeze_eq (s : State) (via : Via) : exec (.treadUnfreeze via) s = .next (doWrite s via 0x6200 8 (wTreadFreeze 0)) := rfl
theorem exec_treadReplay_eq (s : State) (via : Via) (v : List Byte) :
    exec (.treadReplay via v) s = .next (doWrite s via 0x6200 0xF (wTreadReplay v)) := rfl
theorem exec_treadExportChunk_eq (s : State) (via : Via) : exec (.treadExportChunk via) s = execTreadExportChunk via s := rfl

/-- R513: the bytes of the log from its oldest record to its newest. -/
def logSpan (s : State) : Nat :=
  s.trace.treadTotal - match s.trace.tread with | q :: _ => q.pos | [] => s.trace.treadTotal

/-- R513: a freeze is counted and sets the span. -/
theorem treadFreezeOp_running (h : s.trace.frozen = false) : treadFreezeOp s
    = rset (rset (rinc { s with trace := { s.trace with frozen := true } } Reg.freezeCount) Reg.treadSpanBytes (logSpan s)) Reg.treadFreeze 1 :=
  if_neg (Bool.eq_false_iff.1 h)

theorem treadFreezeOp_frozen (h : s.trace.frozen = true) : treadFreezeOp s = s := if_pos h

theorem wTreadFreeze_freeze (s : State) : wTreadFreeze 1 s = accept (treadFreezeOp s) := rfl

theorem wTreadFreeze_clear (h : exportOpen s = false) : wTreadFreeze 0 s = accept (treadEmpty s) := by
  rw [wTreadFreeze, h, if_neg (by decide), if_neg (by decide), if_neg Bool.false_ne_true]

theorem wTreadFreeze_clear_busy (h : exportOpen s = true) : wTreadFreeze 0 s = refuse s Code.sessionBusy := by
  rw [wTreadFreeze, h, if_neg (by decide), if_neg (by decide), if_pos rfl]

/-- R518: the log of a bench run, none where all is zero. -/
theorem wTreadReplay_unarmed {v : List Byte} (hv : v.length = 16) (h : lastArmed s = false) : wTreadReplay v s = accept { s with
    trace := { s.trace with bench := if v = zeros 16 then none else some ((wordAt v 0).toNat, (wordAt v 1).toNat) } } := by
  rw [wTreadReplay, if_neg (not_not_intro hv), h, if_neg Bool.false_ne_true]

theorem wTreadReplay_armed {v : List Byte} (hv : v.length = 16) (h : lastArmed s = true) : wTreadReplay v s = refuse s Code.valueRefused := by
  rw [wTreadReplay, if_neg (not_not_intro hv), h, if_pos rfl]

/-! ### Reading a chunk of the frozen span (R423, R514) -/

/-- R423: the read of a chunk waits for its key. -/
theorem exec_treadExportChunk_waits {n : Nat} (ho : viaOpen s (.mgmt n) = true) (hw : exportWaits s = true) :
    exec (.treadExportChunk (.mgmt n)) s = .next (holdRequest s n exportMessage) := by
  simp only [exec_treadExportChunk_eq, execTreadExportChunk, ho, hw, Bool.not_true, Bool.false_eq_true, if_false, if_true]

/-- R514: otherwise it is served at once, by either path. -/
theorem exec_treadExportChunk_served {via : Via} (ho : viaOpen s via = true) (hw : exportWaits s = false) :
    exec (.treadExportChunk via) s = .next (emit (doOpenRead s via exportMessage).2 (.kdp via (doOpenRead s via exportMessage).1)) := by
  cases via <;> simp only [exec_treadExportChunk_eq, execTreadExportChunk, ho, hw, Bool.not_true, Bool.false_eq_true, if_false]

/-- The entry of a chunk. -/
def exportEntry : Entry := ⟨0x6200, 1, 0xe, "tread_export_chunk", .blob, .ro, false, 524304, true, 0, 0, 0, 0⟩

theorem findEntry_export : findEntry 0x6200 0xE = some exportEntry := by decide +kernel

/-- R514: a chunk that can be read is a snapshot in a session of its own, as any value that is opened to be read (R452). -/
theorem doOpenRead_export {via : Via} {bs : List Byte} (hst : entryStatus s via 0x6200 0xE 2 = Code.ok) (hl : openCount s via < openLimit via)
    (hc : exportChunk s (dtlsOf s via).exportOff = (Code.ok, bs)) :
    ∃ o, o = openSeg (clearRead s exportEntry 0x6200)
        (fun id => { id := id, via := via, key := entryKey 0x6200 0xE, write := false, count := bs.length, data := bs })
      ∧ doOpenRead s via exportMessage
        = ({ kind := kindOpenRead, status := Code.ok, index := 0x6200, sub := 0xE, session := o.1, count := bs.length, crc := crc32c bs }, o.2) := by
  have hv : readValue s via exportEntry 0x6200 = (Code.ok, bs) := hc
  have hx : exportMessage.index = 0x6200 ∧ exportMessage.sub = 0xE := by decide
  refine ⟨_, rfl, ?_⟩
  rw [doOpenRead, hx.1, hx.2, openReadOf, findEntry_export]
  simp only [hst, hv, if_neg (Nat.not_le.2 hl), ne_eq, not_true_eq_false, if_false]
  rfl

end

/-- Settles O56: the port by whether it sends, a mark by whether it is due, a write of the log by its value and what is open, a chunk by whether
its key is there. -/
theorem traceAndTreadLog : Obligations.TraceAndTreadLog := by
  intro s via r e v bs x a b rs
  refine ⟨fun h hq => ?_, fun h hq => ?_, fun hx ha hb => ⟨?_, traceSend_trace hx _, traceSend_out hx _⟩, exec_traceBlock_silent,
    exec_traceLostRecord_room, exec_traceLostRecord_none, fun hb hm hr hn he hq => ?_, fun hb hm he => ?_, exec_beatMark_not_due,
    fun hw hf => ⟨_, rfl, ?_⟩, fun hw hf => ?_, fun hw ho => ?_, fun hw ho => ?_, exec_treadExportChunk_waits,
    fun ho hx he hst hl hc => ?_, fun hw hv hl => ?_, fun hw hv hl => ?_⟩
  · rw [exec_traceBlock_sending h, hq]
    rfl
  · rw [exec_traceBlock_sending h, hq]
    rfl
  · rw [traceSend_out hx, blockWords_two]
  · rw [exec_beatMark_due hb hm, hn, beatMark_run hr he hq]
  · rw [exec_beatMark_due hb hm, beatMark_off he]
  · rw [exec_treadFreeze_eq, doWrite_accept hw (wTreadFreeze_freeze s), treadFreezeOp_running hf]
    rfl
  · rw [exec_treadFreeze_eq, doWrite_accept hw (wTreadFreeze_freeze s), treadFreezeOp_frozen hf]
  · rw [exec_treadUnfreeze_eq, doWrite_accept hw (wTreadFreeze_clear ho)]
  · rw [exec_treadUnfreeze_eq, doWrite_refusal hw (by rw [wTreadFreeze_clear_busy ho]; rfl), wTreadFreeze_clear_busy ho]
    rfl
  · obtain ⟨o, hu, hr⟩ := doOpenRead_export hst hl hc
    obtain rfl : exportEntry = e := Option.some.inj (findEntry_export.symm.trans he)
    exact ⟨o, hu, by rw [exec_treadExportChunk_served ho hx, hr]⟩
  · rw [exec_treadReplay_eq, doWrite_accept hw (wTreadReplay_unarmed hv hl)]
  · rw [exec_treadReplay_eq, doWrite_valueRefused hw (wTreadReplay_armed hv hl)]

end Sys2Proof.Machine

namespace Sys2Proof.Machine

/-! ### Loading an image (R287, R304 to R306) -/

/-- The state of a slot is no matter of the power management. -/
@[simp] theorem setSlot_power (s : State) (slot : Nat) (st : SlotState) : (setSlot s slot st).power = s.power := by
  simp only [setSlot, traceLast]
  split
  · split <;> exact traceMake_power _ _ _ _
  · exact traceMake_power _ _ _ _

theorem exec_loadLast_eq (s : State) (q id : Nat) : exec (.loadLast q id) s = execLoadLast q id s := rfl
theorem exec_loadVerify_eq (s : State) : exec .loadVerify s = execLoadVerify s := rfl

/-- R302: a slot that is LOADING, with the gap limit of its fitting windows taken. -/
def slotLoading (u : State) (slot : Nat) : State :=
  setSlot { u with last := { u.last with slots := tset {} u.last.slots slot { fitAge := rget u Reg.fitMaxAgeMs } } } slot .loading

/-- The load that a LOAD_LAST with the words of `f` begins, which keeps the energy coefficients it finds (R287). -/
def loadIssuing (q id : Nat) (f : Flight) (coeffs : List Nat) : Load :=
  { slot := fld (nth f.words 2) 31 28, bytes := fld (nth f.words 2) 63 32, origin := some (q, id), src := (nth f.words 1).toNat, coeffs := coeffs }

/-- The state with a load put under way. -/
def putLoad (s : State) (l : Load) : State := { s with last := { s.last with load := some l } }

section
variable {s : State} {q id : Nat} {f : Flight} {l : Load}

/-- R304, R306: a load that finds its slot free and no other load under way. -/
theorem exec_loadLast_starts (h : Begins s q id 1 f) (ha : (nth f.words 1).toNat % 64 = 0) (hc : clearing (begun s q id) = false)
    (hst : slotState (begun s q id) (fld (nth f.words 2) 31 28) = .empty ∨ slotState (begun s q id) (fld (nth f.words 2) 31 28) = .loaded)
    (hl : (begun s q id).last.load = none) :
    exec (.loadLast q id) s = .next (loadGo q id (loadIssuing q id f (begun s q id).power.coeffs).requests
      (putLoad (slotLoading (begun s q id) (fld (nth f.words 2) 31 28)) (loadIssuing q id f (begun s q id).power.coeffs))) := by
  have hfree : ¬ ((slotState (begun s q id) (fld (nth f.words 2) 31 28) ≠ .empty ∧ slotState (begun s q id) (fld (nth f.words 2) 31 28) ≠ .loaded)
      ∨ (begun s q id).last.load.isSome = true) := by
    rw [hl]
    rintro (⟨he, hn⟩ | h)
    · exact hst.elim he hn
    · exact absurd h Bool.false_ne_true
  have hcoeffs : (slotLoading (begun s q id) (fld (nth f.words 2) 31 28)).power.coeffs = (begun s q id).power.coeffs :=
    congrArg Power.coeffs (setSlot_power _ _ _)
  rw [exec_loadLast_eq, execLoadLast, runCommand_begins h, if_neg (not_not_intro ha), hc, if_neg Bool.false_ne_true, if_neg hfree,
    ← hcoeffs]
  rfl

/-- R304, check 1: a load that finds another under way. -/
theorem exec_loadLast_busy (h : Begins s q id 1 f) (ha : (nth f.words 1).toNat % 64 = 0) (hc : clearing (begun s q id) = false)
    (hl : (begun s q id).last.load = some l) :
    exec (.loadLast q id) s = .next (loadEnd (begun s q id) (some (q, id)) Code.lastBusy 0 (loadDetail 1 0x3F 0) 0) := by
  rw [exec_loadLast_eq, execLoadLast, runCommand_begins h, if_neg (not_not_intro ha), hc, if_neg Bool.false_ne_true,
    if_pos (.inr (Option.isSome_of_eq_some hl))]

/-! ### The checks of a loaded image (R304, R320, R155) -/

/-- A load that fails: its slot is EMPTY, and it completes with what it found. -/
def loadFails (s : State) (l : Load) (status reason detail : Nat) : State :=
  loadEnd (setSlot { s with last := { s.last with load := none, slots := tdel s.last.slots l.slot } } l.slot .empty) l.origin status reason detail l.note

/-- R320: a load whose image passes: its slot is LOADED with the image's generation and digest. -/
def loadPasses (s : State) (l : Load) : State :=
  loadEnd (setSlot { s with last := { s.last with load := none, slots := tput s.last.slots l.slot {
    state := .loading, gen := generationOf s l.slot, digest := setDigestOf s l.slot, bytes := l.bytes, fitAge := (tget {} s.last.slots l.slot).fitAge } } }
    l.slot .loaded) l.origin Code.ok 0 0 l.note

theorem exec_loadVerify_none (hl : s.last.load = none) : exec .loadVerify s = .next s := by
  simp only [exec_loadVerify_eq, execLoadVerify, hl]

/-- A copy that has ended goes on no more. -/
theorem not_copying (hc : l.size ≤ l.copied) : ¬ (l.status = Code.ok ∧ l.copied < l.size) := fun h => Nat.not_lt.2 hc h.2

/-- A copy that has not ended is not checked yet. -/
theorem exec_loadVerify_copying (hl : s.last.load = some l) (hs : l.status = Code.ok) (hc : l.copied < l.size) : exec .loadVerify s = .next s := by
  simp only [exec_loadVerify_eq, execLoadVerify, hl, if_pos (And.intro hs hc)]

/-- R304, check 2: a copy that a fetch has ended. -/
theorem exec_loadVerify_badFetch (hl : s.last.load = some l) (hs : l.status ≠ Code.ok) :
    exec .loadVerify s = .next (loadFails s l l.status l.reason (loadDetail 2 0x3F 0)) := by
  simp only [exec_loadVerify_eq, execLoadVerify, hl, if_neg (fun h : l.status = Code.ok ∧ l.copied < l.size => hs h.1), if_pos hs, loadFails]

section
variable (hl : s.last.load = some l) (hs : l.status = Code.ok) (hc : l.size ≤ l.copied)
include hl hs hc

/-- R155: an image of which a line is poisoned. -/
theorem exec_loadVerify_poisoned (hp : poisoned s (slotBase s l.slot) l.bytes = true) :
    exec .loadVerify s = .next (loadFails s l Code.memPoison 0 (loadDetail 3 0x3F 0)) := by
  simp only [exec_loadVerify_eq, execLoadVerify, hl, if_neg (not_copying hc),
    if_neg (not_not_intro hs), if_pos hp, loadFails]

/-- R304: an image that a check refuses completes with the first breach. -/
theorem exec_loadVerify_breach {x : Nat × Breach} (hp : poisoned s (slotBase s l.slot) l.bytes = false)
    (hx : firstBreach s l.slot l.bytes = some x) :
    exec .loadVerify s = .next (loadFails s l x.2.1 0 (loadDetail x.1 x.2.2.1 x.2.2.2)) := by
  simp only [exec_loadVerify_eq, execLoadVerify, hl, if_neg (not_copying hc),
    if_neg (not_not_intro hs), hp, Bool.false_eq_true, if_false, hx, loadFails]

theorem exec_loadVerify_passes (hp : poisoned s (slotBase s l.slot) l.bytes = false) (hx : firstBreach s l.slot l.bytes = none) :
    exec .loadVerify s = .next (loadPasses s l) := by
  simp only [exec_loadVerify_eq, execLoadVerify, hl, if_neg (not_copying hc),
    if_neg (not_not_intro hs), hp, Bool.false_eq_true, if_false, hx, loadPasses]

end

/-! ### LAUNCH (R303, R307) -/

theorem exec_launch_eq (s : State) (q id : Nat) : exec (.launch q id) s = execLaunch q id s := rfl

/-- R307, check 1: a slot that holds no image. -/
theorem exec_launch_empty (h : Begins s q id 2 f) (hc : clearing (begun s q id) = false)
    (hst : slotState (begun s q id) (fld (nth f.words 1) 63 60) = .empty) :
    exec (.launch q id) s = .next (launchFail (begun s q id) (some (q, id)) Code.slotEmpty 0 0x81 0x3F 0) := by
  rw [exec_launch_eq, execLaunch, runCommand_begins h, hc, if_neg Bool.false_ne_true, hst, if_pos nofun, if_neg nofun]

/-- The run that a LAUNCH with the words of `f` begins on bucket `b`, with what the dictionary reads as it begins. -/
def runLaunching (u : State) (q id : Nat) (f : Flight) (b : Nat) : Run :=
  { slot := fld (nth f.words 1) 63 60, bucket := b, s0 := fld (nth f.words 1) 59 36, s1 := fld (nth f.words 1) 35 12, stepCount := fld (nth f.words 2) 63 32
    firstStep := fld (nth f.words 2) 31 0, tables := tablesOf u (fld (nth f.words 1) 63 60) b, stagger := rget u Reg.staggerBeats, origin := some (q, id)
    lead := rget u Reg.startLeadBeats, syncUs := rget u Reg.syncTimeoutUs, bench := u.trace.bench.isSome }

/-- R106: the handle images of a bucket in place on every tile. -/
def imagesInstalled (u : State) (slot b : Nat) : State := (List.range 64).foldl (fun s t => installImage s slot b t) u

/-- R307: a LOADED slot and a shape that fit, an image without poison, and checks that pass: handle images and pins, then the slot arms. -/
structure Launchable (u : State) (f : Flight) (b : Nat) : Prop where
  settled : clearing u = false
  loaded : slotState u (fld (nth f.words 1) 63 60) = .loaded
  idle : u.last.run = none
  reference : u.clock.refState ≠ .lost
  shape : pickBucket u (fld (nth f.words 1) 63 60) (fld (nth f.words 1) 59 36) (fld (nth f.words 1) 35 12) = some b
  clean : imagePoisoned u (fld (nth f.words 1) 63 60) b = false
  checked : launchChecks u (fld (nth f.words 1) 63 60) b (fld (nth f.words 2) 63 32) = none

/-- R145, R307: with its pins found, the launch arms. -/
theorem exec_launch_arms {b : Nat} {v w : State} (h : Begins s q id 2 f) (hu : Launchable (begun s q id) f b)
    (hv : v = imagesInstalled (begun s q id) (fld (nth f.words 1) 63 60) b) (hp : pinAll (pinPages v (fld (nth f.words 1) 63 60) b) v = (.ok w, w)) :
    exec (.launch q id) s = .next (arm w (runLaunching (begun s q id) q id f b)) := by
  obtain ⟨hc, hst, hrun, href, hb, hclean, hchecks⟩ := hu
  subst hv
  unfold imagesInstalled at hp
  simp only [exec_launch_eq, execLaunch, runCommand_begins h, hc, hst, hrun, if_neg href, hb, hclean, hchecks, hp, Option.isSome_none, Bool.false_eq_true,
    if_false, ne_eq, not_true_eq_false, runLaunching]

/-! ### LAST_UNLOAD (R318, R319) -/

theorem exec_lastUnload_eq (s : State) (via : Via) (slot : Nat) :
    exec (.lastUnload via slot) s = .next (doWrite s via 0x4100 0x10 (wLastUnload slot)) := rfl

theorem wLastUnload_loaded {slot : Nat} (hn : slot ≤ 15) (hst : slotState s slot = .loaded) :
    wLastUnload slot s = accept (setSlot { s with last := { s.last with slots := tdel s.last.slots slot } } slot .empty) :=
  if_neg (fun h => h.elim (Nat.not_lt.2 hn) (absurd hst))

theorem wLastUnload_refused {slot : Nat} (hst : slotState s slot ≠ .loaded) : wLastUnload slot s = (Code.valueRefused, s) := if_pos (.inr hst)

end

/-- Settles O39: a LOAD_LAST by what it finds, its verification by what spoils it, a LAUNCH and an unload by the state of the slot. -/
theorem lastLoadsLaunchesAndUnloads : Obligations.LastLoadsLaunchesAndUnloads := by
  rintro s _ v w via q id slot b f l x rfl
  refine ⟨?_, exec_loadLast_busy, exec_loadVerify_badFetch, exec_loadVerify_copying, exec_loadVerify_passes, exec_loadVerify_poisoned,
    fun hl hs hc => exec_loadVerify_breach hl hs hc, exec_loadVerify_none, exec_launch_empty, ?_, fun hw hn hst => ?_, fun hw hst => ?_⟩
  · rintro h rfl ha hc hst hl
    exact ⟨slotLoading (begun s q id) (fld (nth f.words 2) 31 28), loadIssuing q id f (begun s q id).power.coeffs, rfl, rfl, exec_loadLast_starts h ha hc hst hl⟩
  · rintro h hc rfl hst hrun href hb hchecks hv hp hclean
    exact exec_launch_arms h ⟨hc, hst, hrun, href, hb, hclean, hchecks⟩ hv hp
  · rw [exec_lastUnload_eq, doWrite_accept hw (wLastUnload_loaded hn hst)]
  · rw [exec_lastUnload_eq, doWrite_valueRefused hw (wLastUnload_refused hst)]

end Sys2Proof.Machine

namespace Sys2Proof.Machine

/-! ### Steps of a running Last (R310) -/

theorem exec_stepStart_eq (s : State) : exec .stepStart s = execStepStart s := rfl

/-- Beats of a step of the bucket that runs. -/
def runStepBeats (s : State) (r : Run) : Nat := max 1 (beatCount s r.slot r.bucket)

/-- The first schedule beat that the step now beginning still looks back on. -/
def stepLow (s : State) (r : Run) : Nat := nowSched s / runStepBeats s r * runStepBeats s r - runStepBeats s r

/-- The number of the step that begins. -/
def nextStep (r : Run) : Nat := (r.firstStep + r.stepIdx) % 2 ^ 32

/-- The run in its next step: what schedule beats before `low` have left is forgotten. -/
def Run.stepped (r : Run) (low bc : Nat) : Run :=
  { r with
    stepIdx := r.stepIdx + 1, stepDue := false, rxSeen := r.rxSeen.filter (fun b => low ≤ b.1 / 4096)
    closed := r.closed.filter (fun g => low / bc ≤ g.2 / 4096), laceOps := r.laceOps.filter (fun o => o.done.isNone || decide (low ≤ o.issued)) }

/-- R310: step `k`, extended `ext`, has begun and is counted. -/
def stepBegun (s : State) (r : Run) (k ext : Nat) : State :=
  rinc (rset (rset (setRun s (fun y => y.stepped (stepLow s r) (runStepBeats s r))) Reg.stepNumber k) Reg.stepNumberExt ext) Reg.stepsRun

section
variable {s : State} {r : Run} (hr : s.last.run = some r)
include hr

theorem exec_stepStart_due (hd : r.stepDue = true) (hrun : runState s = .running) {k ext : Nat} (hk : k = nextStep r)
    (he : ext = extend 32 (rget s Reg.stepNumberExt) k) : exec .stepStart s
      = .next (treadLog (snapBoundary (stepBegun s r k ext) k ext) 6 (ownChip (stepBegun s r k ext)) 0 ext []) := by
  subst he hk
  have hgo : (!r.stepDue || runState s != .running) = false := by rw [hd, hrun]; rfl
  simp only [exec_stepStart_eq, execStepStart, hr, hgo, Bool.false_eq_true, if_false]
  rfl

theorem exec_stepStart_not_due (hd : r.stepDue = false) : exec .stepStart s = .next s := by
  simp only [exec_stepStart_eq, execStepStart, hr, hd, Bool.not_false, Bool.true_or, if_true]

end

/-! ### Pace points (R314 to R317, R373) -/

theorem exec_pacePoint_eq (s : State) (mw : Int) : exec (.pacePoint mw) s = execPacePoint mw s := rfl
theorem exec_stretchApply_eq (s : State) : exec .stretchApply s = execStretchApply s := rfl

/-- R373: the requests of the pace point now, from the mean input power since the one before, whose interval ends with it. -/
def paceSampled (s : State) (mw : Int) : (Nat × Nat × Nat) × State :=
  sampleRequest (paceRestart s) (rget s Reg.agreedStretch) (paceMean s mw)

/-- A pace point within the cap is counted and pending, and its requests `x` are traced. -/
def paceTaken (s v : State) (x : Nat × Nat × Nat) (mw : Int) : State :=
  traceMake (setRun (rinc v Reg.pacePoints) (fun y => { y with pacePending := some (nowSched s), paceResult := none, capOver := false, capRaised := false }))
    6 (word (at' x.1 16 48 + at' x.2.1 16 32 + at' x.2.2 16 16 + at' (rget s Reg.agreedStretch) 16 0))
    (word (at' (unsigned 32 (fround (paceMean s mw))) 32 32 + at' (rget s Reg.tMaxMc) 32 0))

/-- R315: the reduction that carries the package's request `x` to the other participants. -/
def paceReduction (s : State) (r : Run) (x : Nat) : SchedLace :=
  { tile := paceTile, entry := 0, issued := nowSched s, seq := stepBeat s r % 2 ^ 24, lop := 2, ltype := ltU64, set := paceLaceSet s r.slot
    held := [(ownChip s, x)] }

section
variable {s : State} {r : Run} {p : Nat} (hr : s.last.run = some r) (hrun : runState s = .running)
include hr hrun

/-- R315, R373: a pace point within the cap, with digests at an interval of their own. -/
theorem exec_pacePoint_within_cap {mw : Int} (hi : r.issuing = true) (hnew : r.pacePending ≠ some (nowSched s))
    (hpoint : isPacePoint s r (stepBeat s r) = true) (hd : s.trace.digestEvery ≠ 0) (hcap : capExceeded s (paceMean s mw) = false) :
    exec (.pacePoint mw) s = .next (schedLaceIssue (paceTaken s (paceSampled s mw).2 (paceSampled s mw).1 mw) r
      (paceReduction s r (paceSampled s mw).1.1)) := by
  have hgo : ¬ (runState s ≠ .running ∨ (!r.issuing) = true ∨ r.pacePending = some (nowSched s) ∨ (!isPacePoint s r (stepBeat s r)) = true) := by
    simp [hrun, hi, hnew, hpoint]
  simp only [exec_pacePoint_eq, execPacePoint, hr, if_neg hgo, hcap, Bool.false_and, Bool.false_eq_true, if_false, if_neg hd]
  rfl

variable (hp : r.pacePending = some p) (ha : p + paceLag s r.slot ≤ r.sched)
include hp ha

/-- R316, R317: the agreed stretch applies from its application beat on, with rest beats up to the next application. -/
theorem exec_stretchApply_agreed {x : Nat} (hx : r.paceResult = some x) : exec .stretchApply s
    = .next (rset (setRun s (fun y => { y with
        pacePending := none, paceResult := none,
        rests := restPositions (p + paceLag s r.slot) (nextApplication s r p - (p + paceLag s r.slot)) x })) Reg.agreedStretch x) := by
  simp only [exec_stretchApply_eq, execStretchApply, hr, hp, hrun, hx, ne_eq, not_true_eq_false, false_or, if_neg (Nat.not_lt.2 ha)]

/-- R316: a reduction that is not in by its application. -/
theorem exec_stretchApply_late (hx : r.paceResult = none) :
    exec .stretchApply s = .next (stepFault (setRun s (fun y => { y with pacePending := none })) 0 10 0 none p false) := by
  simp only [exec_stretchApply_eq, execStretchApply, hr, hp, hrun, hx, ne_eq, not_true_eq_false, false_or, if_neg (Nat.not_lt.2 ha)]

end

/-! ### The end of a Last, and its digests (R318, R517) -/

theorem exec_lastEnd_eq (s : State) : exec .lastEnd s = execLastEnd s := rfl
theorem exec_endingDone_eq (s : State) : exec .endingDone s = execEndingDone s := rfl
theorem exec_digestEmit_eq (s : State) (tile : Nat) : exec (.digestEmit tile) s = execDigestEmit tile s := rfl

/-- What a launch leaves behind is no launch in progress. -/
@[simp] theorem endRun_run (s : State) (r : Run) (x : Result) : (endRun s r x).last.run = none := by simp [endRun]

section
variable {s : State} {r : Run} (hr : s.last.run = some r)
include hr

theorem exec_lastEnd_over (hrun : runState s = .running) (hb : totalBeats s r ≤ r.sched) :
    exec .lastEnd s = .next (setSlot (setRun s (fun y => { y with issuing := false })) r.slot .ending) := by
  simp only [exec_lastEnd_eq, execLastEnd, hr, if_pos (And.intro hrun hb)]

theorem exec_lastEnd_goes_on (hb : r.sched < totalBeats s r) : exec .lastEnd s = .next s := by
  simp only [exec_lastEnd_eq, execLastEnd, hr, if_neg (fun h : runState s = .running ∧ totalBeats s r ≤ r.sched => Nat.not_lt.2 h.2 hb)]

/-- R318: with its last scheduled copy the launch ends: final digests, cleanup, and LAUNCH completes with OK. -/
theorem exec_endingDone_done (hend : runState s = .ending) (hc : schedCopies s = false) :
    exec .endingDone s = .next (endRun (endCleanup (emitDigests s r (totalBeats s r) true)) r {}) := by
  simp only [exec_endingDone_eq, execEndingDone, hr, if_pos (And.intro hend hc)]

theorem exec_endingDone_waits (hc : schedCopies s = true) : exec .endingDone s = .next s := by
  simp only [exec_endingDone_eq, execEndingDone, hr, hc, Bool.true_eq_false, and_false, if_false]

/-- R517: a tile with a BEAT_STREAM emits its digest at the multiples of the interval. -/
theorem exec_digestEmit_due (hrun : runState s = .running) (hd : s.trace.digestEvery ≠ 0) (hb : 0 < r.sched)
    (hm : nowSched s % s.trace.digestEvery = 0) {tile : Nat} (ht : hasStream s r tile = true) :
    exec (.digestEmit tile) s = .next (emitDigest s r tile (nowSched s) false) := by
  simp [exec_digestEmit_eq, execDigestEmit, hr, lastRunning, hrun, hd, hb, hm, ht]

end

/-- Settles O40: a step boundary, a pace point and its application, the two stages of the end, and a digest at its interval. -/
theorem stepsRunAndEnd : Obligations.StepsRunAndEnd := by
  intro s r p x tile mw hr
  refine ⟨fun hd hrun => ⟨_, _, _, _, rfl, rfl, rfl, rfl, exec_stepStart_due hr hd hrun rfl rfl⟩, exec_stepStart_not_due hr,
    fun hrun hi hnew hpoint hd hcap => ⟨_, _, rfl, rfl, exec_pacePoint_within_cap hr hrun hi hnew hpoint hd hcap⟩,
    fun hrun hp ha hx => exec_stretchApply_agreed hr hrun hp ha hx, fun hrun hp ha hx => exec_stretchApply_late hr hrun hp ha hx,
    exec_lastEnd_over hr, fun _ hb => exec_lastEnd_goes_on hr hb,
    fun hend hc => ⟨_, exec_endingDone_done hr hend hc, rfl, endRun_run _ r _⟩, fun _ hc => exec_endingDone_waits hr hc,
    fun hrun hd hb hm ht => exec_digestEmit_due hr hrun hd hb hm ht⟩

end Sys2Proof.Machine

namespace Sys2Proof.Machine

/-! ### Semaphores (R335 to R337) -/

/-- Bytes that hold a number spell it, cut to their width. -/
theorem leNat_leBytes (k n : Nat) : leNat (leBytes k n) = n % 256 ^ k := by
  induction k generalizing n with
  | zero => rw [leBytes, leNat, pow_zero, Nat.mod_one]
  | succ k ih =>
    rw [leBytes, leNat, ih, BitVec.toNat_ofNat, pow_succ' 256 k, Nat.mod_mul]

/-- A read is known byte by byte. -/
theorem Mem.readN_eq {m : Mem} {bs : List Byte} {a : Nat} (h : ∀ x < bs.length, m.read (a + x) = bs.getD x 0) : m.readN a bs.length = bs := by
  induction bs generalizing a with
  | nil => rfl
  | cons b bs ih =>
    have hhead : m.read a = b := h 0 (Nat.succ_pos _)
    have htail : m.readN (a + 1) bs.length = bs := ih fun x hx => by
      rw [Nat.add_assoc, Nat.add_comm 1 x, h (x + 1) (Nat.succ_lt_succ hx), List.getD_cons_succ]
    rw [List.length_cons, Mem.readN, hhead, htail]

section
variable {s : State} {a : Nat}

/-- Eight bytes written where no line is poisoned read back as the word that they spell. -/
theorem hbmWord_hbmWrite (hwf : s.hbm.mem.wf = true) (hp : poisoned s a 8 = false) (n : Nat) :
    hbmWord (hbmWrite s a (leBytes 8 n)) a = word n := by
  have hlen : (leBytes 8 n).length = 8 := leBytes_length 8 n
  have hbytes : (hbmWrite s a (leBytes 8 n)).hbm.mem.readN a (leBytes 8 n).length = leBytes 8 n :=
    Mem.readN_eq fun x hx => read_hbmWrite_stored hwf hx (.inl (poisoned_line_of_range hp (hlen ▸ hx)))
  rw [hlen] at hbytes
  rw [hbmWord, Mem.word, hbytes, leNat_leBytes]
  exact BitVec.eq_of_toNat_eq (Nat.mod_mod _ _)

/-- R335: a semaphore whose line is poisoned takes no addition. -/
theorem semAdd_poisoned {j : Nat} (hp : poisoned s (rget s Reg.semBase + 8 * j) 8 = true) (v : Nat) : semAdd s j v = s :=
  if_pos hp

/-- R335: any other semaphore takes the sum. -/
theorem semAdd_sound {j : Nat} (hp : poisoned s (rget s Reg.semBase + 8 * j) 8 = false) (v : Nat) : semAdd s j v =
    hbmWrite s (rget s Reg.semBase + 8 * j) (leBytes 8 ((hbmWord s (rget s Reg.semBase + 8 * j)).toNat + v)) :=
  if_neg (Bool.eq_false_iff.1 hp)

end

/-- Settles O15: a poisoned line takes nothing, and on any other the addition is a write of the sum's eight bytes. -/
theorem semaphoreAdds : Obligations.SemaphoreAdds := by
  rintro s j v _ rfl
  refine ⟨fun hp => semAdd_poisoned hp v, fun hp hwf => ?_⟩
  rw [semAdd_sound hp]
  exact ⟨congrArg BitVec.toNat (hbmWord_hbmWrite hwf hp _), fun b hb => read_hbmWrite_outside hwf (by rwa [leBytes_length])⟩

end Sys2Proof.Machine

namespace Sys2Proof.Machine

/-! ### A command in flight (R328, R329) -/

/-- A queue with every command in flight changed by `g`. -/
def Queue.mapFlights (g : Flight → Flight) (x : Queue) : Queue := { x with flights := x.flights.map g }

/-- The state with every command in flight of queue `q` changed by `g`. -/
def mapFlights (s : State) (q : Nat) (g : Flight → Flight) : State := modQueue s q (Queue.mapFlights g)

theorem modFlight_eq_mapFlights (s : State) (q id : Nat) (g : Flight → Flight) :
    modFlight s q id g = mapFlights s q (fun y => if y.id = id then g y else y) := rfl

theorem finish'_eq_mapFlights (s : State) (q id : Nat) (r : Result) :
    finish' s q id r = mapFlights s q (fun y => if y.id = id ∧ y.result.isNone then { y with result := some r } else y) := rfl

theorem flightOf_id {s : State} {q id : Nat} {f : Flight} (h : flightOf s q id = some f) : f.id = id := by
  simpa using List.find?_some h

/-- A change that keeps every number finds the command with its number changed. -/
theorem find?_map_of_id {g : Flight → Flight} (hg : ∀ y, (g y).id = y.id) {l : List Flight} {id : Nat} {f : Flight}
    (h : l.find? (fun y => y.id == id) = some f) : (l.map g).find? (fun y => y.id == id) = some (g f) := by
  have hp : (fun y : Flight => y.id == id) ∘ g = fun y => y.id == id := funext fun y => by simp only [Function.comp_apply, hg]
  rw [List.find?_map, hp, h, Option.map_some]

theorem flightOf_mapFlights {s : State} {q id : Nat} {f : Flight} {g : Flight → Flight} (hg : ∀ y, (g y).id = y.id)
    (h : flightOf s q id = some f) : flightOf (mapFlights s q g) q id = some (g f) := by
  have hmapped : ((queueOf s q).mapFlights g).flights.find? (fun y => y.id == id) = some (g f) := find?_map_of_id hg h
  have hnew : (queueOf s q).mapFlights g ≠ {} := fun he => by
    rw [he] at hmapped
    cases hmapped
  exact (congrArg (fun x : Queue => x.flights.find? (fun y => y.id == id)) (tget_tmod_same _ _ _ _ hnew)).trans hmapped

/-- The command that has begun. -/
theorem flightOf_begun {s : State} {q id : Nat} {f : Flight} (h : flightOf s q id = some f) :
    flightOf (begun s q id) q id = some { f with begun := true } := by
  rw [begun, modFlight_eq_mapFlights, flightOf_mapFlights (fun y => by split <;> rfl) h, if_pos (flightOf_id h)]

/-- A command without a result takes the one that it is given. -/
theorem flightOf_finish' {s : State} {q id : Nat} {f : Flight} (h : flightOf s q id = some f) (hr : f.result = none) (r : Result) :
    flightOf (finish' s q id r) q id = some { f with result := some r } := by
  rw [finish'_eq_mapFlights, flightOf_mapFlights (fun y => by split <;> rfl) h, if_pos ⟨flightOf_id h, by rw [hr]; rfl⟩]

theorem tget?_map {α β : Type} (t : Tab α) (g : α → β) (i : Nat) : tget? (t.map (fun x => (x.1, g x.2))) i = (tget? t i).map g := by
  induction t with
  | nil => rfl
  | cons x t ih =>
    obtain ⟨k, v⟩ := x
    simp only [List.map_cons, tget?_cons, ih]
    split <;> rfl

/-- R338: what a write of the `n` bytes at `a` makes of a command in flight, by what its semaphore reads then. -/
def wakeFlight (s : State) (a n : Nat) (f : Flight) : Flight :=
  if f.result.isNone && fld (nth f.words 0) 63 56 == 7 && rget s Reg.semBase + 8 * fld (nth f.words 1) 63 52 < a + n
      && a < rget s Reg.semBase + 8 * fld (nth f.words 1) 63 52 + 8
      && waitMet (fld (nth f.words 1) 51 48) (hbmWord s (rget s Reg.semBase + 8 * fld (nth f.words 1) 63 52)).toNat (nth f.words 2).toNat then
    { f with result := some { value := (hbmWord s (rget s Reg.semBase + 8 * fld (nth f.words 1) 63 52)).toNat } }
  else f

theorem wakeFlight_id (s : State) (a n : Nat) (f : Flight) : (wakeFlight s a n f).id = f.id := by
  unfold wakeFlight
  split <;> rfl

/-- Only a WAIT is woken. -/
theorem wakeFlight_of_ne_wait {f : Flight} (h : fld (nth f.words 0) 63 56 ≠ 7) (s : State) (a n : Nat) : wakeFlight s a n f = f := by
  simp [wakeFlight, h]

theorem wakeWaits_eq (s : State) (a n : Nat) : wakeWaits s a n = { s with queues := { s.queues with
    queues := s.queues.queues.map (fun x => (x.1, x.2.mapFlights (wakeFlight s a n))) } } := rfl

theorem flightOf_wakeWaits {s : State} {q id : Nat} {f : Flight} (h : flightOf s q id = some f) (a n : Nat) :
    flightOf (wakeWaits s a n) q id = some (wakeFlight s a n f) := by
  have hqueue : queueOf (wakeWaits s a n) q = (queueOf s q).mapFlights (wakeFlight s a n) := by
    rw [queueOf, queueOf, tget, tget, wakeWaits_eq, tget?_map]
    cases tget? s.queues.queues q <;> rfl
  rw [flightOf, ← queueOf, hqueue]
  exact find?_map_of_id (wakeFlight_id s a n) h

/-- R338: a write of HBM leaves every command in flight but a WAIT. -/
theorem flightOf_hbmWrite {s : State} {q id : Nat} {f : Flight} (h : flightOf s q id = some f) (hop : fld (nth f.words 0) 63 56 ≠ 7) (a : Nat)
    (bs : List Byte) : flightOf (hbmWrite s a bs) q id = some f := by
  refine (flightOf_wakeWaits (f := f) ?_ a bs.length).trans ?_
  · exact h
  · rw [wakeFlight_of_ne_wait hop]

end Sys2Proof.Machine

namespace Sys2Proof.Machine

/-! ### SIGNAL (R337) -/

theorem exec_signal_eq (s : State) (q id : Nat) : exec (.signal q id) s = execSignal q id s := rfl

/-- R337: what a SIGNAL of the words `ws` leaves in its semaphore, where that held `old`. -/
def signalValue (old : Nat) (ws : List Word) : Nat := if fld (nth ws 1) 51 48 = 0 then old + (nth ws 2).toNat else (nth ws 2).toNat

theorem signalWrite_add {ws : List Word} (h : fld (nth ws 1) 51 48 = 0) (s : State) :
    signalWrite s ws = semAdd s (fld (nth ws 1) 63 52) (nth ws 2).toNat := if_pos h

theorem signalWrite_set {ws : List Word} (h : fld (nth ws 1) 51 48 ≠ 0) (s : State) :
    signalWrite s ws = hbmWrite s (rget s Reg.semBase + 8 * fld (nth ws 1) 63 52) (leBytes 8 (nth ws 2).toNat) := if_neg h

/-- With either SOP a SIGNAL on a sound line is one write of eight bytes. -/
theorem signalWrite_eq {s : State} {ws : List Word} (hp : poisoned s (rget s Reg.semBase + 8 * fld (nth ws 1) 63 52) 8 = false) :
    signalWrite s ws = hbmWrite s (rget s Reg.semBase + 8 * fld (nth ws 1) 63 52)
      (leBytes 8 (signalValue (hbmWord s (rget s Reg.semBase + 8 * fld (nth ws 1) 63 52)).toNat ws)) := by
  unfold signalValue
  split
  · next h => rw [signalWrite_add h, semAdd_sound hp]
  · next h => rw [signalWrite_set h]

section
variable {s : State} {q id : Nat} {f : Flight}

theorem exec_signal_sound (h : Begins s q id 6 f)
    (hp : poisoned (begun s q id) (rget (begun s q id) Reg.semBase + 8 * fld (nth f.words 1) 63 52) 8 = false) :
    exec (.signal q id) s = .next (finish' (signalWrite (begun s q id) f.words) q id {}) := by
  rw [exec_signal_eq, execSignal, runCommand_begins h, if_neg (Bool.eq_false_iff.1 hp)]

end

/-- Settles O60: a SIGNAL is one write of its semaphore's eight bytes, and of the commands in flight a write wakes only WAITs. -/
theorem signalAddsOrSets : Obligations.SignalAddsOrSets := by
  rintro s q id _ f h hwf rfl hp
  refine ⟨_, exec_signal_sound h hp, ?_⟩
  rw [signalWrite_eq (s := begun s q id) hp]
  have hword : ∀ n, hbmWord (finish' (hbmWrite (begun s q id) (rget s Reg.semBase + 8 * fld (nth f.words 1) 63 52) (leBytes 8 n)) q id {})
      (rget s Reg.semBase + 8 * fld (nth f.words 1) 63 52) = word n := fun n => hbmWord_hbmWrite (s := begun s q id) hwf hp n
  refine ⟨fun hadd => ?_, fun hset => ?_, fun b hb => ?_, ?_, rfl⟩
  · refine (congrArg BitVec.toNat (hword _)).trans ?_
    rw [signalValue, if_pos hadd]
    rfl
  · refine (hword _).trans ?_
    rw [signalValue, if_neg hset]
    exact BitVec.ofNat_toNat 64 _
  · exact read_hbmWrite_outside (s := begun s q id) hwf (by rwa [leBytes_length])
  · exact flightOf_finish' (flightOf_hbmWrite (flightOf_begun h.found) (by rw [h.opcode]; decide) _ _) h.unfinished {}

end Sys2Proof.Machine

namespace Sys2Proof.Machine

/-! ### Queue control and doorbells (R325 to R327, R352, R353) -/

theorem exec_queueDoorbell_eq (s : State) (q : Nat) : exec (.queueDoorbell q) s = execQueueDoorbell q s := rfl

theorem exec_queueDrained_eq (s : State) (q : Nat) : exec (.queueDrained q) s = execQueueDrained q s := rfl

/-- R353: the value of queue_ctl that asks for an action on a queue. -/
def queueCtl (action q : Nat) : Nat := action * 2 ^ 24 + q

section
variable {s : State} {via : Via} {q action : Nat}

/-- R353: an action on a queue that the path may name. -/
theorem wQueueCtl_action (h1 : 1 ≤ action) (h3 : action ≤ 3) (hq : q < 512) (hv : q ≠ 511 ∨ ∃ n, via = .mgmt n) :
    wQueueCtl via (queueCtl action q) = (queueAction · action q) := by
  have haction : bits (queueCtl action q) 31 24 = action := by simp only [bits, queueCtl]; omega
  have hqueue : bits (queueCtl action q) 8 0 = q := by simp only [bits, queueCtl]; omega
  have hrsv : bits (queueCtl action q) 23 9 = 0 := by simp only [bits, queueCtl]; omega
  have hnamed : (isMailbox via && q == 511) = false := by
    rcases hv with hne | ⟨n, rfl⟩
    · rw [beq_eq_false_iff_ne.2 hne, Bool.and_false]
    · rfl
  funext s
  simp only [wQueueCtl, haction, hqueue, hrsv, hnamed, Bool.false_eq_true, if_false]
  exact if_neg (by omega)

/-- R353: a mailbox cannot name the ring queue of the management. -/
theorem wQueueCtl_mailbox_management (c : Nat) : wQueueCtl (.mailbox c) (queueCtl action 511) s = refuse s Code.valueRefused := by
  have hqueue : bits (queueCtl action 511) 8 0 = 511 := by simp only [bits, queueCtl]; omega
  simp only [wQueueCtl, hqueue, isMailbox, Bool.true_and, beq_self_eq_true, if_true, ite_self]

theorem queueCtl_mod (hq : q < 512) (action : Nat) : queueCtl action (q % 512) = queueCtl action q := by rw [Nat.mod_eq_of_lt hq]

theorem exec_queueEnable_ctl (hq : q < 512) :
    exec (.queueEnable via q) s = .next (doWrite s via 0x4000 4 (wQueueCtl via (queueCtl 1 q))) := by
  rw [← queueCtl_mod hq, queueCtl, Nat.one_mul]
  rfl

theorem exec_queueDisable_ctl (hq : q < 512) :
    exec (.queueDisable via q) s = .next (doWrite s via 0x4000 4 (wQueueCtl via (queueCtl 2 q))) := by
  rw [← queueCtl_mod hq, queueCtl]
  rfl

theorem exec_queueResume_ctl (hq : q < 512) :
    exec (.queueResume via q) s = .next (doWrite s via 0x4000 4 (wQueueCtl via (queueCtl 3 q))) := by
  rw [← queueCtl_mod hq, queueCtl]
  rfl

section
variable (hq : q < 512) (hn : q ≠ 511 ∨ ∃ n, via = .mgmt n)
include hq hn

theorem exec_queueEnable_named : exec (.queueEnable via q) s = .next (doWrite s via 0x4000 4 (queueAction · 1 q)) := by
  rw [exec_queueEnable_ctl hq, wQueueCtl_action (by decide) (by decide) hq hn]

theorem exec_queueDisable_named : exec (.queueDisable via q) s = .next (doWrite s via 0x4000 4 (queueAction · 2 q)) := by
  rw [exec_queueDisable_ctl hq, wQueueCtl_action (by decide) (by decide) hq hn]

theorem exec_queueResume_named : exec (.queueResume via q) s = .next (doWrite s via 0x4000 4 (queueAction · 3 q)) := by
  rw [exec_queueResume_ctl hq, wQueueCtl_action (by decide) (by decide) hq hn]

end

/-! ### The actions of queue_ctl (R326, R327) -/

theorem queueAction_enable_valid (hb : s.reset'.boot = .ready) (hst : (queueOf s q).state = .disabled) (hv : blockValid s q = true) :
    queueAction s 1 q = accept (setQState s q .idle 0) := by
  simp [queueAction, hb, hst, hv]

theorem queueAction_enable_invalid (hb : s.reset'.boot = .ready) (hst : (queueOf s q).state = .disabled) (hv : blockValid s q = false) :
    queueAction s 1 q = refuse s Code.valueRefused := by
  simp [queueAction, hb, hst, hv]

theorem queueAction_disable_idle (hst : (queueOf s q).state = .idle) :
    queueAction s 2 q = accept (setQState (disableWaits s q) q .disabled 0) := by
  simp [queueAction, hst]

theorem queueAction_resume_empty (hst : (queueOf s q).state = .stopped) (hw : qWaiting s q = 0) :
    queueAction s 3 q = accept (setQState s q .idle 0) := by
  simp [queueAction, hst, hw]

/-! ### Doorbells and the end of a drain (R325, R326, R352) -/

theorem exec_queueDoorbell_inRange (hq : q < 512) : exec (.queueDoorbell q) s = .next (doorbell s q) := by
  rw [exec_queueDoorbell_eq, execQueueDoorbell, if_pos hq]

theorem doorbell_disabled (hst : (queueOf s q).state = .disabled) : doorbell s q = s := by simp [doorbell, hst]

theorem doorbell_idle_overflow (hst : (queueOf s q).state = .idle) (hw : 2 ^ qRingLog s q < qWaiting s q) :
    doorbell s q = setQState s q .stopped Code.queueOverflow := by
  simp [doorbell, stopQueue, hst, hw]

theorem doorbell_idle_starts (hst : (queueOf s q).state = .idle) (hpos : 0 < qWaiting s q) (hw : qWaiting s q ≤ 2 ^ qRingLog s q) :
    doorbell s q = refreshQueue (setQState s q .running 0) q := by
  simp [doorbell, hst, hpos, Nat.not_lt.2 hw]

theorem exec_queueDrained_empty (hst : (queueOf s q).state = .draining) (hf : (queueOf s q).flights = []) :
    exec (.queueDrained q) s = .next (setQState s q .disabled 0) := by
  simp [exec_queueDrained_eq, execQueueDrained, hst, hf]

theorem exec_queueDrained_inFlight (hf : (queueOf s q).flights ≠ []) : exec (.queueDrained q) s = .next s := by
  simp [exec_queueDrained_eq, execQueueDrained, hf]

end

/-- Settles O41: each action of queue_ctl by the state it meets, a doorbell by the state and by how many commands wait, a drain by what is in
flight. -/
theorem queuesMoveBetweenStates : Obligations.QueuesMoveBetweenStates := by
  intro s via q c hq
  refine ⟨fun hw hb hn hst hv => ?_, fun hw hb hst hv => ?_, fun hw => ?_, fun hw hn hst => ?_, fun hw hn hst he => ?_, fun hst => ?_,
    fun hst ho => ?_, fun hst hpos hle => ?_, exec_queueDrained_empty, fun _ => exec_queueDrained_inFlight⟩
  · rw [exec_queueEnable_named hq hn, doWrite_accept hw (queueAction_enable_valid hb hst hv)]
  · have hne : q ≠ 511 := fun h => by
      rw [h] at hv
      cases hv
    rw [exec_queueEnable_named hq (.inl hne), doWrite_valueRefused hw (queueAction_enable_invalid hb hst hv)]
  · rw [exec_queueEnable_ctl (by decide), doWrite_valueRefused hw (wQueueCtl_mailbox_management c)]
  · rw [exec_queueDisable_named hq hn, doWrite_accept hw (queueAction_disable_idle hst)]
  · rw [exec_queueResume_named hq hn, doWrite_accept hw (queueAction_resume_empty hst he)]
  · rw [exec_queueDoorbell_inRange hq, doorbell_disabled hst]
  · rw [exec_queueDoorbell_inRange hq, doorbell_idle_overflow hst ho]
  · rw [exec_queueDoorbell_inRange hq, doorbell_idle_starts hst hpos hle]

end Sys2Proof.Machine

namespace Sys2Proof.Machine

/-! ### The start of commands (R328 to R332, R338, R434, R491) -/

theorem exec_commandStart_eq (s : State) (e : Nat) : exec (.commandStart e) s = execCommandStart e s := rfl
theorem exec_commandComplete_eq (s : State) (q id : Nat) : exec (.commandComplete q id) s = execCommandComplete q id s := rfl
theorem exec_mgmtCommand_eq (s : State) (via : Via) (bs : List Byte) :
    exec (.mgmtCommand via bs) s = .next (doWrite s via 0x4000 7 (wMgmtCommand bs)) := rfl

/-- R372, R491: the engines start commands. -/
structure EngineStarts (s : State) : Prop where
  goes : s.power.stalled = false
  untripped : s.power.tripped = false
  clocked : s.power.clocksOff = false
  settled : rollingBack s = false ∨ s.faults.rollback = .armedReplay

/-- The ring of the package's own commands and the turns of the engines, once engine `e` has taken the front command of queue `q`. -/
def headTaken (r : State) (e q : Nat) : State := { r with queues := { r.queues with
  lastStarted := tput r.queues.lastStarted e q, mgmtRing := if q = 511 then r.queues.mgmtRing.drop 1 else r.queues.mgmtRing } }

/-- R328: the head of the queue moves on. -/
def headMoved (r : State) (e q : Nat) : State :=
  setQWord (headTaken r e q) q 2 (((qHead r q + 1) % 2 ^ 32) * 2 ^ 32 + qCqTail (headTaken r e q) q)

/-- R328: the command is in flight with the result of its first checks, and is counted. -/
def commandFlies (u : State) (q id : Nat) (ws : List Word) : State :=
  rinc (modQueue u q (fun x => { x with flights := x.flights ++ [{
    id := id, words := ws, beat := u.clock.beat.toNat, result := startResult u q ws }] })) Reg.commandsStarted

/-- R328, R434: one without a result takes its place, one with a result is counted where it was denied. -/
def commandPlaced (u : State) (q id : Nat) (ws : List Word) : State :=
  match startResult u q ws with
  | none => takePlace (commandFlies u q id ws) q id ws
  | some y => countDenied (commandFlies u q id ws) y.status

/-- R328, R329: what engine `e` makes of a fetch from the front of the ring of queue `q`. -/
def startFront (e q : Nat) : Except (Nat × Nat) (List Byte) × State → State
  | (.error z, r) => setQState r q .stopped z.1
  | (.ok bs, r) => refreshQueue (treadLog (commandPlaced (headMoved r e q) q (qHead r q) (wordsOf bs 8)) 3
      (ownChip (commandPlaced (headMoved r e q) q (qHead r q) (wordsOf bs 8))) q 0 bs) q

section
variable {s r : State} {e q : Nat}

theorem exec_commandStart_picks (hs : EngineStarts s) (hq : pickQueue s e = some q) :
    exec (.commandStart e) s = .next (startFront e q (fetchHead s q)) := by
  obtain ⟨hgo, htrip, hclk, hset⟩ := hs
  have hworks : (s.power.stalled || s.power.tripped || s.power.clocksOff || (rollingBack s && s.faults.rollback != .armedReplay)) = false := by
    rcases hset with h | h <;> simp [hgo, htrip, hclk, h]
  rw [exec_commandStart_eq, execCommandStart, hworks, if_neg Bool.false_ne_true, hq]
  rfl

theorem exec_commandStart_starts (hs : EngineStarts s) (hq : pickQueue s e = some q) {bs : List Byte} (hf : fetchHead s q = (.ok bs, r)) :
    exec (.commandStart e) s = .next (refreshQueue (treadLog (commandPlaced (headMoved r e q) q (qHead r q) (wordsOf bs 8)) 3
      (ownChip (commandPlaced (headMoved r e q) q (qHead r q) (wordsOf bs 8))) q 0 bs) q) := by
  rw [exec_commandStart_picks hs hq, hf, startFront]

theorem exec_commandStart_stops (hs : EngineStarts s) (hq : pickQueue s e = some q) {z : Nat × Nat} (hf : fetchHead s q = (.error z, r)) :
    exec (.commandStart e) s = .next (setQState r q .stopped z.1) := by
  rw [exec_commandStart_picks hs hq, hf, startFront]

/-- R372: an engine that stalls, has tripped or has no clock starts none. -/
theorem exec_commandStart_halted (h : s.power.stalled = true ∨ s.power.tripped = true ∨ s.power.clocksOff = true) :
    exec (.commandStart e) s = .next s := by
  rw [exec_commandStart_eq, execCommandStart, if_pos (by rcases h with h | h | h <;> simp [h])]

/-- R491: a rollback starts none before it has armed its replay. -/
theorem exec_commandStart_rollingBack (hb : rollingBack s = true) (hr : s.faults.rollback ≠ .armedReplay) : exec (.commandStart e) s = .next s := by
  rw [exec_commandStart_eq, execCommandStart, if_pos (by simp [hb, hr])]

theorem exec_commandStart_idle (hq : pickQueue s e = none) : exec (.commandStart e) s = .next s := by
  rw [exec_commandStart_eq, execCommandStart, hq, ite_self]

/-- R323: the ring of a tenant's queue stands in memory. -/
theorem fetchHead_memory (hq : q ≠ 511) :
    fetchHead s q = engineRead s q ((qWord s q 3).toNat + 64 * (qHead s q % 2 ^ qRingLog s q)) 64 := if_neg hq

/-- R322: the ring of queue 511 is the package's own. -/
theorem fetchHead_management {bs : List Byte} {rest : List (List Byte)} (h : s.queues.mgmtRing = bs :: rest) :
    fetchHead s 511 = (.ok bs, s) := by
  rw [fetchHead, if_pos rfl, h]
  rfl

/-- R338: a WAIT that passes its checks has the result that its condition gives. -/
theorem startResult_wait {ws : List Word} (hc : startChecks q ws = none) (hop : fld (nth ws 0) 63 56 = 7) (hd : q ≠ 511 ∨ sealedMode s = false) :
    startResult s q ws = waitResult s ws := by
  have hopen : ¬ (sealedMode s = true ∧ q = 511 ∧ (7 : Nat) ≠ 0x10 ∧ (7 : Nat) ≠ 0x11 ∧ (7 : Nat) ≠ 5 ∧ (7 : Nat) ≠ 0xA) := by
    rintro ⟨hs, hq, -⟩
    exact hd.elim (absurd hq) (fun h => absurd hs (Bool.eq_false_iff.1 h))
  simp only [startResult, hc, hop, Option.none_or, if_neg hopen, if_true]

/-- R434: what a management command may not ask in SEALED mode. -/
theorem startResult_sealed {ws : List Word} (hc : startChecks 511 ws = none) (hs : sealedMode s = true)
    (hop : fld (nth ws 0) 63 56 ∉ [0x10, 0x11, 5, 0xA]) : startResult s 511 ws = some { status := Code.sealedDenied } := by
  simp only [List.mem_cons, List.not_mem_nil, or_false, not_or] at hop
  rw [startResult, hc, Option.none_or]
  exact if_pos ⟨hs, rfl, hop⟩

end

/-! ### Completion, and commands of the management (R322, R334, R353, R372) -/

section
variable {s : State} {q id : Nat} {f : Flight} {x : Result}

theorem exec_commandComplete_unclocked (hc : s.power.clocksOff = true) : exec (.commandComplete q id) s = .next s := by
  rw [exec_commandComplete_eq, execCommandComplete, clocked_off hc]

/-- A command with its result completes where the completion ring has room. -/
theorem exec_commandComplete_result (hf : flightOf s q id = some f) (hx : f.result = some x) : exec (.commandComplete q id) s
    = .next (clocked s (if 2 ^ qCqLog s q ≤ qRecords s q then s else completeFlight s q f x)) := by
  simp only [exec_commandComplete_eq, execCommandComplete, hf, hx]

theorem exec_commandComplete_room (hc : s.power.clocksOff = false) (hf : flightOf s q id = some f) (hx : f.result = some x)
    (hr : qRecords s q < 2 ^ qCqLog s q) : exec (.commandComplete q id) s = .next (completeFlight s q f x) := by
  rw [exec_commandComplete_result hf hx, clocked_on hc, if_neg (Nat.not_le.2 hr)]

theorem exec_commandComplete_full (hf : flightOf s q id = some f) (hx : f.result = some x) (hr : 2 ^ qCqLog s q ≤ qRecords s q) :
    exec (.commandComplete q id) s = .next s := by
  rw [exec_commandComplete_result hf hx, if_pos hr, clocked_self]

/-- R322: a command joins the ring of queue 511. -/
def joinManagement (s : State) (bs : List Byte) : State := { s with queues := { s.queues with mgmtRing := s.queues.mgmtRing ++ [bs] } }

theorem wMgmtCommand_joins {bs : List Byte} (hl : bs.length = 64) : wMgmtCommand bs s
    = accept (doorbell (setQWord (joinManagement s bs) 511 0 ((qTail (joinManagement s bs) 511 + 1) % 2 ^ 32)) 511) := if_neg (not_not_intro hl)

end

/-- Settles O42: an engine by whether it starts commands, has a queue to serve and reads its ring; a command by its result and the room of its
ring. -/
theorem commandsStartAndComplete : Obligations.CommandsStartAndComplete := by
  intro s r via e q id f x bs z ws
  refine ⟨fun hgo ht hc hb hq hf => ⟨headMoved r e q, commandFlies (headMoved r e q) q (qHead r q) (wordsOf bs 8),
      commandPlaced (headMoved r e q) q (qHead r q) (wordsOf bs 8), rfl, rfl, rfl, exec_commandStart_starts ⟨hgo, ht, hc, hb⟩ hq hf⟩,
    fun hgo ht hc hb hq hf => exec_commandStart_stops ⟨hgo, ht, hc, hb⟩ hq hf, fetchHead_memory, fetchHead_management,
    startResult_wait, startResult_sealed, exec_commandStart_halted, exec_commandStart_rollingBack, exec_commandStart_idle,
    exec_commandComplete_room, exec_commandComplete_full, exec_commandComplete_unclocked, fun hw hl => ⟨joinManagement s bs, rfl, ?_⟩⟩
  rw [exec_mgmtCommand_eq, doWrite_accept hw (wMgmtCommand_joins hl)]

end Sys2Proof.Machine

namespace Sys2Proof.Machine

/-! ### Commands that begin (R119, R189, R328, R333) -/

theorem exec_copy_eq (s : State) (q id : Nat) : exec (.copy q id) s = execCopy q id s := rfl
theorem exec_fill_eq (s : State) (q id : Nat) : exec (.fill q id) s = execFill q id s := rfl
theorem exec_fence_eq (s : State) (q id : Nat) : exec (.fence q id) s = execFence q id s := rfl
theorem exec_wait_eq (s : State) (q id : Nat) : exec (.wait q id) s = execWait q id s := rfl
theorem exec_waitTimeout_eq (s : State) (q id : Nat) : exec (.waitTimeout q id) s = execWaitTimeout q id s := rfl
theorem exec_timestamp_eq (s : State) (q id : Nat) : exec (.timestamp q id) s = execTimestamp q id s := rfl
theorem exec_barrier_eq (s : State) (q id : Nat) : exec (.barrier q id) s = execBarrier q id s := rfl
theorem exec_reduceScalar_eq (s : State) (q id : Nat) : exec (.reduceScalar q id) s = execReduceScalar q id s := rfl

section
variable {s u w : State} {q id : Nat} {f : Flight}

theorem copyCommand_misaligned (ha : (nth f.words 1).toNat % 256 ≠ 0) :
    copyCommand u q id f = finish' u q id { status := Code.alignFault } := if_pos ha

/-- R328: a command whose context is free and waits for it first. -/
theorem copyCommand_starts (ha : (nth f.words 1).toNat % 256 = 0)
    (hfree : ctxOf u (ctxKey false false (fld (nth f.words 2) 63 58) (fld (nth f.words 2) 57 56)) = none)
    (hfirst : (tget [] u.stitch.waiting (4 * fld (nth f.words 2) 63 58 + fld (nth f.words 2) 57 56)).head? = some (q, id))
    (hs : u.power.stalled = false) : copyCommand u q id f = startQueueCopy (takeWaiting u (fld (nth f.words 2) 63 58) (fld (nth f.words 2) 57 56))
      (fld (nth f.words 2) 63 58) (fld (nth f.words 2) 57 56) q id := by
  simp [copyCommand, ha, hfree, hfirst, hs]

theorem exec_copy_begins (h : Begins s q id 3 f) : exec (.copy q id) s = .next (copyCommand (begun s q id) q id f) := by
  rw [exec_copy_eq, execCopy, runCommand_begins h]

theorem exec_fill_begins (h : Begins s q id 4 f) : exec (.fill q id) s = .next (copyCommand (begun s q id) q id f) := by
  rw [exec_fill_eq, execFill, runCommand_begins h]

theorem exec_fence_begins (h : Begins s q id 5 f) :
    exec (.fence q id) s = .next (if fenceMet (begun s q id) q id then finish' (begun s q id) q id {} else begun s q id) := by
  rw [exec_fence_eq, execFence, runCommand_begins h]

/-! ### WAIT and its time (R338) -/

/-- R338: on a sound line the condition of a WAIT is about the value of its semaphore. -/
theorem waitResult_sound {ws : List Word} {v : Nat} (hp : poisoned u (rget u Reg.semBase + 8 * fld (nth ws 1) 63 52) 8 = false)
    (hv : v = (hbmWord u (rget u Reg.semBase + 8 * fld (nth ws 1) 63 52)).toNat) :
    waitResult u ws = if waitMet (fld (nth ws 1) 51 48) v (nth ws 2).toNat then some { value := v } else none := by
  simp only [waitResult, hp, Bool.false_eq_true, if_false, hv]

theorem exec_wait_begins (h : Begins s q id 7 f) :
    exec (.wait q id) s = .next ((waitResult (begun s q id) f.words).elim (begun s q id) (finish' (begun s q id) q id)) := by
  rw [exec_wait_eq, execWait, runCommand_begins h]
  cases waitResult (begun s q id) f.words <;> rfl

theorem exec_waitTimeout_waiting (hf : flightOf s q id = some f) (hr : f.result = none) (hop : fld (nth f.words 0) 63 56 = 7)
    (ht : fld (nth f.words 1) 31 0 ≠ 0) : exec (.waitTimeout q id) s = .next (finish' s q id { status := Code.waitTimeout }) := by
  simp [exec_waitTimeout_eq, execWaitTimeout, hf, hr, hop, ht]

/-! ### TIMESTAMP (R333) -/

theorem exec_timestamp_misaligned (h : Begins s q id 0xA f) (ha : (nth f.words 1).toNat % 8 ≠ 0) :
    exec (.timestamp q id) s = .next (finish' (begun s q id) q id { status := Code.alignFault }) := by
  rw [exec_timestamp_eq, execTimestamp, runCommand_begins h]
  exact congrArg _ (if_pos ha)

theorem exec_timestamp_admitted (h : Begins s q id 0xA f) (ha : (nth f.words 1).toNat % 8 = 0)
    (hm : engineMeter (begun s q id) q id (nth f.words 1).toNat 8 true = (.admitted, w)) :
    exec (.timestamp q id) s = .next (timestampWrite w q id 0) := by
  simp only [exec_timestamp_eq, execTimestamp, runCommand_begins h, if_neg (not_not_intro ha), hm]

/-! ### BARRIER and REDUCE_SCALAR (R341, R350) -/

/-- R350: a BARRIER fails only for its set. -/
theorem laceFails_barrier {ws : List Word} (hop : fld (nth ws 0) 63 56 = 8) : laceFails u ws
    = if !(laceSet u (fld (nth ws 1) 63 58)).enabled then some { status := Code.laceSetInvalid } else none := by
  simp [laceFails, hop]

/-- R341, R350: an operation on values that are aligned and of a type that it takes, on an enabled set. -/
theorem laceFails_value {ws : List Word} (hsrc : (nth ws 2).toNat % ltBytes (fld (nth ws 1) 53 52) = 0)
    (hdst : (nth ws 3).toNat % ltBytes (fld (nth ws 1) 53 52) = 0) (hb : fld (nth ws 1) 57 54 ≠ lopBarrier)
    (ht : lopTakes (fld (nth ws 1) 57 54) (fld (nth ws 1) 53 52) = true) (he : (laceSet u (fld (nth ws 1) 63 58)).enabled = true) :
    laceFails u ws = none := by
  simp [laceFails, hsrc, hdst, hb, ht, he]

theorem laceCommand_fails {act : State → Nat → State} {x : Result} (h : laceFails u f.words = some x) :
    laceCommand u q id f act = finish' u q id x := by
  simp only [laceCommand, h]

theorem laceCommand_opened {act : State → Nat → State} (h : laceFails u f.words = none)
    (ho : (laceOpOf u (fld (nth f.words 1) 63 58) q id).isSome = true) :
    laceCommand u q id f act = act u (fld (nth f.words 1) 63 58) := by
  obtain ⟨o, ho⟩ := Option.isSome_iff_exists.1 ho
  simp only [laceCommand, h, ho]

theorem exec_barrier_begins (h : Begins s q id 8 f) :
    exec (.barrier q id) s = .next (laceCommand (begun s q id) q id f (fun s set => laceSend s set q id 0)) := by
  rw [exec_barrier_eq, execBarrier, runCommand_begins h]

theorem exec_reduceScalar_admitted (h : Begins s q id 9 f) (hl : laceFails (begun s q id) f.words = none)
    (ho : (laceOpOf (begun s q id) (fld (nth f.words 1) 63 58) q id).isSome = true)
    (hm : engineMeter (begun s q id) q id (nth f.words 2).toNat (ltBytes (fld (nth f.words 1) 53 52)) false = (.admitted, w)) :
    exec (.reduceScalar q id) s = .next (laceRead w (fld (nth f.words 1) 63 58) q id 0) := by
  simp only [exec_reduceScalar_eq, execReduceScalar, runCommand_begins h, laceCommand_opened hl ho, hm]

end

/-- Settles O43, command by command: a copy by its alignment and its context, a SIGNAL by its SOP, a WAIT by its condition, a lace command by its
set. (The LOP of its REDUCE_SCALAR clause, 1, is the MIN of R341.) -/
theorem queueCommandsAct : Obligations.QueueCommandsAct := by
  rintro s _ w q id v f rfl
  refine ⟨fun h ha hfree hfirst hs => ?_, fun h ha hfree hfirst hs => ?_, fun h ha => ?_, fun h ha => ?_, fun h hm => ?_, fun h hm => ?_,
    fun h hp hadd => ?_, fun h hp hset => ?_, fun h hp hv => ?_, fun hf _ => exec_waitTimeout_waiting hf, exec_timestamp_admitted,
    exec_timestamp_misaligned, fun h he ho => ?_, fun h he => ?_, fun h hsrc hdst hlop ht he ho hm => ?_⟩
  · rw [exec_copy_begins h, copyCommand_starts ha hfree hfirst hs]
  · rw [exec_fill_begins h, copyCommand_starts ha hfree hfirst hs]
  · rw [exec_copy_begins h, copyCommand_misaligned ha]
  · rw [exec_fill_begins h, copyCommand_misaligned ha]
  · rw [exec_fence_begins h, if_pos hm]
  · rw [exec_fence_begins h, if_neg (Bool.eq_false_iff.1 hm)]
  · rw [exec_signal_sound h hp, signalWrite_add hadd]
  · rw [exec_signal_sound h hp, signalWrite_set hset]
  · rw [exec_wait_begins h, waitResult_sound hp hv]
    split <;> rfl
  · rw [exec_barrier_begins h, laceCommand_opened (by rw [laceFails_barrier h.opcode, he]; rfl) ho]
  · rw [exec_barrier_begins h, laceCommand_fails (by rw [laceFails_barrier h.opcode, he]; rfl)]
  · refine exec_reduceScalar_admitted h (laceFails_value ?_ ?_ ?_ ?_ he) ho ?_
    · rwa [ht]
    · rwa [ht]
    · rw [hlop]
      decide
    · rw [hlop, ht]
      rfl
    · rwa [ht]

end Sys2Proof.Machine

namespace Sys2Proof.Machine

/-! ### The Lace unit (R340, R343, R350) -/

theorem exec_lacePacket_eq (s : State) (p : Packet) : exec (.lacePacket p) s = execLacePacket p s := rfl
theorem exec_laceTimeout_eq (s : State) (set : Nat) : exec (.laceTimeout set) s = execLaceTimeout set s := rfl
theorem exec_laceTakeover_eq (s : State) : exec .laceTakeover s = execLaceTakeover s := rfl

section
variable {s : State} {via : Via} {set : Nat}

/-- R350: a lace packet that is sound goes to the Lace unit, which counts what it neither takes nor holds. -/
theorem exec_lacePacket_sound {p : Packet} (hk : p.kind = kLace) (hw : p.wellFormed = true) : exec (.lacePacket p) s
    = .next ((laceReceive s (wordsOf p.payload 8) true).getD (rinc s (Reg.laceDrops (lmSet (wordsOf p.payload 8))))) := by
  simp [exec_lacePacket_eq, execLacePacket, hk, hw]

theorem laceReceive_disabled {m : List Word} (he : (laceSet s (lmSet m)).enabled = false) (log : Bool) : laceReceive s m log = none := by
  simp [laceReceive, he]

/-- R350: a message that the Lace unit looks at: a VALUE from another member, for a set that is enabled. -/
structure LaceAddressed (s : State) (m : List Word) : Prop where
  enabled : (laceSet s (lmSet m)).enabled = true
  member : (laceMembers (laceSet s (lmSet m))).contains (lmSrc m) = true
  foreign : lmSrc m ≠ ownChip s
  value : lmKind m = 0

theorem laceReceive_taken {m : List Word} {o : LaceOp} (h : LaceAddressed s m)
    (ho : (laceSet s (lmSet m)).ops.find? (fun o => o.seq == lmSeq m) = some o)
    (hn : o.held.any (fun h => h.1 == lmSrc m) = false) : laceReceive s m true
      = some (laceTake (logLace s (lmSrc m) m) (lmSet m) o (lmSrc m) (lmLop m) (lmType m) (nth m 1).toNat) := by
  obtain ⟨he, hm, hf, hv⟩ := h
  have hlooks : ¬ ((!(laceSet s (lmSet m)).enabled) = true ∨ (!(laceMembers (laceSet s (lmSet m))).contains (lmSrc m)) = true
      ∨ lmSrc m = ownChip s ∨ lmKind m ≠ 0) := by
    rw [he, hm]
    rintro (h | h | h | h)
    · cases h
    · cases h
    · exact hf h
    · exact h hv
  simp only [laceReceive, if_neg hlooks, ho, hn, Bool.false_eq_true, if_false, if_true]

theorem exec_laceTimeout_oldest {o : LaceOp} {os : List LaceOp} (h : (laceSet s set).ops = o :: os) :
    exec (.laceTimeout set) s = .next (laceEnd s set o.queue o.id { status := Code.laceTimeout }) := by
  rw [exec_laceTimeout_eq, execLaceTimeout, h]

theorem exec_laceTakeover_first (h : s.queues.laceDie = 0) :
    exec .laceTakeover s = .next (rinc { s with queues := { s.queues with laceDie := 1 } } Reg.laceTakeovers) := congrArg _ (if_pos h)

theorem exec_laceTakeover_done (h : s.queues.laceDie ≠ 0) : exec .laceTakeover s = .next s := congrArg _ (if_neg h)

/-! ### Enabling a set (R340, R354) -/

theorem exec_laceEnable_mod (s : State) (via : Via) (set v : Nat) :
    exec (.laceEnable via set v) s = .next (doWrite s via (0x4040 + set % 64) 1 (wLaceEnable (set % 64) v)) := rfl

theorem exec_laceEnable_inRange (hs : set < 64) (v : Nat) :
    exec (.laceEnable via set v) s = .next (doWrite s via (0x4040 + set) 1 (wLaceEnable set v)) := by
  rw [exec_laceEnable_mod, Nat.mod_eq_of_lt hs]

theorem wLaceEnable_valid (hv : laceSetValid s (laceSet s set) = true) :
    wLaceEnable set 1 s = accept (setLaceSet s set (fun y => { y with enabled := true })) := by
  simp [wLaceEnable, hv]

theorem wLaceEnable_invalid (hv : laceSetValid s (laceSet s set) = false) : wLaceEnable set 1 s = refuse s Code.valueRefused := by
  simp [wLaceEnable, hv]

theorem wLaceEnable_off (ho : laceOutstanding s set = false) (hp : isPaceSet s set = false) :
    wLaceEnable set 0 s = accept (setLaceSet s set (fun y => { y with enabled := false })) := by
  simp [wLaceEnable, ho, hp]

end

/-! ### Messages of the scheduled operations (R298, R347) -/

theorem exec_laceMessageReceived_eq (s : State) (e k pos sb : Nat) (m : List Word) :
    exec (.laceMessageReceived e k pos sb m) s = .next (onLaceMessage s e k pos sb m) := rfl

/-- R347: the scheduled operation that a message sent in schedule beat `sb` is for. -/
def messageFor (sb : Nat) (m : List Word) (o : SchedLace) : Bool :=
  o.set == lmSet m && o.seq == lmSeq m && o.lop == lmLop m && o.ltype == lmType m && decide (o.issued < sb)

/-- R347: what a message brings to an operation that does not hold it yet. -/
def laceNews (s : State) (c : SchedLace) (m : List Word) : List (Nat × Nat) :=
  (laceBrings s (laceSet s c.set) m).filter (fun b => !c.held.any (fun h => h.1 == b.1))

section
variable {s : State} {r : Run} {e k pos sb : Nat} {m : List Word}

theorem onLaceMessage_noLast (hr : s.last.run = none) : onLaceMessage s e k pos sb m = rinc s ((Reg.uncorrectableBlocks e).at k) := by
  rw [onLaceMessage, hr]

theorem onLaceMessage_uncovered (hr : s.last.run = some r) (hx : laceRunAt s r e k pos sb = none) :
    onLaceMessage s e k pos sb m = rinc s ((Reg.uncorrectableBlocks e).at k) := by
  simp only [onLaceMessage, hr, hx, Option.isNone_none, if_true]

theorem onLaceMessage_brings (hr : s.last.run = some r) (hx : (laceRunAt s r e k pos sb).isSome = true) {c : SchedLace}
    (hc : r.laceOps.find? (messageFor sb m) = some c) : onLaceMessage s e k pos sb m
      = schedLaceCheck (modSchedLace s c (fun p => { p with held := p.held ++ laceNews s c m })) r { c with held := c.held ++ laceNews s c m } := by
  have hcovered : ¬ (laceRunAt s r e k pos sb).isNone = true := by simpa [Option.isSome_iff_ne_none] using hx
  unfold messageFor at hc
  simp only [onLaceMessage, hr, if_neg hcovered, hc]
  rfl

theorem onLaceMessage_unissued (hr : s.last.run = some r) (hx : (laceRunAt s r e k pos sb).isSome = true)
    (hc : r.laceOps.find? (messageFor sb m) = none) :
    onLaceMessage s e k pos sb m = stepFault s 0 10 0 (lanePartner (lane s e k)) (lmSeq m) false := by
  have hcovered : ¬ (laceRunAt s r e k pos sb).isNone = true := by simpa [Option.isSome_iff_ne_none] using hx
  unfold messageFor at hc
  simp only [onLaceMessage, hr, if_neg hcovered, hc]

end

/-! ### Bulk mode (R351, R372) -/

theorem exec_bulkCopy_eq (s : State) (src len dst : Nat) (remote : Bool) :
    exec (.bulkCopy src remote len dst) s = .next (clocked s (startBulk s { src := src, len := len, dst := dst } remote)) := rfl

theorem exec_bulkDigest_eq (s : State) (src len dst : Nat) (remote : Bool) : exec (.bulkDigest src remote len dst) s
    = .next (clocked s (startBulk s { digest := true, src := src, len := len, dst := dst % 64 } remote)) := rfl

section
variable {s : State} {b : Bulk}

theorem startBulk_armed (h : lastArmed s = true) (remote : Bool) : startBulk s b remote = s := by
  simp [startBulk, h]

/-- R351: a request of whole chunks that finds no Last and no other request. -/
structure BulkStarts (s : State) (b : Bulk) : Prop where
  unarmed : lastArmed s = false
  free : s.queues.bulk = none
  nonempty : 0 < b.len
  chunked : b.len % 65536 = 0

/-- R351: a source that bulk mode can read. -/
structure BulkSource (s : State) (b : Bulk) : Prop where
  placed : physRange b.src b.len = true
  clean : b.src < hbmBytes → poisoned s b.src b.len = false

theorem startBulk_local (h : BulkStarts s b) (hs : BulkSource s b) (hd : b.digest = true ∨ physRange b.dst b.len = true) :
    startBulk s b false = bulkRun s b false := by
  obtain ⟨ha, hf, hn, hc⟩ := h
  obtain ⟨hp, hclean⟩ := hs
  have hstarts : (lastArmed s || s.queues.bulk.isSome || decide (b.len = 0) || b.len % chunkBytes != 0) = false := by
    simp [ha, hf, Nat.ne_of_gt hn, chunkBytes, hc]
  have htarget : (!b.digest && !physRange b.dst b.len) = false := by rcases hd with h | h <;> simp [h]
  have hsound : (decide (b.src < hbmBytes) && poisoned s b.src b.len) = false := by
    rw [Bool.and_eq_false_iff, decide_eq_false_iff_not]
    exact (em (b.src < hbmBytes)).symm.imp id hclean
  simp only [startBulk, hstarts, htarget, hp, hsound, Bool.not_true, Bool.false_eq_true, if_false]

end

/-- Settles O44: a packet by its set and its sender, a set by whether it is valid and at work, a message by its run and its operation, bulk mode by
its clocks, the Last and its ranges. -/
theorem laceSetsServe : Obligations.LaceSetsServe := by
  rintro s via p _ e k pos sb src len dst o os _ r c rfl rfl hset
  refine ⟨fun hk hw he => ?_, fun hk hw he hm hf hv ho hn => ?_, exec_laceTimeout_oldest, exec_laceTakeover_first, exec_laceTakeover_done,
    fun hw hv => ?_, fun hw hv => ?_, fun hw ho hp => ?_, fun hr => congrArg _ (onLaceMessage_noLast hr),
    fun hr hx => congrArg _ (onLaceMessage_uncovered hr hx), fun hr hx hc => congrArg _ (onLaceMessage_brings hr hx hc),
    fun hr hx hc => congrArg _ (onLaceMessage_unissued hr hx hc), fun hc => ⟨?_, ?_⟩, fun hc ha hf hn hl hd hs hp => ?_, fun ha => ⟨?_, ?_⟩,
    fun hc ha hf hn hl hs hp => ?_⟩
  · rw [exec_lacePacket_sound hk hw, laceReceive_disabled he, Option.getD_none]
  · rw [exec_lacePacket_sound hk hw, laceReceive_taken ⟨he, hm, hf, hv⟩ ho hn, Option.getD_some]
  · rw [exec_laceEnable_inRange hset, doWrite_accept hw (wLaceEnable_valid hv)]
  · rw [exec_laceEnable_inRange hset, doWrite_valueRefused hw (wLaceEnable_invalid hv)]
  · rw [exec_laceEnable_inRange hset, doWrite_accept hw (wLaceEnable_off ho hp)]
  · rw [exec_bulkCopy_eq, clocked_off hc]
  · rw [exec_bulkDigest_eq, clocked_off hc]
  · rw [exec_bulkCopy_eq, clocked_on hc, startBulk_local ⟨ha, hf, hn, hl⟩ ⟨hs, hp⟩ (.inr hd)]
  · rw [exec_bulkCopy_eq, startBulk_armed ha, clocked_self]
  · rw [exec_bulkDigest_eq, startBulk_armed ha, clocked_self]
  · rw [exec_bulkDigest_eq, clocked_on hc, startBulk_local ⟨ha, hf, hn, hl⟩ ⟨hs, hp⟩ (.inl rfl)]

end Sys2Proof.Machine

namespace Sys2Proof.Machine

/-! ### A step: the command at the front of the queue (00_scope.md) -/

/-- A step with a command at the front of the queue runs it on the state with the rest of the queue. -/
theorem step_cons {s : State} {c : Instr} {cs : List Instr} (h : s.pending = c :: cs) : step s = exec c { s with pending := cs } := by
  simp only [step, h]

/-- A step on an empty queue idles. -/
theorem step_nil {s : State} (h : s.pending = []) : step s = .next s := by
  simp only [step, h]

/-- HBM and the registers do not depend on the queue. -/
theorem inv_pending {s : State} {cs : List Instr} (h : s.Inv) : State.Inv { s with pending := cs } := h

/-- Settles O1, by the two forms of the queue. -/
theorem stepRunsFrontCommand : Obligations.StepRunsFrontCommand :=
  ⟨fun _ _ _ h => step_cons h, fun _ h => step_nil h⟩

/-- An outcome that is a next state. -/
def Answers (o : Host.Outcome State Fault Refusal) : Prop := ∃ t, o = .next t

theorem answers_next (t : State) : Answers (.next t) := ⟨t, rfl⟩

theorem answers_ite {p : Prop} [Decidable p] {o o' : Host.Outcome State Fault Refusal} (h : Answers o) (h' : Answers o') : Answers (if p then o else o') := by
  split
  · exact h
  · exact h'

theorem answers_execBeatTick (s : State) : Answers (execBeatTick s) :=
  answers_ite (answers_next _) (answers_next _)

theorem answers_execTileZeroiseDone (phys : Nat) (ok : Bool) (cycles : Nat) (s : State) : Answers (execTileZeroiseDone phys ok cycles s) :=
  answers_ite (answers_next _) (answers_next _)

theorem answers_execPatrolScrubRead (n position : Nat) (newer : Bool) (s : State) : Answers (execPatrolScrubRead n position newer s) :=
  answers_ite (answers_next _) (answers_next _)

theorem answers_execLaserInputLost (die input : Nat) (s : State) : Answers (execLaserInputLost die input s) :=
  answers_ite (answers_next _) (answers_next _)

theorem answers_execFitSolve (eyelet lane : Nat) (mod flt : RingSweep) (s : State) : Answers (execFitSolve eyelet lane mod flt s) := by
  unfold execFitSolve
  split
  · exact answers_next _
  · exact answers_ite (answers_next _) (answers_next _)

theorem answers_execFitCheckEnd (eyelet lane : Nat) (ok : Bool) (d : Int) (s : State) : Answers (execFitCheckEnd eyelet lane ok d s) := by
  unfold execFitCheckEnd
  split
  · exact answers_next _
  · exact answers_ite (answers_next _) (answers_next _)

theorem answers_execFitPassEnd (eyelet lane : Nat) (s : State) : Answers (execFitPassEnd eyelet lane s) := by
  unfold execFitPassEnd
  split
  · exact answers_next _
  · exact answers_ite (answers_next _) (answers_next _)

theorem answers_execFullSearchDone (eyelet : Nat) (found : List (List (Nat × Nat))) (s : State) : Answers (execFullSearchDone eyelet found s) :=
  answers_ite (answers_next _) (answers_next _)

/-- Settles O2, command by command: what a command means is a next state, in the form of its definition or in each branch of it. -/
theorem everyCommandAnswers : Obligations.EveryCommandAnswers := by
  intro c s
  cases c with
  | beatTick => exact answers_execBeatTick s
  | tileZeroiseDone phys ok cycles => exact answers_execTileZeroiseDone phys ok cycles s
  | patrolScrubRead n position newer => exact answers_execPatrolScrubRead n position newer s
  | laserInputLost die input => exact answers_execLaserInputLost die input s
  | fitSolve eyelet lane mod flt => exact answers_execFitSolve eyelet lane mod flt s
  | fitCheckEnd eyelet lane ok d => exact answers_execFitCheckEnd eyelet lane ok d s
  | fitPassEnd eyelet lane => exact answers_execFitPassEnd eyelet lane s
  | fullSearchDone eyelet found => exact answers_execFullSearchDone eyelet found s
  | _ => exact ⟨_, rfl⟩

/-- Settles O3, by the two forms of the queue: the idle step leaves the state, and a command keeps what every operation keeps. -/
theorem stepKeepsInvariant : Obligations.StepKeepsInvariant := by
  intro s t hinv hstep
  match hq : s.pending with
  | [] =>
    obtain rfl : s = t := Host.Outcome.next.inj ((step_nil hq).symm.trans hstep)
    exact hinv
  | c :: cs => exact (keeps_of_exec ((step_cons hq).symm.trans hstep)).inv (inv_pending hinv)

/-- Settles O4: reset lists no byte of HBM and no register. -/
theorem resetMeetsInvariant : Obligations.ResetMeetsInvariant := ⟨rfl, rfl⟩

/-- Settles O5: the step is its command, and a command is sound. -/
theorem stepIsSound : Obligations.StepIsSound :=
  fun _ _ _ _ hq hstep => (keeps_of_exec ((step_cons hq).symm.trans hstep)).sound

/-- Settles O7, from what a register reads under its own key and under another. -/
theorem registerReadsBack : Obligations.RegisterReadsBack :=
  fun s r _ v hinv => ⟨rget_rset s r v hinv.2, fun hkey => rget_rset_ne hkey s v⟩

end Sys2Proof.Machine

namespace Sys2Proof.Machine

/-! ### Taps and the returns of columns (R356 to R360) -/

theorem exec_senseSample_eq (s : State) (x : Sample) : exec (.senseSample x) s
    = .next (((List.range 9).zip x.rails).foldl (fun s (p : Nat × Nat) => rset s (Reg.railStatus.at p.1) (railCode p.1 p.2))
        (setPower (((List.range dieCount).zip x.taps).foldl (fun s (p : Nat × BitVec 16) => sampleTap s p.1 p.2) s) (fun p => { p with
          activity := [], inHist := (x.inputMv * x.inputMa :: p.inHist).take 100, paceSum := p.paceSum + x.inputMv * x.inputMa
          paceCount := p.paceCount + 1, curHist := (x.inputMa :: p.curHist).take 100, coreHist := (x.coreMa :: p.coreHist).take 100
          railHist := (x.rails :: p.railHist).take 100 }))) := rfl
theorem exec_returnCheck_eq (s : State) : exec .returnCheck s = execReturnCheck s := rfl

section
variable {s : State} {d c : Nat}

theorem exec_senseOpen_third (ho : (tap s d).isOpen = false) (h3 : 3 ≤ (tap s d).openRun) : exec (.senseOpen d) s
    = .next (rinc (notice (setTap s d (fun t => { t with isOpen := true, validRun := 0 })) Code.senseOpen 7 d 0) (Reg.senseEvents.at 0)) :=
  congrArg _ (if_neg (by simp [ho, Nat.not_lt.2 h3]))

theorem exec_senseOpen_again (ho : (tap s d).isOpen = true) : exec (.senseOpen d) s = .next s := congrArg _ (if_pos (.inl ho))

theorem exec_senseOpen_early (h3 : (tap s d).openRun < 3) : exec (.senseOpen d) s = .next s := congrArg _ (if_pos (.inr h3))

theorem setPower_columns_nil (s : State) : (setPower s (fun p => { p with columns := [] })).power.columns = [] := by rw [setPower_power]

/-- R360: what every check leaves: the averages, how long the returns have been in or out of bounds, and the offsets of broken columns anew. -/
def returnsChecked (s : State) : State :=
  setPower (keepAverages (publishPower s) (returnsNow s) (returnsNow s).inBounds) (fun p => { p with
    outRun := if (returnsNow s).inBounds then 0 else s.power.outRun + 1
    inRun := if (returnsNow s).inBounds then s.power.inRun + 1 else 0
    columns := p.columns.map (fun c => (c.1, if c.2.broken then { c.2 with offset := (returnsNow s).off c.1 } else c.2)) })

/-- R360: a column that the check has found broken, with its offset. -/
def columnBroken (s : State) (c : Nat) : State :=
  setPower (returnsChecked s) (fun p => { p with columns := tput p.columns c { broken := true, offset := (returnsNow s).off c } })

theorem exec_returnCheck_inBounds (hb : (returnsNow s).inBounds = true) (hn : s.power.inRun + 1 < 1000) : exec .returnCheck s = .next (returnsChecked s) := by
  simp only [exec_returnCheck_eq, execReturnCheck, hb, if_true, if_neg (Nat.not_le.2 hn), returnsChecked]

theorem exec_returnCheck_clears (hb : (returnsNow s).inBounds = true) (hn : 999 ≤ s.power.inRun) : exec .returnCheck s
    = .next (setPower (returnsChecked s) (fun p => { p with columns := [] })) := by
  have hlong : 1000 ≤ s.power.inRun + 1 := by omega
  simp only [exec_returnCheck_eq, execReturnCheck, hb, if_true, if_pos hlong, returnsChecked]

theorem returnsChecked_outRun (hb : (returnsNow s).inBounds = true) : (returnsChecked s).power.outRun = 0 := by
  simp only [returnsChecked, setPower_power, hb, if_true]

theorem columnsForgotten_outRun (hb : (returnsNow s).inBounds = true) :
    (setPower (returnsChecked s) (fun p => { p with columns := [] })).power.outRun = 0 := by
  rw [setPower_power]
  exact returnsChecked_outRun (s := s) hb

theorem exec_returnCheck_breaks (hb : (returnsNow s).inBounds = false) (hn : 9 ≤ s.power.outRun) (hc : returnCandidates s (returnsNow s) = [c])
    (hw : (column s c).broken = false) : exec .returnCheck s
      = .next (rinc (notice (columnBroken s c) Code.returnBroken 7 (8 * c) c) (Reg.senseEvents.at 1)) := by
  have hlong : ¬ s.power.outRun + 1 < 10 := by omega
  simp only [exec_returnCheck_eq, execReturnCheck, hb, Bool.false_eq_true, if_false, hc, if_neg hlong, hw, columnBroken, returnsChecked]

theorem exec_returnCheck_mismatch (hb : (returnsNow s).inBounds = false) (hc : ∀ c, returnCandidates s (returnsNow s) ≠ [c]) : exec .returnCheck s
    = .next (rinc (notice (returnsChecked s) Code.senseMismatch 0 0 0) (Reg.senseEvents.at 2)) := by
  simp only [exec_returnCheck_eq, execReturnCheck, hb, Bool.false_eq_true, if_false, returnsChecked]

/-! ### Dead dies (R361) -/

theorem exec_dieDead_eq (s : State) (d : Nat) : exec (.dieDead d) s = execDieDead d s := rfl

theorem exec_dieDead_lives (h : (tap s d).dead = true ∨ weltsDown s d = false) : exec (.dieDead d) s = .next s := congrArg _ (if_pos (.inr h))

theorem dieFound (hd : d < dieCount) (hl : (tap s d).dead = false) (hw : weltsDown s d = true) :
    ¬ (dieCount ≤ d ∨ (tap s d).dead = true ∨ weltsDown s d = false) := by
  simp [Nat.not_le.2 hd, hl, hw]

theorem exec_dieDead_tile (ht : d < 72) (hl : (tap s d).dead = false) (hw : weltsDown s d = true) (hu : dieUsed s d = false) : exec (.dieDead d) s
    = .next (setHealth (notice (setTap s d (fun t => { t with dead := true })) Code.dieDead 7 d 0) d .failed) := by
  have hd : d < dieCount := Nat.lt_trans ht (by decide)
  simp only [exec_dieDead_eq, execDieDead, if_neg (dieFound hd hl hw), hu, if_pos ht, Bool.false_eq_true, if_false]

theorem exec_dieDead_other {t : State} (ht : 72 ≤ d) (hd : d < dieCount) (hl : (tap s d).dead = false) (hw : weltsDown s d = true) (hu : dieUsed s d = false)
    (he : t = notice (setTap s d (fun t => { t with dead := true })) Code.dieDead 7 d 0) : exec (.dieDead d) s
      = .next (flashCommit { t with reset' := { t.reset' with marks := { t.reset'.marks with dieDead := true } } } .marks) := by
  subst he
  simp only [exec_dieDead_eq, execDieDead, if_neg (dieFound hd hl hw), hu, if_neg (Nat.not_lt.2 ht), Bool.false_eq_true, if_false]

/-! ### The thermal model's inputs (R364, R365) -/

/-- R364: what the plate is above, for one step of the model. -/
def plateNow (s : State) : Frac :=
  fadd (fadd (Frac.ofInt (coolantNow s)) s.power.plateBias) (frac (s.power.inHist.headD 0 * rget s Reg.plateRiseUkPerW) 1000000000)

/-- R364, R365: the state a step of the model leaves. -/
def modelStepped (s : State) : State :=
  { s with
    optics := { s.optics with ages := s.optics.ages.map (fun a => (a.1, a.2 + 1)) }
    power := { s.power with coolantSteps := s.power.coolantSteps + 1, temps := (List.range dieCount).map (fun i => (i, stepNode s (plateNow s) i)) } }

theorem exec_modelStep_eq (s : State) : exec .modelStep s = .next (modelStepped s) := rfl

theorem exec_coolantWrite_eq (s : State) (via : Via) (mc : Int) : exec (.coolantWrite via mc) s = .next (doWrite s via 0x1300 1 (wCoolant mc)) := rfl

theorem wCoolant_inRange {mc : Int} (h0 : 0 ≤ mc) (h1 : mc ≤ 70000) : wCoolant mc s
    = accept (setPower (rsetI s Reg.coolantInletTemp mc) (fun p => { p with coolantSteps := 0, coolantStale := false })) := if_neg (by omega)

theorem wCoolant_outOfRange {mc : Int} (h : mc < 0 ∨ 70000 < mc) : wCoolant mc s = (Code.valueRefused, s) := if_pos h

theorem exec_coolantStale_first (h : s.power.coolantStale = false) : exec .coolantStale s
    = .next (rinc (notice (setPower s (fun p => { p with coolantStale := true })) Code.coolantStale 0 0 0) Reg.coolantStaleEvents) :=
  congrArg _ (if_neg (by simp [h]))

theorem exec_coolantStale_again (h : s.power.coolantStale = true) : exec .coolantStale s = .next s := congrArg _ (if_pos h)

/-! ### Heartbeats (R388, R391) -/

/-- R391: the heartbeat of a die through one of its ports. -/
def heartbeatPort (d : Nat) (s : State) (p : Nat) : State :=
  if (welt s d p).state != .up then s else weltSend s d p { vc := 7, head := true, tail := true, valid := true }

theorem exec_heartbeat_eq (s : State) (d : Nat) : exec (.heartbeat d) s = .next ((weltPorts d).foldl (heartbeatPort d) s) := rfl

theorem heartbeatPort_up {p : Nat} (h : (welt s d p).state = .up) :
    heartbeatPort d s p = weltSend s d p { vc := 7, head := true, tail := true, valid := true } := if_neg (by simp [h])

theorem heartbeatPort_silent {p : Nat} (h : (welt s d p).state ≠ .up) : heartbeatPort d s p = s := if_pos (by simpa using h)

theorem weltPorts_nodup (d : Nat) : (weltPorts d).Nodup := by
  unfold weltPorts
  split_ifs <;> decide

/-- A flit sent through a port leaves the other ports of its die. -/
theorem welt_weltSend_other {p q : Nat} (h : q ≠ p) (s : State) (x : WeltLoad) : welt (weltSend s d p x) d q = welt s d q := by
  have hkey : 16 * d + q ≠ 16 * d + p := by omega
  simp only [weltSend, welt, emit, setWelt]
  exact tget_tmod_other _ _ _ hkey

/-- A fold in which one element alone acts is that element's act. -/
theorem foldl_single {α β : Type} {f : β → α → β} {l : List α} {a : α} {b : β} (ha : a ∈ l) (hn : l.Nodup) (hb : ∀ x ∈ l, x ≠ a → f b x = b)
    (hc : ∀ x ∈ l, x ≠ a → f (f b a) x = f b a) : l.foldl f b = f b a := by
  obtain ⟨l₁, l₂, rfl⟩ := List.append_of_mem ha
  obtain ⟨hbefore, hafter⟩ := List.nodup_middle.1 hn |> List.nodup_cons.1 |>.1 |> fun h => (⟨fun hx => h (List.mem_append_left _ hx), fun hx => h (List.mem_append_right _ hx)⟩ : a ∉ l₁ ∧ a ∉ l₂)
  rw [List.foldl_append, List.foldl_cons, foldl_fixed_of_mem (l := l₁) fun x hx => hb x (by simp [hx]) (fun e => hbefore (e ▸ hx))]
  exact foldl_fixed_of_mem fun x hx => hc x (by simp [hx]) (fun e => hafter (e ▸ hx))

theorem exec_heartbeat_single {p : Nat} (hp : p ∈ weltPorts d) (ho : ∀ y ∈ weltPorts d, y ≠ p → (welt s d y).state ≠ .up) (hu : (welt s d p).state = .up) :
    exec (.heartbeat d) s = .next (weltSend s d p { vc := 7, head := true, tail := true, valid := true }) := by
  rw [exec_heartbeat_eq, foldl_single hp (weltPorts_nodup d) (fun y hy hne => heartbeatPort_silent (ho y hy hne)), heartbeatPort_up hu]
  rw [heartbeatPort_up hu]
  exact fun y hy hne => heartbeatPort_silent (by rw [welt_weltSend_other hne]; exact ho y hy hne)

theorem exec_heartbeat_none (h : ∀ y ∈ weltPorts d, (welt s d y).state ≠ .up) : exec (.heartbeat d) s = .next s := by
  rw [exec_heartbeat_eq, foldl_fixed_of_mem fun y hy => heartbeatPort_silent (h y hy)]

end

/-- Settles O46: a tap by its codes in a row, a check by its bounds and its candidates, a die by its welts, a value by its range, and a heartbeat by the
ports that are UP. -/
theorem sensesAndDies : Obligations.SensesAndDies := by
  intro s via x d c p mc
  refine ⟨⟨_, rfl, exec_senseSample_eq s x⟩, fun ho h3 => ⟨_, rfl, exec_senseOpen_third ho h3⟩, exec_senseOpen_again, exec_senseOpen_early, fun hb hn => ?_,
    fun hb hn => ⟨_, exec_returnCheck_clears hb hn, setPower_columns_nil _, columnsForgotten_outRun hb⟩, fun hb hn hc hw => ⟨_, exec_returnCheck_breaks hb hn hc hw, ?_⟩,
    fun hb hc => ⟨_, exec_returnCheck_mismatch hb hc⟩, fun ht hd hl hw hu => ⟨_, rfl, exec_dieDead_other ht hd hl hw hu rfl⟩,
    fun ht hl hw hu => exec_dieDead_tile ht hl hw hu, exec_dieDead_lives, ⟨modelStepped s, plateNow s, exec_modelStep_eq s, rfl, rfl, rfl⟩, fun hw h0 h1 => ?_, fun hw h => ?_,
    exec_coolantStale_first, exec_coolantStale_again, exec_heartbeat_single, exec_heartbeat_none⟩
  · rw [exec_returnCheck_inBounds hb hn]
    simp only [returnsChecked, hb, if_true]
  · simp only [columnBroken, setPower_power, tget_tput, if_true]
  · rw [exec_coolantWrite_eq, doWrite_accept hw (wCoolant_inRange h0 h1)]
  · rw [exec_coolantWrite_eq, doWrite_valueRefused hw (wCoolant_outOfRange h)]

end Sys2Proof.Machine

namespace Sys2Proof.Machine

/-! ### Thermal evaluation and release (R368, R369, R372) -/

theorem exec_thermalEval_eq (s : State) (ds : List (Nat × Int)) : exec (.thermalEval ds) s = execThermalEval ds s := rfl

theorem exec_thermalRelease_eq (s : State) (via : Via) (v : Nat) :
    exec (.thermalRelease via v) s = .next (doWrite s via 0x1300 0xE (wThermalRelease v)) := rfl

/-- R366: the model with the rings' and the diodes' corrections. -/
def evalCorrected (s : State) (ds : List (Nat × Int)) : State :=
  ds.foldl (fun s x => correctDiode s x.1 x.2) (setPower (s.power.tStars.foldl (fun s x => correctRing s x.1 x.2) s) (fun p => { p with tStars := [] }))

/-- R368, R372: the state in which the next thermal state is chosen: the temperatures published, and how long t_max has been low. -/
def evalPublished (s u : State) (js : List Int) : State :=
  setPower (publishTemps u js) (fun p => { p with clearUs :=
    if (hottest js).2 < 100000 then (if rgetI s Reg.tMaxMc < 100000 then p.clearUs + rget s Reg.evalPeriodUs else 0) else 0 })

section
variable {s u w : State} {ds : List (Nat × Int)} {js : List Int} {t : Int}

theorem exec_thermalEval_stays (hu : u = evalCorrected s ds) (hj : js = junctions u) (ht : t = (hottest js).2) (hw : w = evalPublished s u js)
    (hn : nextThermal s.power.thermal t = s.power.thermal) :
    exec (.thermalEval ds) s = .next (driveHeaters (mirrorModel (rset w Reg.evalPeriodUs (evalPeriod t)))) := by
  subst hu hj ht hw
  unfold evalCorrected at hn ⊢
  simp only [exec_thermalEval_eq, execThermalEval, if_pos hn, evalPublished]

theorem exec_thermalEval_moves (hu : u = evalCorrected s ds) (hj : js = junctions u) (ht : t = (hottest js).2) (hw : w = evalPublished s u js)
    (hn : nextThermal s.power.thermal t ≠ s.power.thermal) :
    exec (.thermalEval ds) s
      = .next (driveHeaters (mirrorModel (rset (enterThermal w (nextThermal s.power.thermal t)) Reg.evalPeriodUs (evalPeriod t)))) := by
  subst hu hj ht hw
  unfold evalCorrected at hn ⊢
  simp only [exec_thermalEval_eq, execThermalEval, if_neg hn, evalPublished]

theorem wThermalRelease_cooled (hs : s.power.thermal = .shutdown) (hc : 60000000 ≤ s.power.clearUs)
    (hu : u = enterThermal (emit (setPower s (fun p => { p with tripped := false, clocksOff := false, clearUs := 0 })) (.pin 1 true))
      (fallState .limit (rgetI s Reg.tMaxMc))) :
    wThermalRelease 1 s = accept (if s.reset'.pwrOk && poweredUp s then warmReset u 4 else u) := by
  subst hu
  exact if_neg (by simp [hs, hc])

theorem wThermalRelease_otherState (hs : s.power.thermal ≠ .shutdown) : wThermalRelease 1 s = (Code.valueRefused, s) := if_pos (.inr (.inl hs))

end

/-! ### The governor (R377, R378) -/

theorem exec_governorBeat_eq (s : State) (m ina : Nat) (rev : Bool) : exec (.governorBeat m ina rev) s = execGovernorBeat m ina rev s := rfl

/-- R372, R377: what a beat sets: the ballast, the current kept, and the clocks. -/
def governed (s : State) (m : Nat) (b : Frac) : State :=
  setPower s (fun p => { p with ballastMa := b, measured := (m :: p.measured).take 28, clocksOff := p.clocksOff || (p.tripped && b.num == 0) })

section
variable {s : State} {m ina : Nat} {rev : Bool} {want b : Frac}

theorem stepFaultIfRunning_idle (h : lastRunning s = false) (c k n d : Nat) : stepFaultIfRunning s c k n d = s := if_neg (by simp [h])

theorem stepFaultIfRunning_running (h : lastRunning s = true) (c k n d : Nat) : stepFaultIfRunning s c k n d = stepFault s c k n none d false := if_pos h

theorem violation_false (s : State) (i code : Nat) : violation s i code false = s := rfl

theorem violation_idle (h : lastRunning s = false) (i code : Nat) :
    violation s i code true = rinc (notice s code 0 0 s.clock.beat.toNat) (Reg.governorViolations.at i) := by
  refine (if_pos rfl).trans (stepFaultIfRunning_idle ?_ _ _ _ _)
  rwa [lastRunning_congr (s := s) (by rw [rinc_last, notice_last])]

/-- R378: until 28 beats are kept there is no slew to check; with the stored energy within its limit there is the direction of the current left. -/
theorem exec_governorBeat_fresh (hw : want = ballast (Frac.ofInt (s.power.measured.headD 0)) (modelCurrent s))
    (hb : b = (if fle want (Frac.ofInt (72 * 1000 * rget s Reg.ballastMaxA)) then want else Frac.ofInt (72 * 1000 * rget s Reg.ballastMaxA)))
    (hl : s.power.measured.length < 28) (he : rget s Reg.storedBaseMj * 2 * 10 ^ 12 + rget s Reg.storeLNh * m * m ≤ 6 * 10 ^ 15) :
    exec (.governorBeat m ina rev) s = .next (violation (governed s m b) 2 Code.reverseCurrent (rev && decide (5000 < ina))) := by
  subst hw hb
  have hkept : s.power.measured[27]? = none := List.getElem?_eq_none (by omega)
  have hstored : decide (6 * 10 ^ 15 < rget s Reg.storedBaseMj * 2 * 10 ^ 12 + rget s Reg.storeLNh * m * m) = false := decide_eq_false (Nat.not_lt.2 he)
  simp only [exec_governorBeat_eq, execGovernorBeat, hkept, hstored, violation_false, governed]

end

/-! ### Outside a Last (R374, R375) -/

theorem exec_powerWindow_eq (s : State) (mw : Int) : exec (.powerWindow mw) s = execPowerWindow mw s := rfl

/-- R375: the request of a window, as the package then applies it. -/
def windowApplied (s : State) (mw : Int) (exceeded raised : Bool) : State :=
  setPower (sampleRequest s s.power.localX (windowMean s mw)).2
    (fun y => { y with localX := (sampleRequest s s.power.localX (windowMean s mw)).1.1, capOver := exceeded, capRaised := raised })

section
variable {s : State} {mw : Int}

theorem exec_powerWindow_within (hr : lastRunning s = false) (hc : capExceeded s (windowMean s mw) = false) :
    exec (.powerWindow mw) s = .next (windowApplied s mw false false) := by
  simp only [exec_powerWindow_eq, execPowerWindow, hr, hc, Bool.false_and, Bool.false_eq_true, if_false, windowApplied]

theorem exec_powerWindow_second (hr : lastRunning s = false) (hc : capExceeded s (windowMean s mw) = true) (ho : s.power.capOver = true)
    (hn : s.power.capRaised = false) : exec (.powerWindow mw) s = .next (raiseCap (windowApplied s mw true true)) := by
  simp only [exec_powerWindow_eq, execPowerWindow, hr, hc, ho, hn, Bool.false_eq_true, if_false, Bool.not_false, Bool.and_true, Bool.or_true, if_true, windowApplied]

theorem exec_powerWindow_running (hr : lastRunning s = true) : exec (.powerWindow mw) s = .next s := congrArg _ (if_pos hr)

end

/-! ### Rails (R397) -/

theorem flashCommit_last (s : State) (p : FlashPart) : (flashCommit s p).last = s.last := by
  unfold flashCommit
  split
  · rw [notice_last]
  · rfl

/-- R397, R474: a rail fault is marked in flash, raised and counted. -/
def railRaised (s : State) (rail : Nat) : State :=
  rinc (notice (flashCommit { s with reset' := { s.reset' with marks := { s.reset'.marks with railFault := true } } } .marks) Code.railFault 9 rail 0) (Reg.railFaults.at rail)

theorem lastRunning_railRaised (s : State) (rail : Nat) : lastRunning (railRaised s rail) = lastRunning s :=
  lastRunning_congr (by rw [railRaised, rinc_last, notice_last, flashCommit_last])

section
variable {s : State} {rail : Nat} {high : Bool}

theorem exec_railFault_found (hp : s.reset'.pwrOk = true) (hn : rail < 9) (hc : rget s (Reg.railStatus.at rail) = (if high then 2 else 1)) :
    exec (.railFault rail high) s = .next (stepFaultIfRunning (railRaised s rail) Code.railFault 9 rail 0) :=
  congrArg _ (if_neg (by simp [hp, Nat.not_le.2 hn, hc]))

theorem exec_railFault_within (hc : rget s (Reg.railStatus.at rail) ≠ (if high then 2 else 1)) : exec (.railFault rail high) s = .next s :=
  congrArg _ (if_pos (.inr (.inr hc)))

end

/-- Settles O47: an evaluation by whether the thermal state moves, a beat by its current, a window by the cap, a rail by its last sample. -/
theorem heatPowerAndCurrent : Obligations.HeatPowerAndCurrent := by
  intro s u v w via ds js t mw m ina rail rev high want b
  refine ⟨fun hu hj ht hv hw hn => ?_, fun hu hj ht hv hw hn => ?_, fun hw hs hc hu => ?_, fun hw hs => ?_, fun hwant hb hl he hr => ?_,
    fun hwant hb hl hrun he hr hi => ?_, exec_powerWindow_within, exec_powerWindow_second, exec_powerWindow_running, fun hp hn hc hrun => ?_,
    fun hp hn hc hrun => ?_, exec_railFault_within⟩
  · subst hv ht
    exact exec_thermalEval_stays hu hj rfl hw hn
  · subst hv ht
    exact exec_thermalEval_moves hu hj rfl hw hn
  · rw [exec_thermalRelease_eq, doWrite_accept hw (wThermalRelease_cooled hs hc hu)]
  · rw [exec_thermalRelease_eq, doWrite_valueRefused hw (wThermalRelease_otherState hs)]
  · have hforward : (rev && decide (5000 < ina)) = false := by rcases hr with h | h <;> simp [h]
    rw [exec_governorBeat_fresh hwant hb hl he, hforward, violation_false, governed]
  · have hback : (rev && decide (5000 < ina)) = true := by simp [hr, hi]
    have hidle : lastRunning (governed s m b) = false := hrun
    rw [exec_governorBeat_fresh hwant hb hl he, hback, violation_idle hidle]
    rfl
  · rw [exec_railFault_found hp hn hc, stepFaultIfRunning_idle (by rwa [lastRunning_railRaised]), railRaised]
  · rw [exec_railFault_found hp hn hc, railRaised]

end Sys2Proof.Machine

namespace Sys2Proof.Machine

/-! ### Flits of a welt (R387, R388) -/

theorem exec_weltFlitReceived_eq (s : State) (d p : Nat) (f : WeltFlit) : exec (.weltFlitReceived d p f) s = execWeltFlitReceived d p f s := rfl

theorem carries_inService {w : Welt} (h : w.state = .up ∨ w.state = .degraded) : w.carries = true := by
  rcases h with h | h <;> simp [Welt.carries, h]

theorem carries_training {w : Welt} (h : w.state = .training) : w.carries = false := by simp [Welt.carries, h]

section
variable {s : State} {d p : Nat} {f : WeltFlit}

theorem exec_weltFlitReceived_next (hw : (welt s d p).carries = true) (hc : crc32c (wfBody f.words) = wfCrc f) (hq : wfSeq f = (welt s d p).rxSeq) :
    exec (.weltFlitReceived d p f) s
      = .next (weltTake (onWeltAck (setWelt s d p (fun w => { w with rxSeq := (w.rxSeq + 1) % 256, naking := false })) d p f) d p f) := by
  simp only [exec_weltFlitReceived_eq, execWeltFlitReceived, hw, hc, hq, Bool.not_true, Bool.false_eq_true, if_false, ne_eq, not_true_eq_false]

theorem exec_weltFlitReceived_badCrc (hw : (welt s d p).carries = true) (hc : crc32c (wfBody f.words) ≠ wfCrc f) : exec (.weltFlitReceived d p f) s
    = .next (weltSend (setWelt (rinc s (Reg.weltCrcErrors.at (16 * d + p))) d p (fun w => { w with naking := true })) d p {}) := by
  simp only [exec_weltFlitReceived_eq, execWeltFlitReceived, hw, Bool.not_true, Bool.false_eq_true, if_false, if_pos hc]

theorem exec_weltFlitReceived_repeated (hc : crc32c (wfBody f.words) = wfCrc f) (hq : wfSeq f ≠ (welt s d p).rxSeq) :
    exec (.weltFlitReceived d p f) s = .next s := by
  simp only [exec_weltFlitReceived_eq, execWeltFlitReceived, hc, ne_eq, not_true_eq_false, if_false, if_pos hq, ite_self]

theorem exec_weltFlitReceived_outOfService (hw : (welt s d p).carries = false) : exec (.weltFlitReceived d p f) s = .next s := by
  simp only [exec_weltFlitReceived_eq, execWeltFlitReceived, hw, Bool.not_false, if_true]

/-- A welt that keeps flits reads what was written to it. -/
theorem welt_setWelt {g : Welt → Welt} (hg : (g (welt s d p)).sent ≠ []) : welt (setWelt s d p g) d p = g (welt s d p) := by
  simp only [welt, setWelt] at hg ⊢
  exact tget_tmod_same _ _ _ _ (fun he => hg (congrArg Welt.sent he))

/-- R388: what the sender learns from a flit besides its NAK. -/
def ackTaken (f : WeltFlit) (w : Welt) : Welt :=
  { w with
    used := tmod 0 w.used (wfCrVc f) (· - wfCrCount f)
    acked := if ((wfAck f + 1) % 256 + 256 - w.acked) % 256 ≤ w.unacked then (wfAck f + 1) % 256 else w.acked }

/-- R389: the flit from which the sender replays, and how often its replay has failed. -/
def nakTaken (next : Nat) (w : Welt) : Welt :=
  { w with replayed := some next, failedReplays := if w.replayed = some next then w.failedReplays + 1 else 0 }

theorem onWeltAck_nak (hn : wfNak f = true) (ha : (welt s d p).sent.any (fun y => wfSeq y == (wfAck f + 1) % 256) = true) :
    onWeltAck s d p f = weltReplay (setWelt (setWelt s d p (ackTaken f)) d p (nakTaken ((wfAck f + 1) % 256))) d p ((wfAck f + 1) % 256)
      ∧ (welt (setWelt (setWelt s d p (ackTaken f)) d p (nakTaken ((wfAck f + 1) % 256))) d p).sent = (welt s d p).sent := by
  have hkept : (welt s d p).sent ≠ [] := fun he => by simp [he] at ha
  have hfirst : welt (setWelt s d p (ackTaken f)) d p = ackTaken f (welt s d p) := welt_setWelt hkept
  have hsent : (welt (setWelt s d p (ackTaken f)) d p).sent = (welt s d p).sent := by rw [hfirst, ackTaken]
  constructor
  · have hknown : (welt (setWelt s d p (ackTaken f)) d p).sent.any (fun y => wfSeq y == (wfAck f + 1) % 256) = true := by rw [hsent, ha]
    unfold ackTaken at hknown ⊢
    simp only [onWeltAck, hn, Bool.not_true, Bool.false_eq_true, if_false, hknown, if_true]
    rfl
  · rw [welt_setWelt (g := nakTaken _) (hsent ▸ hkept)]
    exact hsent

end

/-! ### Training (R389, R392) -/

theorem exec_weltTrainingDone_eq (s : State) (d p failed : Nat) (oneHalf timedOut commonRev : Bool) :
    exec (.weltTrainingDone d p failed oneHalf timedOut commonRev) s = execWeltTrainingDone d p failed oneHalf timedOut commonRev s := rfl

/-- R389, R392: how a training ends. -/
def trainedState (failed : Nat) (oneHalf timedOut commonRev : Bool) : WeltState :=
  if !commonRev || timedOut then .down else if failed ≤ 4 then .up else if failed ≤ 32 && oneHalf then .degraded else .down

/-- R389: a welt whose training has ended in a state. -/
def trained (st : WeltState) (failed : Nat) (noRev : Bool) (w : Welt) : Welt :=
  { w with
    state := st, repaired := if st = .up then failed else 0, replayed := none, failedReplays := 0
    fails := if st = .down then w.fails + 1 else 0, noRev := noRev }

/-- R389: both ends of a welt that carries flits again. -/
def weltResumeBoth (s : State) (d p : Nat) : State :=
  match weltPartner d p with
  | some q => weltResume (weltResume s d p) q.1 q.2
  | none => s

section
variable {s : State} {d p failed : Nat} {oneHalf timedOut commonRev : Bool}

theorem exec_weltTrainingDone_down (ht : (welt s d p).state = .training) (hs : trainedState failed oneHalf timedOut commonRev = .down) :
    exec (.weltTrainingDone d p failed oneHalf timedOut commonRev) s = .next (setWeltPair s d p (trained .down failed (!commonRev))) := by
  unfold trainedState at hs
  simp only [exec_weltTrainingDone_eq, execWeltTrainingDone, if_pos ht, hs, if_true]
  split <;> rfl

theorem exec_weltTrainingDone_inService {st : WeltState} (ht : (welt s d p).state = .training) (hs : trainedState failed oneHalf timedOut commonRev = st)
    (hd : st ≠ .down) : exec (.weltTrainingDone d p failed oneHalf timedOut commonRev) s
      = .next (weltResumeBoth (setWeltPair s d p (trained st failed (!commonRev))) d p) := by
  unfold trainedState at hs
  unfold trained
  cases hq : weltPartner d p <;> simp only [exec_weltTrainingDone_eq, execWeltTrainingDone, if_pos ht, hs, if_neg hd, weltResumeBoth, hq]

theorem exec_weltRetry_barred (h : (welt s d p).noRev = true ∨ diesRun s = false) : exec (.weltRetry d p) s = .next s :=
  congrArg _ (if_neg (by rcases h with h | h <;> simp [h]))

theorem exec_weltRetry_due (hd : (welt s d p).state = .down) (hn : (welt s d p).noRev = false) (hr : diesRun s = true) :
    exec (.weltRetry d p) s = .next (setWeltPair s d p (fun w => { w with state := .training })) := congrArg _ (if_pos ⟨hd, hn, hr⟩)

theorem exec_weltRetry_notDown (hd : (welt s d p).state ≠ .down) : exec (.weltRetry d p) s = .next s := congrArg _ (if_neg fun h => hd h.1)

theorem setWeltPair_last (s : State) (d p : Nat) (g : Welt → Welt) : (setWeltPair s d p g).last = s.last := by
  unfold setWeltPair
  split <;> rfl

theorem exec_weltRetrain_due (hw : (welt s d p).carries = true) (hf : 16 ≤ (welt s d p).failedReplays) : exec (.weltRetrain d p) s
    = .next (stepFaultIfRunning (setWeltPair s d p (fun w => { w with state := .training, naking := false })) 0 6 (16 * d + p) 0) :=
  congrArg _ (if_pos ⟨hw, hf⟩)

end

/-! ### Field tests and fences (R393, R394, R478) -/

theorem exec_weltSelftest_eq (s : State) (via : Via) (tile : Nat) :
    exec (.weltSelftest via tile) s = .next (doWrite s via 0x3020 5 (wWeltSelftest tile)) := rfl

theorem exec_tileFenceReq_eq (s : State) (via : Via) (tile : Nat) :
    exec (.tileFenceReq via tile) s = .next (doWrite s via 0x3000 8 (wTileFence tile)) := rfl

theorem exec_selftestDone_eq (s : State) (r : SelfTest) : exec (.selftestDone r) s = execSelftestDone r s := rfl

section
variable {s : State} {tile : Nat} {r : SelfTest}

theorem wWeltSelftest_free (hp : tile ≤ 71) (ht : s.pkg.testing = none) (hs : tileServes s tile = false) :
    wWeltSelftest tile s = accept (startSelftest s tile) := if_neg (by simp [Nat.not_lt.2 hp, ht, hs])

theorem wWeltSelftest_served (hs : tileServes s tile = true) : wWeltSelftest tile s = (Code.valueRefused, s) := if_pos (.inr (.inr hs))

theorem wTileFence_free (hp : tile ≤ 71) (hs : tileServes s tile = false) : wTileFence tile s = accept (fenceTile s tile) :=
  if_neg (by simp [Nat.not_lt.2 hp, hs])

theorem wTileFence_barred (h : 71 < tile ∨ tileServes s tile = true) : wTileFence tile s = (Code.valueRefused, s) := if_pos h

theorem exec_selftestDone_tested (ht : s.pkg.testing = some tile) :
    exec (.selftestDone r) s = .next (fenceInjectionDone (nextSelftest (endSelftest s tile r))) := by
  simp only [exec_selftestDone_eq, execSelftestDone, ht]

theorem exec_selftestDone_none (ht : s.pkg.testing = none) : exec (.selftestDone r) s = .next s := by
  simp only [exec_selftestDone_eq, execSelftestDone, ht]

/-- R394: outside the test of every die, a tile that passes is healthy and its welts retrain. -/
theorem endSelftest_passes (hb : s.reset'.boot = .ready) (hr : r = ⟨0, false, false, false, false⟩) :
    endSelftest s tile r = (List.range 4).foldl (fun s q => retrainTested s tile q)
      (rset (aliveAgain (testedTile { s with pkg := { s.pkg with testing := none } } tile true .healthy) (· == tile)) Reg.selftestResult (selftestWord tile 1 r)) := by
  subst hr
  have hdone : ¬ s.reset'.boot = .dies := by simp [hb]
  exact if_neg hdone

/-- R394, R472: outside the test of every die, a tile whose zeroisation fails is FAILED and its welts stay down. -/
theorem endSelftest_fails (hb : s.reset'.boot = .ready) (hz : r.zero = true) :
    endSelftest s tile r = (List.range 4).foldl
      (fun s q => setWeltPair s tile q (fun w => { w with state := .down, naking := false, replayed := none, failedReplays := 0 }))
      (rset (testedTile { s with pkg := { s.pkg with testing := none } } tile false .failed) Reg.selftestResult (selftestWord tile 2 r)) := by
  have hdone : ¬ s.reset'.boot = .dies := by simp [hb]
  simp only [endSelftest, hz, Bool.not_true, Bool.and_false, Bool.false_eq_true, if_false, if_neg hdone]

theorem nextSelftest_none (hn : s.pkg.testNext = []) (hb : s.reset'.boot = .ready) : nextSelftest s = s := by
  have hdone : ¬ s.reset'.boot = .dies := by simp [hb]
  simp only [nextSelftest, hn, if_neg hdone]

theorem nextSelftest_die {ts : List Nat} (hn : s.pkg.testNext = tile :: ts) (hb : s.reset'.boot = .dies) :
    nextSelftest s = { s with pkg := { s.pkg with testing := some tile, testNext := ts } } := by
  simp only [nextSelftest, hn, hb, if_true]

end

/-- Settles O48: a flit by its CRC and WSEQ, a training by its failed lanes, a test and a fence by the Last that uses the tile. -/
theorem weltsTrainAndTest : Obligations.WeltsTrainAndTest := by
  intro s via d p failed tile oneHalf f r ts
  refine ⟨fun hw hc hq => ?_, fun hw hc => exec_weltFlitReceived_badCrc (carries_inService hw) hc,
    fun hn _ _ ha => ⟨_, (onWeltAck_nak hn ha).1, (onWeltAck_nak hn ha).2, rfl⟩, fun _ => exec_weltFlitReceived_repeated,
    fun ht => exec_weltFlitReceived_outOfService (carries_training ht), fun ht hf => ?_, fun ht h4 h32 => ?_, fun ht hf => ?_, fun ht => ?_, fun ht => ?_,
    fun _ => exec_weltRetry_barred, exec_weltRetry_due, exec_weltRetry_notDown, fun hu hf hr => ?_, fun hu hf hr => ?_, fun hw hp ht hs => ?_, fun hw hs => ?_,
    fun ht _ hb hr => ⟨_, exec_selftestDone_tested ht, endSelftest_passes hb hr⟩, fun ht hb hz => ⟨_, exec_selftestDone_tested ht, endSelftest_fails hb hz⟩,
    nextSelftest_none, nextSelftest_die, exec_selftestDone_none, fun hw hp hs => ?_, fun hw h => ?_⟩
  · exact exec_weltFlitReceived_next (carries_inService hw) hc hq
  · exact exec_weltTrainingDone_inService ht (by simp [trainedState, hf]) (by decide)
  · exact exec_weltTrainingDone_inService ht (by simp [trainedState, Nat.not_le.2 h4, h32]) (by decide)
  · refine exec_weltTrainingDone_down ht ?_
    rcases hf with h | ⟨h4, hh⟩
    · simp [trainedState, Nat.not_le.2 h, Nat.not_le.2 (Nat.lt_trans (by decide : 4 < 32) h)]
    · simp [trainedState, Nat.not_le.2 h4, hh]
  · exact exec_weltTrainingDone_down ht (by simp [trainedState])
  · exact exec_weltTrainingDone_down ht (by simp [trainedState])
  · rw [exec_weltRetrain_due (carries_inService (.inl hu)) hf, stepFaultIfRunning_idle (by rwa [lastRunning_congr (setWeltPair_last _ _ _ _)])]
  · rw [exec_weltRetrain_due (carries_inService (.inl hu)) hf, stepFaultIfRunning_running (by rwa [lastRunning_congr (setWeltPair_last _ _ _ _)])]
  · rw [exec_weltSelftest_eq, doWrite_accept hw (wWeltSelftest_free hp ht hs)]
  · rw [exec_weltSelftest_eq, doWrite_valueRefused hw (wWeltSelftest_served hs)]
  · rw [exec_tileFenceReq_eq, doWrite_accept hw (wTileFence_free hp hs)]
  · rw [exec_tileFenceReq_eq, doWrite_valueRefused hw (wTileFence_barred h)]

end Sys2Proof.Machine

namespace Sys2Proof.Machine

/-! ### A package that is held, but has no power (R399, R465) -/

theorem exec_rstNRelease_unpowered {s : State} (h : s.reset'.pwrOk = false) (us : Nat) : exec (.rstNRelease us) s = .next s :=
  congrArg _ (if_neg (by simp [h]))

@[simp] theorem allWelts_reset' (s : State) (x : WeltState) : (allWelts s x).reset' = s.reset' :=
  foldl_keeps _ State.reset' (fun b i => setWelt_reset' b (i / 16) (i % 16) _) _ _

/-- R468: the dies that start are held no more. -/
theorem startDies_held (s : State) : (startDies s).reset'.held = false := by
  unfold startDies
  dsimp only
  split <;> rw [allWelts_reset'] <;> rfl

/-- A package that is held while PWR_OK is low. -/
def heldUnpowered : State := { State.reset with reset' := { State.reset.reset' with held := true } }

/-- Refutes O49: its clause of RST_N_RELEASE starts the dies of every package that is held, and RST_N_RELEASE leaves one without PWR_OK as it was. -/
theorem not_resetsAndBringUp : ¬ Obligations.ResetsAndBringUp := by
  intro h
  obtain ⟨-, -, hrelease, -⟩ := h heldUnpowered heldUnpowered (.mgmt 0) 0 0 0 0 [] [] [] ⟨[], false, 0, 0, []⟩ none
  have hunpowered : exec (.rstNRelease 0) heldUnpowered = .next heldUnpowered := exec_rstNRelease_unpowered rfl 0
  have hstarted : startDies (rset heldUnpowered Reg.resetWritebackUs 0) = heldUnpowered :=
    Host.Outcome.next.inj ((hrelease rfl).symm.trans hunpowered)
  have hheld : heldUnpowered.reset'.held = false := hstarted ▸ startDies_held _
  exact absurd hheld (by decide)

end Sys2Proof.Machine

namespace Sys2Proof.Machine

/-! ### The peer set (R410) -/

theorem exec_peerSetWrite_eq (s : State) (via : Via) (v : List Byte) :
    exec (.peerSetWrite via v) s = .next (doWrite s via 0x5000 5 (wPeerSet v)) := rfl

/-- R410: the sealed lanes whose partner a peer set leaves out. -/
def lanesLeftOut (s : State) (v : List Byte) : List Nat :=
  (sealedLanes s).filter (fun l => !(match lanePartner (tget {} s.lanes l) with | some c => (peersOf v).contains c | none => false))

/-- R410: the peer set in force, and the lanes it leaves out in WAIT. -/
def peersTaken (s : State) (v : List Byte) : State :=
  (lanesLeftOut s v).foldl (fun s l => laneGo s (l / 32) (l % 32) .wait 0)
    { s with tenancy := { s.tenancy with vals := { s.tenancy.vals with peers := peersOf v } } }

section
variable {s : State} {v : List Byte}

theorem wPeerSet_active (hl : v.length = 512) (ha : s.tenancy.state = .active) (hn : lastArmed s = false) (hp : peersValid s (peersOf v) = true) :
    wPeerSet v s = accept (peersTaken s v) := by
  have hopen : ¬ (s.tenancy.state ≠ .active ∨ lastArmed s = true ∨ peersValid s (peersOf v) = false) := by simp [ha, hn, hp]
  rw [wPeerSet, if_neg (by simp [hl])]
  exact if_neg hopen

theorem wPeerSet_inactive (hl : v.length = 512) (ha : s.tenancy.state ≠ .active) : wPeerSet v s = (Code.valueRefused, s) := by
  simp only [wPeerSet, hl, ne_eq, not_true_eq_false, if_false, if_pos (Or.inl ha : s.tenancy.state ≠ .active ∨ _), refuse]

end

/-! ### The change of tenancy (R411, R413, R414) -/

theorem exec_tenantChange_eq (s : State) (via : Via) (v : List Byte) :
    exec (.tenantChange via v) s = .next (doWrite s via 0x5000 4 (wTenantChange v)) := rfl

theorem exec_tenantChangeComplete_eq (s : State) (us : Nat) : exec (.tenantChangeComplete us) s = execTenantChangeComplete us s := rfl

theorem flashCommit_tenancy (s : State) (p : FlashPart) : (flashCommit s p).tenancy = s.tenancy := by
  unfold flashCommit
  split
  · rw [notice_tenancy]
  · rfl

section
variable {s : State} {v : List Byte} {c : TenVals} {us : Nat}

/-- R411: a change whose values are valid, that no Last stops: a Last that runs is faulted first. -/
theorem wTenantChange_starts (hl : v.length = 520) (hc : clearing s = false) (hf : s.tenancy.state ≠ .failed) (hv : changeVals s v = some c)
    (hb : (lastBusy s && !bit (wordAt v 0) 29) = false) :
    wTenantChange v s = accept (flashCommit (runChange (if lastRunning s then stepFault s 0 0 0 none 0 false else s) c) .tenancy) := by
  simp only [wTenantChange, hl, ne_eq, not_true_eq_false, if_false, hc, hf, Bool.false_eq_true, false_and, or_self, hv, hb]

theorem wTenantChange_busy (hl : v.length = 520) (hc : clearing s = false) (hf : s.tenancy.state ≠ .failed) (hv : changeVals s v = some c)
    (hb : lastBusy s = true) (hforce : bit (wordAt v 0) 29 = false) : wTenantChange v s = (Code.valueRefused, s) := by
  simp only [wTenantChange, hl, ne_eq, not_true_eq_false, if_false, hc, hf, Bool.false_eq_true, false_and, or_self, hv, hb, hforce, Bool.not_false,
    Bool.and_true, if_true, refuse]

theorem exec_tenantChangeComplete_due (hx : s.tenancy.change = some c) (hc : clearing s = true) (hz : s.tenancy.zeroising = []) (hs : s.tenancy.scrubbing = false)
    (hb : s.reset'.boot = .ready ∨ s.reset'.boot = .excluded) (hh : s.reset'.held = false) :
    exec (.tenantChangeComplete us) s = .next (finishChange s c us) := by
  have hup : (s.reset'.boot == .ready || s.reset'.boot == .excluded) = true := by simpa using hb
  simp only [exec_tenantChangeComplete_eq, execTenantChangeComplete, hx, hc, hz, hs, hup, hh, List.isEmpty_nil, Bool.not_false, Bool.and_self, if_true]

theorem exec_tenantChangeComplete_none (hx : s.tenancy.change = none) : exec (.tenantChangeComplete us) s = .next s := by
  simp only [exec_tenantChangeComplete_eq, execTenantChangeComplete, hx]

theorem exec_tenantChangeComplete_early (hx : s.tenancy.change = some c)
    (h : s.reset'.held = true ∨ s.tenancy.scrubbing = true ∨ s.tenancy.zeroising ≠ []) : exec (.tenantChangeComplete us) s = .next s := by
  have hz : s.tenancy.zeroising ≠ [] → s.tenancy.zeroising.isEmpty = false := by simp
  simp only [exec_tenantChangeComplete_eq, execTenantChangeComplete, hx]
  rcases h with h | h | h <;> simp [h, hz]

/-- R413: what a change that is complete leaves of the tenancy. -/
theorem finishChange_tenancy (s : State) (c : TenVals) (us : Nat) : (finishChange s c us).tenancy.change = none
    ∧ (finishChange s c us).tenancy.vals = c ∧ (finishChange s c us).tenancy.state = (if c.id = 0 then .vacant else .active) := by
  rw [finishChange, flashCommit_tenancy]
  exact ⟨rfl, rfl, rfl⟩

end

/-! ### Firmware (R417, R418) -/

theorem exec_fwImageStage_eq (s : State) (via : Via) (img : FwImage) :
    exec (.fwImageStage via img) s = .next (doWrite s via 0x5000 0x1A (wImageStage img)) := rfl

theorem exec_fwActivate_eq (s : State) (via : Via) (v : Nat) : exec (.fwActivate via v) s = .next (doWrite s via 0x5000 0x1C (wActivate v)) := rfl

theorem exec_fwActivationDone_eq (s : State) (cs : List (List Byte)) : exec (.fwActivationDone cs) s = execFwActivationDone cs s := rfl

theorem exec_fwRollbackCommit_eq (s : State) (via : Via) (v : Nat) :
    exec (.fwRollbackCommit via v) s = .next (doWrite s via 0x5000 0xA (wRollbackCommit v)) := rfl

section
variable {s : State} {img : FwImage} {cs : List (List Byte)}

theorem wImageStage_accepted (hf : s.tenancy.fw ≠ .activating) (hi : imageOk s img = true) (hp : prefers (runSvn s) (runBuild s) img = true) :
    wImageStage img s = accept { s with
      tenancy := { s.tenancy with fw := .staged, stagedImg := some img }
      reset' := { s.reset' with flash := { s.reset'.flash with images := tput s.reset'.flash.images (standbyBank s) img } } } := by
  simp only [wImageStage, if_neg hf, hi, hp, Bool.and_self, if_true]

theorem wImageStage_rejected (hf : s.tenancy.fw ≠ .activating) (hi : imageOk s img = false) :
    wImageStage img s = (Code.valueRefused, { s with tenancy := { s.tenancy with fw := .rejected } }) := by
  simp only [wImageStage, if_neg hf, hi, Bool.false_and, Bool.false_eq_true, if_false]

theorem wActivate_staged (hl : lastArmed s = false) (hc : clearing s = false) (hi : s.tenancy.stagedImg = some img) (hf : s.tenancy.fw = .staged) :
    wActivate 1 s = accept { s with tenancy := { s.tenancy with fw := .activating } } := if_neg (by simp [hl, hc, hi, hf])

theorem wActivate_none (hi : s.tenancy.stagedImg = none) : wActivate 1 s = (Code.valueRefused, s) := if_pos (by simp [hi])

theorem exec_fwActivationDone_activating (hf : s.tenancy.fw = .activating) (hi : s.tenancy.stagedImg = some img) :
    exec (.fwActivationDone cs) s = .next (runImage (endEverySession (resumeMirror s)) img cs) := by
  simp only [exec_fwActivationDone_eq, execFwActivationDone, hf, hi]

theorem wRollbackCommit_idle (hs : s.tenancy.fw ≠ .staged) (ha : s.tenancy.fw ≠ .activating) : wRollbackCommit 1 s
    = accept { s with tenancy := { s.tenancy with blown := some (max (fusedNow s) (runSvn s)) } } := if_neg (by simp [hs, ha])

end

/-! ### Every session ends (R453) -/

theorem abandonSeg_sessions (s : State) (id reason : Nat) : (abandonSeg s id reason).mgmt.sessions = s.mgmt.sessions := by
  simp only [abandonSeg, rinc_mgmt, dropSeg]

theorem abandonAll_sessions (s : State) (which : Seg → Bool) (reason : Nat) : (abandonAll s which reason).mgmt.sessions = s.mgmt.sessions := by
  unfold abandonAll
  exact foldl_keeps (fun (s : State) (g : Seg) => abandonSeg s g.id reason) (fun t : State => t.mgmt.sessions) (fun s g => abandonSeg_sessions s g.id reason) _ _

theorem endDtls_sessions (s : State) (n : Nat) : (endDtls s n).mgmt.sessions = tdel s.mgmt.sessions n := by
  simp only [endDtls, abandonAll_sessions]

/-- The sessions of a table's keys end one by one until none is left. -/
theorem foldl_endDtls_sessions (l : Tab Dtls) : ∀ s : State, s.mgmt.sessions = l → ((l.map (·.1)).foldl endDtls s).mgmt.sessions = [] := by
  induction l with
  | nil => exact fun _ h => h
  | cons x l ih =>
    intro s hs
    refine ih _ ?_
    rw [endDtls_sessions, hs, tdel, if_pos rfl]

theorem endEverySession_sessions (s : State) : (endEverySession s).mgmt.sessions = [] := by
  rw [endEverySession, abandonAll_sessions]
  exact foldl_endDtls_sessions _ s rfl

/-! ### Attestation (R421) -/

theorem exec_attestNonce_eq (s : State) (via : Via) (v : List Byte) : exec (.attestNonce via v) s = .next (doWrite s via 0x5000 0xC (wNonce v)) := rfl

theorem exec_attestReportReady_eq (s : State) : exec .attestReportReady s = execAttestReportReady s := rfl

section
variable {s : State} {v : List Byte}

theorem wNonce_kept (hl : v.length = 32) : wNonce v s = accept { s with tenancy := { s.tenancy with nonce := some v } } := if_neg (by simp [hl])

theorem wNonce_length (hl : v.length ≠ 32) : wNonce v s = (Code.lengthMismatch, s) := if_pos hl

theorem exec_attestReportReady_due (hn : s.tenancy.nonce = some v) : exec .attestReportReady s = .next { s with tenancy := { s.tenancy with
    nonce := none, report := reportBody s v ++ padTo 96 (Config.sign (sha384 (reportBody s v))) } } := by
  simp only [exec_attestReportReady_eq, execAttestReportReady, hn]

theorem exec_attestReportReady_none (hn : s.tenancy.nonce = none) : exec .attestReportReady s = .next s := by
  simp only [exec_attestReportReady_eq, execAttestReportReady, hn]

end

/-- Settles O50: a peer set by the tenancy, a change by its values and the Last, its end by what is still under way, an image by whether it is accepted,
a nonce by its length. -/
theorem tenancyAndFirmware : Obligations.TenancyAndFirmware := by
  intro s via v c img cs us
  refine ⟨fun hw hl ha hn hp => ?_, fun hw hl ha => ?_, fun hw hl hc hf hv hb hr => ?_, fun hw hl hc hf hv hb hforce => ?_, fun hw hl hc hf hv hr hforce => ?_,
    fun hx hc hz hs hb hh => ?_, exec_tenantChangeComplete_none, exec_tenantChangeComplete_early, fun hw hf hi hp => ?_, fun hw hf hi => ?_,
    fun hw hl hc hi hf => ?_, fun hw hi => ?_, fun hf hi => ?_, fun hw hs ha => ?_, fun hw hl => ?_, fun hw hl => ?_, exec_attestReportReady_due,
    exec_attestReportReady_none⟩
  · rw [exec_peerSetWrite_eq, doWrite_accept hw (wPeerSet_active hl ha hn hp)]
    rfl
  · rw [exec_peerSetWrite_eq, doWrite_valueRefused hw (wPeerSet_inactive hl ha)]
  · rw [exec_tenantChange_eq, doWrite_accept hw (wTenantChange_starts hl hc hf hv (by rw [hb, Bool.false_and])), hr, if_neg Bool.false_ne_true]
  · rw [exec_tenantChange_eq, doWrite_valueRefused hw (wTenantChange_busy hl hc hf hv hb hforce)]
  · rw [exec_tenantChange_eq, doWrite_accept hw (wTenantChange_starts hl hc hf hv (by rw [hforce, Bool.not_true, Bool.and_false])), hr, if_pos rfl]
  · exact ⟨_, exec_tenantChangeComplete_due hx hc hz hs hb hh, rfl, finishChange_tenancy s c us⟩
  · rw [exec_fwImageStage_eq, doWrite_accept hw (wImageStage_accepted hf hi hp)]
  · rw [exec_fwImageStage_eq, doWrite_valueRefused hw (wImageStage_rejected hf hi)]
  · rw [exec_fwActivate_eq, doWrite_accept hw (wActivate_staged hl hc hi hf)]
  · rw [exec_fwActivate_eq, doWrite_valueRefused hw (wActivate_none hi)]
  · exact ⟨_, exec_fwActivationDone_activating hf hi, rfl, rfl, rfl, endEverySession_sessions _⟩
  · rw [exec_fwRollbackCommit_eq, doWrite_accept hw (wRollbackCommit_idle hs ha)]
  · rw [exec_attestNonce_eq, doWrite_accept hw (wNonce_kept hl)]
  · rw [exec_attestNonce_eq, doWrite_refusal hw (by rw [wNonce_length hl]; rfl), wNonce_length hl]

end Sys2Proof.Machine

namespace Sys2Proof.Machine

/-! ### Key slots (R422 to R426) -/

theorem exec_keySlotWrite_eq (s : State) (via : Via) (v : List Byte) :
    exec (.keySlotWrite via v) s = .next (doWrite s via 0x5000 0x11 (wKeySlot v)) := rfl

theorem exec_keySlotErase_eq (s : State) (via : Via) (slot : Nat) :
    exec (.keySlotErase via slot) s = .next (doWrite s via 0x5000 0x12 (wKeyErase slot)) := rfl

theorem exec_pendingKeyReplace_eq (s : State) (slot : Nat) : exec (.pendingKeyReplace slot) s = execPendingKeyReplace slot s := rfl

/-- R423 to R426: what an envelope of an image key that breaks no rule of its form does, by the key it wraps. -/
def imageKeyTaken (s : State) (slot : Nat) : Option (List Byte) → Nat × State
  | none => refuse s Code.keyUnwrapFail
  | some key => if (keySlot s slot).state = .pending ∨ 0 < slotRefs s slot
      then (Code.keyBusyDeferred, setKey s slot (fun k => { k with state := .pending, newPurpose := purposeImage, newKey := padTo 32 key }))
      else accept (loadKey s slot purposeImage (padTo 32 key))

section
variable {s : State} {v : List Byte} {slot : Nat}

theorem wKeySlot_image (hl : v.length = 176) (hs : fld (wordAt v 0) 63 58 = slot) (hp : fld (wordAt v 0) 57 56 = 0) (hr : fld (wordAt v 0) 55 0 = 0)
    (hz : (v.drop 129).take 7 = zeros 7) :
    wKeySlot v s = imageKeyTaken s slot (if (wordAt v 1).toNat = Config.serial then unwrapKey v else none) := by
  have hform : ¬ (fld (wordAt v 0) 55 0 ≠ 0 ∨ (v.drop 129).take 7 ≠ zeros 7 ∨ fld (wordAt v 0) 57 56 = 3) := by simp [hr, hz, hp]
  have hcount : ¬ ((fld (wordAt v 0) 57 56 = purposeFabric ∧ 2 ≤ purposeCount s slot purposeFabric)
      ∨ (fld (wordAt v 0) 57 56 = purposeExport ∧ 1 ≤ purposeCount s slot purposeExport)) := by simp [hp]
  simp only [wKeySlot, hl, ne_eq, not_true_eq_false, if_false, hs]
  rw [if_neg hform, if_neg hcount, hp]
  by_cases hserial : (wordAt v 1).toNat = Config.serial
  · simp only [hserial, not_true_eq_false, if_false, if_true]
    cases unwrapKey v <;> rfl
  · simp only [hserial, not_false_eq_true, if_true, if_false, imageKeyTaken]

/-- R423: how an envelope is answered: by whether its key is taken, deferred or not unwrapped. -/
def imageKeyAnswered (s : State) (via : Via) (slot : Nat) : Option (List Byte) → State
  | none => answer s via 2 0x5000 0x11 Code.keyUnwrapFail
  | some key => if (keySlot s slot).state = .pending ∨ 0 < slotRefs s slot
      then written (setKey s slot (fun k => { k with state := .pending, newPurpose := 0, newKey := padTo 32 key })) via 0x5000 0x11 Code.keyBusyDeferred
      else written (loadKey s slot 0 (padTo 32 key)) via 0x5000 0x11 Code.ok

theorem doWrite_imageKeyTaken {via : Via} {act : State → Nat × State} {o : Option (List Byte)} (hw : Writable s via 0x5000 0x11)
    (ha : act s = imageKeyTaken s slot o) : doWrite s via 0x5000 0x11 act = imageKeyAnswered s via slot o := by
  rw [doWrite_writable hw, ha]
  cases o with
  | none => rfl
  | some key =>
    simp only [imageKeyTaken, imageKeyAnswered]
    split <;> rfl

theorem wKeyErase_image (hs : slot ≤ 63) (hi : s.tenancy.install = none) (hp : (keySlot s slot).purpose = purposeImage) :
    wKeyErase slot s = accept { s with tenancy := { s.tenancy with keys := tdel s.tenancy.keys slot } } := by
  have hexport : ¬ purposeImage = purposeExport := by decide
  have hfabric : ¬ purposeImage = purposeFabric := by decide
  simp only [wKeyErase, if_neg (Nat.not_lt.2 hs), hi, hp, hexport, hfabric, and_false, if_false]

theorem wKeyErase_outOfRange (hs : 63 < slot) : wKeyErase slot s = (Code.valueRefused, s) := if_pos hs

/-! ### A pending key (R423) -/

theorem exec_pendingKeyReplace_due (hp : (keySlot s slot).state = .pending) (hr : slotRefs s slot = 0) : exec (.pendingKeyReplace slot) s
    = .next (if exportWaits (replacePending s slot) then replacePending s slot
      else (replacePending s slot).mgmt.waiting.foldl (fun s x => runMgmt s x.1 x.2)
        { replacePending s slot with mgmt := { (replacePending s slot).mgmt with waiting := [] } }) :=
  congrArg _ (if_neg (by simp [hp, hr]))

theorem exec_pendingKeyReplace_held (hr : 0 < slotRefs s slot) : exec (.pendingKeyReplace slot) s = .next s := congrArg _ (if_pos (.inr hr))

theorem replacePending_image (hp : (keySlot s slot).newPurpose = purposeImage) (hi : s.tenancy.install = none) :
    replacePending s slot = loadKey s slot purposeImage (keySlot s slot).newKey := by
  have hkept : (loadKey s slot purposeImage (keySlot s slot).newKey).tenancy.install = none := hi
  simp only [replacePending, hp, hkept]

/-- With no request that waits, serving those that wait leaves the state. -/
theorem serveWaiting_none {t : State} (h : t.mgmt.waiting = []) :
    t.mgmt.waiting.foldl (fun s x => runMgmt s x.1 x.2) { t with mgmt := { t.mgmt with waiting := [] } } = t := by
  rw [h, List.foldl_nil, ← h]

end

/-! ### Installs (R428, R429) -/

theorem exec_sealInstall_eq (s : State) (via : Via) (v : List Byte) :
    exec (.sealInstall via v) s = .next (doWrite s via 0x5000 0x14 (wInstall v)) := rfl

theorem exec_installDone_eq (s : State) : exec .installDone s = execInstallDone s := rfl

section
variable {s t : State} {v : List Byte} {i j : Install}

theorem wInstall_loaded (hl : v.length = 40) (hi : s.tenancy.install = none) (hr : fld (wordAt v 0) 57 0 = 0)
    (hs : (keySlot s (fld (wordAt v 0) 63 58)).state = .loaded) (hp : (keySlot s (fld (wordAt v 0) 63 58)).purpose = purposeImage)
    (hsrc : (wordAt v 2).toNat % 64 = 0) (hdst : (wordAt v 3).toNat % 64 = 0) :
    wInstall v s = accept (startInstall s { slot := fld (wordAt v 0) 63 58, imageId := (wordAt v 1).toNat, src := (wordAt v 2).toNat, dst := (wordAt v 3).toNat, plain := (wordAt v 4).toNat }) := by
  have hfree : ¬ (s.tenancy.install.isSome = true ∨ fld (wordAt v 0) 57 0 ≠ 0) := by simp [hi, hr]
  have haligned : ¬ ((wordAt v 2).toNat % 64 ≠ 0 ∨ (wordAt v 3).toNat % 64 ≠ 0) := by simp [hsrc, hdst]
  simp only [wInstall, hl, ne_eq, not_true_eq_false, if_false, hs, hp, reduceCtorEq]
  rw [if_neg hfree, if_neg haligned]

theorem wInstall_empty (hl : v.length = 40) (hi : s.tenancy.install = none) (hr : fld (wordAt v 0) 57 0 = 0)
    (hs : (keySlot s (fld (wordAt v 0) 63 58)).state = .empty) : wInstall v s = accept (rset s Reg.installStatus (installWord 2 Code.keyRevoked 0)) := by
  have hfree : ¬ (s.tenancy.install.isSome = true ∨ fld (wordAt v 0) 57 0 ≠ 0) := by simp [hi, hr]
  simp only [wInstall, hl, ne_eq, not_true_eq_false, if_false, hs, if_true]
  rw [if_neg hfree]

theorem exec_installDone_goes (hi : s.tenancy.install = some i) (hw : i.waiting = false) (hh : i.held = false)
    (ht : t = installGo (chunkCount i.plain) i.requests s) (hj : t.tenancy.install = some j) :
    exec .installDone s = .next (if j.held then t else endInstall t j) := by
  subst ht
  simp only [exec_installDone_eq, execInstallDone, hi, hw, hh, Bool.or_self, Bool.false_eq_true, if_false, hj]

theorem exec_installDone_waits (hi : s.tenancy.install = some i) (h : i.waiting = true ∨ i.held = true) : exec .installDone s = .next s := by
  have hwaits : (i.waiting || i.held) = true := by simpa using h
  simp only [exec_installDone_eq, execInstallDone, hi, hwaits, if_true]

theorem exec_installDone_none (hi : s.tenancy.install = none) : exec .installDone s = .next s := by
  simp only [exec_installDone_eq, execInstallDone, hi]

end

/-! ### Sealed lanes (R431 to R433) -/

theorem exec_sealStart_eq (s : State) (e k : Nat) (pl : List Word) : exec (.sealStart e k pl) s = execSealStart e k pl s := rfl

theorem exec_sealTag_eq (s : State) (e k : Nat) (w0 w1 : Word) (pl : List Word) : exec (.sealTag e k w0 w1 pl) s = execSealTag e k w0 w1 pl s := rfl

theorem exec_sealTagTimeout_eq (s : State) (e k w : Nat) : exec (.sealTagTimeout e k w) s = execSealTagTimeout e k w s := rfl

section
variable {s : State} {e k w : Nat} {pl : List Word} {w0 w1 : Word} {n : Nat × List Byte}

theorem exec_sealStart_serving (hp : fld (nth pl 0) 63 56 = 2) (ht : (lane s e k).train = .serve) (hs : laneSealed s (lane s e k) = true) :
    exec (.sealStart e k pl) s = .next (takeSeal
      (setLane s e k (fun l => { l with sealPos := 0, sealIn := 0, sealHeld := [], sealRxWin := [], sealTags := [], sealRaw := [] })) e k
      (wordAt (bytesOf pl) 1).toNat (((bytesOf pl).drop 16).take 16)) := by
  have hserving : ¬ ((lane s e k).train ≠ .serve ∨ laneSealed s (lane s e k) = false) := by simp [ht, hs]
  simp only [exec_sealStart_eq, execSealStart, hp, ne_eq, not_true_eq_false, if_false, onSealStart]
  rw [if_neg hserving]

theorem exec_sealStart_notServing (ht : (lane s e k).train ≠ .serve) : exec (.sealStart e k pl) s = .next s := by
  have hidle : onSealStart s e k 0 (bytesOf pl) = s := if_pos (.inl ht)
  simp only [exec_sealStart_eq, execSealStart, hidle, ite_self]

theorem exec_sealTag_kept (hp : fld w0 63 56 = 3) (hn : (lane s e k).sealRx = some n) (hw : (lane s e k).sealPos ≤ w1.toNat) :
    exec (.sealTag e k w0 w1 pl) s
      = .next (sealCheck sealFuel (setLane s e k (fun l => { l with sealTags := l.sealTags ++ [(w1.toNat, (bytesOf pl).take 16)] })) e k) := by
  have hopen : ¬ ((lane s e k).sealRx.isNone = true ∨ w1.toNat < (lane s e k).sealPos) := by simp [hn, hw]
  simp only [exec_sealTag_eq, execSealTag, hp, ne_eq, not_true_eq_false, if_false, onSealTag]
  rw [if_neg hopen]

theorem exec_sealTag_unsealed (hn : (lane s e k).sealRx = none) : exec (.sealTag e k w0 w1 pl) s = .next s := by
  have hidle : onSealTag s e k w1.toNat ((bytesOf pl).take 16) = s := if_pos (.inl (by simp [hn]))
  simp only [exec_sealTag_eq, execSealTag, hidle, ite_self]

/-- R433: a window that is in whole, with its tag. -/
theorem sealCheck_whole {tag : Nat × List Byte} (hn : (lane s e k).sealRx = some n)
    (ht : (lane s e k).sealTags.find? (fun x => x.1 == (lane s e k).sealPos) = some tag) (hi : 256 * ((lane s e k).sealPos + 1) ≤ (lane s e k).sealIn)
    (hm : (lane s e k).missing = []) (fuel : Nat) : sealCheck (fuel + 1) s e k =
      if windowTag n.2 (lane s e k).sealPos (((lane s e k).sealRxWin.filter (fun y => y.1 / 256 == (lane s e k).sealPos)).map (fun y => (y.1 % 256, y.2.1))) = tag.2
      then sealCheck fuel (passWindow s e k (lane s e k).sealPos) e k else sealFail s e k (lane s e k).sealPos := by
  simp only [sealCheck, hn, ht, hm, List.any_nil, Bool.or_false, decide_eq_true_eq, if_neg (Nat.not_lt.2 hi)]

/-- R433: a window that is not in whole waits, with or without its tag. -/
theorem sealCheck_partial (hi : (lane s e k).sealIn < 256 * ((lane s e k).sealPos + 1)) (fuel : Nat) : sealCheck (fuel + 1) s e k = s := by
  have hshort : decide ((lane s e k).sealIn < 256 * ((lane s e k).sealPos + 1)) = true := decide_eq_true hi
  simp only [sealCheck]
  split
  · rw [if_pos (by rw [hshort, Bool.true_or])]
  · rfl

theorem exec_sealTagTimeout_overdue (hn : (lane s e k).sealRx.isSome = true) (hw : w = (lane s e k).sealPos) (hi : 256 * (w + 3) ≤ (lane s e k).sealIn) :
    exec (.sealTagTimeout e k w) s = .next (sealFail s e k w) := by
  have hsealed : (lane s e k).sealRx.isNone = false := by simpa [Option.isSome_iff_ne_none] using hn
  exact congrArg _ (if_neg (by simp [hsealed, ← hw, Nat.not_lt.2 hi]))

theorem exec_sealTagTimeout_early (h : (lane s e k).sealIn < 256 * (w + 3) ∨ w ≠ (lane s e k).sealPos) : exec (.sealTagTimeout e k w) s = .next s :=
  congrArg _ (if_pos (.inr h.symm))

end

/-! ### Anchors (R436) -/

theorem exec_mgmtAnchorsWrite_eq (s : State) (via : Via) (as : List (List Byte)) :
    exec (.mgmtAnchorsWrite via as) s = .next (doWrite s via 0x5000 0x16 (wAnchors via as)) := rfl

section
variable {s : State} {via : Via} {as : List (List Byte)}

theorem wAnchors_certificates (hl : as.length ≤ 4) (hn : as ≠ []) (hc : as.all Config.isCertificate = true) :
    wAnchors via as s = accept (flashCommit { s with tenancy := { s.tenancy with anchors := as } } .anchors) := by
  have hall : as.any (fun c => !Config.isCertificate c) = false := by
    rw [← List.not_all_eq_any_not, hc, Bool.not_true]
  exact if_neg (by simp only [hall, Nat.not_lt.2 hl, List.isEmpty_iff, hn, Bool.false_eq_true, false_and, or_self, not_false_eq_true])

theorem wAnchors_otherBytes (hc : as.all Config.isCertificate = false) : wAnchors via as s = (Code.valueRefused, s) := by
  have hany : as.any (fun c => !Config.isCertificate c) = true := by
    rw [← List.not_all_eq_any_not, hc, Bool.not_false]
  exact if_pos (.inr (.inl hany))

theorem wAnchors_clear (ha : anchoredVia s via = false) : wAnchors via [] s = (Code.valueRefused, s) := if_pos (.inr (.inr ⟨rfl, ha⟩))

end

/-- Settles O51: an envelope by the key it wraps, a slot by its references, an install by its slot and by what waits, a window by its tag, anchors by
whether they are certificates. -/
theorem keysInstallsAndSeals : Obligations.KeysInstallsAndSeals := by
  intro s t via v slot e k w n tag w0 w1 pl i j as
  refine ⟨fun hw hl hs hp hr hz => ?_, fun hw hs hi _ hp => ?_, fun hw hs => ?_, fun hp hr hn hi hm => ?_, fun hp hr ht hx => ?_, exec_pendingKeyReplace_held,
    fun hw hl hi hr hs hp hsrc hdst => ?_, fun hw hl hi hr hs => ?_, fun hi hw hh ht hj hn => ?_, fun hi hw hh ht hj hn => ?_, exec_installDone_waits,
    exec_installDone_none, exec_sealStart_serving, exec_sealStart_notServing, fun hp hn hw hl => ?_, exec_sealTag_unsealed,
    fun hn ht hi hm => sealCheck_whole hn ht hi hm 3, fun _ hi => sealCheck_partial hi 3, exec_sealTagTimeout_overdue, exec_sealTagTimeout_early,
    fun hw hl hn => ?_, fun hw ha => ?_⟩
  · rw [exec_keySlotWrite_eq, doWrite_imageKeyTaken hw (wKeySlot_image hl hs hp hr hz)]
    rfl
  · rw [exec_keySlotErase_eq, doWrite_accept hw (wKeyErase_image hs hi hp)]
  · rw [exec_keySlotErase_eq, doWrite_valueRefused hw (wKeyErase_outOfRange hs)]
  · rw [exec_pendingKeyReplace_due hp hr, replacePending_image hn hi, serveWaiting_none (by exact hm), ite_self]
  · subst ht
    rw [exec_pendingKeyReplace_due hp hr, hx, if_neg Bool.false_ne_true]
  · rw [exec_sealInstall_eq, doWrite_accept hw (wInstall_loaded hl hi hr hs hp hsrc hdst)]
  · rw [exec_sealInstall_eq, doWrite_accept hw (wInstall_empty hl hi hr hs)]
  · rw [exec_installDone_goes hi hw hh ht hj, hn, if_neg Bool.false_ne_true]
  · rw [exec_installDone_goes hi hw hh ht hj, hn, if_pos rfl]
  · subst hw
    exact exec_sealTag_kept hp hn hl
  · rw [exec_mgmtAnchorsWrite_eq]
    split
    next hc => rw [doWrite_accept hw (wAnchors_certificates hl hn hc)]
    next hc => rw [doWrite_valueRefused hw (wAnchors_otherBytes (Bool.eq_false_iff.2 hc))]
  · rw [exec_mgmtAnchorsWrite_eq, doWrite_valueRefused hw (wAnchors_clear ha)]

end Sys2Proof.Machine

namespace Sys2Proof.Machine

/-! ### Requests by their kinds (R447) -/

theorem exec_read_eq (s : State) (via : Via) (m : Kdp) : exec (.read via m) s = .next (serve s via m kindRead) := rfl
theorem exec_describe_eq (s : State) (via : Via) (m : Kdp) : exec (.describe via m) s = .next (serve s via m kindDescribe) := rfl
theorem exec_openRead_eq (s : State) (via : Via) (m : Kdp) : exec (.openRead via m) s = .next (serve s via m kindOpenRead) := rfl
theorem exec_openWrite_eq (s : State) (via : Via) (m : Kdp) : exec (.openWrite via m) s = .next (serve s via m kindOpenWrite) := rfl

section
variable {s : State} {via : Via} {m : Kdp}

theorem runKind_read (h : m.kind = kindRead) : runKind s via m = doRead s via m := if_pos h
theorem runKind_describe (h : m.kind = kindDescribe) : runKind s via m = doDescribe s via m := by simp [runKind, h]
theorem runKind_openRead (h : m.kind = kindOpenRead) : runKind s via m = doOpenRead s via m := by simp [runKind, h]
theorem runKind_openWrite (h : m.kind = kindOpenWrite) : runKind s via m = doOpenWrite s via m := by simp [runKind, h]
theorem runKind_segRead (h : m.kind = kindSegRead) : runKind s via m = doSegRead s via m := by simp [runKind, h]
theorem runKind_segWrite (h : m.kind = kindSegWrite) : runKind s via m = doSegWrite s via m := by simp [runKind, h]
theorem runKind_close (h : m.kind = kindClose) : runKind s via m = doClose s via m := by simp [runKind, h]

/-! ### What a request does, by the refusals it meets (R440, R441, R448, R450 to R452) -/

section
variable {e : Entry} {bs : List Byte} (he : findEntry m.index m.sub = some e)
include he

theorem doRead_value (hst : entryStatus s via m.index m.sub 0 = Code.ok) (hv : readValue s via e m.index = (Code.ok, bs))
    (hn : askedBytes s via e (Code.ok, bs) ≤ 1024) :
    doRead s via m = ({ respOf m Code.ok with pending := isPending s e m.index, value := bs }, clearRead s e m.index) := by
  simp only [doRead, he, hst, hv, ne_eq, not_true_eq_false, if_false, if_neg (Nat.not_lt.2 hn)]

theorem doRead_tooLarge (hst : entryStatus s via m.index m.sub 0 = Code.ok) (hn : 1024 < askedBytes s via e (readValue s via e m.index)) :
    doRead s via m = (respOf m Code.valueTooLarge, s) := by
  simp only [doRead, he, hst, ne_eq, not_true_eq_false, if_false, if_pos hn]

theorem doRead_refused (hst : entryStatus s via m.index m.sub 0 ≠ Code.ok) :
    doRead s via m = (respOf m (entryStatus s via m.index m.sub 0), countDenied s (entryStatus s via m.index m.sub 0)) := by
  simp only [doRead, he, if_pos hst]

theorem writeValue_accepted (hst : entryStatus s via m.index m.sub 1 = Code.ok) (hl : lengthOk e m.data.length = true)
    (hu : unclaimedRefusal s via m.index m.sub = false) (hw : (writeEntry via e m.index m.data s).1 = Code.ok) :
    writeValue s via m.index m.sub m.data false = (Code.ok, logMailboxWrite (writeEntry via e m.index m.data s).2 via) := by
  have htook : tookEffect Code.ok = true := rfl
  simp only [writeValue, Bool.false_eq_true, if_false, hst, ne_eq, not_true_eq_false, he, hl, Bool.not_true, hu, hw, htook, if_true]

theorem writeValue_lengthMismatch (hst : entryStatus s via m.index m.sub 1 = Code.ok) (hl : lengthOk e m.data.length = false) :
    writeValue s via m.index m.sub m.data false = (Code.lengthMismatch, s) := by
  simp only [writeValue, Bool.false_eq_true, if_false, hst, ne_eq, not_true_eq_false, he, hl, Bool.not_false, if_true]

theorem doDescribe_found (hst : entryStatus s via m.index m.sub 4 = Code.ok) :
    doDescribe s via m = ({ respOf m Code.ok with value := bytesOf [descriptor e m.index] ++ ascii e.name }, s) := by
  simp only [doDescribe, he, hst, ne_eq, not_true_eq_false, if_false]

/-- R452: the session on a copy of the value. -/
def readSession (s : State) (via : Via) (m : Kdp) (e : Entry) (bs : List Byte) : Nat × State :=
  openSeg (clearRead s e m.index) (fun id => { id := id, via := via, key := entryKey m.index m.sub, write := false, count := bs.length, data := bs })

theorem doOpenRead_opens (hst : entryStatus s via m.index m.sub 2 = Code.ok) (hc : openCount s via < openLimit via)
    (hv : readValue s via e m.index = (Code.ok, bs)) : doOpenRead s via m
      = ({ respOf m Code.ok with pending := isPending s e m.index, session := (readSession s via m e bs).1, count := bs.length, crc := crc32c bs },
        (readSession s via m e bs).2) := by
  simp only [doOpenRead, openReadOf, he, hst, hv, ne_eq, not_true_eq_false, if_false, if_neg (Nat.not_le.2 hc), readSession]

theorem doOpenWrite_opens (hst : entryStatus s via m.index m.sub 3 = Code.ok) (hc : openCount s via < openLimit via) (hl : lengthOk e m.count = true)
    (hu : unclaimedRefusal s via m.index m.sub = false) : doOpenWrite s via m
      = ({ respOf m Code.ok with session := (openSeg s (fun id => { id := id, via := via, key := entryKey m.index m.sub, write := true, count := m.count })).1 },
        (openSeg s (fun id => { id := id, via := via, key := entryKey m.index m.sub, write := true, count := m.count })).2) := by
  simp only [doOpenWrite, he, hst, hl, hu, ne_eq, not_true_eq_false, if_false, if_neg (Nat.not_le.2 hc), Bool.not_true, Bool.false_eq_true]

theorem doOpenWrite_busy (hst : entryStatus s via m.index m.sub 3 = Code.ok) (hc : openLimit via ≤ openCount s via) :
    doOpenWrite s via m = (respOf m Code.sessionBusy, s) := by
  simp only [doOpenWrite, he, hst, ne_eq, not_true_eq_false, if_false, if_pos hc]

theorem serve_read_value (h : Requested s via m kindRead) (hst : entryStatus s via m.index m.sub 0 = Code.ok) (hv : readValue s via e m.index = (Code.ok, bs))
    (hn : askedBytes s via e (Code.ok, bs) ≤ 1024) : serve s via m kindRead
      = responded via m { respOf m Code.ok with pending := isPending s e m.index, value := bs } (clearRead s e m.index) := by
  rw [serve_requested h, runKind_read h.kind, doRead_value he hst hv hn]

theorem serve_openRead_opens (h : Requested s via m kindOpenRead) (hst : entryStatus s via m.index m.sub 2 = Code.ok) (hc : openCount s via < openLimit via)
    (hv : readValue s via e m.index = (Code.ok, bs)) : serve s via m kindOpenRead
      = responded via m { respOf m Code.ok with pending := isPending s e m.index, session := (readSession s via m e bs).1, count := bs.length, crc := crc32c bs }
        (readSession s via m e bs).2 := by
  rw [serve_requested h, runKind_openRead h.kind, doOpenRead_opens he hst hc hv]

end

/-! ### Requests for mem_read_data (R457) -/

theorem exec_memReadData_eq (s : State) (via : Via) (m : Kdp) : exec (.memReadData via m) s = execMemReadData via m s := rfl

theorem exec_memReadData_read (hi : m.index = 0x7180) (hs : m.sub = 3) (hk : m.kind = kindRead) :
    exec (.memReadData via m) s = .next (serve s via m kindRead) := by
  simp only [exec_memReadData_eq, execMemReadData, hi, hs, hk, and_self, if_true, if_neg (by decide : ¬ kindRead = kindOpenRead)]

theorem exec_memReadData_openRead (hi : m.index = 0x7180) (hs : m.sub = 3) (hk : m.kind = kindOpenRead) :
    exec (.memReadData via m) s = .next (serve s via m kindOpenRead) := by
  simp only [exec_memReadData_eq, execMemReadData, hi, hs, hk, and_self, if_true]

/-! ### Requests that are not run (R423, R445, R447, R449) -/

theorem serve_opened {kind : Nat} (ho : viaOpen s via = true) (hk : m.kind = kind) : serve s via m kind = serveMessage s via m := by
  simp only [serve, hk, ne_eq, not_true_eq_false, false_and, if_false, ho, Bool.not_true, Bool.false_eq_true]

theorem serveMessage_otherRevision (hr : m.rev ≠ 1) : serveMessage s via m = emit s (.kdp via (respOf m Code.versionUnsupported)) := by
  have herror : messageError m = Code.versionUnsupported := if_pos hr
  have hbad : Code.versionUnsupported ≠ Code.ok := by decide
  simp only [serveMessage, herror, if_pos hbad]

theorem serveMessage_mgmt {n : Nat} (he : messageError m = Code.ok) : serveMessage s (.mgmt n) m = serveMgmt s n m := by
  simp only [serveMessage, he, ne_eq, not_true_eq_false, if_false]

theorem serveMgmt_again {n : Nat} {o : Out} (hq : reqSeen (tget {} s.mgmt.sessions n) m.reqId = .again o) : serveMgmt s n m = emit s o := by
  simp only [serveMgmt, hq]

theorem serveMgmt_stale {n : Nat} (hq : reqSeen (tget {} s.mgmt.sessions n) m.reqId = .stale) :
    serveMgmt s n m = emit s (.kdp (.mgmt n) (respOf m Code.staleRequest)) := by
  simp only [serveMgmt, hq]

theorem serveMgmt_waits {n : Nat} (hq : reqSeen (tget {} s.mgmt.sessions n) m.reqId = .run) (hw : waitsExport s m = true) :
    serveMgmt s n m = holdRequest s n m := by
  simp only [serveMgmt, hq, hw, if_true]

end

/-- Settles O52: a request by its path and its own errors, its identifier, and the refusals of R441 that it meets. -/
theorem requestsAreServed : Obligations.RequestsAreServed := by
  intro s via m e bs n o he
  refine ⟨fun h hst hv hn => congrArg _ (serve_read_value he h hst hv hn), fun h hst hn => ?_, fun h hst => ?_, fun h hst hl hu hw => ?_, fun h hst hl => ?_,
    fun h hst => ?_, fun h hst hc hv => ⟨_, rfl, congrArg _ (serve_openRead_opens he h hst hc hv)⟩, fun h hst hc hl hu => ⟨_, rfl, ?_⟩, fun h hst hc => ?_,
    fun h hi hs hst hv hn => ?_, fun h hi hs hst hc hv => ⟨_, rfl, ?_⟩, fun ho hk hm hq hw => ?_, fun ho hk hr => ?_, fun ho hk hm hq => ?_,
    fun ho hk hm hq => ?_, fun ho hk => ?_⟩
  · rw [exec_read_eq, serve_requested h, runKind_read h.kind, doRead_tooLarge he hst hn]
  · rw [exec_read_eq, serve_requested h, runKind_read h.kind, doRead_refused he hst]
  · rw [exec_write_requested h, writeValue_accepted he hst hl hu hw]
  · rw [exec_write_requested h, writeValue_lengthMismatch he hst hl]
  · rw [exec_describe_eq, serve_requested h, runKind_describe h.kind, doDescribe_found he hst]
  · rw [exec_openWrite_eq, serve_requested h, runKind_openWrite h.kind, doOpenWrite_opens he hst hc hl hu]
  · rw [exec_openWrite_eq, serve_requested h, runKind_openWrite h.kind, doOpenWrite_busy he hst hc]
  · rw [exec_memReadData_read hi hs h.kind, serve_read_value he h hst hv hn]
  · rw [exec_memReadData_openRead hi hs h.kind, serve_openRead_opens he h hst hc hv]
    rfl
  · rw [exec_read_eq, serve_opened ho hk, serveMessage_mgmt hm, serveMgmt_waits hq hw, holdRequest]
  · rw [exec_read_eq, serve_opened ho hk, serveMessage_otherRevision hr]
  · rw [exec_read_eq, serve_opened ho hk, serveMessage_mgmt hm, serveMgmt_again hq]
  · rw [exec_write_eq, serve_opened ho hk, serveMessage_mgmt hm, serveMgmt_stale hq]
  · rw [exec_write_eq, serve_closed ho hk, dropRequest]

end Sys2Proof.Machine

namespace Sys2Proof.Machine

/-! ### A channel whose W1 has a reserved bit set (R454, R455) -/

/-- Where channel 0 of the mailbox stands. -/
def channelBase : Nat := 0xbbfffd0000

/-- Channel 0 with a request that waits, a CLOSE of a session that is not open, and with the reserved bit 32 of W1 set. -/
def reservedChannel : Mem :=
  ((({} : Mem).writeN channelBase (leBytes 8 1)).writeN (channelBase + 8) (leBytes 8 (2 ^ 32))).writeN (channelBase + 64)
    (leBytes 8 (2 ^ 56 + kindClose * 2 ^ 48))

/-- A READY package with that channel. -/
def reservedRung : State :=
  { State.reset with
    reset' := { State.reset.reset' with boot := .ready }
    hbm := { State.reset.hbm with mem := reservedChannel } }

/-- The request that waits there. -/
def reservedRequest : Kdp := kdpOf (mailboxMessage reservedRung 0)

/-- The state that MAILBOX_DOORBELL leaves has the reserved bits of W1 at 0: it writes SRC_CHIP and RSP_SEQ there and nothing else. -/
theorem reservedBit_cleared {t : State} (h : exec (.mailboxDoorbell 0 0) reservedRung = .next t) : t.hbm.mem.read (channelBase + 12) = 0 := by
  obtain rfl : serveChannel { reservedRung with mgmt := { reservedRung.mgmt with mailboxChip := tput reservedRung.mgmt.mailboxChip 0 0 } } 0 0 = t := by
    have hopen : viaOpen reservedRung (.mailbox 0) = true := by decide
    exact Host.Outcome.next.inj ((congrArg _ ((if_neg (by decide)).trans (if_pos hopen))).symm.trans h)
  decide +kernel

/-- Refutes O53: its clause of the channel that waits keeps bits 51:32 of W1, which R454 reserves and the model writes as 0. -/
theorem not_sessionsMoveSegments : ¬ Obligations.SessionsMoveSegments := by
  intro h
  obtain ⟨-, -, -, -, -, -, -, -, -, -, -, hserves⟩ := h reservedRung reservedRung (.mgmt 0) reservedRequest reservedRequest
    ⟨0, .mgmt 0, 0, false, 0, [], [], none⟩ ⟨0, .mgmt 0, 0, false, 0, [], [], none⟩ 0 0 channelBase 0 rfl rfl
  obtain ⟨u, r, rfl, rfl, hexec⟩ := hserves (by decide) (by decide +kernel) (by decide +kernel) rfl (by decide +kernel)
  exact absurd (reservedBit_cleared hexec) (by decide +kernel)

end Sys2Proof.Machine

namespace Sys2Proof.Machine

/-! ### ALERT_N (R459, R460) -/

theorem exec_alertAck_eq (s : State) (via : Via) (v : Nat) : exec (.alertAck via v) s = .next (doWrite s via 0x7100 0xB (wAlertAck v)) := rfl

theorem exec_alertLineEnable_eq (s : State) (via : Via) (v : Nat) (tenHigh : Bool) :
    exec (.alertLineEnable via v tenHigh) s = .next (doWrite s via 0x7100 0xD (wLineEnable v tenHigh)) := rfl

theorem exec_alertSample_eq (s : State) (high : Bool) : exec (.alertSample high) s = .next (alertSampleOp s high) := rfl

/-- R459: the alerts that an acknowledgement leaves. -/
def alertsLeft (g : Mgmt) (v : Nat) : Nat := g.alerts &&& (0xFFFFFFFF - v % 2 ^ 32)

section
variable {s : State} {v : Nat} {high : Bool}

theorem wAlertAck_high (hv : v &&& 0xFFFFFF00 = 0) (hp : s.mgmt.linePending = false) : wAlertAck v s = accept { s with mgmt := { s.mgmt with
    alerts := alertsLeft s.mgmt v, lineWanted := s.mgmt.lineWanted && alertsLeft s.mgmt v != 0 } } := by
  refine (if_neg (not_not_intro hv)).trans (congrArg accept (if_neg ?_))
  simp [hp]

theorem wAlertAck_ends (hv : v &&& 0xFFFFFF00 = 0) (hp : s.mgmt.linePending = true) (hn : alertsLeft s.mgmt v = 0) : wAlertAck v s
    = accept (emit { s with mgmt := { s.mgmt with alerts := 0, lineWanted := false, linePending := false, pendingFor := 0, sinceEnd := 0 } } (.pin 0 true)) := by
  have hwanted : (s.mgmt.lineWanted && alertsLeft s.mgmt v != 0) = false := by simp [hn]
  refine (if_neg (not_not_intro hv)).trans (congrArg accept ((if_pos ⟨hn, hp⟩).trans ?_))
  unfold alertsLeft at hn hwanted
  rw [hwanted, hn]

theorem wAlertAck_reserved (hv : v &&& 0xFFFFFF00 ≠ 0) : wAlertAck v s = (Code.reservedSet, s) := if_pos hv

theorem wLineEnable_high : wLineEnable 1 true s = accept { s with mgmt := { s.mgmt with stuck := false } } := if_neg (by decide)

theorem wLineEnable_low : wLineEnable 1 false s = (Code.valueRefused, s) := if_pos (by decide)

theorem exec_alertSample_stuck (hs : s.mgmt.stuck = true) : exec (.alertSample high) s = .next s := congrArg _ (if_pos hs)

/-- R459: a period that is due begins once the line has been high for ten samples. -/
theorem exec_alertSample_begins (hs : s.mgmt.stuck = false) (hp : s.mgmt.linePending = false) (hr : 9 ≤ s.mgmt.highRun) (ha : s.mgmt.alerts ≠ 0)
    (hw : s.mgmt.lineWanted = true) : exec (.alertSample true) s = .next (emit { s with mgmt := { s.mgmt with
      linePending := true, lineWanted := false, pendingFor := 0, highRun := 10, sinceEnd := min alertAgainSamples (s.mgmt.sinceEnd + 1) } } (.pin 0 false)) := by
  have hrun : min alertHighSamples (s.mgmt.highRun + 1) = 10 := Nat.min_eq_left (Nat.succ_le_succ hr)
  simp only [exec_alertSample_eq, alertSampleOp, hs, hp, Bool.false_eq_true, if_false, if_true, hrun]
  rw [if_pos ⟨trivial, ha, .inl hw⟩]

theorem exec_alertSample_ends (hs : s.mgmt.stuck = false) (hp : s.mgmt.linePending = true) (hd : s.mgmt.alerts = 0 ∨ 49 ≤ s.mgmt.pendingFor) :
    exec (.alertSample high) s
      = .next (emit { s with mgmt := { s.mgmt with linePending := false, pendingFor := 0, sinceEnd := 0, highRun := 0 } } (.pin 0 true)) := by
  have hdue : s.mgmt.alerts = 0 ∨ alertPendingSamples ≤ s.mgmt.pendingFor + 1 := hd.imp_right Nat.succ_le_succ
  simp only [exec_alertSample_eq, alertSampleOp, hs, hp, Bool.false_eq_true, if_false, if_true, if_pos hdue]

theorem exec_alertSample_lasts (hs : s.mgmt.stuck = false) (hp : s.mgmt.linePending = true) (ha : s.mgmt.alerts ≠ 0) (hn : s.mgmt.pendingFor < 49) :
    exec (.alertSample high) s = .next { s with mgmt := { s.mgmt with pendingFor := s.mgmt.pendingFor + 1, highRun := 0 } } := by
  have hnotDue : ¬ (s.mgmt.alerts = 0 ∨ alertPendingSamples ≤ s.mgmt.pendingFor + 1) :=
    not_or.2 ⟨ha, Nat.not_le.2 (Nat.succ_lt_succ hn)⟩
  simp only [exec_alertSample_eq, alertSampleOp, hs, hp, Bool.false_eq_true, if_false, if_true, if_neg hnotDue]

theorem exec_alertStuck_first (hs : s.mgmt.stuck = false) (hp : s.mgmt.linePending = false) : exec .alertStuck s
    = .next (rinc (notice { s with mgmt := { s.mgmt with stuck := true, lineWanted := false } } Code.alertStuck 0 0 0) Reg.alertStuckEvents) :=
  congrArg _ (if_neg (by simp [hs, hp]))

theorem exec_alertStuck_again (hs : s.mgmt.stuck = true) : exec .alertStuck s = .next s := congrArg _ (if_pos (.inl hs))

end

/-! ### NOTIFY and the management port (R435, R436, R445, R453, R461) -/

theorem exec_notify_eq (s : State) : exec .notify s = execNotify s := rfl
theorem exec_dtlsHandshake_eq (s : State) (ok : Bool) (anchor : Option (List Byte)) : exec (.dtlsHandshake ok anchor) s = execDtlsHandshake ok anchor s := rfl

section
variable {s : State} {n : Nat} {anchor : Option (List Byte)} {echo : Bool} {target : List Byte}

theorem exec_notify_one (ha : s.mgmt.alerts ≠ 0) (hn : s.mgmt.sessions.map (·.1) = [n]) : exec .notify s = .next (notifyOne s n) := by
  rw [exec_notify_eq, execNotify, if_neg ha, hn, List.foldl_cons, List.foldl_nil]

theorem exec_notify_clear (ha : s.mgmt.alerts = 0) : exec .notify s = .next s := congrArg _ (if_pos ha)

theorem exec_mgmtLinkUp_powered (hb : s.reset'.boot ≠ .off) : exec .mgmtLinkUp s = .next { s with mgmt := { s.mgmt with linkUp := true } } :=
  congrArg _ (if_neg hb)

theorem exec_mgmtLinkSyncLost_up (hl : s.mgmt.linkUp = true) :
    exec .mgmtLinkSyncLost s = .next (endAllDtls (rinc { s with mgmt := { s.mgmt with linkUp := false } } Reg.linkDowns)) := congrArg _ (if_pos hl)

theorem exec_mgmtLinkSyncLost_down (hl : s.mgmt.linkUp = false) : exec .mgmtLinkSyncLost s = .next s := congrArg _ (if_neg (by simp [hl]))

theorem exec_dtlsHandshake_letIn (hl : s.mgmt.linkUp = true) (hf : fwRuns s = true) (hc : clientOk s true anchor = true)
    (hn : (List.range 4).find? (fun n => (tget? s.mgmt.sessions n).isNone) = some n) : exec (.dtlsHandshake true anchor) s
      = .next { s with mgmt := { s.mgmt with sessions := tput s.mgmt.sessions n { anchor := anchor } } } := by
  simp only [exec_dtlsHandshake_eq, execDtlsHandshake, hl, hf, hc, hn, Bool.not_true, Bool.or_self, Bool.false_eq_true, if_false]

theorem exec_dtlsHandshake_badChain (hl : s.mgmt.linkUp = true) (hf : fwRuns s = true) :
    exec (.dtlsHandshake false anchor) s = .next (rinc s Reg.dtlsFailures) := by
  have hbarred : clientOk s false anchor = false := Bool.false_and _
  simp only [exec_dtlsHandshake_eq, execDtlsHandshake, hl, hf, hbarred, Bool.not_true, Bool.not_false, Bool.or_self, Bool.false_eq_true, if_false, if_true]

theorem exec_dtlsSessionClose_open (h : (tget? s.mgmt.sessions n).isSome = true) : exec (.dtlsSessionClose n) s = .next (endDtls s n) := congrArg _ (if_pos h)

theorem exec_dtlsSessionClose_none (h : tget? s.mgmt.sessions n = none) : exec (.dtlsSessionClose n) s = .next s := congrArg _ (if_neg (by simp [h]))

theorem exec_icmpv6Request_own (hl : s.mgmt.linkUp = true) (ha : ownAddress s target = true) : exec (.icmpv6Request target echo) s = .next (emit s (.icmp echo)) :=
  congrArg _ (if_pos (by simp [hl, ha]))

theorem exec_icmpv6Request_other (h : s.mgmt.linkUp = false ∨ ownAddress s target = false) : exec (.icmpv6Request target echo) s = .next s :=
  congrArg _ (if_neg (by rcases h with h | h <;> simp [h]))

theorem ownAddress_linkLocal : ownAddress s linkLocal = true := by simp [ownAddress]

theorem ownAddress_static (hl : s.mgmt.ipv6.length = 16) (hn : s.mgmt.ipv6.any (· != 0) = true) : ownAddress s s.mgmt.ipv6 = true := by
  have hfull : padTo 16 s.mgmt.ipv6 = s.mgmt.ipv6 := by simp [padTo, hl, zeros, List.take_of_length_le]
  simp only [ownAddress, hn, hfull, beq_self_eq_true, Bool.and_self, Bool.or_true]

end

/-- Settles O54: the line by what pends on it, the port by its link, its sessions and its addresses. -/
theorem alertsAndTheManagementPort : Obligations.AlertsAndTheManagementPort := by
  rintro s via v n anchor g high echo target rfl
  refine ⟨fun hw hv hp => ?_, fun hw hv hp hn => ?_, fun hw hv => ?_, exec_alertSample_begins, exec_alertSample_ends, exec_alertSample_lasts,
    exec_alertSample_stuck, exec_alertStuck_first, exec_alertStuck_again, fun hw => ⟨?_, ?_⟩, exec_notify_one, exec_notify_clear, exec_mgmtLinkUp_powered,
    exec_mgmtLinkSyncLost_up, exec_mgmtLinkSyncLost_down, exec_dtlsHandshake_letIn, exec_dtlsHandshake_badChain, exec_dtlsSessionClose_open,
    exec_dtlsSessionClose_none, exec_icmpv6Request_own, exec_icmpv6Request_other, ownAddress_linkLocal, ownAddress_static, rfl⟩
  · rw [exec_alertAck_eq, doWrite_accept hw (wAlertAck_high hv hp), alertsLeft]
  · rw [exec_alertAck_eq, doWrite_accept hw (wAlertAck_ends hv hp hn)]
  · rw [exec_alertAck_eq, doWrite_refusal hw (by rw [wAlertAck_reserved hv]; rfl), wAlertAck_reserved hv]
  · rw [exec_alertLineEnable_eq, doWrite_accept hw wLineEnable_high]
  · rw [exec_alertLineEnable_eq, doWrite_valueRefused hw wLineEnable_low]

end Sys2Proof.Machine

namespace Sys2Proof.Machine

/-! ### FAULT and ROLLBACK (R483, R484, R491, R492) -/

theorem exec_fault_eq (s : State) (p : Packet) : exec (.fault p) s = execFault p s := rfl
theorem exec_coordinatorRollback_eq (s : State) : exec .coordinatorRollback s = execCoordinatorRollback s := rfl
theorem exec_rollback_eq (s : State) (p : Packet) : exec (.rollback p) s = execRollback p s := rfl
theorem exec_rollbackWaitExpiry_eq (s : State) : exec .rollbackWaitExpiry s = execRollbackWaitExpiry s := rfl

section
variable {s : State} {p : Packet} {r : Run} {k : Nat}

/-- R484: a well-formed CONTROL packet of a kind is a CONTROL packet. -/
theorem kind_of_isControl {n : Nat} (h : isControl p n = true) : p.kind = kControl := by
  simp only [isControl, Bool.and_eq_true, beq_iff_eq] at h
  exact h.1.1.1

theorem exec_fault_names (hc : isControl p 4 = true) (hm : faultMatches s p = true) (hf : faultable s = true) :
    exec (.fault p) s = .next (keepPeerFault (stepFault s Code.stepFault 0 0 (some (fld (p.pay 0) 43 32)) 0 false) (peerFaultOf p)) := by
  simp only [exec_fault_eq, execFault, kind_of_isControl hc, hc, hm, hf, ne_eq, not_true_eq_false, Bool.not_true, Bool.false_eq_true, if_false, if_true]

theorem exec_fault_otherLaunch (hc : isControl p 4 = true) (hm : faultMatches s p = false) (hr : s.faults.rollback = .none) :
    exec (.fault p) s = .next (rinc s (Reg.faultCounts.at Code.stepFault)) := by
  have hnone : ¬ Rollback.none = .faulted := by decide
  simp only [exec_fault_eq, execFault, kind_of_isControl hc, hc, hm, hr, hnone, ne_eq, not_true_eq_false, Bool.not_true, Bool.false_eq_true, if_false]

/-- R492: a package that coordinates and holds the FAULT of every participant. -/
structure Coordinates (s : State) (r : Run) : Prop where
  run : s.last.run = some r
  faulted : s.faults.rollback = .faulted
  own : coordinator s r = some (ownChip s)
  all : allFaults s r = true

theorem Coordinates.acts (h : Coordinates s r) :
    ¬ (s.faults.rollback ≠ .faulted ∨ coordinator s r ≠ some (ownChip s) ∨ allFaults s r = false) := by simp [h.faulted, h.own, h.all]

theorem exec_coordinatorRollback_step (h : Coordinates s r) (hk : restartStep s r = some k) (hl : s.faults.lastS ≠ some k) :
    exec .coordinatorRollback s = .next (actRollback (sendRollback s r k false) r k (rget s Reg.stepNumber) (greatestBeat s)) := by
  simp only [exec_coordinatorRollback_eq, execCoordinatorRollback, h.run, if_neg h.acts, hk, hl, false_and, if_false]

theorem exec_coordinatorRollback_noStep (h : Coordinates s r) (hk : restartStep s r = none) :
    exec .coordinatorRollback s = .next (abandonRollback (sendRollback s r 0 true)) := by
  simp only [exec_coordinatorRollback_eq, execCoordinatorRollback, h.run, if_neg h.acts, hk]

theorem exec_coordinatorRollback_waits (hr : s.last.run = some r) (ha : allFaults s r = false) : exec .coordinatorRollback s = .next s := by
  simp only [exec_coordinatorRollback_eq, execCoordinatorRollback, hr, ha, or_true, if_true]

theorem exec_rollback_coordinator (hc : isControl p 5 = true) (hr : s.last.run = some r) (hf : s.faults.rollback = .faulted)
    (ho : coordinator s r = some p.src) : exec (.rollback p) s
      = .next (if bit (p.pay 4) 61 then abandonRollback s else actRollback s r (fld (p.pay 3) 63 32) (fld (p.pay 1) 31 0) (p.pay 5).toNat) := by
  simp only [exec_rollback_eq, execRollback, kind_of_isControl hc, hc, hr, hf, ho, ne_eq, not_true_eq_false, Bool.not_true, Bool.false_eq_true, or_self, if_false]

theorem exec_rollbackWaitExpiry_participant (hr : s.last.run = some r) (hf : s.faults.rollback = .faulted) (ho : coordinator s r ≠ some (ownChip s)) :
    exec .rollbackWaitExpiry s = .next (abandonRollback s) := by
  simp only [exec_rollbackWaitExpiry_eq, execRollbackWaitExpiry, hr, hf, ho, ne_eq, not_true_eq_false, if_false]

theorem exec_rollbackWaitExpiry_idle (hf : s.faults.rollback ≠ .faulted) : exec .rollbackWaitExpiry s = .next s := congrArg _ (if_pos hf)

end

/-! ### Restoration and replay (R491, R493, R494, R518) -/

theorem exec_restoreDone_eq (s : State) (ok : Bool) : exec (.restoreDone ok) s = execRestoreDone ok s := rfl
theorem exec_treadReplayInput_eq (s : State) : exec .treadReplayInput s = execTreadReplayInput s := rfl
theorem exec_replayEnd_eq (s : State) : exec .replayEnd s = execReplayEnd s := rfl

section
variable {s : State} {r : Run} {k chip base : Nat} {ok : Bool} {x : TreadRec}

/-- R493: what the end of a restore does, by the READs that are out and the lines that could not be read. -/
theorem exec_restoreDone_restoring (hs : s.faults.rollback = .restoring) (hr : s.faults.restore = some (k, chip, base)) : exec (.restoreDone ok) s
    = .next (if s.faults.restoreOut ≠ 0 then s else if !ok ∨ s.faults.restoreBad ≠ 0 then abandonRollback s else restored s k chip base) := by
  simp only [exec_restoreDone_eq, execRestoreDone, hs, hr]

/-- R494: what a package in REPLAYING does with the next logged input. -/
theorem exec_treadReplayInput_next (hr : s.last.run = some r) (hs : s.faults.rollback = .replaying) (hx : replayNext s r = some x) :
    exec .treadReplayInput s = .next (if !replayDue s r x || replayBlocked s x then s
      else replayRecord { s with trace := { s.trace with replayAt := x.pos + treadSize x } } r x) := by
  simp only [exec_treadReplayInput_eq, execTreadReplayInput, hr, hs, hx, ne_eq, not_true_eq_false, if_false]

theorem exec_replayEnd_past (hr : s.last.run = some r) (hs : s.faults.rollback = .replaying) (hb : r.bench = false) (hn : s.faults.faultBeat < nowSched s) :
    exec .replayEnd s = .next (rollbackInjectionDone (restartFlights { s with faults := { s.faults with rollback := .none } })) := by
  simp only [exec_replayEnd_eq, execReplayEnd, hr, hs, hb, decide_eq_true hn, ne_eq, not_true_eq_false, if_false, Bool.not_false, Bool.and_self, Bool.not_true,
    Bool.false_eq_true]

theorem exec_replayEnd_before (hr : s.last.run = some r) (hs : s.faults.rollback = .replaying) (hn : nowSched s ≤ s.faults.faultBeat) :
    exec .replayEnd s = .next s := by
  simp only [exec_replayEnd_eq, execReplayEnd, hr, hs, decide_eq_false (Nat.not_lt.2 hn), ne_eq, not_true_eq_false, if_false, Bool.and_false, Bool.not_false,
    if_true]

end

/-! ### Epochs, reports and lost peers (R480, R497, R498) -/

theorem exec_faultEpochWrite_eq (s : State) (via : Via) (v : Nat) : exec (.faultEpochWrite via v) s = .next (doWrite s via 0x7000 1 (wFaultEpoch v)) := rfl
theorem exec_faultAck_eq (s : State) (via : Via) (chip : Nat) : exec (.faultAck via chip) s = .next (doWrite s via 0x7000 2 (wFaultAck chip)) := rfl
theorem exec_reportHoldoffExpiry_eq (s : State) : exec .reportHoldoffExpiry s = execReportHoldoffExpiry s := rfl
theorem exec_peerLost_eq (s : State) (chip : Nat) : exec (.peerLost chip) s = execPeerLost chip s := rfl

/-- R497: the state under a newer fault epoch, with its log's generation begun. -/
def epochBegun (s : State) (v : Nat) : State :=
  traceGeneration (rset { s with faults := { s.faults with epochExt := extend 32 s.faults.epochExt v, held := [], reported := [], acked := [] } } Reg.faultEpoch v)
    2 (extend 32 s.faults.epochExt v)

section
variable {s : State} {v chip : Nat} {h : HeldReport}

theorem wFaultEpoch_newer (hn : newer 32 v (rget s Reg.faultEpoch) = true) :
    wFaultEpoch v s = accept (treadLog (epochBegun s v) 7 (ownChip (epochBegun s v)) 0 (extend 32 s.faults.epochExt v) []) := if_neg (by simp [hn])

theorem wFaultEpoch_older (hn : newer 32 v (rget s Reg.faultEpoch) = false) : wFaultEpoch v s = (Code.valueRefused, s) := if_pos (by simp [hn])

theorem wFaultAck_chip (hc : chip ≤ 0xF7F) : wFaultAck chip s = accept { s with faults := { s.faults with
    held := s.faults.held.filter (fun h => h.chip != chip)
    acked := if s.faults.acked.contains chip then s.faults.acked else s.faults.acked ++ [chip] } } := if_neg (Nat.not_lt.2 hc)

theorem exec_reportHoldoffExpiry_one (hh : s.faults.held = [h]) :
    exec .reportHoldoffExpiry s = .next (report { s with faults := { s.faults with held := [] } } h.code) := by
  simp only [exec_reportHoldoffExpiry_eq, execReportHoldoffExpiry, hh, List.foldl_nil, List.erase_cons_head]

theorem exec_reportHoldoffExpiry_none (hh : s.faults.held = []) : exec .reportHoldoffExpiry s = .next s := by
  simp only [exec_reportHoldoffExpiry_eq, execReportHoldoffExpiry, hh]

theorem exec_peerLost_down (hn : lanesNaming s chip ≠ [])
    (hd : ∀ l ∈ lanesNaming s chip, laneStatus s (l / 32) (reverseLane (l / 32) (l % 32)) = .down) :
    exec (.peerLost chip) s = .next (raise s { code := Code.peerLost, failed := some chip }) := by
  have hnone : (lanesNaming s chip).any (fun l => laneStatus s (l / 32) (reverseLane (l / 32) (l % 32)) != .down) = false :=
    List.any_eq_false.2 fun l hl => by simp [hd l hl]
  exact congrArg _ (if_neg (by simp [hn, hnone]))

theorem exec_peerLost_unnamed (hn : lanesNaming s chip = []) : exec (.peerLost chip) s = .next s := congrArg _ (if_pos (.inl (by simp [hn])))

end

/-- Settles O55: a packet by the launch it names, a rollback by who coordinates and what all hold, a restore by its READs, a replay by its next record and
the fault's beat, a report by what is held. -/
theorem faultsRollBack : Obligations.FaultsRollBack := by
  intro s via p r k chip base v ext x h
  refine ⟨exec_fault_names, exec_fault_otherLaunch, fun hr hf ho ha => exec_coordinatorRollback_step ⟨hr, hf, ho, ha⟩,
    fun hr hf ho ha => exec_coordinatorRollback_noStep ⟨hr, hf, ho, ha⟩, exec_coordinatorRollback_waits, fun hc hr hf ho hb => ?_, fun hc hr hf ho hb => ?_,
    exec_rollbackWaitExpiry_participant, exec_rollbackWaitExpiry_idle, fun hs hr ho hb => ?_, fun hs hr ho hb => ?_, fun hs hr ho => ?_, fun hs hr ho => ?_,
    fun hr hs hx hd hb => ?_, fun hr hs hx hd => ?_, exec_replayEnd_past, exec_replayEnd_before, fun hw hn he => ⟨epochBegun s v, ?_, ?_⟩, fun hw hn => ?_,
    fun hw hc => ?_, exec_reportHoldoffExpiry_one, exec_reportHoldoffExpiry_none, exec_peerLost_down, exec_peerLost_unnamed⟩
  · rw [exec_rollback_coordinator hc hr hf ho, if_neg (by simp [hb])]
  · rw [exec_rollback_coordinator hc hr hf ho, if_pos hb]
  · rw [exec_restoreDone_restoring hs hr, if_neg (not_not_intro ho), if_neg (by simp [hb])]
  · rw [exec_restoreDone_restoring hs hr, if_neg (not_not_intro ho), if_pos (.inr hb)]
  · rw [exec_restoreDone_restoring hs hr, if_neg (not_not_intro ho), if_pos (.inl rfl)]
  · rw [exec_restoreDone_restoring hs hr, if_pos ho]
  · rw [exec_treadReplayInput_next hr hs hx, if_neg (by simp [hd, hb])]
  · rw [exec_treadReplayInput_next hr hs hx, if_pos (by simp [hd])]
  · rw [he, epochBegun]
  · rw [exec_faultEpochWrite_eq, doWrite_accept hw (wFaultEpoch_newer hn), he]
  · rw [exec_faultEpochWrite_eq, doWrite_valueRefused hw (wFaultEpoch_older hn)]
  · rw [exec_faultAck_eq, doWrite_accept hw (wFaultAck_chip hc)]

end Sys2Proof.Machine
